-- ==== Sys2Proof/Word.lean ====
section
/-!
DEFINITION. The words of the LV9: scalar registers and addresses are 64 bits, lane containers and
FP32 patterns 32 bits, memory is bytes (R4, R82, R185).
-/
namespace Sys2Proof

/-- A scalar register, an address or a control register (R82, R330). -/
abbrev Word := BitVec 64
/-- A lane container, an element pattern or an FP32 pattern (R185, R32). -/
abbrev Half := BitVec 32
/-- One byte of memory (R4). -/
abbrev Byte := BitVec 8

end Sys2Proof
end

