-- ==== Sys2Proof/Fields.lean ====
section
/-!
DEFINITION. The operand kinds of the instructions (R56 to R76) and the arguments of the system events.
One structure per set of fields that R71 lists, so that the machine never sees a raw encoding.
-/
namespace Sys2Proof

/-! ## Operand kinds -/

/-- Operation width W of the S3 and SI formats (R60): 64, 32, 16 or 8 bits. -/
inductive Width where
  | w64 | w32 | w16 | w8
deriving DecidableEq, Repr

/-- SCOPE codes 0 to 5 (R67); 6 and 7 are refused at decode. -/
inductive Scope where
  | block | group | band | die | device | system
deriving DecidableEq, Repr

/-- Conditions of B and TWAITV (R71). -/
inductive Cond where
  | eq | ne | lt | ge | ltu | geu
deriving DecidableEq, Repr

/-- Plane mode PM (R63): truncated or guarded. -/
inductive PlaneMode where
  | trunc | guarded
deriving DecidableEq, Repr

/-- The `field` operand of HSET and HGET (R71, R111). -/
inductive ShapeField where
  | rows | cols | type | store | pitch | mrow | mcol | fmt | limit | scale | fill
deriving DecidableEq, Repr

/-- The selector of TQRY (R71, R123). -/
inductive QuerySel where
  | capw | capa | capc | capl | caplg | capl2 | reservation
deriving DecidableEq, Repr

/-- Reduction and scan operations (R71, R175). -/
inductive RedOp where
  | add | min | max | and | or | xor
deriving DecidableEq, Repr

/-- The system registers of R72. -/
inductive SysReg where
  | bid | gid | bndid | lseq | tags | ldq | stq | cpq | opq | lstat | vtype
  | capw | capa | capc | capl | caplg | capl2
  | idx (k : Fin 6)
  | tcause | tpc | tval | tinsn | tcoord | tseq
  | elg (k : Fin 8)
deriving DecidableEq, Repr

/-- The replicate sizes RSZ of a lane instruction (R74). -/
inductive RepSize where
  | r1 | r4 | r16 | r32
deriving DecidableEq, Repr

/-- What the vb operand of a lane instruction names, by FORM and RE (R74, R186). -/
inductive LaneSrc where
  | vec (r : BitVec 5)
  | rep (r : BitVec 5) (z : RepSize)
  | const (c : BitVec 5)
  | imm (i : BitVec 5)
deriving DecidableEq, Repr

/-- PRED of a lane instruction (R74): `none` is 31, unpredicated. -/
abbrev Guard := Option (Fin 24)

/-! ## Sequencer operand sets (R60 to R66, R71) -/

structure S3 where
  sd : BitVec 6
  sa : BitVec 6
  sb : BitVec 6
  w : Width
deriving DecidableEq, Repr

structure S2 where
  sd : BitVec 6
  sa : BitVec 6
  w : Width
deriving DecidableEq, Repr

structure SI where
  sd : BitVec 6
  sa : BitVec 6
  w : Width
  imm : BitVec 32
deriving DecidableEq, Repr

/-- SAMO: SZ is 32 bits when `w32` (R247). -/
structure SamoF where
  sd : BitVec 6
  sa : BitVec 6
  sb : BitVec 6
  scope : Scope
  aq : Bool
  rl : Bool
  w32 : Bool
deriving DecidableEq, Repr

structure BrF where
  cond : Cond
  sa : BitVec 6
  sb : BitVec 6
  hint : Bool
  off : BitVec 32
deriving DecidableEq, Repr

structure SaOff where
  sa : BitVec 6
  off : BitVec 32
deriving DecidableEq, Repr

structure SdImm where
  sd : BitVec 6
  imm : BitVec 32
deriving DecidableEq, Repr

structure HField where
  h : BitVec 4
  sa : BitVec 6
  field : ShapeField
deriving DecidableEq, Repr

/-- The TM fields without a second tile: TLD, TLDFF, TST and TOPT (R63, R71). -/
structure TmF where
  t : BitVec 5
  h : BitVec 4
  s : BitVec 6
  pc : BitVec 3
  pm : PlaneMode
  aq : Bool
  rl : Bool
  scope : Scope
  tag : BitVec 6
  te : Bool
  off : BitVec 15
deriving DecidableEq, Repr

/-- The TM fields with the index tile t2: TGTH, TGTH.FULL and TSCT (R71). -/
structure TmIdxF where
  t : BitVec 5
  h : BitVec 4
  s : BitVec 6
  pc : BitVec 3
  pm : PlaneMode
  aq : Bool
  rl : Bool
  scope : Scope
  tag : BitVec 6
  te : Bool
  t2 : BitVec 5
  off : BitVec 15
deriving DecidableEq, Repr

/-- The TM fields of TAMO, TGLK and TSCC (R71). PC is checked by R248, not by the decoder. -/
structure TmAmoF where
  t : BitVec 5
  h : BitVec 4
  s : BitVec 6
  pc : BitVec 3
  aq : Bool
  rl : Bool
  scope : Scope
  t2 : BitVec 5
  off : BitVec 15
deriving DecidableEq, Repr

/-- The TM fields of TWAITV: TAG holds LIM (R71, R254). -/
structure TmWaitF where
  t : BitVec 5
  h : BitVec 4
  s : BitVec 6
  aq : Bool
  scope : Scope
  lim : BitVec 6
  t2 : BitVec 5
  off : BitVec 15
deriving DecidableEq, Repr

structure WbindF where
  w : BitVec 3
  h : BitVec 4
  sa : BitVec 6
  sb : BitVec 6
  count : BitVec 28
  depth : BitVec 3
deriving DecidableEq, Repr

structure TcbF where
  sa : BitVec 6
  n : BitVec 3
  te : Bool
  tag : BitVec 6
deriving DecidableEq, Repr

structure BcopyF where
  sa : BitVec 6
  sb : BitVec 6
  len : BitVec 24
  te : Bool
  tag : BitVec 6
deriving DecidableEq, Repr

structure WaitcF where
  ld : BitVec 6
  st : BitVec 6
  cp : BitVec 6
  op : BitVec 6
deriving DecidableEq, Repr

/-- MMA, MMV, MMAS and MMSS (R156, R160, R220, R228). -/
structure MmF where
  td : BitVec 5
  ta : BitVec 5
  tb : BitVec 5
  acc : Bool
deriving DecidableEq, Repr

/-- MAP (R166): `nin` is IN (1 to 3), `seg` is SEG − 1. -/
structure MapF where
  td : BitVec 5
  ta : BitVec 5
  tb : BitVec 5
  tc : BitVec 5
  nin : BitVec 2
  me : Bool
  seg : BitVec 2
  imm : BitVec 24
deriving DecidableEq, Repr

/-- REDUCE (R175). -/
structure RedF where
  td : BitVec 5
  ta : BitVec 5
  tc : BitVec 5
  op : RedOp
  me : Bool
  pf : Bool
  imm : BitVec 24
deriving DecidableEq, Repr

/-- TSCAN (R177). -/
structure ScanF where
  td : BitVec 5
  ta : BitVec 5
  tc : BitVec 5
  op : RedOp
  me : Bool
deriving DecidableEq, Repr

structure BindF where
  sd : BitVec 6
  sa : BitVec 6
  sb : BitVec 6
  len : BitVec 29
deriving DecidableEq, Repr

structure BarF where
  b : BitVec 5
  ph : BitVec 3
deriving DecidableEq, Repr

structure QringF where
  sd : BitVec 6
  sa : BitVec 6
  sb : BitVec 6
  lim : BitVec 25
deriving DecidableEq, Repr

/-! ## Lane operand sets (R74, R75) -/

/-- vd, va and vb in FORM 00, 01 or 10. For VCMP, vd names a predicate. -/
structure L3 where
  vd : BitVec 5
  va : BitVec 5
  vb : LaneSrc
  guard : Guard
deriving DecidableEq, Repr

/-- vd and va, FORM 00. For PNOT both name predicates. -/
structure L2 where
  vd : BitVec 5
  va : BitVec 5
  guard : Guard
deriving DecidableEq, Repr

structure LcvtF where
  vd : BitVec 5
  va : BitVec 5
  ty : BitVec 5
  guard : Guard
deriving DecidableEq, Repr

/-- PAND, POR and PXOR: three predicates. -/
structure Lp3 where
  vd : BitVec 5
  va : BitVec 5
  vb : BitVec 5
  guard : Guard
deriving DecidableEq, Repr

/-- VSEL: PRED selects and is required. -/
structure LselF where
  vd : BitVec 5
  va : BitVec 5
  vb : LaneSrc
  p : Fin 24
deriving DecidableEq, Repr

structure LmovF where
  vd : BitVec 5
  vb : LaneSrc
  guard : Guard
deriving DecidableEq, Repr

/-- VPERM: FORM 00, so vb is a vector, replicated or not. -/
structure LpermF where
  vd : BitVec 5
  va : BitVec 5
  vb : BitVec 5
  rep : Option RepSize
  guard : Guard
deriving DecidableEq, Repr

structure LcompF where
  vd : BitVec 5
  va : BitVec 5
  p : Fin 24
deriving DecidableEq, Repr

structure LcfgF where
  ty : BitVec 5
  fzi : Bool
  fzo : Bool
  xrm : BitVec 2
deriving DecidableEq, Repr

/-! ## Arguments of the system events -/

/-- A slot number (R16): [8] die, [7:4] cluster, [3:1] core, [0] slot. -/
abbrev SlotNo := BitVec 9

/-- The identity of a group (R267). -/
structure GroupId where
  ctx : BitVec 6
  queue : BitVec 10
  seq : BitVec 54
  grp : BitVec 32
deriving DecidableEq, Repr

/-- One change of a block's architected state (R82) or of memory that the emulator applies (R311): `copy` takes a stream's copy of
record `h`, its depth and its consumed index, `version` gives a bound name a new version. -/
inductive EmuWrite where
  | sreg (r : BitVec 6) (v : Word)
  | hreg (r : BitVec 4) (v : Word)
  | loops (l : List (Word × Word × Word))
  | stream (w : BitVec 3) (base stride : Word) (count : BitVec 28)
  | copy (w : BitVec 3) (h : BitVec 4) (depth : BitVec 3) (consumed : Nat)
  | tile (t : BitVec 5) (elems : List Half)
  | scales (t : BitVec 5) (v : List (BitVec 16))
  | bind (t : BitVec 5) (h : Option (BitVec 4))
  | version (t : BitVec 5) (rows cols : BitVec 13) (type : BitVec 5) (store : BitVec 2) (pitch : BitVec 17)
  | vtype (v : Word)
  | shape (h : BitVec 4) (field : ShapeField) (v : Word)
  | lstat (v : Word)
  | tags (v : Word)
  | memory (pa : BitVec 52) (b : Byte)
deriving DecidableEq, Repr

/-- Who writes a control register: the host's physical function, a virtual function or Ranger (R312, R397, R418). -/
inductive Writer where
  | pf | vf (n : BitVec 5) | ranger
deriving DecidableEq, Repr

/-- Where an uncorrectable error lies (R388, R389): a 64-byte line of memory, a 64-byte line of a tile version, a line of the lane
register file that holds positions of a block's strip, a word of the arena copy of a kernel's tile code or handler, a flight's element
in a datapath, or storage and datapaths that hold nothing. -/
inductive UeSite where
  | memory (line : BitVec 46)
  | tile (slot : SlotNo) (version : Nat) (line : Nat)
  | laneReg (slot : SlotNo) (reg : BitVec 5) (line : Nat)
  | arena (kernel : BitVec 32) (handler : Bool) (offset : BitVec 32)
  | element (slot : SlotNo) (flight : Nat)
  | datapath
deriving DecidableEq, Repr

/-- The ownership tables of R397. -/
inductive OwnTable where
  | qown | vown | ctxown
deriving DecidableEq, Repr

/-- Status of a PCI Express completion for a device access (R399, R438). -/
inductive PcieStatus where
  | success | unsupportedRequest | completerAbort
deriving DecidableEq, Repr

/-- A host AtomicOp (R395, R398). -/
inductive HostAtomic where
  | fetchAdd | swap | cas
deriving DecidableEq, Repr

/-- The body of a Decamp message (R327, R328): a page with its virtual address, size and attributes, and the frames
that the target's firmware allocates for page tables it lacks; a piece of the cairn-form image; or END. -/
inductive DecampBody where
  | page (va : BitVec 48) (size : BitVec 2) (flags : BitVec 11) (tables : List (BitVec 40)) (data : List Byte)
  | image (data : List Byte)
  | finish
deriving DecidableEq, Repr

/-- A Lervon message header (R403). -/
structure LvMsg where
  op : BitVec 4
  aop : BitVec 4
  pkey : BitVec 16
  src : BitVec 9
  dst : BitVec 9
  tag : BitVec 16
  len : BitVec 8
  sz : Bool
  addr : BitVec 39
  data : List Byte
deriving DecidableEq, Repr

/-- A Lervon flit (R402). -/
structure Flit where
  seq : BitVec 16
  ack : BitVec 16
  kind : BitVec 8
  credits : BitVec 8
  reserved : BitVec 16
  slots : List Byte
  crc : BitVec 64
deriving DecidableEq, Repr

/-- What an inbound Ultra Ethernet packet asks for, as the transport delivers it (R408, R409). -/
inductive UePacket where
  | send (jobid : BitVec 24) (data : List Byte)
  | rmaWrite (jobid : BitVec 24) (va : BitVec 48) (data : List Byte)
  | rmaRead (jobid : BitVec 24) (va : BitVec 48) (len : BitVec 16)
  | unsupported
deriving DecidableEq, Repr

/-- A context command's target and its operands (R312). -/
structure CcmdF where
  ctx : BitVec 6
  kdie : Bool
  kslot : BitVec 4
  len : Word
  img : Word
  desc : Word
deriving DecidableEq, Repr

/-- A kernel command's operands (R303). -/
structure KcmdF where
  ctx : BitVec 6
  handle : BitVec 32
  dlen : Word
  data : Word
  obj : Word
deriving DecidableEq, Repr

end Sys2Proof
end

