-- ==== Sys2Proof/Syntax.lean ====
section
/-!
DEFINITION. The instruction set: one constructor for each row of spec/opcode_table.json. The sequencer
instructions (R68, R71) and the lane instructions (R75) have words; the rows from EMULATOR_PERFORM on are the
system events of spec/95_what_each_step_holds.md and carry what the outside world supplies.
-/
namespace Sys2Proof

/-- Every instruction and every system event of the LV9. -/
inductive Instr where
  -- Scalar and branch instructions (04)
  | add (f : S3)  -- ADD, R88
  | sub (f : S3)  -- SUB, R88
  | mul (f : S3)  -- MUL, R88
  | mulhs (f : S3)  -- MULHS, R88
  | mulhu (f : S3)  -- MULHU, R88
  | divs (f : S3)  -- DIVS, R89
  | divu (f : S3)  -- DIVU, R89
  | rems (f : S3)  -- REMS, R89
  | remu (f : S3)  -- REMU, R89
  | and (f : S3)  -- AND, R88
  | or (f : S3)  -- OR, R88
  | xor (f : S3)  -- XOR, R88
  | andn (f : S3)  -- ANDN, R88
  | shl (f : S3)  -- SHL, R88
  | shrl (f : S3)  -- SHRL, R88
  | shra (f : S3)  -- SHRA, R88
  | min (f : S3)  -- MIN, R88
  | max (f : S3)  -- MAX, R88
  | minu (f : S3)  -- MINU, R88
  | maxu (f : S3)  -- MAXU, R88
  | slt (f : S3)  -- SLT, R88
  | sltu (f : S3)  -- SLTU, R88
  | sel (f : S3)  -- SEL, R88
  | clz (f : S2)  -- CLZ, R88
  | ctz (f : S2)  -- CTZ, R88
  | popc (f : S2)  -- POPC, R88
  | addImm (f : SI)  -- ADD_IMM, R88
  | subImm (f : SI)  -- SUB_IMM, R88
  | mulImm (f : SI)  -- MUL_IMM, R88
  | mulhsImm (f : SI)  -- MULHS_IMM, R88
  | mulhuImm (f : SI)  -- MULHU_IMM, R88
  | divsImm (f : SI)  -- DIVS_IMM, R89
  | divuImm (f : SI)  -- DIVU_IMM, R89
  | remsImm (f : SI)  -- REMS_IMM, R89
  | remuImm (f : SI)  -- REMU_IMM, R89
  | andImm (f : SI)  -- AND_IMM, R88
  | orImm (f : SI)  -- OR_IMM, R88
  | xorImm (f : SI)  -- XOR_IMM, R88
  | andnImm (f : SI)  -- ANDN_IMM, R88
  | shlImm (f : SI)  -- SHL_IMM, R88
  | shrlImm (f : SI)  -- SHRL_IMM, R88
  | shraImm (f : SI)  -- SHRA_IMM, R88
  | minImm (f : SI)  -- MIN_IMM, R88
  | maxImm (f : SI)  -- MAX_IMM, R88
  | minuImm (f : SI)  -- MINU_IMM, R88
  | maxuImm (f : SI)  -- MAXU_IMM, R88
  | sltImm (f : SI)  -- SLT_IMM, R88
  | sltuImm (f : SI)  -- SLTU_IMM, R88
  | selImm (f : SI)  -- SEL_IMM, R88
  | fadd (f : S3)  -- FADD, R91
  | fsub (f : S3)  -- FSUB, R91
  | fmul (f : S3)  -- FMUL, R91
  | fma (f : S3)  -- FMA, R91
  | fmin (f : S3)  -- FMIN, R91
  | fmax (f : S3)  -- FMAX, R91
  | fcmpEq (f : S3)  -- FCMP_EQ, R91
  | fcmpLt (f : S3)  -- FCMP_LT, R91
  | fcmpLe (f : S3)  -- FCMP_LE, R91
  | fcmpUn (f : S3)  -- FCMP_UN, R91
  | fcvtFi (f : S2)  -- FCVT_FI, R92
  | fcvtFn (f : S2)  -- FCVT_FN, R92
  | fcvtIf (f : S2)  -- FCVT_IF, R92
  | fcvtNf (f : S2)  -- FCVT_NF, R92
  | sld (f : SI)  -- SLD, R93
  | sldZ (f : SI)  -- SLD_Z, R93
  | sst (f : SI)  -- SST, R93
  | samoAdd (f : SamoF)  -- SAMO_ADD, R247
  | samoSwap (f : SamoF)  -- SAMO_SWAP, R247
  | samoCas (f : SamoF)  -- SAMO_CAS, R247
  | samoMin (f : SamoF)  -- SAMO_MIN, R247
  | samoMax (f : SamoF)  -- SAMO_MAX, R247
  | samoAnd (f : SamoF)  -- SAMO_AND, R247
  | samoOr (f : SamoF)  -- SAMO_OR, R247
  | samoXor (f : SamoF)  -- SAMO_XOR, R247
  | samoMinu (f : SamoF)  -- SAMO_MINU, R247
  | samoMaxu (f : SamoF)  -- SAMO_MAXU, R247
  | bCond (f : BrF)  -- B_COND, R95
  | j (off : BitVec 32)  -- J, R95
  | call (f : SaOff)  -- CALL, R95
  | ret (sa : BitVec 6)  -- RET, R95
  | loop (f : SaOff)  -- LOOP, R97
  | endl (off : BitVec 32)  -- ENDL, R97
  | lbrk (lv : BitVec 3) (off : BitVec 32)  -- LBRK, R97
  | movi (f : SdImm)  -- MOVI, R90
  | movhi (f : SdImm)  -- MOVHI, R90
  | nop  -- NOP, R99
  | sysrd (sd : BitVec 6) (r : SysReg)  -- SYSRD, R100
  | syswr (sa : BitVec 6)  -- SYSWR, R100
  | yield  -- YIELD, R99
  | exit  -- EXIT, R99
  | region (mask : BitVec 32)  -- REGION, R104
  | regend  -- REGEND, R104
  | trap (code : BitVec 16)  -- TRAP, R384
  | eret  -- ERET, R385
  | eretSkip  -- ERET_SKIP, R385
  | eretElem  -- ERET_ELEM, R385
  -- Tile memory (05)
  | hset (f : HField)  -- HSET, R112
  | hget (f : HField)  -- HGET, R112
  | tbind (t : BitVec 5) (h : BitVec 4)  -- TBIND, R120
  | tdrop (t : BitVec 5)  -- TDROP, R120
  | tqry (sa : BitVec 6) (sel : QuerySel)  -- TQRY, R123
  | tld (f : TmF)  -- TLD, R127
  | tst (f : TmF)  -- TST, R127
  | tldff (f : TmF)  -- TLDFF, R131
  | tgth (f : TmIdxF)  -- TGTH, R133
  | tgthFull (f : TmIdxF)  -- TGTH_FULL, R134
  | tsct (f : TmIdxF)  -- TSCT, R134
  | wbind (f : WbindF)  -- WBIND, R144
  | tldw (t : BitVec 5) (w : BitVec 3)  -- TLDW, R145
  | tcb (f : TcbF)  -- TCB, R140
  | topt (f : TmF)  -- TOPT, R142
  | bcopy (f : BcopyF)  -- BCOPY, R147
  | waitc (f : WaitcF)  -- WAITC, R150
  | waittAll (sa : BitVec 6)  -- WAITT_ALL, R151
  | waittAny (sa : BitVec 6)  -- WAITT_ANY, R151
  | tagff (sd : BitVec 6) (sa : BitVec 6)  -- TAGFF, R151
  | tagclr (sa : BitVec 6)  -- TAGCLR, R151
  -- Tile compute (06, 08)
  | mma (f : MmF)  -- MMA, R156
  | mmv (f : MmF)  -- MMV, R160
  | map (f : MapF)  -- MAP, R166
  | reduce (f : RedF)  -- REDUCE, R175
  | tcvt (td : BitVec 5) (ta : BitVec 5)  -- TCVT, R178
  | tfill (td : BitVec 5) (imm : BitVec 24)  -- TFILL, R179
  | tmov (td : BitVec 5) (ta : BitVec 5)  -- TMOV, R180
  | tscan (f : ScanF)  -- TSCAN, R177
  | mmas (f : MmF)  -- MMAS, R220
  | mmss (f : MmF)  -- MMSS, R228
  | tpat (sa : BitVec 6)  -- TPAT, R224
  | tinv (sa : BitVec 6)  -- TINV, R225
  | tdens (t : BitVec 5) (sa : BitVec 6)  -- TDENS, R227
  -- Synchronisation, barriers, groups, queues (09 to 12)
  | acqX (sa : BitVec 6)  -- ACQ_X, R242
  | acqS (sa : BitVec 6)  -- ACQ_S, R242
  | rel (sa : BitVec 6)  -- REL, R243
  | bind (f : BindF)  -- BIND, R245
  | unbind (sd : BitVec 6) (sa : BitVec 6)  -- UNBIND, R245
  | fence (scope : Scope)  -- FENCE, R246
  | tamoAdd (f : TmAmoF)  -- TAMO_ADD, R248
  | tamoMin (f : TmAmoF)  -- TAMO_MIN, R248
  | tamoMax (f : TmAmoF)  -- TAMO_MAX, R248
  | tamoAnd (f : TmAmoF)  -- TAMO_AND, R248
  | tamoOr (f : TmAmoF)  -- TAMO_OR, R248
  | tamoXor (f : TmAmoF)  -- TAMO_XOR, R248
  | tamoSwap (f : TmAmoF)  -- TAMO_SWAP, R248
  | tglk (f : TmAmoF)  -- TGLK, R252
  | tscc (f : TmAmoF)  -- TSCC, R253
  | twaitvEq (f : TmWaitF)  -- TWAITV_EQ, R254
  | twaitvNe (f : TmWaitF)  -- TWAITV_NE, R254
  | twaitvLt (f : TmWaitF)  -- TWAITV_LT, R254
  | twaitvGe (f : TmWaitF)  -- TWAITV_GE, R254
  | twaitvLtu (f : TmWaitF)  -- TWAITV_LTU, R254
  | twaitvGeu (f : TmWaitF)  -- TWAITV_GEU, R254
  | bari (b : BitVec 5) (sa : BitVec 6)  -- BARI, R258
  | bara (f : BarF)  -- BARA, R261
  | barw (f : BarF)  -- BARW, R262
  | tsend (t : BitVec 5) (sa : BitVec 6)  -- TSEND, R276
  | trecv (t : BitVec 5) (sa : BitVec 6)  -- TRECV, R277
  | launch (sd : BitVec 6) (sa : BitVec 6) (sb : BitVec 6)  -- LAUNCH, R293
  | qput (f : QringF)  -- QPUT, R295
  | qget (f : QringF)  -- QGET, R295
  -- Lane instructions (07)
  | vadd (f : L3)  -- VADD, R192
  | vsub (f : L3)  -- VSUB, R192
  | vmul (f : L3)  -- VMUL, R192
  | vmulh (f : L3)  -- VMULH, R192
  | vwmac (f : L3)  -- VWMAC, R193
  | vmin (f : L3)  -- VMIN, R192
  | vmax (f : L3)  -- VMAX, R192
  | vand (f : L3)  -- VAND, R192
  | vor (f : L3)  -- VOR, R192
  | vxor (f : L3)  -- VXOR, R192
  | vshl (f : L3)  -- VSHL, R192
  | vshr (f : L3)  -- VSHR, R192
  | vsra (f : L3)  -- VSRA, R192
  | vnshr (f : L3)  -- VNSHR, R194
  | vabs (f : L2)  -- VABS, R192
  | vfadd (f : L3)  -- VFADD, R195
  | vfsub (f : L3)  -- VFSUB, R195
  | vfmul (f : L3)  -- VFMUL, R195
  | vfma (f : L3)  -- VFMA, R195
  | vfmin (f : L3)  -- VFMIN, R195
  | vfmax (f : L3)  -- VFMAX, R195
  | vrcp (f : L2)  -- VRCP, R196
  | vrsq (f : L2)  -- VRSQ, R196
  | vexp2 (f : L2)  -- VEXP2, R197
  | vlog2 (f : L2)  -- VLOG2, R197
  | vfcls (f : L2)  -- VFCLS, R198
  | vcvt (f : LcvtF)  -- VCVT, R199
  | vcmpEq (f : L3)  -- VCMP_EQ, R200
  | vcmpNe (f : L3)  -- VCMP_NE, R200
  | vcmpLt (f : L3)  -- VCMP_LT, R200
  | vcmpGe (f : L3)  -- VCMP_GE, R200
  | vcmpLe (f : L3)  -- VCMP_LE, R200
  | vcmpGt (f : L3)  -- VCMP_GT, R200
  | pand (f : Lp3)  -- PAND, R201
  | por (f : Lp3)  -- POR, R201
  | pxor (f : Lp3)  -- PXOR, R201
  | pnot (f : L2)  -- PNOT, R201
  | vsel (f : LselF)  -- VSEL, R202
  | vmov (f : LmovF)  -- VMOV, R202
  | vidx (vd : BitVec 5) (guard : Guard)  -- VIDX, R203
  | vperm (f : LpermF)  -- VPERM, R204
  | vconf (f : L2)  -- VCONF, R205
  | vcomp (f : LcompF)  -- VCOMP, R206
  | vcfg (f : LcfgF)  -- VCFG, R207
  | vret (va : BitVec 5)  -- VRET, R208
  | vnop  -- VNOP, R208
  -- System events (10 to 19)
  | emulatorPerform (slot : SlotNo) (writes : List EmuWrite)  -- EMULATOR_PERFORM, R311
  | emulatorDecline (slot : SlotNo)  -- EMULATOR_DECLINE, R311
  | rollbackRestoreComplete (slot : SlotNo)  -- ROLLBACK_RESTORE_COMPLETE, R108
  | gangStart (g : GroupId)  -- GANG_START, R269
  | bindRecordArm (slot : SlotNo) (record : BitVec 256)  -- BIND_RECORD_ARM, R268
  | bindRecordWithdraw (slot : SlotNo)  -- BIND_RECORD_WITHDRAW, R267
  | gstop (word : BitVec 128)  -- GSTOP, R271
  | rangerStopRequest (word : BitVec 128)  -- RANGER_STOP_REQUEST, R271
  | gracePeriodExpiry (slot : SlotNo)  -- GRACE_PERIOD_EXPIRY, R103
  | nonYieldingReport (slot : SlotNo)  -- NON_YIELDING_REPORT, R103
  | blockDrainComplete (slot : SlotNo)  -- BLOCK_DRAIN_COMPLETE, R99
  | tileVersionDone (slot : SlotNo) (flight : Nat)  -- TILE_VERSION_DONE, R122
  | storeComplete (slot : SlotNo) (flight : Nat)  -- STORE_COMPLETE, R148
  | stripBoundary  -- STRIP_BOUNDARY, R172
  | codebookTableArrival (core : BitVec 8)  -- CODEBOOK_TABLE_ARRIVAL, R139
  | laneFunctionFetchComplete (core : BitVec 8) (kernel : BitVec 32) (offset : BitVec 24) (ok : Bool)  -- LANE_FUNCTION_FETCH_COMPLETE, R182
  | icacheFill (core : BitVec 8) (kernel : BitVec 32) (handler : Bool) (offset : BitVec 32) (ok : Bool)  -- ICACHE_FILL, R308
  | trailCompileComplete (cluster : BitVec 5) (ctx : BitVec 6) (desc : Word) (gen : Word)  -- TRAIL_COMPILE_COMPLETE, R216
  | barrierArrivalCounted (slot : SlotNo) (b : BitVec 5)  -- BARRIER_ARRIVAL_COUNTED, R261
  | twaitvPoll (slot : SlotNo)  -- TWAITV_POLL, R254
  | twaitvLimitExpiry (slot : SlotNo)  -- TWAITV_LIMIT_EXPIRY, R254
  | qtimeout (slot : SlotNo)  -- QTIMEOUT, R295
  | lineHoldExpiry (line : BitVec 46)  -- LINE_HOLD_EXPIRY, R250
  | lrecWrite (who : Writer) (q : BitVec 10) (off : BitVec 12) (data : List Byte)  -- LREC_WRITE, R283
  | launchAccept (q : BitVec 10)  -- LAUNCH_ACCEPT, R284
  | qcmdBind (q : BitVec 10)  -- QCMD_BIND, R281
  | qcmdHalt (q : BitVec 10)  -- QCMD_HALT, R281
  | qcmdResume (q : BitVec 10)  -- QCMD_RESUME, R281
  | qcmdDrain (q : BitVec 10)  -- QCMD_DRAIN, R281
  | qcmdUnbind (q : BitVec 10)  -- QCMD_UNBIND, R281
  | launchEligible (q : BitVec 10) (seq : BitVec 54)  -- LAUNCH_ELIGIBLE, R286
  | launchOffer (q : BitVec 10)  -- LAUNCH_OFFER, R285
  | launchComplete (q : BitVec 10) (seq : BitVec 54)  -- LAUNCH_COMPLETE, R289
  | completionRecordWrite (q : BitVec 10)  -- COMPLETION_RECORD_WRITE, R290
  | cheadWrite (q : BitVec 10) (v : Word)  -- CHEAD_WRITE, R290
  | kcmdLoad (f : KcmdF)  -- KCMD_LOAD, R305
  | kcmdPin (f : KcmdF)  -- KCMD_PIN, R306
  | kcmdUnpin (f : KcmdF)  -- KCMD_UNPIN, R306
  | kcmdUnload (f : KcmdF)  -- KCMD_UNLOAD, R306
  | kernelLoadComplete  -- KERNEL_LOAD_COMPLETE, R306
  | kernelEvict (handle : BitVec 32)  -- KERNEL_EVICT, R306
  | kernelReloadComplete (handle : BitVec 32)  -- KERNEL_RELOAD_COMPLETE, R306
  | ccmdCreate (who : Writer) (f : CcmdF)  -- CCMD_CREATE, R313
  | ccmdActivate (who : Writer) (f : CcmdF)  -- CCMD_ACTIVATE, R316
  | ccmdSuspend (who : Writer) (f : CcmdF)  -- CCMD_SUSPEND, R316
  | ccmdRestore (who : Writer) (f : CcmdF)  -- CCMD_RESTORE, R322
  | ccmdMigrateOut (who : Writer) (f : CcmdF)  -- CCMD_MIGRATE_OUT, R327
  | ccmdMigrateIn (who : Writer) (f : CcmdF)  -- CCMD_MIGRATE_IN, R316
  | ccmdStopmig (who : Writer) (f : CcmdF)  -- CCMD_STOPMIG, R327
  | ccmdDestroy (who : Writer) (f : CcmdF)  -- CCMD_DESTROY, R316
  | ccmdFault (who : Writer) (f : CcmdF)  -- CCMD_FAULT, R316
  | suspendImageWritten (ctx : BitVec 6) (len : Word)  -- SUSPEND_IMAGE_WRITTEN, R316
  | restoreComplete (ctx : BitVec 6)  -- RESTORE_COMPLETE, R322
  | contextDrainComplete (ctx : BitVec 6)  -- CONTEXT_DRAIN_COMPLETE, R316
  | precopyRoundEnd (ctx : BitVec 6)  -- PRECOPY_ROUND_END, R327
  | migrationStopTimeout (ctx : BitVec 6)  -- MIGRATION_STOP_TIMEOUT, R329
  | targetEndAck (ctx : BitVec 6)  -- TARGET_END_ACK, R316
  | decampMessageReceive (ctx : BitVec 6) (counter : Word) (authentic : Bool) (frame : BitVec 40) (body : DecampBody)  -- DECAMP_MESSAGE_RECEIVE, R328
  | keySlotWrite (who : Writer) (die : Bool) (slot : BitVec 4) (data : BitVec 512)  -- KEY_SLOT_WRITE, R326
  | pinv (word : BitVec 128)  -- PINV, R341
  | invalidationComplete  -- INVALIDATION_COMPLETE, R341
  | frespRetry (ftag : BitVec 16) (rsv : BitVec 46)  -- FRESP_RETRY, R345
  | frespKill (ftag : BitVec 16) (rsv : BitVec 46)  -- FRESP_KILL, R345
  | frcfgWrite (v : Word)  -- FRCFG_WRITE, R344
  | frheadWrite (v : Word)  -- FRHEAD_WRITE, R344
  | pmove (word : BitVec 256)  -- PMOVE, R352
  | pageMovePassEnd  -- PAGE_MOVE_PASS_END, R353
  | pageMoveSwitch  -- PAGE_MOVE_SWITCH, R353
  | frozenHoldTimeout (slot : SlotNo)  -- FROZEN_HOLD_TIMEOUT, R353
  | correctableError (bank : BitVec 32)  -- CORRECTABLE_ERROR, R359
  | uncorrectableError (bank : BitVec 32) (site : UeSite)  -- UNCORRECTABLE_ERROR, R388
  | bankWindowEnd  -- BANK_WINDOW_END, R359
  | bankcfgWrite (v : Word)  -- BANKCFG_WRITE, R360
  | bankcmdRetire (bank : BitVec 32) (rsv : BitVec 30)  -- BANKCMD_RETIRE, R361
  | bankcmdOffline (bank : BitVec 32) (rsv : BitVec 30)  -- BANKCMD_OFFLINE, R361
  | targetBankTimeout (bank : BitVec 32)  -- TARGET_BANK_TIMEOUT, R365
  | bankCopyLine (bank : BitVec 32)  -- BANK_COPY_LINE, R366
  | sliceDrainLine (bank : BitVec 32)  -- SLICE_DRAIN_LINE, R372
  | elcfgWrite (v : Word)  -- ELCFG_WRITE, R392
  | lcmdTrain (port : BitVec 4)  -- LCMD_TRAIN, R401
  | lcmdDown (port : BitVec 4)  -- LCMD_DOWN, R401
  | lcmdRetire (port : BitVec 4)  -- LCMD_RETIRE, R401
  | linkTrainingComplete (port : BitVec 4) (lanes : BitVec 4) (pnode : BitVec 9)  -- LINK_TRAINING_COMPLETE, R401
  | linkTrainingTimeout (port : BitVec 4)  -- LINK_TRAINING_TIMEOUT, R401
  | flitReceive (port : BitVec 4) (flit : Flit)  -- FLIT_RECEIVE, R402
  | replayTimeout (port : BitVec 4)  -- REPLAY_TIMEOUT, R402
  | lervonRequestReceive (port : BitVec 4) (msg : LvMsg)  -- LERVON_REQUEST_RECEIVE, R406
  | lervonResponseReceive (port : BitVec 4) (msg : LvMsg)  -- LERVON_RESPONSE_RECEIVE, R406
  | lervonResponseTimeout (tag : BitVec 16)  -- LERVON_RESPONSE_TIMEOUT, R406
  | nodeidWrite (who : Writer) (v : Word)  -- NODEID_WRITE, R400
  | ownershipTableWrite (who : Writer) (table : OwnTable) (idx : BitVec 11) (v : Byte)  -- OWNERSHIP_TABLE_WRITE, R397
  | peerTableWrite (who : Writer) (idx : BitVec 8) (v : BitVec 256)  -- PEER_TABLE_WRITE, R409
  | uePacketReceive (port : Bool) (ctx : BitVec 6) (p : UePacket)  -- UE_PACKET_RECEIVE, R408
  | hostApertureRead (who : Writer) (addr : Word) (len : Nat)  -- HOST_APERTURE_READ, R398
  | hostApertureWrite (who : Writer) (addr : Word) (data : List Byte)  -- HOST_APERTURE_WRITE, R398
  | hostAtomicop (who : Writer) (op : HostAtomic) (bytes : BitVec 5) (addr : Word) (a : Word) (b : Word)  -- HOST_ATOMICOP, R398
  | pcieCompletionReceive (req : Nat) (status : PcieStatus)  -- PCIE_COMPLETION_RECEIVE, R399
  | pcieCompletionTimeout (req : Nat)  -- PCIE_COMPLETION_TIMEOUT, R438
  | attreq (who : Writer) (data : BitVec 256)  -- ATTREQ, R417
  | attestReportComplete  -- ATTEST_REPORT_COMPLETE, R417
  | clamplimWrite (who : Writer) (v : Word)  -- CLAMPLIM_WRITE, R418
  | clampExcursion  -- CLAMP_EXCURSION, R20
  | vfiWrite (island : BitVec 4) (v : Word)  -- VFI_WRITE, R419
  | vfiChangeComplete (island : BitVec 4)  -- VFI_CHANGE_COMPLETE, R419
  | controlRegisterWrite (who : Writer) (off : BitVec 23) (data : List Byte)  -- CONTROL_REGISTER_WRITE, R7
  | reset  -- RESET, R410
  | bootVerifyComplete (framing : Bool) (ecdsa : Bool) (lms : Bool) (svn : BitVec 8) (fwver : BitVec 32)  -- BOOT_VERIFY_COMPLETE, R413
  | hbmTrainingComplete (bad : BitVec 8)  -- HBM_TRAINING_COMPLETE, R410
  | d2dTrainingComplete (ok : Bool)  -- D2D_TRAINING_COMPLETE, R410
  | initComplete  -- INIT_COMPLETE, R410
  | rangerHeartbeat  -- RANGER_HEARTBEAT, R416
  | rangerTakeover (us : Word)  -- RANGER_TAKEOVER, R416
  | currentBackWithinLimit  -- CURRENT_BACK_WITHIN_LIMIT, R20
  | thermalProtection (island : BitVec 4) (cur : BitVec 4)  -- THERMAL_PROTECTION, R419
  | linkLost (ctx : BitVec 6)  -- LINK_LOST, R316
  | targetRefusal (ctx : BitVec 6)  -- TARGET_REFUSAL, R316
deriving DecidableEq, Repr

end Sys2Proof
end

