-- ==== Sys2Proof/WellFormed.lean ====
section
/-!
DEFINITION. The limits of R71, R63 and R74 on the operands of an instruction: what an encoding can hold and
the decoder accepts.
-/
namespace Sys2Proof

/-- R63: PC at most 5, a guarded mode only with planes, a scope only with AQ or RL, a tag only with TE. -/
def TmF.wf (f : TmF) : Bool :=
  f.pc.toNat ≤ 5 && (f.pc != 0 || f.pm == .trunc) && (f.scope == .block || f.aq || f.rl) &&
  (f.tag == 0 || f.te)

/-- As `TmF.wf`, with an index tile (R63). -/
def TmIdxF.wf (f : TmIdxF) : Bool :=
  f.pc.toNat ≤ 5 && (f.pc != 0 || f.pm == .trunc) && (f.scope == .block || f.aq || f.rl) &&
  (f.tag == 0 || f.te)

/-- R247: a scope only with AQ or RL. -/
def SamoF.wf (f : SamoF) : Bool := f.scope == .block || f.aq || f.rl

/-- R63 for TAMO, TGLK and TSCC. -/
def TmAmoF.wf (f : TmAmoF) : Bool :=
  f.pc.toNat ≤ 5 && (f.scope == .block || f.aq || f.rl)

/-- R63 and the limit of R71 for TWAITV. -/
def TmWaitF.wf (f : TmWaitF) : Bool :=
  (f.scope == .block || f.aq) && f.lim.toNat ≤ 24

/-- R71: 1 to 4 tables; a tag only with TE (R63). -/
def TcbF.wf (f : TcbF) : Bool := f.n != 0 && f.n.toNat ≤ 4 && (f.tag == 0 || f.te)

/-- R63: a tag only with TE. -/
def BcopyF.wf (f : BcopyF) : Bool := f.tag == 0 || f.te

/-- R71: IN is 1 to 3; tb and tc are zero where unused. -/
def MapF.wf (f : MapF) : Bool :=
  f.nin != 0 && (2 ≤ f.nin.toNat || f.tb == 0) && (f.nin == 3 || f.me || f.tc == 0)

/-- R71: tc is used with the mask, imm24 with the pre-function. -/
def RedF.wf (f : RedF) : Bool := (f.me || f.tc == 0) && (f.pf || f.imm == 0)

/-- R71: tc is used with the mask. -/
def ScanF.wf (f : ScanF) : Bool := f.me || f.tc == 0

/-- R71: a length of 0 is ILLEGAL. -/
def BindF.wf (f : BindF) : Bool := f.len != 0

/-- R71: barriers 0 to 19; PH 0 to 6. -/
def BarF.wf (f : BarF) : Bool := f.b.toNat ≤ 19 && f.ph != 7

/-- R71: a limit of at most 16,777,216 cycles. -/
def QringF.wf (f : QringF) : Bool := f.lim.toNat ≤ 16777216

/-- What the decoder accepts (R57 to R59, R63, R71). Register and type numbers of lane words are checked
when a kernel is loaded (R77, R183), not here. -/
def Instr.wf (i : Instr) : Bool :=
  match i with
  | .add _ => true
  | .sub _ => true
  | .mul _ => true
  | .mulhs _ => true
  | .mulhu _ => true
  | .divs _ => true
  | .divu _ => true
  | .rems _ => true
  | .remu _ => true
  | .and _ => true
  | .or _ => true
  | .xor _ => true
  | .andn _ => true
  | .shl _ => true
  | .shrl _ => true
  | .shra _ => true
  | .min _ => true
  | .max _ => true
  | .minu _ => true
  | .maxu _ => true
  | .slt _ => true
  | .sltu _ => true
  | .sel _ => true
  | .clz _ => true
  | .ctz _ => true
  | .popc _ => true
  | .addImm _ => true
  | .subImm _ => true
  | .mulImm _ => true
  | .mulhsImm _ => true
  | .mulhuImm _ => true
  | .divsImm _ => true
  | .divuImm _ => true
  | .remsImm _ => true
  | .remuImm _ => true
  | .andImm _ => true
  | .orImm _ => true
  | .xorImm _ => true
  | .andnImm _ => true
  | .shlImm _ => true
  | .shrlImm _ => true
  | .shraImm _ => true
  | .minImm _ => true
  | .maxImm _ => true
  | .minuImm _ => true
  | .maxuImm _ => true
  | .sltImm _ => true
  | .sltuImm _ => true
  | .selImm _ => true
  | .fadd _ => true
  | .fsub _ => true
  | .fmul _ => true
  | .fma _ => true
  | .fmin _ => true
  | .fmax _ => true
  | .fcmpEq _ => true
  | .fcmpLt _ => true
  | .fcmpLe _ => true
  | .fcmpUn _ => true
  | .fcvtFi _ => true
  | .fcvtFn _ => true
  | .fcvtIf _ => true
  | .fcvtNf _ => true
  | .sld _ => true
  | .sldZ _ => true
  | .sst _ => true
  | .samoAdd f => f.wf
  | .samoSwap f => f.wf
  | .samoCas f => f.wf
  | .samoMin f => f.wf
  | .samoMax f => f.wf
  | .samoAnd f => f.wf
  | .samoOr f => f.wf
  | .samoXor f => f.wf
  | .samoMinu f => f.wf
  | .samoMaxu f => f.wf
  | .bCond _ => true
  | .j _ => true
  | .call _ => true
  | .ret _ => true
  | .loop _ => true
  | .endl _ => true
  | .lbrk lv _ => lv != 0 && lv != 7
  | .movi _ => true
  | .movhi _ => true
  | .nop => true
  | .sysrd _ _ => true
  | .syswr _ => true
  | .yield => true
  | .exit => true
  | .region _ => true
  | .regend => true
  | .trap _ => true
  | .eret => true
  | .eretSkip => true
  | .eretElem => true
  | .hset _ => true
  | .hget _ => true
  | .tbind _ _ => true
  | .tdrop _ => true
  | .tqry _ _ => true
  | .tld f => f.wf
  | .tst f => f.wf
  | .tldff f => f.wf
  | .tgth f => f.wf
  | .tgthFull f => f.wf
  | .tsct f => f.wf
  | .wbind _ => true
  | .tldw _ _ => true
  | .tcb f => f.wf
  | .topt f => f.wf
  | .bcopy f => f.wf
  | .waitc _ => true
  | .waittAll _ => true
  | .waittAny _ => true
  | .tagff _ _ => true
  | .tagclr _ => true
  | .mma _ => true
  | .mmv _ => true
  | .map f => f.wf
  | .reduce f => f.wf
  | .tcvt _ _ => true
  | .tfill _ _ => true
  | .tmov _ _ => true
  | .tscan f => f.wf
  | .mmas _ => true
  | .mmss _ => true
  | .tpat _ => true
  | .tinv _ => true
  | .tdens _ _ => true
  | .acqX _ => true
  | .acqS _ => true
  | .rel _ => true
  | .bind f => f.wf
  | .unbind _ _ => true
  | .fence _ => true
  | .tamoAdd f => f.wf
  | .tamoMin f => f.wf
  | .tamoMax f => f.wf
  | .tamoAnd f => f.wf
  | .tamoOr f => f.wf
  | .tamoXor f => f.wf
  | .tamoSwap f => f.wf
  | .tglk f => f.wf
  | .tscc f => f.wf
  | .twaitvEq f => f.wf
  | .twaitvNe f => f.wf
  | .twaitvLt f => f.wf
  | .twaitvGe f => f.wf
  | .twaitvLtu f => f.wf
  | .twaitvGeu f => f.wf
  | .bari b _ => b.toNat ≤ 19
  | .bara f => f.wf
  | .barw f => f.wf
  | .tsend _ _ => true
  | .trecv _ _ => true
  | .launch _ _ _ => true
  | .qput f => f.wf
  | .qget f => f.wf
  | .vadd _ => true
  | .vsub _ => true
  | .vmul _ => true
  | .vmulh _ => true
  | .vwmac _ => true
  | .vmin _ => true
  | .vmax _ => true
  | .vand _ => true
  | .vor _ => true
  | .vxor _ => true
  | .vshl _ => true
  | .vshr _ => true
  | .vsra _ => true
  | .vnshr _ => true
  | .vabs _ => true
  | .vfadd _ => true
  | .vfsub _ => true
  | .vfmul _ => true
  | .vfma _ => true
  | .vfmin _ => true
  | .vfmax _ => true
  | .vrcp _ => true
  | .vrsq _ => true
  | .vexp2 _ => true
  | .vlog2 _ => true
  | .vfcls _ => true
  | .vcvt _ => true
  | .vcmpEq _ => true
  | .vcmpNe _ => true
  | .vcmpLt _ => true
  | .vcmpGe _ => true
  | .vcmpLe _ => true
  | .vcmpGt _ => true
  | .pand _ => true
  | .por _ => true
  | .pxor _ => true
  | .pnot _ => true
  | .vsel _ => true
  | .vmov _ => true
  | .vidx _ _ => true
  | .vperm _ => true
  | .vconf _ => true
  | .vcomp _ => true
  | .vcfg _ => true
  | .vret _ => true
  | .vnop => true
  | .emulatorPerform _ _ => true
  | .emulatorDecline _ => true
  | .rollbackRestoreComplete _ => true
  | .gangStart _ => true
  | .bindRecordArm _ _ => true
  | .bindRecordWithdraw _ => true
  | .gstop _ => true
  | .rangerStopRequest _ => true
  | .gracePeriodExpiry _ => true
  | .nonYieldingReport _ => true
  | .blockDrainComplete _ => true
  | .tileVersionDone _ _ => true
  | .storeComplete _ _ => true
  | .stripBoundary => true
  | .laneFunctionFetchComplete _ _ _ _ => true
  | .icacheFill _ _ _ _ _ => true
  | .trailCompileComplete _ _ _ _ => true
  | .barrierArrivalCounted _ _ => true
  | .twaitvPoll _ => true
  | .twaitvLimitExpiry _ => true
  | .qtimeout _ => true
  | .lineHoldExpiry _ => true
  | .lrecWrite _ _ _ _ => true
  | .launchAccept _ => true
  | .qcmdBind _ => true
  | .qcmdHalt _ => true
  | .qcmdResume _ => true
  | .qcmdDrain _ => true
  | .qcmdUnbind _ => true
  | .launchEligible _ _ => true
  | .launchOffer _ => true
  | .launchComplete _ _ => true
  | .completionRecordWrite _ => true
  | .cheadWrite _ _ => true
  | .kcmdLoad _ => true
  | .kcmdPin _ => true
  | .kcmdUnpin _ => true
  | .kcmdUnload _ => true
  | .kernelLoadComplete => true
  | .kernelEvict _ => true
  | .kernelReloadComplete _ => true
  | .ccmdCreate _ _ => true
  | .ccmdActivate _ _ => true
  | .ccmdSuspend _ _ => true
  | .ccmdRestore _ _ => true
  | .ccmdMigrateOut _ _ => true
  | .ccmdMigrateIn _ _ => true
  | .ccmdStopmig _ _ => true
  | .ccmdDestroy _ _ => true
  | .ccmdFault _ _ => true
  | .suspendImageWritten _ _ => true
  | .restoreComplete _ => true
  | .contextDrainComplete _ => true
  | .precopyRoundEnd _ => true
  | .migrationStopTimeout _ => true
  | .targetEndAck _ => true
  | .decampMessageReceive _ _ _ _ _ => true
  | .keySlotWrite _ _ _ _ => true
  | .pinv _ => true
  | .invalidationComplete => true
  | .frespRetry _ _ => true
  | .frespKill _ _ => true
  | .frcfgWrite _ => true
  | .frheadWrite _ => true
  | .pmove _ => true
  | .pageMovePassEnd => true
  | .pageMoveSwitch => true
  | .frozenHoldTimeout _ => true
  | .correctableError _ => true
  | .uncorrectableError _ _ => true
  | .bankWindowEnd => true
  | .bankcfgWrite _ => true
  | .bankcmdRetire _ _ => true
  | .bankcmdOffline _ _ => true
  | .targetBankTimeout _ => true
  | .bankCopyLine _ => true
  | .sliceDrainLine _ => true
  | .elcfgWrite _ => true
  | .lcmdTrain _ => true
  | .lcmdDown _ => true
  | .lcmdRetire _ => true
  | .linkTrainingComplete _ _ _ => true
  | .linkTrainingTimeout _ => true
  | .flitReceive _ _ => true
  | .replayTimeout _ => true
  | .lervonRequestReceive _ _ => true
  | .lervonResponseReceive _ _ => true
  | .lervonResponseTimeout _ => true
  | .nodeidWrite _ _ => true
  | .ownershipTableWrite _ _ _ _ => true
  | .peerTableWrite _ _ _ => true
  | .uePacketReceive _ _ _ => true
  | .hostApertureRead _ _ _ => true
  | .hostApertureWrite _ _ _ => true
  | .hostAtomicop _ _ _ _ _ _ => true
  | .pcieCompletionReceive _ _ => true
  | .pcieCompletionTimeout _ => true
  | .attreq _ _ => true
  | .attestReportComplete => true
  | .clamplimWrite _ _ => true
  | .clampExcursion => true
  | .vfiWrite _ _ => true
  | .vfiChangeComplete _ => true
  | .controlRegisterWrite _ _ _ => true
  | .reset => true
  | .bootVerifyComplete _ _ _ _ _ => true
  | .hbmTrainingComplete _ => true
  | .d2dTrainingComplete _ => true
  | .initComplete => true
  | .rangerHeartbeat => true
  | .rangerTakeover _ => true
  | .codebookTableArrival _ => true
  | .currentBackWithinLimit => true
  | .thermalProtection _ _ => true
  | .linkLost _ => true
  | .targetRefusal _ => true

end Sys2Proof
end

