-- ==== Sys2Proof/Decode.lean ====
section
/-!
DEFINITION. The decoder of sequencer words (R55 to R73) and of lane words (R74, R75), and after it the
encoder, written from the same tables. A refusal names the trap of R57 or the load reason of R77.
-/
namespace Sys2Proof

/-! ## Codes of the operand kinds -/

/-- W (R60). -/
def widthCode : Width → BitVec 2
  | .w64 => 0 | .w32 => 1 | .w16 => 2 | .w8 => 3

def widthOf (c : BitVec 2) : Width :=
  if c = 0 then .w64 else if c = 1 then .w32 else if c = 2 then .w16 else .w8

/-- SCOPE (R67). -/
def scopeCode : Scope → BitVec 3
  | .block => 0 | .group => 1 | .band => 2 | .die => 3 | .device => 4 | .system => 5

def scopeOf (c : BitVec 3) : Option Scope :=
  if c = 0 then some .block else if c = 1 then some .group else if c = 2 then some .band
  else if c = 3 then some .die else if c = 4 then some .device else if c = 5 then some .system
  else none

/-- COND (R71). -/
def condCode : Cond → BitVec 4
  | .eq => 0 | .ne => 1 | .lt => 2 | .ge => 3 | .ltu => 4 | .geu => 5

def condOf (c : BitVec 4) : Option Cond :=
  if c = 0 then some .eq else if c = 1 then some .ne else if c = 2 then some .lt
  else if c = 3 then some .ge else if c = 4 then some .ltu else if c = 5 then some .geu else none

/-- PM (R63). -/
def planeModeCode : PlaneMode → BitVec 2
  | .trunc => 0 | .guarded => 1

def planeModeOf (c : BitVec 2) : Option PlaneMode :=
  if c = 0 then some .trunc else if c = 1 then some .guarded else none

/-- The field operand of HSET and HGET (R71). -/
def shapeFieldCode : ShapeField → BitVec 4
  | .rows => 0 | .cols => 1 | .type => 2 | .store => 3 | .pitch => 4 | .mrow => 5 | .mcol => 6
  | .fmt => 7 | .limit => 8 | .scale => 9 | .fill => 10

def shapeFieldOf (c : BitVec 4) : Option ShapeField :=
  if c = 0 then some .rows else if c = 1 then some .cols else if c = 2 then some .type
  else if c = 3 then some .store else if c = 4 then some .pitch else if c = 5 then some .mrow
  else if c = 6 then some .mcol else if c = 7 then some .fmt else if c = 8 then some .limit
  else if c = 9 then some .scale else if c = 10 then some .fill else none

/-- The selector of TQRY (R71). -/
def querySelCode : QuerySel → BitVec 3
  | .capw => 0 | .capa => 1 | .capc => 2 | .capl => 3 | .caplg => 4 | .capl2 => 5
  | .reservation => 6

def querySelOf (c : BitVec 3) : Option QuerySel :=
  if c = 0 then some .capw else if c = 1 then some .capa else if c = 2 then some .capc
  else if c = 3 then some .capl else if c = 4 then some .caplg else if c = 5 then some .capl2
  else if c = 6 then some .reservation else none

/-- op of REDUCE and TSCAN (R71). -/
def redOpCode : RedOp → BitVec 4
  | .add => 0 | .min => 1 | .max => 2 | .and => 3 | .or => 4 | .xor => 5

def redOpOf (c : BitVec 4) : Option RedOp :=
  if c = 0 then some .add else if c = 1 then some .min else if c = 2 then some .max
  else if c = 3 then some .and else if c = 4 then some .or else if c = 5 then some .xor else none

/-- System register numbers (R72). -/
def sysRegCode : SysReg → BitVec 12
  | .bid => 0x000 | .gid => 0x001 | .bndid => 0x002 | .lseq => 0x003 | .tags => 0x010
  | .ldq => 0x020 | .stq => 0x021 | .cpq => 0x022 | .opq => 0x023
  | .lstat => 0x030 | .vtype => 0x031
  | .capw => 0x040 | .capa => 0x041 | .capc => 0x042 | .capl => 0x043 | .caplg => 0x044
  | .capl2 => 0x045
  | .idx k => BitVec.ofNat 12 (0x050 + k.val)
  | .tcause => 0x080 | .tpc => 0x081 | .tval => 0x082 | .tinsn => 0x083 | .tcoord => 0x084
  | .tseq => 0x085
  | .elg k => BitVec.ofNat 12 (0x088 + k.val)

def sysRegOf (c : BitVec 12) : Option SysReg :=
  match c.toNat with
  | 0x000 => some .bid | 0x001 => some .gid | 0x002 => some .bndid | 0x003 => some .lseq
  | 0x010 => some .tags | 0x020 => some .ldq | 0x021 => some .stq | 0x022 => some .cpq
  | 0x023 => some .opq | 0x030 => some .lstat | 0x031 => some .vtype
  | 0x040 => some .capw | 0x041 => some .capa | 0x042 => some .capc | 0x043 => some .capl
  | 0x044 => some .caplg | 0x045 => some .capl2
  | 0x050 => some (.idx 0) | 0x051 => some (.idx 1) | 0x052 => some (.idx 2)
  | 0x053 => some (.idx 3) | 0x054 => some (.idx 4) | 0x055 => some (.idx 5)
  | 0x080 => some .tcause | 0x081 => some .tpc | 0x082 => some .tval | 0x083 => some .tinsn
  | 0x084 => some .tcoord | 0x085 => some .tseq
  | 0x088 => some (.elg 0) | 0x089 => some (.elg 1) | 0x08A => some (.elg 2)
  | 0x08B => some (.elg 3) | 0x08C => some (.elg 4) | 0x08D => some (.elg 5)
  | 0x08E => some (.elg 6) | 0x08F => some (.elg 7)
  | _ => none

/-! ## Refusals -/

/-- The three traps that decoding can raise, in the order of R57. -/
inductive DecodeTrap where
  | illegal | undefFuture | reservedField
deriving DecidableEq, Repr

abbrev Decoded := Except DecodeTrap Instr

/-- Traps RESERVED_FIELD when `bad` (R58). -/
def needZero (bad : Bool) (k : Decoded) : Decoded := if bad then .error .reservedField else k

/-- Traps ILLEGAL when the operand is out of range (R59). -/
def needSome {α : Type} (o : Option α) (k : α → Decoded) : Decoded :=
  match o with
  | some a => k a
  | none => .error .illegal

/-- Traps RESERVED_FIELD for a code that R63 or R67 reserves. -/
def needCode {α : Type} (o : Option α) (k : α → Decoded) : Decoded :=
  match o with
  | some a => k a
  | none => .error .reservedField

/-! ## Fields of a sequencer word (R56, R60 to R66) -/

def majOf (x : BitVec 64) : BitVec 7 := x.extractLsb' 57 7
def minOf (x : BitVec 64) : BitVec 5 := x.extractLsb' 52 5
/-- A field of `w` bits whose lowest bit is `lo`. -/
def fld (x : BitVec 64) (lo w : Nat) : BitVec w := x.extractLsb' lo w
def bitB (x : BitVec 64) (k : Nat) : Bool := x.getLsbD k

/-! ## Reading the operands, one reader per set of used fields of R71 -/

def readS3 (x : BitVec 64) (mk : S3 → Instr) : Decoded :=
  needZero (fld x 0 32 != 0)
    (.ok (mk ⟨fld x 46 6, fld x 40 6, fld x 34 6, widthOf (fld x 32 2)⟩))

def readS2 (x : BitVec 64) (mk : S2 → Instr) : Decoded :=
  needZero (fld x 0 32 != 0 || fld x 34 6 != 0)
    (.ok (mk ⟨fld x 46 6, fld x 40 6, widthOf (fld x 32 2)⟩))

def readSI (x : BitVec 64) (mk : SI → Instr) : Decoded :=
  needZero (fld x 34 6 != 0)
    (.ok (mk ⟨fld x 46 6, fld x 40 6, widthOf (fld x 32 2), fld x 0 32⟩))

/-- SAMO: a SCOPE without AQ or RL is reserved (R247). -/
def readSamo (x : BitVec 64) (mk : SamoF → Instr) : Decoded :=
  needZero (fld x 1 28 != 0 || (fld x 31 3 != 0 && !(bitB x 30) && !(bitB x 29)))
    (needCode (scopeOf (fld x 31 3)) fun sc =>
      .ok (mk ⟨fld x 46 6, fld x 40 6, fld x 34 6, sc, bitB x 30, bitB x 29, bitB x 0⟩))

def readBr (x : BitVec 64) (mk : BrF → Instr) : Decoded :=
  needZero (fld x 32 3 != 0)
    (needSome (condOf (fld x 36 4)) fun c =>
      .ok (mk ⟨c, fld x 46 6, fld x 40 6, bitB x 35, fld x 0 32⟩))

def readOff (x : BitVec 64) (mk : BitVec 32 → Instr) : Decoded :=
  needZero (fld x 32 20 != 0) (.ok (mk (fld x 0 32)))

def readSaOff (x : BitVec 64) (mk : SaOff → Instr) : Decoded :=
  needZero (fld x 32 14 != 0) (.ok (mk ⟨fld x 46 6, fld x 0 32⟩))

def readBrSa (x : BitVec 64) (mk : BitVec 6 → Instr) : Decoded :=
  needZero (fld x 0 46 != 0) (.ok (mk (fld x 46 6)))

def readLbrk (x : BitVec 64) (mk : BitVec 3 → BitVec 32 → Instr) : Decoded :=
  needZero (fld x 35 17 != 0)
    (if fld x 32 3 = 0 ∨ fld x 32 3 = 7 then .error .illegal
     else .ok (mk (fld x 32 3) (fld x 0 32)))

def readSdImm (x : BitVec 64) (mk : SdImm → Instr) : Decoded :=
  needZero (fld x 32 14 != 0) (.ok (mk ⟨fld x 46 6, fld x 0 32⟩))

def readY0 (x : BitVec 64) (i : Instr) : Decoded := needZero (fld x 0 52 != 0) (.ok i)

def readSi0 (x : BitVec 64) (i : Instr) : Decoded := needZero (fld x 0 52 != 0) (.ok i)

def readRegion (x : BitVec 64) (mk : BitVec 32 → Instr) : Decoded :=
  needZero (fld x 32 20 != 0) (.ok (mk (fld x 0 32)))

def readTrap (x : BitVec 64) (mk : BitVec 16 → Instr) : Decoded :=
  needZero (fld x 16 36 != 0) (.ok (mk (fld x 0 16)))

def readSysrd (x : BitVec 64) (mk : BitVec 6 → SysReg → Instr) : Decoded :=
  needZero (fld x 12 34 != 0)
    (needSome (sysRegOf (fld x 0 12)) fun r => .ok (mk (fld x 46 6) r))

/-- Only LSTAT is writable (R72). -/
def readSyswr (x : BitVec 64) (mk : BitVec 6 → Instr) : Decoded :=
  needZero (fld x 12 28 != 0 || fld x 46 6 != 0)
    (if fld x 0 12 = 0x030 then .ok (mk (fld x 40 6)) else .error .illegal)

def readHField (x : BitVec 64) (mk : HField → Instr) : Decoded :=
  needZero (fld x 4 33 != 0 || fld x 47 5 != 0)
    (needSome (shapeFieldOf (fld x 0 4)) fun k => .ok (mk ⟨fld x 43 4, fld x 37 6, k⟩))

def readTH (x : BitVec 64) (mk : BitVec 5 → BitVec 4 → Instr) : Decoded :=
  needZero (fld x 0 43 != 0) (.ok (mk (fld x 47 5) (fld x 43 4)))

def readTxT (x : BitVec 64) (mk : BitVec 5 → Instr) : Decoded :=
  needZero (fld x 0 47 != 0) (.ok (mk (fld x 47 5)))

def readTqry (x : BitVec 64) (mk : BitVec 6 → QuerySel → Instr) : Decoded :=
  needZero (fld x 3 34 != 0 || fld x 43 9 != 0)
    (needSome (querySelOf (fld x 0 3)) fun k => .ok (mk (fld x 37 6) k))

/-- The checks of R63 that every TM word shares: PC 6 and 7, and a SCOPE without AQ or RL. -/
def tmReserved (x : BitVec 64) : Bool :=
  (fld x 34 3 == 6 || fld x 34 3 == 7) ||
  (fld x 27 3 != 0 && !(bitB x 31) && !(bitB x 30))

def readTm (x : BitVec 64) (mk : TmF → Instr) : Decoded :=
  needZero (tmReserved x || (fld x 32 2 != 0 && fld x 34 3 == 0) ||
      (fld x 21 6 != 0 && !(bitB x 20)) || fld x 15 5 != 0)
    (needCode (planeModeOf (fld x 32 2)) fun pm =>
      needCode (scopeOf (fld x 27 3)) fun sc =>
        .ok (mk ⟨fld x 47 5, fld x 43 4, fld x 37 6, fld x 34 3, pm, bitB x 31, bitB x 30, sc,
          fld x 21 6, bitB x 20, fld x 0 15⟩))

def readTmIdx (x : BitVec 64) (mk : TmIdxF → Instr) : Decoded :=
  needZero (tmReserved x || (fld x 32 2 != 0 && fld x 34 3 == 0) ||
      (fld x 21 6 != 0 && !(bitB x 20)))
    (needCode (planeModeOf (fld x 32 2)) fun pm =>
      needCode (scopeOf (fld x 27 3)) fun sc =>
        .ok (mk ⟨fld x 47 5, fld x 43 4, fld x 37 6, fld x 34 3, pm, bitB x 31, bitB x 30, sc,
          fld x 21 6, bitB x 20, fld x 15 5, fld x 0 15⟩))

/-- TAMO, TGLK and TSCC: PM, TAG and TE are reserved; PC is left to the operand checks (R71, R248). -/
def readTmAmo (x : BitVec 64) (mk : TmAmoF → Instr) : Decoded :=
  needZero (tmReserved x || fld x 32 2 != 0 || fld x 20 7 != 0)
    (needCode (scopeOf (fld x 27 3)) fun sc =>
      .ok (mk ⟨fld x 47 5, fld x 43 4, fld x 37 6, fld x 34 3, bitB x 31, bitB x 30, sc,
        fld x 15 5, fld x 0 15⟩))

/-- TWAITV: TAG holds LIM, 0 to 24; its row lists no PC, PM, RL or TE, so that they are reserved (R71, R254). -/
def readTmWait (x : BitVec 64) (mk : TmWaitF → Instr) : Decoded :=
  needZero (tmReserved x || fld x 32 5 != 0 || bitB x 20 || bitB x 30)
    (needCode (scopeOf (fld x 27 3)) fun sc =>
      if 24 < (fld x 21 6).toNat then .error .illegal
      else .ok (mk ⟨fld x 47 5, fld x 43 4, fld x 37 6, bitB x 31, sc,
        fld x 21 6, fld x 15 5, fld x 0 15⟩))

/-- WBIND: the t field is a stream register, 0 to 7 (R71). -/
def readWbind (x : BitVec 64) (mk : WbindF → Instr) : Decoded :=
  if fld x 50 2 ≠ 0 then .error .illegal
  else .ok (mk ⟨fld x 47 3, fld x 43 4, fld x 37 6, fld x 31 6, fld x 3 28, fld x 0 3⟩)

def readTldw (x : BitVec 64) (mk : BitVec 5 → BitVec 3 → Instr) : Decoded :=
  needZero (fld x 3 44 != 0) (.ok (mk (fld x 47 5) (fld x 0 3)))

def readTcb (x : BitVec 64) (mk : TcbF → Instr) : Decoded :=
  needZero (fld x 10 27 != 0 || fld x 43 9 != 0 || (fld x 4 6 != 0 && !(bitB x 3)))
    (if fld x 0 3 = 0 ∨ 4 < (fld x 0 3).toNat then .error .illegal
     else .ok (mk ⟨fld x 37 6, fld x 0 3, bitB x 3, fld x 4 6⟩))

def readBcopy (x : BitVec 64) (mk : BcopyF → Instr) : Decoded :=
  needZero (fld x 43 9 != 0 || (fld x 0 6 != 0 && !(bitB x 6)))
    (.ok (mk ⟨fld x 37 6, fld x 31 6, fld x 7 24, bitB x 6, fld x 0 6⟩))

def readWaitc (x : BitVec 64) (mk : WaitcF → Instr) : Decoded :=
  needZero (fld x 24 28 != 0) (.ok (mk ⟨fld x 18 6, fld x 12 6, fld x 6 6, fld x 0 6⟩))

def readYSa (x : BitVec 64) (mk : BitVec 6 → Instr) : Decoded :=
  needZero (fld x 0 40 != 0 || fld x 46 6 != 0) (.ok (mk (fld x 40 6)))

def readYSdSa (x : BitVec 64) (mk : BitVec 6 → BitVec 6 → Instr) : Decoded :=
  needZero (fld x 0 40 != 0) (.ok (mk (fld x 46 6) (fld x 40 6)))

def readMm (x : BitVec 64) (mk : MmF → Instr) : Decoded :=
  needZero (fld x 0 24 != 0 || fld x 25 12 != 0)
    (.ok (mk ⟨fld x 47 5, fld x 42 5, fld x 37 5, bitB x 24⟩))

/-- MAP: ta is used when IN is 1 to 3, tb when IN is 2 or 3, tc when IN is 3 or the mask is enabled (R71, R166). -/
def readMap (x : BitVec 64) (mk : MapF → Instr) : Decoded :=
  needZero (fld x 29 3 != 0 || (fld x 24 2 == 0 && fld x 42 5 != 0) ||
      ((fld x 24 2).toNat < 2 && fld x 37 5 != 0) ||
      (fld x 24 2 != 3 && !(bitB x 26) && fld x 32 5 != 0))
    (if fld x 24 2 = 0 then .error .illegal
     else .ok (mk ⟨fld x 47 5, fld x 42 5, fld x 37 5, fld x 32 5, fld x 24 2, bitB x 26,
       fld x 27 2, fld x 0 24⟩))

def readRed (x : BitVec 64) (mk : RedF → Instr) : Decoded :=
  needZero (fld x 30 2 != 0 || fld x 37 5 != 0 || (!(bitB x 28) && fld x 32 5 != 0) ||
      (!(bitB x 29) && fld x 0 24 != 0))
    (needSome (redOpOf (fld x 24 4)) fun op =>
      .ok (mk ⟨fld x 47 5, fld x 42 5, fld x 32 5, op, bitB x 28, bitB x 29, fld x 0 24⟩))

def readScan (x : BitVec 64) (mk : ScanF → Instr) : Decoded :=
  needZero (fld x 29 3 != 0 || fld x 37 5 != 0 || (!(bitB x 28) && fld x 32 5 != 0) ||
      fld x 0 24 != 0)
    (needSome (redOpOf (fld x 24 4)) fun op =>
      .ok (mk ⟨fld x 47 5, fld x 42 5, fld x 32 5, op, bitB x 28⟩))

def readTdTa (x : BitVec 64) (mk : BitVec 5 → BitVec 5 → Instr) : Decoded :=
  needZero (fld x 0 42 != 0) (.ok (mk (fld x 47 5) (fld x 42 5)))

def readTfill (x : BitVec 64) (mk : BitVec 5 → BitVec 24 → Instr) : Decoded :=
  needZero (fld x 24 23 != 0) (.ok (mk (fld x 47 5) (fld x 0 24)))

def readTxSa (x : BitVec 64) (mk : BitVec 6 → Instr) : Decoded :=
  needZero (fld x 0 37 != 0 || fld x 43 9 != 0) (.ok (mk (fld x 37 6)))

def readTxTSa (x : BitVec 64) (mk : BitVec 5 → BitVec 6 → Instr) : Decoded :=
  needZero (fld x 0 37 != 0 || fld x 43 4 != 0) (.ok (mk (fld x 47 5) (fld x 37 6)))

def readBind (x : BitVec 64) (mk : BindF → Instr) : Decoded :=
  needZero (fld x 29 5 != 0)
    (if fld x 0 29 = 0 then .error .illegal
     else .ok (mk ⟨fld x 46 6, fld x 40 6, fld x 34 6, fld x 0 29⟩))

def readFence (x : BitVec 64) (mk : Scope → Instr) : Decoded :=
  needZero (fld x 0 31 != 0 || fld x 34 18 != 0)
    (needCode (scopeOf (fld x 31 3)) fun sc => .ok (mk sc))

def readBari (x : BitVec 64) (mk : BitVec 5 → BitVec 6 → Instr) : Decoded :=
  needZero (fld x 5 35 != 0 || fld x 46 6 != 0)
    (if 19 < (fld x 0 5).toNat then .error .illegal else .ok (mk (fld x 0 5) (fld x 40 6)))

def readBar (x : BitVec 64) (mk : BarF → Instr) : Decoded :=
  needZero (fld x 8 44 != 0)
    (if 19 < (fld x 0 5).toNat ∨ fld x 5 3 = 7 then .error .illegal
     else .ok (mk ⟨fld x 0 5, fld x 5 3⟩))

def readLaunch (x : BitVec 64) (mk : BitVec 6 → BitVec 6 → BitVec 6 → Instr) : Decoded :=
  needZero (fld x 0 34 != 0) (.ok (mk (fld x 46 6) (fld x 40 6) (fld x 34 6)))

def readQring (x : BitVec 64) (mk : QringF → Instr) : Decoded :=
  needZero (fld x 25 9 != 0)
    (if 16777216 < (fld x 0 25).toNat then .error .illegal
     else .ok (mk ⟨fld x 46 6, fld x 40 6, fld x 34 6, fld x 0 25⟩))

/-! ## One decoder per major opcode (R68, R70) -/

/-- Scalar ALU with registers (R70). -/
def decodeAlu (x : BitVec 64) : Decoded :=
  match (minOf x).toNat with
  | 0 => readS3 x .add
  | 1 => readS3 x .sub
  | 2 => readS3 x .mul
  | 3 => readS3 x .mulhs
  | 4 => readS3 x .mulhu
  | 5 => readS3 x .divs
  | 6 => readS3 x .divu
  | 7 => readS3 x .rems
  | 8 => readS3 x .remu
  | 9 => readS3 x .and
  | 10 => readS3 x .or
  | 11 => readS3 x .xor
  | 12 => readS3 x .andn
  | 13 => readS3 x .shl
  | 14 => readS3 x .shrl
  | 15 => readS3 x .shra
  | 16 => readS3 x .min
  | 17 => readS3 x .max
  | 18 => readS3 x .minu
  | 19 => readS3 x .maxu
  | 20 => readS3 x .slt
  | 21 => readS3 x .sltu
  | 22 => readS3 x .sel
  | 23 => readS2 x .clz
  | 24 => readS2 x .ctz
  | 25 => readS2 x .popc
  | _ => .error .illegal

/-- Scalar ALU with an immediate (R70). -/
def decodeAluImm (x : BitVec 64) : Decoded :=
  match (minOf x).toNat with
  | 0 => readSI x .addImm
  | 1 => readSI x .subImm
  | 2 => readSI x .mulImm
  | 3 => readSI x .mulhsImm
  | 4 => readSI x .mulhuImm
  | 5 => readSI x .divsImm
  | 6 => readSI x .divuImm
  | 7 => readSI x .remsImm
  | 8 => readSI x .remuImm
  | 9 => readSI x .andImm
  | 10 => readSI x .orImm
  | 11 => readSI x .xorImm
  | 12 => readSI x .andnImm
  | 13 => readSI x .shlImm
  | 14 => readSI x .shrlImm
  | 15 => readSI x .shraImm
  | 16 => readSI x .minImm
  | 17 => readSI x .maxImm
  | 18 => readSI x .minuImm
  | 19 => readSI x .maxuImm
  | 20 => readSI x .sltImm
  | 21 => readSI x .sltuImm
  | 22 => readSI x .selImm
  | _ => .error .illegal

/-- Scalar floating point (R68). -/
def decodeFp (x : BitVec 64) : Decoded :=
  match (minOf x).toNat with
  | 0 => readS3 x .fadd
  | 1 => readS3 x .fsub
  | 2 => readS3 x .fmul
  | 3 => readS3 x .fma
  | 4 => readS3 x .fmin
  | 5 => readS3 x .fmax
  | 6 => readS3 x .fcmpEq
  | 7 => readS3 x .fcmpLt
  | 8 => readS3 x .fcmpLe
  | 9 => readS3 x .fcmpUn
  | 10 => readS2 x .fcvtFi
  | 11 => readS2 x .fcvtFn
  | 12 => readS2 x .fcvtIf
  | 13 => readS2 x .fcvtNf
  | _ => .error .illegal

/-- Scalar loads and stores (R68). -/
def decodeScalarMem (x : BitVec 64) : Decoded :=
  match (minOf x).toNat with
  | 0 => readSI x .sld
  | 1 => readSI x .sldZ
  | 2 => readSI x .sst
  | _ => .error .illegal

/-- Scalar atomics (R68, R71). -/
def decodeSamo (x : BitVec 64) : Decoded :=
  match (minOf x).toNat with
  | 0 => readSamo x .samoAdd
  | 1 => readSamo x .samoSwap
  | 2 => readSamo x .samoCas
  | 3 => readSamo x .samoMin
  | 4 => readSamo x .samoMax
  | 5 => readSamo x .samoAnd
  | 6 => readSamo x .samoOr
  | 7 => readSamo x .samoXor
  | 8 => readSamo x .samoMinu
  | 9 => readSamo x .samoMaxu
  | _ => .error .illegal

/-- B (R62, R71). -/
def decodeBranch (x : BitVec 64) : Decoded :=
  match (minOf x).toNat with
  | 0 => readBr x .bCond
  | _ => .error .illegal

/-- J, CALL and RET (R62, R71). -/
def decodeJump (x : BitVec 64) : Decoded :=
  match (minOf x).toNat with
  | 0 => readOff x .j
  | 1 => readSaOff x .call
  | 2 => readBrSa x .ret
  | _ => .error .illegal

/-- LOOP, ENDL and LBRK (R62, R71). -/
def decodeLoop (x : BitVec 64) : Decoded :=
  match (minOf x).toNat with
  | 0 => readSaOff x .loop
  | 1 => readOff x .endl
  | 2 => readLbrk x .lbrk
  | _ => .error .illegal

/-- MOVI and MOVHI (R61, R90). -/
def decodeMov (x : BitVec 64) : Decoded :=
  match (minOf x).toNat with
  | 0 => readSdImm x .movi
  | 1 => readSdImm x .movhi
  | _ => .error .illegal

/-- NOP, SYSRD, SYSWR, YIELD and EXIT (R66, R71). -/
def decodeSys (x : BitVec 64) : Decoded :=
  match (minOf x).toNat with
  | 0 => readY0 x .nop
  | 1 => readSysrd x .sysrd
  | 2 => readSyswr x .syswr
  | 3 => readY0 x .yield
  | 4 => readY0 x .exit
  | _ => .error .illegal

/-- REGION and REGEND (R61, R71). -/
def decodeRegion (x : BitVec 64) : Decoded :=
  match (minOf x).toNat with
  | 0 => readRegion x .region
  | 1 => readSi0 x .regend
  | _ => .error .illegal

/-- TRAP and ERET (R66, R71). -/
def decodeTrapOps (x : BitVec 64) : Decoded :=
  match (minOf x).toNat with
  | 0 => readTrap x .trap
  | 1 => readY0 x .eret
  | 2 => readY0 x .eretSkip
  | 3 => readY0 x .eretElem
  | _ => .error .illegal

/-- HSET, HGET, TBIND, TDROP and TQRY (R65, R71). -/
def decodeTileSetup (x : BitVec 64) : Decoded :=
  match (minOf x).toNat with
  | 0 => readHField x .hset
  | 1 => readHField x .hget
  | 2 => readTH x .tbind
  | 3 => readTxT x .tdrop
  | 4 => readTqry x .tqry
  | _ => .error .illegal

/-- TLD (R63). -/
def decodeTld (x : BitVec 64) : Decoded :=
  match (minOf x).toNat with
  | 0 => readTm x .tld
  | _ => .error .illegal

/-- TST (R63). -/
def decodeTst (x : BitVec 64) : Decoded :=
  match (minOf x).toNat with
  | 0 => readTm x .tst
  | _ => .error .illegal

/-- TLDFF (R63). -/
def decodeTldff (x : BitVec 64) : Decoded :=
  match (minOf x).toNat with
  | 0 => readTm x .tldff
  | _ => .error .illegal

/-- TGTH and TGTH.FULL (R63). -/
def decodeTgth (x : BitVec 64) : Decoded :=
  match (minOf x).toNat with
  | 0 => readTmIdx x .tgth
  | 1 => readTmIdx x .tgthFull
  | _ => .error .illegal

/-- TSCT (R63). -/
def decodeTsct (x : BitVec 64) : Decoded :=
  match (minOf x).toNat with
  | 0 => readTmIdx x .tsct
  | _ => .error .illegal

/-- WBIND and TLDW (R65, R71). -/
def decodeStream (x : BitVec 64) : Decoded :=
  match (minOf x).toNat with
  | 0 => readWbind x .wbind
  | 1 => readTldw x .tldw
  | _ => .error .illegal

/-- TCB (R65, R71). -/
def decodeTcb (x : BitVec 64) : Decoded :=
  match (minOf x).toNat with
  | 0 => readTcb x .tcb
  | _ => .error .illegal

/-- TOPT (R63). -/
def decodeTopt (x : BitVec 64) : Decoded :=
  match (minOf x).toNat with
  | 0 => readTm x .topt
  | _ => .error .illegal

/-- BCOPY (R65, R71). -/
def decodeBcopy (x : BitVec 64) : Decoded :=
  match (minOf x).toNat with
  | 0 => readBcopy x .bcopy
  | _ => .error .illegal

/-- WAITC, WAITT, TAGFF and TAGCLR (R66, R71). -/
def decodeWait (x : BitVec 64) : Decoded :=
  match (minOf x).toNat with
  | 0 => readWaitc x .waitc
  | 1 => readYSa x .waittAll
  | 2 => readYSa x .waittAny
  | 3 => readYSdSa x .tagff
  | 4 => readYSa x .tagclr
  | _ => .error .illegal

/-- MMA (R64). -/
def decodeMma (x : BitVec 64) : Decoded :=
  match (minOf x).toNat with
  | 0 => readMm x .mma
  | _ => .error .illegal

/-- MMV (R64). -/
def decodeMmv (x : BitVec 64) : Decoded :=
  match (minOf x).toNat with
  | 0 => readMm x .mmv
  | _ => .error .illegal

/-- MAP (R64, R166). -/
def decodeMap (x : BitVec 64) : Decoded :=
  match (minOf x).toNat with
  | 0 => readMap x .map
  | _ => .error .illegal

/-- REDUCE (R64, R71). -/
def decodeReduce (x : BitVec 64) : Decoded :=
  match (minOf x).toNat with
  | 0 => readRed x .reduce
  | _ => .error .illegal

/-- TCVT, TFILL, TMOV and TSCAN (R64, R71). -/
def decodeTileMisc (x : BitVec 64) : Decoded :=
  match (minOf x).toNat with
  | 0 => readTdTa x .tcvt
  | 1 => readTfill x .tfill
  | 2 => readTdTa x .tmov
  | 3 => readScan x .tscan
  | _ => .error .illegal

/-- MMAS (R64). -/
def decodeMmas (x : BitVec 64) : Decoded :=
  match (minOf x).toNat with
  | 0 => readMm x .mmas
  | _ => .error .illegal

/-- MMSS (R64). -/
def decodeMmss (x : BitVec 64) : Decoded :=
  match (minOf x).toNat with
  | 0 => readMm x .mmss
  | _ => .error .illegal

/-- TPAT, TINV and TDENS (R65, R71). -/
def decodeTrail (x : BitVec 64) : Decoded :=
  match (minOf x).toNat with
  | 0 => readTxSa x .tpat
  | 1 => readTxSa x .tinv
  | 2 => readTxTSa x .tdens
  | _ => .error .illegal

/-- ACQ and REL (R66). -/
def decodeObject (x : BitVec 64) : Decoded :=
  match (minOf x).toNat with
  | 0 => readYSa x .acqX
  | 1 => readYSa x .acqS
  | 2 => readYSa x .rel
  | _ => .error .illegal

/-- BIND and UNBIND (R66, R71). -/
def decodeBind (x : BitVec 64) : Decoded :=
  match (minOf x).toNat with
  | 0 => readBind x .bind
  | 1 => readYSdSa x .unbind
  | _ => .error .illegal

/-- FENCE (R66). -/
def decodeFence (x : BitVec 64) : Decoded :=
  match (minOf x).toNat with
  | 0 => readFence x .fence
  | _ => .error .illegal

/-- TAMO (R63, R71). -/
def decodeTamo (x : BitVec 64) : Decoded :=
  match (minOf x).toNat with
  | 0 => readTmAmo x .tamoAdd
  | 1 => readTmAmo x .tamoMin
  | 2 => readTmAmo x .tamoMax
  | 3 => readTmAmo x .tamoAnd
  | 4 => readTmAmo x .tamoOr
  | 5 => readTmAmo x .tamoXor
  | 6 => readTmAmo x .tamoSwap
  | _ => .error .illegal

/-- TGLK and TSCC (R63, R71). -/
def decodeLinked (x : BitVec 64) : Decoded :=
  match (minOf x).toNat with
  | 0 => readTmAmo x .tglk
  | 1 => readTmAmo x .tscc
  | _ => .error .illegal

/-- TWAITV (R63, R71). -/
def decodeTwaitv (x : BitVec 64) : Decoded :=
  match (minOf x).toNat with
  | 0 => readTmWait x .twaitvEq
  | 1 => readTmWait x .twaitvNe
  | 2 => readTmWait x .twaitvLt
  | 3 => readTmWait x .twaitvGe
  | 4 => readTmWait x .twaitvLtu
  | 5 => readTmWait x .twaitvGeu
  | _ => .error .illegal

/-- BARI, BARA and BARW (R66, R71). -/
def decodeBarrier (x : BitVec 64) : Decoded :=
  match (minOf x).toNat with
  | 0 => readBari x .bari
  | 1 => readBar x .bara
  | 2 => readBar x .barw
  | _ => .error .illegal

/-- TSEND and TRECV (R65). -/
def decodeChannel (x : BitVec 64) : Decoded :=
  match (minOf x).toNat with
  | 0 => readTxTSa x .tsend
  | 1 => readTxTSa x .trecv
  | _ => .error .illegal

/-- LAUNCH (R66). -/
def decodeLaunch (x : BitVec 64) : Decoded :=
  match (minOf x).toNat with
  | 0 => readLaunch x .launch
  | _ => .error .illegal

/-- QPUT and QGET (R66, R71). -/
def decodeRing (x : BitVec 64) : Decoded :=
  match (minOf x).toNat with
  | 0 => readQring x .qput
  | 1 => readQring x .qget
  | _ => .error .illegal

/-- DecodeCheck of R57 together with the reading of the operands: one sequencer word. -/
def decodeSeq (x : BitVec 64) : Decoded :=
  match (majOf x).toNat with
  | 0x01 => decodeAlu x
  | 0x02 => decodeAluImm x
  | 0x03 => decodeFp x
  | 0x04 => decodeScalarMem x
  | 0x05 => decodeSamo x
  | 0x06 => decodeBranch x
  | 0x07 => decodeJump x
  | 0x08 => decodeLoop x
  | 0x09 => decodeMov x
  | 0x0A => decodeSys x
  | 0x0B => decodeRegion x
  | 0x0C => decodeTrapOps x
  | 0x10 => decodeTileSetup x
  | 0x11 => decodeTld x
  | 0x12 => decodeTst x
  | 0x13 => decodeTldff x
  | 0x14 => decodeTgth x
  | 0x15 => decodeTsct x
  | 0x16 => decodeStream x
  | 0x17 => decodeTcb x
  | 0x18 => decodeTopt x
  | 0x19 => decodeBcopy x
  | 0x1A => decodeWait x
  | 0x20 => decodeMma x
  | 0x21 => decodeMmv x
  | 0x22 => decodeMap x
  | 0x23 => decodeReduce x
  | 0x24 => decodeTileMisc x
  | 0x28 => decodeMmas x
  | 0x29 => decodeMmss x
  | 0x2A => decodeTrail x
  | 0x30 => decodeObject x
  | 0x31 => decodeBind x
  | 0x32 => decodeFence x
  | 0x33 => decodeTamo x
  | 0x34 => decodeLinked x
  | 0x35 => decodeTwaitv x
  | 0x38 => decodeBarrier x
  | 0x39 => decodeChannel x
  | 0x3C => decodeLaunch x
  | 0x3D => decodeRing x
  | 0 => .error .illegal
  | 0x7F => .error .illegal
  | m => if 0x60 ≤ m then .error .undefFuture else .error .illegal


/-! ## Lane words (R74, R75) -/

def laneOp (x : BitVec 32) : BitVec 7 := x.extractLsb' 25 7
def laneForm (x : BitVec 32) : BitVec 2 := x.extractLsb' 23 2
def laneVd (x : BitVec 32) : BitVec 5 := x.extractLsb' 18 5
def laneVa (x : BitVec 32) : BitVec 5 := x.extractLsb' 13 5
def laneVb (x : BitVec 32) : BitVec 5 := x.extractLsb' 8 5
def lanePred (x : BitVec 32) : BitVec 5 := x.extractLsb' 3 5
def laneRe (x : BitVec 32) : Bool := x.getLsbD 2
def laneRsz (x : BitVec 32) : BitVec 2 := x.extractLsb' 0 2

/-- RSZ (R74). -/
def repSizeCode : RepSize → BitVec 2
  | .r1 => 0 | .r4 => 1 | .r16 => 2 | .r32 => 3

def repSizeOf (c : BitVec 2) : RepSize :=
  if c = 0 then .r1 else if c = 1 then .r4 else if c = 2 then .r16 else .r32

/-- Refuses a lane word with a load reason of R77. -/
def laneNeed (reason : Nat) (bad : Bool) (k : Except Nat Instr) : Except Nat Instr :=
  if bad then .error reason else k

/-- PRED: p0 to p23, or 31 for unpredicated; 24 to 30 are load reason 0x23. -/
def lanePredOf (x : BitVec 32) (k : Guard → Except Nat Instr) : Except Nat Instr :=
  if lanePred x = 31 then k none
  else if h : (lanePred x).toNat < 24 then k (some ⟨(lanePred x).toNat, h⟩) else .error 0x23

/-- PRED where it is required. -/
def lanePredReq (x : BitVec 32) (k : Fin 24 → Except Nat Instr) : Except Nat Instr :=
  if h : (lanePred x).toNat < 24 then k ⟨(lanePred x).toNat, h⟩ else .error 0x23

/-- The vb operand in FORM 00, 01 or 10, with RE in FORM 00 only. -/
def laneSrcOf (x : BitVec 32) (k : LaneSrc → Except Nat Instr) : Except Nat Instr :=
  if laneForm x = 0 then
    if laneRe x then k (.rep (laneVb x) (repSizeOf (laneRsz x)))
    else laneNeed 0x25 (laneRsz x != 0) (k (.vec (laneVb x)))
  else if laneForm x = 3 then .error 0x22
  else laneNeed 0x25 (laneRe x || laneRsz x != 0)
    (k (if laneForm x = 1 then .const (laneVb x) else .imm (laneVb x)))

/-- FORM 00 with RE and RSZ zero. -/
def laneForm0 (x : BitVec 32) (k : Except Nat Instr) : Except Nat Instr :=
  laneNeed 0x22 (laneForm x != 0) (laneNeed 0x25 (laneRe x || laneRsz x != 0) k)

def readL3 (x : BitVec 32) (mk : L3 → Instr) : Except Nat Instr :=
  laneSrcOf x fun vb => lanePredOf x fun g => .ok (mk ⟨laneVd x, laneVa x, vb, g⟩)

def readL2 (x : BitVec 32) (mk : L2 → Instr) : Except Nat Instr :=
  laneForm0 x (laneNeed 0x25 (laneVb x != 0)
    (lanePredOf x fun g => .ok (mk ⟨laneVd x, laneVa x, g⟩)))

def readLcvt (x : BitVec 32) (mk : LcvtF → Instr) : Except Nat Instr :=
  laneNeed 0x22 (laneForm x != 2) (laneNeed 0x25 (laneRe x || laneRsz x != 0)
    (lanePredOf x fun g => .ok (mk ⟨laneVd x, laneVa x, laneVb x, g⟩)))

def readLp3 (x : BitVec 32) (mk : Lp3 → Instr) : Except Nat Instr :=
  laneForm0 x (lanePredOf x fun g => .ok (mk ⟨laneVd x, laneVa x, laneVb x, g⟩))

def readLsel (x : BitVec 32) (mk : LselF → Instr) : Except Nat Instr :=
  laneSrcOf x fun vb => lanePredReq x fun p => .ok (mk ⟨laneVd x, laneVa x, vb, p⟩)

def readLmov (x : BitVec 32) (mk : LmovF → Instr) : Except Nat Instr :=
  laneNeed 0x25 (laneVa x != 0)
    (laneSrcOf x fun vb => lanePredOf x fun g => .ok (mk ⟨laneVd x, vb, g⟩))

def readLidx (x : BitVec 32) (mk : BitVec 5 → Guard → Instr) : Except Nat Instr :=
  laneForm0 x (laneNeed 0x25 (laneVa x != 0 || laneVb x != 0)
    (lanePredOf x fun g => .ok (mk (laneVd x) g)))

def readLperm (x : BitVec 32) (mk : LpermF → Instr) : Except Nat Instr :=
  laneNeed 0x22 (laneForm x != 0) (laneNeed 0x25 (!(laneRe x) && laneRsz x != 0)
    (lanePredOf x fun g => .ok (mk ⟨laneVd x, laneVa x, laneVb x,
      if laneRe x then some (repSizeOf (laneRsz x)) else none, g⟩)))

def readLcomp (x : BitVec 32) (mk : LcompF → Instr) : Except Nat Instr :=
  laneForm0 x (laneNeed 0x25 (laneVb x != 0)
    (lanePredReq x fun p => .ok (mk ⟨laneVd x, laneVa x, p⟩)))

def readLcfg (x : BitVec 32) (mk : LcfgF → Instr) : Except Nat Instr :=
  laneForm0 x (laneNeed 0x23 (lanePred x != 31)
    (laneNeed 0x25 (laneVb x != 0 || (laneVa x).getLsbD 0)
      (.ok (mk ⟨laneVd x, (laneVa x).getLsbD 4, (laneVa x).getLsbD 3,
        (laneVa x).extractLsb' 1 2⟩))))

def readLret (x : BitVec 32) (mk : BitVec 5 → Instr) : Except Nat Instr :=
  laneForm0 x (laneNeed 0x23 (lanePred x != 31)
    (laneNeed 0x25 (laneVd x != 0 || laneVb x != 0) (.ok (mk (laneVa x)))))

def readLnop (x : BitVec 32) (i : Instr) : Except Nat Instr :=
  laneForm0 x (laneNeed 0x23 (lanePred x != 31)
    (laneNeed 0x25 (laneVd x != 0 || laneVa x != 0 || laneVb x != 0) (.ok i)))

/-- Reads one lane word (R74, R75). A refusal carries the load reason of R77: 0x21, 0x22, 0x23 or 0x25. -/
def decodeLane (x : BitVec 32) : Except Nat Instr :=
  match (laneOp x).toNat with
  | 0x01 => readL3 x .vadd
  | 0x02 => readL3 x .vsub
  | 0x03 => readL3 x .vmul
  | 0x04 => readL3 x .vmulh
  | 0x05 => readL3 x .vwmac
  | 0x06 => readL3 x .vmin
  | 0x07 => readL3 x .vmax
  | 0x08 => readL3 x .vand
  | 0x09 => readL3 x .vor
  | 0x0A => readL3 x .vxor
  | 0x0B => readL3 x .vshl
  | 0x0C => readL3 x .vshr
  | 0x0D => readL3 x .vsra
  | 0x0E => readL3 x .vnshr
  | 0x0F => readL2 x .vabs
  | 0x20 => readL3 x .vfadd
  | 0x21 => readL3 x .vfsub
  | 0x22 => readL3 x .vfmul
  | 0x23 => readL3 x .vfma
  | 0x24 => readL3 x .vfmin
  | 0x25 => readL3 x .vfmax
  | 0x26 => readL2 x .vrcp
  | 0x27 => readL2 x .vrsq
  | 0x28 => readL2 x .vexp2
  | 0x29 => readL2 x .vlog2
  | 0x2A => readL2 x .vfcls
  | 0x2B => readLcvt x .vcvt
  | 0x40 => readL3 x .vcmpEq
  | 0x41 => readL3 x .vcmpNe
  | 0x42 => readL3 x .vcmpLt
  | 0x43 => readL3 x .vcmpGe
  | 0x44 => readL3 x .vcmpLe
  | 0x45 => readL3 x .vcmpGt
  | 0x46 => readLp3 x .pand
  | 0x47 => readLp3 x .por
  | 0x48 => readLp3 x .pxor
  | 0x49 => readL2 x .pnot
  | 0x4A => readLsel x .vsel
  | 0x4B => readLmov x .vmov
  | 0x4C => readLidx x .vidx
  | 0x4D => readLperm x .vperm
  | 0x4E => readL2 x .vconf
  | 0x4F => readLcomp x .vcomp
  | 0x50 => readLcfg x .vcfg
  | 0x51 => readLret x .vret
  | 0x52 => readLnop x .vnop
  | _ => .error 0x21


/-- The instruction in a table word: 64-bit sequencer words, lane words otherwise. A sequencer word is
stored little-endian (R55), a lane word too (R74), so bit 0 of the word is bit 0 of the table's number. -/
def decodeTableWord (nbits w : Nat) : Option Instr :=
  if nbits ≤ 32 then (decodeLane (BitVec.ofNat 32 w)).toOption
  else (decodeSeq (BitVec.ofNat 64 w)).toOption

/-! ## The encoder -/

def b1 (b : Bool) : BitVec 1 := BitVec.ofBool b

def packS3 (maj : BitVec 7) (min : BitVec 5) (f : S3) : BitVec 64 :=
  maj ++ min ++ f.sd ++ f.sa ++ f.sb ++ widthCode f.w ++ 0#32
def packS2 (maj : BitVec 7) (min : BitVec 5) (f : S2) : BitVec 64 :=
  maj ++ min ++ f.sd ++ f.sa ++ 0#6 ++ widthCode f.w ++ 0#32
def packSI (maj : BitVec 7) (min : BitVec 5) (f : SI) : BitVec 64 :=
  maj ++ min ++ f.sd ++ f.sa ++ 0#6 ++ widthCode f.w ++ f.imm
def packSamo (maj : BitVec 7) (min : BitVec 5) (f : SamoF) : BitVec 64 :=
  maj ++ min ++ f.sd ++ f.sa ++ f.sb ++ scopeCode f.scope ++ b1 f.aq ++ b1 f.rl ++ 0#28 ++ b1 f.w32
def packBr (maj : BitVec 7) (min : BitVec 5) (f : BrF) : BitVec 64 :=
  maj ++ min ++ f.sa ++ f.sb ++ condCode f.cond ++ b1 f.hint ++ 0#3 ++ f.off
def packOff (maj : BitVec 7) (min : BitVec 5) (off : BitVec 32) : BitVec 64 :=
  maj ++ min ++ 0#20 ++ off
def packSaOff (maj : BitVec 7) (min : BitVec 5) (f : SaOff) : BitVec 64 :=
  maj ++ min ++ f.sa ++ 0#14 ++ f.off
def packBrSa (maj : BitVec 7) (min : BitVec 5) (sa : BitVec 6) : BitVec 64 :=
  maj ++ min ++ sa ++ 0#46
def packLbrk (maj : BitVec 7) (min : BitVec 5) (lv : BitVec 3) (off : BitVec 32) : BitVec 64 :=
  maj ++ min ++ 0#17 ++ lv ++ off
def packSdImm (maj : BitVec 7) (min : BitVec 5) (f : SdImm) : BitVec 64 :=
  maj ++ min ++ f.sd ++ 0#14 ++ f.imm
def packY0 (maj : BitVec 7) (min : BitVec 5) : BitVec 64 := maj ++ min ++ 0#52
def packSi0 (maj : BitVec 7) (min : BitVec 5) : BitVec 64 := maj ++ min ++ 0#52
def packRegion (maj : BitVec 7) (min : BitVec 5) (mask : BitVec 32) : BitVec 64 :=
  maj ++ min ++ 0#20 ++ mask
def packTrap (maj : BitVec 7) (min : BitVec 5) (code : BitVec 16) : BitVec 64 :=
  maj ++ min ++ 0#36 ++ code
def packSysrd (maj : BitVec 7) (min : BitVec 5) (sd : BitVec 6) (r : SysReg) : BitVec 64 :=
  maj ++ min ++ sd ++ 0#34 ++ sysRegCode r
def packSyswr (maj : BitVec 7) (min : BitVec 5) (sa : BitVec 6) : BitVec 64 :=
  maj ++ min ++ 0#6 ++ sa ++ 0#28 ++ 0x030#12
def packHField (maj : BitVec 7) (min : BitVec 5) (f : HField) : BitVec 64 :=
  maj ++ min ++ 0#5 ++ f.h ++ f.sa ++ 0#33 ++ shapeFieldCode f.field
def packTH (maj : BitVec 7) (min : BitVec 5) (t : BitVec 5) (h : BitVec 4) : BitVec 64 :=
  maj ++ min ++ t ++ h ++ 0#43
def packTxT (maj : BitVec 7) (min : BitVec 5) (t : BitVec 5) : BitVec 64 :=
  maj ++ min ++ t ++ 0#47
def packTqry (maj : BitVec 7) (min : BitVec 5) (sa : BitVec 6) (sel : QuerySel) : BitVec 64 :=
  maj ++ min ++ 0#9 ++ sa ++ 0#34 ++ querySelCode sel
def packTm (maj : BitVec 7) (min : BitVec 5) (f : TmF) : BitVec 64 :=
  maj ++ min ++ f.t ++ f.h ++ f.s ++ f.pc ++ planeModeCode f.pm ++ b1 f.aq ++ b1 f.rl ++
    scopeCode f.scope ++ f.tag ++ b1 f.te ++ 0#5 ++ f.off
def packTmIdx (maj : BitVec 7) (min : BitVec 5) (f : TmIdxF) : BitVec 64 :=
  maj ++ min ++ f.t ++ f.h ++ f.s ++ f.pc ++ planeModeCode f.pm ++ b1 f.aq ++ b1 f.rl ++
    scopeCode f.scope ++ f.tag ++ b1 f.te ++ f.t2 ++ f.off
def packTmAmo (maj : BitVec 7) (min : BitVec 5) (f : TmAmoF) : BitVec 64 :=
  maj ++ min ++ f.t ++ f.h ++ f.s ++ f.pc ++ 0#2 ++ b1 f.aq ++ b1 f.rl ++
    scopeCode f.scope ++ 0#7 ++ f.t2 ++ f.off
def packTmWait (maj : BitVec 7) (min : BitVec 5) (f : TmWaitF) : BitVec 64 :=
  maj ++ min ++ f.t ++ f.h ++ f.s ++ 0#5 ++ b1 f.aq ++ 0#1 ++
    scopeCode f.scope ++ f.lim ++ 0#1 ++ f.t2 ++ f.off
def packWbind (maj : BitVec 7) (min : BitVec 5) (f : WbindF) : BitVec 64 :=
  maj ++ min ++ 0#2 ++ f.w ++ f.h ++ f.sa ++ f.sb ++ f.count ++ f.depth
def packTldw (maj : BitVec 7) (min : BitVec 5) (t : BitVec 5) (w : BitVec 3) : BitVec 64 :=
  maj ++ min ++ t ++ 0#44 ++ w
def packTcb (maj : BitVec 7) (min : BitVec 5) (f : TcbF) : BitVec 64 :=
  maj ++ min ++ 0#9 ++ f.sa ++ 0#27 ++ f.tag ++ b1 f.te ++ f.n
def packBcopy (maj : BitVec 7) (min : BitVec 5) (f : BcopyF) : BitVec 64 :=
  maj ++ min ++ 0#9 ++ f.sa ++ f.sb ++ f.len ++ b1 f.te ++ f.tag
def packWaitc (maj : BitVec 7) (min : BitVec 5) (f : WaitcF) : BitVec 64 :=
  maj ++ min ++ 0#28 ++ f.ld ++ f.st ++ f.cp ++ f.op
def packYSa (maj : BitVec 7) (min : BitVec 5) (sa : BitVec 6) : BitVec 64 :=
  maj ++ min ++ 0#6 ++ sa ++ 0#40
def packYSdSa (maj : BitVec 7) (min : BitVec 5) (sd sa : BitVec 6) : BitVec 64 :=
  maj ++ min ++ sd ++ sa ++ 0#40
def packMm (maj : BitVec 7) (min : BitVec 5) (f : MmF) : BitVec 64 :=
  maj ++ min ++ f.td ++ f.ta ++ f.tb ++ 0#12 ++ b1 f.acc ++ 0#24
def packMap (maj : BitVec 7) (min : BitVec 5) (f : MapF) : BitVec 64 :=
  maj ++ min ++ f.td ++ f.ta ++ f.tb ++ f.tc ++ 0#3 ++ f.seg ++ b1 f.me ++ f.nin ++ f.imm
def packRed (maj : BitVec 7) (min : BitVec 5) (f : RedF) : BitVec 64 :=
  maj ++ min ++ f.td ++ f.ta ++ 0#5 ++ f.tc ++ 0#2 ++ b1 f.pf ++ b1 f.me ++ redOpCode f.op ++ f.imm
def packScan (maj : BitVec 7) (min : BitVec 5) (f : ScanF) : BitVec 64 :=
  maj ++ min ++ f.td ++ f.ta ++ 0#5 ++ f.tc ++ 0#3 ++ b1 f.me ++ redOpCode f.op ++ 0#24
def packTdTa (maj : BitVec 7) (min : BitVec 5) (td ta : BitVec 5) : BitVec 64 :=
  maj ++ min ++ td ++ ta ++ 0#42
def packTfill (maj : BitVec 7) (min : BitVec 5) (td : BitVec 5) (imm : BitVec 24) : BitVec 64 :=
  maj ++ min ++ td ++ 0#23 ++ imm
def packTxSa (maj : BitVec 7) (min : BitVec 5) (sa : BitVec 6) : BitVec 64 :=
  maj ++ min ++ 0#9 ++ sa ++ 0#37
def packTxTSa (maj : BitVec 7) (min : BitVec 5) (t : BitVec 5) (sa : BitVec 6) : BitVec 64 :=
  maj ++ min ++ t ++ 0#4 ++ sa ++ 0#37
def packBind (maj : BitVec 7) (min : BitVec 5) (f : BindF) : BitVec 64 :=
  maj ++ min ++ f.sd ++ f.sa ++ f.sb ++ 0#5 ++ f.len
def packFence (maj : BitVec 7) (min : BitVec 5) (scope : Scope) : BitVec 64 :=
  maj ++ min ++ 0#18 ++ scopeCode scope ++ 0#31
def packBari (maj : BitVec 7) (min : BitVec 5) (b : BitVec 5) (sa : BitVec 6) : BitVec 64 :=
  maj ++ min ++ 0#6 ++ sa ++ 0#35 ++ b
def packBar (maj : BitVec 7) (min : BitVec 5) (f : BarF) : BitVec 64 :=
  maj ++ min ++ 0#44 ++ f.ph ++ f.b
def packLaunch (maj : BitVec 7) (min : BitVec 5) (sd sa sb : BitVec 6) : BitVec 64 :=
  maj ++ min ++ sd ++ sa ++ sb ++ 0#34
def packQring (maj : BitVec 7) (min : BitVec 5) (f : QringF) : BitVec 64 :=
  maj ++ min ++ f.sd ++ f.sa ++ f.sb ++ 0#9 ++ f.lim

/-- PRED (R74). -/
def predCode (g : Guard) : BitVec 5 :=
  match g with
  | some p => BitVec.ofNat 5 p.val
  | none => 31#5

/-- FORM, vb, RE and RSZ of a vb operand. -/
def packLane (op : BitVec 7) (vd va : BitVec 5) (vb : LaneSrc) (pred : BitVec 5) : BitVec 32 :=
  match vb with
  | .vec r => op ++ 0#2 ++ vd ++ va ++ r ++ pred ++ 0#3
  | .rep r z => op ++ 0#2 ++ vd ++ va ++ r ++ pred ++ 1#1 ++ repSizeCode z
  | .const c => op ++ 1#2 ++ vd ++ va ++ c ++ pred ++ 0#3
  | .imm i => op ++ 2#2 ++ vd ++ va ++ i ++ pred ++ 0#3

def packL3 (op : BitVec 7) (f : L3) : BitVec 32 := packLane op f.vd f.va f.vb (predCode f.guard)
def packL2 (op : BitVec 7) (f : L2) : BitVec 32 := packLane op f.vd f.va (.vec 0) (predCode f.guard)
def packLcvt (op : BitVec 7) (f : LcvtF) : BitVec 32 :=
  packLane op f.vd f.va (.imm f.ty) (predCode f.guard)
def packLp3 (op : BitVec 7) (f : Lp3) : BitVec 32 :=
  packLane op f.vd f.va (.vec f.vb) (predCode f.guard)
def packLsel (op : BitVec 7) (f : LselF) : BitVec 32 := packLane op f.vd f.va f.vb (predCode (some f.p))
def packLmov (op : BitVec 7) (f : LmovF) : BitVec 32 := packLane op f.vd 0 f.vb (predCode f.guard)
def packLidx (op : BitVec 7) (vd : BitVec 5) (guard : Guard) : BitVec 32 :=
  packLane op vd 0 (.vec 0) (predCode guard)
def packLperm (op : BitVec 7) (f : LpermF) : BitVec 32 :=
  packLane op f.vd f.va
    (match f.rep with | some z => .rep f.vb z | none => .vec f.vb) (predCode f.guard)
def packLcomp (op : BitVec 7) (f : LcompF) : BitVec 32 :=
  packLane op f.vd f.va (.vec 0) (predCode (some f.p))
def packLcfg (op : BitVec 7) (f : LcfgF) : BitVec 32 :=
  packLane op f.ty (b1 f.fzi ++ b1 f.fzo ++ f.xrm ++ 0#1) (.vec 0) 31#5
def packLret (op : BitVec 7) (va : BitVec 5) : BitVec 32 := packLane op 0 va (.vec 0) 31#5
def packLnop (op : BitVec 7) : BitVec 32 := packLane op 0 0 (.vec 0) 31#5

/-- The word of a sequencer instruction (R60 to R71); none for a lane instruction or a system event. -/
def encodeSeq (i : Instr) : Option (BitVec 64) :=
  match i with
  | .add f => some (packS3 0x01 0 f)
  | .sub f => some (packS3 0x01 1 f)
  | .mul f => some (packS3 0x01 2 f)
  | .mulhs f => some (packS3 0x01 3 f)
  | .mulhu f => some (packS3 0x01 4 f)
  | .divs f => some (packS3 0x01 5 f)
  | .divu f => some (packS3 0x01 6 f)
  | .rems f => some (packS3 0x01 7 f)
  | .remu f => some (packS3 0x01 8 f)
  | .and f => some (packS3 0x01 9 f)
  | .or f => some (packS3 0x01 10 f)
  | .xor f => some (packS3 0x01 11 f)
  | .andn f => some (packS3 0x01 12 f)
  | .shl f => some (packS3 0x01 13 f)
  | .shrl f => some (packS3 0x01 14 f)
  | .shra f => some (packS3 0x01 15 f)
  | .min f => some (packS3 0x01 16 f)
  | .max f => some (packS3 0x01 17 f)
  | .minu f => some (packS3 0x01 18 f)
  | .maxu f => some (packS3 0x01 19 f)
  | .slt f => some (packS3 0x01 20 f)
  | .sltu f => some (packS3 0x01 21 f)
  | .sel f => some (packS3 0x01 22 f)
  | .clz f => some (packS2 0x01 23 f)
  | .ctz f => some (packS2 0x01 24 f)
  | .popc f => some (packS2 0x01 25 f)
  | .addImm f => some (packSI 0x02 0 f)
  | .subImm f => some (packSI 0x02 1 f)
  | .mulImm f => some (packSI 0x02 2 f)
  | .mulhsImm f => some (packSI 0x02 3 f)
  | .mulhuImm f => some (packSI 0x02 4 f)
  | .divsImm f => some (packSI 0x02 5 f)
  | .divuImm f => some (packSI 0x02 6 f)
  | .remsImm f => some (packSI 0x02 7 f)
  | .remuImm f => some (packSI 0x02 8 f)
  | .andImm f => some (packSI 0x02 9 f)
  | .orImm f => some (packSI 0x02 10 f)
  | .xorImm f => some (packSI 0x02 11 f)
  | .andnImm f => some (packSI 0x02 12 f)
  | .shlImm f => some (packSI 0x02 13 f)
  | .shrlImm f => some (packSI 0x02 14 f)
  | .shraImm f => some (packSI 0x02 15 f)
  | .minImm f => some (packSI 0x02 16 f)
  | .maxImm f => some (packSI 0x02 17 f)
  | .minuImm f => some (packSI 0x02 18 f)
  | .maxuImm f => some (packSI 0x02 19 f)
  | .sltImm f => some (packSI 0x02 20 f)
  | .sltuImm f => some (packSI 0x02 21 f)
  | .selImm f => some (packSI 0x02 22 f)
  | .fadd f => some (packS3 0x03 0 f)
  | .fsub f => some (packS3 0x03 1 f)
  | .fmul f => some (packS3 0x03 2 f)
  | .fma f => some (packS3 0x03 3 f)
  | .fmin f => some (packS3 0x03 4 f)
  | .fmax f => some (packS3 0x03 5 f)
  | .fcmpEq f => some (packS3 0x03 6 f)
  | .fcmpLt f => some (packS3 0x03 7 f)
  | .fcmpLe f => some (packS3 0x03 8 f)
  | .fcmpUn f => some (packS3 0x03 9 f)
  | .fcvtFi f => some (packS2 0x03 10 f)
  | .fcvtFn f => some (packS2 0x03 11 f)
  | .fcvtIf f => some (packS2 0x03 12 f)
  | .fcvtNf f => some (packS2 0x03 13 f)
  | .sld f => some (packSI 0x04 0 f)
  | .sldZ f => some (packSI 0x04 1 f)
  | .sst f => some (packSI 0x04 2 f)
  | .samoAdd f => some (packSamo 0x05 0 f)
  | .samoSwap f => some (packSamo 0x05 1 f)
  | .samoCas f => some (packSamo 0x05 2 f)
  | .samoMin f => some (packSamo 0x05 3 f)
  | .samoMax f => some (packSamo 0x05 4 f)
  | .samoAnd f => some (packSamo 0x05 5 f)
  | .samoOr f => some (packSamo 0x05 6 f)
  | .samoXor f => some (packSamo 0x05 7 f)
  | .samoMinu f => some (packSamo 0x05 8 f)
  | .samoMaxu f => some (packSamo 0x05 9 f)
  | .bCond f => some (packBr 0x06 0 f)
  | .j off => some (packOff 0x07 0 off)
  | .call f => some (packSaOff 0x07 1 f)
  | .ret sa => some (packBrSa 0x07 2 sa)
  | .loop f => some (packSaOff 0x08 0 f)
  | .endl off => some (packOff 0x08 1 off)
  | .lbrk lv off => some (packLbrk 0x08 2 lv off)
  | .movi f => some (packSdImm 0x09 0 f)
  | .movhi f => some (packSdImm 0x09 1 f)
  | .nop => some (packY0 0x0A 0)
  | .sysrd sd r => some (packSysrd 0x0A 1 sd r)
  | .syswr sa => some (packSyswr 0x0A 2 sa)
  | .yield => some (packY0 0x0A 3)
  | .exit => some (packY0 0x0A 4)
  | .region mask => some (packRegion 0x0B 0 mask)
  | .regend => some (packSi0 0x0B 1)
  | .trap code => some (packTrap 0x0C 0 code)
  | .eret => some (packY0 0x0C 1)
  | .eretSkip => some (packY0 0x0C 2)
  | .eretElem => some (packY0 0x0C 3)
  | .hset f => some (packHField 0x10 0 f)
  | .hget f => some (packHField 0x10 1 f)
  | .tbind t h => some (packTH 0x10 2 t h)
  | .tdrop t => some (packTxT 0x10 3 t)
  | .tqry sa sel => some (packTqry 0x10 4 sa sel)
  | .tld f => some (packTm 0x11 0 f)
  | .tst f => some (packTm 0x12 0 f)
  | .tldff f => some (packTm 0x13 0 f)
  | .tgth f => some (packTmIdx 0x14 0 f)
  | .tgthFull f => some (packTmIdx 0x14 1 f)
  | .tsct f => some (packTmIdx 0x15 0 f)
  | .wbind f => some (packWbind 0x16 0 f)
  | .tldw t w => some (packTldw 0x16 1 t w)
  | .tcb f => some (packTcb 0x17 0 f)
  | .topt f => some (packTm 0x18 0 f)
  | .bcopy f => some (packBcopy 0x19 0 f)
  | .waitc f => some (packWaitc 0x1A 0 f)
  | .waittAll sa => some (packYSa 0x1A 1 sa)
  | .waittAny sa => some (packYSa 0x1A 2 sa)
  | .tagff sd sa => some (packYSdSa 0x1A 3 sd sa)
  | .tagclr sa => some (packYSa 0x1A 4 sa)
  | .mma f => some (packMm 0x20 0 f)
  | .mmv f => some (packMm 0x21 0 f)
  | .map f => some (packMap 0x22 0 f)
  | .reduce f => some (packRed 0x23 0 f)
  | .tcvt td ta => some (packTdTa 0x24 0 td ta)
  | .tfill td imm => some (packTfill 0x24 1 td imm)
  | .tmov td ta => some (packTdTa 0x24 2 td ta)
  | .tscan f => some (packScan 0x24 3 f)
  | .mmas f => some (packMm 0x28 0 f)
  | .mmss f => some (packMm 0x29 0 f)
  | .tpat sa => some (packTxSa 0x2A 0 sa)
  | .tinv sa => some (packTxSa 0x2A 1 sa)
  | .tdens t sa => some (packTxTSa 0x2A 2 t sa)
  | .acqX sa => some (packYSa 0x30 0 sa)
  | .acqS sa => some (packYSa 0x30 1 sa)
  | .rel sa => some (packYSa 0x30 2 sa)
  | .bind f => some (packBind 0x31 0 f)
  | .unbind sd sa => some (packYSdSa 0x31 1 sd sa)
  | .fence scope => some (packFence 0x32 0 scope)
  | .tamoAdd f => some (packTmAmo 0x33 0 f)
  | .tamoMin f => some (packTmAmo 0x33 1 f)
  | .tamoMax f => some (packTmAmo 0x33 2 f)
  | .tamoAnd f => some (packTmAmo 0x33 3 f)
  | .tamoOr f => some (packTmAmo 0x33 4 f)
  | .tamoXor f => some (packTmAmo 0x33 5 f)
  | .tamoSwap f => some (packTmAmo 0x33 6 f)
  | .tglk f => some (packTmAmo 0x34 0 f)
  | .tscc f => some (packTmAmo 0x34 1 f)
  | .twaitvEq f => some (packTmWait 0x35 0 f)
  | .twaitvNe f => some (packTmWait 0x35 1 f)
  | .twaitvLt f => some (packTmWait 0x35 2 f)
  | .twaitvGe f => some (packTmWait 0x35 3 f)
  | .twaitvLtu f => some (packTmWait 0x35 4 f)
  | .twaitvGeu f => some (packTmWait 0x35 5 f)
  | .bari b sa => some (packBari 0x38 0 b sa)
  | .bara f => some (packBar 0x38 1 f)
  | .barw f => some (packBar 0x38 2 f)
  | .tsend t sa => some (packTxTSa 0x39 0 t sa)
  | .trecv t sa => some (packTxTSa 0x39 1 t sa)
  | .launch sd sa sb => some (packLaunch 0x3C 0 sd sa sb)
  | .qput f => some (packQring 0x3D 0 f)
  | .qget f => some (packQring 0x3D 1 f)
  | _ => none

/-- The word of a lane instruction (R74, R75). -/
def encodeLane (i : Instr) : Option (BitVec 32) :=
  match i with
  | .vadd f => some (packL3 0x01 f)
  | .vsub f => some (packL3 0x02 f)
  | .vmul f => some (packL3 0x03 f)
  | .vmulh f => some (packL3 0x04 f)
  | .vwmac f => some (packL3 0x05 f)
  | .vmin f => some (packL3 0x06 f)
  | .vmax f => some (packL3 0x07 f)
  | .vand f => some (packL3 0x08 f)
  | .vor f => some (packL3 0x09 f)
  | .vxor f => some (packL3 0x0A f)
  | .vshl f => some (packL3 0x0B f)
  | .vshr f => some (packL3 0x0C f)
  | .vsra f => some (packL3 0x0D f)
  | .vnshr f => some (packL3 0x0E f)
  | .vabs f => some (packL2 0x0F f)
  | .vfadd f => some (packL3 0x20 f)
  | .vfsub f => some (packL3 0x21 f)
  | .vfmul f => some (packL3 0x22 f)
  | .vfma f => some (packL3 0x23 f)
  | .vfmin f => some (packL3 0x24 f)
  | .vfmax f => some (packL3 0x25 f)
  | .vrcp f => some (packL2 0x26 f)
  | .vrsq f => some (packL2 0x27 f)
  | .vexp2 f => some (packL2 0x28 f)
  | .vlog2 f => some (packL2 0x29 f)
  | .vfcls f => some (packL2 0x2A f)
  | .vcvt f => some (packLcvt 0x2B f)
  | .vcmpEq f => some (packL3 0x40 f)
  | .vcmpNe f => some (packL3 0x41 f)
  | .vcmpLt f => some (packL3 0x42 f)
  | .vcmpGe f => some (packL3 0x43 f)
  | .vcmpLe f => some (packL3 0x44 f)
  | .vcmpGt f => some (packL3 0x45 f)
  | .pand f => some (packLp3 0x46 f)
  | .por f => some (packLp3 0x47 f)
  | .pxor f => some (packLp3 0x48 f)
  | .pnot f => some (packL2 0x49 f)
  | .vsel f => some (packLsel 0x4A f)
  | .vmov f => some (packLmov 0x4B f)
  | .vidx vd guard => some (packLidx 0x4C vd guard)
  | .vperm f => some (packLperm 0x4D f)
  | .vconf f => some (packL2 0x4E f)
  | .vcomp f => some (packLcomp 0x4F f)
  | .vcfg f => some (packLcfg 0x50 f)
  | .vret va => some (packLret 0x51 va)
  | .vnop => some (packLnop 0x52)
  | _ => none


/-- The words of an instruction; a system event has none. -/
inductive Code where
  | seq (w : BitVec 64)
  | lane (w : BitVec 32)
  | event
deriving DecidableEq, Repr

/-- The word of every instruction (R60 to R75). -/
def encode (i : Instr) : Code :=
  match encodeSeq i with
  | some w => .seq w
  | none =>
    match encodeLane i with
    | some w => .lane w
    | none => .event

/-- Decoding of a word of either kind. -/
def decode (c : Code) : Option Instr :=
  match c with
  | .seq w => (decodeSeq w).toOption
  | .lane w => (decodeLane w).toOption
  | .event => none

end Sys2Proof
end

