-- ==== Sys2Proof/Config.lean ====
section
/-!
DEFINITION. What the spec leaves to a part and what stays free. Every opaque constant has no body that Lean
can evaluate: a statement about it holds for every value.
-/
namespace Sys2Proof.Config

/-! ## Free values -/

/-- VEXP2 and VLOG2 return either neighbour of an inexact result (R197). `n` counts lane instructions, `p` is
the position and `x` the operand. Log entry 3. -/
opaque faithfulUp (n p : Nat) (x : Half) : Bool

/-- The scale vector of an SP2 tile that TFILL writes: R179 gives the weight bytes only. `n` numbers the TFILL,
`c` is the column. Log entry 16. -/
opaque fillScale (n c : Nat) : BitVec 16

/-- An entry of a codebook table whose TCB an ERET.SKIP completed, and FILL of a TLDFF that one completed before it found
where it stops: the spec gives neither. `n` numbers the skips. Log entry 25. -/
opaque skippedTable (n j : Nat) : BitVec 16
opaque skippedFill (n : Nat) : BitVec 32

/-- Candidates for the holder token of a block: its value is not given, only that it is nonzero and unique
(R240). Log entry 4. -/
opaque holderToken (n : Nat) : BitVec 32

/-- The place of the `n`-th stop record in its context's save area, in lines: "the address the context assigns" (R271).
Log entry 5. -/
opaque stopRecordLine (n : Nat) : Word

/-- Byte `j` of the body of record `i` of save image `n`, and the bodies' lengths: they have no byte layout (R318 to R320).
Log entry 17. -/
opaque bodyByte (n i j : Nat) : Byte
opaque bodyLength (n i : Nat) : BitVec 32

/-- Byte `j` of stop record `n` and its length (R271, R320). Log entries 5 and 17. -/
opaque stopByte (n j : Nat) : Byte
opaque stopLength (n : Nat) : BitVec 16

/-- The header of message `n` of a Decamp session whose body is a page of some size and attributes, a piece of a record or the end, and
what AES-256-GCM makes of a body under a key, an IV and a header, the sealed bytes and the tag: the
layout of the one and the algorithm of the other are outside the spec (R328). Log entry 73. -/
opaque decampHeader (n kind va size flags len : Nat) : BitVec 256
opaque gcmSeal (key : BitVec 256) (iv : BitVec 96) (header : BitVec 256) (body : List Byte) : List Byte
opaque gcmTag (key : BitVec 256) (iv : BitVec 96) (header : BitVec 256) (body : List Byte) : BitVec 128

/-- Address in the kernel arena of a kernel's tile code, in units of 8 bytes: the spec gives none (R307).
Log entry 6. -/
opaque arenaBase (handle : BitVec 32) : BitVec 61

/-- Address in the arena of a kernel's handler section, in units of 8 bytes (R307). Log entry 6. -/
opaque handlerBase (handle : BitVec 32) : BitVec 61

/-- SHA-384 of a byte string (R306, R319, R417): the algorithm is outside the spec. Log entry 7. -/
opaque sha384 (data : List Byte) : BitVec 384

/-- Bytes of an attestation signature: `n` is the request, `i` the byte (R417). Log entry 7. -/
opaque signatureByte (n i : Nat) : Byte

/-- Measurements of the boot ROM and of the firmware image (R417). Log entry 7. -/
opaque romDigest : BitVec 384
opaque firmwareDigest (fwver : BitVec 32) (svn : BitVec 8) : BitVec 384

/-- EMUSET is set by firmware (R311). Log entry 8. -/
opaque emulatedMajors : BitVec 31

/-- The fused minimum SVN (R413) and the fused count of LMS leaves (R417). Log entry 9. -/
opaque fusedSvn : BitVec 8
opaque fusedLeaves : BitVec 16

/-- Whether the slots of a control flit say FENCE: its layout is not given (R401, R402). Log entry 20. -/
opaque fenceFlit (slots : List Byte) : Bool

/-- How many lines version `v` of the block in a slot has in a logical tile-store bank, and how many a prefetched tile `i` of its
stream `w` and the tile that its instruction `f` densifies: where Rename places them is not given (R121, R365). Log entry 18. -/
opaque linesIn (bank slot v : Nat) : Nat
opaque prefetchLinesIn (bank slot w i : Nat) : Nat
opaque denseLinesIn (bank slot f : Nat) : Nat

/-- The set of an L2 slice that a line belongs to: the index is not given (R18, R371). Log entry 60. -/
opaque l2Set (line : Nat) : BitVec 8

/-- A count that a field of a directory entry cannot hold: the spec states no result. `n` numbers the entries, `i` the fields (R226).
Log entry 70. -/
opaque directoryField (n i : Nat) : BitVec 25

/-! ## What the part fixes -/

/-- Stepping code of A2 (R297). -/
def stepping : BitVec 8 := 0x12
/-- The level of the tile architecture (R1). -/
def isaLevel : BitVec 8 := 2
/-- Recommended prefetch depth, source 9 of R309. -/
def prefetchDepth : Nat := 2

end Sys2Proof.Config
end

