-- ==== Sys2Proof/Machine/Float.lean ====
section
/-!
DEFINITION. Numbers (02): fixed-point rounding, the three floating-point formats computed exactly and
rounded once, layered numbers and SP2 weights. All arithmetic is on integers: a finite value is
`m × 2^e` with exact `m` and `e`.
-/
namespace Sys2Proof.Machine

/-! ## Integers and fixed point (R29 to R31) -/

/-- XRM (R30). -/
inductive RoundMode where
  | rnu | rne | rdn | rod
deriving DecidableEq, Repr

/-- The XRM code of R30. -/
def roundModeOf (c : BitVec 2) : RoundMode :=
  if c = 0 then .rnu else if c = 1 then .rne else if c = 2 then .rdn else .rod

/-- ShiftRound of R30: `x` is exact, `n` the shift count. -/
def shiftRound (x : Int) (n : Nat) (mode : RoundMode) : Int :=
  if n = 0 then x
  else
    let q := x >>> n
    let lost := x - q * 2 ^ n
    let half : Int := 2 ^ (n - 1)
    match mode with
    | .rnu => if half ≤ lost then q + 1 else q
    | .rne => if half < lost ∨ (lost = half ∧ q % 2 = 1) then q + 1 else q
    | .rdn => q
    | .rod => if lost = 0 then q else if q % 2 = 0 then q + 1 else q

/-- Clamp of R29. -/
def clampInt (lo hi v : Int) : Int := if v < lo then lo else if hi < v then hi else v

/-- The least value of an integer type of `n` bits (R29). -/
def intMin (signed : Bool) (n : Nat) : Int := if signed then -(2 ^ (n - 1)) else 0
/-- The greatest value of an integer type of `n` bits (R29). -/
def intMax (signed : Bool) (n : Nat) : Int := if signed then 2 ^ (n - 1) - 1 else 2 ^ n - 1

/-- The low `n` bits of a pattern as a value of an integer type (R185). -/
def readInt (signed : Bool) (n : Nat) (x : Nat) : Int :=
  let u := x % 2 ^ n
  if signed ∧ 2 ^ (n - 1) ≤ u then (u : Int) - 2 ^ n else u

/-- `v` modulo 2^n, as a pattern (R29). -/
def wrapInt (n : Nat) (v : Int) : Nat := (v % (2 ^ n : Nat)).toNat

/-! ## Floating point (R32 to R37) -/

/-- A floating-point format: exponent and fraction widths (R32). -/
structure FpFmt where
  ebits : Nat
  fbits : Nat
deriving DecidableEq, Repr

def fp32 : FpFmt := ⟨8, 23⟩
def fp16 : FpFmt := ⟨5, 10⟩
def bf16 : FpFmt := ⟨8, 7⟩

def FpFmt.bias (f : FpFmt) : Int := 2 ^ (f.ebits - 1) - 1
def FpFmt.expOnes (f : FpFmt) : Nat := 2 ^ f.ebits - 1
def FpFmt.width (f : FpFmt) : Nat := 1 + f.ebits + f.fbits

/-- A floating-point value. A finite value is nonzero: `m × 2^e`, with its sign. -/
inductive Fp where
  | nan (signalling : Bool)
  | inf (neg : Bool)
  | zero (neg : Bool)
  | fin (neg : Bool) (m : Nat) (e : Int)
deriving DecidableEq, Repr

/-- The sign bit of a pattern at its place. -/
def fpSign (f : FpFmt) (neg : Bool) : Nat := if neg then 2 ^ (f.ebits + f.fbits) else 0
/-- Canonical NaN (R32, R34). -/
def fpNaN (f : FpFmt) : Nat := f.expOnes * 2 ^ f.fbits + 2 ^ (f.fbits - 1)
def fpInf (f : FpFmt) (neg : Bool) : Nat := fpSign f neg + f.expOnes * 2 ^ f.fbits

/-- The value of a pattern (R32); `fzi` reads a subnormal as a zero of its sign (R35). -/
def fpRead (f : FpFmt) (fzi : Bool) (x : Nat) : Fp :=
  let u := x % 2 ^ f.width
  let neg := u / 2 ^ (f.ebits + f.fbits) = 1
  let ex := u / 2 ^ f.fbits % 2 ^ f.ebits
  let fr := u % 2 ^ f.fbits
  if ex = f.expOnes then
    if fr = 0 then .inf neg else .nan (fr < 2 ^ (f.fbits - 1))
  else if ex = 0 then
    if fr = 0 ∨ fzi then .zero neg else .fin neg fr (1 - f.bias - f.fbits)
  else .fin neg (2 ^ f.fbits + fr) (ex - f.bias - f.fbits)

/-- `m` shifted right by `sh` to nearest, ties to even, where `sticky` says that the exact value lies
above `m`; with it whether anything was lost. A `sh` of zero or less shifts left. -/
def shiftRne (m : Nat) (sh : Int) (sticky : Bool) : Nat × Bool :=
  if sh ≤ 0 then (m * 2 ^ (-sh).toNat, sticky)
  else
    let n := sh.toNat
    let q := m / 2 ^ n
    let lost := m % 2 ^ n
    let half := 2 ^ (n - 1)
    let up := half < lost ∨ (lost = half ∧ (sticky ∨ q % 2 = 1))
    (if up then q + 1 else q, lost ≠ 0 ∨ sticky)

/-- The exponent of the leading bit of `m × 2^e`. -/
def leadExp (m : Nat) (e : Int) : Int := e + Nat.log2 m

/-- The exponent of the last place of a result whose leading bit has exponent `lead` (R33). -/
def ulpExp (f : FpFmt) (lead : Int) : Int := max lead (1 - f.bias) - f.fbits

/-- The pattern without its sign of the significand `sig` in units of 2^`ulp`: a carry into the next
binade is already right. -/
def fpPlace (f : FpFmt) (sig : Nat) (ulp : Int) : Nat :=
  sig + (ulp + f.fbits + f.bias - 1).toNat * 2 ^ f.fbits

/-- The sticky flags of LSTAT (R190). -/
abbrev Flags := BitVec 6
def flagNX : Flags := 0b000001#6
def flagUF : Flags := 0b000010#6
def flagOF : Flags := 0b000100#6
def flagDZ : Flags := 0b001000#6
def flagNV : Flags := 0b010000#6
def flagSAT : Flags := 0b100000#6

/-- A result pattern with the flags it raises. -/
structure FRes where
  bits : Nat
  flags : Flags
deriving DecidableEq, Repr

/-- Delivers a magnitude pattern that may be subnormal or zero: UF and the flush of R35 and R36. -/
def fpDeliver (f : FpFmt) (fzo neg : Bool) (mag : Nat) (inexact : Bool) : FRes :=
  if f.expOnes * 2 ^ f.fbits ≤ mag then ⟨fpInf f neg, flagOF ||| flagNX⟩
  else
    let nx := if inexact then flagNX else 0
    if mag < 2 ^ f.fbits then
      if fzo ∧ mag ≠ 0 then ⟨fpSign f neg, flagUF ||| flagNX⟩
      else ⟨fpSign f neg + mag, if inexact then flagUF ||| flagNX else 0⟩
    else ⟨fpSign f neg + mag, nx⟩

/-- One rounding of a nonzero finite value under R33, with the flush of R35 and the flags of R36.
`sticky` says that the exact magnitude lies above `m × 2^e` by less than one unit of `m`. -/
def fpRound (f : FpFmt) (fzo neg : Bool) (m : Nat) (e : Int) (sticky : Bool) : FRes :=
  let ulp := ulpExp f (leadExp m e)
  let (sig, inexact) := shiftRne m (ulp - e) sticky
  fpDeliver f fzo neg (fpPlace f sig ulp) inexact

/-- The pattern of any value, rounded (R33); a NaN is canonical (R34). -/
def fpPut (f : FpFmt) (fzo : Bool) (v : Fp) : FRes :=
  match v with
  | .nan _ => ⟨fpNaN f, 0⟩
  | .inf neg => ⟨fpInf f neg, 0⟩
  | .zero neg => ⟨fpSign f neg, 0⟩
  | .fin neg m e => fpRound f fzo neg m e false

/-- NV for a signalling NaN (R34, R36). -/
def Fp.nv (v : Fp) : Flags :=
  match v with
  | .nan true => flagNV
  | _ => 0

def Fp.isNaN (v : Fp) : Bool := match v with | .nan _ => true | _ => false
def Fp.isZero (v : Fp) : Bool := match v with | .zero _ => true | _ => false

def Fp.neg (v : Fp) : Fp :=
  match v with
  | .nan s => .nan s
  | .inf n => .inf !n
  | .zero n => .zero !n
  | .fin n m e => .fin (!n) m e

/-- A signed finite value from an exact integer times a power of two; zero gets the sign `zneg`. -/
def Fp.ofDyadic (m e : Int) (zneg : Bool) : Fp :=
  if m = 0 then .zero zneg else .fin (m < 0) m.natAbs e

/-- Adds two values exactly. A zero sum is −0 only when both addends are −0 (R37); the flag is NV for
∞ − ∞ (R36), whose sum is a NaN. -/
def fpAddExact (a b : Fp) : Fp × Flags :=
  match a, b with
  | .nan _, _ => (.nan false, 0)
  | _, .nan _ => (.nan false, 0)
  | .inf na, .inf nb => if na = nb then (.inf na, 0) else (.nan false, flagNV)
  | .inf n, _ => (.inf n, 0)
  | _, .inf n => (.inf n, 0)
  | .zero na, .zero nb => (.zero (na && nb), 0)
  | .zero _, v => (v, 0)
  | v, .zero _ => (v, 0)
  | .fin na ma ea, .fin nb mb eb =>
    let e := min ea eb
    let x : Int := (if na then -1 else 1) * (ma : Int) * 2 ^ (ea - e).toNat
    let y : Int := (if nb then -1 else 1) * (mb : Int) * 2 ^ (eb - e).toNat
    (Fp.ofDyadic (x + y) e false, 0)

/-- Multiplies two values exactly; 0 × ∞ is a NaN with NV (R36). -/
def fpMulExact (a b : Fp) : Fp × Flags :=
  match a, b with
  | .nan _, _ => (.nan false, 0)
  | _, .nan _ => (.nan false, 0)
  | .inf _, .zero _ => (.nan false, flagNV)
  | .zero _, .inf _ => (.nan false, flagNV)
  | .inf na, .inf nb => (.inf (xor na nb), 0)
  | .inf na, .fin nb _ _ => (.inf (xor na nb), 0)
  | .fin na _ _, .inf nb => (.inf (xor na nb), 0)
  | .zero na, .zero nb => (.zero (xor na nb), 0)
  | .zero na, .fin nb _ _ => (.zero (xor na nb), 0)
  | .fin na _ _, .zero nb => (.zero (xor na nb), 0)
  | .fin na ma ea, .fin nb mb eb => (.fin (xor na nb) (ma * mb) (ea + eb), 0)

/-- a + b rounded once (R33, R195). -/
def fpAdd (f : FpFmt) (fzo : Bool) (a b : Fp) : FRes :=
  let (s, fl) := fpAddExact a b
  let r := fpPut f fzo s
  ⟨r.bits, r.flags ||| fl ||| a.nv ||| b.nv⟩

/-- a × b rounded once. -/
def fpMul (f : FpFmt) (fzo : Bool) (a b : Fp) : FRes :=
  let (p, fl) := fpMulExact a b
  let r := fpPut f fzo p
  ⟨r.bits, r.flags ||| fl ||| a.nv ||| b.nv⟩

/-- c + a × b with one rounding; 0 × ∞ raises NV whatever c is (R195). -/
def fpFma (f : FpFmt) (fzo : Bool) (c a b : Fp) : FRes :=
  let (p, fl) := fpMulExact a b
  let (s, fl2) := fpAddExact c p
  let r := fpPut f fzo s
  ⟨r.bits, r.flags ||| fl ||| fl2 ||| a.nv ||| b.nv ||| c.nv⟩

/-- Orders two values that are not NaNs: `a < b` with −0 equal to +0 (R200). -/
def fpLt (a b : Fp) : Bool :=
  match a, b with
  | .nan _, _ => false
  | _, .nan _ => false
  | .inf na, .inf nb => na && !nb
  | .inf na, _ => na
  | _, .inf nb => !nb
  | .zero _, .zero _ => false
  | .zero _, .fin nb _ _ => !nb
  | .fin na _ _, .zero _ => na
  | .fin na ma ea, .fin nb mb eb =>
    let e := min ea eb
    let x : Int := (if na then -1 else 1) * (ma : Int) * 2 ^ (ea - e).toNat
    let y : Int := (if nb then -1 else 1) * (mb : Int) * 2 ^ (eb - e).toNat
    x < y

/-- Equality of two values that are not NaNs (R200). -/
def fpEq (a b : Fp) : Bool := !a.isNaN && !b.isNaN && !fpLt a b && !fpLt b a

def Fp.isNeg (v : Fp) : Bool :=
  match v with
  | .nan _ => false
  | .inf n => n
  | .zero n => n
  | .fin n _ _ => n

/-- The smaller (`pickMax` false) or larger of two values, −0 below +0, a single NaN passed over (R195). -/
def fpPick (pickMax : Bool) (a b : Fp) : Fp :=
  if a.isNaN then b
  else if b.isNaN then a
  else
    let less := fpLt a b || (fpEq a b && a.isNeg && !b.isNeg)
    if less = pickMax then b else a

def fpMinMax (f : FpFmt) (fzo pickMax : Bool) (a b : Fp) : FRes :=
  let r := fpPut f fzo (fpPick pickMax a b)
  ⟨r.bits, r.flags ||| a.nv ||| b.nv⟩

/-! ## Conversions with integers (R38) -/

/-- An integer rounded to a format. -/
def fpOfInt (f : FpFmt) (fzo : Bool) (v : Int) : FRes := fpPut f fzo (Fp.ofDyadic v 0 false)

/-- A value to an integer type: ties to even, then clamped; a NaN gives 0 (R38). -/
def fpToInt (signed : Bool) (n : Nat) (v : Fp) : Int × Flags :=
  match v with
  | .nan _ => (0, flagNV)
  | .inf neg => (if neg then intMin signed n else intMax signed n, flagNV)
  | .zero _ => (0, 0)
  | .fin neg m e =>
    let (q, inexact) := shiftRne m (-e) false
    let x : Int := if neg then -(q : Int) else q
    let c := clampInt (intMin signed n) (intMax signed n) x
    (c, if c ≠ x then flagNV else if inexact then flagNX else 0)

/-! ## Reciprocal and reciprocal square root (R196) -/

/-- 1 / a, correctly rounded: 64 bits of quotient with a sticky remainder. -/
def fpRecip (f : FpFmt) (fzo : Bool) (a : Fp) : FRes :=
  match a with
  | .nan s => ⟨fpNaN f, (Fp.nan s).nv⟩
  | .inf neg => ⟨fpSign f neg, 0⟩
  | .zero neg => ⟨fpInf f neg, flagDZ⟩
  | .fin neg m e =>
    let n := Nat.log2 m + 64
    fpRound f fzo neg (2 ^ n / m) (-(n : Int) - e) (2 ^ n % m ≠ 0)

/-- The integer square root, found bit by bit: `fuel` bits from bit `fuel − 1` down. -/
def isqrt (x : Nat) (fuel : Nat) (r : Nat) : Nat :=
  match fuel with
  | 0 => r
  | k + 1 => if (r + 2 ^ k) * (r + 2 ^ k) ≤ x then isqrt x k (r + 2 ^ k) else isqrt x k r

/-- 1 / √a, correctly rounded. -/
def fpRsqrt (f : FpFmt) (fzo : Bool) (a : Fp) : FRes :=
  match a with
  | .nan s => ⟨fpNaN f, (Fp.nan s).nv⟩
  | .inf neg => if neg then ⟨fpNaN f, flagNV⟩ else ⟨fpSign f false, 0⟩
  | .zero neg => ⟨fpInf f neg, flagDZ⟩
  | .fin true _ _ => ⟨fpNaN f, flagNV⟩
  | .fin false m e =>
    let odd := e % 2 = 1
    let m' := if odd then 2 * m else m
    let e' := if odd then e - 1 else e
    let n := Nat.log2 m' + 64
    let r := isqrt (2 ^ (2 * n) / m') (n + 2) 0
    fpRound f fzo false r (-(n : Int) - e' / 2) (r * r * m' ≠ 2 ^ (2 * n))

/-! ## Faithfully rounded functions (R197): both neighbours are computed, the caller picks -/

/-- One of the two neighbours of a positive value known to lie strictly between `m × 2^e` and
`(m + 1) × 2^e` with `m` long enough that no representable value lies between: the lower, or the upper
when `up`. -/
def fpFaithful (f : FpFmt) (fzo neg up : Bool) (m : Nat) (e : Int) : FRes :=
  let ulp := ulpExp f (leadExp m e)
  let sh := ulp - e
  let sig := if sh ≤ 0 then m * 2 ^ (-sh).toNat else m / 2 ^ sh.toNat
  fpDeliver f fzo neg (fpPlace f (if up then sig + 1 else sig) ulp) true

/-- ln 2 in units of 2^−200, rounded down. -/
def ln2Fixed : Nat := 0xB17217F7D1CF79ABC9E3B39803F2F6AF40F343267298B62D8A

/-- Σ y^k / k! for k < `terms` in units of 2^−200, every division rounded down: the term before is `t`,
`k` is its index and `s` the sum so far. -/
def expSeries (y : Nat) (terms k t s : Nat) : Nat :=
  match terms with
  | 0 => s
  | n + 1 =>
    let t' := t * y / 2 ^ 200 / (k + 1)
    expSeries y n (k + 1) t' (s + t')

/-- 2^(f / 2^200) in units of 2^−200 for a fraction f below 2^200, within 2^−190 below the exact value. -/
def exp2Fixed (f : Nat) : Nat := expSeries (f * ln2Fixed / 2 ^ 200) 60 0 (2 ^ 200) (2 ^ 200)

/-- 2^a (R197): exact where 2^a is representable, else one of the two neighbours, the upper when `up`. -/
def fpExp2 (f : FpFmt) (fzo up : Bool) (a : Fp) : FRes :=
  match a with
  | .nan s => ⟨fpNaN f, (Fp.nan s).nv⟩
  | .inf neg => if neg then ⟨fpSign f false, 0⟩ else ⟨fpInf f false, 0⟩
  | .zero _ => fpRound f fzo false 1 0 false
  | .fin neg m e =>
    let big := 10 < leadExp m e
    if big then
      if !neg then ⟨fpInf f false, flagOF ||| flagNX⟩
      else if 0 ≤ e ∨ m % 2 ^ (-e).toNat = 0 then ⟨fpSign f false, flagUF ||| flagNX⟩
      -- not an integer: the two neighbours are +0 and the smallest subnormal
      else fpFaithful f fzo false up 1 (-4096)
    else
      -- the integer part and the fraction of a, the fraction in units of 2^e
      let d := (-e).toNat
      let x : Int := (if neg then -1 else 1) * (m : Int) * 2 ^ e.toNat
      let i := x / (2 ^ d : Nat)
      let fr := (x % (2 ^ d : Nat)).toNat
      if fr = 0 then
        if i < 1 - f.bias - f.fbits then ⟨fpSign f false, flagUF ||| flagNX⟩
        else fpRound f fzo false 1 i false
      else
        -- a fraction below 2^−190 leaves 2^f between 1 and its upper neighbour, and one that close to 1
        -- leaves it between 2 and its lower neighbour
        let g := if d ≤ 200 then fr * 2 ^ (200 - d) else fr / 2 ^ (d - 200)
        fpFaithful f fzo false up (min (max (exp2Fixed g) (2 ^ 200 + 1)) (2 ^ 201 - 1)) (i - 200)

/-- `n` bits of log2 of t / 2^320, for t from 2^320 to below 2^321: squaring gives one bit at a time.
Each step loses less than 2^−320, so the value found is below the exact one by less than 2^−n + 2^−310. -/
def log2Bits (t : Nat) (n acc : Nat) : Nat :=
  match n with
  | 0 => acc
  | k + 1 =>
    let t2 := t * t / 2 ^ 320
    if 2 ^ 321 ≤ t2 then log2Bits (t2 / 2) k (2 * acc + 1) else log2Bits t2 k (2 * acc)

/-- log2 a (R197). -/
def fpLog2 (f : FpFmt) (fzo up : Bool) (a : Fp) : FRes :=
  match a with
  | .nan s => ⟨fpNaN f, (Fp.nan s).nv⟩
  | .inf neg => if neg then ⟨fpNaN f, flagNV⟩ else ⟨fpInf f false, 0⟩
  | .zero _ => ⟨fpInf f true, flagDZ⟩
  | .fin true _ _ => ⟨fpNaN f, flagNV⟩
  | .fin false m e =>
    let l := Nat.log2 m
    let i := e + l
    if m = 2 ^ l then fpPut f fzo (Fp.ofDyadic i 0 false)
    else
      -- log2 a = i + b / 2^160 and a little more, an irrational number
      let b := log2Bits (m * 2 ^ (320 - l)) 160 0
      let v : Int := i * 2 ^ 160 + b
      if 0 ≤ v then fpFaithful f fzo false up v.toNat (-160)
      else fpFaithful f fzo true up (-(v + 1)).toNat (-160)

/-! ## Classes (R198) -/

def fpClass (f : FpFmt) (v : Fp) : Nat :=
  match v with
  | .inf true => 2 ^ 0
  | .inf false => 2 ^ 7
  | .zero true => 2 ^ 3
  | .zero false => 2 ^ 4
  | .nan true => 2 ^ 8
  | .nan false => 2 ^ 9
  | .fin neg m e =>
    if leadExp m e < 1 - f.bias then (if neg then 2 ^ 2 else 2 ^ 5)
    else (if neg then 2 ^ 1 else 2 ^ 6)

/-! ## Layered numbers (R43 to R48) -/

/-- The count of consecutive bits of `q` equal to `b`, from bit `i − 1` down (R44). -/
def runLength (q : Nat) (b : Bool) (i : Nat) : Nat :=
  match i with
  | 0 => 0
  | k + 1 => if q.testBit k = b then runLength q b k + 1 else 0

/-- LPDecode of R44: NaR is a NaN. -/
def lpDecode (p w : Nat) (s : Int) : Fp :=
  let top := p / 2 ^ (w - 4) % 16
  if top = 0 then .zero false
  else if top = 8 then .nan false
  else
    let p := if top = 7 ∨ top = 15 then top * 2 ^ (w - 4) else p % 2 ^ w
    let neg := p.testBit (w - 1)
    let q := if neg then 2 ^ w - p else p
    let b := q.testBit (w - 2)
    let m := runLength q b (w - 1)
    let k : Int := if b then m - 1 else -m
    let n := w - 2 - m
    let x := q % 2 ^ n
    if n ≥ 2 then
      .fin neg (2 ^ (n - 2) + x % 2 ^ (n - 2)) (4 * k + (x / 2 ^ (n - 2) : Nat) + s - (n - 2 : Nat))
    else if n = 1 then .fin neg 1 (4 * k + (2 * x : Nat) + s)
    else .fin neg 1 (4 * k + s)

/-- The leading `w` bits of a bit string of length `len`, to nearest with ties to even (R48). -/
def leadingBits (bits len w : Nat) : Nat := (shiftRne bits ((len : Int) - w) false).1

/-- The magnitude pattern of `m × 2^e`, 2^−8 to 2^8, rounded to `w` bits (R48). -/
def lpMagnitude (m : Nat) (e : Int) (w : Nat) : Nat :=
  let l := Nat.log2 m
  let ex := e + l
  let k := ex / 4
  let ee := (ex % 4).toNat
  let frac := m - 2 ^ l
  -- sign 0, the regime with its terminating bit, two exponent bits, the fraction
  let (reg, rlen) : Nat × Nat :=
    if 0 ≤ k then (2 ^ (k.toNat + 2) - 2, k.toNat + 2) else (1, (-k).toNat + 1)
  leadingBits ((reg * 4 + ee) * 2 ^ l + frac) (1 + rlen + 2 + l) w

/-- LPEncode of R48. -/
def lpEncode (v : Fp) (w : Nat) (s : Int) : Nat :=
  match v with
  | .nan _ => 8 * 2 ^ (w - 4)
  | .inf _ => 8 * 2 ^ (w - 4)
  | .zero _ => 0
  | .fin neg m e =>
    let l := leadExp m e - s
    if l < -9 then 0
    else
      let q :=
        if l < -8 then lpMagnitude 1 (-8) w
        else if 8 < l ∨ (l = 8 ∧ m ≠ 2 ^ Nat.log2 m) then lpMagnitude 1 8 w
        else lpMagnitude m (e - s) w
      if neg then 2 ^ w - q else q

/-- The guarded read of R46: `p` has `w` bits, `guard` is the first bit of the next plane. -/
def lpGuarded (p w : Nat) (guard : Bool) (s : Int) : Fp :=
  let top := p / 2 ^ (w - 4) % 16
  if top = 0 ∨ top = 8 ∨ top = 7 ∨ top = 15 then lpDecode p w s
  else lpDecode (p + (if guard then 1 else 0)) w s

/-! ## SP2 weights (R40) -/

/-- One term of an SP2 byte in units of 2^−6. -/
def sp2Term (sgn : Bool) (k : Nat) : Int :=
  if k = 7 then 0 else (if sgn then -1 else 1) * (2 ^ (6 - k) : Nat)

/-- The raw value of an SP2 byte in units of 2^−6. -/
def sp2Raw (x : Nat) : Int :=
  sp2Term (x.testBit 7) (x / 16 % 8) + sp2Term (x.testBit 3) (x % 8)

/-- The weight: the raw value times the BF16 scale of the column, exact (R40, R41). -/
def sp2Weight (x scale : Nat) : Fp :=
  (fpMulExact (Fp.ofDyadic (sp2Raw x) (-6) false) (fpRead bf16 false scale)).1

/-! ## The chunk sum of R52 -/

/-- Adds a chunk of exact products to an accumulator without rounding (R52, R37). -/
def exactSum (acc : Fp) (ps : List Fp) : Fp := ps.foldl (fun a p => (fpAddExact a p).1) acc

end Sys2Proof.Machine
end

