-- ==== Sys2Proof/Machine/State.lean ====
section
/-!
DEFINITION. The state of the whole device: blocks with their architected state, cores, groups, queues,
kernels, contexts, page translation, banks, error reporting, links and platform. Plain data throughout.
Each field names the rule of spec/ that gives it.
-/
namespace Sys2Proof.Machine

/-! ## The block (04, 05) -/

/-- One loop stack entry (R97). -/
structure LoopEntry where
  start : Word
  count : Word
  index : Word
deriving DecidableEq, Repr

/-- A shape record (R111). -/
structure ShapeRec where
  rows : BitVec 13 := 0
  cols : BitVec 13 := 0
  type : BitVec 5 := 0
  store : BitVec 2 := 0
  pitch : BitVec 17 := 0
  mrow : BitVec 40 := 0
  mcol : BitVec 40 := 0
  fmt : BitVec 9 := 0
  limit : BitVec 32 := 0
  scale : Word := 0
  fill : BitVec 32 := 0
deriving DecidableEq, Repr

/-- A physical version of a tile (R119, R122): `elems` holds one pattern per element in element order,
`scales` the SP2 scale vector (R118), `poison` the poisoned elements' numbers (R388), `notIn` the logical banks of its store
in which Rename could not place it (R365). -/
structure Version where
  id : Nat
  name : BitVec 5
  geom : ShapeRec
  elems : List Half
  scales : List (BitVec 16) := []
  poison : List Nat := []
  notIn : List Nat := []
  done : Bool := false
deriving DecidableEq, Repr

/-- What a tile name stands for (R119): `none` in the block means UNBOUND. -/
structure TileName where
  record : BitVec 4
  cur : Option Nat := none
deriving DecidableEq, Repr

/-- A prefetched stream tile (R145); `notIn` as for a version. -/
structure Prefetched where
  index : Nat
  elems : List Half
  scales : List (BitVec 16)
  notIn : List Nat := []
deriving DecidableEq, Repr

/-- A stream register (R144). -/
structure Stream where
  base : Word := 0
  stride : Word := 0
  count : BitVec 28 := 0
  depth : BitVec 3 := 0
  copy : ShapeRec := {}
  source : BitVec 4 := 0
  consumed : Nat := 0
  prefetched : List Prefetched := []
deriving DecidableEq, Repr

/-- Region status (R106). -/
inductive RegionStatus where
  | clean | exposed | outside
deriving DecidableEq, Repr

/-- Trap causes (R373). -/
inductive Cause where
  | illegal | undefFuture | reservedField | type | strideAlign | bound | loopDepth | qtimeout | trap
  | pageFault | protection | migrateRetry | ueData | ueCode | sdc | overcap | doubleFault | doubleUndef
deriving DecidableEq, Repr

/-- The trap record (R380). -/
structure TrapRec where
  tcause : Word := 0
  tpc : Word := 0
  tval : Word := 0
  tinsn : Word := 0
  tcoord : Word := 0
  tseq : Word := 0
  elg : Vector Word 8 := Vector.replicate 8 0
deriving DecidableEq, Repr

/-- The element a trap names (R136): its lane group, its number, row and column. -/
structure ElemAt where
  lg : Nat
  elem : Nat
  tile : BitVec 5
  row : Nat
  col : Nat
deriving DecidableEq, Repr

/-- A trap as raised, before it is entered. -/
structure TrapInfo where
  cause : Cause
  tval : Word := 0
  tcoord : Word := 0
  elem : Option ElemAt := none
  elg : Vector Nat 8 := Vector.replicate 8 0
deriving DecidableEq, Repr

/-- Which counter of R148 an instruction counts in. -/
inductive CounterKind where
  | none | ldq | stq | cpq | opq
deriving DecidableEq, Repr

/-- How far an issued tile instruction has come (R122): waiting for its sources and for R125, performed (its
last element is done and its completion is still to be counted), stopped by a servicer fault with the tag of its
record, or stopped by a handler trap. -/
inductive FlightSt where
  | waiting | performed | faulted (ftag : BitVec 16) | trapped (t : TrapInfo)
deriving DecidableEq, Repr

/-- Where a translation is cached (R339): the run-ahead TLB of a core or the shared TLB of a die. -/
inductive TlbHome where
  | core (c : BitVec 8)
  | die (d : Bool)
deriving DecidableEq, Repr

/-- A cached translation (R339): `size` is the walk level of its leaf (0: 4 KiB, 1: 2 MiB, 2: 1 GiB), `vpage`
the virtual address divided by 4096, `stride` whether it is one page of a stride entry, `entry` the physical address of the leaf
entry. -/
structure TlbEntry where
  home : TlbHome
  ctx : BitVec 6
  size : Nat
  vpage : Nat
  frame : BitVec 40
  w : Bool
  ns : Bool
  ul : Bool
  cp : BitVec 2
  x : Bool
  a : Bool
  d : Bool
  stride : Bool
  entry : Nat
deriving DecidableEq, Repr

/-- A plane field that an instruction read before the rest of its element (R49): where it lies, its width, and what it held. -/
structure EarlyField where
  va : Nat
  bit : Nat
  w : Nat
  value : Nat
deriving DecidableEq, Repr

/-- A plane descriptor (R116). -/
structure Plane where
  base : Nat
  boff : Nat
  scale : Int
deriving DecidableEq, Repr

/-- A sparse operand as an instruction has read and checked it (R222): its size, its entries as (entry, row, column), and where its
values lie. -/
structure SparseRead where
  rows : Nat
  cols : Nat
  entries : List (Nat × Nat × Nat)
  base : Nat
  valt : Nat
  vpc : Nat
  vpm : Bool
  count : Nat
deriving DecidableEq, Repr

/-- An issued tile instruction with what it captured at issue (R85, R122, R137). `pins` are the translations that it holds, each
with the lane group that took it (R340), `early` the plane fields that it has read ahead of the rest of their elements (R49),
`planes` its plane table once it has been read (R116), `structs` the sparse operands whose structure it has read and that it has still
to compute with (R222, R378), `dense` the A-store bytes of the tile that it densifies (R215). -/
structure Flight where
  id : Nat
  insn : Word
  ins : Instr
  st : FlightSt := .waiting
  addr : Word := 0
  addr2 : Word := 0
  shape : ShapeRec := {}
  record : BitVec 5 := 0
  consts : Vector Word 16 := Vector.replicate 16 0
  dst : Option Nat := none
  dst2 : Option Nat := none
  ta : Option Nat := none
  tb : Option Nat := none
  tc : Option Nat := none
  old : Option Nat := none
  inPlace : Bool := false
  lgs : List Nat := []
  elg : Vector Nat 8 := Vector.replicate 8 0
  skips : List Nat := []
  first : Option Nat := none
  kind : CounterKind := .none
  tag : Option (BitVec 6) := none
  inHandler : Bool := false
  started : Bool := false
  trail : Option Nat := none
  tables : List (Option (Vector (BitVec 16) 8)) := []
  pins : List (Nat × TlbEntry) := []
  dense : Nat := 0
  early : List EarlyField := []
  planes : Option (List Plane) := none
  structs : List SparseRead := []
deriving DecidableEq, Repr

/-- What a cairn records of a live-in tile name (R104): its record and its version, or unbound. -/
structure LiveIn where
  name : BitVec 5
  bound : Option TileName
deriving DecidableEq, Repr

/-- A block within its band (R273, R275): the position of its group and its index in the group. -/
structure Peer where
  bpos : BitVec 4
  blk : BitVec 4
deriving DecidableEq, Repr

/-- A cairn (R104). `mark` is the number of the first instruction issued after it, `pendingTags` the tags that
had operations outstanding at it, `readPos` the read positions of the channels the block receives on. -/
structure Cairn where
  pc : Word
  loops : List LoopEntry
  sregs : Vector Word 64
  shapes : Vector ShapeRec 16
  streams : Vector Stream 8
  tags : Word
  pendingTags : Word
  live : List LiveIn
  mark : Nat
  readPos : List (Peer × Nat)
  region : Nat
deriving DecidableEq, Repr

/-- Block states (R84); `free` is an unoccupied slot. -/
inductive BlockSt where
  | free | bound | running | parked | handler | stopping | stopped | rollback | exiting | done | killed
deriving DecidableEq, Repr

/-- Why a rollback is made (R106); an error with the lowest output element that raised it, where one did (R154, R174). -/
inductive RollCause where
  | error (c : Cause) (elem : Option Nat) | preempt | overcap | migration
deriving DecidableEq, Repr

/-- What a block waits for outside the plain re-execution of the instruction at its program counter. -/
inductive Wait where
  | none
  /-- ACQ queued at the home slice (R241). -/
  | object (pa : Nat) (excl : Bool)
  /-- BARW for phase `n` of barrier `b` (R262). -/
  | barrier (b : BitVec 5) (n : BitVec 32)
  /-- QPUT or QGET in the ring's wait queue (R295), with the entry a QPUT read and whether it is poisoned. -/
  | ring (pa : Nat) (put : Bool) (f : QringF) (entry : List Byte) (bad : Bool)
  /-- TRECV on an empty channel (R277). -/
  | channel (sender : Peer)
  /-- TWAITV with its pending elements (R254). -/
  | values (f : TmWaitF) (c : Cond) (pending : List Nat)
  /-- WAITC or WAITT (R150, R151). -/
  | counters
  /-- A sequencer access with a fault record outstanding (R346). -/
  | fault (ftag : BitVec 16)
  /-- The emulator holds the block (R311). -/
  | emulator (insn : Word)
deriving DecidableEq, Repr

/-- A tile message of a channel (R273): the sender's version, and its contents once it is DONE. -/
structure Message where
  version : Nat
  geom : ShapeRec
  content : Option Version
deriving DecidableEq, Repr

/-- A taken message that its receiver holds (R274): the version, and the record of the name that it was taken into. -/
structure HeldMessage where
  version : Nat
  record : BitVec 4
deriving DecidableEq, Repr

/-- A channel seen from its receiver (R274); `held` are the messages taken since its last cairn, oldest first, `slot` the sender's slot when it last sent. -/
structure Channel where
  sender : Peer
  slot : SlotNo
  untaken : List Message
  held : List HeldMessage
  readPos : Nat
deriving DecidableEq, Repr

/-- A binding of a context (R245). -/
structure Binding where
  object : Word
  base : Word
  length : Nat
deriving DecidableEq, Repr

/-- What a scalar access that has left the sequencer does when it is performed (R93, R247): a store of its bytes; a load into a
register; an atomic with the operands that it took at issue. -/
inductive PostedOp where
  | store (data : List Byte)
  | load (sd : BitVec 6) (signed : Bool)
  | amo (i : Instr) (b d : Nat)
deriving DecidableEq, Repr

/-- A scalar access that has left the sequencer and has not been performed (R94, R238): its virtual and its physical address, its
size and policy, what it does, whether it is the handler's, the number of the first tile instruction issued after it, and, where it goes
beyond the package, the tag of its request and what a peer has answered (R399, R406). -/
structure Posted where
  va : Nat
  pa : Nat
  n : Nat
  cp : BitVec 2
  op : PostedOp
  handler : Bool
  mark : Nat
  req : Option Nat := none
  answer : List Byte := []
deriving DecidableEq, Repr

/-- What a block has asked for beyond the package and has not yet used (R399, R406): the request's tag, the tile instruction that asks,
none for the sequencer, the bytes that it is about, whether the answer has come, and a peer's data. -/
structure Ask where
  tag : Nat
  flight : Option Nat
  pa : Nat
  n : Nat
  done : Bool := false
  data : List Byte := []
deriving DecidableEq, Repr

/-- One block in its slot (R82). `fillWait` lists the instructions that have still to set FILL of a
record, and whether no later one has set it (R131), `posted` are the accesses of its scalar stream on their way, in order (R238), `asks` what it has asked for beyond the package, `relBound` the bindings at the issue
of a REL that waits (R243), `renames` the names for which the instruction at the program counter waits for room (R121). `vtypeOf` is the number of the instruction that VTYPE stems from (R191),
`cbClaim` that of the TCB that claimed the codebook ring (R141). -/
structure Block where
  slot : SlotNo
  st : BlockSt
  ctx : BitVec 6
  kernel : BitVec 32
  gid : GroupId
  bid : Word
  gidReg : Word
  bndid : Word
  lseq : Word
  rsv : Word
  pc : Word
  loops : List LoopEntry
  sregs : Vector Word 64
  hregs : Vector Word 16
  shapes : Vector ShapeRec 16
  names : Vector (Option TileName) 32
  versions : List Version
  streams : Vector Stream 8
  tags : Word
  lstat : BitVec 6
  vtype : BitVec 10
  vtypeOf : Nat
  region : RegionStatus
  cairn : Cairn
  rollbacks : Nat
  trapRec : TrapRec
  inHandler : Bool
  savedPc : Word
  savedLoops : List LoopEntry
  trapped : Option Nat
  flights : List Flight
  nextId : Nat
  wait : Wait
  due : Option TrapInfo
  token : BitVec 32
  holding : List Word
  channels : List Channel
  preempt : Bool
  graceOver : Bool
  atPoint : Bool
  roll : RollCause
  fillWait : List (Nat × BitVec 4 × Bool)
  cbClaim : Option Nat
  posted : List Posted
  asks : List Ask
  relBound : Option (List Binding)
  renames : List (BitVec 5)
deriving DecidableEq, Repr

/-! ## Cores, clusters, lanes (05 to 08) -/

/-- A line of the scalar data cache (R94, R232): `line` is the physical address divided by 64, `missed` says that it has not
followed some write to the line, `unbound` that it missed one made while the line was not bound (R237). -/
structure CacheLine where
  core : BitVec 8
  line : Nat
  data : List Byte
  missed : Bool := false
  unbound : Bool := false
deriving DecidableEq, Repr

/-- A guest copy in the L2 of a die (R232), in one of its slices (R371), with what it missed as for a cache line. -/
structure GuestCopy where
  die : Bool
  line : Nat
  slice : BitVec 9
  data : List Byte
  missed : Bool := false
  unbound : Bool := false
deriving DecidableEq, Repr

/-- A line that its home slice holds (R14, R372): in a slice of a die, with dirty data or clean. Its bytes, poison, link tags and
watches are those of its address. -/
structure HomeLine where
  die : Bool
  line : Nat
  slice : BitVec 9
  dirty : Bool := false
deriving DecidableEq, Repr

/-- A table of the codebook ring of a block's core (R139 to R141), oldest first in the state's list: the TCB that loads it,
its entries once they are read, whether it has arrived, and the CB3 load that consumes it. The tables of a block that waits for the
ring are those that its TCBs in the issue window will load. -/
structure CbTable where
  slot : SlotNo
  tcb : Nat
  data : Option (Vector (BitVec 16) 8)
  arrived : Bool
  by_ : Option Nat
deriving DecidableEq, Repr

/-- An entry of the lane function store (R182). -/
structure LaneFnEntry where
  core : BitVec 8
  kernel : BitVec 32
  offset : Nat
  present : Bool
deriving DecidableEq, Repr

/-- An instruction cache line (R308): `line` is the section offset divided by 64, `bad` the offset of a word with an
uncorrectable error (R389). -/
structure IcacheLine where
  core : BitVec 8
  kernel : BitVec 32
  handler : Bool
  line : Nat
  bad : Option Nat
deriving DecidableEq, Repr

/-- VTYPE (R191). -/
structure VType where
  type : BitVec 5
  fzi : Bool
  fzo : Bool
  xrm : BitVec 2
deriving DecidableEq, Repr

/-- The FP result that a lane instruction has written last (R391): its register, its type and the positions that executed. -/
structure FpResult where
  reg : BitVec 5
  type : BitVec 5
  ex : List Bool
deriving DecidableEq, Repr

/-- The strip in progress (R169, R184, R185): per position, its element (none beyond the tile), whether it is
active, the vector registers and the predicates. `code` is what is left to execute, `bad` are the poisoned lines of the lane register
file that hold its registers, 16 positions to a line (R388), `fp` is the FP result whose shadow is compared (R391). -/
structure Strip where
  lg : Nat
  elems : List (Option Nat)
  active : List Bool
  v : Vector (List Half) 32
  p : Vector (List Bool) 24
  vt : VType
  flags : Flags
  code : List (BitVec 32)
  ret : Option (BitVec 5)
  bad : List (BitVec 5 × Nat) := []
  fp : Option FpResult := none
deriving DecidableEq, Repr

/-- A MAP or a REDUCE with a pre-function running on a lane engine (R168 to R172). `inputs` holds, per input
register, the value of each output element in the header's type; `active` its mask; `bad` the elements whose
input is poisoned; `todo` the elements still to be run; `out` the results so far. -/
structure LaneJob where
  slot : SlotNo
  flight : Nat
  header : BitVec 32
  code : List (BitVec 32)
  inputs : List (List Half)
  active : List Bool
  bad : List Nat
  consts : Vector Word 16
  todo : List Nat
  out : List (Nat × Half)
  strip : Strip
deriving DecidableEq, Repr

/-- Trail states (R216). -/
inductive TrailSt where
  | compiling | doomed | resident
deriving DecidableEq, Repr

/-- A compiled structure (R215, R218): the entries as (row, column) in entry order, and what was captured with
them. `line` is the watched line, `no` the trail's own number. The list of trails is in the order of use, latest
first. -/
structure Trail where
  cluster : BitVec 5
  ctx : BitVec 6
  desc : Word
  gen : Word
  st : TrailSt
  rows : Nat
  cols : Nat
  entries : List (Nat × Nat)
  valBase : Word
  valt : BitVec 5
  vpc : BitVec 3
  vpm : Bool
  line : Nat
  no : Nat
deriving DecidableEq, Repr

/-! ## Memory order (09) -/

/-- Who waits for or holds an object: a block, or a launch (R286). -/
inductive Holder where
  | block (slot : SlotNo)
  | launch (q : BitVec 10) (seq : BitVec 54)
deriving DecidableEq, Repr

/-- A request queued at an object's home slice (R241). -/
structure ObjWait where
  pa : Nat
  excl : Bool
  who : Holder
  va : Word
deriving DecidableEq, Repr

/-- A link tag on a 64-byte line (R251). -/
structure LinkTag where
  line : Nat
  slot : SlotNo
deriving DecidableEq, Repr

/-- A line held for a block (R250). -/
structure LineHold where
  line : Nat
  slot : SlotNo
deriving DecidableEq, Repr

/-! ## Barriers, groups (10, 11) -/

/-- Barrier modes (R257). -/
inductive BarMode where
  | idle | opened | pending | broken
deriving DecidableEq, Repr

/-- A member of a barrier: its position in the band, its block number, A and P (R257). -/
structure BarMember where
  bpos : BitVec 4
  blk : BitVec 4
  a : BitVec 32
  p : BitVec 32
deriving DecidableEq, Repr

/-- A barrier (R257). -/
structure Barrier where
  mode : BarMode := .idle
  config : Word := 0
  members : List BarMember := []
  c : BitVec 32 := 0
deriving DecidableEq, Repr

/-- A band barrier's key and state (R256); a plain group is its own band. -/
structure BandBarrier where
  ctx : BitVec 6
  queue : BitVec 10
  seq : BitVec 54
  band : BitVec 32
  b : BitVec 5
  bar : Barrier
deriving DecidableEq, Repr

/-- An arrival whose release side is still to be performed (R261): `mark` is the number of the first
instruction issued after the BARA. -/
structure Arrival where
  slot : SlotNo
  b : BitVec 5
  mark : Nat
deriving DecidableEq, Repr

/-- Group states (R270). -/
inductive GroupSt where
  | placing | running | stopping | rolling | stopped | done | killed
deriving DecidableEq, Repr

/-- One group (R267, R270). `image` is the address of its stop record while STOPPED; `finished` counts blocks
that are DONE, `overcap` says that OVERCAP stopped the group and it has not started again (R364), `byHost` that a GSTOP of the
host stops it (R271). `tier` is the tier of its armed or running records, `heldTier` the one it last ran at (R364). -/
structure Group where
  id : GroupId
  st : GroupSt
  gsize : BitVec 4
  bpos : BitVec 4
  bsize : BitVec 4
  band : BitVec 32
  kernel : BitVec 32
  tier : BitVec 2
  heldTier : BitVec 2
  barriers : Vector Barrier 16
  started : Bool
  startOrder : Nat
  finished : List (BitVec 4)
  overcap : Bool
  byHost : Bool
  image : Word
deriving DecidableEq, Repr

/-- A stop record (R271, R320): the group's blocks as they stood, with the arrivals that they had not performed (R263,
R379). -/
structure StopRecord where
  address : Word
  id : GroupId
  blocks : List Block
  arrivals : List Arrival
deriving DecidableEq, Repr

/-! ## Queues (12) -/

/-- Queue states (R280). -/
inductive QueueSt where
  | unbound | opened | draining | halted | closed
deriving DecidableEq, Repr

/-- A launch queue (R280). `completions` is k of R290, `dead` marks a queue closed with
its unwritten completion records dropped. -/
structure Queue where
  st : QueueSt := .unbound
  qcfg : Word := 0
  cfg : Word := 0
  next : BitVec 54 := 0
  low : BitVec 54 := 0
  qcplb : Word := 0
  chead : Word := 0
  qerr : Word := 0
  completions : Nat := 0
  dead : Bool := false
deriving DecidableEq, Repr

/-- Launch status codes (R291). -/
inductive LaunchStatus where
  | done | capacity | capacityExposed | killed | depfail | badrec | baddep | aborted
deriving DecidableEq, Repr

/-- An accepted launch (R282 to R290). `satisfied` are the launch dependencies that have passed, `requested` the
number of the next dependency whose object is requested, `granted` the objects held, `units` the units once the
launch is eligible, `offered` those that have been offered for placement (R285). -/
structure Launch where
  q : BitVec 10
  seq : BitVec 54
  ctx : BitVec 6
  record : BitVec 512
  token : BitVec 32
  satisfied : BitVec 4 := 0
  requested : Nat := 0
  granted : List (Word × Bool) := []
  eligible : Bool := false
  units : Nat := 0
  offered : Nat := 0
  started : Nat := 0
  gdone : Nat := 0
  gkilled : Nat := 0
  failed : Option LaunchStatus := none
  ended : Bool := false
  recorded : Bool := false
deriving DecidableEq, Repr

/-- A completion record that waits to be written (R290); PHASE is set when it is. -/
structure PendingRecord where
  q : BitVec 10
  seq : BitVec 54
  body : BitVec 256
deriving DecidableEq, Repr

/-! ## Kernels (13) -/

/-- Kernel states (R306). -/
inductive KernelSt where
  | loading | resident | pinned | evicted | reloading
deriving DecidableEq, Repr

/-- A stream table entry (R300). -/
structure StreamInit where
  w : BitVec 3
  depth : BitVec 3
  base : Word
  stride : Word
  count : BitVec 28
deriving DecidableEq, Repr

/-- A kernel with its arena copy (R304 to R307). `ctx` is the context that holds it: after a restore it need not be
the one its handle names. `asked` are the pages beyond the package that the loader has asked for (R438), `bad` the words of the arena
copy with an uncorrectable error, in the handler section or the tile code, by offset (R389). -/
structure Kernel where
  handle : BitVec 32
  ctx : BitVec 6
  st : KernelSt
  obj : Word
  data : Word
  dlen : Word
  len : Word
  digest : BitVec 384
  tileBase : Word
  handlerBase : Word
  tile : List Word
  handler : List Word
  lanes : List (BitVec 32)
  shapes : List (BitVec 4 × ShapeRec)
  streams : List StreamInit
  regions : List (Nat × BitVec 32)
  tiers : List Word
  lgneed : BitVec 8
  bad : List (Bool × Nat) := []
  asked : List Nat := []
deriving DecidableEq, Repr

/-! ## Contexts (14) -/

/-- Context states (R314). -/
inductive CtxSt where
  | free | created | active | suspending | saved | restoring | migratingOut | migratingIn | faulted | destroyed
deriving DecidableEq, Repr

/-- A context (R313, R314, R350). `asked` are the pages beyond the package that a restore has asked for (R438). -/
structure Context where
  st : CtxSt := .free
  asked : List Nat := []
  ptroot : Word := 0
  evring : Word := 0
  evlog : BitVec 5 := 0
  evvec : BitVec 11 := 0
  evirq : Bool := false
  pkey : BitVec 16 := 0
  grace : BitVec 16 := 0
  savea : Word := 0
  savelen : Word := 0
  dloga : Word := 0
  dlogn : BitVec 32 := 0
  cevhead : Word := 0
  cevlost : Word := 0
  cimglen : Word := 0
  cmig : Word := 0
  events : Nat := 0
  logging : Bool := false
  dlogOvf : Bool := false
  dlogw : BitVec 63 := 0
  dlogr : Word := 0
  bindings : List Binding := []
  gens : List (Nat × BitVec 16) := []
  fromSaved : Bool := false
  keySlot : Option Nat := none
  msgCount : Word := 0
  stopmig : Bool := false
  finalStop : Bool := false
  miground : Nat := 0
  hostMig : Bool := false
  round0 : Bool := false
  endSent : Option Nat := none
  arrived : List Byte := []
  imageFw : BitVec 32 := 0
deriving DecidableEq, Repr

/-- The header of a record of a save image (R318). -/
structure RecordHeader where
  type : BitVec 16
  version : BitVec 16 := 1
  skip : Bool := false
  rsv : BitVec 31 := 0
  length : BitVec 32
  fwver : BitVec 32
deriving DecidableEq, Repr

/-- A mapping of host or peer memory that a MAPPING record carries (R319): its virtual address, its page size and the policy and
attributes of its entry. -/
structure Mapping where
  va : Nat
  size : Nat
  flags : Nat
deriving DecidableEq, Repr

/-- A save image (R318 to R320): its records' headers, and what their bodies hold, for which the spec gives no byte layout. `no`
numbers the bytes of those that this device has made (log entry 17); `reserved` says whether a body sets a reserved bit. -/
structure Image where
  no : Nat
  cairnForm : Bool
  stepping : BitVec 8
  isa : BitVec 8
  count : Nat
  digest : BitVec 384
  headers : List RecordHeader
  reserved : Bool
  mappings : List Mapping
  grace : BitVec 16
  evring : Word
  evlog : BitVec 5
  evvec : BitVec 11
  evirq : Bool
  dlogn : BitVec 32
  bindings : List Binding
  kernels : List Kernel
  queues : List (BitVec 10 × Queue)
  launches : List Launch
  groups : List Group
  records : List StopRecord
  bars : List BandBarrier
  pending : List PendingRecord
deriving DecidableEq, Repr, Inhabited

/-- A message that Decamp has sent (R328): its IV, its header, its body as sealed, and the tag. -/
structure DecampMsg where
  ctx : BitVec 6
  iv : BitVec 96
  header : BitVec 256
  sealed : List Byte
  tag : BitVec 128
deriving DecidableEq, Repr

/-- A Decamp key slot (R326). -/
structure KeySlot where
  key : BitVec 256 := 0
  sid : BitVec 32 := 0
  peer : BitVec 64 := 0
  v : Bool := false
deriving DecidableEq, Repr

/-! ## Pages (15) -/

/-- Who waits on a fault record (R344, R345), or on a frozen page (R353): the loader raises no record. -/
inductive FaultAgent where
  | sequencer (slot : SlotNo)
  | flight (slot : SlotNo) (id : Nat)
  | object (q : BitVec 10) (seq : BitVec 54)
  | count (q : BitVec 10) (seq : BitVec 54)
  | completion (q : BitVec 10)
  | loader (ctx : BitVec 6) (kernel : BitVec 32)
deriving DecidableEq, Repr

/-- An outstanding fault record (R344). `written` is false while the ring has no room for it. -/
structure FaultRecord where
  ftag : BitVec 16
  agent : FaultAgent
  body : BitVec 256
  host : Bool
  written : Bool
deriving DecidableEq, Repr

/-- An access held on a frozen page (R353): its agent, address and kind. -/
structure HeldAccess where
  agent : FaultAgent
  ctx : BitVec 6
  va : Word
  kind : Nat
deriving DecidableEq, Repr

/-- Result states of the command registers (R303, R312, R352, R361, R417). -/
inductive CmdSt where
  | idle | busy | done | failed
deriving DecidableEq, Repr

/-- A command result register. -/
structure CmdRes where
  st : CmdSt := .idle
  reason : BitVec 8 := 0
  value : BitVec 32 := 0
deriving DecidableEq, Repr

/-- Page move states (R353). -/
inductive MoveSt where
  | copying | frozen | switched
deriving DecidableEq, Repr

/-- The device's own access to an object that a page move has answered RETRY (R353): for a holder that has ended, to break the object
or to release it (R99, R241, R286). `slot` is the holder's, none for a launch. -/
structure HeldObj where
  ctx : BitVec 6
  va : Word
  token : BitVec 32
  slot : Option SlotNo
  broken : Bool
deriving DecidableEq, Repr

/-- A page move in progress (R352, R353): `todo` are the lines this pass has still to copy, `copied` those that have been
copied, `marked` those for the next pass, `raw` the engine's own copy of the entry, A and D included. -/
structure PageMove where
  ctx : BitVec 6
  va : Word
  entry : Nat
  src : BitVec 40
  dst : BitVec 40
  st : MoveSt
  pass : Nat
  todo : List Nat
  copied : List Nat
  marked : List Nat
  raw : Nat
deriving DecidableEq, Repr

/-! ## Banks (16) -/

/-- Bank states (R358). -/
inductive BankSt where
  | online | watched | evacuating | retired | offline
deriving DecidableEq, Repr

/-- Status of a bank (R358). -/
structure Bank where
  st : BankSt := .online
  req : Bool := false
  cause : BitVec 4 := 0
  sdcw : BitVec 8 := 0
  cew : BitVec 16 := 0
  cet : BitVec 32 := 0
  offline : Bool := false
deriving DecidableEq, Repr

/-- An evacuation of a tile-store bank in progress (R365, R366), or an L2 slice drain (R372), with its target bank
and its line pointer. -/
structure Evacuation where
  bank : Nat
  target : Option Nat
  cp : Nat
deriving DecidableEq, Repr

/-! ## Links and platform (18, 19) -/

/-- Lervon port states (R400). -/
inductive PortSt where
  | down | training | up | degraded | fenced | retired
deriving DecidableEq, Repr

/-- A Lervon port (R400 to R402): `credits` are slots that the partner has returned, `owed` slots that the device has still to return,
`received` the slots of a message that has not arrived whole (R403). -/
structure Port where
  st : PortSt := .down
  width : BitVec 4 := 0
  pnode : BitVec 9 := 0
  fails : BitVec 8 := 0
  lasterr : BitVec 8 := 0
  replays : BitVec 32 := 0
  crcErrors : BitVec 32 := 0
  nextSeq : BitVec 16 := 0
  expected : BitVec 16 := 0
  acked : BitVec 16 := 0
  credits : Nat := 0
  owed : Nat := 0
  replay : List Flit := []
  replayCount : Nat := 0
  nak : Bool := false
  received : List Byte := []
deriving DecidableEq, Repr

/-- An access beyond the package whose completion is outstanding (R399, R406, R438): of a block, with the tile instruction that made
it, if one did (R436). -/
inductive ExtAgent where
  | group (g : GroupId) (slot : SlotNo) (flight : Option Nat)
  | completionRecord (q : BitVec 10)
  | contextEvent (ctx : BitVec 6)
  | faultRecord (ftag : BitVec 16)
  | errorLog
  | report
  | countRead (q : BitVec 10) (seq : BitVec 54)
  | loader (ctx : BitVec 6) (kernel : BitVec 32)
deriving DecidableEq, Repr

/-- Whether an access is one that dispatch makes for such a queue: its record, or the count of a launch. -/
def ExtAgent.ofQueue (a : ExtAgent) (p : BitVec 10 → Bool) : Bool :=
  match a with | .completionRecord q => p q | .countRead q _ => p q | _ => false

/-- What an access beyond the package does (R403, R404): it reads `n` bytes, writes bytes, or is one atomic step with its operand. -/
inductive ExtOp where
  | read (n : Nat)
  | write (data : List Byte)
  | atomic (aop : Nat) (w32 : Bool) (data : List Byte)
deriving DecidableEq, Repr

/-- Such an access: its tag, its agent, the partition key of its context (R315), the function whose requester ID it carries (R399),
and the port to a peer. -/
structure ExtRequest where
  tag : Nat
  agent : ExtAgent
  pa : Nat
  op : ExtOp
  port : Option (BitVec 4)
  pkey : BitVec 16
  fn : Byte
deriving DecidableEq, Repr

/-- Whether an access beyond the package changes memory. -/
def ExtRequest.write (r : ExtRequest) : Bool := match r.op with | .read _ => false | _ => true

/-- The answer to a request from outside: a completion to the host (R396, R398), or to Ultra Ethernet (R408, R409). -/
structure HostReply where
  ok : Bool
  data : List Byte
deriving DecidableEq, Repr

/-- A Lervon message the device has sent (R403, R406). -/
structure LvSent where
  port : BitVec 4
  msg : LvMsg
deriving DecidableEq, Repr

/-- Power-up stages (R410). -/
inductive Stage where
  | reset | verify | hbm | d2d | init | ready | failed
deriving DecidableEq, Repr

/-- An event window (R415). -/
structure EventWindow where
  base : Word := 0
  npages : BitVec 32 := 0
  v : Bool := false
deriving DecidableEq, Repr

/-- An island's operating point (R419). -/
structure Island where
  cur : BitVec 4 := 0
  req : BitVec 4 := 0
deriving DecidableEq, Repr

/-- The registers of the control window that belong to no other object. -/
structure Control where
  fnmode : BitVec 5 := 0
  binderr : Word := 0
  kres : CmdRes := {}
  cres : CmdRes := {}
  pmres : CmdRes := {}
  bankres : CmdRes := {}
  attst : CmdRes := {}
  pinvs : CmdSt := .idle
  emuset : BitVec 31 := 0
  frcfg : Word := 0
  frtail : Word := 0
  frhead : Word := 0
  sdcn : BitVec 8 := 3
  winms : BitVec 16 := 1000
  t1 : BitVec 20 := 8
  t2 : BitVec 20 := 64
  elcfg : Word := 0
  eltail : Word := 0
  elhead : Word := 0
  ellost : Word := 0
  nodeid : BitVec 9 := 0
  stage : Stage := .reset
  err : BitVec 8 := 0
  sbad : BitVec 8 := 0
  svn : BitVec 8 := 0
  fwver : BitVec 32 := 0
  minSvn : BitVec 8 := 0
  remain : BitVec 16 := 0
  clamp : BitVec 12 := 3600
  clampActive : Bool := false
  twinTaken : Bool := false
  heartbeats : Nat := 0
  kcmd : Option KcmdF := none
  ccmd : Option (Nat × CcmdF) := none
  pinv : Option (BitVec 128) := none
  attreq : Option (BitVec 256) := none
  bankcmd : Option (BitVec 32) := none
  uet0Dropped : Nat := 0
  uet1Dropped : Nat := 0
deriving DecidableEq, Repr

/-- Whose turn it is: one entry of the schedule (log entry 2). -/
inductive Turn where
  /-- The block in a slot issues its next instruction; with `defer`, a tile instruction it issues is not
  performed in the same step. -/
  | issue (slot : SlotNo) (defer : Bool)
  /-- A waiting tile instruction of a block performs. -/
  | perform (slot : SlotNo) (flight : Nat)
  /-- A waiting tile instruction of a block performs in part: its elements on one 64-byte line, and those behind them in their
  lane groups, wait for a later turn (R124, R136, R231). -/
  | performPart (slot : SlotNo) (flight : Nat) (line : Nat)
  /-- The lane engine of a core executes its next lane instruction. -/
  | lane (core : BitVec 8)
  /-- A bank that has nothing left to wait for retires (R365 to R370). -/
  | retire
  /-- The home slice of an object grants the head of its queue as far as it may: another write than a release has changed the object
  (R241). -/
  | grant (pa : Nat)
  /-- The oldest scalar access of a block on its way is performed (R238). -/
  | store (slot : SlotNo)
  /-- A system event happens. -/
  | event (i : Instr)
  /-- A scalar cache line, a guest copy or a cached translation is evicted (R232, R338). -/
  | evictLine (core : BitVec 8) (line : Nat)
  | evictGuest (die : Bool) (line : Nat)
  | evictTlb (k : Nat)
  /-- A home slice fills a line, or lets one go, written back to its stack where it is dirty (R14, R372). -/
  | fillHome (line : Nat)
  | evictHome (line : Nat)
  /-- A lane group of a tile memory instruction translates its next page ahead of performing (R340). -/
  | pin (slot : SlotNo) (flight : Nat) (lg : Nat)
  /-- A tile memory instruction reads its plane table ahead of its elements (R116). -/
  | readTable (slot : SlotNo) (flight : Nat)
  /-- An instruction reads one plane of an element that it has still to load, or of an entry of its first or second sparse operand,
  ahead of the other planes (R49). -/
  | readPlane (slot : SlotNo) (flight : Nat) (second : Bool) (elem : Nat) (plane : Nat)
  /-- A page move copies its next line (R353). -/
  | moveLine
  /-- A stream prefetches its next tile (R145). -/
  | prefetch (slot : SlotNo) (w : BitVec 3)
  /-- A line goes into line-hold mode for a block (R250). -/
  | hold (slot : SlotNo) (line : Nat)
  /-- Shadow units diverge at elements of an instruction; at the lowest, the shadow value is `y`, and its SDC is attributed to a bank
  (R154, R360, R391). -/
  | diverge (slot : SlotNo) (flight : Nat) (elem : Nat) (y : Fp) (bank : BitVec 32)
  /-- Decamp sends the last pages, the image and END of a context that has stopped for its migration (R329). -/
  | finalSend (ctx : BitVec 6)
  /-- An agent outside the package writes a byte of its own memory (R231). -/
  | world (pa : BitVec 52) (b : Byte)
  /-- The Ranger core issues a PCI Express write (R415). -/
  | rangerWrite (addr : Word) (data : List Byte)
deriving DecidableEq, Repr

/-- What dispatch or firmware reports to the scheduler of the other side (R271, R272): an eligible launch or a stopped group to the
host, a group that the host stopped to Ranger. -/
inductive Notice where
  | eligibleToHost (q : BitVec 10) (seq : BitVec 54)
  | stoppedToHost (g : GroupId)
  | stoppedToRanger (g : GroupId)
  | faultToRanger (ftag : BitVec 16)
deriving DecidableEq, Repr

/-- An MSI-X message that the device has sent (R397): the function whose table delivered it, the vector, and the entry's message
address and data. -/
structure Signal where
  fn : Byte
  vec : BitVec 11
  addr : Word
  data : BitVec 32
deriving DecidableEq, Repr

/-- The device. `lane` is the job of the lane engine whose turn it is, `lanes` are those of other cores. -/
structure State where
  me : Block
  others : List Block
  lane : Option LaneJob
  lanes : List LaneJob
  agenda : List Turn
  defer : Bool
  free : Nat
  mem : List Host.Cell
  poison : List Nat
  cache : List CacheLine
  guests : List GuestCopy
  homeLines : List HomeLine
  tlb : List TlbEntry
  cbs : List CbTable
  laneFns : List LaneFnEntry
  icache : List IcacheLine
  trails : List Trail
  objWaits : List ObjWait
  ringWaits : List (Nat × SlotNo × Bool)
  links : List LinkTag
  holds : List LineHold
  groups : List Group
  bandBars : List BandBarrier
  arrivals : List Arrival
  slots : List (Nat × BitVec 256)
  slotEdits : List (Nat × BitVec 256)
  stopRecords : List StopRecord
  notices : List Notice
  queues : List (Nat × Queue)
  launches : List Launch
  submitted : List (BitVec 10 × BitVec 512)
  pendingRecords : List PendingRecord
  kernels : List Kernel
  contexts : List (Nat × Context)
  images : List Image
  decamp : List DecampMsg
  keySlots : List (Nat × KeySlot)
  faults : List FaultRecord
  nextFtag : BitVec 16
  held : List HeldAccess
  heldObjs : List HeldObj
  move : Option PageMove
  banks : List (Nat × Bank)
  evacuations : List Evacuation
  bankMap : List (Nat × Nat)
  capls : List (Nat × Nat)
  ports : Vector Port 12
  routes : List (Nat × BitVec 12)
  requests : List ExtRequest
  nextReq : Nat
  sent : List LvSent
  reply : Option HostReply
  signals : List Signal
  msix : List (Nat × BitVec 128)
  pba : List (BitVec 11)
  qown : List (Nat × Byte)
  vown : List (Nat × Byte)
  ctxown : List (Nat × Byte)
  peers : List (Nat × BitVec 256)
  windows : Vector EventWindow 8
  islands : Vector Island 16
  staging : List (Nat × Byte)
  evseq : Word
  ctl : Control
deriving DecidableEq, Repr

/-! ## Reset -/

/-- The cairn of an empty slot. -/
def Cairn.empty : Cairn :=
  { pc := 0, loops := [], sregs := Vector.replicate 64 0, shapes := Vector.replicate 16 {},
    streams := Vector.replicate 8 {}, tags := 0, pendingTags := 0, live := [], mark := 0, readPos := [],
    region := 0xFFFFFFFF }

/-- A slot that no block occupies; its registers hold 0 (log entry 1). -/
def Block.empty (slot : SlotNo) : Block :=
  { slot := slot, st := .free, ctx := 0, kernel := 0, gid := ⟨0, 0, 0, 0⟩, bid := 0, gidReg := 0, bndid := 0,
    lseq := 0, rsv := 0, pc := 0, loops := [], sregs := Vector.replicate 64 0,
    hregs := Vector.replicate 16 0, shapes := Vector.replicate 16 {},
    names := Vector.replicate 32 none, versions := [], streams := Vector.replicate 8 {}, tags := 0,
    lstat := 0, vtype := 0, vtypeOf := 0, region := .clean, cairn := Cairn.empty, rollbacks := 0, trapRec := {},
    inHandler := false, savedPc := 0, savedLoops := [], trapped := none, flights := [], nextId := 0,
    wait := .none, due := none, token := 0, holding := [], channels := [], preempt := false, graceOver := false,
    atPoint := false, roll := .preempt, fillWait := [], cbClaim := none,
    posted := [], asks := [], relBound := none, renames := [] }

/-- The device right after reset (R410): BOOTST in stage RESET, no block resident, every bank ONLINE, every
register at the value its chapter gives; values the spec does not give are those of log entry 1. -/
def State.reset : State :=
  { me := Block.empty 0, others := [], lane := none, lanes := [], agenda := [], defer := false, free := 0, mem := [],
    poison := [], cache := [], guests := [], homeLines := [], tlb := [], cbs := [], laneFns := [], icache := [], trails := [],
    objWaits := [], ringWaits := [], links := [], holds := [], groups := [], bandBars := [], arrivals := [],
    slots := [], slotEdits := [], stopRecords := [], notices := [], queues := [], launches := [], submitted := [], pendingRecords := [], kernels := [],
    contexts := [], images := [], decamp := [], keySlots := [], faults := [], nextFtag := 1, held := [], heldObjs := [], move := none,
    banks := [], evacuations := [], bankMap := [], capls := [], ports := Vector.replicate 12 {}, routes := [], requests := [],
    nextReq := 0, sent := [], reply := none, signals := [], msix := [], pba := [], qown := [], vown := [], ctxown := [],
    peers := [], windows := Vector.replicate 8 {}, islands := Vector.replicate 16 {}, staging := [],
    evseq := 0, ctl := { remain := BitVec.ofNat 16 (min Config.fusedLeaves.toNat 32768), minSvn := Config.fusedSvn } }

/-! ## Stops -/

/-- Why the machine stops with a fault. -/
inductive Fault where
  /-- Raised by a lane instruction executed while no strip runs on the lane engine. Safe: `step` never does
  that, because a lane word is fetched from the strip in progress (R169). -/
  | noStrip
deriving DecidableEq, Repr

/-- Why the machine refuses an instruction. -/
inductive Refusal where
  /-- Raised by the dispatcher for an instruction without a meaning. Safe. -/
  | notModelled (mnemonic : String)
  /-- Raised by a lane instruction whose current type is none that R183 allows for it. Safe: the loader
  refuses such a function (R77, R183), so none is ever executed. -/
  | laneType
deriving DecidableEq, Repr

end Sys2Proof.Machine
end

