-- ==== Sys2Proof/Machine/Mem.lean ====
section
/-!
DEFINITION. Keyed tables, physical memory and its copies (R4, R14, R231 to R233, R388).
-/
namespace Sys2Proof.Machine

/-! ## Keyed tables -/

def tabGet {α : Type} (t : List (Nat × α)) (k : Nat) (d : α) : α :=
  match t with
  | [] => d
  | (j, v) :: r => if j = k then v else tabGet r k d

def tabSet {α : Type} (t : List (Nat × α)) (k : Nat) (v : α) : List (Nat × α) :=
  match t with
  | [] => [(k, v)]
  | (j, w) :: r => if j = k then (k, v) :: r else if k < j then (k, v) :: (j, w) :: r else (j, w) :: tabSet r k v

/-- `b` as a number. -/
def bit01 (b : Bool) : Nat := if b then 1 else 0

def natSum (l : List Nat) : Nat := l.foldl (· + ·) 0

/-- Bits `lo` to `lo + w − 1` of a number. -/
def bitsOf (x lo w : Nat) : Nat := x / 2 ^ lo % 2 ^ w

/-! ## Memory cells -/

/-- What an unlisted address reads as: HBM is written to zero at INIT (R410); for host and peer memory see log
entry 11. -/
def memDefault : Byte := 0

def memRead (m : List Host.Cell) (a : Nat) : Byte :=
  match m with
  | [] => memDefault
  | (k, v) :: r => if k = a then v else if a < k then memDefault else memRead r a

def memWrite (m : List Host.Cell) (a : Nat) (b : Byte) : List Host.Cell :=
  match m with
  | [] => if b = memDefault then [] else [(a, b)]
  | (k, v) :: r =>
    if a < k then (if b = memDefault then (k, v) :: r else (a, b) :: (k, v) :: r)
    else if a = k then (if b = memDefault then r else (a, b) :: r)
    else (k, v) :: memWrite r a b

/-- The canonical form: addresses strictly rising from `lo` on, no listed byte equal to the default. -/
def memSorted (lo : Nat) (m : List Host.Cell) : Bool :=
  match m with
  | [] => true
  | (k, v) :: r => decide (lo ≤ k) && v != memDefault && memSorted (k + 1) r

def memWf (m : List Host.Cell) : Bool := memSorted 0 m

def memBytes (m : List Host.Cell) (a n : Nat) : List Byte :=
  match n with
  | 0 => []
  | k + 1 => memRead m a :: memBytes m (a + 1) k

def memStore (m : List Host.Cell) (a : Nat) (bs : List Byte) : List Host.Cell :=
  match bs with
  | [] => m
  | b :: r => memStore (memWrite m a b) (a + 1) r

/-- Little-endian (R4). -/
def leNat (bs : List Byte) : Nat :=
  match bs with
  | [] => 0
  | b :: r => b.toNat + 256 * leNat r

/-- The `n` bytes of a number, lowest first. -/
def leBytes (n x : Nat) : List Byte :=
  match n with
  | 0 => []
  | k + 1 => BitVec.ofNat 8 x :: leBytes k (x / 256)

def memNat (m : List Host.Cell) (a n : Nat) : Nat := leNat (memBytes m a n)

/-! ## Physical positions (R14, R16, R331) -/

def slotCore (x : SlotNo) : BitVec 8 := x.extractLsb' 1 8
def slotCluster (x : SlotNo) : BitVec 5 := x.extractLsb' 4 5
def slotDie (x : SlotNo) : Bool := x.getLsbD 8
def coreDie (c : BitVec 8) : Bool := c.getLsbD 7
def coreCluster (c : BitVec 8) : BitVec 5 := c.extractLsb' 3 5
/-- The other slot of the core. -/
def slotTwin (x : SlotNo) : SlotNo := x ^^^ 1

/-- Regions by PA[51:48] (R331). -/
inductive Region where
  | hbm | host | peer | hole
deriving DecidableEq, Repr

def regionOf (pa : Nat) : Region :=
  let r := pa / 2 ^ 48
  if r = 0 then (if pa < 2 ^ 39 then .hbm else .hole) else if r = 1 ∨ 2 ^ 16 ≤ r then .host else if r = 2 then .peer else .hole

/-- Where a byte of host memory stands: the device's own accesses reach its first 2^48 bytes, as region 0x1 (R331); those above, which its
Ranger core and the attestation engine alone write, stand beyond every physical address. -/
def hostByte (a : Nat) : Nat := if a < 2 ^ 48 then 2 ^ 48 + a else 2 ^ 64 + a

/-- The host bus address of an access to host memory. -/
def hostAddress (pa : Nat) : Nat := if pa < 2 ^ 64 then pa % 2 ^ 48 else pa - 2 ^ 64

/-- The die of an HBM address (R14). -/
def hbmDie (pa : Nat) : Bool := pa / 2 ^ 38 % 2 = 1

/-- The stack of its die, the pseudo-channel of that stack and the row there that hold an HBM address's granule of 512
bytes (R332). -/
def stackOf (pa : Nat) : Nat := bitsOf pa 9 2
def channelOf (pa : Nat) : Nat := bitsOf pa 11 6
def rowOf (pa : Nat) : Nat := bitsOf pa 17 21

/-- An understory unit: one per pseudo-channel of each stack (R13). -/
structure UnderstoryUnit where
  die : Bool
  stack : Nat
  channel : Nat
deriving DecidableEq, Repr

/-- The understory unit that holds an HBM address's granule (R13, R332). -/
def unitOf (pa : Nat) : UnderstoryUnit := ⟨hbmDie pa, stackOf pa, channelOf pa⟩

def lineOf (pa : Nat) : Nat := pa / 64

/-- The first `n` elements of a list for which `p` holds, and all for which it does not. -/
def keepFirst {α : Type} (p : α → Bool) (n : Nat) (l : List α) : List α :=
  match l with
  | [] => []
  | x :: r =>
    if p x then (match n with | 0 => keepFirst p 0 r | k + 1 => x :: keepFirst p k r)
    else x :: keepFirst p n r

/-! ## Banks (R356, R357, R359) -/

/-- BANKID of bank `i` of `kind` in a core (R357). -/
def bankId (kind : Nat) (core : BitVec 8) (i : Nat) : Nat :=
  kind * 2 ^ 28 + core.toNat / 128 * 2 ^ 27 + core.toNat % 128 * 2 ^ 20 + i

/-- BANKID of an L2 slice. -/
def sliceId (die : Bool) (i : Nat) : Nat := 5 * 2 ^ 28 + bit01 die * 2 ^ 27 + i

def getBank (s : State) (id : Nat) : Bank := tabGet s.banks id {}
def setBank (s : State) (id : Nat) (b : Bank) : State := { s with banks := tabSet s.banks id b }

/-- ONLINE or WATCHED. -/
def bankUp (s : State) (id : Nat) : Bool :=
  let b := getBank s id; b.st == .online || b.st == .watched

/-- The slices of a die in ONLINE or WATCHED, in increasing number. -/
def upSlices (s : State) (die : Bool) : List Nat := (List.range 384).filter fun i => bankUp s (sliceId die i)

/-- SliceOf (R371): the slice of the die's map that homes an address there. -/
def sliceOf (s : State) (die : Bool) (pa : Nat) : Nat :=
  let x := bitsOf pa 6 24
  let h := (x ^^^ (x / 2 ^ 9) ^^^ (x / 2 ^ 17)) % 2 ^ 24
  let up := upSlices s die
  up.getD (h * up.length / 2 ^ 24) 0

/-! ## Copies (R232) -/

def setBytes (l : List Byte) (i : Nat) (bs : List Byte) : List Byte :=
  match bs with
  | [] => l
  | b :: r => setBytes (l.set i b) (i + 1) r

/-- The part of `bs`, written at `pa`, that lies in line `line`, put into `data`. -/
def patchLine (line : Nat) (data : List Byte) (pa : Nat) (bs : List Byte) : List Byte :=
  match bs with
  | [] => data
  | b :: r => patchLine line (if lineOf pa = line then data.set (pa % 64) b else data) (pa + 1) r

/-- Who makes an access: `block` for SST and the tile memory stream, `sync` for a block's operations on its
objects and rings and for SAMO. -/
inductive Agent where
  | block (slot : SlotNo)
  | sync (slot : SlotNo)
  | host
  | link
  | device
deriving DecidableEq, Repr

def Agent.slot (a : Agent) : Option SlotNo :=
  match a with | .block x => some x | .sync x => some x | _ => none

/-- The core whose scalar cache lines follow the write (R232). -/
def Agent.cacheCore (a : Agent) : Option (BitVec 8) := match a with | .block x => some (slotCore x) | _ => none

/-- Whether the `n` bytes at `pa` touch `line`. -/
def touchesLine (pa n line : Nat) : Bool := decide (lineOf pa ≤ line) && decide (line ≤ lineOf (pa + n - 1)) && n != 0

/-- Invalidates the trails whose watched line is written (R216, R217): RESIDENT trails vanish, COMPILING ones
become DOOMED. -/
def breakTrails (ts : List Trail) (hit : Trail → Bool) : List Trail :=
  (ts.filter fun t => !(hit t && t.st == .resident)).map fun t =>
    if hit t && t.st == .compiling then { t with st := .doomed } else t

/-- Marks lines of a page move that a write reaches after they were copied and before the switch (R353). -/
def markMove (mv : Option PageMove) (pa n : Nat) : Option PageMove :=
  match mv with
  | none => none
  | some m =>
    if m.st = .switched then some m
    else
      some { m with marked := m.marked ++ ((List.range 64).filter fun i =>
        touchesLine pa n (m.src.toNat * 64 + i) && m.copied.contains i && !m.todo.contains i && !m.marked.contains i) }

/-- Whether bytes lie in a page that a move has frozen, in its old or its new frame: an access of any agent is answered RETRY
(R353). -/
def frozenAt (s : State) (pa n : Nat) : Bool :=
  match s.move with
  | some m => m.st == .frozen && (List.range 64).any fun i =>
      touchesLine pa n (m.src.toNat * 64 + i) || touchesLine pa n (m.dst.toNat * 64 + i)
  | none => false

/-- A write performed at the home slice: the bytes change, the writer's own copies follow (R232), a line that its slice holds is dirty (R372), other
agents' link tags on the line break (R251), watched descriptors invalidate their trails (R217), a whole line
written in one access loses its poison (R388). -/
def homeWrite (s : State) (who : Agent) (pa : Nat) (bs : List Byte) : State :=
  let n := bs.length
  if n = 0 then s else
  { s with
    mem := memStore s.mem pa bs
    poison := s.poison.filter fun l => !(decide (pa ≤ l * 64) && decide (l * 64 + 64 ≤ pa + n))
    cache := s.cache.map fun c =>
      if !touchesLine pa n c.line then c
      else if who.cacheCore = some c.core then { c with data := patchLine c.line c.data pa bs } else { c with missed := true }
    guests := s.guests.map fun g =>
      if !touchesLine pa n g.line then g
      else if who.slot.map slotDie = some g.die then { g with data := patchLine g.line g.data pa bs } else { g with missed := true }
    homeLines := s.homeLines.map fun h => if touchesLine pa n h.line then { h with dirty := true } else h
    links := s.links.filter fun l => !(touchesLine pa n l.line && who.slot != some l.slot)
    trails := breakTrails s.trails fun t => touchesLine pa n t.line
    move := markMove s.move pa n }

/-- A read performed at the home slice (R231). -/
def homeRead (s : State) (pa n : Nat) : List Byte := memBytes s.mem pa n

def homeNat (s : State) (pa n : Nat) : Nat := leNat (homeRead s pa n)

/-- Whether the bytes touch a poisoned line (R388). -/
def poisonedAt (s : State) (pa n : Nat) : Bool := s.poison.any fun l => touchesLine pa n l

/-- Whether a line of a WB page may be held as a guest copy on `die`. -/
def guestable (die : Bool) (pa : Nat) (cp : BitVec 2) : Bool :=
  cp == 0 && regionOf pa == .hbm && hbmDie pa != die

/-- One byte as the die's L2 gives it: the guest copy where there is one. -/
def l2Byte (s : State) (die : Bool) (pa : Nat) (cp : BitVec 2) : Byte :=
  if guestable die pa cp then
    match s.guests.find? fun g => g.die == die && g.line == lineOf pa with
    | some g => g.data.getD (pa % 64) 0
    | none => memRead s.mem pa
  else memRead s.mem pa

/-- Puts a guest copy into a slice: each set of a slice has 16 ways (R18), and the copy that came first leaves a full one. Which
set a line belongs to is free (log entry 60). -/
def addGuest (s : State) (g : GuestCopy) : State :=
  let all := g :: s.guests
  { s with guests := if all.length ≤ 16 then all
      else keepFirst (fun x => x.die == g.die && x.slice == g.slice && Config.l2Set x.line == Config.l2Set g.line) 16 all }

/-- Fills the guest copies that a read from a die leaves behind, each in the slice that the die's map gives (R371). -/
def l2Fill (s : State) (die : Bool) (pa : Nat) (cp : BitVec 2) : State :=
  if guestable die pa cp && !(s.guests.any fun g => g.die == die && g.line == lineOf pa) then
    addGuest s { die := die, line := lineOf pa, slice := BitVec.ofNat 9 (sliceOf s die pa), data := memBytes s.mem (lineOf pa * 64) 64 }
  else s

/-- `n` bytes read by the tile memory stream of a block on `die` (R231, R232). -/
def tileRead (s : State) (die : Bool) (pa n : Nat) (cp : BitVec 2) : List Byte × State :=
  match n with
  | 0 => ([], s)
  | k + 1 =>
    let (bs, s') := tileRead (l2Fill s die pa cp) die (pa + 1) k cp
    (l2Byte s die pa cp :: bs, s')

/-- Puts a line into a core's scalar cache of 32 KiB (R15): of more than 512 lines the one that came first leaves. -/
def addLine (s : State) (c : CacheLine) : State :=
  { s with cache := c :: keepFirst (fun x => x.core == c.core) 511 s.cache }

/-- The cache line that a miss fills: one that comes from a guest copy has missed what that copy missed. -/
def cacheLineOf (s : State) (core : BitVec 8) (pa : Nat) (cp : BitVec 2) (data : List Byte) : CacheLine :=
  match (if guestable (coreDie core) pa cp then s.guests.find? fun g => g.die == coreDie core && g.line == lineOf pa else none) with
  | some g => { core := core, line := lineOf pa, data := data, missed := g.missed, unbound := g.unbound }
  | none => { core := core, line := lineOf pa, data := data }

/-- A scalar load of at most 8 aligned bytes: a WB access to device memory goes through the core's scalar
cache (R94, R232); host and peer memory is never cached (R399). -/
def scalarRead (s : State) (core : BitVec 8) (pa n : Nat) (cp : BitVec 2) : List Byte × State :=
  if cp = 0 ∧ regionOf pa = .hbm then
    match s.cache.find? fun c => c.core == core && c.line == lineOf pa with
    | some c => ((c.data.drop (pa % 64)).take n, s)
    | none =>
      let (data, s1) := tileRead s (coreDie core) (lineOf pa * 64) 64 cp
      ((data.drop (pa % 64)).take n, addLine s1 (cacheLineOf s core pa cp data))
  else (homeRead s pa n, s)

/-- Drops the scalar cache lines of a core that `p` names. -/
def dropCache (s : State) (core : BitVec 8) (p : Nat → Bool) : State :=
  { s with cache := s.cache.filter fun c => !(c.core == core && p c.line) }

/-- Drops the guest copies of a die that `p` names. -/
def dropGuests (s : State) (die : Bool) (p : Nat → Bool) : State :=
  { s with guests := s.guests.filter fun g => !(g.die == die && p g.line) }

end Sys2Proof.Machine
end

