-- ==== Sys2Proof/Machine/Flit.lean ====
section
/-!
DEFINITION. What goes over a Lervon port: flits and their CRC (R402), messages (R403), and their sending.
-/
namespace Sys2Proof.Machine

def getPort (s : State) (p : BitVec 4) : Port := (s.ports[p.toNat]?).getD {}

def setPort (s : State) (p : BitVec 4) (x : Port) : State :=
  if h : p.toNat < 12 then { s with ports := s.ports.set p.toNat x h } else s

def modPort (s : State) (p : BitVec 4) (f : Port → Port) : State := setPort s p (f (getPort s p))

/-! ## Flits (R402) -/

/-- One bit of the CRC. -/
def crcBit (c : BitVec 64) : BitVec 64 := if c.getLsbD 63 then (c <<< 1) ^^^ 0x42F0E1EBA9EA3693 else c <<< 1

/-- One byte of the CRC, its highest bit first (log entry 20). -/
def crcByte (c : BitVec 64) (b : Byte) : BitVec 64 :=
  (List.range 8).foldl (fun a _ => crcBit a) (c ^^^ (b.setWidth 64 <<< 56))

def crc64 (bs : List Byte) : BitVec 64 := bs.foldl crcByte 0

/-- Bytes 0 to 247 of a flit. -/
def flitBytes (f : Flit) : List Byte :=
  leBytes 2 f.seq.toNat ++ leBytes 2 f.ack.toNat ++ [f.kind, f.credits] ++ leBytes 2 f.reserved.toNat ++ f.slots

def flitOk (f : Flit) : Bool := f.slots.length == 240 && f.crc == crc64 (flitBytes f)

/-! ## Messages (R403) -/

/-- The header of a message. -/
def msgHeader (m : LvMsg) : Nat :=
  m.addr.toNat + bit01 m.sz * 2 ^ 39 + m.len.toNat * 2 ^ 62 + m.tag.toNat * 2 ^ 70 + m.dst.toNat * 2 ^ 86 +
    m.src.toNat * 2 ^ 95 + m.pkey.toNat * 2 ^ 104 + m.aop.toNat * 2 ^ 120 + m.op.toNat * 2 ^ 124

/-- The slots of a message: its header and its data, filled up to whole slots with zeros. -/
def msgSlots (m : LvMsg) : List Byte :=
  leBytes 16 (msgHeader m) ++ m.data ++ List.replicate ((16 - m.data.length % 16) % 16) 0

/-- A flit with its CRC. -/
def sealFlit (f : Flit) : Flit := { f with crc := crc64 (flitBytes f) }

/-- The data flits that carry slots, numbered from `seq`; the first returns credits. -/
def flitsOf (seq ack : BitVec 16) (cr : BitVec 8) (bs : List Byte) (fuel : Nat) : List Flit :=
  match fuel with
  | 0 => []
  | k + 1 =>
    if bs = [] then []
    else
      let body := bs.take 240
      sealFlit { seq := seq, ack := ack, kind := 1, credits := cr, reserved := 0
                 slots := body ++ List.replicate (240 - body.length) 0, crc := 0 } :: flitsOf (seq + 1) ack 0 (bs.drop 240) k

/-- The credits that a flit returns: slots by sixteens (R402). -/
def Port.returns (x : Port) : Nat := min 255 (x.owed / 16)

/-- Sends a message on a port: its flits stay in the replay buffer until they are acknowledged, and beyond the first 1,024 they wait
there to be sent (R402). -/
def sendMessage (s : State) (p : BitVec 4) (m : LvMsg) : State :=
  let x := getPort s p
  let fs := flitsOf x.nextSeq (x.expected - 1) (BitVec.ofNat 8 x.returns) (msgSlots m) ((msgSlots m).length / 240 + 1)
  { setPort s p { x with replay := x.replay ++ fs, nextSeq := x.nextSeq + BitVec.ofNat 16 fs.length, owed := x.owed - 16 * x.returns } with
    sent := s.sent ++ [⟨p, m⟩] }

end Sys2Proof.Machine
end

