-- ==== Sys2Proof/Machine/Beyond.lean ====
section
/-!
DEFINITION. Accesses beyond the package (R331, R399, R403 to R406), and the reports that the device writes: context events (R317),
error-log records (R392, R393) and the event counter (R292).
-/
namespace Sys2Proof.Machine

/-! ## Accesses beyond the package -/

/-- The live ports that the route table gives for a node, in increasing number (R405). -/
def livePorts (s : State) (node : Nat) : List Nat :=
  let mask : BitVec 12 := tabGet s.routes node 0
  (List.range 12).filter fun p => mask.getLsbD p &&
    match s.ports[p]? with | some x => x.st == .up || x.st == .degraded | none => false

/-- The die of a Lervon port: LL0 to LL5 on CD0, LL6 to LL11 on CD1 (R13). -/
def portDie (p : Nat) : Bool := decide (6 ≤ p)

/-- The port for an access to peer memory (R405). -/
def peerPort (s : State) (pa : Nat) : Option Nat :=
  let node := bitsOf pa 39 9
  let l := livePorts s node
  if l = [] ∨ node = s.ctl.nodeid.toNat then none else l[bitsOf pa 12 27 % l.length]?

/-- The home die of an address (R14, R331): by PA[38] in device memory, CD0 for host memory, the die of the port that its route
uses for peer memory. -/
def homeDie (s : State) (pa : Nat) : Bool :=
  match regionOf pa with
  | .hbm => hbmDie pa
  | .peer => match peerPort s pa with | some p => portDie p | none => false
  | _ => false

/-- The home slice of an address (R14): its home die and the slice that the die's map gives. -/
def homeSlice (s : State) (pa : Nat) : Bool × Nat := (homeDie s pa, sliceOf s (homeDie s pa) pa)

/-- The context that an agent's access beyond the package belongs to. -/
def ExtAgent.ctx (s : State) (a : ExtAgent) : Option (BitVec 6) :=
  match a with
  | .group g _ _ => some g.ctx
  | .contextEvent c => some c
  | .loader c _ => some c
  | .countRead q _ => some ((tabGet s.queues q.toNat {}).cfg.extractLsb' 0 6)
  | .completionRecord q => some ((tabGet s.queues q.toNat {}).cfg.extractLsb' 0 6)
  | .faultRecord _ => none
  | .errorLog => none
  | .report => none

/-- The partition key that an access beyond the package carries (R315); one for no context carries none. -/
def ExtAgent.pkey (s : State) (a : ExtAgent) : BitVec 16 :=
  match a.ctx s with | some c => (tabGet s.contexts c.toNat {}).pkey | none => 0

/-- The function whose requester ID an access beyond the package carries: the one that CTXOWN names for its context, and the PF for one
of no context, the error log's and the fault ring's (R399). -/
def ExtAgent.fn (s : State) (a : ExtAgent) : Byte := match a.ctx s with | some c => tabGet s.ctxown c.toNat 0 | none => 0

/-- Whether an access must wait because the route of its peer page has changed (R405): accesses to the page are outstanding on a port
other than the one it would take. -/
def pathMoved (s : State) (pa : Nat) : Bool :=
  regionOf pa == .peer && s.requests.any fun r => r.pa / 4096 == pa / 4096 && r.port != (peerPort s pa).map (BitVec.ofNat 4)

/-- The bytes that an access beyond the package is about. -/
def ExtOp.size (o : ExtOp) : Nat :=
  match o with | .read n => n | .write d => d.length | .atomic _ w32 _ => if w32 then 4 else 8

/-- The message that carries a request to a peer (R403 to R405). -/
def ExtRequest.message (s : State) (r : ExtRequest) : LvMsg :=
  { op := match r.op with | .read _ => 0 | .write _ => 1 | .atomic _ _ _ => 2
    aop := match r.op with | .atomic k _ _ => BitVec.ofNat 4 k | _ => 0
    pkey := r.pkey, src := s.ctl.nodeid, dst := BitVec.ofNat 9 (bitsOf r.pa 39 9), tag := BitVec.ofNat 16 r.tag
    len := BitVec.ofNat 8 (r.op.size - 1), sz := match r.op with | .atomic _ w32 _ => w32 | _ => false
    addr := BitVec.ofNat 39 r.pa
    data := match r.op with | .read _ => [] | .write d => d | .atomic _ _ d => d }

/-- A request to a peer goes out on its port (R405). -/
def sendRequest (s : State) (r : ExtRequest) : State :=
  match r.port with | some p => sendMessage s p (r.message s) | none => s

/-- Makes one access to host or peer memory, whose completion is outstanding from now on (R399, R406). -/
def extRequest (s : State) (agent : ExtAgent) (pa : Nat) (op : ExtOp) : State :=
  let r : ExtRequest := { tag := s.nextReq, agent := agent, pa := pa, op := op, pkey := agent.pkey s, fn := agent.fn s
                          port := if regionOf pa = .peer then (peerPort s pa).map (BitVec.ofNat 4) else none }
  match regionOf pa with
  | .host | .peer => { sendRequest s r with requests := s.requests ++ [r], nextReq := s.nextReq + 1 }
  | _ => s

/-- The pieces in which bytes beyond the package are reached, none in device memory: a message carries at most 256 bytes (R403). -/
def farPieces (pa n : Nat) : List (Nat × Nat) :=
  match regionOf pa with
  | .host => [(pa, n)]
  | .peer => (List.range ((n + 255) / 256)).map fun i => (pa + 256 * i, min 256 (n - 256 * i))
  | _ => []

/-- The requests of a write, beyond the package, of some bytes. -/
def extWrite (s : State) (agent : ExtAgent) (pa : Nat) (bs : List Byte) : State :=
  (farPieces pa bs.length).foldl (fun s p => extRequest s agent p.1 (.write ((bs.drop (p.1 - pa)).take p.2))) s

/-- The requests of a read, beyond the package, of `n` bytes. -/
def extRead (s : State) (agent : ExtAgent) (pa n : Nat) : State :=
  (farPieces pa n).foldl (fun s p => extRequest s agent p.1 (.read p.2)) s

/-! ## Accesses before READY (R411) -/

/-- An access that completes Unsupported Request (R396, R398, R411). -/
def unsupported (s : State) : State := { s with reply := some ⟨false, []⟩ }

/-- The device is READY (R410). -/
def State.isReady (s : State) : Bool := s.ctl.stage == .ready

/-- A control-window access: before READY it completes Unsupported Request and changes nothing. -/
def whenReady (s : State) (o : Host.Outcome State Fault Refusal) : Host.Outcome State Fault Refusal :=
  if s.isReady then o else .next (unsupported s)

/-- What is dropped before READY: a queue-window write, a packet. -/
def onlyReady (s : State) (o : Host.Outcome State Fault Refusal) : Host.Outcome State Fault Refusal :=
  if s.isReady then o else .next s

/-! ## The event counter, MSI-X signals, error log, context events -/

/-- The next event sequence number (R292). -/
def nextEvent (s : State) : Word × State := (s.evseq + 1, { s with evseq := s.evseq + 1 })

/-- The entry of a vector in a function's MSI-X table, by function × 2,048 + vector; bit 96 masks it, and it is masked
after reset (log entry 19). -/
def msixEntry (s : State) (fn : Nat) (vec : BitVec 11) : BitVec 128 :=
  tabGet s.msix (fn * 2048 + vec.toNat) (BitVec.twoPow 128 96)

/-- Sends the message of a vector's entry in a function's table: its address and its data (R397). -/
def sendSignal (s : State) (fn : Nat) (vec : BitVec 11) : State :=
  let e := msixEntry s fn vec
  { s with signals := s.signals ++ [⟨BitVec.ofNat 8 fn, vec, e.extractLsb' 0 64, e.extractLsb' 64 32⟩] }

/-- Signals an MSI-X vector through its owner's entry; a masked one is pending (R397). -/
def signal (s : State) (vec : BitVec 11) : State :=
  let fn := (tabGet s.vown vec.toNat (0 : Byte)).toNat
  if (msixEntry s fn vec).getLsbD 96 then
    if s.pba.contains vec then s else { s with pba := s.pba ++ [vec] }
  else sendSignal s fn vec

/-- An error-log record's fields (R393). -/
structure ErrRec where
  class_ : Nat
  detail : Nat := 0
  info : Nat := 0
  addr : Nat := 0
  bank : Nat := 0xFFFFFFFF
  slot : Nat := 0x1FF
  ctx : Option (BitVec 6) := none
deriving DecidableEq, Repr

/-- Writes or drops an error-log record (R392). -/
def errLog (s : State) (r : ErrRec) : State :=
  let (ev, s1) := nextEvent s
  let cfg := s1.ctl.elcfg.toNat
  let size := 2 ^ bitsOf cfg 52 4
  if bitsOf cfg 63 1 = 0 ∨ (s1.ctl.eltail - s1.ctl.elhead).toNat = size then
    { s1 with ctl := { s1.ctl with ellost := s1.ctl.ellost + 1 } }
  else
    let pa := bitsOf cfg 12 40 * 4096 + 32 * (s1.ctl.eltail.toNat % size)
    let w2 := r.detail + r.class_ * 2 ^ 8 + (bit01 r.ctx.isSome) * 2 ^ 16 +
      (match r.ctx with | some c => c.toNat | none => 0) * 2 ^ 17 + r.slot * 2 ^ 23 + r.bank * 2 ^ 32
    let body := leBytes 8 r.info ++ leBytes 8 r.addr ++ leBytes 8 w2 ++ leBytes 8 ev.toNat
    let s3 := extWrite (homeWrite s1 .device pa body) .errorLog pa body
    let s4 := { s3 with ctl := { s3.ctl with eltail := s3.ctl.eltail + 1 } }
    if bitsOf cfg 62 1 = 1 then signal s4 (BitVec.ofNat 11 cfg) else s4

def getCtx (s : State) (c : BitVec 6) : Context := tabGet s.contexts c.toNat {}
def setCtx (s : State) (c : BitVec 6) (x : Context) : State :=
  { s with contexts := tabSet s.contexts c.toNat x }
def modCtx (s : State) (c : BitVec 6) (f : Context → Context) : State := setCtx s c (f (getCtx s c))

/-- Writes or drops a context event (R317). A context without an event ring (FREE) reports nothing, but the
event still takes its number. -/
def ctxEvent (s : State) (c : BitVec 6) (code : Nat) (slot : Nat) (d0 d1 : Word) : State :=
  let (ev, s1) := nextEvent s
  let x := getCtx s1 c
  if x.st = .free ∨ x.st = .destroyed then s1
  else
    let size := 2 ^ x.evlog.toNat
    if x.events - x.cevhead.toNat = size then setCtx s1 c { x with cevlost := x.cevlost + 1 }
    else
      let pa := x.evring.toNat + 32 * (x.events % size)
      let phase := x.events / size % 2
      let w2 := phase + slot * 2 ^ 39 + code * 2 ^ 48
      let body := leBytes 8 d0.toNat ++ leBytes 8 d1.toNat ++ leBytes 8 w2 ++ leBytes 8 ev.toNat
      let s3 := extWrite (homeWrite s1 .device pa body) (.contextEvent c) pa body
      let s4 := setCtx s3 c { x with events := x.events + 1 }
      if x.evirq then signal s4 x.evvec else s4

/-- A refusal reported as a context event (R317, code 0x06). -/
def refusalEvent (s : State) (c : BitVec 6) (reason : Nat) (d1 : Nat) : State :=
  ctxEvent s c 0x06 0x1FF (BitVec.ofNat 64 reason) (BitVec.ofNat 64 d1)

end Sys2Proof.Machine
end

