-- ==== Sys2Proof/Machine/Page.lean ====
section
/-!
DEFINITION. Page translation: the walk (R333 to R337), the cached translations (R338, R339), the dirty log
(R349, R350), and fault records (R343, R344).
-/
namespace Sys2Proof.Machine

/-- The kind of an access (R333); its code is the KIND field of a fault record (R344). -/
inductive AccKind where
  | read | write | atomic
deriving DecidableEq, Repr

def AccKind.code (k : AccKind) : Nat := match k with | .read => 0 | .write => 1 | .atomic => 2

/-- ENG of a dirty-log entry (R349): the engine that writes. -/
inductive Eng where
  | tile | copy | scalar | link
deriving DecidableEq, Repr

def Eng.code (e : Eng) : Nat := match e with | .tile => 0 | .copy => 1 | .scalar => 2 | .link => 3

/-- What a translation gives. -/
inductive Xlat where
  | ok (t : TlbEntry)
  | fault (reason level entry : Nat)
  /-- The page is frozen by a page move (R353). -/
  | hold
deriving DecidableEq, Repr

/-! ## The walk -/

/-- A leaf as the walk finds it: `flags` are bits [10:0] of either entry form (R334, R335). -/
structure Leaf where
  level : Nat
  frame : Nat
  flags : Nat
  raw : Nat
  at_ : Nat
deriving DecidableEq, Repr

def Leaf.bit (l : Leaf) (i : Nat) : Bool := l.flags / 2 ^ i % 2 = 1
def Leaf.cp (l : Leaf) : Nat := bitsOf l.flags 6 2
def Leaf.mig (l : Leaf) : Nat := bitsOf l.flags 9 2

/-- The rules of R337 that both leaf forms share. -/
def leafFlagsBad (l : Leaf) : Bool :=
  l.mig = 3 || (l.bit 5 && l.cp != 2) ||
  (l.bit 8 && (l.bit 5 || l.cp == 2 || regionOf (l.frame * 4096) != .hbm))

/-- R337 for an upper-level entry at `level` (3 to 1). -/
def upperBad (e level : Nat) : Bool :=
  bitsOf e 52 4 != 0 ||
  (if bitsOf e 11 1 = 1 then
    level = 3 || bitsOf e 12 40 % 512 ^ level != 0 || bitsOf e 9 2 != 0 ||
      leafFlagsBad ⟨level, bitsOf e 12 40, e % 2048, e, 0⟩
  else bitsOf e 1 10 != 0)

/-- R337 for a leaf entry of a leaf line. -/
def leafBad (e : Nat) : Bool := bitsOf e 11 1 = 1 || leafFlagsBad ⟨0, bitsOf e 16 40, e % 2048, e, 0⟩

/-- Entry `i` of the leaf line at `line` (R335). -/
def leafEntry (s : State) (line i : Nat) : Nat := homeNat s (line + 7 * i) 7

/-- Where the walk ends. -/
inductive WalkEnd where
  | fault (reason level entry : Nat)
  | leaf (l : Leaf) (line : Nat)
deriving DecidableEq, Repr

/-- The table reads of R333 from the table at `a`, `level` levels above the leaf table. -/
def walkFrom (s : State) (va : Nat) (level a : Nat) : WalkEnd :=
  match level with
  | 0 =>
    let line := a + 64 * bitsOf va 15 6
    let i := bitsOf va 12 3
    let e := leafEntry s line i
    if e % 2 = 0 then .fault 0x01 0 e
    else if leafBad e then .fault 0x05 0 e
    else .leaf ⟨0, bitsOf e 16 40, e % 2048, e, line + 7 * i⟩ line
  | k + 1 =>
    let at_ := a + 8 * bitsOf va (9 * (k + 1) + 12) 9
    let e := homeNat s at_ 8
    if e % 2 = 0 then .fault 0x01 (k + 1) e
    else if upperBad e (k + 1) then .fault 0x05 (k + 1) e
    else if bitsOf e 11 1 = 1 then .leaf ⟨k + 1, bitsOf e 12 40, e % 2048, e, at_⟩ 0
    else walkFrom s va k (bitsOf e 12 40 * 4096)

/-- The walk of R333 without its effects. -/
def walk (s : State) (ctx : BitVec 6) (va : Nat) : WalkEnd :=
  if va / 2 ^ 48 != 0 then .fault 0x06 3 0
  else walkFrom s va 3 (bitsOf (getCtx s ctx).ptroot.toNat 12 40 * 4096)

/-- Whether an access finds no port to its peer: the fault of R405. -/
def noRoute (s : State) (pa : Nat) : Bool := regionOf pa == .peer && (peerPort s pa).isNone

/-- The checks of Leaf in R333, and R405: a fault reason, or none. -/
def leafReason (s : State) (l : Leaf) (va : Nat) (kind : AccKind) : Option Nat :=
  if l.cp = 3 then some 0x04
  else if kind != .read && !l.bit 1 then some 0x02
  else if regionOf (l.frame * 4096) = .hole || noRoute s (l.frame * 4096 + va % (4096 * 512 ^ l.level)) then some 0x07
  else none

/-! ## Cached translations -/

/-- The first 4 KiB page of the page of size `size` that holds virtual page `vp`. -/
def pageStart (size vp : Nat) : Nat := vp / 512 ^ size * 512 ^ size

def TlbEntry.covers (t : TlbEntry) (ctx : BitVec 6) (vp : Nat) : Bool :=
  t.ctx == ctx && t.vpage == pageStart t.size vp

/-- The physical address of `va` under a translation. -/
def TlbEntry.pa (t : TlbEntry) (va : Nat) : Nat := t.frame.toNat * 4096 + va % (4096 * 512 ^ t.size)

def tlbOf (home : TlbHome) (ctx : BitVec 6) (vp : Nat) (l : Leaf) (stride : Bool := false) : TlbEntry :=
  { home := home, ctx := ctx, size := l.level, vpage := pageStart l.level vp, frame := BitVec.ofNat 40 l.frame,
    w := l.bit 1, ns := l.bit 5, ul := l.bit 8, cp := BitVec.ofNat 2 l.cp, x := l.bit 2, a := l.bit 3,
    d := l.bit 4, stride := stride, entry := l.at_ }

/-- The conditions of R336 for the leaf line at `line`. -/
def summaryHolds (s : State) (line : Nat) : Bool :=
  let w := homeNat s (line + 56) 8
  let spacing := bitsOf w 39 24
  let step := if spacing < 2 ^ 23 then spacing else spacing + 2 ^ 40 - 2 ^ 24
  let e0 := leafEntry s line 0
  bitsOf w 63 1 = 1 && bitsOf w 9 30 = 0 && (List.range 8).all fun i =>
    let e := leafEntry s line i
    e % 2 = 1 && bitsOf e 9 2 = 0 && bitsOf e 16 40 = (bitsOf e0 16 40 + i * step) % 2 ^ 40 &&
      e % 512 - e % 32 / 8 * 8 = bitsOf w 0 9

/-- The translations that a walk installs: one, or those of a stride entry where the summary holds (R336, R339). The entries
govern: one that would fault keeps no translation. -/
def installs (s : State) (home : TlbHome) (ctx : BitVec 6) (vp : Nat) (l : Leaf) (line : Nat) : List TlbEntry :=
  if l.level = 0 && summaryHolds s line then
    ((List.range 8).filter fun i =>
      let e := leafEntry s line i
      !leafBad e && regionOf (bitsOf e 16 40 * 4096) != .hole).map fun i =>
      let e := leafEntry s line i
      tlbOf home ctx (vp / 8 * 8 + i) ⟨0, bitsOf e 16 40, e % 2048, e, line + 7 * i⟩ true
  else [tlbOf home ctx vp l]

/-- Appends a dirty-log entry when the context's log is on; the first entry that finds the ring full sets the
overflow bit, with event 0x0B (R324, R349, R350). -/
def dirtyLog (s : State) (ctx : BitVec 6) (vpage size : Nat) (eng : Eng) : State :=
  let x := getCtx s ctx
  if !x.logging then s
  else if x.dlogw.toNat - x.dlogr.toNat = x.dlogn.toNat then
    if x.dlogOvf then s else ctxEvent (setCtx s ctx { x with dlogOvf := true }) ctx 0x0B 0x1FF 1 0
  else
    let seq := x.dlogw.toNat
    let w := size + eng.code * 4 + vpage * 4096
    let s1 := homeWrite s .device (x.dloga.toNat + 16 * (seq % x.dlogn.toNat)) (leBytes 8 w ++ leBytes 8 seq)
    setCtx s1 ctx { x with dlogw := x.dlogw + 1 }

/-- The atomic step of R338 at the entry of `t`: sets A, and D for a write, with the log entry of R349. A page move's own copy of the
entry follows (R353). -/
def setAD (s : State) (t : TlbEntry) (kind : AccKind) (eng : Eng) : State :=
  let old := (memRead s.mem t.entry).toNat
  let wantD := kind != .read
  let s0 := { s with move := s.move.map fun m =>
    if m.entry = t.entry then { m with raw := m.raw ||| 8 ||| (if wantD then 16 else 0) } else m }
  let s1 := if wantD && old / 16 % 2 = 0 then dirtyLog s0 t.ctx t.vpage t.size eng else s0
  let new := old ||| 8 ||| (if wantD then 16 else 0)
  if new = old then s1 else homeWrite s1 .device t.entry [BitVec.ofNat 8 new]

/-- Marks the cached copies of a translation in one place as accessed, and dirty after a write. -/
def touchTlb (l : List TlbEntry) (t : TlbEntry) (kind : AccKind) : List TlbEntry :=
  l.map fun u => if u.home = t.home ∧ u.ctx = t.ctx ∧ u.vpage = t.vpage ∧ u.size = t.size ∧ u.entry = t.entry
    then { u with a := true, d := u.d || kind != .read } else u

/-- The entry of a cache that a translation belongs to: its own, or the stride entry of its leaf line (R339). -/
def TlbEntry.key (t : TlbEntry) : Bool × BitVec 6 × Nat × Nat :=
  (t.stride, t.ctx, t.size, if t.stride then t.vpage / 8 else t.vpage)

/-- Keeps the translations of one place while there is room for their entries; those of a stride entry stay or leave together
(R339). -/
def keepTlb (home : TlbHome) (room : Nat) (held : List (Bool × BitVec 6 × Nat × Nat)) (l : List TlbEntry) : List TlbEntry :=
  match l with
  | [] => []
  | t :: r =>
    if t.home != home || held.contains t.key then t :: keepTlb home room held r
    else
      match room with
      | 0 => keepTlb home 0 held r
      | n + 1 => t :: keepTlb home n (t.key :: held) r

/-- The entries of a translation cache: 256 in a core, 16,384 in a die (R339). -/
def tlbRoom (home : TlbHome) : Nat := match home with | .core _ => 256 | .die _ => 16384

/-- Adds translations to the caches, each once; of more than a cache holds, those that came first leave. -/
def addTlb (l : List TlbEntry) (new : List TlbEntry) : List TlbEntry :=
  let all := (new.filter fun t => !l.any fun u => u.home == t.home && u.covers t.ctx t.vpage && u.size == t.size) ++ l
  if all.length ≤ 256 then all
  else (new.map TlbEntry.home).foldl (fun l h => keepTlb h (tlbRoom h) [] l) all

/-- What a core takes from its die's cache with a translation: the whole of a stride entry (R339). -/
def promoted (l : List TlbEntry) (c : BitVec 8) (t : TlbEntry) : List TlbEntry :=
  (l.filter fun u => u == t || (t.stride && u.home == t.home && u.key == t.key)).map fun u => { u with home := .core c }

/-- Translates one address for an access of `kind` (R330 to R339). `core` is the core whose run-ahead TLB and
whose die's shared TLB serve the access; other agents walk. A cached translation without W is walked again for
a write, so that the fault comes from the entry (log entry 12). -/
def translate (s : State) (core : Option (BitVec 8)) (ctx : BitVec 6) (va : Nat) (kind : AccKind) (eng : Eng) :
    Xlat × State :=
  let vp := va / 4096
  let cached : Option (TlbEntry × List TlbEntry) :=
    if va / 2 ^ 48 != 0 then none else
    match core with
    | none => none
    | some c =>
      match s.tlb.find? fun t => t.home == .core c && t.covers ctx vp && (kind == .read || t.w) with
      | some t => some (t, [])
      | none => (s.tlb.find? fun t => t.home == .die (coreDie c) && t.covers ctx vp && (kind == .read || t.w)).map
          fun t => ({ t with home := .core c }, promoted s.tlb c t)
  match cached with
  | some (t, new) =>
    let s1 := { s with tlb := addTlb s.tlb new }
    if noRoute s (t.pa va) then (.fault 0x07 t.size (homeNat s t.entry (if t.size = 0 then 7 else 8)), s)
    else if t.a && (kind == .read || t.d) then (.ok t, s1)
    else
      let s2 := setAD s1 t kind eng
      (.ok t, { s2 with tlb := touchTlb s2.tlb t kind })
  | none =>
    match walk s ctx va with
    | .fault r l e => (.fault r l e, s)
    | .leaf l line =>
      match leafReason s l va kind with
      | some r => (.fault r l.level l.raw, s)
      | none =>
        if l.mig = 2 then (.hold, s)
        else
          match core with
          | none =>
            let t := tlbOf (.die false) ctx vp l
            (.ok t, setAD s t kind eng)
          | some c =>
            let t := tlbOf (.core c) ctx vp l
            let new := installs s (.core c) ctx vp l line ++ installs s (.die (coreDie c)) ctx vp l line
            let drop := s.tlb.filter fun u =>
              !((u.home == .core c || u.home == .die (coreDie c)) && u.covers ctx vp)
            let s1 := setAD { s with tlb := addTlb drop new } t kind eng
            (.ok t, { s1 with tlb := touchTlb s1.tlb t kind })

/-- Translates for an instruction that holds translations: a pinned one serves the access (R340); otherwise as `translate`. -/
def translateBy (pins : List TlbEntry) (s : State) (core : Option (BitVec 8)) (ctx : BitVec 6) (va : Nat) (kind : AccKind)
    (eng : Eng) : Xlat × State :=
  match pins.find? fun t => t.covers ctx (va / 4096) && (kind == .read || t.w) && decide (va / 2 ^ 48 = 0) with
  | some t =>
    if noRoute s (t.pa va) then (.fault 0x07 t.size (homeNat s t.entry (if t.size = 0 then 7 else 8)), s)
    else if t.a && (kind == .read || t.d) then (.ok t, s) else (.ok t, setAD s t kind eng)
  | none => translate s core ctx va kind eng

/-- A piece of a virtual range on one page. -/
structure Seg where
  va : Nat
  pa : Nat
  len : Nat
  cp : BitVec 2
  ns : Bool
  ul : Bool
  x : Bool
  t : TlbEntry
deriving DecidableEq, Repr

/-- What translating a range gives: its pieces, or the first address that fails and why. -/
inductive RangeX where
  | ok (segs : List Seg)
  | fault (va reason level entry : Nat)
  | hold (va : Nat)
deriving DecidableEq, Repr

/-- Translates the `n` bytes from `va` page by page, at most `fuel` pages, for an instruction that holds `pins`. -/
def translateRange (pins : List TlbEntry) (s : State) (core : Option (BitVec 8)) (ctx : BitVec 6) (va n : Nat) (kind : AccKind) (eng : Eng)
    (fuel : Nat) : RangeX × State :=
  match fuel with
  | 0 => (.ok [], s)
  | k + 1 =>
    if n = 0 then (.ok [], s)
    else
      let a := va % 2 ^ 64
      match translateBy pins s core ctx a kind eng with
      | (.fault r l e, s1) => (.fault a r l e, s1)
      | (.hold, s1) => (.hold a, s1)
      | (.ok t, s1) =>
        let len := min n (4096 - a % 4096)
        match translateRange pins s1 core ctx (a + len) (n - len) kind eng k with
        | (.ok l, s2) => (.ok (⟨a, t.pa a, len, t.cp, t.ns, t.ul, t.x, t⟩ :: l), s2)
        | r => r

/-- Whether an invalidation names a translation (R341). -/
def TlbEntry.named (t : TlbEntry) (ctx : BitVec 6) (all : Bool) (vp n : Nat) : Bool :=
  t.ctx == ctx && (all || (decide (t.vpage < vp + n) && decide (vp < t.vpage + 512 ^ t.size)))

/-- Drops the cached translations of a context that overlap a range of pages (R341). -/
def invalidate (s : State) (ctx : BitVec 6) (all : Bool) (vp n : Nat) : State :=
  { s with tlb := s.tlb.filter fun t => !t.named ctx all vp n }

/-- Whether an instruction holds a pin on a translation that an invalidation names (R340, R341). -/
def pinHeld (s : State) (ctx : BitVec 6) (all : Bool) (vp n : Nat) : Bool :=
  (s.me :: s.others).any fun b => b.flights.any fun f => f.pins.any fun p => p.2.named ctx all vp n

/-- Whether a block has a store on its way to a page of such a range. -/
def Block.postedOn (b : Block) (ctx : BitVec 6) (all : Bool) (vp n : Nat) : Bool :=
  b.ctx == ctx && b.posted.any fun q => all || (decide (vp ≤ q.va / 4096) && decide (q.va / 4096 < vp + n))

/-- Whether an access that used a translation which an invalidation names is still to be performed (R341). -/
def storeHeld (s : State) (ctx : BitVec 6) (all : Bool) (vp n : Nat) : Bool :=
  (s.me :: s.others).any fun b => b.postedOn ctx all vp n

/-- What the device's own access to the word of an object finds: its physical address, a page that a move has frozen, which answers
RETRY (R353), or none. -/
inductive ObjX where
  | ok (pa : Nat)
  | retry
  | none
deriving DecidableEq, Repr

/-- The device's own access to an object's word: D is set, and the dirty log written, before the write (R349). -/
def objAccess (s : State) (ctx : BitVec 6) (va : Word) : ObjX × State :=
  match translate s none ctx va.toNat .atomic .link with
  | (.ok t, s1) => (.ok (t.pa va.toNat), s1)
  | (.hold, s1) => (.retry, s1)
  | (.fault _ _ _, s1) => (.none, s1)

/-! ## Fault records -/

/-- The trap cause of a failed translation (R343). -/
def reasonCause (reason : Nat) : Cause :=
  if reason = 0x01 ∨ reason = 0x05 ∨ reason = 0x06 then .pageFault
  else if reason = 0x08 then .migrateRetry else .protection

/-- CAUSE of a fault record (R344). -/
def causeField (c : Cause) : Nat := match c with | .pageFault => 1 | .migrateRetry => 3 | _ => 2

def FaultAgent.slotField (a : FaultAgent) : Nat :=
  match a with | .sequencer x => x.toNat | .flight x _ => x.toNat | _ => 0x1FF

def FaultAgent.isDispatch (a : FaultAgent) : Bool :=
  match a with | .object _ _ => true | .count _ _ => true | .completion _ => true | _ => false

/-- The first tag from `t` on, 0 left out, that no outstanding record has. -/
def freeFtag (l : List FaultRecord) (t : BitVec 16) (fuel : Nat) : BitVec 16 :=
  match fuel with
  | 0 => t
  | k + 1 => if t = 0 ∨ l.any (fun f => f.ftag == t) then freeFtag l (t + 1) k else t

/-- Room in the fault ring (R344): FRLOG 0 is no ring. -/
def faultRoom (s : State) : Bool :=
  let lg := bitsOf s.ctl.frcfg.toNat 52 4
  lg != 0 && (s.ctl.frtail - s.ctl.frhead).toNat != 2 ^ lg

/-- Writes one record to the fault ring. -/
def putFault (s : State) (f : FaultRecord) : State :=
  let cfg := s.ctl.frcfg.toNat
  let pa := bitsOf cfg 12 40 * 4096 + 32 * (s.ctl.frtail.toNat % 2 ^ bitsOf cfg 52 4)
  let s1 := extWrite (homeWrite s .device pa (leBytes 32 f.body.toNat)) (.faultRecord f.ftag) pa (leBytes 32 f.body.toNat)
  { s1 with ctl := { s1.ctl with frtail := s1.ctl.frtail + 1 } }

/-- Writes the waiting records, oldest first, while the ring has room. -/
def flushFaultsFrom (s : State) (l : List FaultRecord) : List FaultRecord × State :=
  match l with
  | [] => ([], s)
  | f :: r =>
    if f.written then let (r', s') := flushFaultsFrom s r; (f :: r', s')
    else if faultRoom s then
      let (r', s') := flushFaultsFrom (putFault s f) r
      ({ f with written := true } :: r', s')
    else (f :: r, s)

def flushFaults (s : State) : State :=
  let (l, s1) := flushFaultsFrom s s.faults
  { s1 with faults := l }

/-- Raises a fault record (R344): to the ring in host-assisted mode, else to Ranger's own queue. -/
def raiseFault (s : State) (agent : FaultAgent) (ctx : BitVec 6) (va : Nat) (kind : AccKind)
    (reason level entry : Nat) : BitVec 16 × State :=
  let (ev, s1) := nextEvent s
  let tag := freeFtag s1.faults s1.nextFtag (s1.faults.length + 2)
  let cause := causeField (reasonCause reason)
  let body := (if reason = 0x06 then 0 else entry) + reason * 2 ^ 96 + cause * 2 ^ 104 + level * 2 ^ 108 +
    bit01 agent.isDispatch * 2 ^ 110 + kind.code * 2 ^ 111 + agent.slotField * 2 ^ 113 + ctx.toNat * 2 ^ 122 +
    va % 2 ^ 48 * 2 ^ 128 + tag.toNat * 2 ^ 176 + ev.toNat * 2 ^ 192
  let host := s1.ctl.fnmode.getLsbD 1
  let f : FaultRecord := ⟨tag, agent, BitVec.ofNat 256 body, host, !host⟩
  (tag, flushFaults { s1 with faults := s1.faults ++ [f], nextFtag := tag + 1 })

/-- Cancels the outstanding records that `p` names (R346). -/
def cancelFaults (s : State) (p : FaultAgent → Bool) : State :=
  { s with faults := s.faults.filter fun f => !p f.agent, held := s.held.filter fun h => !p h.agent }

/-- An agent's access is held no more. -/
def unhold (s : State) (agent : FaultAgent) : State := { s with held := s.held.filter fun h => h.agent != agent }

/-- Registers an access held on a frozen page (R353). -/
def holdOn (s : State) (agent : FaultAgent) (ctx : BitVec 6) (va : Nat) (kind : AccKind) : State :=
  { s with held := s.held.filter (fun h => h.agent != agent) ++
      [⟨agent, ctx, BitVec.ofNat 64 va, kind.code⟩] }

end Sys2Proof.Machine
end

