-- ==== Sys2Proof/Machine/Block.lean ====
section
/-!
DEFINITION. A block's registers, tile versions and copies: register access (R82, R381), slots, reservations
and capacity (R25, R121, R299, R362), Rename (R121), readers and the freeing of versions (R119, R122), counters
and tags (R148, R149), and the copies dropped at acquire points (R146, R232, R235, R242).
-/
namespace Sys2Proof.Machine

/-! ## Slots -/

def getBlock (s : State) (x : SlotNo) : Option Block :=
  if s.me.slot = x then some s.me else s.others.find? fun b => b.slot == x

/-- Changes the block in a slot; nothing where the slot holds none. -/
def modBlock (s : State) (x : SlotNo) (f : Block → Block) : State :=
  if s.me.slot = x then { s with me := f s.me }
  else { s with others := s.others.map fun b => if b.slot = x then f b else b }

/-- Puts a block into its slot, in place of whatever the slot held. -/
def putBlock (s : State) (b : Block) : State :=
  if s.me.slot = b.slot then { s with me := b }
  else if s.others.any fun o => o.slot == b.slot then
    { s with others := s.others.map fun o => if o.slot = b.slot then b else o }
  else { s with others := b :: s.others }

/-- Makes the block in slot `x` the one whose turn it is. -/
def switchTo (s : State) (x : SlotNo) : State :=
  if s.me.slot = x then s
  else
    let b := (s.others.find? fun b => b.slot == x).getD (Block.empty x)
    { s with me := b, others := s.me :: s.others.filter fun o => o.slot != x }

def allBlocks (s : State) : List Block := s.me :: s.others

/-- Whether a block is alive: bound to a group that has started and not ended. -/
def BlockSt.live (x : BlockSt) : Bool :=
  match x with | .free => false | .bound => false | .done => false | .killed => false | _ => true

/-- R84: the states in which a block issues instructions. -/
def BlockSt.issues (x : BlockSt) : Bool :=
  match x with | .running => true | .handler => true | .stopping => true | _ => false

/-! ## Registers (R73, R82, R381) -/

/-- Register field `r` of the block whose turn it is: s0 reads 0; in handler mode 48 to 63 name hs0 to hs15. -/
def getS (s : State) (r : BitVec 6) : Word :=
  if r = 0 then 0
  else if s.me.inHandler && decide (48 ≤ r.toNat) then s.me.hregs[(r.toNat - 48) % 16]'(by omega)
  else s.me.sregs[r.toNat]'(r.isLt)

/-- Writes register field `r`; a write to s0 is discarded. -/
def setS (s : State) (r : BitVec 6) (v : Word) : State :=
  if r = 0 then s
  else if s.me.inHandler && decide (48 ≤ r.toNat) then
    { s with me := { s.me with hregs := s.me.hregs.set ((r.toNat - 48) % 16) v (by omega) } }
  else { s with me := { s.me with sregs := s.me.sregs.set r.toNat v r.isLt } }

def setPc (s : State) (pc : Word) : State := { s with me := { s.me with pc := pc } }

/-- The instruction completes in the sequencer: the program counter moves on, a park ends (R84). -/
def Block.advance (b : Block) : Block :=
  { b with
    pc := b.pc + 8, wait := .none, renames := [], asks := b.asks.filter fun a => a.flight.isSome
    st := if b.st = .parked then (if b.inHandler then .handler else .running) else b.st }

def advance (s : State) : State := { s with me := s.me.advance }

/-- A block parks on the instruction at its program counter (R84). In handler mode and in STOPPING the state
keeps its name. -/
def Block.park (b : Block) (w : Wait) : Block :=
  { b with wait := w, st := if b.st = .running then .parked else b.st }

def shapeOf (b : Block) (h : BitVec 4) : ShapeRec := b.shapes[h.toNat]'(h.isLt)
def nameOf (b : Block) (t : BitVec 5) : Option TileName := b.names[t.toNat]'(t.isLt)
def setName (b : Block) (t : BitVec 5) (n : Option TileName) : Block :=
  { b with names := b.names.set t.toNat n t.isLt }
def setShape (b : Block) (h : BitVec 4) (r : ShapeRec) : Block :=
  { b with shapes := b.shapes.set h.toNat r h.isLt }
def streamOf (b : Block) (w : BitVec 3) : Stream := b.streams[w.toNat]'(w.isLt)
def setStream (b : Block) (w : BitVec 3) (x : Stream) : Block :=
  { b with streams := b.streams.set w.toNat x w.isLt }

/-- `Index(k)` of R97: the index of loop level k, 0 where the level is not occupied. -/
def loopIndex (b : Block) (k : Nat) : Word := match b.loops[k]? with | some e => e.index | none => 0

/-! ## Banks and capacity (R25, R356, R357, R362) -/

def countUp (s : State) (ids : List Nat) : Nat := (ids.filter (bankUp s)).length

/-- The banks of KIND 0 to 4 and 6 in a core (R356). -/
def coreBanks (kind : Nat) (core : BitVec 8) : List Nat :=
  let n := if kind = 2 ∨ kind = 4 then 8 else if kind = 6 then 2 else 16
  (List.range n).map (bankId kind core)

/-- CAPW, CAPA and CAPC for KIND 0, 1 and 2 (R362). -/
def capStore (s : State) (core : BitVec 8) (kind : Nat) : Nat := 16384 * countUp s (coreBanks kind core)

/-- The live lane groups of a core, in increasing number. -/
def liveLgs (s : State) (core : BitVec 8) : List Nat := (List.range 8).filter fun i => bankUp s (bankId 4 core i)

def capLg (s : State) (core : BitVec 8) : Nat := (liveLgs s core).length

def minList (l : List Nat) (d : Nat) : Nat := match l with | [] => d | x :: r => r.foldl min x

/-- The least, over the core's live lane groups, of 1,024 words per lane-register bank that is up (R362). -/
def caplNow (s : State) (core : BitVec 8) : Nat :=
  minList ((liveLgs s core).map fun i =>
    1024 * countUp s [bankId 3 core (2 * i), bankId 3 core (2 * i + 1)]) 0

/-- CAPL (R25, R362): what the lane groups give, and never more than it has been since reset. -/
def capL (s : State) (core : BitVec 8) : Nat := min (tabGet s.capls core.toNat 2048) (caplNow s core)

/-- Keeps what CAPL of a core has fallen to: no register rises before reset (R25, R362). -/
def lowerCapl (s : State) (core : BitVec 8) : State := { s with capls := tabSet s.capls core.toNat (capL s core) }

/-- CAPL2 (R362): 384 slices of a die less those that left. -/
def capL2 (s : State) (die : Bool) : Nat :=
  262144 * (384 - (s.banks.filter fun (id, b) =>
    decide (sliceId die 0 ≤ id) && decide (id < sliceId die 384) && b.st != .online && b.st != .watched).length)

/-! ## Geometry (R26, R110, R111, R113) -/

/-- Bits per element of a type (R26); LP has no single width. -/
def typeBits (t : BitVec 5) : Nat :=
  match t.toNat with
  | 1 => 8 | 2 => 8 | 3 => 16 | 4 => 16 | 5 => 32 | 6 => 32 | 7 => 64 | 8 => 16 | 9 => 16 | 10 => 32
  | 11 => 8 | 12 => 3 | 15 => 1 | _ => 0

/-- The stores that admit a type (R110): 1 W, 2 A, 3 C. -/
def admits (store : BitVec 2) (t : BitVec 5) : Bool :=
  let n := t.toNat
  if store = 0 then false
  else if n = 11 then store = 1
  else if n = 15 then store != 1
  else (1 ≤ n && n ≤ 6) || (8 ≤ n && n ≤ 10)

def roundUp (n k : Nat) : Nat := (n + k - 1) / k * k

def ShapeRec.count (g : ShapeRec) : Nat := g.rows.toNat * g.cols.toNat

/-- The row pitch in force (R111). -/
def ShapeRec.pitchBytes (g : ShapeRec) : Nat :=
  if g.pitch = 0 then roundUp (g.cols.toNat * (typeBits g.type / 8)) 4 else g.pitch.toNat

/-- The footprint of R113. -/
def ShapeRec.footprint (g : ShapeRec) : Nat :=
  if g.type = 15 then roundUp ((g.count + 7) / 8) 4 else g.rows.toNat * g.pitchBytes

/-- `Size` of R121. -/
def ShapeRec.size (g : ShapeRec) : Nat := roundUp g.footprint 64

/-- ROWS and COLS are each 1 to 4,096. -/
def ShapeRec.dimsOk (g : ShapeRec) : Bool :=
  decide (1 ≤ g.rows.toNat) && decide (g.rows.toNat ≤ 4096) &&
  decide (1 ≤ g.cols.toNat) && decide (g.cols.toNat ≤ 4096)

/-- CheckShape of R113. -/
def ShapeRec.ok (g : ShapeRec) : Bool :=
  g.dimsOk && admits g.store g.type &&
  (g.pitch == 0 || (g.type != 15 && decide (g.pitch.toNat % 4 = 0) &&
    decide (g.cols.toNat * (typeBits g.type / 8) ≤ g.pitch.toNat))) &&
  decide (g.footprint ≤ 65536)

/-! ## The band (R101, R234) -/

/-- BLK of a block (R101). -/
def Block.blk (b : Block) : BitVec 4 := b.bid.extractLsb' 0 4

/-- A block's place in its band (R101, R275). -/
def Block.peer (b : Block) : Peer := ⟨b.bndid.extractLsb' 32 4, b.blk⟩

/-- Whether two blocks belong to one band; a plain group is its own band. -/
def sameBand (a b : Block) : Bool :=
  a.gid.ctx == b.gid.ctx && a.gid.queue == b.gid.queue && a.gid.seq == b.gid.seq &&
    a.bndid.extractLsb' 0 32 == b.bndid.extractLsb' 0 32

/-! ## Versions, readers, reservations (R119, R121, R122) -/

def findVersion (b : Block) (id : Nat) : Option Version := b.versions.find? fun v => v.id == id

/-- The current version of a name. -/
def curId (b : Block) (t : BitVec 5) : Option Nat :=
  match nameOf b t with | some n => n.cur | none => none

def current (b : Block) (t : BitVec 5) : Option Version := (curId b t).bind (findVersion b)

def modVersion (b : Block) (id : Nat) (f : Version → Version) : Block :=
  { b with versions := b.versions.map fun v => if v.id = id then f v else v }

/-- The versions a flight holds as a reader (R122); an accumulation in place is no reader of its version (R158). -/
def Flight.reads (f : Flight) : List Nat :=
  [f.ta, f.tb, f.tc, if f.inPlace then none else f.old].filterMap fun o => o

/-- Whether the instruction still holds its sources as a reader. -/
def Flight.reading (f : Flight) : Bool := f.st != .performed

/-- Pending readers of version `v` of block `b` (R122): its instructions in flight and untaken messages. -/
def hasReaders (s : State) (b : Block) (v : Nat) : Bool :=
  (b.flights.any fun f => f.reading && f.reads.contains v) ||
  ((allBlocks s).any fun r => sameBand r b && r.channels.any fun c =>
    c.sender == b.peer && c.untaken.any fun m => m.version == v)

/-- Pinned by the cairn (R105). -/
def pinned (b : Block) (v : Nat) : Bool :=
  b.cairn.live.any fun l => match l.bound with | some n => n.cur == some v | none => false

/-- Kept as a taken-held message (R274). -/
def heldMessage (b : Block) (v : Nat) : Bool := b.channels.any fun c => c.held.any fun h => h.version == v

def isCurrent (b : Block) (v : Version) : Bool := curId b v.name == some v.id

/-- Frees the versions that R119 and R122 free, but for those that an instruction about to issue reads. -/
def reapBut (s : State) (b : Block) (rd : List Nat) : Block :=
  { b with versions := b.versions.filter fun v =>
      isCurrent b v || !v.done || hasReaders s b v.id || pinned b v.id || heldMessage b v.id || rd.contains v.id ||
      b.flights.any fun f => f.dst == some v.id || f.dst2 == some v.id }

/-- Frees the versions that R119 and R122 free. -/
def reap (s : State) (b : Block) : Block := reapBut s b []

/-- The block's reservation in a store (R123, R299). -/
def reservation (b : Block) (store : BitVec 2) : Nat :=
  let r := b.rsv.toNat
  if store = 1 then bitsOf r 37 19 else if store = 2 then bitsOf r 18 19 else bitsOf r 0 18

def sumSizes (l : List Version) : Nat := l.foldl (fun a v => a + v.geom.size) 0

/-- The bytes of a store that the block's versions take, with the tiles that its instructions have densified there (R215). -/
def usedBytes (b : Block) (store : BitVec 2) : Nat :=
  sumSizes (b.versions.filter fun v => v.geom.store == store) +
    (if store = 2 then b.flights.foldl (fun a f => a + f.dense) 0 else 0)

/-- `HeldBytes` and `HeldEntries` of R121, with the held messages of R274. -/
def heldVersions (b : Block) (t : BitVec 5) : List Version :=
  b.versions.filter fun v =>
    (isCurrent b v || pinned b v.id || heldMessage b v.id) && curId b t != some v.id

inductive RenameRes where
  | ok (id : Nat) (b : Block)
  /-- Issue stalls. -/
  | stall
  /-- The version can never fit: TYPE with this TVAL. -/
  | never (size : Nat)
deriving DecidableEq, Repr

/-- A new name binding by a tile memory write to an unbound name (R119). -/
def bindIfUnbound (b : Block) (t : BitVec 5) (h : BitVec 4) : Block :=
  match nameOf b t with
  | some _ => b
  | none => setName b t (some { record := h, cur := none })

/-! ## Logical banks of a tile store (R366) -/

/-- The physical bank behind a logical bank of a tile store; 2^32 − 1 for one that has left its store. -/
def physBank (s : State) (l : Nat) : Nat := tabGet s.bankMap l l

/-- The logical banks of a core's store that a physical bank of it serves: at most one. -/
def logicalBanks (s : State) (kind : Nat) (core : BitVec 8) (id : Nat) : List Nat :=
  (coreBanks kind core).filter fun l => physBank s l == id

/-- The logical banks in which Rename places nothing just now: those of the banks that are evacuated and of their targets
(R365). -/
def closedBanks (s : State) (core : BitVec 8) (store : BitVec 2) : List Nat :=
  s.evacuations.flatMap fun e =>
    logicalBanks s (store.toNat - 1) core e.bank ++ (match e.target with | some t => logicalBanks s (store.toNat - 1) core t | none => [])

/-- The lines of a version in a logical bank (log entry 18). -/
def versionLines (slot : SlotNo) (v : Version) (l : Nat) : Nat :=
  if v.notIn.contains l then 0 else Config.linesIn l slot.toNat v.id

/-- Whether a version has lines in one of these banks. -/
def liesAmong (slot : SlotNo) (v : Version) (ls : List Nat) : Bool := ls.any fun l => versionLines slot v l != 0

/-- Rename of R121 for a version of geometry `g`, which has passed R113; the name is bound. `rd` are the versions
the instruction itself reads (R122). The new contents are all zero (R130). A Rename that has come to wait for room allocates, whatever
happens to the current version meanwhile (R422). -/
def rename (s : State) (b : Block) (t : BitVec 5) (g : ShapeRec) (rd : List Nat) : RenameRes :=
  let inPlace : Option Version := (current b t).filter fun c =>
    !b.renames.contains t && c.done && !rd.contains c.id && !hasReaders s b c.id && !pinned b c.id && !heldMessage b c.id && c.geom.store == g.store &&
      decide (g.size ≤ c.geom.size) && !liesAmong b.slot c (closedBanks s (slotCore b.slot) g.store)
  match inPlace with
  | some c =>
    .ok c.id (modVersion b c.id fun v =>
      { v with geom := g, elems := List.replicate g.count 0, scales := [], poison := [], done := false })
  | none =>
    let held := heldVersions b t
    if reservation b g.store < g.size + sumSizes (held.filter fun v => v.geom.store == g.store) ∨ 64 ≤ held.length
    then .never g.size
    else if 64 ≤ b.versions.length ∨ 4 ≤ (b.versions.filter fun v => v.name == t).length ∨
        reservation b g.store < g.size + usedBytes b g.store
    then .stall
    else
      let v : Version := { id := b.nextId, name := t, geom := g, elems := List.replicate g.count 0,
                            notIn := closedBanks s (slotCore b.slot) g.store }
      let rec_ := match nameOf b t with | some n => n.record | none => 0
      let b1 := setName { b with versions := v :: b.versions, nextId := b.nextId + 1 } t (some ⟨rec_, some v.id⟩)
      .ok v.id (reapBut s b1 rd)

/-- The instruction at the program counter waits for room for a new version of `t` (R121). -/
def awaitRename (s : State) (t : BitVec 5) : State :=
  if s.me.renames.contains t then s else { s with me := { s.me with renames := t :: s.me.renames } }

/-! ## Counters and tags (R148, R149) -/

/-- An instruction of the block still outstanding in a counter. -/
def countOf (b : Block) (k : CounterKind) : Nat := (b.flights.filter fun f => f.kind == k).length

/-- The outstanding count of a tag. -/
def tagCount (b : Block) (g : BitVec 6) : Nat := (b.flights.filter fun f => f.tag == some g).length

/-- Takes a completed flight out: its counters and its tag fall (R148, R149). -/
def retireFlight (b : Block) (f : Flight) : Block :=
  let b1 := { b with flights := b.flights.filter fun x => x.id != f.id }
  match f.tag with
  | some g => if tagCount b1 g = 0 then { b1 with tags := b1.tags ||| BitVec.twoPow 64 g.toNat } else b1
  | none => b1

def modFlight (b : Block) (id : Nat) (f : Flight → Flight) : Block :=
  { b with flights := b.flights.map fun x => if x.id = id then f x else x }

def findFlight (b : Block) (id : Nat) : Option Flight := b.flights.find? fun x => x.id == id

/-! ## Dropping copies (R146, R232, R235) -/

def dropPrefetch (b : Block) : Block :=
  { b with streams := b.streams.map fun w => { w with prefetched := [] } }

/-- Whether a physical line is mapped from one of the `n` 64-byte lines of virtual space from `va` on, through
the context's tables as they stand (R242). -/
def lineMapped (s : State) (ctx : BitVec 6) (va n line : Nat) : Bool :=
  match n with
  | 0 => false
  | k + 1 =>
    (match walk s ctx va with
      | .leaf l _ => l.frame * 64 + va % (4096 * 512 ^ l.level) / 64 == line
      | .fault _ _ _ => false) || lineMapped s ctx (va + 64) k line

/-- Whether a line lies in a region that the context binds (R237, R245). -/
def boundLine (s : State) (ctx : BitVec 6) (line : Nat) : Bool :=
  (getCtx s ctx).bindings.any fun r => lineMapped s ctx r.base.toNat r.length line

/-- Whether an acquire point of a block may leave a copy of a line: the line lies in a bound region, and every write that the copy
missed was made while it did (R237; log entry 61). -/
def keptCopy (s : State) (x : SlotNo) (line : Nat) (unbound : Bool) : Bool :=
  !unbound && (getBlock s x).any fun b => boundLine s b.ctx line

/-- An acquire point of a block at a scope: the copies of R232 and the prefetched tiles of R146 are dropped, but for copies of
bound lines, about which the point publishes nothing (R237; log entry 61). -/
def acquireAt (s : State) (x : SlotNo) (sc : Scope) : State :=
  let s1 := modBlock s x dropPrefetch
  let s2 := if sc = .block then s1 else
    { s1 with cache := s1.cache.filter fun c => !(c.core == slotCore x) || keptCopy s x c.line c.unbound }
  if sc = .device ∨ sc = .system then
    { s2 with guests := s2.guests.filter fun g => !(g.die == slotDie x) || keptCopy s x g.line g.unbound } else s2

/-- A BIND takes force for a region: a copy of one of its lines that has missed a write missed one made while the line was not bound
(R237). -/
def bindLines (s : State) (ctx : BitVec 6) (r : Binding) : State :=
  let hit := fun line => lineMapped s ctx r.base.toNat r.length line
  { s with
    cache := s.cache.map fun c => if c.missed && hit c.line then { c with unbound := true } else c
    guests := s.guests.map fun g => if g.missed && hit g.line then { g with unbound := true } else g }

/-- Every copy that a block could read on its core and its die goes: what it reads there next is no older than what it has read or
synchronised with elsewhere (R231, R236, R244). -/
def dropCopies (s : State) (x : SlotNo) : State := dropGuests (dropCache s (slotCore x) fun _ => true) (slotDie x) fun _ => true

/-- The copies that a grant of the object at `va` drops (R242), with the prefetched tiles (R146). -/
def dropBound (s : State) (x : SlotNo) (ctx : BitVec 6) (va : Word) : State :=
  let regions := (getCtx s ctx).bindings.filter fun r => r.object == va
  let hit := fun line => regions.any fun r => lineMapped s ctx r.base.toNat r.length line
  dropGuests (dropCache (modBlock s x dropPrefetch) (slotCore x) hit) (slotDie x) hit

end Sys2Proof.Machine
end

