-- ==== Sys2Proof/Machine/Life.lean ====
section
/-!
DEFINITION. How blocks and groups end, stop and roll back: objects and their queues (R239 to R241), barriers
(R257, R260), the KILLED, STOPPED and DONE states (R84, R99, R270, R271), rollback (R106, R108, R390, R436),
and pre-emption requests (R84).
-/
namespace Sys2Proof.Machine

/-! ## Groups and launches -/

def findGroup (s : State) (id : GroupId) : Option Group := s.groups.find? fun g => g.id == id

def modGroup (s : State) (id : GroupId) (f : Group → Group) : State :=
  { s with groups := s.groups.map fun g => if g.id = id then f g else g }

/-- The groups of the band of `g`; a plain group is its own band (R234). -/
def bandOf (s : State) (g : Group) : List Group :=
  s.groups.filter fun x => x.id.ctx == g.id.ctx && x.id.queue == g.id.queue && x.id.seq == g.id.seq && x.band == g.band

/-- The blocks of a group that sit in slots. -/
def groupBlocks (s : State) (id : GroupId) : List Block :=
  (allBlocks s).filter fun b => b.gid == id && b.st != .free

def modLaunch (s : State) (q : BitVec 10) (seq : BitVec 54) (f : Launch → Launch) : State :=
  { s with launches := s.launches.map fun l => if l.q = q ∧ l.seq = seq then f l else l }

def LaunchStatus.code (x : LaunchStatus) : Nat :=
  match x with
  | .done => 0 | .capacity => 1 | .capacityExposed => 2 | .killed => 3 | .depfail => 4 | .badrec => 5
  | .baddep => 6 | .aborted => 7

/-- The first cause of a launch's failure is the one reported (R291). -/
def Launch.fail (l : Launch) (x : LaunchStatus) : Launch := { l with failed := some (l.failed.getD x) }

/-- Trap cause codes (R373). -/
def Cause.code (c : Cause) : Nat :=
  match c with
  | .illegal => 0x01 | .undefFuture => 0x02 | .reservedField => 0x03 | .type => 0x04 | .strideAlign => 0x05
  | .bound => 0x06 | .loopDepth => 0x07 | .qtimeout => 0x08 | .trap => 0x09 | .pageFault => 0x10
  | .protection => 0x11 | .migrateRetry => 0x12 | .ueData => 0x18 | .ueCode => 0x19 | .sdc => 0x1A
  | .overcap => 0x1C | .doubleFault => 0x20 | .doubleUndef => 0x21

/-! ## Synchronisation objects (R239 to R241) -/

/-- The object word (R239). -/
structure ObjWord where
  version : Nat
  mode : Nat
  rsv : Nat
  count : Nat
  owner : Nat
deriving DecidableEq, Repr

def objRead (s : State) (pa : Nat) : ObjWord :=
  let lo := homeNat s pa 8
  ⟨homeNat s (pa + 8) 8, bitsOf lo 62 2, bitsOf lo 48 14, bitsOf lo 32 16, bitsOf lo 0 32⟩

def objWrite (s : State) (who : Agent) (pa : Nat) (o : ObjWord) : State :=
  homeWrite s who pa (leBytes 8 (o.owner + o.count * 2 ^ 32 + o.rsv * 2 ^ 48 + o.mode * 2 ^ 62) ++
    leBytes 8 (o.version % 2 ^ 64))

def tokenFrom (used : List (BitVec 32)) (t : BitVec 32) (fuel : Nat) : BitVec 32 :=
  match fuel with
  | 0 => t
  | k + 1 => if t = 0 ∨ used.contains t then tokenFrom used (t + 1) k else t

/-- A new holder token (R240): nonzero and unlike every token in use; otherwise free (log entry 4). -/
def newToken (s : State) : BitVec 32 × State :=
  let used := (allBlocks s).map Block.token ++ (s.stopRecords.flatMap fun r => r.blocks.map Block.token) ++
    s.launches.map Launch.token
  (tokenFrom used (Config.holderToken s.free) (used.length + 2), { s with free := s.free + 1 })

/-- A trap waits for the block: it is taken at the block's next turn, before anything issues. -/
def Block.oweTrap (b : Block) (t : TrapInfo) : Block :=
  { b with
    due := some t, wait := .none
    st := if b.st = .parked then (if b.inHandler then .handler else .running) else b.st }

/-- A queued request ends in the TYPE trap of R241; a launch ends with DEPFAIL (R286). -/
def refuseWaiter (s : State) (w : ObjWait) : State :=
  let s1 := { s with objWaits := s.objWaits.filter fun x => x != w }
  match w.who with
  | .block x => modBlock s1 x fun b => b.oweTrap { cause := .type, tval := w.va }
  | .launch q seq => modLaunch s1 q seq fun l => l.fail .depfail

/-- A grant reaches its requester (R242): the ACQ completes, or the launch goes on to its next object. -/
def completeGrant (s : State) (w : ObjWait) : State :=
  let s1 := { s with objWaits := s.objWaits.filter fun x => x != w }
  match w.who with
  | .block x =>
    match getBlock s1 x with
    | some b => modBlock (dropBound s1 x b.ctx w.va) x fun b => { b.advance with holding := b.holding ++ [w.va] }
    | none => s1
  | .launch q seq => modLaunch s1 q seq fun l => { l with granted := l.granted ++ [(w.va, w.excl)] }

/-- The token under which a holder is granted an object (R240, R286). -/
def holderTokenOf (s : State) (who : Holder) : BitVec 32 :=
  match who with
  | .block x => match getBlock s x with | some b => b.token | none => 0
  | .launch q seq => match s.launches.find? fun l => l.q == q && l.seq == seq with | some l => l.token | none => 0

def Holder.agent (h : Holder) : Agent := match h with | .block x => .sync x | .launch _ _ => .device

/-- The context in which a holder names objects. -/
def holderCtx (s : State) (who : Holder) : BitVec 6 :=
  match who with
  | .block x => match getBlock s x with | some b => b.ctx | none => 0
  | .launch q seq => match s.launches.find? fun l => l.q == q && l.seq == seq with | some l => l.ctx | none => 0

/-- The grant of a queued request writes the object's word: D of its page is set first (R349). On a frozen page it waits
(R353). -/
def grantWrite (s : State) (w : ObjWait) (o : ObjWord) : State :=
  match objAccess s (holderCtx s w.who) w.va with
  | (.retry, s1) => s1
  | (_, s1) => completeGrant (objWrite s1 w.who.agent w.pa o) w

/-- Grants the head of an object's queue as far as R241 allows. -/
def grantHead (s : State) (pa : Nat) (fuel : Nat) : State :=
  match fuel with
  | 0 => s
  | k + 1 =>
    match s.objWaits.find? fun w => w.pa == pa with
    | none => s
    | some w =>
      let o := objRead s pa
      if o.rsv != 0 ∨ o.mode = 3 then grantHead (refuseWaiter s w) pa k
      else if o.mode = 0 ∧ w.excl then
        grantWrite s w { o with mode := 2, owner := (holderTokenOf s w.who).toNat }
      else if !w.excl ∧ (o.mode = 0 ∨ (o.mode = 1 ∧ o.count < 65535)) then
        let n := if o.mode = 0 then 1 else o.count + 1
        grantHead (grantWrite s w { o with mode := 1, count := n }) pa k
      else s

def grants (s : State) (pa : Nat) : State := grantHead s pa (s.objWaits.length + 1)

/-- Whether the home slice takes a REL under a token (R239, R241): no reserved bit is set in the word, and the object is SHARED by some
holder, or EXCLUSIVE with that owner. -/
def mayRelease (s : State) (pa : Nat) (token : BitVec 32) : Bool :=
  let o := objRead s pa
  o.rsv == 0 && ((o.mode == 1 && o.count != 0) || (o.mode == 2 && o.owner == token.toNat))

/-- The REL rows of R241 at the home slice, for a holder under `token`. A REL that they do not list changes nothing. -/
def releaseObject (s : State) (who : Agent) (pa : Nat) (token : BitVec 32) : State :=
  let o := objRead s pa
  if !mayRelease s pa token then s
  else if o.mode = 1 ∧ 1 < o.count then objWrite s who pa { o with count := o.count - 1 }
  else if o.mode = 1 then grants (objWrite s who pa { o with mode := 0, count := 0 }) pa
  else grants (objWrite s who pa { o with mode := 0, owner := 0, version := o.version + 1 }) pa


def refuseAll (s : State) (pa : Nat) (fuel : Nat) : State :=
  match fuel with
  | 0 => s
  | k + 1 =>
    match s.objWaits.find? fun w => w.pa == pa with
    | none => s
    | some w => refuseAll (refuseWaiter s w) pa k

/-- Who makes the device's own access to an object. -/
def HeldObj.agent (h : HeldObj) : Agent := match h.slot with | some x => .sync x | none => .device

/-- The device's own write to an object at `pa`: it breaks one that its killed holder holds exclusively (R241), and releases any
other. -/
def objAct (s : State) (h : HeldObj) (pa : Nat) : State :=
  let o := objRead s pa
  if h.broken ∧ o.mode = 2 then
    if o.owner = h.token.toNat then
      let s1 := objWrite s h.agent pa { o with mode := 3 }
      refuseAll (ctxEvent s1 h.ctx 0x03 (match h.slot with | some x => x.toNat | none => 0x1FF) h.va 0) pa (s1.objWaits.length + 1)
    else s
  else releaseObject s h.agent pa h.token

/-- The device's own access to an object: one that is answered RETRY waits for the end of the move (R353). -/
def objDo (s : State) (h : HeldObj) : State :=
  match objAccess s h.ctx h.va with
  | (.none, s0) => s0
  | (.retry, s0) => { s0 with heldObjs := s0.heldObjs ++ [h] }
  | (.ok pa, s0) => objAct s0 h pa

/-- The accesses that were answered RETRY walk again. -/
def replayObjects (s : State) : State := s.heldObjs.foldl objDo { s with heldObjs := [] }

/-- An object held by a block whose group is killed (R241). -/
def breakObject (s : State) (b : Block) (va : Word) : State :=
  objDo s { ctx := b.ctx, va := va, token := b.token, slot := some b.slot, broken := true }

/-- An object still held at EXIT is released with an event (R99, R317). -/
def releaseAtExit (s : State) (b : Block) (va : Word) : State :=
  ctxEvent (objDo s { ctx := b.ctx, va := va, token := b.token, slot := some b.slot, broken := false }) b.ctx 0x02 b.slot.toNat va 0

/-! ## Barriers (R257, R260) -/

def listMin (l : List (BitVec 32)) : BitVec 32 :=
  match l with
  | [] => 0
  | x :: r => r.foldl (fun a y => if y.toNat < a.toNat then y else a) x

/-- C and the mode after an arrival is performed or a member is removed (R260): the mode changes where no member remains or the
minimum of P rises. The 32-bit counts A and P wrap, and C is compared as a plain number (log entry 89). -/
def Barrier.settle (b : Barrier) : Barrier :=
  match b.members with
  | [] => { b with mode := .idle }
  | m => let c := listMin (m.map BarMember.p)
         if c.toNat ≤ b.c.toNat then b
         else { b with c := c, mode := if m.all fun x => x.a == c then .opened else .pending }

/-- Whether barrier numbers from 16 on: a band barrier. -/
def isBandBar (b : BitVec 5) : Bool := decide (16 ≤ b.toNat)

def BandBarrier.serves (x : BandBarrier) (g : Group) (b : BitVec 5) : Bool :=
  x.ctx == g.id.ctx && x.queue == g.id.queue && x.seq == g.id.seq && x.band == g.band && x.b == b

/-- Barrier `b` as a group sees it (R256). -/
def getBar (s : State) (g : Group) (b : BitVec 5) : Barrier :=
  if isBandBar b then
    match s.bandBars.find? fun x => x.serves g b with | some x => x.bar | none => {}
  else g.barriers[b.toNat % 16]'(by omega)

def setBar (s : State) (g : Group) (b : BitVec 5) (v : Barrier) : State :=
  if isBandBar b then
    let rest := s.bandBars.filter fun x => !x.serves g b
    { s with bandBars := ⟨g.id.ctx, g.id.queue, g.id.seq, g.band, b, v⟩ :: rest }
  else modGroup s g.id fun x => { x with barriers := x.barriers.set (b.toNat % 16) v (by omega) }

/-- The groups a barrier serves. -/
def barGroups (s : State) (g : Group) (b : BitVec 5) : List GroupId :=
  if isBandBar b then (bandOf s g).map Group.id else [g.id]

def barScope (b : BitVec 5) : Scope := if isBandBar b then .band else .group

/-- The slots whose parked BARW on `b` waits for at most `c` phases. -/
def barWaiters (s : State) (g : Group) (b : BitVec 5) (c : BitVec 32) : List SlotNo :=
  ((allBlocks s).filter fun x => (barGroups s g b).contains x.gid && x.st.live &&
    (match x.wait with | .barrier n k => n == b && decide (k.toNat ≤ c.toNat) | _ => false)).map Block.slot

/-- Writes a settled barrier; each parked BARW whose condition now holds completes as an acquire point (R262). -/
def barAdvance (s : State) (g : Group) (b : BitVec 5) (v : Barrier) : State :=
  (barWaiters s g b v.c).foldl (fun s x => modBlock (acquireAt s x (barScope b)) x Block.advance) (setBar s g b v)

/-- A block that reaches DONE leaves the members of a barrier (R260). -/
def barLeave (s : State) (g : Group) (blk : BitVec 4) (b : BitVec 5) : State :=
  let v := getBar s g b
  if (v.mode = .opened ∨ v.mode = .pending) ∧ (v.members.any fun m => m.bpos == g.bpos && m.blk == blk) then
    barAdvance s g b { v with members := v.members.filter fun m => !(m.bpos == g.bpos && m.blk == blk) }.settle
  else s

def allBars : List (BitVec 5) := (List.range 20).map (BitVec.ofNat 5)

/-- A band barrier one of whose member groups is killed (R260). -/
def barBreak (s : State) (g : Group) (b : BitVec 5) : State :=
  let v := getBar s g b
  if isBandBar b ∧ (v.mode = .opened ∨ v.mode = .pending) ∧ (v.members.any fun m => m.bpos == g.bpos) then
    let xs := (allBlocks s).filter fun x => (barGroups s g b).contains x.gid && x.st.live &&
      (match x.wait with | .barrier n _ => n == b | _ => false)
    let s1 := xs.foldl (fun s x => modBlock s x.slot fun y =>
      y.oweTrap { cause := .type, tval := BitVec.ofNat 64 (0x100 + b.toNat) }) (setBar s g b { v with mode := .broken })
    ctxEvent s1 g.id.ctx 0x04 0x1FF (g.band.setWidth 64) (b.setWidth 64)
  else s

/-! ## A block leaves its work -/

/-- Takes a block's requests out of every queue. -/
def leaveQueues (s : State) (x : SlotNo) : State :=
  { s with objWaits := s.objWaits.filter fun w => w.who != .block x
           ringWaits := s.ringWaits.filter fun w => w.2.1 != x }

/-- Breaks the links of a block (R251). -/
def dropLinks (s : State) (x : SlotNo) : State :=
  { s with links := s.links.filter fun l => l.slot != x, holds := s.holds.filter fun h => h.slot != x }

/-- Ends a block's claim on the codebook ring of its core (R141); its tables go. -/
def dropCbClaim (s : State) (x : SlotNo) : State :=
  modBlock { s with cbs := s.cbs.filter fun t => t.slot != x } x fun b => { b with cbClaim := none }

/-- Cancels the records and held accesses of a block's sequencer and of the flights that `p` names. -/
def cancelBlockFaults (s : State) (x : SlotNo) (seq : Bool) (p : Nat → Bool) : State :=
  cancelFaults s fun a =>
    match a with
    | .sequencer y => seq && y == x
    | .flight y i => y == x && p i
    | _ => false

/-! ## Lane engines (R15) -/

/-- The jobs of the lane engines, at most one to a core. -/
def laneJobs (s : State) : List LaneJob := s.lane.toList ++ s.lanes

/-- The job of a core's lane engine. -/
def laneOf (s : State) (core : BitVec 8) : Option LaneJob := (laneJobs s).find? fun j => slotCore j.slot == core

/-- Makes a core's job the one whose turn it is. -/
def bringLane (s : State) (core : BitVec 8) : State :=
  { s with lane := laneOf s core, lanes := (laneJobs s).filter fun j => slotCore j.slot != core }

/-- Stops the lane engines' work for the flights of a block that `p` names. -/
def dropLane (s : State) (x : SlotNo) (p : Nat → Bool) : State :=
  let keep := fun (j : LaneJob) => !(j.slot == x && p j.flight)
  { s with lane := s.lane.filter keep, lanes := s.lanes.filter keep }

/-- Frees the untaken messages of the channels into a block, with an event for each (R277). -/
def freeChannels (s : State) (b : Block) : State :=
  b.channels.foldl (fun s c =>
    if c.untaken = [] then s
    else ctxEvent s b.ctx 0x08 b.slot.toNat (c.slot.setWidth 64) (BitVec.ofNat 64 c.untaken.length)) s

/-- The blocks of a block's band free the superseded versions that no message to it holds any more (R119, R122, R277). -/
def sweepBand (s : State) (b : Block) : State :=
  ((allBlocks s).filter fun x => sameBand x b).foldl (fun s x => modBlock s x.slot fun y => reap s y) s

/-- A slot's bind record as its registers show it: the one in force, with what has been written to it since (R7, R266). -/
def shownRecord (s : State) (x : SlotNo) : BitVec 256 := tabGet s.slotEdits x.toNat (tabGet s.slots x.toNat 0)

/-- Puts a bind record into a slot. -/
def setRecord (s : State) (x : SlotNo) (r : BitVec 256) : State :=
  { s with slots := tabSet s.slots x.toNat r, slotEdits := s.slotEdits.filter fun p => p.1 != x.toNat }

/-- Clears V of a slot's bind record (R270). -/
def clearRecord (s : State) (x : SlotNo) : State := setRecord s x (shownRecord s x &&& BitVec.ofNat 256 (2 ^ 255 - 1))

/-- One block of a killed group (R84, R241, R277): in-flight work is abandoned. -/
def killBlock (s : State) (b : Block) : State :=
  let s1 := b.holding.foldl (fun s va => breakObject s b va) (leaveQueues s b.slot)
  let s2 := freeChannels (dropCbClaim (dropLinks s1 b.slot) b.slot) b
  let s3 := dropLane (cancelBlockFaults s2 b.slot true fun _ => true) b.slot fun _ => true
  let s4 := { s3 with arrivals := s3.arrivals.filter fun a => a.slot != b.slot }
  sweepBand (clearRecord (modBlock s4 b.slot fun x =>
    { x with st := .killed, flights := [], wait := .none, due := none, holding := [], channels := [],
             preempt := false, posted := [], asks := [], relBound := none, renames := [] }) b.slot) b

/-! ## Stopping a group -/

/-- Whether every block of a group is STOPPED or DONE, and whether some block is STOPPED. -/
def stopState (s : State) (g : Group) : Bool × Bool :=
  let bs := (groupBlocks s g.id).filter fun b => b.st != .done
  (bs.all fun b => b.st == .stopped, bs.any fun b => b.st == .stopped)

/-- The 16 bytes of a record's header (R318). -/
def RecordHeader.bytes (h : RecordHeader) : List Byte :=
  leBytes 16 (h.type.toNat + h.version.toNat * 2 ^ 16 + bit01 h.skip * 2 ^ 32 + h.rsv.toNat * 2 ^ 33 + h.length.toNat * 2 ^ 64 +
    h.fwver.toNat * 2 ^ 96)

/-- A record: its header, its body and zeros up to a multiple of 8 (R318). -/
def recordBytes (h : RecordHeader) (body : Nat → Byte) : List Byte :=
  h.bytes ++ (List.range h.length.toNat).map body ++ List.replicate (roundUp h.length.toNat 8 - h.length.toNat) 0

/-- The address of stop record `n` of a context: a line of its save area (R271; log entry 5). -/
def stopAddress (s : State) (c : BitVec 6) (n : Nat) : Word :=
  let x := getCtx s c
  x.savea + BitVec.ofNat 64 (64 * ((Config.stopRecordLine n).toNat % (x.savelen.toNat / 64)))

/-- The bytes of stop record `n`: a GROUP record (R271, R320). -/
def stopBytes (s : State) (n : Nat) : List Byte :=
  recordBytes { type := 0x10, length := (Config.stopLength n).setWidth 32, fwver := s.ctl.fwver } (Config.stopByte n)

/-- Writes the stop record of a group to its address and frees its slots (R271), and reports the stop to whoever is to place the group
again (R271, R272). -/
def stopGroup (s0 : State) (g : Group) : State :=
  let addr := stopAddress s0 g.id.ctx s0.free
  let s := homeWrite s0 .device addr.toNat (stopBytes s0 s0.free)
  let bs := groupBlocks s g.id
  let keep := bs.filter fun b => b.st == .stopped
  let mine := fun (a : Arrival) => keep.any fun b => b.slot == a.slot
  let s1 := { s with
    free := s.free + 1, stopRecords := ⟨addr, g.id, keep, s.arrivals.filter mine⟩ :: s.stopRecords
    arrivals := s.arrivals.filter fun a => !mine a }
  let s2 := bs.foldl (fun s b => clearRecord (putBlock s (Block.empty b.slot)) b.slot) s1
  let s3 := { s2 with notices := s2.notices ++
    (if s.ctl.fnmode.getLsbD 0 then [.stoppedToHost g.id] else if g.byHost then [.stoppedToRanger g.id] else []) }
  modGroup s3 g.id fun x => { x with st := .stopped, image := addr, byHost := false }

/-- A group all of whose blocks are DONE (R270). -/
def groupDone (s : State) (g : Group) : State :=
  let s1 := (groupBlocks s g.id).foldl (fun s b => clearRecord s b.slot) s
  let s2 := modGroup s1 g.id fun x => { x with st := .done }
  modLaunch s2 g.id.queue g.id.seq fun l => { l with gdone := l.gdone + 1 }

/-- Follows the rows of R270 that depend on all blocks, for every group of the band of `g`: a band's groups
stop together. -/
def settleBand (s : State) (g : Group) : State :=
  let done := (bandOf s g).foldl (fun s x =>
    if (x.st == .running || x.st == .stopping || x.st == .rolling) &&
        decide (x.finished.length = x.gsize.toNat + 1) then groupDone s x else s) s
  let live := (bandOf done g).filter fun x => x.st == .running || x.st == .stopping || x.st == .rolling
  if live.all fun x => (x.st == .stopping || x.st == .rolling) && (stopState done x).1 then
    live.foldl (fun s x => stopGroup s x) done
  else done

/-! ## Scalar stores on their way (R94, R238) -/

/-- Whether an access to the `n` bytes at `pa` waits: a line that it touches is held for another block (R250), or the route of its
peer page has changed (R405). -/
def lineHeld (s : State) (who : Option SlotNo) (pa n : Nat) : Bool :=
  (s.holds.any fun h => touchesLine pa n h.line && who != some h.slot) || pathMoved s pa

/-- A block writes bytes beyond the package (R399, R406), with the tile instruction that does. -/
def blockWrite (s : State) (b : Block) (pa : Nat) (bs : List Byte) (flight : Option Nat := none) : State :=
  extWrite s (.group b.gid b.slot flight) pa bs

/-- Whether a scalar access on its way is a store. -/
def Posted.isStore (p : Posted) : Bool := match p.op with | .store _ => true | _ => false

/-- A block has no work in flight but trapped instructions, which count as run to completion (R379), and arrivals that wait for
such an instruction (R261, R263). -/
def drained (s : State) (b : Block) : Bool :=
  b.posted.isEmpty && (b.flights.all fun f => match f.st with | .trapped _ => true | _ => false) &&
  !(s.requests.any fun r => match r.agent with | .group _ x _ => x == b.slot | _ => false) &&
  !(s.arrivals.any fun a => a.slot == b.slot && !(b.flights.any fun f => decide (f.id < a.mark)))

/-- A STOPPING block that has taken the request at a resumable point reaches STOPPED once its instructions in
flight have completed (R102). -/
def settleStop (s : State) (x : SlotNo) : State :=
  match getBlock s x with
  | none => s
  | some b =>
    if b.st = .stopping ∧ b.atPoint ∧ drained s b then
      let s1 := modBlock (dropCbClaim (dropLinks s x) x) x fun b => dropPrefetch { b with st := .stopped }
      match findGroup s1 b.gid with | some g => settleBand s1 g | none => s1
    else s

/-- A resumable point completes (R102). -/
def resumable (s : State) (x : SlotNo) : State :=
  match getBlock s x with
  | none => s
  | some b =>
    if b.st = .stopping then settleStop (modBlock s x fun b => { b with atPoint := true }) x else s

/-- A pre-emption request reaches a block (R84). -/
def preemptBlock (s : State) (x : SlotNo) : State :=
  match getBlock s x with
  | none => s
  | some b =>
    let b1 := { b with preempt := true, graceOver := false, atPoint := false }
    match b.st with
    | .running => putBlock s { b1 with st := .stopping }
    | .parked =>
      match b.wait with
      | .object _ _ | .barrier _ _ | .ring _ _ _ _ _ | .channel _ =>
        settleStop (putBlock (leaveQueues s x) { b1 with st := .stopping, wait := .none, atPoint := true }) x
      | _ => putBlock s { b1 with st := .stopping }
    | .handler => putBlock s b1
    | .rollback => putBlock s b1
    | .exiting => putBlock s b1
    | _ => s

/-- A stop request for the group or band of `g` (R271). -/
def requestStop (s : State) (g : Group) : State :=
  let gs := (bandOf s g).filter fun x => x.st == .running
  let s1 := gs.foldl (fun s x => modGroup s x.id fun y => { y with st := .stopping }) s
  let xs := (allBlocks s).filter fun b => (gs.map Group.id).contains b.gid && b.st.live
  settleBand (xs.foldl (fun s b => preemptBlock s b.slot) s1) g

/-! ## Killing a group -/

/-- Withdraws the armed records that `p` names of groups that have not started (R270): their slots are FREE. A
group left without records is gone, or STOPPED as before where it was to be resumed, with the tier that it held (R364). -/
def withdrawRecords (s : State) (p : Block → Bool) : State :=
  let xs := (allBlocks s).filter fun b => b.st == .bound && p b
  let s1 := xs.foldl (fun s b => clearRecord (putBlock s (Block.empty b.slot)) b.slot) s
  let armed := fun (g : Group) => (allBlocks s1).any fun b => b.st == .bound && b.gid == g.id
  { s1 with groups := (s1.groups.filter fun g => !(g.st == .placing && !g.started && !armed g)).map fun g =>
      if g.st == .placing && !armed g then { g with st := .stopped, tier := g.heldTier } else g }

/-- Withdraws the armed records of a launch. -/
def withdrawLaunch (s : State) (q : BitVec 10) (seq : BitVec 54) : State :=
  withdrawRecords s fun b => b.gid.queue == q && b.gid.seq == seq

/-- KILLED (R270): every block of the group is killed, band barriers become BROKEN, the stop record goes, and
event 0x05 carries the cause. The event's SLOT is the lowest slot of the group (log entry 14). -/
def killGroup (s0 : State) (id : GroupId) (cause : Nat) (status : LaunchStatus) : State :=
  match findGroup s0 id with
  | none => s0
  | some g =>
    let s := withdrawRecords s0 fun b => b.gid == id
    if g.st = .done ∨ g.st = .killed then s0
    else if !g.started then s
    else
      let bs := (groupBlocks s id).filter fun b => b.st != .done && b.st != .killed
      let slot := match (groupBlocks s id).map fun b => b.slot.toNat with | [] => 0x1FF | x :: r => r.foldl min x
      let s1 := modGroup (bs.foldl killBlock s) id fun x => { x with st := .killed }
      let held := (s1.stopRecords.filter fun r => r.id == id).flatMap fun r => r.blocks
      let s2 := held.foldl (fun s b => freeChannels (b.holding.foldl (fun s va => breakObject s b va) s) b) s1
      let s3 := { s2 with stopRecords := s2.stopRecords.filter fun r => r.id != id }
      let s4 := allBars.foldl (fun s b => barBreak s g b) s3
      let s5 := (groupBlocks s4 id).foldl (fun s b => clearRecord s b.slot) s4
      let s6 := ctxEvent s5 id.ctx 0x05 slot (BitVec.ofNat 64 cause) (id.grp.setWidth 64)
      let s7 := modLaunch s6 id.queue id.seq fun l => { l.fail status with gkilled := l.gkilled + 1 }
      settleBand (withdrawLaunch s7 id.queue id.seq) g

/-! ## Rollback (R106, R108, R390, R436) -/

/-- The codebook ring in a rollback (R141): the claim ends where the claiming TCB is abandoned, else the tables
that abandoned instructions loaded or were to consume are as before them. -/
def rollRing (s : State) (x : SlotNo) (mark : Nat) : State :=
  match getBlock s x with
  | none => s
  | some b =>
    if b.cbClaim.any fun i => decide (mark ≤ i) then dropCbClaim s x
    else
      { s with cbs := (s.cbs.filter fun t => t.slot != x || decide (t.tcb < mark)).map fun t =>
          if t.slot == x && t.by_.any (fun j => decide (mark ≤ j)) then { t with by_ := none } else t }

/-- Step 1 of R108: issue stops and the instructions issued after the cairn are abandoned, the loads on their way too. -/
def startRollback (s : State) (x : SlotNo) (cause : RollCause) : State :=
  match getBlock s x with
  | none => s
  | some b =>
    let after := fun i => decide (b.cairn.mark ≤ i)
    let s1 := cancelBlockFaults (leaveQueues (dropLinks s x) x) x true after
    let s2 := rollRing (dropLane s1 x after) x b.cairn.mark
    modBlock s2 x fun b =>
      { b with
        st := .rollback, roll := cause, wait := .none, due := none, inHandler := false, trapped := none
        flights := b.flights.filter fun f => !after f.id, posted := b.posted.filter Posted.isStore
        asks := b.asks.filter fun a => a.flight.any fun i => !after i
        fillWait := b.fillWait.filter fun w => !after w.1, atPoint := false, relBound := none, renames := [] }

/-- Whether R84 lists an error or an OVERCAP for a block's state. -/
def BlockSt.takesErrors (x : BlockSt) : Bool :=
  match x with | .running => true | .parked => true | .stopping => true | .handler => true | _ => false

/-- Whether an error of an instruction has an effect on its block: R84 lists the state, or the instruction was issued before
the cairn (R436). `flight` is the instruction, none for the sequencer. -/
def raisesError (b : Block) (flight : Option Nat) : Bool :=
  match flight with
  | some i => (b.flights.any fun f => f.id == i) && b.st.live && (b.st.takesErrors || decide (i < b.cairn.mark))
  | none => b.st.takesErrors

/-- An UE_DATA, UE_CODE or SDC of a block (R106, R390) at an output element; `flight` is the instruction that raises it, none for
the sequencer. One that an instruction issued before the cairn raises ends the group (R436). An event that R84 does not list for
the block's state changes nothing (R9). -/
def errorEvent (s : State) (x : SlotNo) (cause : Cause) (flight : Option Nat) (elem : Option Nat := none) : State :=
  match getBlock s x with
  | none => s
  | some b =>
    let before := match flight with | some i => decide (i < b.cairn.mark) | none => false
    if !raisesError b flight then s
    else if b.region = .clean ∧ !before ∧ b.rollbacks < 3 then
      let n := b.rollbacks + 1
      let s1 := startRollback (modBlock s x fun b => { b with rollbacks := n }) x (.error cause elem)
      ctxEvent s1 b.ctx 0x23 x.toNat (BitVec.ofNat 64 (cause.code + n * 256)) b.cairn.pc
    else killGroup s b.gid cause.code .killed

/-- A consumed poison raises UE_DATA and is logged (R388, R393). -/
def consumePoison (s : State) (x : SlotNo) (pa : Nat) (flight : Option Nat) (elem : Option Nat := none) : State :=
  match getBlock s x with
  | none => s
  | some b =>
    let s1 := errLog s { class_ := 0x03, detail := Cause.ueData.code, info := b.cairn.pc.toNat, addr := pa / 64 * 64,
                         slot := x.toNat, ctx := some b.ctx }
    errorEvent s1 x .ueData flight elem

/-- A live-in name's version as the cairn has it, for every name (step 4 of R108). -/
def restoredNames (b : Block) : Vector (Option TileName) 32 :=
  Vector.ofFn fun (i : Fin 32) =>
    match b.cairn.live.find? fun l => l.name.toNat == i.val with
    | some l => l.bound
    | none => none

/-- Steps 3 to 5 of R108. -/
def restoreCairn (s : State) (x : SlotNo) : State :=
  match getBlock s x with
  | none => s
  | some b =>
    let c := b.cairn
    let b1 : Block := { b with
      pc := c.pc, loops := c.loops, sregs := c.sregs, shapes := c.shapes, streams := c.streams,
      tags := c.tags ||| c.pendingTags, names := restoredNames b,
      channels := b.channels.map fun ch =>
        { ch with readPos := match c.readPos.find? fun p => p.1 == ch.sender with | some p => p.2 | none => 0 } }
    let s1 := putBlock s b1
    let keep := fun (v : Version) =>
      isCurrent b1 v || pinned b1 v.id || heldMessage b1 v.id || hasReaders s1 b1 v.id
    putBlock s1 (dropPrefetch { b1 with versions := b1.versions.filter keep })

/-- OVERCAP at one block (R84): it rolls back; a rollback that is under way goes on with this cause (log entry 35). -/
def overcapBlock (s : State) (b : Block) : State :=
  if b.st = .rollback then modBlock s b.slot fun y => { y with roll := .overcap } else startRollback s b.slot .overcap

/-- OVERCAP for the band of `g` (R363, R270): clean blocks roll back, an exposed one ends its group. An EXITING block, for which R84
lists no such event, drains. -/
def overcapBand (s : State) (g : Group) : State :=
  (bandOf s g).foldl (fun s x =>
    if x.st = .running ∨ x.st = .stopping then
      let bs := (groupBlocks s x.id).filter fun b => b.st.takesErrors || b.st == .rollback
      if bs.any fun b => b.region != .clean then
        killGroup s x.id LaunchStatus.capacityExposed.code .capacityExposed
      else
        let s1 := modGroup s x.id fun y => { y with st := .rolling, overcap := true }
        bs.foldl overcapBlock s1
    else s) s

/-- A block becomes exposed (R106). -/
def expose (s : State) : State :=
  if s.me.region = .clean then { s with me := { s.me with region := .exposed } } else s

end Sys2Proof.Machine
end

