-- ==== Sys2Proof/Machine/Ask.lean ====
section
/-!
DEFINITION. What a block takes from beyond the package (R399, R404, R406): it asks, and goes on once the answer has come.
-/
namespace Sys2Proof.Machine

/-- The request that a block has made for some bytes. -/
def findAsk (b : Block) (flight : Option Nat) (p : Nat × Nat) : Option Ask :=
  b.asks.find? fun a => a.flight == flight && a.pa == p.1 && a.n == p.2

/-- Whether the answer for some bytes has come. -/
def answered (b : Block) (flight : Option Nat) (p : Nat × Nat) : Bool := (findAsk b flight p).any Ask.done

/-- The block whose turn it is makes a request, once for the same bytes. -/
def askOnce (s : State) (flight : Option Nat) (pa : Nat) (op : ExtOp) : State :=
  if (findAsk s.me flight (pa, op.size)).isSome then s
  else
    let s1 := extRequest s (.group s.me.gid s.me.slot flight) pa op
    { s1 with me := { s1.me with asks := s1.me.asks ++ [{ tag := s.nextReq, flight := flight, pa := pa, n := op.size }] } }

/-- What a peer has answered stands in its memory as the device sees it. -/
def useAnswer (s : State) (flight : Option Nat) (p : Nat × Nat) : State :=
  match findAsk s.me flight p with
  | some a => { s with mem := memStore s.mem a.pa a.data }
  | none => s

/-- Forgets the answers to an instruction. -/
def dropAsks (s : State) (flight : Option Nat) : State :=
  { s with me := { s.me with asks := s.me.asks.filter fun a => a.flight != flight } }

/-- Reads pieces beyond the package: none, with the requests made, while an answer is to come. -/
def readFar (s : State) (flight : Option Nat) (ps : List (Nat × Nat)) : Bool × State :=
  if ps.all (answered s.me flight) then (true, ps.foldl (fun s p => useAnswer s flight p) s)
  else (false, ps.foldl (fun s p => askOnce s flight p.1 (.read p.2)) s)

end Sys2Proof.Machine
end

