-- ==== Sys2Proof/Machine/Ops.lean ====
section
/-!
DEFINITION. What the meanings of sequencer instructions share: taking a trap and returning from one (R376 to
R387), servicer faults of the sequencer (R344 to R346), parks and stalls (R84, R102), scalar memory accesses
(R93, R94, R135), and the points of R235.
-/
namespace Sys2Proof.Machine

/-- The word of a sequencer instruction (TINSN, R380). -/
def wordOf (i : Instr) : Word := (encodeSeq i).getD 0

def getKernel (s : State) (h : BitVec 32) : Option Kernel := s.kernels.find? fun k => k.handle == h

def modKernel (s : State) (h : BitVec 32) (f : Kernel → Kernel) : State :=
  { s with kernels := s.kernels.map fun k => if k.handle = h then f k else k }

/-! ## Code lines (R389, R393) -/

/-- Where a section of a kernel's arena copy begins. -/
def sectionBase (k : Kernel) (handler : Bool) : Word := if handler then k.handlerBase else k.tileBase

/-- The address of the arena line that holds a word of a kernel's section (R393). -/
def arenaLine (s : State) (h : BitVec 32) (handler : Bool) (off : Nat) : Nat :=
  match getKernel s h with | some k => ((sectionBase k handler).toNat + off) / 64 * 64 | none => 0

/-- A line that leaves the instruction cache with an error that was never executed is logged as latent (R389). -/
def logLatent (s : State) (l : IcacheLine) : State :=
  if l.bad.isSome then
    errLog s { class_ := 0x04, info := l.kernel.toNat, addr := arenaLine s l.kernel l.handler (64 * l.line) }
  else s

/-- Whether a line of the block's section holds a bad word that it leaves behind unexecuted when it transfers to `t`, or ends (R389). -/
def passedBy (s : State) (t : Option Word) (l : IcacheLine) : Bool :=
  match getKernel s s.me.kernel, l.bad with
  | some k, some o =>
    let base := sectionBase k s.me.inHandler
    l.core == slotCore s.me.slot && l.kernel == s.me.kernel && l.handler == s.me.inHandler &&
      decide ((s.me.pc - base).toNat < o) && t.all fun t => (t - base).toNat != o
  | _, _ => false

/-- The lines prefetched past a taken branch or an EXIT whose bad word was never executed are dropped and logged; a later use fetches
them again (R389). -/
def leaveLines (s : State) (t : Option Word) : State :=
  (s.icache.filter fun l => passedBy s t l).foldl logLatent { s with icache := s.icache.filter fun l => !passedBy s t l }

/-! ## Taking a trap -/

/-- TCAUSE (R380). -/
def tcauseOf (t : TrapInfo) (issued : Bool) : Word :=
  BitVec.ofNat 64 (t.cause.code + (match t.elem with | some e => 0x100 + e.lg * 0x200 | none => 0) +
    bit01 issued * 0x1000)

/-- TCOORD (R380): the element, or what the cause supplies. -/
def tcoordOf (t : TrapInfo) : Word :=
  match t.elem with
  | some e => BitVec.ofNat 64 (e.col + e.row * 2 ^ 16 + e.tile.toNat * 2 ^ 32)
  | none => t.tcoord

/-- The trap record (R380). -/
def trapRecOf (t : TrapInfo) (issued : Bool) (tpc tseq insn : Word) : TrapRec :=
  { tcause := tcauseOf t issued, tpc := tpc, tval := t.tval, tinsn := insn, tcoord := tcoordOf t, tseq := tseq,
    elg := if t.elem.isSome then t.elg.map (BitVec.ofNat 64) else Vector.replicate 8 0 }

/-- DOUBLE_UNDEF for the decode causes, else DOUBLE_FAULT (R387). -/
def doubleCause (c : Cause) : Cause :=
  match c with | .illegal => .doubleUndef | .reservedField => .doubleUndef | .undefFuture => .doubleUndef
               | .doubleUndef => .doubleUndef | _ => .doubleFault

/-- A double trap ends the group (R387, R394). -/
def doubleTrap (s : State) (c : Cause) : State :=
  let d := doubleCause c
  let s1 := ctxEvent s s.me.ctx (if d = .doubleUndef then 0x22 else 0x21) s.me.slot.toNat s.me.pc s.me.savedPc
  killGroup s1 s.me.gid d.code .killed

/-- Handler entry of the block whose turn it is (R381): the trap record is written, the loop stack and TPC are
saved, the block enters HANDLER and the program counter becomes offset 0 of the handler section. A kernel without
one uses the default handler (R383). A trap of the handler itself is a double trap (R387). -/
def enterTrap (s : State) (t : TrapInfo) (insn : Word) (flight : Option Nat) : State :=
  if s.me.inHandler then doubleTrap s t.cause
  else
    let (ev, s1) := nextEvent s
    let r := trapRecOf t flight.isSome s.me.pc ev insn
    let s2 := dropLinks (leaveQueues { s1 with me := { s1.me with trapRec := r } } s.me.slot) s.me.slot
    match getKernel s s.me.kernel with
    | some k =>
      if k.handler = [] then
        killGroup (ctxEvent s2 s.me.ctx 0x20 s.me.slot.toNat r.tcause r.tpc) s.me.gid t.cause.code .killed
      else
        { s2 with me := { s2.me with
            savedPc := s.me.pc, savedLoops := s.me.loops, inHandler := true, trapped := flight, st := .handler,
            pc := k.handlerBase, wait := .none, due := none, relBound := none, renames := []
            asks := s2.me.asks.filter fun a => a.flight.isSome } }
    | none => killGroup (ctxEvent s2 s.me.ctx 0x20 s.me.slot.toNat r.tcause r.tpc) s.me.gid t.cause.code .killed

/-- A sequencer trap (R376). -/
def seqTrap (s : State) (insn : Word) (t : TrapInfo) : State := enterTrap s t insn none

def trapType (s : State) (insn : Word) (tval : Nat) : State :=
  seqTrap s insn { cause := .type, tval := BitVec.ofNat 64 tval }

/-- The first issued instruction, in program order, whose trap is held (R377). -/
def heldTrap (b : Block) : Option (Flight × TrapInfo) :=
  b.flights.findSome? fun f => match f.st with | .trapped t => some (f, t) | _ => none

/-- Whether the emulator holds a block (R311). -/
def Wait.emulated (w : Wait) : Bool := match w with | .emulator _ => true | _ => false

/-- Whether the block can take an issued trap now (R377, R379); not while the emulator holds it. -/
def canTakeTrap (b : Block) : Bool :=
  !b.inHandler && !b.wait.emulated && (b.st == .running || b.st == .parked || (b.st == .stopping && !b.atPoint))

/-- The trap of an instruction of the handler, which makes a double trap (R387); not while the emulator holds the block. -/
def handlerTrap (b : Block) : Option TrapInfo :=
  if b.wait.emulated then none
  else b.flights.findSome? fun f => match f.st with | .trapped t => if f.inHandler then some t else none | _ => none

/-- Takes the next held trap of the block whose turn it is. -/
def takeTrap (s : State) : State :=
  match handlerTrap s.me with
  | some t => doubleTrap s t.cause
  | none =>
    match heldTrap s.me with
    | some (f, t) => if canTakeTrap s.me then enterTrap s t f.insn (some f.id) else s
    | none => s

/-! ## Completing an instruction in flight -/

/-- Whether the AQ bit of a tile memory instruction is set. -/
def Instr.aqBit (i : Instr) : Bool :=
  match i with
  | .tld f | .tst f | .tldff f | .topt f => f.aq
  | .tgth f | .tgthFull f | .tsct f => f.aq
  | .tamoAdd f | .tamoMin f | .tamoMax f | .tamoAnd f | .tamoOr f | .tamoXor f | .tamoSwap f => f.aq
  | .tglk f | .tscc f => f.aq
  | _ => false

/-- The SCOPE field of a tile memory instruction. -/
def Instr.scopeOf (i : Instr) : Scope :=
  match i with
  | .tld f | .tst f | .tldff f | .topt f => f.scope
  | .tgth f | .tgthFull f | .tsct f => f.scope
  | .tamoAdd f | .tamoMin f | .tamoMax f | .tamoAnd f | .tamoOr f | .tamoXor f | .tamoSwap f => f.scope
  | .tglk f | .tscc f => f.scope
  | _ => .block

def setFlight (s : State) (f : Flight) : State := { s with me := modFlight s.me f.id fun _ => f }

def setVersion (s : State) (id : Option Nat) (f : Version → Version) : State :=
  match id with
  | some i => { s with me := modVersion s.me i f }
  | none => s

/-- The instruction has performed its last element; an AQ bit makes it an acquire point (R129, R235).
Its translations are no longer held (R340). -/
def flightDone (s : State) (f : Flight) : State :=
  let s1 := cancelFaults (setFlight (dropAsks s (some f.id)) { f with st := .performed, started := true, pins := [], early := [] }) fun a => a == .flight s.me.slot f.id
  if Instr.aqBit f.ins then acquireAt s1 s.me.slot (Instr.scopeOf f.ins) else s1

/-- A later HSET of FILL, or a later instruction that has set it, is the one that counts (R131): those of `p` only end the wait. -/
def supersede (l : List (Nat × BitVec 4 × Bool)) (h : BitVec 4) (p : Nat → Bool) : List (Nat × BitVec 4 × Bool) :=
  l.map fun w => if w.2.1 = h ∧ p w.1 then (w.1, h, false) else w

/-- FILL of a record is set by the latest instruction that names it (R131). -/
def setFill (s : State) (f : Flight) (n : Nat) : State :=
  let h := f.record.extractLsb' 0 4
  let rest := s.me.fillWait.filter fun w => w.1 != f.id
  if s.me.fillWait.contains (f.id, h, true) then
    let b := setShape s.me h { shapeOf s.me h with fill := BitVec.ofNat 32 n }
    { s with me := { b with fillWait := supersede rest h fun i => decide (i < f.id) } }
  else { s with me := { s.me with fillWait := rest } }

/-- Tables a CB3 load consumes leave the ring (R139). -/
def consumeTables (s : State) (f : Flight) : State :=
  { s with cbs := s.cbs.filter fun t => !(t.slot == s.me.slot && t.by_ == some f.id) }

/-- The outstanding elements of a windowed gather: its companion's mask less those ERET.ELEM marks (R137). -/
def outstanding (s : State) (f : Flight) : List Nat :=
  let m := f.tc.bind (findVersion s.me)
  (List.range f.shape.count).filter fun e =>
    !f.skips.contains e && (match m with | some v => (v.elems.getD e 0).getLsbD 0 | none => true)

/-- ERET.SKIP on a windowed gather (R130, R133, R137): its companion mask is the progress record, so the elements still
outstanding stay outstanding and hold all-zero bits, and the others keep their old values. Log entry 25. -/
def skipWindow (s : State) (f : Flight) : State :=
  let out := outstanding s f
  let old := match f.old.bind (findVersion s.me) with | some v => v.elems | none => []
  let all := List.range f.shape.count
  let value := fun (e : Nat) => if out.contains e || f.skips.contains e then (0 : Half) else old.getD e 0
  let mask := fun (e : Nat) => if out.contains e then (1 : Half) else 0
  let s1 := setVersion s f.dst fun v => { v with elems := all.map value }
  let s2 := setVersion s1 f.dst2 fun v => { v with elems := all.map mask }
  setFill s2 f (f.shape.count - out.length)

/-- Tables of a TCB that ERET.SKIP completes: what they hold is free (log entry 25). -/
def skipTables (s : State) (f : Flight) : State :=
  { s with
    free := s.free + 1
    cbs := s.cbs.map fun t =>
      if t.slot = s.me.slot ∧ t.tcb = f.id ∧ t.data = none
      then { t with data := some (Vector.ofFn fun j => Config.skippedTable s.free j.val) } else t }

/-- What ERET.SKIP leaves of a trapped instruction: it completes with its remaining elements unperformed (R130, R137,
R385). FILL of a TLDFF that had not found where it stops is free (log entry 25). -/
def skipEffect (s : State) (f : Flight) : State :=
  match f.ins with
  | .tgth _ => skipWindow s f
  | .tgthFull _ => setFill s f f.shape.count
  | .tglk _ => setFill s f f.shape.count
  | .tldff _ =>
    match f.first with
    | some n => consumeTables (setFill s f n) f
    | none => consumeTables (setFill { s with free := s.free + 1 } f (Config.skippedFill s.free).toNat) f
  | .tcb _ => skipTables s f
  | _ => consumeTables s f

/-! ## Returning from a trap -/

/-- The three forms of ERET (R385). -/
inductive EretForm where
  | plain | skip | elem
deriving DecidableEq, Repr

/-- The trapped instruction goes on as the form says (R130, R137, R385). -/
def resumeFlight (f : Flight) (form : EretForm) : Flight :=
  match form, f.st with
  | .plain, _ => { f with st := .waiting, structs := [], trail := none }
  | .skip, _ => { f with st := .performed, started := true }
  | .elem, .trapped t =>
    { f with st := .waiting, structs := [], trail := none, skips := match t.elem with | some e => e.elem :: f.skips | none => f.skips }
  | .elem, _ => { f with st := .waiting, structs := [], trail := none }

/-- A skipped instruction that accumulates in place leaves all-zero bits (R130, R222). -/
def zeroInPlace (b : Block) (id : Nat) : Block :=
  match findFlight b id with
  | some f =>
    match f.dst with
    | some v => if f.inPlace then modVersion b v fun x => { x with elems := x.elems.map fun _ => 0 } else b
    | none => b
  | none => b

/-- Leaves handler mode (R84, R385). A pre-emption request that was held takes effect; an expired grace period
rolls a clean block back at once. -/
def leaveHandler (s : State) : State :=
  let b := { s.me with
    inHandler := false, trapped := none, wait := .none
    st := if s.me.preempt then .stopping else .running, atPoint := false }
  let s1 := { s with me := b }
  if b.preempt && b.graceOver && b.region == .clean then startRollback s1 b.slot .preempt else takeTrap s1

/-- The trapped instruction completes as ERET.SKIP says. -/
def skipFlight (s : State) (id : Nat) : State :=
  match findFlight s.me id with
  | some f => flightDone (skipEffect { s with me := zeroInPlace s.me id } f) f
  | none => s

/-! ## Parks -/

/-- Whether a park is a resumable point (R102). -/
def Wait.isPoint (w : Wait) : Bool :=
  match w with | .object _ _ => true | .barrier _ _ => true | .ring _ _ _ _ _ => true | .channel _ => true | _ => false

/-- The instruction at the program counter parks. In STOPPING a resumable park takes the request (R84): the
block leaves the queues and waits for its instructions in flight. -/
def parkOn (s : State) (w : Wait) : State :=
  if s.me.st = .stopping ∧ w.isPoint ∧ !s.me.inHandler then
    resumable (leaveQueues { s with me := { s.me with wait := .none } } s.me.slot) s.me.slot
  else { s with me := s.me.park w }

/-! ## Servicer faults of the sequencer (R344, R346) -/

/-- A failed translation of a sequencer access: a record is raised and the block waits with it. -/
def seqFault (s : State) (va : Nat) (kind : AccKind) (reason level entry : Nat) : State :=
  let (tag, s1) := raiseFault s (.sequencer s.me.slot) s.me.ctx va kind reason level entry
  { s1 with me := { s1.me with wait := .fault tag } }

/-- What a translated sequencer access gives: its physical address, or the state in which it stops. -/
inductive SeqX where
  | ok (pa : Nat) (cp : BitVec 2) (s : State)
  | stop (s : State)

/-- Translates a sequencer access that lies on one page. -/
def seqAddr (s : State) (va : Word) (kind : AccKind) : SeqX :=
  match translate s (some (slotCore s.me.slot)) s.me.ctx va.toNat kind .scalar with
  | (.ok t, s1) => .ok (t.pa va.toNat) t.cp s1
  | (.fault r l e, s1) => .stop (seqFault s1 va.toNat kind r l e)
  | (.hold, s1) => .stop (holdOn s1 (.sequencer s.me.slot) s.me.ctx va.toNat kind)

/-! ## Order points (R235, R238) -/

/-- Whether an instruction reads or writes memory in the tile memory stream (R125, R164, R219). -/
def Flight.inStream (f : Flight) : Bool :=
  f.kind != .none ||
  match f.ins with | .mmas _ => true | .mmss _ => true | .tpat _ => true | .mmv _ => f.tb.isNone | _ => false

/-- Tile memory instructions of the block that have not been performed. -/
def Flight.memPending (f : Flight) : Bool := f.inStream && f.st != .performed

/-- Whether the RL bit of a tile memory instruction is set. -/
def Instr.rlBit (i : Instr) : Bool :=
  match i with
  | .tld f | .tst f | .tldff f | .topt f => f.rl
  | .tgth f | .tgthFull f | .tsct f => f.rl
  | .tamoAdd f | .tamoMin f | .tamoMax f | .tamoAnd f | .tamoOr f | .tamoXor f | .tamoSwap f => f.rl
  | .tglk f | .tscc f => f.rl
  | _ => false

/-- An acquire point still to be performed holds later scalar accesses back (R235). -/
def acquirePending (b : Block) : Bool := b.flights.any fun f => f.memPending && Instr.aqBit f.ins

/-- Whether an access of the block on its way goes to one of `n` bytes. -/
def postedMeets (b : Block) (pa n : Nat) : Bool := b.posted.any fun p => decide (p.pa < pa + n) && decide (pa < p.pa + p.n)

/-- Whether a scalar access waits: for an acquire point, or for the accesses of its stream that are on their way (R94). -/
def streamBusy (b : Block) : Bool := acquirePending b || !b.posted.isEmpty

end Sys2Proof.Machine
end

