-- ==== Sys2Proof/Machine/Operands.lean ====
section
/-!
DEFINITION. The operand forms of tile memory instructions: element addresses (R114, R115, R132), plane tables and
the fused layout (R116, R117), conversions (R38, R47, R48, R127), the issue checks of R113 to R118, R127, R128
and R132, the dealing of elements to lane groups (R124), and the bytes an element touches (R126, R138).
-/
namespace Sys2Proof.Machine

/-! ## Numbers in a tile (R26, R38) -/

/-- What a numeric type code stands for. -/
inductive Num where
  | int (signed : Bool) (bits : Nat)
  | fp (f : FpFmt)
deriving DecidableEq, Repr

def numOf (t : BitVec 5) : Option Num :=
  match t.toNat with
  | 1 => some (.int true 8) | 2 => some (.int false 8) | 3 => some (.int true 16) | 4 => some (.int false 16)
  | 5 => some (.int true 32) | 6 => some (.int false 32)
  | 8 => some (.fp fp16) | 9 => some (.fp bf16) | 10 => some (.fp fp32)
  | _ => none

/-- What a memory type code stands for: I64 is a memory type and no tile type (R26). -/
def memNum (t : BitVec 5) : Option Num := if t = 7 then some (.int true 64) else numOf t

def Num.bits (n : Num) : Nat := match n with | .int _ b => b | .fp f => f.width

/-- One conversion of R38, with the lane flags of its table. -/
def convNum (a b : Num) (fzi fzo : Bool) (x : Nat) : FRes :=
  match a, b with
  | .int sa na, .int sb nb =>
    let v := readInt sa na x
    let c := clampInt (intMin sb nb) (intMax sb nb) v
    ⟨wrapInt nb c, if c = v then 0 else flagSAT⟩
  | .int sa na, .fp f => fpOfInt f fzo (readInt sa na x)
  | .fp f, .int sb nb =>
    let r := fpToInt sb nb (fpRead f fzi x)
    ⟨wrapInt nb r.1, r.2⟩
  | .fp f, .fp g =>
    let v := fpRead f fzi x
    let r := fpPut g fzo v
    ⟨r.bits, r.flags ||| v.nv⟩

/-- A conversion in the memory pipe: a type to itself is copied bit for bit (R127); subnormals are kept. -/
def convPat (src dst : BitVec 5) (x : Nat) : Nat :=
  if src = dst then x % 2 ^ typeBits src
  else match memNum src, memNum dst with
    | some a, some b => (convNum a b false false x).bits
    | _, _ => 0

/-- The exact value of a tile pattern of an FP type. -/
def fpOfTile (t : BitVec 5) (x : Nat) : Fp :=
  match numOf t with | some (.fp f) => fpRead f false x | _ => .zero false

/-- A value rounded to an FP tile type (R47). -/
def fpToTile (t : BitVec 5) (v : Fp) : Nat :=
  match numOf t with | some (.fp f) => (fpPut f false v).bits | _ => 0

/-- The allowed pairings of R127. -/
def pairOk (mt tt : BitVec 5) (store : Bool) : Bool :=
  if mt = tt then (numOf mt).isSome || mt == 15 || mt == 11
  else if (memNum mt).isSome && (numOf tt).isSome then true
  else if mt = 12 then tt == 9 && !store
  else mt == 16 && (tt == 8 || tt == 9 || tt == 10)

/-! ## Memory formats (R111, R114 to R117) -/

def ShapeRec.memType (g : ShapeRec) : BitVec 5 :=
  if g.fmt.extractLsb' 0 5 = 0 then g.type else g.fmt.extractLsb' 0 5
def ShapeRec.pcb (g : ShapeRec) : Nat := (g.fmt.extractLsb' 5 3).toNat
def ShapeRec.lay (g : ShapeRec) : Bool := g.fmt.getLsbD 8

/-- CB3, MASK and LP are packed (R111). -/
def isPacked (t : BitVec 5) : Bool := t == 12 || t == 15 || t == 16

/-- The width of plane k (R43). -/
def planeBits (k : Nat) : Nat := if k = 0 then 4 else if k = 1 ∨ k = 2 then 2 else if k = 3 then 8 else 16

/-- The pattern width of `n` leading planes (R43). -/
def planesWidth (n : Nat) : Nat := match n with | 1 => 4 | 2 => 6 | 3 => 8 | 4 => 16 | 5 => 32 | _ => 4

/-- How the elements of a tile access lie in memory. `idxSign` is the width of the indices where their type is signed, else 0;
`tables` are the codebook tables that have arrived, `early` the plane fields read ahead (R49). -/
structure Layout where
  g : ShapeRec
  a : Nat
  mt : BitVec 5
  planes : List Plane := []
  pc : Nat := 0
  guarded : Bool := false
  idx : Option (List Half) := none
  idxSign : Nat := 0
  tables : List (Option (Vector (BitVec 16) 8)) := []
  early : List EarlyField := []
deriving DecidableEq, Repr

def elemRow (g : ShapeRec) (e : Nat) : Nat := e / g.cols.toNat
def elemCol (g : ShapeRec) (e : Nat) : Nat := e % g.cols.toNat

/-- `r × MROW + c × MCOL` (R114, R115). -/
def elemOffset (g : ShapeRec) (e : Nat) : Int := elemRow g e * g.mrow.toInt + elemCol g e * g.mcol.toInt

def wrap64 (x : Int) : Nat := (x % (2 ^ 64 : Nat)).toNat

/-- An index is read as an unsigned value (R132). -/
def Layout.index (l : Layout) (e : Nat) : Nat := match l.idx with | some v => (v.getD e 0).toNat | none => 0

/-- Whether an element's index is out of bounds (R132): at least LIMIT, or negative in an I type. -/
def Layout.outOfBounds (l : Layout) (e : Nat) : Bool :=
  l.idx.isSome && (decide (l.g.limit.toNat ≤ l.index e) || (l.idxSign != 0 && (l.index e).testBit (l.idxSign - 1)))

/-- The address of an element of a format that is not packed (R114, R132). -/
def Layout.addr (l : Layout) (e : Nat) : Nat :=
  match l.idx with
  | some _ => wrap64 (l.a + l.index e * l.g.mcol.toInt)
  | none => wrap64 (l.a + elemOffset l.g e)

/-- A field of `w` bits: the byte address of its first bit, the bit in that byte (R4, R115). -/
structure Field where
  va : Nat
  bit : Nat
  w : Nat
deriving DecidableEq, Repr

def fieldAt (base boff : Nat) (p : Int) (w : Nat) : Field :=
  let start : Int := boff + p * w
  ⟨wrap64 (base + start / 8), (start % 8).toNat, w⟩

/-- Bytes a field lies in. -/
def Field.bytes (f : Field) : Nat := (f.bit + f.w + 7) / 8

def Layout.plane (l : Layout) (k : Nat) : Plane := l.planes.getD k ⟨0, 0, 0⟩

/-- The plane-k field of stream position p; planes 0 and 1 of the fused layout share 48-byte blocks (R117). -/
def Layout.planeField (l : Layout) (k : Nat) (p : Int) : Field :=
  if l.g.lay && decide (k ≤ 1) then
    let block := wrap64 ((l.plane 0).base + 48 * (p / 64))
    let q := (p % 64).toNat * planeBits k
    ⟨(block + (if k = 1 then 32 else 0) + q / 8) % 2 ^ 64, q % 8, planeBits k⟩
  else fieldAt (l.plane k).base (l.plane k).boff p (planeBits k)

/-- The planes a load reads (R128). -/
def Layout.readPlanes (l : Layout) : Nat := if l.guarded && decide (l.pc < l.g.pcb) then l.pc + 1 else l.pc

/-- The first element of the packed block that an element belongs to (R138), itself where there is none. -/
def Layout.unitFirst (l : Layout) (e : Nat) : Nat :=
  if l.mt = 12 then e / 32 * 32
  else if l.mt = 16 && l.g.lay then
    let p := elemOffset l.g e
    let back := min (p % 64).toNat (elemCol l.g e)
    e - back
  else e

/-- The byte ranges an element's access touches: `n` planes for LP (R126 to R128, R138). Of the last word group of a CB3 operand only the
bytes that its elements need (log entry 80). -/
def Layout.ranges (l : Layout) (n : Nat) (e : Nat) : List (Nat × Nat) :=
  if l.mt = 12 then
    let g := e / 32 * 32
    [((l.a + g * 3 / 8) % 2 ^ 64, (3 * min 32 (l.g.count - g) + 7) / 8)]
  else if l.mt = 15 then
    let f := fieldAt l.a 0 (elemOffset l.g e) 1
    [(f.va, 1)]
  else if l.mt = 16 then
    let p := elemOffset l.g e
    let rest := fun ks => (ks : List Nat).map fun k => ((l.planeField k p).va, (l.planeField k p).bytes)
    if l.g.lay then
      (wrap64 ((l.plane 0).base + 48 * (p / 64)), 48) :: rest ((List.range n).filter fun k => decide (2 ≤ k))
    else rest (List.range n)
  else [(l.addr e, typeBits l.mt / 8)]

/-- Whether two ranges of bytes of the 64-bit space meet. -/
def rangesMeet (a b : Nat × Nat) : Bool :=
  decide (a.1 < b.1 + b.2) && decide (b.1 < a.1 + a.2)

/-! ## Plane tables (R116, R117) -/

def planeOf (d : Nat) : Plane := ⟨bitsOf d 0 48, bitsOf d 56 3, readInt true 8 (bitsOf d 48 8)⟩

/-- Reads a plane table from its 64 bytes. A failed check is the trap it raises, with its TVAL: the rule gives none for a BOFF that is
no multiple of its plane's width, and the table's address stands there (log entry 79). -/
def readPlaneTable (g : ShapeRec) (a : Nat) (bs : List Byte) : Except TrapInfo (List Plane) :=
  let d := (List.range 5).map fun k => leNat ((bs.drop (8 * k)).take 8)
  let at_ := fun k => d.getD k 0
  let n := g.pcb
  let used := (List.range n).filter fun k => !(g.lay && k == 1)
  let tval : Word := BitVec.ofNat 64 a
  if (bs.drop 40).any (· != 0) || d.any (fun x => bitsOf x 59 5 != 0) ||
      ((List.range 5).any fun k => decide (n ≤ k) && at_ k != 0) || (g.lay && at_ 1 != 0) ||
      (used.any fun k => bitsOf (at_ k) 48 8 != bitsOf (at_ 0) 48 8) then
    .error { cause := .type, tval := tval }
  else if used.any (fun k => bitsOf (at_ k) 56 3 % min 8 (planeBits k) != 0) then
    .error { cause := .strideAlign, tval := tval }
  else if g.lay && (bitsOf (at_ 0) 0 48 % 16 != 0 || bitsOf (at_ 0) 56 3 != 0) then
    .error { cause := .strideAlign, tval := BitVec.ofNat 64 (bitsOf (at_ 0) 0 48) }
  else .ok (d.map planeOf)

/-! ## Issue checks -/

/-- The checks of R113 to R118, R127 and R128 on record `h` for a tile access at A; `tt` is the tile type and
`geom` says whether the record is used as tile geometry. The answer is the trap, or none. -/
def checkOperands (g : ShapeRec) (h : Nat) (a : Nat) (pc : Nat) (guarded store : Bool) (tt : BitVec 5)
    (geom : Bool) : Option TrapInfo :=
  let type_ : Option TrapInfo := some { cause := .type, tval := BitVec.ofNat 64 (0x100 + h) }
  let align : Option TrapInfo := some { cause := .strideAlign, tval := BitVec.ofNat 64 a }
  let mt := g.memType
  let mr := if 1 < g.rows.toNat then g.mrow.toInt else 0
  let mc := if 1 < g.cols.toNat then g.mcol.toInt else 0
  let np := if store then min 5 g.pcb else min (min 5 g.pcb) (if guarded then pc + 1 else pc)
  let widths := if mt = 12 then [3] else if mt = 15 then [1] else (List.range (max 1 np)).map planeBits
  if geom && !g.ok then type_
  else if !pairOk mt tt store then type_
  else if mt = 16 && a % 64 != 0 then align
  else if isPacked mt && (widths.any fun w =>
      !(g.mcol == 1 || g.mcol.toInt * w % 8 == 0) || mr * w % 8 != 0) then align
  else if mt = 12 && (g.mcol != 1 || g.mrow.toInt != g.cols.toNat) then align
  else if mt = 16 && g.lay && (g.mcol != 1 || g.mrow.toInt % 64 != 0) then align
  else if mt = 16 && g.lay && decide (g.pcb < 2) then type_
  else if !isPacked mt && (let es : Int := (typeBits mt / 8 : Nat); a % (typeBits mt / 8) != 0 || mr % es != 0 || mc % es != 0)
  then align
  else if mt = 16 && !(decide (1 ≤ pc) && decide (pc ≤ g.pcb) && decide (g.pcb ≤ 5) && !(store && guarded)) then type_
  else if mt != 16 && (pc != 0 || guarded) then type_
  else if tt = 11 && !store && g.scale.toNat % 2 != 0 then
    some { cause := .strideAlign, tval := g.scale }
  else none

/-- The types an index tile may have (R132). -/
def isIndexType (t : BitVec 5) : Bool := t == 3 || t == 4 || t == 5 || t == 6

/-- The checks of R132 on the index tile of a gather or scatter. -/
def checkIndex (b : Block) (t2 : BitVec 5) (g : ShapeRec) (h : Nat) : Option TrapInfo :=
  match current b t2 with
  | none => some { cause := .type, tval := BitVec.ofNat 64 (0x200 + t2.toNat) }
  | some v =>
    if !isIndexType v.geom.type || v.geom.count != g.count then
      some { cause := .type, tval := BitVec.ofNat 64 (0x200 + t2.toNat) }
    else if isPacked g.memType then some { cause := .type, tval := BitVec.ofNat 64 (0x100 + h) }
    else none

/-- The address of a TM instruction: s + off × 64 modulo 2^64 (R63). -/
def tmAddr (s : State) (r : BitVec 6) (off : BitVec 15) : Word := getS s r + off.signExtend 64 * 64

/-! ## Lane groups (R124) -/

/-- The lane group of element `e` under a dealing over `lgs`. -/
def lgOf (lgs : List Nat) (e : Nat) : Nat := lgs.getD (e / 32 % max 1 lgs.length) 0

/-- The position of element `e` in its lane group's sequence. -/
def posOf (lgs : List Nat) (e : Nat) : Nat := e / 32 / max 1 lgs.length * 32 + e % 32

/-- Whether element `e` has been performed, by the progress record. -/
def performedAt (lgs : List Nat) (elg : Vector Nat 8) (e : Nat) : Bool :=
  decide (posOf lgs e < elg[lgOf lgs e % 8]'(by omega))

def elgSet (elg : Vector Nat 8) (i v : Nat) : Vector Nat 8 := elg.set (i % 8) v (by omega)

/-! ## Bytes through a translation -/

/-- The physical byte of a virtual address under the translated pieces. -/
def viaSegs (l : List Seg) (va : Nat) : Option (Nat × BitVec 2) :=
  match l with
  | [] => none
  | g :: r => if g.va ≤ va ∧ va < g.va + g.len then some (g.pa + (va - g.va), g.cp) else viaSegs r va

/-- Reads `n` bytes by the tile memory stream of a block on `die`. -/
def readVia (s : State) (die : Bool) (l : List Seg) (va n : Nat) : List Byte × State :=
  match n with
  | 0 => ([], s)
  | k + 1 =>
    let (b, s1) := match viaSegs l va with
      | some (pa, cp) => (l2Byte s die pa cp, l2Fill s die pa cp)
      | none => (0, s)
    let (r, s2) := readVia s1 die l ((va + 1) % 2 ^ 64) k
    (b :: r, s2)

/-- Writes bytes, but those at addresses that `skip` names. -/
def writeVia (s : State) (who : Agent) (l : List Seg) (va : Nat) (bs : List Byte) (skip : Nat → Bool) : State :=
  match bs with
  | [] => s
  | b :: r =>
    let s1 := match viaSegs l va with
      | some (pa, _) => if skip va then s else homeWrite s who pa [b]
      | none => s
    writeVia s1 who l ((va + 1) % 2 ^ 64) r skip

def readField (s : State) (die : Bool) (l : List Seg) (f : Field) : Nat × State :=
  let (bs, s1) := readVia s die l f.va f.bytes
  (bitsOf (leNat bs) f.bit f.w, s1)

/-- Changes the bits of a field at the home slice. -/
def writeField (s : State) (who : Agent) (l : List Seg) (f : Field) (v : Nat) : State :=
  let old := leNat ((List.range f.bytes).map fun i =>
    match viaSegs l ((f.va + i) % 2 ^ 64) with | some (pa, _) => memRead s.mem pa | none => 0)
  let new := old - bitsOf old f.bit f.w * 2 ^ f.bit + v % 2 ^ f.w * 2 ^ f.bit
  writeVia s who l f.va (leBytes f.bytes new) fun _ => false

/-! ## Elements -/

/-- Whether a field read ahead is this one. -/
def EarlyField.is (x : EarlyField) (f : Field) : Bool := x.va == f.va && x.bit == f.bit && x.w == f.w

/-- The plane-k field of stream position `p` as an instruction reads it: as it was where it was read ahead (R49). -/
def readPlaneField (s : State) (die : Bool) (l : Layout) (segs : List Seg) (p : Int) (k : Nat) : Nat × State :=
  let f := l.planeField k p
  match l.early.find? fun x => x.is f with
  | some x => (x.value, s)
  | none => readField s die segs f

/-- Reads the leading planes of stream position `p` as one pattern. -/
def readPlanes (s : State) (die : Bool) (l : Layout) (segs : List Seg) (p : Int) (n k acc : Nat) : Nat × State :=
  match n with
  | 0 => (acc, s)
  | m + 1 =>
    let (v, s1) := readPlaneField s die l segs p k
    readPlanes s1 die l segs p m (k + 1) (acc * 2 ^ planeBits k + v)

/-- The LP value of an element (R46), NaR being a NaN. -/
def readLp (s : State) (die : Bool) (l : Layout) (segs : List Seg) (e : Nat) : Fp × State :=
  let p := elemOffset l.g e
  let w := planesWidth l.pc
  let sc := (l.plane 0).scale
  let (x, s1) := readPlanes s die l segs p l.pc 0 0
  if l.readPlanes = l.pc then (lpDecode x w sc, s1)
  else
    let (g, s2) := readPlaneField s1 die l segs p l.pc
    (lpGuarded x w (g.testBit (planeBits l.pc - 1)) sc, s2)

/-- Whether the codebook table of an element's block has still to arrive (R139). -/
def Layout.late (l : Layout) (e : Nat) : Bool := l.mt == 12 && (l.tables.getD (e / 128) none).isNone

/-- Whether a MASK operand has the layout of R28: MCOL and MROW count only where there is more than one column or row. -/
def Layout.denseMask (l : Layout) : Bool :=
  (l.g.mcol == 1 || decide (l.g.cols.toNat ≤ 1)) && (l.g.mrow.toInt == l.g.cols.toNat || decide (l.g.rows.toNat ≤ 1))

/-- The tile pattern that a load puts into element `e` (R127). -/
def loadElem (s : State) (die : Bool) (l : Layout) (segs : List Seg) (e : Nat) : Nat × State :=
  if l.mt = 12 then
    let (i, s1) := readField s die segs (fieldAt l.a 0 e 3)
    (((((l.tables.getD (e / 128) none).getD (Vector.replicate 8 0))[i % 8]'(by omega)).toNat), s1)
  else if l.mt = 15 then readField s die segs (fieldAt l.a 0 (elemOffset l.g e) 1)
  else if l.mt = 16 then
    let (v, s1) := readLp s die l segs e
    (fpToTile l.g.type v, s1)
  else
    let (bs, s1) := readVia s die segs (l.addr e) (typeBits l.mt / 8)
    (convPat l.mt l.g.type (leNat bs), s1)

/-- Writes planes `k` on of a 32-bit pattern at stream position `p`; with `old`, only those that differ (R128,
R142). -/
def writePlanes (s : State) (who : Agent) (l : Layout) (segs : List Seg) (p : Int) (pat : Nat) (old : Option Nat)
    (n k shift : Nat) : State :=
  match n with
  | 0 => s
  | m + 1 =>
    let sh := shift - planeBits k
    let v := bitsOf pat sh (planeBits k)
    let s1 := if old.any fun o => bitsOf o sh (planeBits k) == v then s
      else writeField s who segs (l.planeField k p) v
    writePlanes s1 who l segs p pat old m (k + 1) sh

/-- Stores the tile pattern `x` of element `e` (R127, R128, R28); bytes that `skip` names keep a higher
element's value (R126). -/
def storeElem (s : State) (who : Agent) (l : Layout) (segs : List Seg) (e x : Nat) (skip : Nat → Bool) : State :=
  if l.mt = 15 then
    let f := fieldAt l.a 0 (elemOffset l.g e) 1
    let last := l.denseMask && e + 1 == l.g.count
    let s1 := writeField s who segs f x
    if last then writeField s1 who segs ⟨f.va, f.bit + 1, 7 - f.bit⟩ 0 else s1
  else if l.mt = 16 then
    let w := planesWidth l.pc
    let pat := lpEncode (fpOfTile l.g.type x) w (l.plane 0).scale
    writePlanes s who l segs (elemOffset l.g e) (pat * 2 ^ (32 - w)) none l.g.pcb 0 32
  else writeVia s who segs (l.addr e) (leBytes (typeBits l.mt / 8) (convPat l.g.type l.mt x)) skip

/-- The update of R142 on an element: the new LP32 pattern from the old one and the FP32 delta. -/
def toptNew (old delta : Nat) (sc : Int) : Nat :=
  let x := lpDecode old 32 sc
  let d := fpRead fp32 false delta
  match d with
  | .nan _ => 8 * 2 ^ 28
  | .inf _ => 8 * 2 ^ 28
  | _ => if x.isNaN then 8 * 2 ^ 28 else lpEncode (fpAddExact x d).1 32 sc

end Sys2Proof.Machine
end

