-- ==== Sys2Proof/Machine/Tile.lean ====
section
/-!
DEFINITION. How tile memory instructions perform (R122 to R147): element by element in each lane group's sequence,
with the stops of R136 and the progress record of R137, in the order of R125.
-/
namespace Sys2Proof.Machine

/-! ## Accesses and their stops -/

/-- Why a lane group stops at an element (R136, R250, R353). -/
inductive StopWhy where
  | bound (idx : Nat)
  | fault (va : Nat) (kind : AccKind) (reason level entry : Nat)
  | hold (va : Nat) (kind : AccKind)
  | poison (pa : Nat)
  /-- An atomic that the memory at this address does not admit (R399, R404). -/
  | notHere (va : Nat)
  /-- A line held for another block. -/
  | wait
deriving DecidableEq, Repr

inductive Access where
  | ok (segs : List Seg)
  | stop (w : StopWhy)
deriving DecidableEq, Repr

/-- Translates byte ranges, each wholly, before any byte is accessed (R135); a tile instruction uses the translations that it
holds (R340). -/
def accessPages (s : State) (b : Block) (rs : List (Nat × Nat)) (kind : AccKind) (eng : Eng) (f : Option Flight := none) :
    Access × State :=
  match rs with
  | [] => (.ok [], s)
  | (va, n) :: rest =>
    match translateRange (match f with | some x => x.pins.map Prod.snd | none => []) s (some (slotCore b.slot)) b.ctx va n kind eng (n / 4096 + 2) with
    | (.fault a r l e, s1) => (.stop (.fault a kind r l e), s1)
    | (.hold a, s1) => (.stop (.hold a kind), s1)
    | (.ok segs, s1) =>
      match accessPages s1 b rest kind eng f with
      | (.ok more, s2) => (.ok (segs ++ more), s2)
      | r => r

/-- Held lines, then poison for an access that reads, where an error still has an effect on the block (R84): what stops an access whose
pages are translated (R375). -/
def segsStop (s : State) (b : Block) (segs : List Seg) (reads : Bool) (f : Option Flight := none) : Option StopWhy :=
  if segs.any fun g => lineHeld s (some b.slot) g.pa g.len then some .wait
  else (segs.find? fun g => reads && poisonedAt s g.pa g.len && f.all (fun x => raisesError b (some x.id))).map fun g => .poison g.pa

/-- An access, by the block whose turn it is, whose pages are translated: it stops; a read of pieces beyond the package waits for their
answers (R399, R406). -/
def accessSegs (s : State) (segs : List Seg) (kind : AccKind) (reads : Bool) (f : Option Flight := none) : Access × State :=
  match segsStop s s.me segs reads f with
  | some w => (.stop w, s)
  | none =>
    if kind ≠ .read then (.ok segs, s)
    else
      match readFar s (f.map Flight.id) (segs.flatMap fun g => farPieces g.pa g.len) with
      | (true, s1) => (.ok segs, s1)
      | (false, s1) => (.stop .wait, s1)

/-- What a tile instruction has written beyond the package goes out (R399, R406). -/
def sendSegs (s : State) (f : Flight) (segs : List Seg) : State :=
  segs.foldl (fun s g => blockWrite s s.me g.pa (memBytes s.mem g.pa g.len) (some f.id)) s

/-- Translation, then the access (R375). -/
def accessRanges (s : State) (rs : List (Nat × Nat)) (kind : AccKind) (eng : Eng) (reads : Bool)
    (f : Option Flight := none) : Access × State :=
  match accessPages s s.me rs kind eng f with
  | (.stop w, s1) => (.stop w, s1)
  | (.ok segs, s1) => accessSegs s1 segs kind reads f

/-- What performing the elements of an instruction needs: the BOUND check, the ranges, the packed block's first
element, the elements that wait for a codebook table (R139), those that consume a poisoned tile element (R388), and the effect on
an element whose pages are translated, which may add its value to the result. -/
structure ElemOps where
  bound : Nat → Option Nat
  ranges : Nat → List (Nat × Nat)
  unit_ : Nat → Nat
  late : Nat → Bool := fun _ => false
  bad : List Nat := []
  kind : AccKind
  reads : Bool
  act : State → List Seg → Nat → Except StopWhy (Option Nat) × State

/-- How far an instruction's elements have come: the progress record, the lane groups that have stopped, the
lowest faulting element, the values read, latest first, and the translations that are still held (R340). -/
structure Perf where
  s : State
  elg : Vector Nat 8
  stopped : List Nat
  named : Option (Nat × StopWhy)
  data : List (Nat × Nat)
  pins : List (Nat × TlbEntry) := []

def Perf.stop (p : Perf) (s : State) (lg e : Nat) (w : StopWhy) : Perf :=
  { p with s := s, stopped := lg :: p.stopped, named := some (p.named.getD (e, w)) }

/-- Whether a translation covers a byte of some range. -/
def TlbEntry.meets (t : TlbEntry) (ctx : BitVec 6) (rs : List (Nat × Nat)) : Bool :=
  rs.any fun r => t.covers ctx (r.1 / 4096) || t.covers ctx ((r.1 + r.2 - 1) / 4096)

/-- A lane group's sequence comes to an element: it leaves the pages that it pinned before that element's (R340). -/
def leavePages (ctx : BitVec 6) (lg : Nat) (rs : List (Nat × Nat)) (l : List (Nat × TlbEntry)) : List (Nat × TlbEntry) :=
  match l with
  | [] => []
  | p :: r => if p.1 = lg then (if p.2.meets ctx rs then p :: r else leavePages ctx lg rs r) else p :: leavePages ctx lg rs r

/-- The translations of some pieces pinned by a lane group, each once (R340). -/
def addPins (lg : Nat) (l : List (Nat × TlbEntry)) (segs : List Seg) : List (Nat × TlbEntry) :=
  segs.foldl (fun acc g => if acc.any fun p => p.1 == lg && p.2 == g.t then acc else acc ++ [(lg, g.t)]) l

/-- One element: skipped where its lane group has stopped or it has been performed (R136 to R138). -/
def performElem (o : ElemOps) (f : Flight) (p : Perf) (e : Nat) : Perf :=
  let lg := lgOf f.lgs e
  if p.stopped.contains lg || performedAt f.lgs p.elg e then p
  else
    let up := { p with elg := elgSet p.elg lg (posOf f.lgs e + 1) }
    if f.skips.contains e then up
    else if o.late e then { p with stopped := lg :: p.stopped }
    else
      match o.bound e with
      | some i => p.stop p.s lg e (.bound i)
      | none =>
        let u := o.unit_ e
        if u ≠ e && !performedAt f.lgs p.elg u && !f.skips.contains u then { p with stopped := lg :: p.stopped }
        else
          match accessPages p.s p.s.me (o.ranges e) o.kind .tile (some { f with pins := p.pins }) with
          | (.stop w, s1) => p.stop s1 lg u w
          | (.ok segs, s1) =>
            let q := { p with pins := addPins lg (leavePages s1.me.ctx lg (o.ranges e) p.pins) segs }
            if o.bad.contains e then q.stop s1 lg e (.poison 0)
            else
            match accessSegs s1 segs o.kind o.reads (some f) with
            | (.stop w, s2) => q.stop s2 lg u w
            | (.ok _, s2) =>
              match o.act s2 segs e with
              | (.error w, s3) => q.stop s3 lg e w
              | (.ok v, s3) =>
                { up with s := if o.kind = .read then s3 else sendSegs s3 f segs, pins := q.pins, data := match v with | some x => (e, x) :: p.data | none => p.data }

def performElems (o : ElemOps) (f : Flight) (s : State) (es : List Nat) : Perf :=
  es.foldl (performElem o f) ⟨s, f.elg, [], none, [], f.pins⟩

/-! ## Results -/

/-- Puts element values, in rising element order, into a version's contents. -/
def mergeElems (elems : List Half) (k : Nat) (data : List (Nat × Nat)) : List Half :=
  match elems, data with
  | [], _ => []
  | l, [] => l
  | x :: r, (e, v) :: d =>
    if e = k then BitVec.ofNat 32 v :: mergeElems r (k + 1) d else x :: mergeElems r (k + 1) ((e, v) :: d)

/-- The tile name a trap's TCOORD gives (R136). -/
def Instr.tileName (i : Instr) : BitVec 5 :=
  match i with
  | .tld f | .tst f | .tldff f | .topt f => f.t
  | .tgth f | .tgthFull f | .tsct f => f.t
  | .tamoAdd f | .tamoMin f | .tamoMax f | .tamoAnd f | .tamoOr f | .tamoXor f | .tamoSwap f => f.t
  | .tglk f | .tscc f => f.t
  | .tldw t _ => t
  | .tdens t _ => t
  | _ => 0

/-- An element of an instruction as a trap names it. -/
def elemAt (f : Flight) (e : Nat) : ElemAt :=
  { lg := lgOf f.lgs e, elem := e, tile := Instr.tileName f.ins, row := elemRow f.shape e, col := elemCol f.shape e }

/-- An instruction stops at `e` (R136): a handler cause is held as its trap, a servicer cause raises a record
(R344) and ends its pins (R340), poison raises UE_DATA; `f` carries the progress record. A trapped instruction keeps its pins (R376). -/
def stopFlight (s : State) (f : Flight) (e : Nat) (w : StopWhy) : State :=
  let faults := match w with | .fault _ _ _ _ _ => true | _ => false
  let s := match w with | .wait => s | .hold _ _ => s | _ => dropAsks s (some f.id)
  let f1 := { f with started := true, pins := if faults then [] else f.pins, early := if faults then [] else f.early }
  match w with
  | .bound i =>
    setFlight s { f1 with st := .trapped { cause := .bound, tval := BitVec.ofNat 64 i, elem := some (elemAt f e), elg := f.elg } }
  | .notHere va =>
    setFlight s { f1 with st := .trapped { cause := .type, tval := BitVec.ofNat 64 va, elem := some (elemAt f e), elg := f.elg } }
  | .fault va kind r l en =>
    let (tag, s1) := raiseFault (setFlight s f1) (.flight s.me.slot f.id) s.me.ctx va kind r l en
    setFlight s1 { f1 with st := .faulted tag }
  | .hold va kind => holdOn (setFlight s f1) (.flight s.me.slot f.id) s.me.ctx va kind
  | .poison pa => consumePoison (setFlight s f1) s.me.slot pa (some f.id) (some e)
  | .wait => setFlight s f1

/-- Ends a run over elements: the values go to the destination, then the instruction stops or is done. -/
def endRun (p : Perf) (f : Flight) (done : State → Flight → State) : State :=
  let f1 := { f with elg := p.elg, pins := p.pins }
  let s1 := setVersion p.s f.dst fun v => { v with elems := mergeElems v.elems 0 p.data.reverse }
  match p.named with
  | some (e, w) => stopFlight s1 f1 e w
  | none => if p.stopped = [] then flightDone (done s1 f1) f1 else setFlight s1 { f1 with started := true }

/-! ## Layouts -/

/-- PC of a tile memory instruction, and whether PM is G (R128). -/
def Instr.planesOf (i : Instr) : Nat × Bool :=
  match i with
  | .tld f | .tst f | .tldff f | .topt f => (f.pc.toNat, f.pm == .guarded)
  | _ => (0, false)

/-- The version an indexed instruction reads its indices from is `tb`. -/
def indexOf (b : Block) (f : Flight) : Option (List Half) := (f.tb.bind (findVersion b)).map Version.elems

/-- The width of signed indices, 0 for an N type. -/
def indexSign (b : Block) (f : Flight) : Nat :=
  match f.tb.bind (findVersion b) with | some v => if v.geom.type = 3 then 16 else if v.geom.type = 5 then 32 else 0 | none => 0

/-- The layout of an instruction's memory operand, but for its plane table. -/
def layoutOf (b : Block) (f : Flight) (planes : List Plane) : Layout :=
  let p := Instr.planesOf f.ins
  { g := f.shape, a := f.addr.toNat, mt := f.shape.memType, planes := planes, pc := p.1, guarded := p.2,
    idx := indexOf b f, idxSign := indexSign b f, tables := f.tables, early := f.early }

/-- The plane table of an LP operand (R116), read once, before any element (log entry 84). -/
inductive PlanesRes where
  | ok (l : List Plane)
  | stop (w : StopWhy)
  | trap (t : TrapInfo)

def fetchPlanes (s : State) (f : Flight) : PlanesRes × State :=
  if f.shape.memType = 16 then
    match f.planes with
    | some l => (.ok l, s)
    | none =>
    match accessRanges s [(f.addr.toNat, 64)] .read .tile true (some f) with
    | (.stop w, s1) => (.stop w, s1)
    | (.ok segs, s1) =>
      let (bs, s2) := readVia s1 (slotDie s.me.slot) segs f.addr.toNat 64
      match readPlaneTable f.shape f.addr.toNat bs with
      | .ok l => (.ok l, s2)
      | .error t => (.trap t, s2)
  else (.ok [], s)

/-- Runs `k` with the operand's layout, or stops the instruction. The instruction keeps its plane table. -/
def withLayout (s : State) (f : Flight) (k : State → Flight → Layout → State) : State :=
  match fetchPlanes s f with
  | (.stop w, s1) => stopFlight s1 f 0 w
  | (.trap t, s1) => setFlight s1 { f with st := .trapped t }
  | (.ok l, s1) => k s1 { f with planes := some l } (layoutOf s.me f l)

/-- BOUND of an indexed element (R132). -/
def boundOf (l : Layout) (e : Nat) : Option Nat :=
  if l.outOfBounds e then some (l.index e) else none

def loadAct (die : Bool) (l : Layout) (s : State) (segs : List Seg) (e : Nat) : Except StopWhy (Option Nat) × State :=
  let r := loadElem s die l segs e
  (.ok (some r.1), r.2)

/-- The poisoned elements of a source version (R388). -/
def poisonOf (b : Block) (id : Option Nat) : List Nat :=
  match id.bind (findVersion b) with | some v => v.poison | none => []

/-- The poisoned elements of a source version that an instruction consumes: an error must still have an effect on its block
(R84). -/
def badOf (b : Block) (f : Flight) (id : Option Nat) : List Nat := if raisesError b (some f.id) then poisonOf b id else []

/-- The elements at which a tile memory instruction consumes poison of the versions that it reads: its source and its indices. -/
def badElems (b : Block) (f : Flight) : List Nat := badOf b f f.ta ++ badOf b f f.tb

/-- The least of some numbers. -/
def minOf (l : List Nat) : Option Nat := match l with | [] => none | x :: r => some (r.foldl min x)

def loadOps (die : Bool) (l : Layout) (bad : List Nat) : ElemOps :=
  { bad := bad, bound := boundOf l, ranges := l.ranges l.readPlanes, unit_ := l.unitFirst, late := l.late, kind := .read, reads := true,
    act := loadAct die l }

/-- Whether the element's pages would stop a TLDFF (R131): one faults or is an NS page. A page that a move holds is neither. -/
def wouldStop (s : State) (l : Layout) (e : Nat) : Bool :=
  match accessPages s s.me (l.ranges l.readPlanes e) .read .tile with
  | (.ok segs, _) => segs.any Seg.ns
  | (.stop (.fault _ _ _ _ _), _) => true
  | (.stop _, _) => false

/-- The lowest element above 0 that stops a TLDFF, else the element count. -/
def ffLimit (s : State) (l : Layout) : Nat :=
  (((List.range l.g.count).drop 1).find? fun e => wouldStop s l e).getD l.g.count

/-- The physical pieces of a range, as far as its pages translate. -/
def physOf (s : State) (ctx : BitVec 6) (va n fuel : Nat) : List (Nat × Nat) :=
  match fuel with
  | 0 => []
  | k + 1 =>
    if n = 0 then []
    else
      let len := min n (4096 - va % 4096)
      let rest := physOf s ctx (va + len) (n - len) k
      match walk s ctx va with
      | .leaf l _ => (l.frame * 4096 + va % (4096 * 512 ^ l.level), len) :: rest
      | .fault _ _ _ => rest

/-- Whether two byte ranges of a context share a byte, by address or through two mappings of one page. -/
def bytesMeet (s : State) (ctx : BitVec 6) (a b : Nat × Nat) : Bool :=
  rangesMeet a b ||
    (physOf s ctx a.1 a.2 (a.2 / 4096 + 2)).any fun x =>
      (physOf s ctx b.1 b.2 (b.2 / 4096 + 2)).any fun y => rangesMeet x y

/-- Prefetched tiles whose elements or scale vector overlap written bytes are fetched again (R118, R145). -/
def refetch (s : State) (rs : List (Nat × Nat)) : State :=
  { s with me := { s.me with streams := s.me.streams.map fun w =>
      { w with prefetched := w.prefetched.filter fun p =>
          let l : Layout := { g := w.copy, a := wrap64 (w.base.toNat + p.index * w.stride.toInt), mt := w.copy.memType }
          let scales := if w.copy.type = 11 then [(w.copy.scale.toNat, 2 * w.copy.cols.toNat)] else []
          !(((List.range w.copy.count).flatMap (l.ranges 0) ++ scales).any fun r => rs.any fun x => bytesMeet s s.me.ctx r x) } } }

/-! ## Loads (R118, R127, R131, R134, R145) -/

/-- The BF16 scale vector of an SP2 load (R118). -/
def loadScales (s : State) (f : Flight) (k : State → State) : State :=
  if f.shape.type = 11 then
    let n := 2 * f.shape.cols.toNat
    match accessRanges s [(f.shape.scale.toNat, n)] .read .tile true (some f) with
    | (.stop w, s1) => stopFlight s1 f 0 w
    | (.ok segs, s1) =>
      let (bs, s2) := readVia s1 (slotDie s.me.slot) segs f.shape.scale.toNat n
      let sc := (List.range f.shape.cols.toNat).map fun c => BitVec.ofNat 16 (leNat ((bs.drop (2 * c)).take 2))
      k (setVersion s2 f.dst fun v => { v with scales := sc })
  else k s

/-- TLD, TLDFF, TGTH.FULL, TGLK's gather and a TLDW without a prefetched tile: elements up to `limit`. Where a
TLDFF stops is found when it first performs and stays (R137; log entry 62). Tiles that were prefetched from the same bytes are fetched
again, so that no read of them comes out older (R231). -/
def runLoad (s : State) (f : Flight) (limit : State → Layout → Nat) (done : State → Flight → State) : State :=
  withLayout s f fun s1 f l =>
    loadScales s1 f fun s2 =>
      let n := match f.first with | some n => n | none => limit s2 l
      let f1 := { f with first := some n }
      let s2 := refetch s2 ((List.range n).flatMap (l.ranges l.readPlanes))
      endRun (performElems (loadOps (slotDie s.me.slot) l (badElems s.me f)) f1 s2 (List.range n)) f1 fun s3 f3 =>
        done (consumeTables s3 f3) f3

def allElems (_ : State) (l : Layout) : Nat := l.g.count

/-! ## The windowed gather (R133) -/

/-- Ends a windowed gather: the values, the companion's mask and FILL. A value that stays is carried with its poison (R388; log
entry 86). -/
def endWindow (s : State) (f : Flight) (got : List (Nat × Nat)) : State :=
  let out := (outstanding s f).filter fun e => !(got.any fun g => g.1 == e)
  let kept := fun (e : Nat) => !(got.any fun g => g.1 == e) && !f.skips.contains e
  let old := match f.old.bind (findVersion s.me) with | some v => v.elems | none => []
  let value := fun (e : Nat) =>
    match got.find? (fun g => g.1 == e) with
    | some g => BitVec.ofNat 32 g.2
    | none => if f.skips.contains e then 0 else old.getD e 0
  let mask := fun (e : Nat) => if out.contains e then (1 : Half) else 0
  let s1 := setVersion s f.dst fun v =>
    { v with elems := (List.range f.shape.count).map value, poison := (poisonOf s.me f.old).filter kept }
  let s2 := setVersion s1 f.dst2 fun v => { v with elems := (List.range f.shape.count).map mask }
  flightDone (setFill s2 f (f.shape.count - out.length)) f

/-- The elements of `es` read from the window: they lie on one page. -/
def readWindow (s : State) (l : Layout) (segs : List Seg) (es : List Nat) : List (Nat × Nat) × State :=
  es.foldl (fun p e =>
    let r := loadElem p.2 (slotDie s.me.slot) l segs e
    (p.1 ++ [(e, r.1)], r.2)) ([], s)

def runWindow (s : State) (f : Flight) : State :=
  let l := layoutOf s.me f []
  let es := outstanding s f
  match es.find? (fun e => (boundOf l e).isSome) with
  | some e => stopFlight s { f with elg := Vector.replicate 8 0 } e (.bound (l.index e))
  | none =>
    loadScales s f fun s =>
    let maskBad := (badOf s.me f f.tc).filter fun e => !f.skips.contains e
    match es with
    | [] =>
      match minOf maskBad with
      | some e => stopFlight s { f with elg := Vector.replicate 8 0 } e (.poison 0)
      | none => endWindow s f []
    | e0 :: _ =>
      let inWin := es.filter fun e => l.addr e / 1024 == l.addr e0 / 1024
      match accessPages s s.me (inWin.map fun e => (l.addr e, typeBits l.mt / 8)) .read .tile (some f) with
      | (.stop w, s1) => stopFlight s1 f e0 w
      | (.ok segs, s1) =>
        match minOf (maskBad ++ (badOf s1.me f f.tb).filter fun e => inWin.contains e) with
        | some e => stopFlight s1 f e (.poison 0)
        | none =>
          match accessSegs s1 segs .read true (some f) with
          | (.stop w, s2) => stopFlight s2 f e0 w
          | (.ok _, s2) =>
            let (got, s3) := readWindow s2 l segs inWin
            endWindow s3 f got

/-! ## Stores (R126, R127, R134, R142) -/

/-- Whether a higher element, performed before this run, wrote the byte at `va` (R126). -/
def keptByte (l : Layout) (f : Flight) (e va : Nat) : Bool :=
  f.started && (List.range l.g.count).any fun h =>
    decide (e < h) && performedAt f.lgs f.elg h && !f.skips.contains h &&
    decide (l.addr h ≤ va) && decide (va < l.addr h + typeBits l.mt / 8)

/-- Whether a higher element, performed before this run, wrote the same packed field. -/
def keptField (l : Layout) (f : Flight) (e : Nat) : Bool :=
  f.started && (List.range l.g.count).any fun h =>
    decide (e < h) && performedAt f.lgs f.elg h && !f.skips.contains h && elemOffset l.g h == elemOffset l.g e

def storeOps (who : Agent) (l : Layout) (f : Flight) (vals : List Half) (bad : List Nat) : ElemOps :=
  { bad := bad, bound := boundOf l, ranges := l.ranges l.g.pcb, unit_ := l.unitFirst, kind := .write, reads := false,
    act := fun s segs e =>
      if isPacked l.mt && keptField l f e then (.ok none, s)
      else (.ok none, storeElem s who l segs e (vals.getD e 0).toNat (keptByte l f e)) }

/-- The values of an instruction's source version `ta`. -/
def sourceElems (b : Block) (f : Flight) : List Half :=
  match f.ta.bind (findVersion b) with | some v => v.elems | none => []

def runStore (s : State) (f : Flight) : State :=
  withLayout s f fun s1 f l =>
    let p := performElems (storeOps (.block s.me.slot) l f (sourceElems s.me f) (badElems s.me f)) f s1 (List.range l.g.count)
    let rs := (List.range l.g.count).flatMap fun e => l.ranges l.g.pcb e
    endRun { p with s := refetch p.s rs } f fun s2 _ => s2

/-- TOPT on one element whose planes are translated for reading: the planes that change are translated for the write, so only their
pages are written to (R142), then poison counts, `bad` for that of the delta (R375). -/
def toptElem (s : State) (f : Flight) (l : Layout) (segs : List Seg) (e delta : Nat) (bad : Bool) : Except StopWhy (Option Nat) × State :=
  let p := elemOffset l.g e
  let (old, s1) := readPlanes s (slotDie s.me.slot) l segs p 5 0 0
  let new := toptNew old delta (l.plane 0).scale
  let changed := (List.range 5).filter fun k =>
    let sh := 32 - planesWidth (k + 1)
    bitsOf old sh (planeBits k) != bitsOf new sh (planeBits k)
  let rs := changed.map fun k => ((l.planeField k p).va, (l.planeField k p).bytes)
  match accessPages s1 s1.me rs .write .tile (some { f with pins := addPins 0 f.pins segs }) with
  | (.stop w, s2) => (.error w, s2)
  | (.ok wsegs, s2) =>
    match segsStop s2 s2.me segs true (some f) with
    | some w => (.error w, s2)
    | none =>
      if bad then (.error (.poison 0), s2)
      else
        match accessSegs s2 wsegs .write false (some f) with
        | (.stop w, s3) => (.error w, s3)
        | (.ok _, s3) => (.ok none, refetch (sendSegs (writePlanes s3 (.block s.me.slot) l wsegs p new (some old) 5 0 32) f wsegs) rs)

def runTopt (s : State) (f : Flight) : State :=
  withLayout s f fun s1 f l =>
    let vals := sourceElems s.me f
    let bad := badOf s.me f f.ta
    let o : ElemOps := { bound := fun _ => none, ranges := l.ranges 5, unit_ := l.unitFirst, kind := .read, reads := false,
                         act := fun s segs e => toptElem s f l segs e (vals.getD e 0).toNat (bad.contains e) }
    endRun (performElems o f s1 (List.range l.g.count)) f fun s2 _ => s2

/-! ## TCB and BCOPY (R140, R147) -/

/-- Whether the block in the other slot of the core holds the codebook ring (R141). -/
def ringTaken (s : State) : Bool :=
  match getBlock s (slotTwin s.me.slot) with | some b => b.cbClaim.isSome | none => false

/-- The block claims the ring of its core (R141): the claim is that of its oldest TCB whose tables are there. -/
def claimRing (s : State) : State :=
  match s.me.cbClaim with
  | some _ => s
  | none => { s with me := { s.me with cbClaim := (s.cbs.find? fun t => t.slot == s.me.slot).map CbTable.tcb } }

/-- TCB reads its tables once the ring is the block's (R140, R141). One that waited for the other block's claim to end takes the claim
with its tables, so the other block may claim the ring again before it does (log entry 81). -/
def runTcb (s : State) (f : Flight) (n : Nat) : State :=
  if ringTaken s then s else
  match accessRanges s [(f.addr.toNat, 16 * n)] .read .copy true (some f) with
  | (.stop w, s1) => stopFlight s1 f 0 w
  | (.ok segs, s1) =>
    let (bs, s2) := readVia s1 (slotDie s.me.slot) segs f.addr.toNat (16 * n)
    let table := fun (i : Nat) => Vector.ofFn fun (j : Fin 8) =>
      BitVec.ofNat 16 (leNat ((bs.drop (16 * i + 2 * j.val)).take 2))
    let put := fun (acc : Nat × List CbTable) (t : CbTable) =>
      if t.slot == s.me.slot && t.tcb == f.id then (acc.1 + 1, acc.2 ++ [{ t with data := some (table acc.1) }])
      else (acc.1, acc.2 ++ [t])
    -- the tables' arrivals complete the instruction (R139)
    setFlight (claimRing { s2 with cbs := (s2.cbs.foldl put (0, [])).2 }) { f with st := .performed, started := true }

/-- Whether BCOPY runs in descending order: the ranges overlap with the destination above the source. -/
def bcopyDown (dst src len : Nat) : Bool := decide (src < dst) && decide (dst < src + len)

/-- Marks the destination lines of a unit poisoned where its source is (R388). -/
def copyPoison (s : State) (segs : List Seg) : State :=
  { s with poison := segs.foldl (fun l g =>
      (List.range (g.len / 64 + 2)).foldl (fun l i =>
        let ln := lineOf g.pa + i
        if touchesLine g.pa g.len ln && !l.contains ln then ln :: l else l) l) s.poison }

/-- One unit of a copy: `n` bytes from `src` to `dst`. -/
def copyUnit (s : State) (f : Flight) (dst src n : Nat) : Option StopWhy × State :=
  match accessRanges s [(src % 2 ^ 64, n)] .read .copy false (some f) with
  | (.stop w, s1) => (some w, s1)
  | (.ok rsegs, s1) =>
    match accessRanges s1 [(dst % 2 ^ 64, n)] .write .copy false (some f) with
    | (.stop w, s2) => (some w, s2)
    | (.ok wsegs, s2) =>
      let (bs, s3) := readVia s2 (slotDie s.me.slot) rsegs (src % 2 ^ 64) n
      let bad := rsegs.any fun g => poisonedAt s3 g.pa g.len
      let w := wsegs.foldl (fun (acc : List Byte × State) g =>
        (acc.1.drop g.len, homeWrite acc.2 (.block s.me.slot) g.pa (acc.1.take g.len))) (bs, s3)
      let s4 := sendSegs w.2 f wsegs
      (none, if bad then copyPoison s4 wsegs else s4)

/-- The units of a copy from unit `done` on, in copy order; the answer is the count of complete units. -/
def copyUnits (s : State) (f : Flight) (dst src len total : Nat) (down : Bool) (fuel done : Nat) : Nat × Option StopWhy × State :=
  match fuel with
  | 0 => (done, none, s)
  | k + 1 =>
    let i := if down then total - 1 - done else done
    match copyUnit s f (dst + 64 * i) (src + 64 * i) (min 64 (len - 64 * i)) with
    | (some w, s1) => (done, some w, s1)
    | (none, s1) => copyUnits s1 f dst src len total down k (done + 1)

def runBcopy (s : State) (f : Flight) (len : Nat) : State :=
  let total := (len + 63) / 64
  let dst := f.addr.toNat
  let src := f.addr2.toNat
  let start := f.elg[0]
  match copyUnits s f dst src len total (bcopyDown dst src len) (total - start) start with
  | (n, some w, s1) => stopFlight s1 { f with elg := elgSet f.elg 0 n } 0 w
  | (n, none, s1) => flightDone (refetch s1 [(dst, len)]) { f with elg := elgSet f.elg 0 n }

end Sys2Proof.Machine
end

