-- ==== Sys2Proof/Machine/Compute.lean ====
section
/-!
DEFINITION. What tile compute instructions compute (R52, R53, R153 to R164, R175 to R180), and how they perform.
-/
namespace Sys2Proof.Machine

/-! ## Lists in fixed pieces -/

/-- `l` cut into pieces of `n`, at most `fuel` of them. -/
def piecesOf {α : Type} (n : Nat) (l : List α) (fuel : Nat) : List (List α) :=
  match fuel with
  | 0 => []
  | k + 1 => if l.isEmpty then [] else l.take n :: piecesOf n (l.drop n) k

def rowsOf {α : Type} (g : ShapeRec) (l : List α) : List (List α) := piecesOf g.cols.toNat l g.rows.toNat

/-- The columns of a matrix given by its rows. -/
def columnsOf (n : Nat) (rows : List (List Fp)) : List (List Fp) :=
  (List.range n).map fun c => rows.map fun r => r.getD c (.zero false)

/-! ## The chunk sum (R52) -/

/-- One chunk: the exact sum of the products and the accumulator, rounded once. -/
def chunkStep (acc : Nat) (ps : List Fp) : Nat := (fpPut fp32 false (exactSum (fpRead fp32 false acc) ps)).bits

/-- An output element from its products in increasing k. -/
def chunkSum (acc : Nat) (ps : List Fp) : Nat := (piecesOf 16 ps (ps.length / 16 + 1)).foldl chunkStep acc

def products (a b : List Fp) : List Fp := List.zipWith (fun x y => (fpMulExact x y).1) a b

/-- The values of a version: SP2 weights carry the scale of their column (R40, R41, R118). -/
def versionValues (v : Version) : List Fp :=
  if v.geom.type = 11 then
    (List.zip v.elems (List.range v.elems.length)).map fun p =>
      sp2Weight (p.1.toNat % 256) (v.scales.getD (p.2 % v.geom.cols.toNat) 0).toNat
  else v.elems.map fun x => fpOfTile v.geom.type x.toNat

/-- The product of R157: M × K by K × N, with the addend's elements in element order. -/
def matMul (a : List (List Fp)) (cols : List (List Fp)) (old : List Half) : List Half :=
  let n := cols.length
  (List.zip a (List.range a.length)).flatMap fun ar =>
    (List.zip cols (List.range n)).map fun bc =>
      BitVec.ofNat 32 (chunkSum ((old.getD (ar.2 * n + bc.2) 0).toNat) (products ar.1 bc.1))

/-! ## Reductions and scans (R53, R175 to R177) -/

/-- The accumulation type of a value type (R176). -/
def accType (vt : BitVec 5) : Option (BitVec 5) :=
  let n := vt.toNat
  if n = 8 ∨ n = 9 ∨ n = 10 then some 10
  else if n = 1 ∨ n = 3 ∨ n = 5 then some 5
  else if n = 2 ∨ n = 4 ∨ n = 6 ∨ n = 15 then some 6
  else none

/-- Whether an operation is allowed for a value type (R176). -/
def opAllowed (vt : BitVec 5) (op : RedOp) : Bool :=
  let n := vt.toNat
  let arith := op == .add || op == .min || op == .max
  if n = 8 ∨ n = 9 ∨ n = 10 then arith
  else if n = 15 then !(op == .min || op == .max)
  else (accType vt).isSome

/-- Exact widening to the accumulation type. -/
def widen (vt at_ : BitVec 5) (x : Half) : Half :=
  if vt = 15 then x &&& 1 else BitVec.ofNat 32 (convPat vt at_ x.toNat)

/-- One operation of a reduction in the accumulation type. -/
def redApply (op : RedOp) (at_ : BitVec 5) (a b : Half) : Half :=
  let fa := fpRead fp32 false a.toNat
  let fb := fpRead fp32 false b.toNat
  let isFp := at_ == 10
  match op with
  | .add => if isFp then BitVec.ofNat 32 (fpAdd fp32 false fa fb).bits else a + b
  | .min => if isFp then BitVec.ofNat 32 (fpMinMax fp32 false false fa fb).bits
    else if at_ = 5 then (if b.slt a then b else a) else if b.ult a then b else a
  | .max => if isFp then BitVec.ofNat 32 (fpMinMax fp32 false true fa fb).bits
    else if at_ = 5 then (if a.slt b then b else a) else if a.ult b then b else a
  | .and => a &&& b
  | .or => a ||| b
  | .xor => a ^^^ b

/-- The identity of a reduction with no value (R176). -/
def redIdentity (op : RedOp) (at_ : BitVec 5) : Half :=
  match op with
  | .min => if at_ = 10 then 0x7F800000 else if at_ = 5 then 0x7FFFFFFF else 0xFFFFFFFF
  | .max => if at_ = 10 then 0xFF800000 else if at_ = 5 then 0x80000000 else 0
  | .and => 0xFFFFFFFF
  | _ => 0

/-- One level of the pairwise tree. -/
def pairLevel (f : Half → Half → Half) (l : List Half) : List Half :=
  match l with
  | a :: b :: r => f a b :: pairLevel f r
  | l => l

/-- The tree of a chunk, at most `fuel` levels. -/
def treeOf (f : Half → Half → Half) (l : List Half) (fuel : Nat) : Option Half :=
  match fuel with
  | 0 => l.head?
  | k + 1 => match l with
    | [] => none
    | [x] => some x
    | l => treeOf f (pairLevel f l) k

/-- R53 on values in element order with their selection: masked-off values leave their chunk first (R176). -/
def reduceList (op : RedOp) (at_ : BitVec 5) (l : List (Half × Bool)) : Half :=
  let f := redApply op at_
  let parts := (piecesOf 32 l (l.length / 32 + 1)).filterMap fun c =>
    treeOf f ((c.filter Prod.snd).map Prod.fst) 6
  match parts with
  | [] => redIdentity op at_
  | x :: r => r.foldl f x

/-- The scan of one row (R177). -/
def scanRow (op : RedOp) (at_ : BitVec 5) (run : Half) (l : List (Half × Bool)) : List Half :=
  match l with
  | [] => []
  | (x, on) :: r =>
    let y := if on then redApply op at_ run x else run
    y :: scanRow op at_ y r

/-! ## TFILL (R179) -/

/-- The value TFILL writes, as a pattern of td's type. -/
def fillValue (t : BitVec 5) (imm : BitVec 24) : Half :=
  if t = 10 then imm.setWidth 32 <<< 8
  else match numOf t with
  | some (.fp f) => BitVec.ofNat 32 (fpPut f false (fpRead fp32 false (imm.toNat * 256))).bits
  | some (.int sg n) => BitVec.ofNat 32 (wrapInt n (clampInt (intMin sg n) (intMax sg n) imm.toInt))
  | none => if t = 15 then (if imm = 0 then 0 else 1) else if t = 11 then imm.setWidth 32 &&& 0xFF else 0

/-! ## Performing -/

def getVersion (b : Block) (id : Option Nat) : Option Version := id.bind (findVersion b)

/-- The lowest output element that reads a poisoned source element: `out` gives, for each source, the lowest output element that
an element of it goes into (R154). -/
def poisonOut (b : Block) (f : Flight) (out : List (Option Nat × (Nat → Nat))) : Option Nat :=
  minOf (out.flatMap fun p => (badOf b f p.1).map p.2)

/-- A compute instruction writes its whole version; a poisoned element it reads raises UE_DATA at the output element `bad`
(R154). -/
def computeDone (s : State) (f : Flight) (bad : Option Nat) (elems : List Half) (scales : List (BitVec 16)) : State :=
  match bad with
  | some e => consumePoison (setFlight s { f with started := true }) s.me.slot 0 (some f.id) (some e)
  | none => flightDone (setVersion s f.dst fun v => { v with elems := elems, scales := scales }) f

/-- The elements of the addend of an accumulating instruction. -/
def addend (b : Block) (f : Flight) : List Half :=
  match getVersion b f.old with | some v => v.elems | none => []

/-- MMA and the engine form of MMV (R157, R160). -/
def runMatrix (s : State) (f : Flight) : State :=
  match getVersion s.me f.ta, getVersion s.me f.tb with
  | some a, some b =>
    let cols := columnsOf b.geom.cols.toNat (rowsOf b.geom (versionValues b))
    let n := b.geom.cols.toNat
    let bad := poisonOut s.me f [(f.ta, fun e => elemRow a.geom e * n), (f.tb, fun e => e % n), (f.old, id)]
    computeDone s f bad (matMul (rowsOf a.geom (versionValues a)) cols (addend s.me f)) []
  | _, _ => s

/-! ## The understory form of MMV (R161 to R164) -/

/-- Bytes per weight of the region's record. -/
def weightBytes (g : ShapeRec) : Nat := if g.type = 11 then 1 else 2

def scaleVector (g : ShapeRec) : Nat := wrap64 (g.scale.toNat + g.mcol.toInt)

/-- The byte ranges of the region and of the scale vector. -/
def regionRanges (g : ShapeRec) : List (Nat × Nat) :=
  (g.scale.toNat, g.cols.toNat * g.mrow.toNat) ::
    (if g.type = 11 then [(scaleVector g, 2 * g.cols.toNat)] else [])

/-- What translating the region gives: UL missing or two home dies are TYPE, with its TVAL (R162). -/
inductive RegionX where
  | ok (region scale : List Seg)
  | trap (tval : Nat)
  | stop (w : StopWhy)

/-- The translation of a region (R162). All of its pages are translated before UL and the dies are looked at, those of the scale vector
only after these checks (log entry 65). -/
def regionCheck (s : State) (g : ShapeRec) (f : Option Flight := none) : RegionX × State :=
  match accessPages s s.me [(g.scale.toNat, g.cols.toNat * g.mrow.toNat)] .read .tile f with
  | (.stop w, s1) => (.stop w, s1)
  | (.ok region, s1) =>
    match region.find? (fun p => !p.ul) with
    | some p => (.trap p.va, s1)
    | none =>
      let dies := region.map fun p => hbmDie p.pa
      if dies.any (fun d => d) && dies.any (fun d => !d) then (.trap g.scale.toNat, s1)
      else
        match (if g.type = 11 then accessPages s1 s1.me [(scaleVector g, 2 * g.cols.toNat)] .read .tile f
               else (.ok [], s1)) with
        | (.stop w, s2) => (.stop w, s2)
        | (.ok sc, s2) => (.ok region sc, s2)

/-- Every page of these pieces pinned, once (R340). -/
def pinsOf (l : List Seg) : List (Nat × TlbEntry) :=
  l.foldl (fun acc g => if acc.any fun p => p.2 == g.t then acc else acc ++ [(0, g.t)]) []

/-- Whether a poisoned line holds one of the `n` bytes at `va`. -/
def poisonedVia (s : State) (l : List Seg) (va n : Nat) : Bool :=
  l.any fun g =>
    let lo := max va g.va
    let hi := min (va + n) (g.va + g.len)
    decide (lo < hi) && poisonedAt s (g.pa + (lo - g.va)) (hi - lo)

/-- Bytes at the home slice through translated pieces. -/
def homeVia (s : State) (l : List Seg) (va n : Nat) : Nat :=
  leNat ((List.range n).map fun i => match viaSegs l ((va + i) % 2 ^ 64) with | some (pa, _) => memRead s.mem pa | none => 0)

/-- Column `n` of B from memory (R161). -/
def regionColumn (s : State) (g : ShapeRec) (region scale : List Seg) (n : Nat) : List Fp :=
  let sz := weightBytes g
  let sc := if g.type = 11 then homeVia s scale ((scaleVector g + 2 * n) % 2 ^ 64) 2 else 0
  (List.range g.rows.toNat).map fun k =>
    let x := homeVia s region (g.scale.toNat + n * g.mrow.toNat + k * sz) sz
    if g.type = 11 then sp2Weight x sc else fpOfTile g.type x

/-- The lowest column whose weights or scale are poisoned; the padding of a column is not read (R161). -/
def poisonedColumn (s : State) (f : Flight) (g : ShapeRec) (region scale : List Seg) : Option Nat :=
  if s.poison = [] ∨ !raisesError s.me (some f.id) then none
  else (List.range g.cols.toNat).find? fun n =>
    poisonedVia s region (g.scale.toNat + n * g.mrow.toNat) (g.rows.toNat * weightBytes g) ||
      poisonedVia s scale (scaleVector g + 2 * n) 2

/-- The understory form (R163): its pages are those that it pinned at issue (R162), or, where a fault stopped it there, those that it
translates as it runs from its beginning (R345). -/
def runUnderstory (s : State) (f : Flight) : State :=
  match regionCheck s f.shape (some f) with
  | (.stop w, s1) => stopFlight s1 f 0 w
  | (.trap t, s1) => setFlight s1 { f with st := .trapped { cause := .type, tval := BitVec.ofNat 64 t } }
  | (.ok region scale, s1) =>
    match getVersion s1.me f.ta with
    | some a =>
      let bad := minOf ((poisonedColumn s1 f f.shape region scale).toList ++
        (poisonOut s1.me f [(f.ta, fun _ => 0), (f.old, id)]).toList)
      let cols := (List.range f.shape.cols.toNat).map (regionColumn s1 f.shape region scale)
      computeDone s1 f bad (matMul [versionValues a] cols (addend s1.me f)) []
    | none => s1

/-! ## REDUCE, TSCAN, TCVT, TFILL, TMOV -/

/-- The mask's selection, all selected without one. -/
def maskOf (b : Block) (id : Option Nat) (n : Nat) : List Bool :=
  match getVersion b id with
  | some v => v.elems.map fun x => x.getLsbD 0
  | none => List.replicate n true

/-- The values of a reduction, of type `vt`, reduced to td's geometry (R175, R176). -/
def reduceTo (op : RedOp) (vt at_ : BitVec 5) (g dg : ShapeRec) (vals : List Half) (mask : List Bool) : List Half :=
  let l := List.zip (vals.map (widen vt at_)) mask
  if dg.rows = 1 ∧ dg.cols = 1 then [reduceList op at_ l] else (rowsOf g l).map (reduceList op at_)

/-- The lowest output element, by `out`, of the selected source elements and the mask elements that are poisoned (R154, R174). -/
def poisonActive (b : Block) (f : Flight) (mask : List Bool) (out : Nat → Nat) : Option Nat :=
  minOf ((badOf b f f.tc ++ (badOf b f f.ta).filter fun e => mask.getD e true).map out)

def runReduce (s : State) (f : Flight) (op : RedOp) (vt : BitVec 5) (vals : List Half) : State :=
  match getVersion s.me f.ta, getVersion s.me f.dst with
  | some a, some d =>
    let whole := decide (d.geom.rows = 1 ∧ d.geom.cols = 1)
    let bad := poisonActive s.me f (maskOf s.me f.tc a.geom.count) fun e => if whole then 0 else elemRow a.geom e
    computeDone s f bad (reduceTo op vt d.geom.type a.geom d.geom vals (maskOf s.me f.tc a.geom.count)) []
  | _, _ => s

def runScan (s : State) (f : Flight) (op : RedOp) : State :=
  match getVersion s.me f.ta, getVersion s.me f.dst with
  | some a, some d =>
    let l := List.zip (a.elems.map (widen a.geom.type d.geom.type)) (maskOf s.me f.tc a.geom.count)
    computeDone s f (poisonActive s.me f (maskOf s.me f.tc a.geom.count) id) ((rowsOf a.geom l).flatMap (scanRow op d.geom.type (redIdentity op d.geom.type))) []
  | _, _ => s

def runTcvt (s : State) (f : Flight) : State :=
  match getVersion s.me f.ta, getVersion s.me f.dst with
  | some a, some d =>
    computeDone s f (poisonOut s.me f [(f.ta, id)]) (a.elems.map fun x => BitVec.ofNat 32 (convPat a.geom.type d.geom.type x.toNat)) []
  | _, _ => s

/-- TFILL (R179); the scale vector of an SP2 tile is a free value (log entry 16). -/
def runTfill (s : State) (f : Flight) (imm : BitVec 24) : State :=
  match getVersion s.me f.dst with
  | some d =>
    computeDone { s with free := s.free + 1 } f none (List.replicate d.geom.count (fillValue d.geom.type imm))
      (if d.geom.type = 11 then (List.range d.geom.cols.toNat).map (Config.fillScale s.free) else [])
  | none => s

/-- TMOV (R180). The scale vector of an SP2 tile is carried as it is, also into a record with another COLS (log entry 66). -/
def runTmov (s : State) (f : Flight) : State :=
  match getVersion s.me f.ta with
  | some a => computeDone s f (poisonOut s.me f [(f.ta, id)]) a.elems a.scales
  | none => s

end Sys2Proof.Machine
end

