-- ==== Sys2Proof/Machine/Lane.lean ====
section
/-!
DEFINITION. Lane functions (R76, R168 to R172, R182 to R191): the header, strips and registers, what the lane
instructions share, the start of a MAP or a REDUCE with a pre-function, and its strip boundaries.
-/
namespace Sys2Proof.Machine

/-! ## Headers and types (R76, R185, R191) -/

def laneRegs (h : BitVec 32) : Nat :=
  let n := h.extractLsb' 28 4
  if n = 0 then 8 else if n = 1 then 16 else 32

def laneType (h : BitVec 32) : VType :=
  { type := h.extractLsb' 23 5, fzi := h.getLsbD 22, fzo := h.getLsbD 21, xrm := h.extractLsb' 19 2 }

def laneMin (h : BitVec 32) : Nat := (h.extractLsb' 16 3).toNat + 1
def laneLen (h : BitVec 32) : Nat := (h.extractLsb' 0 9).toNat

/-- Bits [9:0] of VTYPE (R191). -/
def VType.code (v : VType) : BitVec 10 :=
  BitVec.ofNat 10 (v.type.toNat * 32 + bit01 v.fzi * 16 + bit01 v.fzo * 8 + v.xrm.toNat * 2)

/-- The code from a lane section's word on, where it is a function's header: functions lie back to back from
offset 0 (R77). -/
def laneFnFrom (l : List (BitVec 32)) (off fuel : Nat) : Option (BitVec 32 × List (BitVec 32)) :=
  match fuel, l with
  | 0, _ => none
  | _, [] => none
  | k + 1, h :: r =>
    if off = 0 then some (h, r.take (laneLen h))
    else if laneLen h + 1 ≤ off then laneFnFrom (r.drop (laneLen h)) (off - (laneLen h + 1)) k
    else none

/-- The lane function at word offset `off` of a kernel (R166). -/
def laneFn (k : Kernel) (off : Nat) : Option (BitVec 32 × List (BitVec 32)) :=
  laneFnFrom k.lanes off (k.lanes.length + 1)

/-- The type in effect at the function's VRET (R167). -/
def typeAfter (t : BitVec 5) (l : List (BitVec 32)) : BitVec 5 :=
  match l with
  | [] => t
  | w :: r => typeAfter (match decodeLane w with | .ok (.vcfg f) => f.ty | _ => t) r

/-- The canonical container of a pattern of a lane type (R185). -/
def canonical (n : Num) (x : Nat) : Half :=
  match n with
  | .int sg b => BitVec.ofNat 32 (wrapInt 32 (readInt sg b x))
  | .fp f => BitVec.ofNat 32 (x % 2 ^ f.width)

/-- A pattern as the current type's integer. -/
def Num.toInt (n : Num) (x : Nat) : Int :=
  match n with | .int sg b => readInt sg b x | .fp f => x % 2 ^ f.width

def isFpNum (n : Num) : Bool := match n with | .fp _ => true | .int _ _ => false

def Num.signed (n : Num) : Bool := match n with | .int sg _ => sg | .fp _ => false

/-! ## Strips (R169, R184 to R188) -/

/-- VLMAX (R184). -/
def vlMax (capl nregs : Nat) : Nat := min (capl / nregs / 32 * 32) 256

/-- The positions an instruction executes (R187). -/
def executed (st : Strip) (g : Guard) : List Bool :=
  match g with
  | none => st.active
  | some k => List.zipWith (fun a b => a && b) st.active (st.p[k.val]'(k.isLt))

def vreg (st : Strip) (r : BitVec 5) : List Half := st.v[r.toNat]'(r.isLt)
def preg (st : Strip) (r : BitVec 5) : List Bool := st.p[r.toNat % 24]'(by omega)
/-- Writes a register: what it held is no FP result any more. -/
def setVreg (st : Strip) (r : BitVec 5) (l : List Half) : Strip :=
  { st with v := st.v.set r.toNat l r.isLt, fp := st.fp.filter fun x => x.reg != r }
def setPreg (st : Strip) (r : BitVec 5) (l : List Bool) : Strip :=
  { st with p := st.p.set (r.toNat % 24) l (by omega) }

/-- The container of register `r` at position `p`, as a number. -/
def at_ (st : Strip) (r : BitVec 5) (p : Nat) : Nat := ((vreg st r).getD p 0).toNat

def repOf (z : RepSize) : Nat := match z with | .r1 => 1 | .r4 => 4 | .r16 => 16 | .r32 => 32

/-- The vb operand at position `p`: the low bits count under the current type (R186). -/
def srcAt (j : LaneJob) (n : Num) (b : LaneSrc) (p : Nat) : Nat :=
  match b with
  | .vec r => at_ j.strip r p
  | .rep r z => at_ j.strip r (p % repOf z)
  | .const c => if c.toNat < 16 then (j.consts[c.toNat % 16]'(by omega)).toNat else 0
  | .imm i => match n with
    | .int _ _ => (i.signExtend 32).toNat
    | .fp f => (fpOfInt f false i.toInt).bits

/-- New contents where executed, the old ones elsewhere. -/
def blend {α : Type} (ex : List Bool) (new : Nat → α) (old : List α) : List α :=
  (List.zip (List.zip ex old) (List.range old.length)).map fun x => if x.1.1 then new x.2 else x.1.2

def strip0 (st : Strip) : List Nat := List.range st.active.length

/-- Flags come only from executed positions (R187). -/
def flagsOf (ex : List Bool) (f : Nat → Flags) : Flags :=
  ((List.zip ex (List.range ex.length)).filter Prod.fst).foldl (fun a x => a ||| f x.2) 0

/-- Writes a result to vd at the executed positions with its flags. -/
def laneSet (st : Strip) (vd : BitVec 5) (g : Guard) (r : Nat → Half) (fl : Nat → Flags) : Strip :=
  let ex := executed st g
  { setVreg st vd (blend ex r (vreg st vd)) with flags := st.flags ||| flagsOf ex fl }

/-- Writes an FP result, which a shadow unit follows (R391). -/
def laneSetFp (st : Strip) (vd : BitVec 5) (g : Guard) (type : BitVec 5) (r : Nat → Half) (fl : Nat → Flags) : Strip :=
  { laneSet st vd g r fl with fp := some ⟨vd, type, executed st g⟩ }

/-- A result that sets no flag. -/
def laneSet0 (st : Strip) (vd : BitVec 5) (g : Guard) (r : Nat → Half) : Strip := laneSet st vd g r fun _ => 0

/-! ## Executing a lane instruction -/

abbrev LaneOut := Host.Outcome State Fault Refusal

/-- The strip goes on behind the instruction. -/
def LaneJob.next (j : LaneJob) (st : Strip) : LaneJob := { j with strip := { st with code := j.strip.code.drop 1 } }

/-- An instruction for which any current type is allowed (R183). -/
def laneAny (s : State) (k : LaneJob → Strip) : LaneOut :=
  match s.lane with
  | none => .fault .noStrip
  | some j => .next { s with lane := some (j.next (k j)) }

/-- An instruction under the current type, where `k` answers none for a type that R183 does not allow it. -/
def laneTyped (s : State) (k : LaneJob → Num → Option Strip) : LaneOut :=
  match s.lane with
  | none => .fault .noStrip
  | some j =>
    match (numOf j.strip.vt.type).bind (k j) with
    | none => .refused .laneType
    | some st => .next { s with lane := some (j.next st) }

/-- VADD to VABS: integers of width n, wrapping (R192). -/
def laneInt (s : State) (f : L3) (op : (sg : Bool) → (n : Nat) → Int → Int → Int) : LaneOut :=
  laneTyped s fun j t =>
    match t with
    | .int sg n => some (laneSet0 j.strip f.vd f.guard fun p =>
        canonical t (wrapInt n (op sg n (t.toInt (at_ j.strip f.va p)) (t.toInt (srcAt j t f.vb p)))))
    | .fp _ => none

/-- The shifts: the pattern of a and the count, vb modulo n (R192). -/
def laneShift (s : State) (f : L3) (op : (n : Nat) → (a c : Nat) → Nat) : LaneOut :=
  laneTyped s fun j t =>
    match t with
    | .int _ n => some (laneSet0 j.strip f.vd f.guard fun p =>
        canonical t (op n (at_ j.strip f.va p % 2 ^ n) (srcAt j t f.vb p % 2 ^ n % n)))
    | .fp _ => none

/-- VAND, VOR, VXOR on patterns of any lane type. -/
def laneBits (s : State) (f : L3) (op : Nat → Nat → Nat) : LaneOut :=
  laneTyped s fun j t => some (laneSet0 j.strip f.vd f.guard fun p =>
    canonical t (op (at_ j.strip f.va p) (srcAt j t f.vb p) % 2 ^ t.bits))

/-- An FP operation of two operands (R195). -/
def laneFp (s : State) (f : L3) (op : FpFmt → Bool → (d a b : Fp) → FRes) : LaneOut :=
  laneTyped s fun j t =>
    match t with
    | .fp m =>
      let vt := j.strip.vt
      let r := fun p => op m vt.fzo (fpRead m vt.fzi (at_ j.strip f.vd p)) (fpRead m vt.fzi (at_ j.strip f.va p))
        (fpRead m vt.fzi (srcAt j t f.vb p))
      some (laneSetFp j.strip f.vd f.guard vt.type (fun p => canonical t (r p).bits) fun p => (r p).flags)
    | .int _ _ => none

/-- An FP operation of one operand (R196, R197); `op` is given the position and the operand's pattern. -/
def laneFp1 (s : State) (f : L2) (op : FpFmt → Bool → Nat → Half → Fp → FRes) : LaneOut :=
  laneTyped s fun j t =>
    match t with
    | .fp m =>
      let vt := j.strip.vt
      let r := fun p => op m vt.fzo p ((vreg j.strip f.va).getD p 0) (fpRead m vt.fzi (at_ j.strip f.va p))
      some (laneSetFp j.strip f.vd f.guard vt.type (fun p => canonical t (r p).bits) fun p => (r p).flags)
    | .int _ _ => none

/-- How a comparison is made: on integers, or on values of which neither is a NaN; `nan` is its result with a
NaN, `quiet` whether a quiet NaN sets no flag (R200). -/
structure CmpOp where
  int : Int → Int → Bool
  fp : Fp → Fp → Bool
  nan : Bool
  quiet : Bool

/-- VCMP (R200). -/
def laneCmp (s : State) (f : L3) (c : CmpOp) : LaneOut :=
  laneTyped s fun j t =>
    let st := j.strip
    let ex := executed st f.guard
    match t with
    | .int _ _ =>
      some (setPreg st f.vd (blend ex (fun p => c.int (t.toInt (at_ st f.va p)) (t.toInt (srcAt j t f.vb p))) (preg st f.vd)))
    | .fp m =>
      let x := fun p => fpRead m st.vt.fzi (at_ st f.va p)
      let y := fun p => fpRead m st.vt.fzi (srcAt j t f.vb p)
      let r := fun p => if (x p).isNaN || (y p).isNaN then c.nan else c.fp (x p) (y p)
      let fl := fun p => if (x p).isNaN || (y p).isNaN then
        (if c.quiet then (x p).nv ||| (y p).nv else flagNV) else 0
      some { setPreg st f.vd (blend ex r (preg st f.vd)) with flags := st.flags ||| flagsOf ex fl }

/-- Predicate logic (R201). -/
def lanePred (s : State) (vd va vb : BitVec 5) (g : Guard) (op : Bool → Bool → Bool) : LaneOut :=
  laneAny s fun j =>
    let st := j.strip
    setPreg st vd (blend (executed st g) (fun p => op ((preg st va).getD p false) ((preg st vb).getD p false))
      (preg st vd))

/-- Patterns moved without being read as numbers (R189, R202). -/
def laneMove (s : State) (vd : BitVec 5) (g : Guard) (x : LaneJob → Num → Nat → Nat) : LaneOut :=
  laneTyped s fun j t => some (laneSet0 j.strip vd g fun p => canonical t (x j t p % 2 ^ t.bits))

/-! ## Running a lane function over a tile (R167 to R172) -/

/-- The register positions that an instruction reads for position `p` (R388): those whose poison the element there consumes. -/
def laneReads (j : LaneJob) (i : Instr) (p : Nat) : List (BitVec 5 × Nat) :=
  match i with
  | .vwmac f | .vfma f => (f.vd, p) :: (f.va, p) :: src f.vb
  | .vadd f | .vsub f | .vmul f | .vmulh f | .vmin f | .vmax f | .vand f | .vor f | .vxor f | .vshl f | .vshr f | .vsra f
  | .vnshr f | .vfadd f | .vfsub f | .vfmul f | .vfmin f | .vfmax f
  | .vcmpEq f | .vcmpNe f | .vcmpLt f | .vcmpGe f | .vcmpLe f | .vcmpGt f => (f.va, p) :: src f.vb
  | .vabs f | .vrcp f | .vrsq f | .vexp2 f | .vlog2 f | .vfcls f => [(f.va, p)]
  | .vcvt f => [(f.va, p)]
  | .vsel f => if (j.strip.p[f.p.val]'(f.p.isLt)).getD p false then [(f.va, p)] else src f.vb
  | .vmov f => src f.vb
  | .vperm f =>
    let q := match f.rep with | none => p | some z => p % repOf z
    let n := match numOf j.strip.vt.type with | some t => t.bits | none => 32
    let k := at_ j.strip f.vb q % 2 ^ n
    (f.vb, q) :: (if k < j.strip.active.length then [(f.va, k)] else [])
  | .vconf f => (f.va, p) :: ((List.range (p % 32)).map fun k => p / 32 * 32 + k).filterMap fun q =>
      if j.strip.active.getD q false then some (f.va, q) else none
  | .vcomp f => if (j.strip.p[f.p.val]'(f.p.isLt)).getD p false then [(f.va, p)] else []
  | .vret va => [(va, p)]
  | _ => []
where
  /-- The positions of a second operand. -/
  src (b : LaneSrc) : List (BitVec 5 × Nat) :=
    match b with | .vec r => [(r, p)] | .rep r z => [(r, p % repOf z)] | .const _ => [] | .imm _ => []

/-- The guard of a lane instruction. -/
def laneGuard (i : Instr) : Guard :=
  match i with
  | .vadd f | .vsub f | .vmul f | .vmulh f | .vmin f | .vmax f | .vand f | .vor f | .vxor f | .vshl f | .vshr f | .vsra f
  | .vnshr f | .vwmac f | .vfadd f | .vfsub f | .vfmul f | .vfma f | .vfmin f | .vfmax f
  | .vcmpEq f | .vcmpNe f | .vcmpLt f | .vcmpGe f | .vcmpLe f | .vcmpGt f => f.guard
  | .vabs f | .vrcp f | .vrsq f | .vexp2 f | .vlog2 f | .vfcls f | .vconf f => f.guard
  | .vcvt f => f.guard
  | .vmov f => f.guard
  | .vidx _ g => g
  | .vperm f => f.guard
  | _ => none

/-- The vector register that a lane instruction writes. -/
def laneDest (i : Instr) : Option (BitVec 5) :=
  match i with
  | .vadd f | .vsub f | .vmul f | .vmulh f | .vmin f | .vmax f | .vand f | .vor f | .vxor f | .vshl f | .vshr f | .vsra f
  | .vnshr f | .vwmac f | .vfadd f | .vfsub f | .vfmul f | .vfma f | .vfmin f | .vfmax f => some f.vd
  | .vabs f | .vrcp f | .vrsq f | .vexp2 f | .vlog2 f | .vfcls f | .vconf f => some f.vd
  | .vcvt f => some f.vd
  | .vsel f => some f.vd
  | .vmov f => some f.vd
  | .vidx vd _ => some vd
  | .vperm f => some f.vd
  | .vcomp f => some f.vd
  | _ => none

/-- The elements at which a lane instruction consumes poison of the lane register file join those that the strip's boundary reports
(R154, R388). -/
def laneHurt (j : LaneJob) (i : Instr) : LaneJob :=
  if j.strip.bad = [] then j
  else
    let ex := executed j.strip (laneGuard i)
    let hit := (List.zip (List.zip j.strip.elems ex) (List.range ex.length)).filterMap fun x =>
      if x.1.2 && (laneReads j i x.2).any fun r => j.strip.bad.contains (r.1, r.2 / 16) then x.1.1 else none
    { j with bad := j.bad ++ hit }

/-- An instruction that writes a whole line clears its poison; one that writes a part of it leaves it poisoned (R388). -/
def laneHeal (ex : List Bool) (i : Instr) (j : LaneJob) : LaneJob :=
  let whole := fun (line : Nat) => match i with | .vcomp _ => true | _ => ((ex.drop (16 * line)).take 16).all id
  { j with strip := { j.strip with bad := j.strip.bad.filter fun x => !(laneDest i == some x.1 && whole x.2) } }

/-- Empty registers of a strip of `n` positions. -/
def emptyStrip (n : Nat) (vt : VType) (code : List (BitVec 32)) : Strip :=
  { lg := 0, elems := List.replicate n none, active := List.replicate n false,
    v := Vector.replicate 32 (List.replicate n 0), p := Vector.replicate 24 (List.replicate n false),
    vt := vt, flags := 0, code := code, ret := none }

/-- An input register of a strip: the active elements' inputs, zero elsewhere (R185). -/
def inputReg (l : List Half) (elems : List (Option Nat)) (active : List Bool) : List Half :=
  List.zipWith (fun e a => match e with | some i => if a then l.getD i 0 else 0 | none => 0) elems active

/-- The input registers of a strip, from register `i` on. -/
def fillInputs (v : Vector (List Half) 32) (ins : List (List Half)) (i : Nat) (elems : List (Option Nat))
    (active : List Bool) : Vector (List Half) 32 :=
  match ins with
  | [] => v
  | l :: r => fillInputs (v.set (i % 32) (inputReg l elems active) (by omega)) r (i + 1) elems active

/-- The next strip: VLMAX elements of the first lane group that has some left (R124, R169). -/
def nextStrip (s : State) (core : BitVec 8) (j : LaneJob) : LaneJob :=
  let lgs := liveLgs s core
  let vl := vlMax (capL s core) (laneRegs j.header)
  let seqOf := fun lg => j.todo.filter fun e => lgOf lgs e == lg
  let lg := (lgs.find? fun lg => (seqOf lg) != []).getD 0
  let es := (seqOf lg).take vl
  let elems := es.map some ++ List.replicate (roundUp es.length 32 - es.length) none
  let active := elems.map fun e => match e with | some i => j.active.getD i false | none => false
  let st0 := emptyStrip elems.length (laneType j.header) j.code
  { j with
    todo := j.todo.filter fun e => !es.contains e
    strip := { st0 with lg := lg, elems := elems, active := active, v := fillInputs st0.v j.inputs 0 elems active } }

/-- Whether a lane function can start a strip (R171). -/
def laneFits (s : State) (core : BitVec 8) (h : BitVec 32) : Bool :=
  vlMax (capL s core) (laneRegs h) != 0 && decide (laneMin h ≤ capLg s core)

/-- OVERCAP for the block's own group (R171, R363). -/
def overcapSelf (s : State) (x : SlotNo) : State :=
  match (getBlock s x).bind fun b => findGroup s b.gid with
  | some g => overcapBand s g
  | none => s

/-- OVERCAP at a strip boundary (R171): the cause of an instruction issued before the cairn ends the group
(R436). -/
def overcapAt (s : State) (x : SlotNo) (flight : Nat) : State :=
  match getBlock s x with
  | some b =>
    if flight < b.cairn.mark then killGroup s b.gid LaunchStatus.capacityExposed.code .capacityExposed
    else overcapSelf s x
  | none => s

/-- A version's elements converted to the header's type, in canonical form (R167, R185). -/
def laneInput (v : Version) (t : BitVec 5) : List Half :=
  match numOf t with
  | some n => v.elems.map fun x => canonical n (convPat v.geom.type t x.toNat)
  | none => v.elems

/-- Input element g × j + i of each output element j (R168). -/
def segOf (l : List Half) (g i e : Nat) : List Half := (List.range e).map fun j => l.getD (g * j + i) 0

/-- Starts the lane engine on an instruction whose sources are DONE: `e` output elements, `g` the segment size,
`ins` the input versions, `mask` the selection. -/
def startLane (s : State) (f : Flight) (h : BitVec 32) (code : List (BitVec 32)) (e g : Nat) (ins : List Version)
    (mask : List Bool) : State :=
  let t := (laneType h).type
  let inputs := if 1 < g then (match ins with | v :: _ => (List.range g).map fun i => segOf (laneInput v t) g i e | [] => [])
    else ins.map fun v => laneInput v t
  let bad := (List.range e).filter fun j =>
    ins.any fun v => v.poison.any fun x => x / g == j && decide (x < g * e)
  let j0 : LaneJob := { slot := s.me.slot, flight := f.id, header := h, code := code, inputs := inputs, active := mask,
                        bad := bad, consts := f.consts, todo := List.range e, out := [],
                        strip := emptyStrip 0 (laneType h) code }
  if laneFits s (slotCore s.me.slot) h then
    let s1 := bringLane (setFlight s { f with started := true }) (slotCore s.me.slot)
    { s1 with lane := some (nextStrip s (slotCore s.me.slot) j0) }
  else overcapAt s s.me.slot f.id

/-- The value of output element `e` that no strip delivered: td's previous version where it has td's geometry,
else zero (R170). It is carried with its poison, which nothing consumes (log entry 86). -/
def mapRest (b : Block) (f : Flight) (e : Nat) : Half :=
  match getVersion b f.old with | some v => v.elems.getD e 0 | none => 0

def lookupOut (l : List (Nat × Half)) (e : Nat) : Option Half := (l.find? fun x => x.1 == e).map Prod.snd

/-- Ends a lane job: the results go to the destination, or into the reduction (R170, R176). -/
def endLane (s : State) (j : LaneJob) : State :=
  match findFlight s.me j.flight with
  | none => { s with lane := none }
  | some f =>
    let vt := j.strip.vt
    let s1 := { s with lane := none }
    let s2 := if s1.me.vtypeOf ≤ f.id then { s1 with me := { s1.me with vtype := vt.code, vtypeOf := f.id } } else s1
    match f.ins with
    | .reduce r => runReduce s2 f r.op vt.type ((List.range j.active.length).map fun e => (lookupOut j.out e).getD 0)
    | _ =>
      let kept := (poisonOf s2.me f.old).filter fun e => (lookupOut j.out e).isNone
      setVersion (computeDone s2 f none ((List.range j.active.length).map fun e => (lookupOut j.out e).getD (mapRest s2.me f e)) [])
        f.dst fun v => { v with poison := kept }

/-- The output element that element `e` of a lane instruction goes into: with a pre-function, that of the reduction (R154, R175). -/
def outputOf (b : Block) (f : Flight) (e : Nat) : Nat :=
  match f.ins, getVersion b f.dst, getVersion b f.ta with
  | .reduce _, some d, some a => if d.geom.rows = 1 ∧ d.geom.cols = 1 then 0 else elemRow a.geom e
  | _, _, _ => e

/-- The lowest output element of some elements of an instruction. -/
def lowestOutput (b : Block) (flight : Nat) (l : List Nat) : Option Nat :=
  match findFlight b flight with | some f => minOf (l.map (outputOf b f)) | none => minOf l

/-- The active elements of a strip. -/
def stripActive (st : Strip) : List Nat :=
  (List.zip st.elems st.active).filterMap fun x => if x.2 then x.1 else none

/-- STRIP_BOUNDARY (R172): poison of the strip's active elements is consumed (R154, R174), its flags join LSTAT (R190), and the next
strip starts, if the capacity allows it (R171), or the instruction ends. Where CAPLG has fallen below the header's minimum meanwhile,
that is OVERCAP too (log entry 87). Leases decide timing only (R51). -/
def stripBoundary (s : State) : State :=
  match s.lane with
  | none => s
  | some j =>
    if j.strip.ret.isNone then s
    else
      let s0 := switchTo s j.slot
      let bad := (stripActive j.strip).filter fun e => j.bad.contains e
      if bad != [] && raisesError s0.me (some j.flight) then
        consumePoison { s0 with lane := none } j.slot 0 (some j.flight) (lowestOutput s0.me j.flight bad)
      else
        let s1 := { s0 with me := { s0.me with lstat := s0.me.lstat ||| j.strip.flags } }
        if j.todo = [] then endLane s1 j
        else if laneFits s1 (slotCore j.slot) j.header then
          { s1 with lane := some (nextStrip s1 (slotCore j.slot) j) }
        else overcapAt { s1 with lane := none } j.slot j.flight

/-! ## The lane function store (R182) -/

def LaneFnEntry.is (e : LaneFnEntry) (core : BitVec 8) (k : BitVec 32) (off : Nat) : Bool :=
  e.core == core && e.kernel == k && e.offset == off

/-- Bytes of a stored function. -/
def laneFnBytes (s : State) (e : LaneFnEntry) : Nat :=
  match (getKernel s e.kernel).bind fun k => laneFn k e.offset with
  | some (h, _) => 4 * (laneLen h + 1)
  | none => 0

/-- The lane function an instruction names, as a word offset. -/
def Instr.laneOff (i : Instr) : Option Nat :=
  match i with
  | .map f => some f.imm.toNat
  | .reduce f => if f.pf then some f.imm.toNat else none
  | _ => none

/-- Whether an instruction in an issue window of the core names the function. -/
def laneFnNamed (s : State) (e : LaneFnEntry) : Bool :=
  (allBlocks s).any fun b => slotCore b.slot == e.core && b.kernel == e.kernel &&
    b.flights.any fun f => f.st != .performed && Instr.laneOff f.ins == some e.offset

/-- Evicts PRESENT functions that no instruction names, least recently used first, until `need` bytes fit. The
list is in the order of use, latest first. -/
def laneEvict (s : State) (core : BitVec 8) (need fuel : Nat) : Option State :=
  let used := ((s.laneFns.filter fun e => e.core == core).map (laneFnBytes s)).foldl (· + ·) 0
  if used + need ≤ 16384 then some s
  else
    match fuel with
    | 0 => none
    | k + 1 =>
      match (s.laneFns.filter fun e => e.core == core && e.present && !laneFnNamed s e).getLast? with
      | none => none
      | some e => laneEvict { s with laneFns := s.laneFns.filter fun x => x != e } core need k

/-- An instruction names a function: the copy is shared, or its fetch starts (R182). -/
def laneName (s : State) (core : BitVec 8) (k : BitVec 32) (off : Nat) : State :=
  match s.laneFns.find? fun e => e.is core k off with
  | some e => { s with laneFns := e :: s.laneFns.filter fun x => x != e }
  | none =>
    let e : LaneFnEntry := ⟨core, k, off, false⟩
    match laneEvict s core (laneFnBytes s e) s.laneFns.length with
    | some s1 => { s1 with laneFns := e :: s1.laneFns }
    | none => s

def lanePresent (s : State) (core : BitVec 8) (k : BitVec 32) (off : Nat) : Bool :=
  s.laneFns.any fun e => e.is core k off && e.present

/-- Performs a MAP, or a REDUCE with a pre-function: it waits for its function and for the lane engine. -/
def runLane (s : State) (f : Flight) (off e g : Nat) (ins : List Version) (mask : List Bool) : State :=
  let core := slotCore s.me.slot
  if (laneOf s core).isSome then s
  else if !lanePresent s core s.me.kernel off then laneName s core s.me.kernel off
  else
    match (getKernel s s.me.kernel).bind fun k => laneFn k off with
    | some (h, code) => startLane s f h code e g ins mask
    | none => s

/-- MAP: a poisoned element of its mask is consumed before a strip starts (R154). -/
def runMap (s : State) (f : Flight) (m : MapF) : State :=
  let g := m.seg.toNat + 1
  match getVersion s.me f.dst with
  | some d =>
    let ins := ([f.ta, f.tb, f.tc].take m.nin.toNat).filterMap (getVersion s.me)
    let mask := if m.me then maskOf s.me f.tc d.geom.count else List.replicate d.geom.count true
    match (if m.me then minOf (badOf s.me f f.tc) else none) with
    | some e => consumePoison (setFlight s { f with started := true }) s.me.slot 0 (some f.id) (some e)
    | none => runLane s f m.imm.toNat d.geom.count g ins mask
  | none => s

/-- REDUCE, with its pre-function where it has one (R175, R176). -/
def runRed (s : State) (f : Flight) (r : RedF) : State :=
  match getVersion s.me f.ta with
  | some a =>
    if r.pf then runLane s f r.imm.toNat a.geom.count 1 [a] (maskOf s.me f.tc a.geom.count)
    else runReduce s f r.op a.geom.type a.elems
  | none => s

end Sys2Proof.Machine
end

