-- ==== Sys2Proof/Machine/SyncTile.lean ====
section
/-!
DEFINITION. How TAMO, TGLK and TSCC perform (R248 to R253), and the reads of TWAITV (R254).
-/
namespace Sys2Proof.Machine

/-! ## TAMO (R248 to R250) -/

/-- Op(u, x) of R248; `none` is SWAP. -/
def tamoOp (op : Option RedOp) (t : BitVec 5) (u x : Nat) : Nat :=
  match op with
  | none => x
  | some o => (redApply o (if t = 10 then 10 else if t = 5 then 5 else 6) (BitVec.ofNat 32 u) (BitVec.ofNat 32 x)).toNat

/-- The pre-combined values c of the elements of one address (R249). -/
def combine (op : Option RedOp) (t : BitVec 5) (c : Nat) (xs : List Nat) : List Nat :=
  match xs with
  | [] => []
  | x :: r => let d := tamoOp op t c x; d :: combine op t d r

/-- One atomic at an address: `es` are its elements in order, `xs` their operands. The answer is the memory's new
value and the fetched values. -/
def atomicOf (op : Option RedOp) (t : BitVec 5) (old : Nat) (es : List Nat) (xs : List Nat) : Nat × List (Nat × Nat) :=
  match xs with
  | [] => (old, [])
  | x :: r =>
    let cs := x :: combine op t x r
    (tamoOp op t old (cs.getLastD x), List.zip es (old :: cs.dropLast.map fun c => tamoOp op t old c))

/-- Distinct addresses in order of first occurrence. -/
def distinct (l : List Nat) : List Nat := (l.foldl (fun acc a => if acc.contains a then acc else acc ++ [a]) [])

/-- The atomics of a chunk whose pages are translated. The last hold of the block on a line ends with its atomic
(R250). -/
def chunkAtomics (s : State) (op : Option RedOp) (l : Layout) (segs : List Seg) (vals : List Half) (es : List Nat) :
    State × List (Nat × Nat) :=
  (distinct (es.map l.addr)).foldl (fun acc a =>
    let mine := es.filter fun e => l.addr e == a
    match viaSegs segs a with
    | none => acc
    | some (pa, _) =>
      let r := atomicOf op l.mt (homeNat acc.1 pa 4) mine (mine.map fun e => (vals.getD e 0).toNat)
      let s1 := homeWrite acc.1 (.block acc.1.me.slot) pa (leBytes 4 r.1)
      ({ s1 with holds := s1.holds.filter fun h => !(h.slot == s1.me.slot && h.line == lineOf pa) }, acc.2 ++ r.2)) (s, [])

/-- The code of a TAMO's operation in an ATOMIC message (R404). -/
def tamoCode (op : Option RedOp) (t : BitVec 5) : Nat :=
  match op with
  | none => 1
  | some .add => if t = 10 then 10 else 0
  | some .min => if t = 10 then 11 else if t = 5 then 3 else 8
  | some .max => if t = 10 then 12 else if t = 5 then 4 else 9
  | some .and => 5
  | some .or => 6
  | some .xor => 7

/-- The atomics of a chunk beyond the package: for each distinct address the pre-combined operand (R404). -/
def farAtomics (op : Option RedOp) (l : Layout) (segs : List Seg) (vals : List Half) (es : List Nat) : List (Nat × ExtOp) :=
  (distinct (es.map l.addr)).filterMap fun a =>
    match viaSegs segs a with
    | some (pa, _) =>
      if regionOf pa = .hbm then none
      else
        let xs := (es.filter fun e => l.addr e == a).map fun e => (vals.getD e 0).toNat
        let c := match xs with | [] => 0 | x :: r => (combine op l.mt x r).getLastD x
        some (pa, .atomic (tamoCode op l.mt) true (leBytes 4 c))
    | none => none

/-- Makes the atomics of a chunk beyond the package; none go on while an answer is to come. -/
def askAtomics (s : State) (f : Flight) (l : List (Nat × ExtOp)) : Bool × State :=
  if l.all fun x => answered s.me (some f.id) (x.1, 4) then
    (true, l.foldl (fun s x => let s1 := useAnswer s (some f.id) (x.1, 4)
      { s1 with me := { s1.me with asks := s1.me.asks.filter fun a => !(a.flight == some f.id && a.pa == x.1) } }) s)
  else (false, l.foldl (fun s x => askOnce s (some f.id) x.1 x.2) s)

/-- Whether PCI Express carries a TAMO on a type to host memory (R399): ADD and SWAP on I32 and N32. -/
def tamoOnHost (op : Option RedOp) (t : BitVec 5) : Bool := (op == none || op == some .add) && t != 10

/-- Whether an element's address lies in host memory that does not admit its atomic. -/
def notOnHost (op : Option RedOp) (l : Layout) (segs : List Seg) (e : Nat) : Bool :=
  match viaSegs segs (l.addr e) with
  | some (pa, _) => regionOf pa == .host && !tamoOnHost op l.mt
  | none => false

/-- Whether a chunk stops at an element whose pages are translated: it consumes poison (R388), or host memory does not admit its
atomic. One whose atomic has gone out is not stopped any more. -/
def stopsAtomic (s : State) (op : Option RedOp) (l : Layout) (segs : List Seg) (f : Flight) (bad : List Nat) (e : Nat) : Option StopWhy :=
  if (match viaSegs segs (l.addr e) with | some (pa, _) => (findAsk s.me (some f.id) (pa, 4)).isSome | none => false) then none
  else if bad.contains e then some (.poison 0)
  else if notOnHost op l segs e then some (.notHere (l.addr e))
  else if raisesError s.me (some f.id) && poisonedVia s segs (l.addr e) 4 then
    some (.poison (match viaSegs segs (l.addr e) with | some (pa, _) => pa | none => 0))
  else none

/-- Whether an element of an earlier chunk that has still to be performed goes to the address of one of `es`: for one address, chunks
apply in increasing order (R249). -/
def overtakes (l : Layout) (f : Flight) (elg : Vector Nat 8) (k : Nat) (es : List Nat) : Bool :=
  let open_ := (List.range (32 * k)).filter fun e =>
    !performedAt f.lgs elg e && !f.skips.contains e && (boundOf l e).isNone
  open_.any fun x => es.any fun e => l.addr x == l.addr e

/-- One chunk of a lane group (R249, R250): all pages of its elements before the first BOUND element, then its elements before
the first at which it stops. It waits where an earlier chunk has still to apply at one of its addresses. -/
def tamoChunk (op : Option RedOp) (l : Layout) (vals : List Half) (bad : List Nat) (f : Flight) (p : Perf) (k : Nat) : Perf :=
  let all := (List.range 32).map (fun i => 32 * k + i) |>.filter fun e => decide (e < l.g.count)
  let lg := lgOf f.lgs (32 * k)
  if p.stopped.contains lg then p
  else
    let todo := all.filter fun e => !performedAt f.lgs p.elg e && !f.skips.contains e
    let es := todo.takeWhile fun e => (boundOf l e).isNone
    if overtakes l f p.elg k es then { p with stopped := lg :: p.stopped }
    else
    match accessRanges p.s (es.flatMap (l.ranges 0)) .atomic .tile false (some { f with pins := p.pins }) with
    | (.stop w, s1) =>
      -- the trap names the element that faults
      let hit := es.find? fun e =>
        match accessPages p.s p.s.me (l.ranges 0 e) .atomic .tile (some { f with pins := p.pins }) with | (.stop _, _) => true | _ => false
      p.stop s1 lg (hit.getD (es.headD (32 * k))) w
    | (.ok segs, s1) =>
      let mine := es.takeWhile fun e => (stopsAtomic s1 op l segs f bad e).isNone
      match askAtomics s1 f (farAtomics op l segs vals mine) with
      | (false, s2) => p.stop s2 lg (es.headD (32 * k)) .wait
      | (true, s1) =>
      let r := chunkAtomics s1 op l segs vals mine
      let s2 := refetch r.1 (mine.flatMap (l.ranges 0))
      let p1 := { p with s := s2, pins := leavePages s2.me.ctx lg (es.flatMap (l.ranges 0)) p.pins,
                         data := r.2.map (fun (v : Nat × Nat) => (v.1, convPat l.mt l.g.type v.2)) ++ p.data }
      match todo.drop mine.length with
      | [] => { p1 with elg := elgSet p.elg lg (posOf f.lgs (all.getLastD 0) + 1) }
      | e :: _ =>
        { p1 with elg := elgSet p.elg lg (posOf f.lgs e) }.stop s2 lg e ((stopsAtomic s1 op l segs f bad e).getD (.bound (l.index e)))

def runTamo (s : State) (f : Flight) (op : Option RedOp) : State :=
  let l := layoutOf s.me f []
  let chunks := List.range ((l.g.count + 31) / 32)
  let p := chunks.foldl (tamoChunk op l (sourceElems s.me f) (badElems s.me f) f) ⟨s, f.elg, [], none, [], f.pins⟩
  endRun { p with data := p.data.mergeSort fun a b => decide (b.1 ≤ a.1) } f fun s _ => s

/-! ## TGLK and TSCC (R251 to R253) -/

/-- Whether a line is among the first 256 lines in element order. -/
def amongFirst (l : Layout) (e : Nat) : Bool :=
  decide ((distinct ((List.range e).map fun i => l.addr i / 64)).length < 256) ||
    (List.range e).any fun i => l.addr i / 64 == l.addr e / 64

/-- Takes the link tag of a line for a block. -/
def takeLink (s : State) (x : SlotNo) (line : Nat) : State :=
  { s with links := ⟨line, x⟩ :: s.links.filter fun t => t.line != line }

/-- Drops a block's links. -/
def clearLinks (s : State) (x : SlotNo) : State := { s with links := s.links.filter fun t => t.slot != x }

/-- TGLK: the gather of TGTH.FULL, which sets FILL, and the links (R252). -/
def runTglk (s : State) (f : Flight) : State :=
  let x := s.me.slot
  let s0 := if f.started then s else clearLinks s x
  let l := layoutOf s.me f []
  let o : ElemOps :=
    { loadOps (slotDie x) l (badElems s.me f) with
      act := fun s segs e =>
        let r := loadAct (slotDie x) l s segs e
        match viaSegs segs (l.addr e) with
        | some (pa, _) => if regionOf pa = .peer then (.error (.notHere (l.addr e)), s) else (r.1, if amongFirst l e then takeLink r.2 x (lineOf pa) else r.2)
        | none => r }
  endRun (performElems o f s0 (List.range l.g.count)) f fun s f => setFill s f f.shape.count

/-- One pass over the elements of a TSCC in their lane groups' sequences: the lines that have an unperformed element no lane group
comes to, where lane groups stop at elements of `stops` and of the lines found so far. -/
def heldLines (l : Layout) (f : Flight) (stops : Nat → Bool) (found : List Nat) : List Nat :=
  ((List.range l.g.count).foldl (fun (acc : List Nat × List Nat) e =>
    let lg := lgOf f.lgs e
    let line := l.addr e / 64
    if performedAt f.lgs f.elg e || f.skips.contains e then acc
    else if acc.1.contains lg || stops e || found.contains line then
      (lg :: acc.1, if acc.2.contains line then acc.2 else line :: acc.2)
    else acc) ([], found)).2

/-- The lines of a TSCC that cannot be performed whole just now (R253; log entry 67). -/
def brokenLines (l : Layout) (f : Flight) (stops : Nat → Bool) (fuel : Nat) (found : List Nat) : List Nat :=
  match fuel with
  | 0 => found
  | k + 1 =>
    let next := heldLines l f stops found
    if next.length = found.length then found else brokenLines l f stops k next

/-- Whether a TSCC stops at an element of its own: BOUND, a page, a held line, poison or a peer's memory. -/
def stopsScatter (s : State) (l : Layout) (f : Flight) (bad : List Nat) (e : Nat) : Bool :=
  (boundOf l e).isSome || bad.contains e ||
  match accessRanges s (l.ranges 0 e) .atomic .tile false (some f) with
  | (.stop _, _) => true
  | (.ok segs, _) => segs.any fun g => regionOf g.pa == .peer

/-- TSCC (R253): all elements of a line are written in one step, where the block holds its link; the mask marks the others. -/
def runTscc (s : State) (f : Flight) : State :=
  let x := s.me.slot
  let l := layoutOf s.me f []
  let vals := sourceElems s.me f
  let bad := badElems s.me f
  let broken := brokenLines l f (stopsScatter s l f bad) l.g.count []
  let o : ElemOps :=
    { bad := bad, bound := boundOf l, ranges := l.ranges 0, unit_ := fun e => e, kind := .atomic, reads := false
      late := fun e => broken.contains (l.addr e / 64) && !stopsScatter s l f bad e
      act := fun s segs e =>
        match viaSegs segs (l.addr e) with
        | none => (.ok none, s)
        | some (pa, _) =>
          if regionOf pa = .peer then (.error (.notHere (l.addr e)), s)
          else if s.links.any fun t => t.line == lineOf pa && t.slot == x then
            (.ok (some 0), refetch (storeElem s (.block x) l segs e (vals.getD e 0).toNat (keptByte l f e)) (l.ranges 0 e))
          else (.ok (some 1), s) }
  endRun (performElems o f s (List.range l.g.count)) f fun s _ => clearLinks s x

/-! ## TWAITV (R254) -/

def condOf (c : Cond) (bits : Nat) (a b : Nat) : Bool :=
  match c with
  | .eq => a == b
  | .ne => a != b
  | .lt => decide (readInt true bits a < readInt true bits b)
  | .ge => decide (readInt true bits b ≤ readInt true bits a)
  | .ltu => decide (a < b)
  | .geu => decide (b ≤ a)

/-- The watched elements that do not yet meet the condition, read at the home slice. -/
def stillPending (s : State) (c : Cond) (l : Layout) (segs : List Seg) (x : List Half) (pending : List Nat) : List Nat :=
  let n := typeBits l.mt
  pending.filter fun e =>
    match viaSegs segs (l.addr e) with
    | some (pa, _) => !condOf c n (homeNat s pa (n / 8)) ((x.getD e 0).toNat % 2 ^ n)
    | none => true

end Sys2Proof.Machine
end

