-- ==== Sys2Proof/Machine/Trail.lean ====
section
/-!
DEFINITION. Sparse tiles (R210 to R213), trails and their cache (R214 to R218), and how MMAS, MMSS, TPAT and
TDENS perform (R219 to R229).
-/
namespace Sys2Proof.Machine

/-! ## Reading -/

/-- Why a sparse instruction stops: an access, or a trap of its own. -/
inductive Halt where
  | access (w : StopWhy)
  | trap (t : TrapInfo)

/-- A read that may stop, with the state it leaves. -/
abbrev Reading (α : Type) := Except Halt α × State

def andThen {α β : Type} (r : Reading α) (k : α → State → Reading β) : Reading β :=
  match r with
  | (.error h, s) => (.error h, s)
  | (.ok a, s) => k a s

/-- An instruction as it stands, with the translations that it has taken so far (R222, R340). -/
def standing (s : State) (f : Flight) : Flight := { f with pins := match findFlight s.me f.id with | some g => g.pins | none => f.pins }

/-- An instruction pins the translations of some pieces (R222, R340). -/
def pinSegs (s : State) (f : Flight) (segs : List Seg) : State :=
  { s with me := modFlight s.me f.id fun g => { g with pins := addPins 0 g.pins segs } }

/-- Translates a range and pins its pages, then makes the access. -/
def accessPinned (s : State) (f : Flight) (va n : Nat) (reads : Bool) : Reading (List Seg) :=
  match accessPages s s.me [(va, n)] .read .tile (some (standing s f)) with
  | (.stop w, s1) => (.error (.access w), s1)
  | (.ok segs, s1) =>
    match accessSegs (pinSegs s1 f segs) segs .read reads (some f) with
    | (.stop w, s2) => (.error (.access w), s2)
    | (.ok _, s2) => (.ok segs, s2)

/-- Reads the bytes of a range as a plain load. Where it is `fresh`, it stands behind the acquire that a descriptor read is for the
structure reads of its compile (R219): copies of the lines that it reads are dropped, but for bound ones (R237). -/
def readX (fresh : Bool) (s : State) (f : Flight) (va n : Nat) : Reading (List Byte) :=
  andThen (accessPinned s f va n true) fun segs s1 =>
    let s2 := if fresh then dropGuests s1 (slotDie s.me.slot) fun line =>
      (segs.any fun g => touchesLine g.pa g.len line) && !boundLine s1 s.me.ctx line else s1
    let r := readVia s2 (slotDie s.me.slot) segs va n
    (.ok r.1, r.2)

def trapX {α : Type} (s : State) (c : Cause) (tval : Nat) : Reading α :=
  (.error (.trap { cause := c, tval := BitVec.ofNat 64 tval }), s)

/-- The `n`-byte little-endian integers of a byte list. -/
def intsOf (n count : Nat) (bs : List Byte) : List Int :=
  (piecesOf n bs count).map fun p => readInt true (8 * n) (leNat p)

/-! ## Descriptors (R210, R211) -/

structure Desc where
  at_ : Nat
  gen : Word
  ptr : Nat
  idx : Nat
  val : Nat
  rows : Nat
  cols : Nat
  valt : Nat
  vpc : Nat
  vpm : Bool
  dirent : Nat
  line : Nat
deriving DecidableEq, Repr

def descOf (a : Nat) (x : Nat) : Desc :=
  { at_ := a, gen := BitVec.ofNat 64 x, ptr := bitsOf x 64 48, idx := bitsOf x 128 48, val := bitsOf x 192 48,
    rows := bitsOf x 256 13, cols := bitsOf x 272 13, valt := bitsOf x 288 5, vpc := bitsOf x 293 3,
    vpm := bitsOf x 296 1 = 1, dirent := bitsOf x 320 48, line := 0 }

/-- The reserved bits and the values of a descriptor (R211). -/
def descBad (x : Nat) (d : Desc) : Bool :=
  bitsOf x 112 16 != 0 || bitsOf x 176 16 != 0 || bitsOf x 240 16 != 0 || bitsOf x 269 3 != 0 || bitsOf x 285 3 != 0 ||
  bitsOf x 297 23 != 0 || bitsOf x 368 144 != 0 ||
  !(d.valt == 8 || d.valt == 9 || d.valt == 16) ||
  (if d.valt = 16 then !(decide (1 ≤ d.vpc) && decide (d.vpc ≤ 5)) else d.vpc != 0 || d.vpm) ||
  !(decide (1 ≤ d.rows) && decide (d.rows ≤ 4096) && decide (1 ≤ d.cols) && decide (d.cols ≤ 4096))

/-- The planes that the plane table must hold (R210). -/
def Desc.pcb (d : Desc) : Nat := if d.vpm && decide (d.vpc < 5) then d.vpc + 1 else d.vpc

def Desc.lp (d : Desc) : ShapeRec := { fmt := BitVec.ofNat 9 (16 + 32 * d.pcb) }

/-- Reads and checks the plane table of LP values (R116, R211). -/
def readTable (s : State) (f : Flight) (d : Desc) : Reading (List Plane) :=
  andThen (readX false s f d.val 64) fun tb s1 =>
    match readPlaneTable d.lp d.val tb with
    | .error t => (.error (.trap t), s1)
    | .ok planes => (.ok planes, s1)

/-- Reads and checks the descriptor at `a`, its plane table included, before any array (R211; log entry 15). It is read at its
home slice, and no older copy of its line stays (R219, R231). -/
def readDesc (s : State) (a : Nat) (f : Flight) : Reading Desc :=
  if a % 64 != 0 then trapX s .strideAlign a
  else
    andThen (accessPinned s f a 64 true) fun segs s1 =>
      let pa := match segs with | g :: _ => g.pa | [] => 0
      let s2 := dropGuests s1 (slotDie s.me.slot) fun line => line == lineOf pa
      let x := homeNat s2 pa 64
      let d := { descOf a x with line := lineOf pa }
      if descBad x d then trapX s2 .type a
      else if d.ptr % 4 != 0 then trapX s2 .strideAlign d.ptr
      else if d.idx % 2 != 0 then trapX s2 .strideAlign d.idx
      else if d.valt != 16 && d.val % 2 != 0 then trapX s2 .strideAlign d.val
      else if d.valt = 16 && d.val % 64 != 0 then trapX s2 .strideAlign d.val
      else if d.valt = 16 then andThen (readTable s2 f d) fun _ s3 => (.ok d, s3)
      else (.ok d, s2)

/-- A sparse handle (R213). -/
def isHandle (g : ShapeRec) : Bool :=
  (g.store == 2 || g.store == 3) && (g.type == 5 || g.type == 6) && g.count == 2

/-- The descriptor address that a handle's version holds. -/
def handleAddr (b : Block) (id : Option Nat) : Nat :=
  match getVersion b id with
  | some v => (v.elems.getD 0 0).toNat + (v.elems.getD 1 0).toNat * 2 ^ 32
  | none => 0

/-! ## Structures (R212, R222) -/

/-- Which operand of an instruction a structure belongs to, as the trap of R222 names it: `base` is 0 for the
first operand and 2 for the second in the element numbers that ERET.ELEM records. -/
structure Operand where
  tile : BitVec 5
  base : Nat
  skips : List Nat
deriving DecidableEq, Repr

/-- BOUND of a structure that is not well formed (R222). The element number stands for the entry or the row. No lane group owns an
entry: TCAUSE names lane group 0, and a column that TCOORD cannot hold is kept modulo 8,192 (log entry 82). -/
def badStructure {α : Type} (s : State) (o : Operand) (elem row : Nat) (col v : Int) : Reading α :=
  (.error (.trap { cause := .bound, tval := BitVec.ofInt 64 v,
                   elem := some ⟨0, elem, o.tile, row, (col % 8192).toNat⟩ }), s)

def Operand.rowOut (o : Operand) (m : Nat) : Bool := o.skips.contains (4 * m + o.base + 1)
def Operand.entryOut (o : Operand) (q : Nat) : Bool := o.skips.contains (4 * q + o.base)

/-- The entries of the rows from `m` on, as (entry, row): rows that ERET.ELEM treats as empty are left out. -/
def rowEntries (o : Operand) (m : Nat) (ptr : List Int) : List (Nat × Nat) :=
  match ptr with
  | a :: b :: r =>
    (if o.rowOut m then [] else (List.range (b.toNat - a.toNat)).map fun i => (a.toNat + i, m)) ++ rowEntries o (m + 1) (b :: r)
  | _ => []

/-- The first row whose pointer falls. -/
def badRow (o : Operand) (m : Nat) (ptr : List Int) : Option (Nat × Int) :=
  match ptr with
  | a :: b :: r => if b < a && !o.rowOut m then some (m, b) else badRow o (m + 1) (b :: r)
  | _ => none

/-- A structure as memory holds it, unchecked: `nnz` is ptr[ROWS], `count` the number of entries whose index and value an
instruction reads. -/
structure RawStructure where
  ptr : List Int
  idx : List Int
  nnz : Nat
  count : Nat
deriving DecidableEq, Repr

/-- How many entries are read: NNZ of them, or as many as the rows name where ERET.ELEM left a falling pointer out. -/
def entryCount (o : Operand) (ptr : List Int) : Nat :=
  let nnz := (ptr.getLastD 0).toNat
  if (ptr.headD 0 ≠ 0 && !o.rowOut 0) || (badRow o 0 ptr).isSome then nnz
  else (rowEntries o 0 ptr).foldl (fun a e => max a (e.1 + 1)) nnz

/-- Reads ptr, then idx (R222): `fresh` for the structure reads of a compile. -/
def readRaw (fresh : Bool) (s : State) (f : Flight) (d : Desc) (o : Operand) : Reading RawStructure :=
  andThen (readX fresh s f d.ptr (4 * (d.rows + 1))) fun pb s1 =>
    let ptr := intsOf 4 (d.rows + 1) pb
    let n := entryCount o ptr
    andThen (readX fresh s1 f d.idx (2 * n)) fun ib s2 =>
      (.ok ⟨ptr, intsOf 2 n ib, (ptr.getLastD 0).toNat, n⟩, s2)

/-- The entries of a well-formed structure as (entry, row, column) in entry order, left-out ones gone; else BOUND (R212, R222). -/
def entriesOf (s : State) (d : Desc) (o : Operand) (r : RawStructure) : Reading (List (Nat × Nat × Nat)) :=
  let p0 := r.ptr.headD 0
  if p0 ≠ 0 && !o.rowOut 0 then badStructure s o (o.base + 1) 0 0 p0
  else
    match badRow o 0 r.ptr with
    | some (m, v) => badStructure s o (4 * m + o.base + 1) m 0 v
    | none =>
      let es := (rowEntries o 0 r.ptr).filter fun e => !o.entryOut e.1
      match es.find? fun e => r.idx.getD e.1 0 < 0 || decide ((d.cols : Int) ≤ r.idx.getD e.1 0) with
      | some e => badStructure s o (4 * e.1 + o.base) e.2 (e.1 - r.ptr.getD e.2 0) (r.idx.getD e.1 0)
      | none => (.ok (es.map fun e => (e.1, e.2, (r.idx.getD e.1 0).toNat)), s)

/-- Paths of R215. -/
inductive SparsePath where
  | trail | dense | outer
deriving DecidableEq, Repr

def SparsePath.code (p : SparsePath) : Nat := match p with | .trail => 0 | .dense => 1 | .outer => 2

/-- Distinct (row, chunk) pairs of entries that stand in row order. -/
def pairCount (es : List (Nat × Nat × Nat)) : Nat :=
  (es.foldl (fun acc e => let p := (e.2.1, e.2.2 / 16); if acc.contains p then acc else p :: acc) []).length

/-- U of R215. -/
def microOps (es : List (Nat × Nat × Nat)) : Nat := es.length + pairCount es + 1

/-- The A-store bytes of a densified tile (R215). -/
def denseSize (rows cols : Nat) : Nat := roundUp (rows * cols * 2) 64

/-- Whether a densified tile can ever fit the block's A-store reservation less the space held (R121, R215). -/
def denseFits (b : Block) (rows cols : Nat) : Bool :=
  decide (denseSize rows cols + sumSizes (b.versions.filter fun v =>
    v.geom.store == 2 && (isCurrent b v || pinned b v.id || heldMessage b v.id)) ≤ reservation b 2)

/-- Whether it fits the free space now. -/
def denseFree (b : Block) (rows cols : Nat) : Bool := decide (denseSize rows cols + usedBytes b 2 ≤ reservation b 2)

/-- The path of an MMAS (R215). -/
def pathOf (b : Block) (rows cols : Nat) (es : List (Nat × Nat × Nat)) : SparsePath :=
  if rows * cols < 2 * es.length ∨ 8192 < microOps es then (if denseFits b rows cols then .dense else .outer)
  else if 256 * es.length < rows * cols then .outer
  else .trail

/-! ## Values (R210, R218) -/

/-- What a replay reads values with. -/
structure ValueSrc where
  base : Nat
  valt : Nat
  vpc : Nat
  vpm : Bool
deriving DecidableEq, Repr

def Desc.values (d : Desc) : ValueSrc := ⟨d.val, d.valt, d.vpc, d.vpm⟩
def ValueSrc.desc (v : ValueSrc) : Desc :=
  { at_ := 0, gen := 0, ptr := 0, idx := 0, val := v.base, rows := 0, cols := 0, valt := v.valt, vpc := v.vpc, vpm := v.vpm,
    dirent := 0, line := 0 }

/-- The value at a stream position of LP planes, rounded to BF16. -/
def lpValue (s : State) (die : Bool) (segs : List Seg) (l : Layout) (q : Nat) : Fp × State :=
  let w := planesWidth l.pc
  let (x, s1) := readPlanes s die l segs q l.pc 0 0
  let sc := (l.plane 0).scale
  if l.readPlanes = l.pc then (fpRead bf16 false (fpPut bf16 false (lpDecode x w sc)).bits, s1)
  else
    let (g, s2) := readPlaneField s1 die l segs q l.pc
    (fpRead bf16 false (fpPut bf16 false (lpGuarded x w (g.testBit (planeBits l.pc - 1)) sc)).bits, s2)

/-- The byte ranges of the values of `n` entries, with the layout of LP planes. -/
def valueRanges (v : ValueSrc) (n : Nat) (planes : List Plane) (early : List EarlyField := []) : Layout × List (Nat × Nat) :=
  let l : Layout := { g := v.desc.lp, a := v.base, mt := 16, planes := planes, pc := v.vpc, guarded := v.vpm, early := early }
  (l, if n = 0 then []
      else if v.valt = 16 then (List.range l.readPlanes).map fun k =>
        ((l.plane k).base, ((l.plane k).boff + n * planeBits k + 7) / 8)
      else [(v.base, 2 * n)])

/-- The planes of LP values, from their table; none otherwise. -/
def valuePlanes (s : State) (f : Flight) (v : ValueSrc) : Reading (List Plane) :=
  if v.valt = 16 then readTable s f v.desc else (.ok [], s)

/-- Translates and pins the values of `n` entries, and the plane table (R222), without reading a value. -/
def locateValues (s : State) (f : Flight) (v : ValueSrc) (n : Nat) : Reading Unit :=
  andThen (valuePlanes s f v) fun pl s1 =>
    match accessPages s1 s1.me (valueRanges v n pl).2 .read .tile (some (standing s1 f)) with
    | (.stop w, s2) => (.error (.access w), s2)
    | (.ok segs, s2) => (.ok (), pinSegs s2 f segs)

/-- Reads the values of the entries `qs` of an array of `n` (R218). -/
def readValues (s : State) (f : Flight) (v : ValueSrc) (n : Nat) (qs : List Nat) : Reading (List (Nat × Fp)) :=
  andThen (valuePlanes s f v) fun pl s1 =>
    let (l, rs) := valueRanges v n pl f.early
    match accessRanges s1 rs .read .tile true (some (standing s1 f)) with
    | (.stop w, s2) => (.error (.access w), s2)
    | (.ok segs, s2) =>
      let one := fun (acc : List (Nat × Fp) × State) q =>
        if v.valt = 16 then
          let x := lpValue acc.2 (slotDie s.me.slot) segs l q
          (acc.1 ++ [(q, x.1)], x.2)
        else
          let x := readVia acc.2 (slotDie s.me.slot) segs (v.base + 2 * q) 2
          (acc.1 ++ [(q, fpOfTile (BitVec.ofNat 5 v.valt) (leNat x.1))], x.2)
      let r := qs.foldl one ([], s2)
      (.ok r.1, r.2)

/-! ## MMAS (R221, R222) -/

/-- A term of an output row: its k and its value. -/
abbrev Terms := List (Nat × Fp)

/-- One output element: the chunks of dense k in order, those without a term left alone (R221). -/
def sparseSum (acc : Nat) (chunks : List (List (Nat × Fp × Fp))) : Nat :=
  chunks.foldl (fun x c => if c.isEmpty then x else chunkStep x (c.map fun p => (fpMulExact p.2.1 p.2.2).1)) acc

def chunksOf (k : Nat) (l : List (Nat × Fp × Fp)) : List (List (Nat × Fp × Fp)) :=
  (List.range ((k + 15) / 16)).map fun c => l.filter fun p => p.1 / 16 == c

/-- The output of an MMAS: `rows` terms per row against the rows of B. -/
def sparseMul (k n : Nat) (rows : List Terms) (b : List (List Fp)) (old : List Half) : List Half :=
  (List.zip rows (List.range rows.length)).flatMap fun rm =>
    (List.range n).map fun c =>
      let l := rm.1.map fun t => (t.1, t.2, (b.getD t.1 []).getD c (.zero false))
      BitVec.ofNat 32 (sparseSum (old.getD (rm.2 * n + c) 0).toNat (chunksOf k l))

/-- A sparse instruction stops, with the translations that it has taken (R340, R376). -/
def haltFlight (s : State) (f : Flight) (h : Halt) : State :=
  match h with
  | .access w => stopFlight s (standing s f) 0 w
  | .trap t => dropAsks (setFlight s { standing s f with st := .trapped t, started := true }) (some f.id)

/-- A structure as a descriptor gives it, with its entries as they were read and checked. -/
def Desc.read (d : Desc) (es : List (Nat × Nat × Nat)) (count : Nat) : SparseRead :=
  { rows := d.rows, cols := d.cols, entries := es, base := d.val, valt := d.valt, vpc := d.vpc, vpm := d.vpm, count := count }

def SparseRead.src (r : SparseRead) : ValueSrc := ⟨r.base, r.valt, r.vpc, r.vpm⟩

/-- The terms of each row of a sparse operand, from its entries' values. -/
def termRows (r : SparseRead) (vals : List (Nat × Fp)) : List Terms :=
  let l := List.zip r.entries (vals.map Prod.snd)
  (List.range r.rows).map fun m => (l.filter fun t => t.1.2.1 == m).map fun t => (t.1.2.2, t.2)

/-- Replays a structure on the operands of an MMAS (R218, R221). -/
def replay (s : State) (f : Flight) (r : SparseRead) : State :=
  match readValues s f r.src r.count (r.entries.map Prod.fst) with
  | (.error h, s1) => haltFlight s1 f h
  | (.ok vals, s1) =>
    match getVersion s1.me f.tb, getVersion s1.me f.dst with
    | some b, some d =>
      let n := d.geom.cols.toNat
      computeDone s1 f (poisonOut s1.me f [(f.ta, fun _ => 0), (f.tb, fun e => e % n), (f.old, id)])
        (sparseMul r.cols n (termRows r vals) (rowsOf b.geom (versionValues b)) (addend s1.me f)) []
    | _, _ => s1

/-! ## The trail cache (R214, R216) -/

def trailBytes (t : Trail) : Nat := roundUp (64 + 8 * microOps (t.entries.map fun e => (0, e.1, e.2))) 64

def cacheBytes (ts : List Trail) (cluster : BitVec 5) : Nat :=
  ((ts.filter fun t => t.cluster == cluster).map trailBytes).foldl (· + ·) 0

/-- Evicts RESIDENT trails, least recently used first, while `need` bytes lack. -/
def trailEvict (ts : List Trail) (cluster : BitVec 5) (need fuel : Nat) : List Trail :=
  match fuel with
  | 0 => ts
  | k + 1 =>
    if cacheBytes ts cluster + need ≤ 524288 then ts
    else
      match (ts.filter fun t => t.cluster == cluster && t.st == .resident).getLast? with
      | none => ts
      | some t => trailEvict (ts.filter fun x => x.no != t.no) cluster need k

def Trail.is (t : Trail) (cluster : BitVec 5) (ctx : BitVec 6) (desc gen : Word) : Bool :=
  t.cluster == cluster && t.ctx == ctx && t.desc == desc && t.gen == gen

/-- The lookup of an identity: never a DOOMED trail. -/
def lookupTrail (s : State) (cluster : BitVec 5) (ctx : BitVec 6) (d : Desc) : Option Trail :=
  s.trails.find? fun t => t.is cluster ctx (BitVec.ofNat 64 d.at_) d.gen && t.st != .doomed

/-- Starts a compile of a structure as read (R216). -/
def startCompile (s : State) (d : Desc) (es : List (Nat × Nat × Nat)) : Trail × State :=
  let t : Trail :=
    { cluster := slotCluster s.me.slot, ctx := s.me.ctx, desc := BitVec.ofNat 64 d.at_, gen := d.gen, st := .compiling,
      rows := d.rows, cols := d.cols, entries := es.map fun e => e.2, valBase := BitVec.ofNat 64 d.val,
      valt := BitVec.ofNat 5 d.valt, vpc := BitVec.ofNat 3 d.vpc, vpm := d.vpm, line := d.line, no := s.free }
  (t, { s with free := s.free + 1, trails := t :: trailEvict s.trails t.cluster (trailBytes t) s.trails.length })

/-- The entries of a trail, numbered. -/
def trailEntries (t : Trail) : List (Nat × Nat × Nat) := List.zip (List.range t.entries.length) t.entries

/-- What a trail captured (R218). -/
def Trail.read (t : Trail) : SparseRead :=
  { rows := t.rows, cols := t.cols, entries := trailEntries t, base := t.valBase.toNat, valt := t.valt.toNat, vpc := t.vpc.toNat
    vpm := t.vpm, count := t.entries.length }

def replayTrail (s : State) (f : Flight) (t : Trail) : State := replay s { f with trail := none } t.read

/-- R220's comparison of the descriptor with the operands. -/
def masFits (b : Block) (f : Flight) (d : Desc) : Bool :=
  match getVersion b f.dst, getVersion b f.tb with
  | some v, some w => v.geom.rows.toNat == d.rows && w.geom.rows.toNat == d.cols
  | _, _ => false

/-- An MMAS that has read its structure and replays it by itself (R215, R222): the tile that the Dense path makes waits for its
space, and that of an earlier attempt is given back first. -/
def replayOwn (s : State) (f : Flight) (r : SparseRead) : State :=
  let f1 := { f with dense := 0, structs := [r] }
  let s1 := setFlight s f1
  match pathOf s1.me r.rows r.cols r.entries with
  | .dense =>
    if denseFree s1.me r.rows r.cols then
      let f2 := { f1 with dense := denseSize r.rows r.cols }
      replay (setFlight s1 f2) f2 r
    else s1
  | _ => replay s1 f1 r

/-- A miss (R215, R216, R222): the structure and the values are translated before a structure that is not well formed traps; then the
path is taken. Entries that an ERET.ELEM left out stay out when the instruction runs again (log entry 83). -/
def missMmas (s : State) (f : Flight) (ta : BitVec 5) (d : Desc) : State :=
  let o : Operand := ⟨ta, 0, f.skips⟩
  match andThen (readRaw true s f d o) fun raw s1 =>
      andThen (locateValues s1 f d.values raw.count) fun _ s2 => andThen (entriesOf s2 d o raw) fun es s3 => (.ok (raw, es), s3) with
  | (.error h, s1) => haltFlight s1 f h
  | (.ok (raw, es), s2) =>
    let f1 := standing s2 f
    if pathOf s2.me d.rows d.cols es = .trail ∧ f.skips = [] then
      let (t, s3) := startCompile s2 d es
      setFlight s3 { f1 with trail := some t.no }
    else replayOwn s2 f1 (d.read es raw.count)

/-- A trail becomes the one used last (R216). -/
def useTrail (ts : List Trail) (no : Nat) : List Trail := (ts.filter fun t => t.no == no) ++ ts.filter fun t => t.no != no

/-- A hit (R216): the trail is replayed, or waited for, with the pages of its values held (R222). -/
def hitMmas (s : State) (f : Flight) (t : Trail) : State :=
  match locateValues { s with trails := useTrail s.trails t.no } f t.read.src t.entries.length with
  | (.error h, s2) => haltFlight s2 f h
  | (.ok _, s2) =>
    let f1 := standing s2 f
    if t.st = .resident then replayTrail s2 f1 t else setFlight s2 { f1 with trail := some t.no }

/-- An MMAS whose sources are DONE (R220 to R222); one whose trail went looks up again, one that has read its structure goes on with
it. -/
def runMmas (s : State) (f : Flight) (ta : BitVec 5) : State :=
  if f.trail.any fun n => s.trails.any fun t => t.no == n then s
  else
    match f.structs with
    | r :: _ => replayOwn s f r
    | [] =>
    let f0 := { f with trail := none }
    match readDesc (setFlight s f0) (handleAddr s.me f.ta) f0 with
    | (.error h, s1) => haltFlight s1 f0 h
    | (.ok d, s1) =>
      if !masFits s1.me f0 d then haltFlight s1 f0 (.trap { cause := .type, tval := BitVec.ofNat 64 d.at_ })
      else
        match (if f.skips = [] then lookupTrail s1 (slotCluster s.me.slot) s.me.ctx d else none) with
        | some t => hitMmas s1 f0 t
        | none => missMmas s1 f0 ta d

/-- The compiles of a cluster that were started before trail `no` hold their space first. -/
def compileFits (s : State) (t : Trail) : Bool :=
  cacheBytes (s.trails.filter fun x => x.st == .resident || decide (x.no ≤ t.no)) t.cluster ≤ 524288

/-- The instructions that wait for a trail, by slot. -/
def trailWaiters (s : State) (no : Nat) : List (SlotNo × Nat) :=
  (allBlocks s).flatMap fun b => (b.flights.filter fun f => f.trail == some no && f.st == .waiting).map fun f => (b.slot, f.id)

/-- TRAIL_COMPILE_COMPLETE (R216): a COMPILING trail becomes RESIDENT, a DOOMED one is freed; each MMAS that
waits replays it, which is a use of it. -/
def compileDone (s : State) (t : Trail) : State :=
  let s1 := { s with trails := trailEvict s.trails t.cluster 0 s.trails.length }
  if !compileFits s1 t then s1
  else
    let ws := trailWaiters s1 t.no
    let s2 := if t.st = .doomed then { s1 with trails := s1.trails.filter fun x => x.no != t.no }
      else { s1 with trails := s1.trails.map fun x => if x.no = t.no then { x with st := .resident } else x }
    ws.foldl (fun s w =>
      let s1 := switchTo { s with trails := useTrail s.trails t.no } w.1
      match findFlight s1.me w.2 with | some f => replayTrail s1 f t | none => s1) s2

/-! ## TPAT and TINV (R224, R225) -/

/-- What a TPAT meets at a range. -/
inductive PatX where
  | clear | ends
  | waits (w : StopWhy) (s : State)

/-- A page that would fault, violate protection or is NS, or a poisoned line, ends a TPAT; a held line or a page that a move has
frozen makes it wait. -/
def patMeets (s : State) (f : Flight) (va n : Nat) : PatX :=
  match accessRanges s [(va, n)] .read .tile true (some f) with
  | (.ok segs, _) => if segs.any Seg.ns then .ends else .clear
  | (.stop (.hold a k), s1) => .waits (.hold a k) s1
  | (.stop .wait, s1) => .waits .wait s1
  | (.stop _, _) => .ends

/-- Goes on with a TPAT where nothing is in its way; otherwise it is done without effect, or waits. -/
def patAfter (s0 s : State) (f : Flight) (va n : Nat) (k : State) : State :=
  match patMeets s f va n with
  | .clear => k
  | .ends => flightDone s0 f
  | .waits w s1 => stopFlight s1 f 0 w

/-- TPAT behind its descriptor: the lookup, and on a miss the compile's reads (R224). -/
def runTpatDesc (s0 s : State) (f : Flight) (d : Desc) : State :=
  let o : Operand := ⟨0, 0, []⟩
  if (lookupTrail s (slotCluster s.me.slot) s.me.ctx d).isSome then flightDone s f
  else
    patAfter s0 s f d.ptr (4 * (d.rows + 1)) <|
      match readX false s f d.ptr (4 * (d.rows + 1)) with
      | (.error _, _) => flightDone s0 f
      | (.ok pb, _) =>
        patAfter s0 s f d.idx (2 * entryCount o (intsOf 4 (d.rows + 1) pb)) <|
          match andThen (readRaw true s f d o) fun raw s1 => entriesOf s1 d o raw with
          | (.error _, _) => flightDone s0 f
          | (.ok es, s2) => flightDone (if pathOf s2.me d.rows d.cols es = .trail then (startCompile s2 d es).2 else s2) f

/-- TPAT (R224): what is in its way ends it without effect and without a trap, a failed check of R211 too. -/
def runTpat (s : State) (f : Flight) : State :=
  let a := f.addr.toNat
  patAfter s s f a 64 <|
    let d0 := match accessRanges s [(a, 64)] .read .tile true (some f) with
      | (.ok (g :: _), s1) => descOf a (homeNat s1 g.pa 64) | _ => descOf a 0
    patAfter s s f d0.val (if d0.valt = 16 then 64 else 0) <|
      match readDesc s a f with
      | (.error _, _) => flightDone s f
      | (.ok d, s1) => runTpatDesc s s1 f d

/-! ## TDENS (R226, R227) -/

def maxRow (rows : Nat) (es : List (Nat × Nat × Nat)) : Nat :=
  (List.range rows).foldl (fun a m => max a (es.filter fun e => e.2.1 == m).length) 0

/-- A count in a field of `w` bits of a directory entry: one that the field cannot hold leaves a free value there (log
entry 70). -/
def directoryField (w x n i : Nat) : Nat := if x < 2 ^ w then x else (Config.directoryField n i).toNat % 2 ^ w

/-- A directory entry (R226). -/
def dirEntry (s : State) (d : Desc) (nnz : Nat) (es : List (Nat × Nat × Nat)) : List Byte :=
  let dens := min 65535 (nnz * 65536 / (d.rows * d.cols))
  leBytes 8 (1 + (pathOf s.me d.rows d.cols es).code * 2 ^ 8 + dens * 2 ^ 10 +
      directoryField 13 (maxRow d.rows es) s.free 0 * 2 ^ 26 + directoryField 25 nnz s.free 1 * 2 ^ 39) ++
    leBytes 8 (d.gen.toNat % 65536 + d.at_ * 2 ^ 16)

/-- TDENS (R227): the descriptor, ptr and idx are read as plain loads (R219), again where it runs again (R345). -/
def runTdens (s : State) (f : Flight) (t : BitVec 5) : State :=
  let o : Operand := ⟨t, 0, f.skips⟩
  match andThen (readDesc s (handleAddr s.me f.ta) f) fun d s1 =>
      andThen (readRaw false s1 f d o) fun raw s2 =>
        andThen (entriesOf s2 d o raw) fun es s3 => (.ok (d, raw.nnz, es), s3) with
  | (.error h, s1) => haltFlight s1 f h
  | (.ok (d, nnz, es), s1) =>
    match accessRanges s1 [(f.addr.toNat, 16)] .write .tile false (some (standing s1 f)) with
    | (.stop w, s2) => haltFlight s2 { f with structs := [d.read es nnz] } (.access w)
    | (.ok segs, s2) =>
      let pa := match segs with | g :: _ => g.pa | [] => 0
      let s3 := refetch (sendSegs (homeWrite s2 (.block s2.me.slot) pa (dirEntry s2 d nnz es)) f segs) [(f.addr.toNat, 16)]
      flightDone { s3 with free := s3.free + 1 } f

/-! ## MMSS (R228) -/

/-- The pairs of an output row of A with the rows of B, by column: (k, A's value, B's value). -/
def pairTerms (a : Terms) (b : List Terms) (n : Nat) : List (Nat × Fp × Fp) :=
  a.flatMap fun t => ((b.getD t.1 []).filter fun u => u.1 == n).map fun u => (t.1, t.2, u.2)

/-- R228's comparisons: the descriptor at fault, or none. -/
def mssMismatch (g : ShapeRec) (a b : Desc) : Option Nat :=
  if a.cols ≠ b.rows then some b.at_
  else if a.rows ≠ g.rows.toNat then some a.at_
  else if b.cols ≠ g.cols.toNat then some b.at_
  else none

/-- An operand of an MMSS with its pages translated and pinned: its descriptor and its structure, unchecked (R222). -/
structure SparseOperand where
  d : Desc
  o : Operand
  raw : RawStructure

def locateOperand (s : State) (f : Flight) (d : Desc) (o : Operand) : Reading SparseOperand :=
  andThen (readRaw false s f d o) fun raw s1 =>
    andThen (locateValues s1 f d.values raw.count) fun _ s2 => (.ok ⟨d, o, raw⟩, s2)

/-- The rows of a sparse operand, with its values. -/
def operandRows (s : State) (f : Flight) (r : SparseRead) : Reading (List Terms) :=
  andThen (readValues s f r.src r.count (r.entries.map Prod.fst)) fun vals s1 => (.ok (termRows r vals), s1)

/-- Both operands of an MMSS (R222, R228): the descriptors and their comparisons, then every page, then the structures' checks. -/
def readBoth (s : State) (f : Flight) (ta tb : BitVec 5) (g : ShapeRec) : Reading (SparseRead × SparseRead) :=
  andThen (readDesc s (handleAddr s.me f.ta) f) fun a s1 =>
    andThen (readDesc s1 (handleAddr s1.me f.tb) f) fun b s2 =>
      match mssMismatch g a b with
      | some t => trapX s2 .type t
      | none =>
        andThen (locateOperand s2 f a ⟨ta, 0, f.skips⟩) fun xa s3 =>
          andThen (locateOperand s3 f b ⟨tb, 2, f.skips⟩) fun xb s4 =>
            andThen (entriesOf s4 a xa.o xa.raw) fun ea s5 =>
              andThen (entriesOf s5 b xb.o xb.raw) fun eb s6 => (.ok (a.read ea xa.raw.count, b.read eb xb.raw.count), s6)

/-- The values of both operands, and the result (R221, R228). -/
def multiplyBoth (s : State) (f : Flight) (g : ShapeRec) (a b : SparseRead) : State :=
  match andThen (operandRows s f a) fun ra s1 => andThen (operandRows s1 f b) fun rb s2 => (.ok (ra, rb), s2) with
  | (.error h, s1) => haltFlight s1 f h
  | (.ok (ra, rb), s1) =>
    let old := addend s1.me f
    let n := g.cols.toNat
    let out := (List.zip ra (List.range ra.length)).flatMap fun rm =>
      (List.range n).map fun c =>
        BitVec.ofNat 32 (sparseSum (old.getD (rm.2 * n + c) 0).toNat (chunksOf a.cols (pairTerms rm.1 rb c)))
    computeDone s1 f (poisonOut s1.me f [(f.ta, fun _ => 0), (f.tb, fun _ => 0), (f.old, id)]) out []

/-- MMSS (R228): both structures and both value arrays are read at every execution, as plain loads. -/
def runMmss (s : State) (f : Flight) (ta tb : BitVec 5) : State :=
  match getVersion s.me f.dst, f.structs with
  | some v, a :: b :: _ => multiplyBoth s f v.geom a b
  | some v, _ =>
    match readBoth s f ta tb v.geom with
    | (.error h, s1) => haltFlight s1 f h
    | (.ok (a, b), s1) => multiplyBoth s1 { standing s1 f with structs := [a, b] } v.geom a b
  | none, _ => s

end Sys2Proof.Machine
end

