-- ==== Sys2Proof/Machine/Order.lean ====
section
/-!
DEFINITION. Order between the tile instructions of a block (R122, R125, R129, R219, R235, R382), and performing
them: each waits for its sources and for the earlier accesses it must follow.
-/
namespace Sys2Proof.Machine

/-! ## Order within the block (R122, R125, R129, R382) -/

/-- A range of bytes that an instruction accesses, and whether it writes them. -/
structure Foot where
  va : Nat
  len : Nat
  write : Bool
deriving DecidableEq, Repr

/-- Whether an instruction writes memory. -/
def Instr.writesMemory (i : Instr) : Bool :=
  match i with
  | .tst _ | .tsct _ | .topt _ | .tscc _ | .bcopy _ | .tdens _ _ => true
  | .tamoAdd _ | .tamoMin _ | .tamoMax _ | .tamoAnd _ | .tamoOr _ | .tamoXor _ | .tamoSwap _ => true
  | _ => false

/-- The bytes at `n` from `va` as the context's tables map them now, without any effect; `none` where a page of
theirs does not translate. -/
def peek (s : State) (ctx : BitVec 6) (va n : Nat) : Option (List Byte) :=
  (List.range n).mapM fun i =>
    match walk s ctx ((va + i) % 2 ^ 64) with
    | .leaf l _ => some (memRead s.mem (l.frame * 4096 + (va + i) % (4096 * 512 ^ l.level)))
    | .fault _ _ _ => none

/-- A plane table as memory holds it, without any effect. -/
def peekTable (s : State) (ctx : BitVec 6) (g : ShapeRec) (a : Nat) : Option (List Plane) :=
  (peek s ctx a 64).bind fun bs => (readPlaneTable g a bs).toOption

/-- The plane table of an instruction: as it was read, else as memory holds it. -/
def peekPlanes (s : State) (b : Block) (f : Flight) : Option (List Plane) :=
  match f.planes with | some p => some p | none => peekTable s b.ctx f.shape f.addr.toNat

/-- Whether two accesses share a byte. -/
def footsMeet (s : State) (ctx : BitVec 6) (a b : Foot) : Bool := bytesMeet s ctx (a.va, a.len) (b.va, b.len)

/-- What the instructions of a block's stream access, oldest first; none for one whose bytes are not known yet. -/
abbrev Footprints := List (Flight × Option (List Foot))

/-- Whether memory already holds what an instruction behind these will read at `n` bytes: none of them may still write there
(R219). -/
def settled (s : State) (b : Block) (before : Footprints) (va n : Nat) : Bool :=
  before.all fun p => !(p.1.memPending && Instr.writesMemory p.1.ins) ||
    match p.2 with
    | some l => l.all fun u => !u.write || !footsMeet s b.ctx u ⟨va, n, false⟩
    | none => false

/-- What `peek` finds at bytes that are settled. -/
def peekSettled (s : State) (b : Block) (before : Footprints) (va n : Nat) : Option (List Byte) :=
  if settled s b before va n then peek s b.ctx va n else none

def readFoot (r : Nat × Nat) : Foot := ⟨r.1, r.2, false⟩

/-- The values of `n` entries: the bytes that are read there, and the layout of LP planes. -/
def valueFoot (s : State) (b : Block) (before : Footprints) (v : ValueSrc) (n : Nat) : Option (List Foot × Layout) :=
  if v.valt = 16 then
    (peekSettled s b before v.base 64).map fun tb =>
      match (readPlaneTable v.desc.lp v.base tb).toOption with
      | some planes => let x := valueRanges v n planes; (⟨v.base, 64, false⟩ :: x.2.map readFoot, x.1)
      | none => ([⟨v.base, 64, false⟩], {  g := {}, a := 0, mt := 0 })
  else let x := valueRanges v n []; some (x.2.map readFoot, x.1)

/-- The trail that an MMAS would replay: the one it waits for, else the one that its descriptor hits. -/
def trailOf (s : State) (b : Block) (f : Flight) (d : Desc) : Option Trail :=
  match f.trail.bind fun n => s.trails.find? fun t => t.no == n with
  | some t => some t
  | none => if f.skips = [] then lookupTrail s (slotCluster b.slot) b.ctx d else none

/-- A sparse operand at the descriptor address `a` as memory holds it (R219): the bytes that are read, and where its values lie. -/
def peekSparse (s : State) (b : Block) (before : Footprints) (f : Flight) (a base : Nat) : Option (List Foot × ValueSrc × Nat) :=
  (peekSettled s b before a 64).bind fun bs =>
    let d := descOf a (leNat bs)
    if descBad (leNat bs) d then some ([⟨a, 64, false⟩], d.values, 0)
    else
      (peekSettled s b before d.ptr (4 * (d.rows + 1))).bind fun pb =>
        let n := entryCount ⟨0, base, f.skips⟩ (intsOf 4 (d.rows + 1) pb)
        (valueFoot s b before d.values n).bind fun x =>
          let own : List Foot := [⟨a, 64, false⟩, ⟨d.ptr, 4 * (d.rows + 1), false⟩, ⟨d.idx, 2 * n, false⟩] ++ x.1
          match (match f.ins with | .mmas _ => trailOf s b f d | _ => none) with
          | some t => (valueFoot s b before t.read.src t.entries.length).map fun y => (own ++ y.1, t.read.src, t.entries.length)
          | none => some (own, d.values, n)

/-- What a sparse instruction reads for its operand (R219): its structure may have been read already. -/
def sparseFoot (s : State) (b : Block) (before : Footprints) (f : Flight) (second : Bool) : Option (List Foot × ValueSrc × Nat) :=
  match f.structs[bit01 second]? with
  | some r => (valueFoot s b before r.src r.count).map fun x => (x.1, r.src, r.count)
  | none =>
    match (if second then f.tb else f.ta).bind (findVersion b) with
    | some v => if v.done then peekSparse s b before f (handleAddr b (some v.id)) (if second then 2 else 0) else none
    | none => none

/-- The version an instruction reads its indices from is DONE, or it reads none. -/
def indexKnown (b : Block) (f : Flight) : Bool :=
  match f.tb.bind (findVersion b) with | some v => v.done | none => f.tb.isNone

/-- The footprint of an indexed or strided access of record `f.shape`. -/
def elemFoot (s : State) (b : Block) (before : Footprints) (f : Flight) (write : Bool) : Option (List Foot) :=
  if !indexKnown b f then none
  else
    match (if f.shape.memType = 16 then
        (if f.planes.isSome || settled s b before f.addr.toNat 64 then peekPlanes s b f else none) else some []) with
    | none => none
    | some p =>
      let l := layoutOf b f p
      let n := if write then max l.g.pcb l.readPlanes else l.readPlanes
      let es := (List.range l.g.count).filter fun e => (boundOf l e).isNone
      some ((if l.mt = 16 then [⟨f.addr.toNat, 64, false⟩] else []) ++
        (if f.shape.type = 11 && !write then [⟨f.shape.scale.toNat, 2 * f.shape.cols.toNat, false⟩] else []) ++
        es.flatMap fun e => (l.ranges n e).map fun r => ⟨r.1, r.2, write⟩)

/-- The bytes an instruction of the tile memory stream accesses (R382), behind those before it: none where they are not known
yet. -/
def footprintIn (s : State) (b : Block) (before : Footprints) (f : Flight) : Option (List Foot) :=
  match f.ins with
  | .tcb c => some [⟨f.addr.toNat, 16 * c.n.toNat, false⟩]
  | .bcopy c => some [⟨f.addr2.toNat, c.len.toNat, false⟩, ⟨f.addr.toNat, c.len.toNat, true⟩]
  | .tdens _ _ => (sparseFoot s b before f false).map fun x => ⟨f.addr.toNat, 16, true⟩ :: x.1
  | .mmas _ => (sparseFoot s b before f false).map Prod.fst
  | .mmss _ => (sparseFoot s b before f false).bind fun x => (sparseFoot s b before f true).map fun y => x.1 ++ y.1
  | .tpat _ => (peekSparse s b before f f.addr.toNat 0).map Prod.fst
  | .mmv _ => some ((regionRanges f.shape).map readFoot)
  | _ => elemFoot s b before f (Instr.writesMemory f.ins)

/-- The footprints of the instructions of a block older than `id`. -/
def footprintsTo (s : State) (b : Block) (id : Nat) : Footprints :=
  (b.flights.filter fun g => g.inStream && decide (g.id < id)).foldl (fun acc g => acc ++ [(g, footprintIn s b acc g)]) []

/-- The bytes an instruction of the tile memory stream accesses, none where they are not known yet. -/
def footprint (s : State) (b : Block) (f : Flight) : Option (List Foot) := footprintIn s b (footprintsTo s b f.id) f

/-- Whether two instructions of the stream access a common byte, at least one of them writing where `p` says so; `unknown` is the answer
where the bytes of one are not known yet. -/
def shareByte (s : State) (b : Block) (g f : Flight) (unknown : Bool) (p : Foot → Foot → Bool) : Bool :=
  match footprint s b g, footprint s b f with
  | some x, some y => x.any fun u => y.any fun v => p u v && footsMeet s b.ctx u v
  | _, _ => unknown

/-- Whether R125 orders the later instruction `f` behind the unperformed `g`. -/
def ordered125 (s : State) (b : Block) (g f : Flight) (unknown : Bool := true) : Bool :=
  (Instr.writesMemory g.ins || Instr.writesMemory f.ins) && shareByte s b g f unknown fun u v => u.write || v.write

/-- Whether an instruction's trap is handled or held. -/
def Flight.isTrapped (f : Flight) : Bool := match f.st with | .trapped _ => true | _ => false

/-- Whether two reads of one byte keep their order (R231). A trapped load holds no load of the handler back: that would wait for the
ERET behind it (R382; log entry 71). -/
def ordered231 (s : State) (b : Block) (g f : Flight) : Bool :=
  !(g.isTrapped && f.inHandler) && shareByte s b g f true fun _ _ => true

/-- Whether every access the block issued earlier has been performed (R235); at SYSTEM scope the writes beyond the package are
acknowledged too. -/
def releaseDone (s : State) (b : Block) (sc : Scope) : Bool :=
  b.posted.isEmpty && !(b.flights.any fun f => f.memPending) &&
  (sc != .system || !(s.requests.any fun r =>
    r.write && (match r.agent with | .group _ x _ => x == b.slot | _ => false)))

/-- Whether a version an instruction reads is DONE. -/
def versionDone (b : Block) (id : Option Nat) : Bool :=
  match id with
  | none => true
  | some i => match findVersion b i with | some v => v.done | none => true

/-- Whether `f` must wait for the earlier, unperformed `g` (R125, R231, R235). -/
def waitsFor (s : State) (b : Block) (g f : Flight) : Bool :=
  g.memPending && f.inStream && decide (g.id < f.id) &&
    (Instr.aqBit g.ins || ordered125 s b g f || ordered231 s b g f || Instr.rlBit f.ins)

/-- Whether an earlier instruction still produces the version that `f` accumulates into in place (R158). -/
def waitsInPlace (b : Block) (f : Flight) : Bool :=
  f.inPlace && b.flights.any fun g => decide (g.id < f.id) && g.dst == f.dst && g.st != .performed

/-- Whether an instruction issues to the matrix engine (R17). -/
def Flight.onMatrix (f : Flight) : Bool :=
  match f.ins with | .mma _ => true | .mmv _ => f.tb.isSome | .mmas _ => true | .mmss _ => true | _ => false

/-- Whether a waiting instruction may perform now. The current clamp holds the matrix engine's work back (R20). -/
def ready (s : State) (b : Block) (f : Flight) : Bool :=
  f.st == .waiting && !(s.ctl.clampActive && f.onMatrix) && !(f.trail.any fun n => s.trails.any fun t => t.no == n) &&
  !waitsInPlace b f && f.reads.all (fun i => versionDone b (some i)) &&
  !(b.flights.any fun g => waitsFor s b g f) &&
  !(Instr.rlBit f.ins && !(releaseDone s
    { b with posted := b.posted.filter fun p => decide (p.mark ≤ f.id), flights := b.flights.filter fun g => decide (g.id < f.id) }
    (Instr.scopeOf f.ins)))

/-- Whether `f` reads or accumulates into a version that `g` produces (R122, R158). -/
def readsFrom (g f : Flight) : Bool :=
  (f.reads.any fun i => g.dst == some i || g.dst2 == some i) || (f.inPlace && f.dst == g.dst)

/-- Whether `f` waits for `g` in the tile dependency table or under R125, as far as the bytes are known (R382). -/
def behind (s : State) (b : Block) (g f : Flight) : Bool :=
  decide (g.id < f.id) && (readsFrom g f || (g.memPending && f.inStream && ordered125 s b g f false))

/-- The instructions that cannot go on before the ERET (R99): those whose trap is handled or held and those that wait on one of them
in the tile dependency table or under R125, in program order. One that only its RL, an earlier AQ or the order of two loads holds back
is not among them. -/
def stuckFrom (s : State) (b : Block) (l : List Flight) (acc : List Flight) : List Flight :=
  match l with
  | [] => acc
  | f :: r => stuckFrom s b r (if f.isTrapped || (f.st == .waiting && acc.any fun g => behind s b g f) then acc ++ [f] else acc)

def stuckFlights (s : State) (b : Block) : List Flight := stuckFrom s b b.flights []

/-! ## Pages ahead of performing, and element checks (R340, R378) -/

/-- An address on each page of some bytes. -/
def rangePages (va n : Nat) : List Nat :=
  ((List.range (n / 4096 + 2)).map fun i => if i = 0 then va % 2 ^ 64 else (va / 4096 + i) * 4096 % 2 ^ 64).filter fun a =>
    a == va % 2 ^ 64 || decide ((a + 2 ^ 64 - va % 2 ^ 64) % 2 ^ 64 < n)

/-- The layout of an instruction's operand as far as it is known before it performs. -/
def peekLayout (s : State) (b : Block) (f : Flight) : Option Layout :=
  if f.shape.memType = 16 then (peekPlanes s b f).map (layoutOf b f)
  else if indexKnown b f then some (layoutOf b f []) else none

/-- The kind of an instruction's accesses to its elements; TOPT writes only planes that change (R142). -/
def Instr.elemKind (i : Instr) : AccKind :=
  match i with
  | .tst _ | .tsct _ => .write
  | .tscc _ => .atomic
  | .tamoAdd _ | .tamoMin _ | .tamoMax _ | .tamoAnd _ | .tamoOr _ | .tamoXor _ | .tamoSwap _ => .atomic
  | _ => .read

/-- The elements that an instruction has still to perform; of a TLDFF only the first can fault (R131), of a windowed gather those that
are outstanding (R133). -/
def elemsLeft (s : State) (f : Flight) : List Nat :=
  let es := match f.ins with
    | .tldff _ => [0]
    | .tgth _ => outstanding s f
    | _ => List.range f.shape.count
  es.filter fun e => !performedAt f.lgs f.elg e && !f.skips.contains e

/-- The pages that an instruction of the block whose turn it is has still to access for a lane group, by an address on each, in the
order of its sequence, with the kind of access: none where they are not known yet. -/
def pageNeeds (s : State) (f : Flight) (lg : Nat) : Option (List (Nat × AccKind)) :=
  let whole := fun (k : AccKind) (r : Nat × Nat) => if lg = 0 then (rangePages r.1 r.2).map fun a => (a, k) else []
  match f.ins with
  | .tcb c => some (whole .read (f.addr.toNat, 16 * c.n.toNat))
  | .bcopy c => some (whole .read (f.addr2.toNat, c.len.toNat) ++ whole .write (f.addr.toNat, c.len.toNat))
  | .mmv _ => some ((regionRanges f.shape).flatMap (whole .read))
  | i => (peekLayout s s.me f).map fun l =>
      let n := if Instr.writesMemory i then max l.g.pcb l.readPlanes else l.readPlanes
      let es := elemsLeft s f
      let es := match i, es.head? with
        | .tgth _, some e0 => es.filter fun e => l.addr e / 1024 == l.addr e0 / 1024
        | _, _ => es
      (if f.shape.type = 11 && !Instr.writesMemory i then whole .read (f.shape.scale.toNat, 2 * f.shape.cols.toNat) else []) ++
        ((es.filter fun e => lgOf f.lgs e == lg && (boundOf l e).isNone).flatMap (l.ranges n)).flatMap fun r =>
          (rangePages r.1 r.2).map fun a => (a, Instr.elemKind i)

/-- Whether a lane group holds a translation that serves an access. -/
def pinServes (b : Block) (f : Flight) (lg : Nat) (x : Nat × AccKind) : Bool :=
  decide (x.1 < 2 ^ 48) && f.pins.any fun p => p.1 == lg && p.2.covers b.ctx (x.1 / 4096) && (x.2 == .read || p.2.w)

/-- Whether memory beyond the package, on a page that an instruction holds, does not admit its atomic (R399, R404). -/
def pinRefuses (f : Flight) : Bool :=
  f.pins.any fun p =>
    match f.ins, regionOf (p.2.frame.toNat * 4096) with
    | .tglk _, .peer | .tscc _, .peer => true
    | .tamoAdd _, .host | .tamoSwap _, .host => f.shape.memType == 10
    | .tamoMin _, .host | .tamoMax _, .host | .tamoAnd _, .host | .tamoOr _, .host | .tamoXor _, .host => true
    | _, _ => false

/-- Whether an instruction of the stream of the block whose turn it is has passed its element checks (R378): its plane table is read,
no element left is out of bounds, and it holds every page left; an MMAS, MMSS or TDENS has read its structure. A TPAT raises
nothing. -/
def checksPassed (s : State) (f : Flight) : Bool :=
  match f.st, f.ins with
  | .performed, _ => true
  | .trapped _, _ => false
  | _, .tpat _ => true
  | _, .mmas _ => f.trail.isSome || f.structs != []
  | _, .mmss _ | _, .tdens _ _ => f.structs != []
  | .faulted _, _ => false
  | .waiting, .mmv _ =>
    (pageNeeds s f 0).any (fun l => l.all (pinServes s.me f 0)) && match (regionCheck s f.shape (some f)).1 with | .ok _ _ => true | _ => false
  | .waiting, i =>
    let isElem := match i with | .tcb _ | .bcopy _ => false | _ => true
    ((List.range 8).all fun lg => (pageNeeds s f lg).any fun l => l.all (pinServes s.me f lg)) && !pinRefuses f &&
      (!isElem || (f.shape.memType != 16 || f.planes.isSome) &&
        (peekLayout s s.me f).any fun l => (elemsLeft s f).all fun e => (boundOf l e).isNone)

/-- Whether an earlier tile instruction of the block whose turn it is can still raise a handler cause (R378), among those that `p`
names. -/
def checksOpen (s : State) (p : Flight → Bool) : Bool := s.me.flights.any fun f => f.memPending && p f && !checksPassed s f

end Sys2Proof.Machine
end

