-- ==== Sys2Proof/Machine/Perform.lean ====
section
/-!
DEFINITION. Performing and completing issued tile instructions (R122, R148, R149), and issuing one: the place in
the tile dependency table, the counters and tags it takes.
-/
namespace Sys2Proof.Machine

/-! ## Performing -/

/-- The tables a CB3 load consumes, in ring order: none for one that has still to arrive (R139). -/
def tablesOf (s : State) (f : Flight) : List (Option (Vector (BitVec 16) 8)) :=
  (s.cbs.filter fun t => t.slot == s.me.slot && t.by_ == some f.id).map fun t => if t.arrived then t.data else none

/-- TLD (R127). -/
def runTld (s : State) (f : Flight) : State := runLoad s { f with tables := tablesOf s f } allElems fun s _ => s

/-- TLDFF (R131). -/
def runTldff (s : State) (f : Flight) : State :=
  runLoad s { f with tables := tablesOf s f } ffLimit fun s f => setFill s f (f.first.getD 0)

/-- TLDW (R145): a prefetched tile is delivered, else the tile is loaded. -/
def runTldw (s : State) (f : Flight) (w : BitVec 3) : State :=
  let x := streamOf s.me w
  let hit := x.prefetched.find? fun p =>
    decide (p.index = f.addr2.toNat) && x.copy == f.shape &&
      decide (wrap64 (x.base.toNat + p.index * x.stride.toInt) = f.addr.toNat)
  match (if f.started then none else hit) with
  | some p =>
    let keep := { x with prefetched := x.prefetched.filter fun q => decide (f.addr2.toNat < q.index) }
    let s1 := { s with me := setStream s.me w keep }
    flightDone (setVersion s1 f.dst fun v => { v with elems := p.elems, scales := p.scales }) f
  | none => runTld s f

/-- The operation of a TAMO; the inner `none` is SWAP. -/
def Instr.tamoOp (i : Instr) : Option (Option RedOp) :=
  match i with
  | .tamoAdd _ => some (some .add) | .tamoMin _ => some (some .min) | .tamoMax _ => some (some .max)
  | .tamoAnd _ => some (some .and) | .tamoOr _ => some (some .or) | .tamoXor _ => some (some .xor)
  | .tamoSwap _ => some none
  | _ => none

/-- Performs a waiting instruction of the block whose turn it is. -/
def performFlight (s : State) (f : Flight) : State :=
  match f.ins with
  | .tld _ => runTld s f
  | .tldff _ => runTldff s f
  | .tst _ => runStore s f
  | .tsct _ => runStore s f
  | .tgth _ => runWindow s f
  | .tgthFull _ => runLoad s f allElems fun s f => setFill s f f.shape.count
  | .tldw _ w => runTldw s f w
  | .tcb c => runTcb s f c.n.toNat
  | .topt _ => runTopt s f
  | .bcopy c => runBcopy s f c.len.toNat
  | .mma _ => runMatrix s f
  | .mmv _ => if f.tb.isSome then runMatrix s f else runUnderstory s f
  | .map m => runMap s f m
  | .reduce r => runRed s f r
  | .tcvt _ _ => runTcvt s f
  | .tfill _ imm => runTfill s f imm
  | .tmov _ _ => runTmov s f
  | .tscan c => runScan s f c.op
  | .mmas m => runMmas s f m.ta
  | .mmss m => runMmss s f m.ta m.tb
  | .tpat _ => runTpat s f
  | .tdens t _ => runTdens s f t
  | .tglk _ => runTglk s f
  | .tscc _ => runTscc s f
  | i =>
    match Instr.tamoOp i with
    | some op => runTamo s f op
    | none => s

/-- An instruction that is in no counter and writes no version is complete when it has performed. -/
def dropSilent (s : State) : State :=
  { s with me := { s.me with flights := s.me.flights.filter fun f =>
      !(f.st == .performed && f.kind == .none && f.dst.isNone) } }

/-- Performs a waiting instruction if nothing it depends on is outstanding. -/
def tryPerform (s : State) (id : Nat) : State :=
  match findFlight s.me id with
  | some f => if ready s s.me f then dropSilent (performFlight s f) else s
  | none => s

/-- Performs what can perform, in program order. -/
def drain (s : State) : State := (s.me.flights.map Flight.id).foldl tryPerform s

/-! ## Completing -/

/-- Whether another instruction of the block still writes version `v`. -/
def otherWriter (b : Block) (f : Flight) (v : Nat) : Bool :=
  b.flights.any fun g => g.id != f.id && (g.dst == some v || g.dst2 == some v)

/-- A version becomes DONE with the last instruction that writes it (R122, R158). -/
def markDone (b : Block) (f : Flight) (v : Option Nat) : Block :=
  match v with
  | some i => if otherWriter b f i then b else modVersion b i fun x => { x with done := true }
  | none => b

/-- Messages that wait for a version take their contents when it is DONE (R273). -/
def fillMessages (s : State) (x : Block) (v : Version) : State :=
  let fill := fun (b : Block) =>
    { b with channels := b.channels.map fun c =>
        { c with untaken := c.untaken.map fun m =>
            if c.sender == x.peer && sameBand b x && m.version == v.id && m.content.isNone
            then { m with content := some v } else m } }
  { s with me := fill s.me, others := s.others.map fill }

/-- Fills the messages that hold any DONE version of the block whose turn it is. -/
def publish (s : State) : State :=
  (s.me.versions.filter fun v => v.done).foldl (fun s v => fillMessages s s.me v) s

/-- A performed instruction completes: its versions are DONE, its counter and tag fall, what waits for it may
perform, and a block that stops or exits may be drained. -/
def completeFlight (s : State) (f : Flight) : State :=
  let b := retireFlight (markDone (markDone s.me f f.dst) f f.dst2) f
  let s1 := publish { s with me := b }
  let s2 := { s1 with me := reap s1 s1.me }
  let s3 := if s2.defer then s2 else drain s2
  settleStop s3 s3.me.slot

/-! ## Issuing -/

/-- The lane constants of R168: the registers that fields 48 to 63 name. -/
def laneConsts (s : State) : Vector Word 16 := Vector.ofFn fun (i : Fin 16) => getS s (BitVec.ofNat 6 (48 + i.val))

/-- Whether an instruction is in the issue window (R85): issued and not yet performed, but for one that has left the window to
trap (R376; log entry 63). -/
def Flight.inWindow (f : Flight) : Bool := match f.st with | .performed => false | .trapped _ => false | _ => true

/-- Whether the issue window is full (R85): nothing issues. While a handler runs, the instructions that cannot go on before its ERET
hold no place, for else it would never come to it (log entry 63). -/
def windowFull (s : State) (b : Block) : Bool :=
  let stuck := if b.inHandler then stuckFlights s b else []
  decide (32 ≤ (b.flights.filter fun f => f.inWindow && !(stuck.any fun g => g.id == f.id)).length)

/-- An instruction of the handler that would read a version which an instruction whose trap is handled or held still produces, or
access bytes that R125 orders behind it (R382). -/
def handlerStuck (s : State) (f : Flight) : Bool :=
  s.me.inHandler && s.me.flights.any fun g => g.isTrapped && behind s { s.me with flights := s.me.flights ++ [f] } g f

/-- Puts an instruction into the tile dependency table (R122, R148, R149) and moves on; the version it writes has
been allocated. -/
def launchFlight (s : State) (f : Flight) : State :=
  let f1 := { f with
    id := s.me.nextId, lgs := liveLgs s (slotCore s.me.slot), inHandler := s.me.inHandler }
  if handlerStuck s f1 then doubleTrap s .doubleFault
  else
    let b := s.me
    let tags := match f1.tag with | some g => b.tags &&& ~~~(BitVec.twoPow 64 g.toNat) | none => b.tags
    let b1 := { b with flights := b.flights ++ [f1], nextId := b.nextId + 1, tags := tags }
    let s1 := advance { s with me := b1 }
    if s1.defer then s1 else drain s1

/-- The tag of a TE, TAG pair. -/
def tagOf (te : Bool) (g : BitVec 6) : Option (BitVec 6) := if te then some g else none

end Sys2Proof.Machine
end

