-- ==== Sys2Proof/Machine/Scalar.lean ====
section
/-!
DEFINITION. Scalar integer instructions (R87 to R90).
-/
namespace Sys2Proof.Machine

open Host (Outcome)

def Width.bits (w : Width) : Nat := match w with | .w64 => 64 | .w32 => 32 | .w16 => 16 | .w8 => 8

/-- The W code (R60). -/
def Width.code (w : Width) : Nat := match w with | .w64 => 0 | .w32 => 1 | .w16 => 2 | .w8 => 3

/-- The operations of R88 on two sources. -/
inductive AluOp where
  | add | sub | mul | mulhs | mulhu | divs | divu | rems | remu | and | or | xor | andn | shl | shrl | shra | min | max | minu | maxu | slt | sltu | sel
deriving DecidableEq, Repr

/-- Quotient and remainder rounded toward zero, with the corners of R89. -/
def divRes (a b allOnes : Int) : Int := if b = 0 then allOnes else Int.tdiv a b
def remRes (a b : Int) : Int := if b = 0 then a else Int.tmod a b

/-- The result of R88 before the write of R87: `x` and `y` are the sources cut to `n` bits, `old` is all of sd. -/
def aluRes (op : AluOp) (n x y : Nat) (old : Word) : Int :=
  let sx := readInt true n x
  let sy := readInt true n y
  let c := y % n
  match op with
  | .add => x + y
  | .sub => (x : Int) - y
  | .mul => x * y
  | .mulhs => sx * sy / 2 ^ n
  | .mulhu => x * y / 2 ^ n
  | .divs => divRes sx sy (-1)
  | .divu => divRes x y (2 ^ n - 1)
  | .rems => remRes sx sy
  | .remu => remRes x y
  | .and => (x &&& y : Nat)
  | .or => (x ||| y : Nat)
  | .xor => (x ^^^ y : Nat)
  | .andn => (x &&& (2 ^ n - 1 - y) : Nat)
  | .shl => (x * 2 ^ c : Nat)
  | .shrl => (x / 2 ^ c : Nat)
  | .shra => sx / 2 ^ c
  | .min => min sx sy
  | .max => max sx sy
  | .minu => min x y
  | .maxu => max x y
  | .slt => if sx < sy then 1 else 0
  | .sltu => if x < y then 1 else 0
  | .sel => if old = 0 then y else x

/-- The low `n` bits of a result, sign-extended (R87). -/
def signWrite (n : Nat) (v : Int) : Word := BitVec.ofInt 64 (readInt true n (wrapInt n v))

/-- A scalar ALU result as it is written to sd (R87). -/
def alu (op : AluOp) (w : Width) (a b old : Word) : Word :=
  signWrite (Width.bits w) (aluRes op (Width.bits w) (a.toNat % 2 ^ Width.bits w) (b.toNat % 2 ^ Width.bits w) old)

/-- Writes a result to sd and completes. -/
def writeBack (s : State) (sd : BitVec 6) (v : Word) : State := advance (setS s sd v)

/-- An S3 instruction of MAJ 0x01. -/
def runS3 (op : AluOp) (f : S3) (s : State) : Outcome State Fault Refusal :=
  .next (writeBack s f.sd (alu op f.w (getS s f.sa) (getS s f.sb) (getS s f.sd)))

/-- An SI instruction of MAJ 0x02: the second source is the sign-extended immediate (R87). -/
def runSI (op : AluOp) (f : SI) (s : State) : Outcome State Fault Refusal :=
  .next (writeBack s f.sd (alu op f.w (getS s f.sa) (f.imm.signExtend 64) (getS s f.sd)))

/-- Leading zero bits of an `n`-bit value (R88). -/
def clzRes (n x : Nat) : Nat := if x = 0 then n else n - 1 - Nat.log2 x

/-- Trailing zero bits of an `n`-bit value, found in at most `n` steps. -/
def ctzRes (n x : Nat) : Nat :=
  match n with
  | 0 => 0
  | k + 1 => if x % 2 = 1 then 0 else 1 + ctzRes k (x / 2)

/-- The number of 1 bits among the low `n`. -/
def popRes (n x : Nat) : Nat :=
  match n with
  | 0 => 0
  | k + 1 => x % 2 + popRes k (x / 2)

def runS2 (g : Nat → Nat → Nat) (f : S2) (s : State) : Outcome State Fault Refusal :=
  let n := Width.bits f.w
  .next (writeBack s f.sd (signWrite n (g n ((getS s f.sa).toNat % 2 ^ n))))

/-- ADD (R88). -/
def execAdd (f : S3) (s : State) : Outcome State Fault Refusal := runS3 .add f s
/-- SUB (R88). -/
def execSub (f : S3) (s : State) : Outcome State Fault Refusal := runS3 .sub f s
/-- MUL (R88). -/
def execMul (f : S3) (s : State) : Outcome State Fault Refusal := runS3 .mul f s
/-- MULHS (R88). -/
def execMulhs (f : S3) (s : State) : Outcome State Fault Refusal := runS3 .mulhs f s
/-- MULHU (R88). -/
def execMulhu (f : S3) (s : State) : Outcome State Fault Refusal := runS3 .mulhu f s
/-- DIVS (R88, R89). -/
def execDivs (f : S3) (s : State) : Outcome State Fault Refusal := runS3 .divs f s
/-- DIVU (R88, R89). -/
def execDivu (f : S3) (s : State) : Outcome State Fault Refusal := runS3 .divu f s
/-- REMS (R88, R89). -/
def execRems (f : S3) (s : State) : Outcome State Fault Refusal := runS3 .rems f s
/-- REMU (R88, R89). -/
def execRemu (f : S3) (s : State) : Outcome State Fault Refusal := runS3 .remu f s
/-- AND (R88). -/
def execAnd (f : S3) (s : State) : Outcome State Fault Refusal := runS3 .and f s
/-- OR (R88). -/
def execOr (f : S3) (s : State) : Outcome State Fault Refusal := runS3 .or f s
/-- XOR (R88). -/
def execXor (f : S3) (s : State) : Outcome State Fault Refusal := runS3 .xor f s
/-- ANDN (R88). -/
def execAndn (f : S3) (s : State) : Outcome State Fault Refusal := runS3 .andn f s
/-- SHL (R88). -/
def execShl (f : S3) (s : State) : Outcome State Fault Refusal := runS3 .shl f s
/-- SHRL (R88). -/
def execShrl (f : S3) (s : State) : Outcome State Fault Refusal := runS3 .shrl f s
/-- SHRA (R88). -/
def execShra (f : S3) (s : State) : Outcome State Fault Refusal := runS3 .shra f s
/-- MIN (R88). -/
def execMin (f : S3) (s : State) : Outcome State Fault Refusal := runS3 .min f s
/-- MAX (R88). -/
def execMax (f : S3) (s : State) : Outcome State Fault Refusal := runS3 .max f s
/-- MINU (R88). -/
def execMinu (f : S3) (s : State) : Outcome State Fault Refusal := runS3 .minu f s
/-- MAXU (R88). -/
def execMaxu (f : S3) (s : State) : Outcome State Fault Refusal := runS3 .maxu f s
/-- SLT (R88). -/
def execSlt (f : S3) (s : State) : Outcome State Fault Refusal := runS3 .slt f s
/-- SLTU (R88). -/
def execSltu (f : S3) (s : State) : Outcome State Fault Refusal := runS3 .sltu f s
/-- SEL (R88). -/
def execSel (f : S3) (s : State) : Outcome State Fault Refusal := runS3 .sel f s
/-- ADD with an immediate (R87, R88). -/
def execAddImm (f : SI) (s : State) : Outcome State Fault Refusal := runSI .add f s
/-- SUB with an immediate (R87, R88). -/
def execSubImm (f : SI) (s : State) : Outcome State Fault Refusal := runSI .sub f s
/-- MUL with an immediate (R87, R88). -/
def execMulImm (f : SI) (s : State) : Outcome State Fault Refusal := runSI .mul f s
/-- MULHS with an immediate (R87, R88). -/
def execMulhsImm (f : SI) (s : State) : Outcome State Fault Refusal := runSI .mulhs f s
/-- MULHU with an immediate (R87, R88). -/
def execMulhuImm (f : SI) (s : State) : Outcome State Fault Refusal := runSI .mulhu f s
/-- DIVS with an immediate (R87, R88). -/
def execDivsImm (f : SI) (s : State) : Outcome State Fault Refusal := runSI .divs f s
/-- DIVU with an immediate (R87, R88). -/
def execDivuImm (f : SI) (s : State) : Outcome State Fault Refusal := runSI .divu f s
/-- REMS with an immediate (R87, R88). -/
def execRemsImm (f : SI) (s : State) : Outcome State Fault Refusal := runSI .rems f s
/-- REMU with an immediate (R87, R88). -/
def execRemuImm (f : SI) (s : State) : Outcome State Fault Refusal := runSI .remu f s
/-- AND with an immediate (R87, R88). -/
def execAndImm (f : SI) (s : State) : Outcome State Fault Refusal := runSI .and f s
/-- OR with an immediate (R87, R88). -/
def execOrImm (f : SI) (s : State) : Outcome State Fault Refusal := runSI .or f s
/-- XOR with an immediate (R87, R88). -/
def execXorImm (f : SI) (s : State) : Outcome State Fault Refusal := runSI .xor f s
/-- ANDN with an immediate (R87, R88). -/
def execAndnImm (f : SI) (s : State) : Outcome State Fault Refusal := runSI .andn f s
/-- SHL with an immediate (R87, R88). -/
def execShlImm (f : SI) (s : State) : Outcome State Fault Refusal := runSI .shl f s
/-- SHRL with an immediate (R87, R88). -/
def execShrlImm (f : SI) (s : State) : Outcome State Fault Refusal := runSI .shrl f s
/-- SHRA with an immediate (R87, R88). -/
def execShraImm (f : SI) (s : State) : Outcome State Fault Refusal := runSI .shra f s
/-- MIN with an immediate (R87, R88). -/
def execMinImm (f : SI) (s : State) : Outcome State Fault Refusal := runSI .min f s
/-- MAX with an immediate (R87, R88). -/
def execMaxImm (f : SI) (s : State) : Outcome State Fault Refusal := runSI .max f s
/-- MINU with an immediate (R87, R88). -/
def execMinuImm (f : SI) (s : State) : Outcome State Fault Refusal := runSI .minu f s
/-- MAXU with an immediate (R87, R88). -/
def execMaxuImm (f : SI) (s : State) : Outcome State Fault Refusal := runSI .maxu f s
/-- SLT with an immediate (R87, R88). -/
def execSltImm (f : SI) (s : State) : Outcome State Fault Refusal := runSI .slt f s
/-- SLTU with an immediate (R87, R88). -/
def execSltuImm (f : SI) (s : State) : Outcome State Fault Refusal := runSI .sltu f s
/-- SEL with an immediate (R87, R88). -/
def execSelImm (f : SI) (s : State) : Outcome State Fault Refusal := runSI .sel f s
/-- CLZ (R88). -/
def execClz (f : S2) (s : State) : Outcome State Fault Refusal := runS2 clzRes f s
/-- CTZ (R88). -/
def execCtz (f : S2) (s : State) : Outcome State Fault Refusal := runS2 ctzRes f s
/-- POPC (R88). -/
def execPopc (f : S2) (s : State) : Outcome State Fault Refusal := runS2 popRes f s

/-- MOVI (R90). -/
def execMovi (f : SdImm) (s : State) : Outcome State Fault Refusal :=
  .next (writeBack s f.sd (f.imm.signExtend 64))
/-- MOVHI (R90): bits [31:0] of sd are kept. -/
def execMovhi (f : SdImm) (s : State) : Outcome State Fault Refusal :=
  .next (writeBack s f.sd (f.imm ++ (getS s f.sd).extractLsb' 0 32))

end Sys2Proof.Machine
end

