-- ==== Sys2Proof/Machine/TileSetup.lean ====
section
/-!
DEFINITION. Shape records, tile names, capacity queries, streams, counters and tags (R111, R112, R120, R123, R144,
R148 to R151).
-/
namespace Sys2Proof.Machine

open Host (Outcome)

/-! ## HSET and HGET (R112) -/

/-- Writes the low bits of a word into a field. -/
def putField (r : ShapeRec) (x : ShapeField) (v : Word) : ShapeRec :=
  match x with
  | .rows => { r with rows := v.setWidth 13 }
  | .cols => { r with cols := v.setWidth 13 }
  | .type => { r with type := v.setWidth 5 }
  | .store => { r with store := v.setWidth 2 }
  | .pitch => { r with pitch := v.setWidth 17 }
  | .mrow => { r with mrow := v.setWidth 40 }
  | .mcol => { r with mcol := v.setWidth 40 }
  | .fmt => { r with fmt := v.setWidth 9 }
  | .limit => { r with limit := v.setWidth 32 }
  | .scale => { r with scale := v }
  | .fill => { r with fill := v.setWidth 32 }

/-- Reads a field: MROW and MCOL are sign-extended, every other field zero-extended. -/
def getField (r : ShapeRec) (x : ShapeField) : Word :=
  match x with
  | .rows => r.rows.setWidth 64
  | .cols => r.cols.setWidth 64
  | .type => r.type.setWidth 64
  | .store => r.store.setWidth 64
  | .pitch => r.pitch.setWidth 64
  | .mrow => r.mrow.signExtend 64
  | .mcol => r.mcol.signExtend 64
  | .fmt => r.fmt.setWidth 64
  | .limit => r.limit.setWidth 64
  | .scale => r.scale
  | .fill => r.fill.setWidth 64

/-- Writes a field of a record; an HSET of FILL replaces what earlier gathers will set (R131). -/
def setField (b : Block) (h : BitVec 4) (x : ShapeField) (v : Word) : Block :=
  let b1 := setShape b h (putField (shapeOf b h) x v)
  if x = .fill then { b1 with fillWait := supersede b1.fillWait h fun _ => true } else b1

/-- HSET (R112). -/
def execHset (f : HField) (s : State) : Outcome State Fault Refusal :=
  .next (advance { s with me := setField s.me f.h f.field (getS s f.sa) })

/-- Whether an HGET of FILL waits for a gather that has not set it (R131). -/
def fillPending (b : Block) (h : BitVec 4) : Bool := b.fillWait.any fun w => w.2.1 == h

/-- HGET (R112, R131): a wait of the handler on an instruction held by a trap is DOUBLE_FAULT (R382). -/
def execHget (f : HField) (s : State) : Outcome State Fault Refusal :=
  if f.field = .fill ∧ fillPending s.me f.h then
    let stuck := (stuckFlights s s.me).map Flight.id
    if s.me.inHandler ∧ s.me.fillWait.any (fun w => w.2.1 == f.h && stuck.contains w.1) then
      .next (doubleTrap s .doubleFault)
    else .next s
  else .next (writeBack s f.sa (getField (shapeOf s.me f.h) f.field))

/-! ## Names (R119, R120) -/

/-- TBIND (R120). -/
def execTbind (t : BitVec 5) (h : BitVec 4) (s : State) : Outcome State Fault Refusal :=
  .next (advance { s with me := reap s (setName s.me t (some ⟨h, none⟩)) })

/-- TDROP (R120). -/
def execTdrop (t : BitVec 5) (s : State) : Outcome State Fault Refusal :=
  .next (advance { s with me := reap s (setName s.me t none) })

/-! ## TQRY (R123) -/

/-- A capacity or the reservation, as selectors 0 to 6 give it. -/
def query (s : State) (q : QuerySel) : Word :=
  let core := slotCore s.me.slot
  match q with
  | .capw => BitVec.ofNat 64 (capStore s core 0)
  | .capa => BitVec.ofNat 64 (capStore s core 1)
  | .capc => BitVec.ofNat 64 (capStore s core 2)
  | .capl => BitVec.ofNat 64 (capL s core)
  | .caplg => BitVec.ofNat 64 (capLg s core)
  | .capl2 => BitVec.ofNat 64 (capL2 s (slotDie s.me.slot))
  | .reservation => s.me.rsv

/-- TQRY (R123). -/
def execTqry (sa : BitVec 6) (q : QuerySel) (s : State) : Outcome State Fault Refusal :=
  .next (writeBack s sa (query s q))

/-! ## Streams (R144) -/

/-- WBIND (R144). -/
def execWbind (f : WbindF) (s : State) : Outcome State Fault Refusal :=
  let x : Stream :=
    { base := getS s f.sa, stride := getS s f.sb, count := f.count, depth := f.depth, copy := shapeOf s.me f.h,
      source := f.h, consumed := 0, prefetched := [] }
  .next (advance { s with me := setStream s.me f.w x })

/-! ## Counters and tags (R148 to R151) -/

/-- COUNT against a limit of WAITC: 63 is none (R150). -/
def withinLimit (b : Block) (k : CounterKind) (lim : BitVec 6) : Bool := lim == 63 || decide (countOf b k ≤ lim.toNat)

def waitcHolds (b : Block) (f : WaitcF) : Bool :=
  withinLimit b .ldq f.ld && withinLimit b .stq f.st && withinLimit b .cpq f.cp && withinLimit b .opq f.op

/-- Completes, or parks to try again (R84). -/
def parkUnless (s : State) (c : Bool) : State := if c then advance s else parkOn s .counters

/-- WAITC (R150). -/
def execWaitc (f : WaitcF) (s : State) : Outcome State Fault Refusal := .next (parkUnless s (waitcHolds s.me f))

def tagsOfMask (m : Word) : List Nat := (List.range 64).filter fun g => m.getLsbD g

def allIdle (b : Block) (m : Word) : Bool := (tagsOfMask m).all fun g => tagCount b (BitVec.ofNat 6 g) == 0

/-- WAITT.ALL (R151). -/
def execWaittAll (sa : BitVec 6) (s : State) : Outcome State Fault Refusal :=
  .next (parkUnless s (allIdle s.me (getS s sa)))

/-- WAITT.ANY (R151). -/
def execWaittAny (sa : BitVec 6) (s : State) : Outcome State Fault Refusal :=
  let m := getS s sa
  .next (parkUnless s (m &&& s.me.tags != 0 || allIdle s.me m))

/-- TAGFF (R151). -/
def execTagff (sd sa : BitVec 6) (s : State) : Outcome State Fault Refusal :=
  let v : Word := match tagsOfMask (getS s sa &&& s.me.tags) with | g :: _ => BitVec.ofNat 64 g | [] => -1
  .next (writeBack s sd v)

/-- TAGCLR (R151). -/
def execTagclr (sa : BitVec 6) (s : State) : Outcome State Fault Refusal :=
  .next (advance { s with me := { s.me with tags := s.me.tags &&& ~~~(getS s sa) } })

end Sys2Proof.Machine
end

