-- ==== Sys2Proof/Machine/TileMem.lean ====
section
/-!
DEFINITION. Issuing tile memory instructions (R113 to R118, R121, R127 to R134, R139 to R148) and the atomics on
tiles (R248, R252, R253).
-/
namespace Sys2Proof.Machine

open Host (Outcome)

/-! ## Shared steps -/

/-- Whether a counter of R148 stands at 256: an instruction that it counts waits to issue (log entry 63). -/
def countFull (b : Block) (k : CounterKind) : Bool := k != .none && decide (256 ≤ countOf b k)

/-- An instruction enters the issue window, or issue stalls while the window or its counter is full (R85, R148). -/
def enterWindow (s : State) (kind : CounterKind) (k : State → State) : Outcome State Fault Refusal :=
  .next (if windowFull s s.me || countFull s.me kind then s else k s)

/-- Goes on where no issue check fails, else takes the first trap (R375). -/
def checked (s : State) (insn : Word) (c : Option TrapInfo) (k : State → State) : State :=
  match c with
  | some t => seqTrap s insn t
  | none => k s

/-- Allocates the version an instruction writes (R121). A trap leaves the state `s0` as it was, and a stall but for the name that waits:
no name is bound and no other version allocated. -/
def renamed (s0 s : State) (insn : Word) (t : BitVec 5) (g : ShapeRec) (rd : List Nat) (k : Nat → State → State) : State :=
  match rename s s.me t g rd with
  | .ok id b => k id { s with me := b }
  | .stall => awaitRename s0 t
  | .never size => trapType s0 insn size

/-- As `renamed`, for a tile memory write that names record h: an unbound name is bound to it (R119). -/
def renamedBind (s0 s : State) (insn : Word) (t : BitVec 5) (h : BitVec 4) (g : ShapeRec) (rd : List Nat)
    (k : Nat → State → State) : State :=
  renamed s0 { s with me := bindIfUnbound s.me t h } insn t g rd k

def typeTrap (tval : Nat) : Option TrapInfo := some { cause := .type, tval := BitVec.ofNat 64 tval }
def alignTrap (a : Word) : Option TrapInfo := some { cause := .strideAlign, tval := a }

/-- The first failing check. -/
def firstOf (l : List (Option TrapInfo)) : Option TrapInfo := l.findSome? id

/-- TYPE for a source without a current version (R119). -/
def needVersion (b : Block) (t : BitVec 5) (base : Nat) : Option TrapInfo :=
  if (current b t).isSome then none else typeTrap (base + t.toNat)

/-- Equal ROWS, COLS, TYPE and STORE (R127). It stands for "of the same geometry" too, so that PITCH does not count (R133, R156,
R158, R170; log entry 64). -/
def sameTile (a b : ShapeRec) : Bool := a.rows == b.rows && a.cols == b.cols && a.type == b.type && a.store == b.store

def tileMatches (b : Block) (t : BitVec 5) (g : ShapeRec) (h : BitVec 4) : Option TrapInfo :=
  match current b t with
  | some v => if sameTile v.geom g then none else typeTrap (0x100 + h.toNat)
  | none => typeTrap t.toNat

/-- A fresh flight of the block whose turn it is. -/
def flight (i : Instr) (addr : Word) (g : ShapeRec) (h : BitVec 4) (k : CounterKind) : Flight :=
  { id := 0, insn := wordOf i, ins := i, addr := addr, shape := g, record := h.setWidth 5, kind := k }

/-! ## Codebook tables (R139 to R141) -/

/-- The tables of the block in the ring, those among them that its TCBs have in flight. -/
def ringTables (s : State) : List CbTable := s.cbs.filter fun t => t.slot == s.me.slot

/-- Marks the first `n` unconsumed tables of a block for flight `id`. -/
def reserveTables (l : List CbTable) (slot : SlotNo) (n id : Nat) : List CbTable :=
  match l with
  | [] => []
  | t :: r =>
    if n ≠ 0 && t.slot == slot && t.by_.isNone then { t with by_ := some id } :: reserveTables r slot (n - 1) id
    else t :: reserveTables r slot n id

/-- Tables a load of record `g` needs: one for each 128 elements of a CB3 operand. -/
def tablesNeeded (g : ShapeRec) : Nat := if g.memType = 12 then (g.count + 127) / 128 else 0

/-- Too few tables: the trap names the record, since no rule gives its TVAL (R139; log entry 68). -/
def checkTables (s : State) (g : ShapeRec) (h : Nat) : Option TrapInfo :=
  if ((ringTables s).filter fun t => t.by_.isNone).length < tablesNeeded g then typeTrap (0x100 + h) else none

/-- Issues a load, with the tables it consumes. -/
def issueLoad (s : State) (f : Flight) : State :=
  launchFlight { s with cbs := reserveTables s.cbs s.me.slot (tablesNeeded f.shape) s.me.nextId } f

/-! ## TLD, TST, TLDFF, TOPT -/

/-- A plain load of record `g` into t (R127): `extra` is what its issue adds. -/
def loadTile (s : State) (i : Instr) (f : TmF) (extra : State → State) : State :=
  let insn := wordOf i
  let g := shapeOf s.me f.h
  let a := tmAddr s f.s f.off
  let c := firstOf [checkOperands g f.h.toNat a.toNat f.pc.toNat (f.pm == .guarded) false g.type true,
                    checkTables s g f.h.toNat]
  checked s insn c fun s =>
    renamedBind s s insn f.t f.h g [] fun id s1 =>
      issueLoad (extra s1) { flight i a g f.h .ldq with dst := some id, tag := tagOf f.te f.tag }

/-- TLD (R127). -/
def execTld (f : TmF) (s : State) : Outcome State Fault Refusal := enterWindow s .ldq fun s => loadTile s (.tld f) f id

/-- An instruction that will set FILL of a record (R131). -/
def addFillWait (h : BitVec 4) (s : State) : State :=
  { s with me := { s.me with fillWait := s.me.fillWait ++ [(s.me.nextId, h, true)] } }

/-- TLDFF (R131). -/
def execTldff (f : TmF) (s : State) : Outcome State Fault Refusal :=
  enterWindow s .ldq fun s => loadTile s (.tldff f) f (addFillWait f.h)

/-- TST (R127). -/
def execTst (f : TmF) (s : State) : Outcome State Fault Refusal :=
  enterWindow s .stq fun s =>
    let i := Instr.tst f
    let g := shapeOf s.me f.h
    let a := tmAddr s f.s f.off
    checked s (wordOf i) (firstOf [
      checkOperands g f.h.toNat a.toNat f.pc.toNat (f.pm == .guarded) true g.type true, tileMatches s.me f.t g f.h])
      fun s => launchFlight s { flight i a g f.h .stq with ta := curId s.me f.t, tag := tagOf f.te f.tag }

/-- The operands of TOPT (R142): TYPE of the record is not used, so that a FMT code of 0 names no memory format. -/
def checkTopt (b : Block) (f : TmF) (g : ShapeRec) (a : Word) : Option TrapInfo :=
  firstOf [
    if g.dimsOk && f.pc == 5 && f.pm == .trunc && g.fmt.extractLsb' 0 5 == 16 && g.pcb == 5 then none else typeTrap (0x100 + f.h.toNat),
    checkOperands g f.h.toNat a.toNat 5 false true 10 false,
    match current b f.t with
    | none => typeTrap f.t.toNat
    | some v =>
      if v.geom.type != 10 then typeTrap f.t.toNat
      else if v.geom.rows != g.rows || v.geom.cols != g.cols then typeTrap (0x100 + f.h.toNat) else none]

/-- TOPT (R142). -/
def execTopt (f : TmF) (s : State) : Outcome State Fault Refusal :=
  enterWindow s .stq fun s =>
    let g := shapeOf s.me f.h
    let a := tmAddr s f.s f.off
    checked s (wordOf (.topt f)) (checkTopt s.me f g a) fun s =>
      launchFlight s { flight (.topt f) a g f.h .stq with ta := curId s.me f.t, tag := tagOf f.te f.tag }

/-! ## Gathers and scatters (R132 to R134) -/

/-- The checks of an indexed access (R132). -/
def checkIndexed (b : Block) (f : TmIdxF) (g : ShapeRec) (a : Word) (store : Bool := false) : Option TrapInfo :=
  firstOf [checkOperands g f.h.toNat a.toNat f.pc.toNat (f.pm == .guarded) store g.type true,
           checkIndex b f.t2 g f.h.toNat]

/-- The companion name t((n + 1) mod 32) (R133). -/
def companion (t2 : BitVec 5) : BitVec 5 := t2 + 1

/-- The geometry of a companion mask: a MASK of the operand's rows and columns in the A-store. -/
def maskGeom (g : ShapeRec) : ShapeRec := { rows := g.rows, cols := g.cols, type := 15, store := 2 }

/-- TGTH (R133): t and its companion are both renamed, or neither is. A companion name that is unbound is bound to h (log
entry 69). -/
def execTgth (f : TmIdxF) (s : State) : Outcome State Fault Refusal :=
  enterWindow s .ldq fun s =>
    let i := Instr.tgth f
    let g := shapeOf s.me f.h
    let a := tmAddr s f.s f.off
    let cn := companion f.t2
    let c := firstOf [checkIndexed s.me f g a,
      if g.mcol.toInt = (typeBits g.memType / 8 : Nat) then none else typeTrap (0x100 + f.h.toNat)]
    checked s (wordOf i) c fun s =>
      let old := match current s.me f.t with | some v => if sameTile v.geom g then some v.id else none | none => none
      let comp := current s.me cn
      let usable := comp.filter fun v => v.geom.type == 15 && v.geom.count == g.count
      let f0 : Flight := { flight i a g f.h .ldq with
        tb := curId s.me f.t2, old := old, tc := usable.map Version.id, tag := tagOf f.te f.tag,
        ta := if usable.isNone then comp.map Version.id else none }
      let rd := f0.reads
      renamedBind s s (wordOf i) f.t f.h g rd fun id s1 =>
        renamedBind (if id = s.me.nextId then awaitRename s f.t else s) s1 (wordOf i) cn f.h (maskGeom g) rd fun id2 s2 =>
          launchFlight (addFillWait f.h s2) { f0 with dst := some id, dst2 := some id2 }

/-- TGTH.FULL (R134). -/
def execTgthFull (f : TmIdxF) (s : State) : Outcome State Fault Refusal :=
  enterWindow s .ldq fun s =>
    let i := Instr.tgthFull f
    let g := shapeOf s.me f.h
    let a := tmAddr s f.s f.off
    checked s (wordOf i) (checkIndexed s.me f g a) fun s =>
      let f0 : Flight := { flight i a g f.h .ldq with tb := curId s.me f.t2, tag := tagOf f.te f.tag }
      renamedBind s s (wordOf i) f.t f.h g f0.reads fun id s1 =>
        launchFlight (addFillWait f.h s1) { f0 with dst := some id }

/-- TSCT (R134). -/
def execTsct (f : TmIdxF) (s : State) : Outcome State Fault Refusal :=
  enterWindow s .stq fun s =>
    let i := Instr.tsct f
    let g := shapeOf s.me f.h
    let a := tmAddr s f.s f.off
    checked s (wordOf i) (firstOf [checkIndexed s.me f g a true, tileMatches s.me f.t g f.h]) fun s =>
      launchFlight s { flight i a g f.h .stq with
        ta := curId s.me f.t, tb := curId s.me f.t2, tag := tagOf f.te f.tag }

/-! ## Streams, tables and copies (R140, R145, R147) -/

/-- TLDW (R145). -/
def execTldw (t : BitVec 5) (w : BitVec 3) (s : State) : Outcome State Fault Refusal :=
  enterWindow s .ldq fun s =>
    let i := Instr.tldw t w
    let x := streamOf s.me w
    let a := BitVec.ofNat 64 (wrap64 (x.base.toNat + x.consumed * x.stride.toInt))
    let c := firstOf [
      if x.consumed = x.count.toNat then some { cause := .bound, tval := x.count.setWidth 64 } else none,
      checkOperands x.copy x.source.toNat a.toNat 0 false false x.copy.type true,
      checkTables s x.copy x.source.toNat]
    checked s (wordOf i) c fun s =>
      renamedBind s s (wordOf i) t x.source x.copy [] fun id s1 =>
        issueLoad { s1 with me := setStream s1.me w { x with consumed := x.consumed + 1 } }
          { flight i a x.copy x.source .ldq with dst := some id, addr2 := BitVec.ofNat 64 x.consumed }

/-- TCB (R140). While the block in the other slot holds the ring, it waits in the issue window (R141). -/
def execTcb (f : TcbF) (s : State) : Outcome State Fault Refusal :=
  enterWindow s .cpq fun s =>
    let i := Instr.tcb f
    let a := getS s f.sa
    let k := f.n.toNat
    let l := ringTables s
    let free := 4 - l.length
    let soon := (l.filter fun t => t.by_.isSome).length
    let c := firstOf [if a.toNat % 16 ≠ 0 then alignTrap a else none, if free + soon < k then typeTrap k else none]
    checked s (wordOf i) c fun s =>
      if free < k then s
      else
        let id := s.me.nextId
        let t : CbTable := ⟨s.me.slot, id, none, false, none⟩
        let s1 := { s with cbs := s.cbs ++ List.replicate k t }
        launchFlight (if ringTaken s then s1 else claimRing s1) { flight i a {} 0 .cpq with tag := tagOf f.te f.tag }

/-- Copies in flight in the core (R147). -/
def copiesInFlight (s : State) : Nat :=
  (((allBlocks s).filter fun b => slotCore b.slot == slotCore s.me.slot).flatMap fun b =>
    b.flights.filter fun f => match f.ins with | .bcopy _ => true | _ => false).length

/-- A tagged instruction that completes as it issues (R149). -/
def tagAtOnce (b : Block) (g : BitVec 6) : Block :=
  let bit := BitVec.twoPow 64 g.toNat
  { b with tags := if tagCount b g = 0 then b.tags ||| bit else b.tags &&& ~~~bit }

/-- BCOPY (R147). -/
def execBcopy (f : BcopyF) (s : State) : Outcome State Fault Refusal :=
  enterWindow s .cpq fun s =>
    if f.len = 0 then advance { s with me := if f.te then tagAtOnce s.me f.tag else s.me }
    else if 256 ≤ copiesInFlight s then s
    else launchFlight s { flight (.bcopy f) (getS s f.sa) {} 0 .cpq with addr2 := getS s f.sb, tag := tagOf f.te f.tag }

/-! ## Atomics on tiles (R248, R252, R253) -/

/-- The operand rules of R248 on the record, the index tile and the address. -/
def checkAmoOperands (b : Block) (f : TmAmoF) (g : ShapeRec) (a : Word) (geom : Bool) : Option TrapInfo :=
  let mt := g.memType
  firstOf [
    if f.pc = 0 && (mt == 5 || mt == 6 || mt == 10) then none else typeTrap (0x100 + f.h.toNat),
    checkOperands g f.h.toNat a.toNat 0 false false (if geom then g.type else mt) geom,
    if g.dimsOk then none else typeTrap (0x100 + f.h.toNat),
    checkIndex b f.t2 g f.h.toNat,
    if g.mcol.toInt % 4 = 0 then none else alignTrap a]

/-- The rules of R248 on the current version of t: `bits` says that the operation is bitwise. -/
def checkAmoTile (b : Block) (f : TmAmoF) (g : ShapeRec) (bits : Bool) : Option TrapInfo :=
  match current b f.t with
  | none => typeTrap f.t.toNat
  | some v =>
    if !(v.geom.store == 2 || v.geom.store == 3) || !(v.geom.type == 5 || v.geom.type == 6 || v.geom.type == 10) ||
        (bits && v.geom.type == 10) then typeTrap f.t.toNat
    else if v.geom.type != g.memType || v.geom.count != g.count then typeTrap (0x100 + f.h.toNat)
    else none

/-- The record of the new version of t: its store is A or C, and its type is the memory type, so that it holds the fetched values
(R248). -/
def checkAmoDest (f : TmAmoF) (g : ShapeRec) : Option TrapInfo :=
  if (g.store = 2 ∨ g.store = 3) ∧ g.type = g.memType then none else typeTrap (0x100 + f.h.toNat)

/-- TAMO (R248, R250): the block is exposed. -/
def runTamoIssue (i : Instr) (f : TmAmoF) (bits : Bool) (s : State) : Outcome State Fault Refusal :=
  enterWindow s .opq fun s =>
    let g := shapeOf s.me f.h
    let a := tmAddr s f.s f.off
    checked s (wordOf i) (firstOf [checkAmoTile s.me f g bits, checkAmoOperands s.me f g a true, checkAmoDest f g]) fun s =>
      let f0 : Flight := { flight i a g f.h .opq with ta := curId s.me f.t, tb := curId s.me f.t2 }
      renamedBind s s (wordOf i) f.t f.h g f0.reads fun id s1 => launchFlight (expose s1) { f0 with dst := some id }

/-- TAMO.ADD (R248). -/
def execTamoAdd (f : TmAmoF) (s : State) : Outcome State Fault Refusal := runTamoIssue (.tamoAdd f) f false s
/-- TAMO.MIN (R248). -/
def execTamoMin (f : TmAmoF) (s : State) : Outcome State Fault Refusal := runTamoIssue (.tamoMin f) f false s
/-- TAMO.MAX (R248). -/
def execTamoMax (f : TmAmoF) (s : State) : Outcome State Fault Refusal := runTamoIssue (.tamoMax f) f false s
/-- TAMO.AND (R248). -/
def execTamoAnd (f : TmAmoF) (s : State) : Outcome State Fault Refusal := runTamoIssue (.tamoAnd f) f true s
/-- TAMO.OR (R248). -/
def execTamoOr (f : TmAmoF) (s : State) : Outcome State Fault Refusal := runTamoIssue (.tamoOr f) f true s
/-- TAMO.XOR (R248). -/
def execTamoXor (f : TmAmoF) (s : State) : Outcome State Fault Refusal := runTamoIssue (.tamoXor f) f true s
/-- TAMO.SWAP (R248). -/
def execTamoSwap (f : TmAmoF) (s : State) : Outcome State Fault Refusal := runTamoIssue (.tamoSwap f) f false s

/-- TGLK (R252): TGTH.FULL, whose record, into whose store t's new version goes, follows R248. -/
def execTglk (f : TmAmoF) (s : State) : Outcome State Fault Refusal :=
  enterWindow s .opq fun s =>
    let i := Instr.tglk f
    let g := shapeOf s.me f.h
    let a := tmAddr s f.s f.off
    checked s (wordOf i) (firstOf [checkAmoOperands s.me f g a true, checkAmoDest f g]) fun s =>
      let f0 : Flight := { flight i a g f.h .opq with tb := curId s.me f.t2 }
      renamedBind s s (wordOf i) f.t f.h g f0.reads fun id s1 => launchFlight (addFillWait f.h s1) { f0 with dst := some id }

/-- TSCC (R253): the companion gets the mask of rejected elements; the block is exposed. -/
def execTscc (f : TmAmoF) (s : State) : Outcome State Fault Refusal :=
  enterWindow s .opq fun s =>
    let i := Instr.tscc f
    let g := shapeOf s.me f.h
    let a := tmAddr s f.s f.off
    checked s (wordOf i) (firstOf [checkAmoTile s.me f g false, checkAmoOperands s.me f g a false]) fun s =>
      let f0 : Flight := { flight i a { g with type := g.memType } f.h .opq with ta := curId s.me f.t, tb := curId s.me f.t2 }
      renamedBind s s (wordOf i) (companion f.t2) f.h (maskGeom g) f0.reads fun id s1 =>
        launchFlight (expose s1) { f0 with dst := some id }

end Sys2Proof.Machine
end

