-- ==== Sys2Proof/Machine/TileCompute.lean ====
section
/-!
DEFINITION. Issuing tile compute instructions (R153 to R180) and sparse ones (R220, R224, R225, R227, R228).
-/
namespace Sys2Proof.Machine

open Host (Outcome)

/-! ## The checks of R153 -/

/-- The geometry of a destination: its default record, with the record's number. -/
def destGeom (b : Block) (td : BitVec 5) : ShapeRec :=
  match nameOf b td with | some n => shapeOf b n.record | none => {}

/-- Step 2 of R153. -/
def checkDest (b : Block) (td : BitVec 5) : Option TrapInfo :=
  match nameOf b td with
  | none => typeTrap td.toNat
  | some n => if (shapeOf b n.record).ok then none else typeTrap (0x100 + n.record.toNat)

/-- TYPE naming a tile typeUnless the condition holds. -/
def typeUnless (c : Bool) (t : BitVec 5) : Option TrapInfo := if c then none else typeTrap t.toNat

def geomOf (b : Block) (t : BitVec 5) : ShapeRec := match current b t with | some v => v.geom | none => {}

def inAC (g : ShapeRec) : Bool := g.store == 2 || g.store == 3

/-- A mask operand (R167, R437). -/
def checkMask (b : Block) (me : Bool) (t : BitVec 5) (n : Nat) : Option TrapInfo :=
  if me then typeUnless ((geomOf b t).type == 15 && (geomOf b t).count == n) t else none

/-- A fresh compute flight. -/
def cflight (i : Instr) : Flight := { id := 0, insn := wordOf i, ins := i }

/-- Issues an instruction that writes a new version of td (R154). -/
def issueCompute (s0 s : State) (td : BitVec 5) (f : Flight) : State :=
  renamed s0 s f.insn td (destGeom s.me td) f.reads fun id s1 => launchFlight s1 { f with dst := some id }

/-! ## Accumulation (R156, R158) -/

/-- Whether the instructions that still write a version are those R158 lets an accumulation follow in place. -/
def matrixWriters (b : Block) (v : Nat) : Bool :=
  b.flights.all fun f => (f.dst != some v && f.dst2 != some v) ||
    (match f.ins with | .mma _ | .mmv _ | .mmas _ | .mmss _ => true | _ => false)

/-- Whether RenameAcc writes td's version in place (R158). A version that the block holds as a taken message (R274) is renamed, as
Rename has it for R121 (log entry 85); so is one for whose successor the instruction has come to wait for room (R422). -/
def accInPlace (s : State) (td : BitVec 5) (v : Version) : Bool :=
  !s.me.renames.contains td && !pinned s.me v.id && !heldMessage s.me v.id && !hasReaders s s.me v.id && sameTile v.geom (destGeom s.me td) &&
    (v.done || matrixWriters s.me v.id)

/-- RenameAcc (R158) for an accumulating instruction, Rename for another. -/
def issueMatrix (s : State) (td : BitVec 5) (acc : Bool) (f : Flight) : State :=
  match (if acc then current s.me td else none) with
  | none => issueCompute s s td f
  | some v =>
    if accInPlace s td v && !f.reads.contains v.id then
      let b := modVersion s.me v.id fun x => { x with done := false }
      launchFlight { s with me := b } { f with dst := some v.id, old := some v.id, inPlace := true }
    else issueCompute s s td { f with old := some v.id }

/-- The rules of R156 on td. -/
def checkAcc (b : Block) (td : BitVec 5) (acc vec : Bool) : Option TrapInfo :=
  let g := destGeom b td
  typeUnless (g.store == 3 && g.type == 10 && (!vec || g.rows == 1) && (!acc || sameTile (geomOf b td) g)) td

def checkA (b : Block) (ta : BitVec 5) (g : ShapeRec) : Option TrapInfo :=
  let x := geomOf b ta
  typeUnless (x.store == 2 && (x.type == 8 || x.type == 9) && x.rows == g.rows) ta

def isWeights (x : ShapeRec) : Bool := x.store == 1 && (x.type == 8 || x.type == 9 || x.type == 11)

/-- MMA (R156). -/
def execMma (f : MmF) (s : State) : Outcome State Fault Refusal :=
  enterWindow s .none fun s =>
    let b := s.me
    let g := destGeom b f.td
    let w := geomOf b f.tb
    let c := firstOf [
      if f.acc then needVersion b f.td 0 else none, needVersion b f.ta 0, needVersion b f.tb 0, checkDest b f.td,
      checkAcc b f.td f.acc false, checkA b f.ta g,
      typeUnless (isWeights w && w.rows == (geomOf b f.ta).cols && w.cols == g.cols) f.tb]
    checked s (wordOf (.mma f)) c fun s =>
      issueMatrix s f.td f.acc { cflight (.mma f) with ta := curId s.me f.ta, tb := curId s.me f.tb }

/-! ## MMV (R160 to R162) -/

/-- Whether tb is in the state of the understory form: bound, no version, a record with STORE none (R160). -/
def isUnderstory (b : Block) (tb : BitVec 5) : Bool :=
  match nameOf b tb with
  | some n => n.cur.isNone && (shapeOf b n.record).store == 0
  | none => false

/-- The record of a name. -/
def recordOf (b : Block) (t : BitVec 5) : BitVec 4 := match nameOf b t with | some n => n.record | none => 0

/-- The limits of R161, in the order of its table. -/
def checkRegionRec (r : ShapeRec) (h : BitVec 4) (k n : Nat) : Option TrapInfo :=
  let rec_ := typeTrap (0x100 + h.toNat)
  let es := weightBytes r
  firstOf [
    if r.rows.toNat = k && r.cols.toNat = n && (r.type == 9 || r.type == 11) then none else rec_,
    if 0 < r.mrow.toInt && r.mrow.toNat % 512 = 0 && roundUp (k * es) 512 ≤ r.mrow.toNat then none else rec_,
    if r.type = 11 then
      (if r.mcol.toNat % 2 = 0 then none else alignTrap (BitVec.ofNat 64 (scaleVector r)))
    else (if r.mcol = 0 then none else rec_),
    if r.scale.toNat % 512 = 0 then none else alignTrap r.scale]

/-- The instruction that a state issued, if it did and still waits, stops on its pages. -/
def stopIssued (s0 s : State) (w : StopWhy) : State :=
  match s.me.flights.getLast? with
  | some f =>
    if s0.me.nextId ≤ f.id ∧ f.id + 1 = s.me.nextId ∧ f.st = .waiting ∧ !(s.held.any fun h => h.agent == .flight s.me.slot f.id)
    then stopFlight s f 0 w else s
  | none => s

/-- The understory form translates every page of its region as it issues, and holds the translations (R162, R340). A fault stops only the
instruction, which runs from its beginning once it is serviced (R155, R346). -/
def issueUnderstory (s : State) (f : MmF) : State :=
  let h := recordOf s.me f.tb
  let r := shapeOf s.me h
  let f0 := { cflight (.mmv f) with ta := curId s.me f.ta, shape := r, record := h.setWidth 5 }
  match regionCheck s r with
  | (.trap t, s1) => trapType s1 (wordOf (.mmv f)) t
  | (.stop w, s1) => stopIssued s1 (issueMatrix s1 f.td f.acc f0) w
  | (.ok region scale, s1) => issueMatrix s1 f.td f.acc { f0 with pins := pinsOf (region ++ scale) }

/-- MMV (R160). -/
def execMmv (f : MmF) (s : State) : Outcome State Fault Refusal :=
  enterWindow s .none fun s =>
    let b := s.me
    let g := destGeom b f.td
    let under := isUnderstory b f.tb
    let w := geomOf b f.tb
    let k := (geomOf b f.ta).cols
    let c := firstOf [
      if f.acc then needVersion b f.td 0 else none, needVersion b f.ta 0, if under then none else needVersion b f.tb 0,
      checkDest b f.td, checkAcc b f.td f.acc true, checkA b f.ta g,
      if under then checkRegionRec (shapeOf b (recordOf b f.tb)) (recordOf b f.tb) k.toNat g.cols.toNat
      else typeUnless (isWeights w && w.rows == k && w.cols == g.cols) f.tb]
    checked s (wordOf (.mmv f)) c fun s =>
      if under then issueUnderstory s f
      else issueMatrix s f.td f.acc { cflight (.mmv f) with ta := curId s.me f.ta, tb := curId s.me f.tb }

/-! ## MAP and REDUCE (R166 to R176) -/

/-- The lane function of the block's kernel at an instruction's offset. -/
def fnAt (s : State) (imm : BitVec 24) : Option (BitVec 32 × List (BitVec 32)) :=
  (getKernel s s.me.kernel).bind fun k => laneFn k imm.toNat

/-- The inputs that IN names. -/
def mapInputs (f : MapF) : List (BitVec 5) := [f.ta, f.tb, f.tc].take f.nin.toNat

/-- The checks of R166 and R167 behind the offset's. -/
def checkMap (b : Block) (f : MapF) (h : BitVec 32) (code : List (BitVec 32)) : Option TrapInfo :=
  let g := destGeom b f.td
  let seg := f.seg.toNat + 1
  let t := (laneType h).type
  firstOf ([
    if f.nin = 3 ∧ f.me then typeTrap f.tc.toNat else none,
    if 1 < seg ∧ f.nin ≠ 1 then typeTrap f.tb.toNat else none] ++
    (mapInputs f).map (fun x => needVersion b x 0) ++
    [if f.me then needVersion b f.tc 0 else none, checkDest b f.td,
     typeUnless (inAC g && g.type == typeAfter t code) f.td] ++
    (mapInputs f).map (fun x => typeUnless (inAC (geomOf b x) && (geomOf b x).count == g.count * seg &&
      (numOf (geomOf b x).type).isSome) x) ++
    [checkMask b f.me f.tc g.count])

/-- The flight of a MAP: with a mask, td's version of td's geometry is read for the masked-off elements (R170). -/
def mapFlight (s : State) (f : MapF) : Flight :=
  let ins := mapInputs f
  let old := if f.me then (current s.me f.td).filter fun v => sameTile v.geom (destGeom s.me f.td) else none
  { cflight (.map f) with
    ta := curId s.me f.ta, tb := if 2 ≤ ins.length then curId s.me f.tb else none,
    tc := if f.me || decide (ins.length = 3) then curId s.me f.tc else none, old := old.map Version.id,
    consts := laneConsts s }

/-- MAP (R166). -/
def execMap (f : MapF) (s : State) : Outcome State Fault Refusal :=
  enterWindow s .none fun s =>
    let insn := wordOf (.map f)
    match fnAt s f.imm with
    | none => seqTrap s insn { cause := .illegal, tval := f.imm.setWidth 64 }
    | some (h, code) =>
      checked s insn (checkMap s.me f h code) fun s =>
        let core := slotCore s.me.slot
        if laneFits s core h then issueCompute s (laneName s core s.me.kernel f.imm.toNat) f.td (mapFlight s f)
        else overcapSelf s s.me.slot

/-- The checks of R153, R175 and R176. Where td and ta disagree, the trap names ta (R374). -/
def checkReduce (b : Block) (f : RedF) (vt : BitVec 5) : Option TrapInfo :=
  let g := destGeom b f.td
  let a := geomOf b f.ta
  firstOf [
    needVersion b f.ta 0, if f.me then needVersion b f.tc 0 else none, checkDest b f.td,
    typeUnless (inAC g && g.cols == 1 && (match accType vt with | some t => g.type == t | none => true)) f.td,
    typeUnless (inAC a && (g.rows == 1 || g.rows == a.rows) && opAllowed vt f.op && (!f.pf || (numOf a.type).isSome)) f.ta,
    checkMask b f.me f.tc a.count]

def redFlight (s : State) (f : RedF) : Flight :=
  { cflight (.reduce f) with
    ta := curId s.me f.ta, tc := if f.me then curId s.me f.tc else none, consts := laneConsts s }

/-- REDUCE (R175). -/
def execReduce (f : RedF) (s : State) : Outcome State Fault Refusal :=
  enterWindow s .none fun s =>
    let insn := wordOf (.reduce f)
    if f.pf then
      match fnAt s f.imm with
      | none => seqTrap s insn { cause := .illegal, tval := f.imm.setWidth 64 }
      | some (h, code) =>
        checked s insn (checkReduce s.me f (typeAfter (laneType h).type code)) fun s =>
          let core := slotCore s.me.slot
          if laneFits s core h then issueCompute s (laneName s core s.me.kernel f.imm.toNat) f.td (redFlight s f)
          else overcapSelf s s.me.slot
    else checked s insn (checkReduce s.me f (geomOf s.me f.ta).type) fun s => issueCompute s s f.td (redFlight s f)

/-- TSCAN (R177). -/
def execTscan (f : ScanF) (s : State) : Outcome State Fault Refusal :=
  enterWindow s .none fun s =>
    let b := s.me
    let g := destGeom b f.td
    let a := geomOf b f.ta
    let c := firstOf [
      needVersion b f.ta 0, if f.me then needVersion b f.tc 0 else none, checkDest b f.td,
      typeUnless (inAC g && (match accType a.type with | some t => g.type == t | none => true)) f.td,
      typeUnless (inAC a && opAllowed a.type f.op && a.rows == g.rows && a.cols == g.cols) f.ta,
      checkMask b f.me f.tc a.count]
    checked s (wordOf (.tscan f)) c fun s =>
      issueCompute s s f.td
        { cflight (.tscan f) with ta := curId s.me f.ta, tc := if f.me then curId s.me f.tc else none }

/-! ## TCVT, TFILL, TMOV (R178 to R180) -/

/-- TCVT (R178). -/
def execTcvt (td ta : BitVec 5) (s : State) : Outcome State Fault Refusal :=
  enterWindow s .none fun s =>
    let b := s.me
    let g := destGeom b td
    let a := geomOf b ta
    let c := firstOf [
      needVersion b ta 0, checkDest b td, typeUnless (inAC g && (numOf g.type).isSome) td,
      typeUnless (inAC a && (numOf a.type).isSome && a.count == g.count) ta]
    checked s (wordOf (.tcvt td ta)) c fun s =>
      issueCompute s s td { cflight (.tcvt td ta) with ta := curId s.me ta }

/-- TFILL (R179). -/
def execTfill (td : BitVec 5) (imm : BitVec 24) (s : State) : Outcome State Fault Refusal :=
  enterWindow s .none fun s =>
    let c := firstOf [checkDest s.me td,
      typeUnless ((destGeom s.me td).type != 11 || decide (imm.toNat < 256)) td]
    checked s (wordOf (.tfill td imm)) c fun s => issueCompute s s td (cflight (.tfill td imm))

/-- TMOV (R180). -/
def execTmov (td ta : BitVec 5) (s : State) : Outcome State Fault Refusal :=
  enterWindow s .none fun s =>
    let b := s.me
    let g := destGeom b td
    let a := geomOf b ta
    let c := firstOf [needVersion b ta 0, checkDest b td, typeUnless (a.type == g.type && a.count == g.count) ta]
    checked s (wordOf (.tmov td ta)) c fun s =>
      issueCompute s s td { cflight (.tmov td ta) with ta := curId s.me ta }

/-! ## Sparse tiles (R220 to R228) -/

/-- MMAS (R220). -/
def execMmas (f : MmF) (s : State) : Outcome State Fault Refusal :=
  enterWindow s .none fun s =>
    let b := s.me
    let g := destGeom b f.td
    let w := geomOf b f.tb
    let c := firstOf [
      if f.acc then needVersion b f.td 0 else none, needVersion b f.ta 0, needVersion b f.tb 0, checkDest b f.td,
      checkAcc b f.td f.acc false, typeUnless (isHandle (geomOf b f.ta)) f.ta, typeUnless (isWeights w && w.cols == g.cols) f.tb]
    checked s (wordOf (.mmas f)) c fun s =>
      issueMatrix s f.td f.acc { cflight (.mmas f) with ta := curId s.me f.ta, tb := curId s.me f.tb }

/-- MMSS (R228). -/
def execMmss (f : MmF) (s : State) : Outcome State Fault Refusal :=
  enterWindow s .none fun s =>
    let b := s.me
    let c := firstOf [
      if f.acc then needVersion b f.td 0 else none, needVersion b f.ta 0, needVersion b f.tb 0, checkDest b f.td,
      checkAcc b f.td f.acc false, typeUnless (isHandle (geomOf b f.ta)) f.ta, typeUnless (isHandle (geomOf b f.tb)) f.tb]
    checked s (wordOf (.mmss f)) c fun s =>
      issueMatrix s f.td f.acc { cflight (.mmss f) with ta := curId s.me f.ta, tb := curId s.me f.tb }

/-- TPAT (R224). -/
def execTpat (sa : BitVec 6) (s : State) : Outcome State Fault Refusal :=
  enterWindow s .none fun s =>
    let a := getS s sa
    checked s (wordOf (.tpat sa)) (if a.toNat % 64 = 0 then none else alignTrap a) fun s =>
      launchFlight s { cflight (.tpat sa) with addr := a }

/-- TINV (R225): every trail of the context at the address, in every cluster and under every GEN. -/
def execTinv (sa : BitVec 6) (s : State) : Outcome State Fault Refusal :=
  let a := getS s sa
  if a.toNat % 64 = 0 then
    .next (advance { s with trails := breakTrails s.trails fun t => t.ctx == s.me.ctx && t.desc == a })
  else .next (seqTrap s (wordOf (.tinv sa)) { cause := .strideAlign, tval := a })

/-- TDENS (R227). -/
def execTdens (t : BitVec 5) (sa : BitVec 6) (s : State) : Outcome State Fault Refusal :=
  enterWindow s .stq fun s =>
    let a := getS s sa
    let c := firstOf [needVersion s.me t 0, typeUnless (isHandle (geomOf s.me t)) t,
      if a.toNat % 16 = 0 then none else alignTrap a]
    checked s (wordOf (.tdens t sa)) c fun s =>
      launchFlight s { cflight (.tdens t sa) with addr := a, ta := curId s.me t, kind := .stq }

end Sys2Proof.Machine
end

