-- ==== Sys2Proof/Machine/Channel.lean ====
section
/-!
DEFINITION. Tile channels (R273 to R277): TSEND and TRECV.
-/
namespace Sys2Proof.Machine

open Host (Outcome)

/-! ## Partners (R275) -/

/-- The group at a position of a block's band. -/
def groupAt (s : State) (g : Group) (bpos : BitVec 4) : Option Group := (bandOf s g).find? fun x => x.bpos == bpos

/-- The block a partner operand names, with its group. -/
def partnerOf (s : State) (b : Block) (sa : Word) : Option (Group × Peer) :=
  match findGroup s b.gid with
  | none => none
  | some g =>
    let x := sa.getLsbD 8
    let bpos := sa.extractLsb' 4 4
    let blk := sa.extractLsb' 0 4
    if sa.extractLsb' 9 55 ≠ 0 ∨ (!x ∧ bpos ≠ 0) then none
    else
      match (if x then groupAt s g bpos else some g) with
      | some h => if blk.toNat ≤ h.gsize.toNat then some (h, ⟨h.bpos, blk⟩) else none
      | none => none

/-- Whether a partner is DONE or KILLED. -/
def partnerGone (g : Group) (p : Peer) : Bool := g.finished.contains p.blk || g.st == .killed || g.st == .done

/-- The slot that a block of a group sits in. -/
def slotOfPeer (s : State) (g : Group) (p : Peer) : Option SlotNo :=
  ((allBlocks s).find? fun b => b.gid == g.id && b.blk == p.blk && b.st.live).map Block.slot

/-! ## Channels (R274) -/

/-- The channel from a sender into a block. -/
def channelFrom (b : Block) (p : Peer) : Channel :=
  (b.channels.find? fun c => c.sender == p).getD { sender := p, slot := 0x1FF, untaken := [], held := [], readPos := 0 }

def setChannel (b : Block) (c : Channel) : Block :=
  { b with channels := if b.channels.any fun x => x.sender == c.sender
      then b.channels.map fun x => if x.sender == c.sender then c else x else b.channels ++ [c] }

/-- Enqueues the version `v` of block `b` in its channel to the block in slot `x`; a DONE version's contents go
with it at once. -/
def enqueueMessage (s : State) (x : SlotNo) (b : Block) (v : Version) : State :=
  modBlock s x fun r =>
    let c := channelFrom r b.peer
    setChannel r { c with
      slot := b.slot
      untaken := c.untaken ++ [{ version := v.id, geom := v.geom, content := if v.done then some v else none }] }

/-- TSEND (R276): a full channel stalls issue. -/
def execTsend (t : BitVec 5) (sa : BitVec 6) (s : State) : Outcome State Fault Refusal :=
  let w := getS s sa
  let insn := wordOf (.tsend t sa)
  match partnerOf s s.me w with
  | none => .next (trapType s insn w.toNat)
  | some (g, p) =>
    match partnerGone g p, slotOfPeer s g p with
    | false, some x =>
      match current s.me t, getBlock s x with
      | some v, some r =>
        if 4 ≤ (channelFrom r s.me.peer).untaken.length then .next s
        else
          let s1 := expose s
          .next (advance (enqueueMessage s1 x s1.me v))
      | none, _ => .next (trapType s insn t.toNat)
      | _, none => .next s
    | _, _ => .next (trapType s insn w.toNat)

/-- ROWS, COLS and TYPE agree (R277). -/
def sameMessage (a b : ShapeRec) : Bool := a.rows == b.rows && a.cols == b.cols && a.type == b.type

/-- The held message at the channel's read position (R277). -/
def heldAt (b : Block) (c : Channel) : Option HeldMessage :=
  let base := match b.cairn.readPos.find? fun p => p.1 == c.sender with | some p => p.2 | none => 0
  if base ≤ c.readPos then c.held[c.readPos - base]? else none

/-- Maps a name to a message that the block already holds. A name that a rollback has unbound is bound as it was when the message was
taken (R277; log entry 72). -/
def mapHeld (b : Block) (t : BitVec 5) (m : HeldMessage) : Block :=
  let rec_ := match nameOf b t with | some n => n.record | none => m.record
  setName (modVersion b m.version fun x => { x with name := t }) t (some ⟨rec_, some m.version⟩)

/-- The geometry that TRECV compares with a held message's: that of t's default record. -/
def heldGeom (b : Block) (t : BitVec 5) (m : HeldMessage) : ShapeRec :=
  shapeOf b (match nameOf b t with | some n => n.record | none => m.record)

/-- Frees a sender's version once its message is taken (R122). -/
def sweep (s : State) (x : Option SlotNo) : State :=
  match x.bind (getBlock s) with
  | some b => putBlock s (reap s b)
  | none => s

/-- The message is taken into the version `v` of the receiver (R277). -/
def takeMessage (s : State) (c : Channel) (t : BitVec 5) (v : Nat) (m : Version) (x : Option SlotNo) : State :=
  let b := modVersion s.me v fun y => { y with elems := m.elems, scales := m.scales, poison := m.poison, done := true }
  let c1 := { c with untaken := c.untaken.drop 1, held := c.held ++ [⟨v, match nameOf b t with | some n => n.record | none => 0⟩], readPos := c.readPos + 1 }
  sweep { s with me := setChannel b c1 } x

/-- TRECV (R277): it parks on an empty channel and stalls until the message is DONE. -/
def execTrecv (t : BitVec 5) (sa : BitVec 6) (s : State) : Outcome State Fault Refusal :=
  let w := getS s sa
  let insn := wordOf (.trecv t sa)
  match partnerOf s s.me w with
  | none => .next (trapType s insn w.toNat)
  | some (g, p) =>
    let c := channelFrom s.me p
    match (heldAt s.me c).bind fun m => (findVersion s.me m.version).map fun v => (m, v) with
    | some (m, v) =>
      if !sameMessage v.geom (heldGeom s.me t m) then .next (trapType s insn t.toNat)
      else
        let b := setChannel (mapHeld s.me t m) { c with readPos := c.readPos + 1 }
        .next (advance { s with me := reap { s with me := b } b })
    | none =>
      match c.untaken with
      | [] =>
        if partnerGone g p then .next (trapType s insn (w ||| BitVec.twoPow 64 63).toNat)
        else .next (parkOn s (.channel p))
      | m :: _ =>
        if !sameMessage m.geom (destGeom s.me t) || (nameOf s.me t).isNone then .next (trapType s insn t.toNat)
        else
          .next (checked s insn (checkDest s.me t) fun s =>
            renamed s s insn t (destGeom s.me t) [] fun v s1 =>
              match m.content with
              | none => s
              | some mv => advance (takeMessage s1 c t v mv (slotOfPeer s1 g p)))

end Sys2Proof.Machine
end

