-- ==== Sys2Proof/Machine/Place.lean ====
section
/-!
DEFINITION. Placement of groups (R266 to R272): bind records and their checks, gang start, stop requests, the end of
a block's drain and of its rollback, and the events of a pre-emption (R84, R99, R103, R106, R108).
-/
namespace Sys2Proof.Machine

open Host (Outcome)

/-! ## Bind records (R266) -/

structure BindRec where
  v : Bool
  kind : Nat
  ctx : BitVec 6
  tier : BitVec 2
  blk : BitVec 4
  gsize : BitVec 4
  bpos : BitVec 4
  bsize : BitVec 4
  rsv : BitVec 5
  grp : BitVec 32
  band : BitVec 32
  queue : BitVec 10
  seq : BitVec 54
  kernel : BitVec 32
  image : Word
deriving DecidableEq, Repr

def bindRec (r : BitVec 256) : BindRec :=
  { v := r.getLsbD 255, kind := (r.extractLsb' 253 2).toNat, ctx := r.extractLsb' 247 6, tier := r.extractLsb' 245 2,
    blk := r.extractLsb' 241 4, gsize := r.extractLsb' 237 4, bpos := r.extractLsb' 233 4, bsize := r.extractLsb' 229 4,
    rsv := r.extractLsb' 224 5, grp := r.extractLsb' 192 32, band := r.extractLsb' 160 32, queue := r.extractLsb' 150 10,
    seq := r.extractLsb' 96 54, kernel := r.extractLsb' 64 32, image := r.extractLsb' 0 64 }

def BindRec.id (r : BindRec) : GroupId := ⟨r.ctx, r.queue, r.seq, r.grp⟩

def slotRecord (s : State) (x : SlotNo) : BitVec 256 := tabGet s.slots x.toNat 0

def findLaunch (s : State) (q : BitVec 10) (seq : BitVec 54) : Option Launch :=
  s.launches.find? fun l => l.q == q && l.seq == seq

/-! ## Launch records (R282) -/

def Launch.field (l : Launch) (lo w : Nat) : BitVec w := l.record.extractLsb' lo w
def Launch.kernel (l : Launch) : BitVec 32 := l.field 128 32
def Launch.gsize (l : Launch) : BitVec 4 := l.field 160 4
def Launch.bsize (l : Launch) : BitVec 4 := l.field 164 4
def Launch.ind (l : Launch) : Bool := l.record.getLsbD 169
def Launch.tier (l : Launch) : BitVec 2 := l.field 172 2
def Launch.param (l : Launch) : Word := l.field 64 64
def Launch.cnt (l : Launch) : Word := l.field 0 64
def Launch.user (l : Launch) : Word := l.field 192 64
/-- The groups of a launch. -/
def Launch.total (l : Launch) : Nat := l.units * (l.bsize.toNat + 1)

/-! ## Slots and cores (R358) -/

/-- The block that an armed or running slot holds. -/
def occupant (s : State) (x : SlotNo) : Option Block :=
  (getBlock s x).filter fun b => b.st == .bound || b.st.live

/-- Whether a slot is FREE (R84, R266). -/
def slotFree (s : State) (x : SlotNo) : Bool := !(slotRecord s x).getLsbD 255 && (occupant s x).isNone

def slotOut (s : State) (core : BitVec 8) (i : Nat) : Bool :=
  let b := getBank s (bankId 6 core i)
  b.st == .retired || b.st == .offline

/-- Whether a core is retired (R358). -/
def coreRetired (s : State) (core : BitVec 8) : Bool :=
  capStore s core 0 == 0 || capStore s core 1 == 0 || capStore s core 2 == 0 || capLg s core == 0 ||
    (slotOut s core 0 && slotOut s core 1)

/-- The reservation of a kernel's tier. -/
def tierWord (k : Kernel) (t : BitVec 2) : Word := k.tiers.getD t.toNat 0

/-- The bytes a reservation word gives in store 1, 2 or 3 (R123). -/
def tierBytes (w : Word) (store : Nat) : Nat :=
  if store = 1 then bitsOf w.toNat 37 19 else if store = 2 then bitsOf w.toNat 18 19 else bitsOf w.toNat 0 18

/-- Whether a core has room for one more reservation beside its other slot (R268). -/
def tierFits (s : State) (x : SlotNo) (w : Word) : Bool :=
  let other : Word := match occupant s (slotTwin x) with | some b => b.rsv | none => 0
  [1, 2, 3].all fun i => decide (tierBytes w i + tierBytes other i ≤ capStore s (slotCore x) (i - 1))

/-- The bytes of a block's pinned live-in versions in a store (R364). -/
def pinnedBytes (b : Block) (store : Nat) : Nat :=
  sumSizes (b.versions.filter fun v => pinned b v.id && v.geom.store.toNat == store)

/-! ## Room for groups (R288, R364) -/

/-- How many blocks of a reservation a core takes: with `now` in its free slots as they stand, else as though it were idle. -/
def coreTakes (s : State) (now : Bool) (core : BitVec 8) (w : Word) (lgneed : Nat) : Nat :=
  let slot := fun (i : Nat) => (BitVec.ofNat 9 (core.toNat * 2 + i) : SlotNo)
  let open_ := fun (i : Nat) => !slotOut s core i && (!now || slotFree s (slot i))
  let other := fun (n : Nat) => natSum (if now then
    [0, 1].map fun i => match occupant s (slot i) with | some b => tierBytes b.rsv n | none => 0 else [])
  let fits := fun (k : Nat) => [1, 2, 3].all fun n => decide (k * tierBytes w n + other n ≤ capStore s core (n - 1))
  let n := bit01 (open_ 0) + bit01 (open_ 1)
  if coreRetired s core ∨ capLg s core < lgneed then 0
  else if n = 2 ∧ fits 2 then 2 else if 1 ≤ n ∧ fits 1 then 1 else 0

/-- How many blocks of a reservation a cluster takes. -/
def clusterTakes (s : State) (now : Bool) (c : Nat) (w : Word) (lgneed : Nat) : Nat :=
  natSum ((List.range 8).map fun i => coreTakes s now (BitVec.ofNat 8 (c * 8 + i)) w lgneed)

/-- Whether `n` groups of `size` blocks fit as many clusters of one die. -/
def groupsFit (s : State) (now : Bool) (n size : Nat) (w : Word) (lgneed : Nat) : Bool :=
  [0, 16].any fun d => decide (n ≤
    ((List.range 16).filter fun c => decide (size ≤ clusterTakes s now (d + c) w lgneed)).length)

/-- Whether the stopped groups of a band fit a set of clusters of one die with a reservation, live-ins included. -/
def fitsAt (s : State) (now : Bool) (g : Group) (w : Word) (lgneed : Nat) : Bool :=
  let gs := (bandOf s g).filter fun x => x.st == .stopped || (x.st == .placing && !now)
  let held := (s.stopRecords.filter fun r => (gs.map Group.id).contains r.id).flatMap fun r => r.blocks
  (held.all fun b => [1, 2, 3].all fun n => decide (pinnedBytes b n ≤ tierBytes w n)) &&
    groupsFit s now gs.length (g.gsize.toNat + 1) w lgneed

/-! ## The checks of R268 -/

def recMalformed (r : BindRec) : Bool := r.rsv != 0 || decide (2 ≤ r.kind) || (r.kind == 0 && r.image != 0)

/-- Reason 0x0A. -/
def recNames (s : State) (r : BindRec) : Bool :=
  match findLaunch s r.queue r.seq, getKernel s r.kernel with
  | some l, some k =>
    l.ctx == r.ctx && decide (r.band.toNat < l.offered) && decide (r.grp.toNat < l.offered * (l.bsize.toNat + 1)) &&
      !l.ended && l.failed.isNone && l.gkilled == 0 && l.kernel == r.kernel &&
      l.gsize == r.gsize && l.bsize == r.bsize && decide (r.band.toNat < l.units) && decide (r.grp.toNat < l.total) &&
      decide (r.tier.toNat < k.tiers.length) && decide (r.tier.toNat ≤ l.tier.toNat)
  | _, _ => false

/-- The stop record that a record's IMAGE names. -/
def imageOf (s : State) (r : BindRec) : Option StopRecord :=
  s.stopRecords.find? fun x => x.address == r.image && x.id == r.id

/-- Reason 0x0B. -/
def recIdentity (s : State) (r : BindRec) : Bool :=
  if r.kind = 1 then
    (imageOf s r).isSome && s.groups.any fun g => g.id == r.id && (g.st == .stopped || (g.st == .placing && g.started))
  else !(s.groups.any fun g => g.id == r.id && g.started)

/-- Reason 0x06, with R364 for the live-ins of a group to be resumed. -/
def recFits (s : State) (x : SlotNo) (r : BindRec) : Bool :=
  match getKernel s r.kernel with
  | none => false
  | some k =>
    let w := tierWord k r.tier
    tierFits s x w && (if r.kind = 1 then
      match imageOf s r with
      | some i => i.blocks.all fun b => [1, 2, 3].all fun n => decide (pinnedBytes b n ≤ tierBytes w n)
      | none => false
    else true)

/-- The other armed records, those of groups that run among them. -/
def armedRecs (s : State) (x : SlotNo) : List (SlotNo × BindRec) :=
  (s.slots.map fun p => ((BitVec.ofNat 9 p.1 : SlotNo), bindRec p.2)).filter fun p => p.2.v && p.1 != x

/-- Reason 0x08. -/
def recClashes (s : State) (x : SlotNo) (r : BindRec) : Bool :=
  (armedRecs s x).any fun (y, o) =>
    let here := slotCluster y == slotCluster x && slotDie y == slotDie x
    let band := o.ctx == r.ctx && o.queue == r.queue && o.seq == r.seq && o.band == r.band && o.bpos == r.bpos
    (here && o.id == r.id && o.blk == r.blk) || (band && o.grp != r.grp) || (band && !here)

/-- The first check of R268 that a record fails. -/
def recReason (s : State) (x : SlotNo) (r : BindRec) : Option Nat :=
  if recMalformed r then some 0x01
  else if !slotFree s x then some 0x02
  else if coreRetired s (slotCore x) || slotOut s (slotCore x) (x.toNat % 2) then some 0x03
  else if (getCtx s r.ctx).st ≠ .active then some 0x04
  else if r.gsize.toNat < r.blk.toNat ∨ r.bsize.toNat < r.bpos.toNat then some 0x05
  else if !recNames s r then some 0x0A
  else if !recIdentity s r then some 0x0B
  else if !recFits s x r then some 0x06
  else if recClashes s x r then some 0x08
  else none

/-- A refusal in BINDERR (R268), reported to the record's context. -/
def bindRefuse (s : State) (x : SlotNo) (reason : Nat) (ctx : BitVec 6) (off : Nat) : State :=
  let s1 := { s with ctl := { s.ctl with binderr := BitVec.ofNat 64 (x.toNat * 2 ^ 55 + 0x100 + reason) } }
  ctxEvent s1 ctx 0x06 x.toNat (BitVec.ofNat 64 reason) (BitVec.ofNat 64 off)

def recordOffset (x : SlotNo) : Nat := 0x10000 + 32 * x.toNat

/-- The identity registers of a block (R101). -/
def boundBlock (x : SlotNo) (r : BindRec) (rsv : Word) : Block :=
  { Block.empty x with
    st := .bound, ctx := r.ctx, kernel := r.kernel, gid := r.id, bid := r.blk.setWidth 64
    gidReg := BitVec.ofNat 64 (r.grp.toNat + r.gsize.toNat * 2 ^ 32)
    bndid := BitVec.ofNat 64 (r.band.toNat + r.bpos.toNat * 2 ^ 32 + r.bsize.toNat * 2 ^ 36)
    lseq := BitVec.ofNat 64 (r.seq.toNat + r.queue.toNat * 2 ^ 54), rsv := rsv }

/-- The group of an armed record enters PLACING (R270). -/
def placeGroup (s : State) (r : BindRec) : State :=
  match findGroup s r.id with
  | some _ => modGroup s r.id fun g => { g with st := .placing, tier := r.tier }
  | none =>
    { s with groups := s.groups ++ [{
        id := r.id, st := .placing, gsize := r.gsize, bpos := r.bpos, bsize := r.bsize, band := r.band,
        kernel := r.kernel, tier := r.tier, heldTier := r.tier, barriers := Vector.replicate 16 {}, started := false, startOrder := 0,
        finished := [], overcap := false, byHost := false, image := 0 }] }

/-! ## Who places (R271, R272, R288, R364) -/

/-- Whether a writer's bind records count (R23, R272): the physical function's in host-assisted scheduling, Ranger's in hardware
mode. -/
def mayBind (s : State) (who : Writer) : Bool :=
  match who with | .pf => s.ctl.fnmode.getLsbD 0 | .ranger => !s.ctl.fnmode.getLsbD 0 | .vf _ => false

/-- The groups of a launch that have come to be placed. -/
def launchGroups (s : State) (l : Launch) : List Group := s.groups.filter fun g => g.id.queue == l.q && g.id.seq == l.seq

/-- Whether an offered unit of a launch of an ACTIVE context (R268) awaits a placement that some free slots allow at the launch's
lowest tier. -/
def awaitsPlace (s : State) (l : Launch) : Bool :=
  (getCtx s l.ctx).st == .active && !l.ended && l.failed.isNone && l.gkilled == 0 && decide ((launchGroups s l).length < l.offered * (l.bsize.toNat + 1)) &&
  (match getKernel s l.kernel with
    | some k => groupsFit s true (l.bsize.toNat + 1) (l.gsize.toNat + 1) (tierWord k l.tier) k.lgneed.toNat
    | none => false)

/-- Ranger's order of fresh groups (R288): launches of higher PRIO come first, but for the slot that FAIR gives the oldest eligible
launch of each queue. -/
def rangerOrder (s : State) (r : BindRec) : Bool :=
  match findLaunch s r.queue r.seq with
  | none => true
  | some l =>
    let higher := s.launches.any fun x => x.q != l.q && decide ((l.field 170 2 : BitVec 2).toNat < (x.field 170 2 : BitVec 2).toNat) &&
      awaitsPlace s x
    let oldest := s.launches.all fun x => x.q != l.q || !x.eligible || x.ended || decide (l.seq.toNat ≤ x.seq.toNat)
    (findGroup s r.id).isSome || !higher || (oldest && launchGroups s l == [])

/-- Ranger's tier for a group that OVERCAP stopped (R364): the first, from the one it held on, that fits free slots now; the one it
has taken once it is being placed. -/
def rangerTier (s : State) (r : BindRec) : Bool :=
  match findGroup s r.id, findLaunch s r.queue r.seq, getKernel s r.kernel with
  | some g, some l, some k =>
    if !g.overcap then true
    else if g.st = .placing then r.tier == g.tier
    else
      let tiers := (List.range 4).filter fun t => decide (g.tier.toNat ≤ t) && decide (t ≤ l.tier.toNat)
      (tiers.find? fun t => fitsAt s true g (tierWord k (BitVec.ofNat 2 t)) k.lgneed.toNat) == some r.tier.toNat
  | _, _, _ => true

/-- Ranger names each group of a band by its place in it (R282). -/
def BindRec.inBand (r : BindRec) : Bool := r.grp.toNat == r.band.toNat * (r.bsize.toNat + 1) + r.bpos.toNat

/-- Ranger's cores have the lane groups that the kernel needs (R299). -/
def rangerLanes (s : State) (x : SlotNo) (r : BindRec) : Bool :=
  match getKernel s r.kernel with | some k => decide (k.lgneed.toNat ≤ capLg s (slotCore x)) | none => true

/-- Whether Ranger's firmware makes a placement. -/
def rangerPlaces (s : State) (x : SlotNo) (r : BindRec) : Bool :=
  r.inBand && rangerLanes s x r && rangerOrder s r && rangerTier s r

/-- The bits of a bind record but V and the reserved ones, which read 0 (R7, R8). -/
def recordBits : BitVec 256 := ~~~((BitVec.ofNat 256 0x1F <<< 224) ||| BitVec.twoPow 256 255)

/-- A record written with V = 0. -/
def storeRecord (s : State) (x : SlotNo) (record : BitVec 256) : State :=
  setRecord s x (record &&& recordBits)

/-- A write that sets V of a bind record (R267, R268). A record refused because its slot is taken leaves the one in force. -/
def armRecord (who : Writer) (x : SlotNo) (record : BitVec 256) (s : State) : State :=
  let raw := record ||| BitVec.twoPow 256 255
  let r := bindRec raw
  if !mayBind s who ∨ (who = .ranger ∧ !rangerPlaces s x r) then s
  else
    match recReason s x r with
    | some e => bindRefuse (if slotFree s x then storeRecord s x raw else s) x e r.ctx (recordOffset x)
    | none =>
      let rsv := match getKernel s r.kernel with | some k => tierWord k r.tier | none => 0
      placeGroup (putBlock (setRecord s x raw) (boundBlock x r rsv)) r

/-- A write of V = 0 to a bind record (R267): an armed record is withdrawn, and the slot keeps the record as written. -/
def withdrawRecord (who : Writer) (x : SlotNo) (record : BitVec 256) (s : State) : State :=
  if !mayBind s who then s
  else
    match occupant s x with
    | some b =>
      if b.st = .bound then storeRecord (withdrawRecords s fun y => y.slot == x) x record
      else bindRefuse s x 0x07 b.ctx (recordOffset x)
    | none => storeRecord s x record

/-- Who writes bind records in the scheduling mode (R272). -/
def scheduler (s : State) : Writer := if s.ctl.fnmode.getLsbD 0 then .pf else .ranger

/-- BIND_RECORD_ARM (R267, R268), by the scheduler of the mode. -/
def execBindRecordArm (x : SlotNo) (record : BitVec 256) (s : State) : Outcome State Fault Refusal :=
  whenReady s <| .next (armRecord (scheduler s) x record s)

/-- BIND_RECORD_WITHDRAW (R267), by the scheduler of the mode: V = 0 and nothing else changes. -/
def execBindRecordWithdraw (x : SlotNo) (s : State) : Outcome State Fault Refusal :=
  whenReady s <| .next (withdrawRecord (scheduler s) x (shownRecord s x) s)

/-! ## Gang start (R83, R269) -/

def streamStart (k : Kernel) (w : Nat) : Stream :=
  match k.streams.find? fun e => e.w.toNat == w with
  | some e =>
    let copy := match k.shapes.find? fun p => p.1.toNat == w with | some p => p.2 | none => {}
    { base := e.base, stride := e.stride, count := e.count, depth := e.depth, copy := copy, source := BitVec.ofNat 4 w }
  | none => {}

def shapeStart (k : Kernel) (h : Nat) : ShapeRec :=
  match k.shapes.find? fun p => p.1.toNat == h with | some p => p.2 | none => {}

/-- The state of R83, with its cairn. -/
def freshBlock (b : Block) (k : Kernel) (param : Word) (token : BitVec 32) : Block :=
  let shapes := Vector.ofFn fun (i : Fin 16) => shapeStart k i.val
  let streams := Vector.ofFn fun (i : Fin 8) => streamStart k i.val
  let sregs := (Vector.replicate 64 (0 : Word)).set 1 param
  { b with
    st := .running, pc := k.tileBase, shapes := shapes, streams := streams, sregs := sregs, token := token,
    cairn := { Cairn.empty with pc := k.tileBase, sregs := sregs, shapes := shapes, streams := streams } }

/-- A stopped block goes on in a slot at its granted tier (R84, R269, R271); its versions are laid out in the stores of its new
core. -/
def resumedBlock (s : State) (old : Block) (b : Block) : Block :=
  { old with
    slot := b.slot, st := .running, rsv := b.rsv, wait := .none, preempt := false, graceOver := false,
    atPoint := false
    versions := old.versions.map fun v => { v with notIn := closedBanks s (slotCore b.slot) v.geom.store } }

/-- Starts or resumes the block of one bound slot. A fresh start is an acquire point: the block sees what its launch's submitter, host or
block, and the launches that it depends on have written (R235, R283, R293). A block that goes on elsewhere reads there nothing older than it has
read or synchronised with before (R231, R236, R244). A block that was DONE when its group stopped frees
its slot. -/
def startBlock (s : State) (x : SlotNo) : State :=
  match getBlock s x with
  | none => s
  | some b =>
    let r := bindRec (slotRecord s x)
    if r.kind = 1 then
      match (imageOf s r).bind fun i => i.blocks.find? fun o => o.blk == b.blk with
      | some old =>
        let back := ((imageOf s r).map StopRecord.arrivals).getD []
        dropCopies (putBlock { s with arrivals := s.arrivals ++ (back.filter fun a => a.slot == old.slot).map fun a => { a with slot := x } }
          (resumedBlock s old b)) x
      | none => clearRecord (putBlock s { b with st := .done }) x
    else
      match getKernel s b.kernel, findLaunch s b.gid.queue b.gid.seq with
      | some k, some l =>
        let (t, s1) := newToken s
        acquireAt (putBlock s1 (freshBlock b k l.param t)) x .device
      | _, _ => s

/-- The bound slots of a group. -/
def boundSlots (s : State) (g : Group) : List SlotNo :=
  ((allBlocks s).filter fun b => b.gid == g.id && b.st == .bound).map Block.slot

/-- Whether a group has its records: every BLK, in one cluster. -/
def groupComplete (s : State) (g : Group) : Bool :=
  let bs := (allBlocks s).filter fun b => b.gid == g.id && b.st == .bound
  ((List.range (g.gsize.toNat + 1)).all fun i => bs.any fun b => b.blk.toNat == i) &&
    (match bs with | [] => false | b :: _ => bs.all fun x => slotCluster x.slot == slotCluster b.slot)

def clusterOf (s : State) (g : Group) : Option (BitVec 5) := (boundSlots s g).head?.map slotCluster

def allDistinct {α : Type} [BEq α] (l : List α) : Bool :=
  match l with | [] => true | x :: r => !r.contains x && allDistinct r

/-- The groups of a band that wait to start: all of it, or, where it is resumed, those that did not end. -/
def waitingGroups (s : State) (g : Group) : List Group :=
  (bandOf s g).filter fun x => x.st == .placing || x.st == .stopped

/-- Whether a group or band can start (R269): every record is armed, each group is in a cluster of its own, on one
die, and the kernel is resident. -/
def canStart (s : State) (g : Group) : Bool :=
  let gs := waitingGroups s g
  let cl := gs.map (clusterOf s)
  (g.started || decide ((bandOf s g).length = g.bsize.toNat + 1 ∧ gs.length = g.bsize.toNat + 1)) &&
    gs.all (fun x => x.st == .placing && groupComplete s x) &&
    allDistinct cl && (cl.map fun c => c.map fun x => x.getLsbD 4).all (fun d => d == (clusterOf s g).map fun x => x.getLsbD 4) &&
    (getCtx s g.id.ctx).st == .active &&
    (match getKernel s g.kernel with | some k => k.st == .resident || k.st == .pinned | none => false)

/-- Starts one group: its blocks leave BOUND together. -/
def startGroup (s : State) (g : Group) : State :=
  let s1 := (boundSlots s g).foldl startBlock s
  let s2 := modGroup s1 g.id fun x => { x with st := .running, started := true, heldTier := x.tier, startOrder := s.free, overcap := false }
  let s3 := { s2 with stopRecords := s2.stopRecords.filter fun r => r.id != g.id }
  if g.started then s3
  else modLaunch s3 g.id.queue g.id.seq fun l => { l with started := l.started + 1 }

/-- GANG_START (R269). -/
def execGangStart (id : GroupId) (s : State) : Outcome State Fault Refusal :=
  match findGroup s id with
  | none => .next s
  | some g =>
    if g.st = .placing ∧ canStart s g then
      let s1 := (waitingGroups s g).foldl startGroup s
      .next { s1 with free := s1.free + 1 }
    else .next s

/-! ## Stop requests (R271) -/

/-- The group a GSTOP word names: bits [127:118] QUEUE, [117:64] SEQ, [63] BND, [37:32] CTX, [31:0] IDX. -/
def stopTarget (s : State) (w : BitVec 128) : Option Group :=
  s.groups.find? fun g =>
    g.id.queue == w.extractLsb' 118 10 && g.id.seq == w.extractLsb' 64 54 && g.id.ctx == w.extractLsb' 32 6 &&
    (if w.getLsbD 63 then g.band == w.extractLsb' 0 32 else g.id.grp == w.extractLsb' 0 32) &&
    (g.st == .running || g.st == .stopping)

/-- The running groups of a band are stopped by the host, which Ranger is told of in hardware mode. -/
def markHost (s : State) (g : Group) : State :=
  (bandOf s g).foldl (fun s x => if x.st = .running then modGroup s x.id fun y => { y with byHost := true } else s) s

/-- A stop request: one that names no RUNNING group, or sets a reserved bit, is refused with reason 0x09; a second
one for a group that is STOPPING has no effect. -/
def runStop (host : Bool) (w : BitVec 128) (s : State) : Outcome State Fault Refusal :=
  match stopTarget s w with
  | some g =>
    if w.extractLsb' 38 25 ≠ 0 then .next (bindRefuse s 0x1FF 0x09 (w.extractLsb' 32 6) 0x50)
    else .next (requestStop (if host then markHost s g else s) g)
  | none => .next (bindRefuse s 0x1FF 0x09 (w.extractLsb' 32 6) 0x50)

/-- GSTOP (R271). -/
def execGstop (w : BitVec 128) (s : State) : Outcome State Fault Refusal := whenReady s <| runStop true w s

/-- RANGER_STOP_REQUEST (R271): Ranger's request, in hardware mode only (R272). -/
def execRangerStopRequest (w : BitVec 128) (s : State) : Outcome State Fault Refusal :=
  if s.ctl.fnmode.getLsbD 0 then .next s else runStop false w s

/-! ## Pre-emption (R84, R103) -/

/-- GRACE_PERIOD_EXPIRY (R103): a clean block in STOPPING rolls back; others wait on, and so does one that the emulator holds
(R311). In HANDLER the expiry is held until the ERET. -/
def execGracePeriodExpiry (x : SlotNo) (s : State) : Outcome State Fault Refusal :=
  match getBlock s x with
  | none => .next s
  | some b =>
    if !b.preempt ∨ b.graceOver then .next s
    else
      let s1 := modBlock s x fun b => { b with graceOver := true }
      if b.st = .stopping ∧ !b.atPoint ∧ b.region = .clean ∧ !b.wait.emulated then .next (startRollback s1 x .preempt) else .next s1

/-- NON_YIELDING_REPORT (R103): the request still stands. -/
def execNonYieldingReport (x : SlotNo) (s : State) : Outcome State Fault Refusal :=
  match getBlock s x with
  | none => .next s
  | some b =>
    if b.preempt && b.st.live && b.st != .stopped
    then .next (ctxEvent s b.ctx 0x01 x.toNat b.pc 0) else .next s

/-! ## The end of a drain (R99) -/

/-- Whether an EXITING block's work and writes have drained. -/
def exitDrained (s : State) (b : Block) : Bool := b.flights == [] && drained s b

/-- A block reaches DONE: its objects are released, its channels freed, its barriers left, its slot freed. -/
def blockDone (s : State) (b : Block) : State :=
  let s1 := b.holding.foldl (fun s va => releaseAtExit s b va) s
  let s2 := dropLinks (dropCbClaim (freeChannels s1 b) b.slot) b.slot
  let s3 := sweepBand (clearRecord (modBlock s2 b.slot fun y =>
    { y with st := .done, holding := [], channels := [], preempt := false, wait := .none, due := none }) b.slot) b
  match findGroup s3 b.gid with
  | none => s3
  | some g =>
    let s4 := modGroup s3 g.id fun y => { y with finished := y.finished ++ [b.blk] }
    let s5 := allBars.foldl (fun s n => barLeave s g b.blk n) s4
    settleBand s5 g

/-! ## The end of a rollback (R106, R108) -/

/-- The pre-cairn instructions of a block have completed (step 2 of R108). -/
def rollDrained (s : State) (b : Block) : Bool := b.flights == [] && drained s b

end Sys2Proof.Machine
end

