-- ==== Sys2Proof/Machine/Loader.lean ====
section
/-!
DEFINITION. The kernel loader (R297 to R302, R305, R309, R310): what it reads, checks, patches and copies, and the
validation of lane functions (R77, R183).
-/
namespace Sys2Proof.Machine

/-! ## Bytes of an object -/

/-- The little-endian number of the `n` bytes at `off`. -/
def numAt (bs : List Byte) (off n : Nat) : Nat := leNat ((bs.drop off).take n)

/-- Fixed-size pieces of a byte list, as numbers. -/
def entryNats (n : Nat) (bs : List Byte) : List Nat :=
  (List.range (bs.length / n)).map fun i => numAt bs (n * i) n

/-- What a read of the context's memory by the loader gives (R305): bytes, a fault, a wait at an address on a frozen page, or the pages
beyond the package that it has still to ask for (R438). -/
inductive LoadRead where
  | ok (bs : List Byte)
  | fault
  | hold (va : Nat)
  | asks (pages : List Nat)

/-- Reads virtual memory of a context for the loader; faults are not serviced, and every page must have X (R335). Pages beyond the
package are read once the requests for them, those that `asked` names, have been answered. -/
def loaderRead (s : State) (asked : Option (List Nat)) (ctx : BitVec 6) (va n : Nat) : LoadRead × State :=
  match translateRange [] s none ctx va n .read .link (n / 4096 + 2) with
  | (.fault _ _ _ _, s1) => (.fault, s1)
  | (.hold a, s1) => (.hold a, s1)
  | (.ok segs, s1) =>
    let far := match asked with
      | some l => (segs.map fun g => g.pa / 4096).filter fun p =>
        (regionOf (p * 4096) == .host || regionOf (p * 4096) == .peer) && !l.contains p
      | none => []
    if !segs.all Seg.x then (.fault, s1)
    else if far ≠ [] then (.asks far, s1)
    else (.ok (segs.flatMap fun g => homeRead s1 g.pa g.len), s1)

/-- The loader asks for pages beyond the package. -/
def askPages (s : State) (ctx : BitVec 6) (h : BitVec 32) (pages : List Nat) : State :=
  modKernel (pages.foldl (fun s p => extRead s (.loader ctx h) (p * 4096) 4096) s) h fun k =>
    { k with asked := k.asked ++ pages }

/-! ## Header and sections (R297, R298) -/

structure ObjHeader where
  raw : Nat
  magic : Nat
  isa : Nat
  minstep : Nat
  coltor : Bool
  nsec : Nat
  length : Nat
  lgneed : Nat
  ntier : Nat
deriving DecidableEq, Repr

def objHeader (bs : List Byte) : ObjHeader :=
  let x := leNat bs
  { raw := x, magic := bitsOf x 0 32, isa := bitsOf x 32 8, minstep := bitsOf x 40 8, coltor := bitsOf x 48 1 = 1
    nsec := bitsOf x 56 4, length := bitsOf x 64 64, lgneed := bitsOf x 128 8, ntier := bitsOf x 136 8 }

def ObjHeader.tier (h : ObjHeader) (j : Nat) : Nat := bitsOf h.raw (256 + 64 * j) 64

structure Section where
  type : Nat
  rsv : Nat
  length : Nat
  offset : Nat
deriving DecidableEq, Repr

def sectionOf (x : Nat) : Section :=
  { type := bitsOf x 0 8, rsv := bitsOf x 8 24, length := bitsOf x 32 32, offset := bitsOf x 64 64 }

/-- Reasons 0x01 to 0x04, as far as the header shows them. -/
def headerReason (h : ObjHeader) (obj : Word) : Option Nat :=
  if h.magic ≠ 0x324B4C52 then some 0x01
  else if h.isa < 2 ∨ 4 < h.isa then some 0x02
  else if Config.stepping.toNat < h.minstep then some 0x03
  else if bitsOf h.raw 49 7 ≠ 0 ∨ bitsOf h.raw 60 4 ≠ 0 ∨ bitsOf h.raw 144 112 ≠ 0 ∨ h.nsec = 0 ∨ obj.toNat % 64 ≠ 0
  then some 0x04 else none

/-- The rule of R298 for one section: the multiple its OFFSET must be, and whether its LENGTH is allowed. -/
def sectionOk (x : Section) : Bool :=
  let l := x.length
  let m8 := decide (x.offset % 8 = 0)
  match x.type with
  | 0x01 => m8 && l % 8 == 0 && decide (8 ≤ l) && decide (l ≤ 1048576)
  | 0x02 => x.offset % 4 == 0 && l % 4 == 0 && decide (l ≤ 65536)
  | 0x03 => m8 && l % 8 == 0 && decide (8 ≤ l) && decide (l ≤ 65536)
  | 0x04 => m8 && l % 32 == 0 && decide (l ≤ 32 * 8)
  | 0x05 => m8 && l % 64 == 0 && decide (l ≤ 64 * 16)
  | 0x06 => m8 && l % 16 == 0
  | 0x07 => m8 && decide (8 ≤ l)
  | 0x08 => m8
  | 0x09 => m8 && l % 16 == 0
  | 0x0A => m8 && l % 32 == 0
  | _ => false

def countType (l : List Section) (t : Nat) : Nat := (l.filter fun x => x.type == t).length

def sectionsMeet (a b : Section) : Bool :=
  decide (a.offset < b.offset + b.length) && decide (b.offset < a.offset + a.length) && a.length != 0 && b.length != 0

def disjointSections (l : List Section) : Bool :=
  match l with | [] => true | x :: r => !(r.any (sectionsMeet x)) && disjointSections r

/-- Reason 0x05 (R298). -/
def sectionsOk (h : ObjHeader) (l : List Section) : Bool :=
  (l.all fun x => sectionOk x && decide (x.offset + x.length ≤ h.length)) && disjointSections l &&
  countType l 1 == 1 && ([2, 3, 4, 5, 6, 7, 9].all fun t => decide (countType l t ≤ 1)) && decide (countType l 8 ≤ 8) &&
  countType l 10 == bit01 h.coltor

/-- Reason 0x06 (R299). -/
def tiersOk (h : ObjHeader) : Bool :=
  let t := h.tier
  let fits := fun (j : Nat) =>
    let w := BitVec.ofNat 64 (t j)
    bitsOf (t j) 58 6 == 0 && bitsOf (t j) 56 2 == j && [1, 2, 3].all fun i =>
      tierBytes w i % 64 == 0 &&
        (if j = 0 then decide (tierBytes w i ≤ (if i = 3 then 131072 else 262144))
        else decide (tierBytes w i ≤ tierBytes (BitVec.ofNat 64 (t (j - 1))) i))
  decide (1 ≤ h.ntier) && decide (h.ntier ≤ 4) && (List.range 4).all fun j =>
    if j < h.ntier then fits j else t j == 0

/-- The bytes of the first section of a type. -/
def sectionBytes (bs : List Byte) (l : List Section) (t : Nat) : List Byte :=
  match l.find? fun x => x.type == t with
  | some x => (bs.drop x.offset).take x.length
  | none => []

/-! ## What a load patches -/

/-- The parts of an object that bindings and relocations patch. -/
structure LoadImage where
  tile : List Word
  handler : List Word
  lanes : List (BitVec 32)
  shapes : List Nat
  streams : List Nat
deriving DecidableEq, Repr

def loadImage (bs : List Byte) (l : List Section) : LoadImage :=
  { tile := (entryNats 8 (sectionBytes bs l 1)).map (BitVec.ofNat 64)
    handler := (entryNats 8 (sectionBytes bs l 3)).map (BitVec.ofNat 64)
    lanes := (entryNats 4 (sectionBytes bs l 2)).map (BitVec.ofNat 32)
    shapes := entryNats 64 (sectionBytes bs l 5)
    streams := entryNats 32 (sectionBytes bs l 4) }

/-- Replaces bits `lo` to `lo + w − 1`. -/
def putBits (x lo w v : Nat) : Nat := x - bitsOf x lo w * 2 ^ lo + v % 2 ^ w * 2 ^ lo

/-- Replaces imm32 of a word. -/
def setImm (w : Word) (v : Nat) : Word := BitVec.ofNat 64 (putBits w.toNat 0 32 v)

/-! ## Lane functions (R77, R183) -/

/-- How a lane opcode uses its fields (R75): the FORMs it has, and what vd, va, vb and PRED stand for. -/
structure LaneUse where
  forms : List Nat
  vd : Bool
  va : Bool
  vb : Bool
  preds : Bool := false
  cmp : Bool := false
  need : Bool := false
  noPred : Bool := false
deriving DecidableEq, Repr

def laneUse (op : Nat) : Option LaneUse :=
  if (1 ≤ op ∧ op ≤ 0x0E) ∨ (0x20 ≤ op ∧ op ≤ 0x25) then some { forms := [0, 1, 2], vd := true, va := true, vb := true }
  else if op = 0x0F ∨ (0x26 ≤ op ∧ op ≤ 0x2A) ∨ op = 0x4E then some { forms := [0], vd := true, va := true, vb := false }
  else if op = 0x2B then some { forms := [2], vd := true, va := true, vb := true }
  else if 0x40 ≤ op ∧ op ≤ 0x45 then some { forms := [0, 1, 2], vd := true, va := true, vb := true, cmp := true }
  else if 0x46 ≤ op ∧ op ≤ 0x48 then some { forms := [0], vd := true, va := true, vb := true, preds := true }
  else if op = 0x49 then some { forms := [0], vd := true, va := true, vb := false, preds := true }
  else if op = 0x4A then some { forms := [0, 1, 2], vd := true, va := true, vb := true, need := true }
  else if op = 0x4B then some { forms := [0, 1, 2], vd := true, va := false, vb := true }
  else if op = 0x4C then some { forms := [0], vd := true, va := false, vb := false }
  else if op = 0x4D then some { forms := [0], vd := true, va := true, vb := true }
  else if op = 0x4F then some { forms := [0], vd := true, va := true, vb := false, need := true }
  else if op = 0x50 then some { forms := [0], vd := true, va := true, vb := false, noPred := true }
  else if op = 0x51 then some { forms := [0], vd := false, va := true, vb := false, noPred := true }
  else if op = 0x52 then some { forms := [0], vd := false, va := false, vb := false, noPred := true }
  else none

/-- The lane types (R26, R183). -/
def isLaneType (t : BitVec 5) : Bool := (1 ≤ t.toNat && t.toNat ≤ 6) || (8 ≤ t.toNat && t.toNat ≤ 10)

/-- The vector registers that a word names. -/
def laneRegsNamed (x : BitVec 32) : List Nat :=
  let op := (laneOp x).toNat
  match laneUse op with
  | none => []
  | some u =>
    if u.preds || op == 0x50 then []
    else
      (if u.vd && !u.cmp then [(laneVd x).toNat] else []) ++ (if u.va then [(laneVa x).toNat] else []) ++
      (if u.vb && laneForm x == 0 then [(laneVb x).toNat] else [])

/-- The predicates that vd, va and vb name. -/
def lanePredsNamed (x : BitVec 32) : List Nat :=
  match laneUse (laneOp x).toNat with
  | none => []
  | some u =>
    if u.preds then [(laneVd x).toNat, (laneVa x).toNat] ++ (if u.vb then [(laneVb x).toNat] else [])
    else if u.cmp then [(laneVd x).toNat] else []

/-- The reasons of R77 that one word gives in a function of `n` registers. -/
def laneReasons (x : BitVec 32) (n : Nat) : List Nat :=
  let op := (laneOp x).toNat
  match laneUse op with
  | none => [0x21]
  | some u =>
    let form := (laneForm x).toNat
    let pred := (Sys2Proof.lanePred x).toNat
    let reOk := form == 0 && u.vb && !u.preds
    (if u.forms.contains form then [] else [0x22]) ++
    (if (24 ≤ pred && pred ≤ 30) || (u.need && pred == 31) || (u.noPred && pred != 31) then [0x23] else []) ++
    (if (laneRegsNamed x).any (fun r => decide (n ≤ r)) || (lanePredsNamed x).any (fun r => decide (24 ≤ r)) ||
        (u.vb && form == 1 && decide (16 ≤ (laneVb x).toNat)) then [0x24] else []) ++
    (if (!u.vd && laneVd x != 0) || (!u.va && laneVa x != 0) || (!u.vb && laneVb x != 0) ||
        (op == 0x50 && (laneVa x).getLsbD 0) || (!laneRe x && laneRsz x != 0) || (laneRe x && !reOk) then [0x25] else []) ++
    (if (op == 0x50 && !isLaneType (laneVd x)) || (op == 0x2B && !isLaneType (laneVb x)) then [0x27] else [])

/-- Reason 0x20 (R76). -/
def laneHeaderBad (h : BitVec 32) : Bool :=
  decide (3 ≤ (h.extractLsb' 28 4).toNat) || laneLen h == 0 || decide (256 < laneLen h) ||
    decide ((h.extractLsb' 13 3).toNat < (h.extractLsb' 16 3).toNat) ||
    (h.extractLsb' 9 3 != 0 && !h.getLsbD 12) || !isLaneType (laneType h).type

/-- Reason 0x26. -/
def laneRetBad (body : List (BitVec 32)) (len : Nat) : Bool :=
  decide (body.length < len) || (match body.reverse with | [] => true | w :: r => laneOp w != 0x51 || r.any fun x => laneOp x == 0x51)

/-- Whether R183 allows an opcode under a current type. -/
def laneTypeOk (op : Nat) (t : BitVec 5) : Bool :=
  let n := t.toNat
  if op = 0x05 ∨ op = 0x0E then 1 ≤ n && n ≤ 4
  else if 8 ≤ op ∧ op ≤ 0x0A then true
  else if op ≤ 0x0F then 1 ≤ n && n ≤ 6
  else if 0x20 ≤ op ∧ op ≤ 0x2A then 8 ≤ n && n ≤ 10
  else if op = 0x4E then n == 5 || n == 6
  else true

/-- Reason 0x28 (R183). -/
def laneTypesBad (t : BitVec 5) (ew : Bool) (l : List (BitVec 32)) : Bool :=
  match l with
  | [] => false
  | x :: r =>
    let op := (laneOp x).toNat
    !laneTypeOk op t || (ew && (laneRe x || op == 0x4D || op == 0x4E || op == 0x4F)) ||
      laneTypesBad (if op = 0x50 then laneVd x else t) ew r

/-- The reason of the first function in section order that fails (R77), or none. -/
def laneSectionReason (l : List (BitVec 32)) (fuel : Nat) : Option Nat :=
  match fuel, l with
  | 0, _ => none
  | _, [] => none
  | k + 1, h :: r =>
    if laneHeaderBad h then some 0x20
    else
      let body := r.take (laneLen h)
      let bad := (body.flatMap fun x => laneReasons x (laneRegs h)) ++ (if laneRetBad body (laneLen h) then [0x26] else [])
      match bad with
      | x :: y => some (y.foldl min x)
      | [] =>
        if laneTypesBad (laneType h).type (h.getLsbD 12) body then some 0x28
        else laneSectionReason (r.drop (laneLen h)) k

/-- The headers of a lane section that has passed. -/
def laneHeaders (l : List (BitVec 32)) (fuel : Nat) : List (BitVec 32) :=
  match fuel, l with
  | 0, _ => []
  | _, [] => []
  | k + 1, h :: r => h :: laneHeaders (r.drop (laneLen h)) k

/-! ## Coltor bindings (R309, R310) -/

structure Binder where
  src : Nat
  site : Nat
  loc : Nat
  mul : Int
  add : Int
  div : Nat
  align : Nat
  lo : Nat
  hi : Nat
  rsv : Nat
  rest : Nat
deriving DecidableEq, Repr

def binderOf (x : Nat) : Binder :=
  { src := bitsOf x 0 8, site := bitsOf x 8 8, loc := bitsOf x 32 32, mul := readInt true 32 (bitsOf x 96 32)
    add := readInt true 32 (bitsOf x 128 32), div := bitsOf x 160 16, align := bitsOf x 176 16, lo := bitsOf x 192 32
    hi := bitsOf x 224 32, rsv := bitsOf x 16 16 + bitsOf x 64 32, rest := bitsOf x 96 160 }

def allCores : List (BitVec 8) := (List.range 256).map (BitVec.ofNat 8)

/-- The smallest value over the cores that are not retired. -/
def leastOf (s : State) (f : BitVec 8 → Nat) : Nat := minList ((allCores.filter fun c => !coreRetired s c).map f) 0

/-- The value of a source at load. -/
def sourceValue (s : State) (h : ObjHeader) (src : Nat) : Option Nat :=
  let tier := fun i => some (tierBytes (BitVec.ofNat 64 (h.tier 0)) i)
  match src with
  | 1 => some (leastOf s fun c => capStore s c 0)
  | 2 => some (leastOf s fun c => capStore s c 1)
  | 3 => some (leastOf s fun c => capStore s c 2)
  | 4 => some (leastOf s (capL s))
  | 5 => some (leastOf s (capLg s))
  | 6 => some (leastOf s fun c => vlMax (capL s c) 8)
  | 7 => some (leastOf s fun c => vlMax (capL s c) 16)
  | 8 => some (leastOf s fun c => vlMax (capL s c) 32)
  | 9 => some Config.prefetchDepth
  | 10 => tier 1
  | 11 => tier 2
  | 12 => tier 3
  | _ => none

/-- Bind of R310. -/
def bindValue (b : Binder) (v : Nat) : Nat :=
  let x := Int.fdiv (b.mul * v + b.add) b.div
  let y := x - Int.fmod x b.align
  min (max y b.lo).toNat b.hi

def powerOfTwo (n : Nat) : Bool := (List.range 16).any fun i => n == 2 ^ i

/-- Offset, in bits, and width of a shape table entry's field; and the width of the field itself (R111, R300). -/
def shapeSite (field : Nat) : Option (Nat × Nat × Nat) :=
  match field with
  | 0 => some (64, 16, 13) | 1 => some (80, 16, 13) | 2 => some (96, 8, 5) | 3 => some (104, 8, 2)
  | 4 => some (128, 32, 17) | 5 => some (192, 64, 39) | 6 => some (256, 64, 39) | 7 => some (112, 16, 9)
  | 8 => some (320, 32, 32) | 9 => some (384, 64, 64) | 10 => some (352, 32, 32)
  | _ => none

def isMovi (w : Word) : Bool := match decodeSeq w with | .ok (.movi _) => true | _ => false

/-- Writes a bound value to its site; none where the locator names none or the value does not fit. -/
def patchSite (m : LoadImage) (site loc v : Nat) : Option LoadImage :=
  match site with
  | 1 =>
    match m.tile[loc / 8]? with
    | some w => if loc % 8 = 0 ∧ isMovi w then some { m with tile := m.tile.set (loc / 8) (setImm w v) } else none
    | none => none
  | 2 =>
    match m.shapes[loc % 256]?, shapeSite (loc / 256 % 16) with
    | some e, some (lo, w, n) =>
      if loc / 4096 = 0 ∧ v < 2 ^ n then some { m with shapes := m.shapes.set (loc % 256) (putBits e lo w v) } else none
    | _, _ => none
  | 3 =>
    match m.streams[loc]? with
    | some e => if v < 8 then some { m with streams := m.streams.set loc (putBits e 8 8 v) } else none
    | none => none
  | 4 =>
    match m.streams[loc]? with
    | some e => if v < 2 ^ 28 then some { m with streams := m.streams.set loc (putBits e 192 32 v) } else none
    | none => none
  | _ => none

/-- Whether a function's header stands at word `off` of a lane section. -/
def isLaneHeader (l : List (BitVec 32)) (off fuel : Nat) : Bool :=
  match fuel, l with
  | 0, _ => false
  | _, [] => false
  | k + 1, h :: r => off == 0 || (decide (laneLen h + 1 ≤ off) && isLaneHeader (r.drop (laneLen h)) (off - (laneLen h + 1)) k)

/-- Site 5: the smallest NREG for the registers that a function names. -/
def patchNreg (m : LoadImage) (loc : Nat) : Option LoadImage :=
  let i := loc / 4
  if loc % 4 ≠ 0 ∨ !isLaneHeader m.lanes i (m.lanes.length + 1) then none
  else
    match m.lanes[i]? with
    | none => none
    | some h =>
      let names := ((m.lanes.drop (i + 1)).take (laneLen h)).flatMap laneRegsNamed
      let code := if names.all fun r => decide (r < 8) then 0 else if names.all fun r => decide (r < 16) then 1 else 2
      some { m with lanes := m.lanes.set i (BitVec.ofNat 32 (putBits h.toNat 28 4 code)) }

/-- One binding (R309, R310). -/
def applyBinder (s : State) (h : ObjHeader) (m : LoadImage) (b : Binder) : Option LoadImage :=
  if b.rsv ≠ 0 then none
  else if b.site = 5 then (if b.src = 0 ∧ b.rest = 0 then patchNreg m b.loc else none)
  else
    match sourceValue s h b.src with
    | none => none
    | some v => if b.div = 0 ∨ !powerOfTwo b.align ∨ b.hi < b.lo then none else patchSite m b.site b.loc (bindValue b v)

def applyBinders (s : State) (h : ObjHeader) (m : LoadImage) (l : List Binder) : Option LoadImage :=
  match l with
  | [] => some m
  | b :: r => (applyBinder s h m b).bind fun m1 => applyBinders s h m1 r

/-! ## Region table, relocations, shapes, streams (R300 to R302) -/

/-- The REGION words of the tile code with their masks, in offset order. -/
def regionWords (l : List Word) : List (Nat × BitVec 32) :=
  (List.zip l (List.range l.length)).filterMap fun p =>
    if Sys2Proof.majOf p.1 = 0x0B ∧ Sys2Proof.minOf p.1 = 0 then some (8 * p.2, p.1.extractLsb' 0 32) else none

/-- Reason 0x09 (R301). -/
def regionsOk (m : LoadImage) (l : List Nat) : Bool :=
  (l.all fun x => bitsOf x 96 32 == 0) && l.map (fun x => (bitsOf x 0 64, BitVec.ofNat 32 (bitsOf x 64 32))) == regionWords m.tile

/-- D(i) of R302 for a list of section lengths. -/
def dataOffsets (l : List Nat) (at_ : Nat) : List Nat :=
  match l with | [] => [] | n :: r => at_ :: dataOffsets r (at_ + roundUp n 4096)

/-- One relocation (R302); none where it breaks its rules. -/
def relocate (data : Nat) (lens : List Nat) (m : LoadImage) (x : Nat) : Option LoadImage :=
  let off := bitsOf x 0 64
  let i := bitsOf x 64 3
  match m.tile[off / 8]?, m.tile[off / 8 + 1]?, lens[i]?, (dataOffsets lens 0)[i]? with
  | some w0, some w1, some len, some d =>
    match decodeSeq w0, decodeSeq w1 with
    | .ok (.movi a), .ok (.movhi b) =>
      let addend := a.imm.toNat + b.imm.toNat * 2 ^ 32
      if off % 8 = 0 ∧ bitsOf x 67 61 = 0 ∧ a.sd = b.sd ∧ addend < len then
        let v := data + d + addend
        some { m with tile := (m.tile.set (off / 8) (setImm w0 v)).set (off / 8 + 1) (setImm w1 (v / 2 ^ 32)) }
      else none
    | _, _ => none
  | _, _, _, _ => none

def relocateAll (data : Nat) (lens : List Nat) (m : LoadImage) (l : List Nat) : Option LoadImage :=
  match l with
  | [] => some m
  | x :: r => (relocate data lens m x).bind fun m1 => relocateAll data lens m1 r

/-- A value of the signed 40-bit fields MROW and MCOL, sign-extended to 64 bits. -/
def fits40 (x : Nat) : Bool := let v := readInt true 64 x; decide (-(2 ^ 39) ≤ v) && decide (v < 2 ^ 39)

/-- A shape table entry (R300). -/
def shapeEntry (x : Nat) : Option (BitVec 4 × ShapeRec) :=
  let f := fun lo w => bitsOf x lo w
  if f 8 56 ≠ 0 ∨ f 160 32 ≠ 0 ∨ f 448 64 ≠ 0 ∨ 16 ≤ f 0 8 ∨ 2 ^ 13 ≤ f 64 16 ∨ 2 ^ 13 ≤ f 80 16 ∨ 32 ≤ f 96 8 ∨
      4 ≤ f 104 8 ∨ 2 ^ 9 ≤ f 112 16 ∨ 2 ^ 17 ≤ f 128 32 ∨ !fits40 (f 192 64) ∨ !fits40 (f 256 64) then none
  else
    some (BitVec.ofNat 4 (f 0 8),
      { rows := BitVec.ofNat 13 (f 64 16), cols := BitVec.ofNat 13 (f 80 16), type := BitVec.ofNat 5 (f 96 8)
        store := BitVec.ofNat 2 (f 104 8), fmt := BitVec.ofNat 9 (f 112 16), pitch := BitVec.ofNat 17 (f 128 32)
        mrow := BitVec.ofNat 40 (f 192 64), mcol := BitVec.ofNat 40 (f 256 64), limit := BitVec.ofNat 32 (f 320 32)
        fill := BitVec.ofNat 32 (f 352 32), scale := BitVec.ofNat 64 (f 384 64) })

/-- A stream table entry (R300). -/
def streamEntry (x : Nat) : Option StreamInit :=
  let f := fun lo w => bitsOf x lo w
  if f 16 48 ≠ 0 ∨ f 224 32 ≠ 0 ∨ 8 ≤ f 0 8 ∨ 8 ≤ f 8 8 ∨ 2 ^ 28 ≤ f 192 32 then none
  else some { w := BitVec.ofNat 3 (f 0 8), depth := BitVec.ofNat 3 (f 8 8), base := BitVec.ofNat 64 (f 64 64)
              stride := BitVec.ofNat 64 (f 128 64), count := BitVec.ofNat 28 (f 192 32) }

/-! ## The checks of R305, in order -/

/-- What a load yields. -/
structure Loaded where
  image : LoadImage
  shapes : List (BitVec 4 × ShapeRec)
  streams : List StreamInit
  regions : List (Nat × BitVec 32)
  datas : List (List Byte)
  tiers : List Word
  lgneed : Nat
deriving DecidableEq, Repr

def dataSections (bs : List Byte) (l : List Section) : List (List Byte) :=
  (l.filter fun x => x.type == 8).map fun x => (bs.drop x.offset).take x.length

/-- The end of the placed data sections, from DATA on (R302). -/
def dataEnd (lens : List Nat) : Nat :=
  match lens.reverse, (dataOffsets lens 0).reverse with | n :: _, d :: _ => d + n | _, _ => 0

/-- The checks that need the whole object, 0x08 to 0x29 and 0x0D. `bind` is false where the caller keeps the data
placement, as a restore does. -/
def objectChecks (s : State) (f : KcmdF) (h : ObjHeader) (l : List Section) (bs : List Byte) : Except Nat Loaded :=
  let datas := dataSections bs l
  let lens := datas.map List.length
  match applyBinders s h (loadImage bs l) ((entryNats 32 (sectionBytes bs l 0x0A)).map binderOf) with
  | none => .error 0x08
  | some m0 =>
    let regions := entryNats 16 (sectionBytes bs l 6)
    if !regionsOk m0 regions then .error 0x09
    else
      match relocateAll f.data.toNat lens m0 (entryNats 16 (sectionBytes bs l 9)) with
      | none => .error 0x0A
      | some m =>
        match m.shapes.mapM shapeEntry with
        | none => .error 0x0B
        | some sh =>
          if !allDistinct (sh.map Prod.fst) then .error 0x0B
          else
            match m.streams.mapM streamEntry with
            | none => .error 0x0C
            | some st =>
              if !allDistinct (st.map StreamInit.w) then .error 0x0C
              else
                match laneSectionReason m.lanes (m.lanes.length + 1) with
                | some r => .error r
                | none =>
                  if (laneHeaders m.lanes (m.lanes.length + 1)).any fun x => decide (h.lgneed < laneMin x) then .error 0x29
                  else if f.dlen.toNat < dataEnd lens ∨ f.data.toNat % 4096 ≠ 0 then .error 0x0D
                  else .ok { image := m, shapes := sh, streams := st, regions := regionWords m.tile, datas := datas
                             tiers := (List.range h.ntier).map fun j => BitVec.ofNat 64 (h.tier j), lgneed := h.lgneed }

/-- How a load ends: with what it loaded and the bytes read, with a reason, or not yet: at a frozen page, or at pages beyond the
package. -/
inductive LoadEnd where
  | ok (x : Loaded) (bs : List Byte)
  | failed (reason : Nat)
  | waits (va : Nat)
  | asks (pages : List Nat)

/-- The end of a load at a read that gives no bytes. -/
def LoadRead.ends (r : LoadRead) : LoadEnd :=
  match r with | .hold va => .waits va | .asks l => .asks l | .ok _ => .failed 0x0E | .fault => .failed 0x0E

/-! ### An object that cannot be read whole: the checks that come before the first section out of reach -/

/-- The checks of R305 that read sections, in order, each with its reason and the types that it reads. -/
def checkReads (l : List Section) : List (Nat × List Nat) :=
  let has := fun (t : Nat) => l.any fun x => x.type == t && x.length != 0
  (if has 0x0A then [(0x08, [0x0A, 1, 2, 4, 5])] else []) ++ [(0x09, [6, 1])] ++ (if has 9 then [(0x0A, [9, 1])] else []) ++
    [(0x0B, [5]), (0x0C, [4]), (0x20, [2])]

/-- The place of a reason in the order of the checks (R305): the lane functions' come before 0x0D. -/
def reasonPlace (r : Nat) : Nat := if r = 0x0D then 0x30 else r

def sectionReads (s : State) (asked : Option (List Nat)) (f : KcmdF) (x : Section) : Bool :=
  match (loaderRead s asked f.ctx (f.obj.toNat + x.offset) x.length).1 with | .ok _ => true | _ => false

/-- The first check that a section out of reach stops, by its place. -/
def firstUnread (s : State) (asked : Option (List Nat)) (f : KcmdF) (l : List Section) : Nat :=
  match (checkReads l).find? fun c => l.any fun x => c.2.contains x.type && !sectionReads s asked f x with
  | some c => c.1
  | none => 0x31

/-- The object's bytes with 0 for those out of reach. -/
def readableBytes (s : State) (asked : Option (List Nat)) (f : KcmdF) (n : Nat) : List Byte :=
  (List.range (roundUp n 64 / 64)).flatMap fun i =>
    let m := min 64 (n - 64 * i)
    match (loaderRead s asked f.ctx (f.obj.toNat + 64 * i) m).1 with | .ok bs => bs | _ => List.replicate m 0

/-- Reads and checks the object of a command (R305). -/
def loadObject (s : State) (asked : Option (List Nat)) (f : KcmdF) : LoadEnd × State :=
  match loaderRead s asked f.ctx f.obj.toNat 64 with
  | (.ok hb, s1) =>
    let h := objHeader hb
    match headerReason h f.obj with
    | some r => (.failed r, s1)
    | none =>
      match loaderRead s1 asked f.ctx (f.obj.toNat + 64) (16 * h.nsec) with
      | (.ok tb, s2) =>
        let l := (entryNats 16 tb).map sectionOf
        if l.any fun x => x.rsv != 0 then (.failed 0x04, s2)
        else if !sectionsOk h l then (.failed 0x05, s2)
        else if !tiersOk h then (.failed 0x06, s2)
        else if h.lgneed = 0 ∨ 8 < h.lgneed then (.failed 0x07, s2)
        else
          match loaderRead s2 asked f.ctx f.obj.toNat h.length with
          | (.ok bs, s3) =>
            match objectChecks s3 f h l bs with
            | .error r => (.failed r, s3)
            | .ok x => (.ok x bs, s3)
          | (e, s3) =>
            match objectChecks s3 f h l (readableBytes s3 asked f h.length) with
            | .error r => if reasonPlace r < firstUnread s3 asked f l then (.failed r, s3) else (e.ends, s3)
            | .ok _ => (e.ends, s3)
      | (e, s2) => (e.ends, s2)
  | (e, s1) => (e.ends, s1)

/-- Writes bytes over translated pieces; the writes beyond the package are requests, whose completions the load awaits (R438). -/
def writeSegs (s : State) (who : ExtAgent) (segs : List Seg) (bs : List Byte) : State :=
  match segs with
  | [] => s
  | g :: r => writeSegs (extWrite (homeWrite s .device g.pa (bs.take g.len)) who g.pa (bs.take g.len)) who r (bs.drop g.len)

/-- How the copy of the data sections ends: done, at a fault, or not yet, at an address on a frozen page (R353). -/
inductive CopyEnd where
  | done | fault
  | waits (va : Nat)
deriving DecidableEq, Repr

/-- Copies the data sections (R302); a fault leaves the range partly written (R305). A copy that waits begins again. -/
def copyData (s : State) (h : BitVec 32) (f : KcmdF) (l : List (Nat × List Byte)) : CopyEnd × State :=
  match l with
  | [] => (.done, s)
  | (d, bs) :: r =>
    match translateRange [] s none f.ctx (f.data.toNat + d) bs.length .write .link (bs.length / 4096 + 2) with
    | (.ok segs, s1) => copyData (writeSegs s1 (.loader f.ctx h) segs bs) h f r
    | (.hold a, s1) => (.waits a, s1)
    | (.fault _ _ _ _, s1) => (.fault, s1)

end Sys2Proof.Machine
end

