-- ==== Sys2Proof/Machine/Queue.lean ====
section
/-!
DEFINITION. Launch queues (R280 to R293): acceptance, eligibility, offers and completion of launches, the commands of
a queue, and LAUNCH.
-/
namespace Sys2Proof.Machine

open Host (Outcome)

/-! ## Queue registers (R280) -/

def getQueue (s : State) (q : BitVec 10) : Queue := tabGet s.queues q.toNat {}
def setQueue (s : State) (q : BitVec 10) (x : Queue) : State := { s with queues := tabSet s.queues q.toNat x }
def modQueue (s : State) (q : BitVec 10) (f : Queue → Queue) : State := setQueue s q (f (getQueue s q))

def Queue.ctx (x : Queue) : BitVec 6 := x.cfg.extractLsb' 0 6
def Queue.pmax (x : Queue) : BitVec 2 := x.cfg.extractLsb' 6 2
def Queue.clog (x : Queue) : Nat := (x.cfg.extractLsb' 31 5).toNat
def Queue.irq (x : Queue) : Bool := x.cfg.getLsbD 36
def Queue.vec (x : Queue) : BitVec 11 := x.cfg.extractLsb' 37 11

/-- Whether records are accepted (R281). -/
def Queue.accepting (x : Queue) : Bool := x.st == .opened || x.st == .halted

/-- A refusal in QERR (R280), reported to the bound context. -/
def queueRefuse (s : State) (q : BitVec 10) (reason off : Nat) : State :=
  let x := getQueue s q
  let s1 := setQueue s q { x with qerr := BitVec.ofNat 64 (0x100 + reason) }
  if x.st = .unbound then s1 else refusalEvent s1 x.ctx reason (q.toNat * 4096 + off)

/-- The function a writer stands for (R397); Ranger is none. -/
def Writer.fn (w : Writer) : Option Nat := match w with | .pf => some 0 | .vf n => some n.toNat | .ranger => none

def ownerOf (t : List (Nat × Byte)) (i : Nat) : Nat := (tabGet t i (0 : Byte)).toNat

/-- Whether a writer's copy of a queue page is live (R396). -/
def ownsQueue (s : State) (w : Writer) (q : BitVec 10) : Bool := Writer.fn w == some (ownerOf s.qown q.toNat)

/-! ## Completion (R289, R291) -/

def queueLaunches (s : State) (q : BitVec 10) : List Launch := s.launches.filter fun l => l.q == q

/-- DRAINING closes with the last incomplete launch (R281). -/
def settleQueue (s : State) (q : BitVec 10) : State :=
  let x := getQueue s q
  if x.st = .draining ∧ (queueLaunches s q).all Launch.ended ∧ !(s.submitted.any fun r => r.1 == q)
  then setQueue s q { x with st := .closed } else s

/-- Releases an object that a launch holds (R289). -/
def releaseGranted (s : State) (l : Launch) (va : Word) : State :=
  objDo s { ctx := l.ctx, va := va, token := l.token, slot := none, broken := false }

/-- The body of a completion record without PHASE (R290). -/
def recordBody (l : Launch) (ev : Word) (status : Nat) : BitVec 256 :=
  BitVec.ofNat 256 (l.user.toNat * 2 ^ 192 + ev.toNat * 2 ^ 128 + l.q.toNat * 2 ^ 118 + l.seq.toNat * 2 ^ 64 +
    l.gdone % 2 ^ 32 * 2 ^ 32 + status)

/-- A launch completes (R289): its objects are released, its completion record is decided, and a status other than
DONE halts an OPEN queue. -/
def endLaunch (s : State) (q : BitVec 10) (seq : BitVec 54) : State :=
  match findLaunch s q seq with
  | none => s
  | some l =>
    if l.ended then s
    else
      let s1 := modLaunch s q seq fun l => { l with ended := true }
      let s2 := { cancelFaults s1 (fun a => a == .object q seq || a == .count q seq) with
        objWaits := s1.objWaits.filter fun w => w.who != .launch q seq }
      let s3 := withdrawLaunch (l.granted.foldl (fun s g => releaseGranted s l g.1) s2) q seq
      let (ev, s4) := nextEvent s3
      let body := recordBody l ev (match l.failed with | some f => f.code | none => 0)
      let s5 := if (getQueue s4 q).dead then s4
        else { s4 with pendingRecords := s4.pendingRecords ++ [⟨q, seq, body⟩] }
      let x := getQueue s5 q
      let s6 := if x.st = .opened ∧ l.failed.isSome then setQueue s5 q { x with st := .halted } else s5
      settleQueue s6 q

def failLaunch (s : State) (q : BitVec 10) (seq : BitVec 54) (f : LaunchStatus) : State :=
  endLaunch (modLaunch s q seq fun l => l.fail f) q seq

/-- Whether a launch has ended: its started groups are DONE or KILLED, and it starts no more (R289). -/
def Launch.canEnd (l : Launch) : Bool :=
  decide (l.gdone + l.gkilled = l.started) &&
    (l.failed.isSome || (l.eligible && decide (l.started = l.total)))

/-- LAUNCH_COMPLETE (R289). -/
def execLaunchComplete (q : BitVec 10) (seq : BitVec 54) (s : State) : Outcome State Fault Refusal :=
  match findLaunch s q seq with
  | some l => if l.canEnd then .next (endLaunch s q seq) else .next s
  | none => .next s

/-! ## Acceptance (R283, R284) -/

def recDep (r : BitVec 512) (j : Nat) : Word := r.extractLsb' (256 + 64 * j) 64
def depPresent (r : BitVec 512) (j : Nat) : Bool := r.getLsbD (176 + j)
def depObject (r : BitVec 512) (j : Nat) : Bool := r.getLsbD (180 + j)

/-- The first row of R284. -/
def launchMalformed (l : Launch) : Bool :=
  l.field 184 8 != 0 || l.field 174 2 != 0 || (!l.ind && l.field 32 32 != 0) || decide (l.param.toNat % 8 ≠ 0) ||
    (l.ind && decide (l.cnt.toNat % 4 ≠ 0)) || (!l.record.getLsbD 168 && l.bsize != 0)

def KernelSt.loaded (x : KernelSt) : Bool := match x with | .loading => false | _ => true

/-- The second row of R284. -/
def launchKernelBad (s : State) (l : Launch) : Bool :=
  match getKernel s l.kernel with
  | some k => !k.st.loaded || k.ctx != l.ctx || decide (k.tiers.length ≤ l.tier.toNat)
  | none => true

/-- The third row of R284 for dependency j. -/
def depMalformed (s : State) (l : Launch) (j : Nat) : Bool :=
  let w := recDep l.record j
  depPresent l.record j &&
    (if depObject l.record j then w.extractLsb' 49 15 != 0 || decide (w.toNat % 16 ≠ 0)
    else
      let q2 := w.extractLsb' 54 10
      let s2 := w.extractLsb' 0 54
      let x := getQueue s q2
      s2 == 0 || (q2 == l.q && decide (l.seq.toNat ≤ s2.toNat)) || (x.st != .unbound && x.ctx != l.ctx))

def launchReason (s : State) (l : Launch) : Option LaunchStatus :=
  if launchMalformed l || launchKernelBad s l then some .badrec
  else if (List.range 4).any (depMalformed s l) then some .baddep
  else none

/-- PRIO is lowered to PMAX. -/
def capPrio (r : BitVec 512) (pmax : BitVec 2) : BitVec 512 :=
  if pmax.toNat < (r.extractLsb' 170 2).toNat
  then (r &&& ~~~((3 : BitVec 512) <<< 170)) ||| (pmax.setWidth 512 <<< 170) else r

/-- A record is numbered and checked. -/
def acceptRecord (s : State) (q : BitVec 10) (rec_ : BitVec 512) : BitVec 54 × State :=
  let x := getQueue s q
  let (t, s1) := newToken s
  let l : Launch := { q := q, seq := x.next, ctx := x.ctx, record := capPrio rec_ x.pmax, token := t }
  let s2 := setQueue { s1 with launches := s1.launches ++ [l] } q { x with next := x.next + 1 }
  match launchReason s2 l with
  | some f => (x.next, failLaunch s2 q x.next f)
  | none => (x.next, s2)

/-- LREC_WRITE (R283): one aligned 64-byte write is a record. -/
def execLrecWrite (who : Writer) (q : BitVec 10) (off : BitVec 12) (data : List Byte) (s : State) :
    Outcome State Fault Refusal := onlyReady s <|
  if !ownsQueue s who q ∨ 0x40 ≤ off.toNat then .next s
  else if off ≠ 0 ∨ data.length ≠ 64 then .next (queueRefuse s q 0x12 0)
  else if !(getQueue s q).accepting then .next (queueRefuse s q 0x11 0)
  else .next { s with submitted := s.submitted ++ [(q, BitVec.ofNat 512 (leNat data))] }

/-- Accepts the records that have arrived at a queue, in order. -/
def acceptArrived (s : State) (q : BitVec 10) (fuel : Nat) : State :=
  match fuel with
  | 0 => s
  | k + 1 =>
    match s.submitted.find? fun r => r.1 == q with
    | some r => acceptArrived (acceptRecord { s with submitted := s.submitted.erase r } q r.2).2 q k
    | none => s

/-- LAUNCH_ACCEPT (R283, R284): the oldest record that arrived at the queue, the function's earlier posted writes
having landed. -/
def execLaunchAccept (q : BitVec 10) (s : State) : Outcome State Fault Refusal := .next (acceptArrived s q 1)

/-- Events of a queue are taken in arrival order: the records that have arrived come first. -/
def afterArrivals (s : State) (q : BitVec 10) : State := acceptArrived s q s.submitted.length

/-- A queue closes (R281): launches not complete, records that arrived before it among them, end ABORTED, their groups are
killed. -/
def closeQueue (s : State) (q : BitVec 10) : State :=
  let s0 := modQueue (if (getQueue s q).accepting then afterArrivals s q else s) q fun x => { x with st := .closed }
  ((queueLaunches s0 q).filter fun l => !l.ended).foldl (fun s l =>
    let s1 := modLaunch s q l.seq fun l => l.fail .aborted
    let gs := s1.groups.filter fun g => g.id.queue == q && g.id.seq == l.seq
    let s2 := gs.foldl (fun s g => killGroup s g.id LaunchStatus.aborted.code .aborted) (withdrawLaunch s1 q l.seq)
    endLaunch s2 q l.seq) s0

/-- A queue closes because a completion record cannot be written (R281, R290, R438). -/
def closeForRecord (s : State) (q : BitVec 10) (reason : Nat) : State :=
  let s1 := queueRefuse s q reason 0x820
  closeQueue { modQueue s1 q fun x => { x with dead := true } with
    pendingRecords := s1.pendingRecords.filter fun r => r.q != q } q

/-! ## Commands (R281) -/

def commandRefused (s : State) (q : BitVec 10) : Outcome State Fault Refusal := .next (queueRefuse s q 0x13 0x808)

/-- Whether BIND's checks pass (R280). -/
def bindOk (s : State) (x : Queue) : Bool :=
  (getCtx s (x.qcfg.extractLsb' 0 6)).st == .active && decide (4 ≤ bitsOf x.qcfg.toNat 31 5) &&
    decide (bitsOf x.qcfg.toNat 31 5 ≤ 16) && decide (x.qcplb.toNat % 32 = 0)

/-- Nothing remains of a queue's earlier binding. -/
def forgetQueue (s : State) (q : BitVec 10) : State :=
  { s with
    launches := s.launches.filter fun l => l.q != q
    groups := s.groups.filter fun g => g.id.queue != q
    bandBars := s.bandBars.filter fun b => b.queue != q
    pendingRecords := s.pendingRecords.filter fun r => r.q != q
    faults := s.faults.filter fun f => f.agent != .completion q
    held := s.held.filter fun h => h.agent != .completion q
    requests := s.requests.filter fun r => !r.agent.ofQueue fun x => x == q }

/-- QCMD BIND. -/
def execQcmdBind (q : BitVec 10) (s : State) : Outcome State Fault Refusal := onlyReady s <|
  let x := getQueue s q
  if x.st ≠ .unbound then commandRefused (afterArrivals s q) q
  else if !bindOk s x then .next (queueRefuse s q 0x14 0x808)
  else .next (setQueue (forgetQueue s q) q
    { x with st := .opened, cfg := x.qcfg, next := 1, low := 1, chead := 0, completions := 0, dead := false })

/-- QCMD HALT. -/
def execQcmdHalt (q : BitVec 10) (s : State) : Outcome State Fault Refusal := onlyReady s <|
  let s1 := afterArrivals s q
  let x := getQueue s1 q
  if x.st = .opened then .next (setQueue s1 q { x with st := .halted }) else commandRefused s1 q

/-- QCMD RESUME. -/
def execQcmdResume (q : BitVec 10) (s : State) : Outcome State Fault Refusal := onlyReady s <|
  let s1 := afterArrivals s q
  let x := getQueue s1 q
  if x.st = .halted then .next (setQueue s1 q { x with st := .opened }) else commandRefused s1 q

/-- QCMD DRAIN. -/
def execQcmdDrain (q : BitVec 10) (s : State) : Outcome State Fault Refusal := onlyReady s <|
  let s1 := afterArrivals s q
  let x := getQueue s1 q
  if x.accepting then .next (settleQueue (setQueue s1 q { x with st := .draining }) q) else commandRefused s1 q

/-- A dependency on a queue that is unbound has passed if its launch completed DONE, else fails (R286). -/
def resolveDeps (s : State) (q : BitVec 10) (l : Launch) : Launch :=
  (List.range 4).foldl (fun l j =>
    let w := recDep l.record j
    if l.ended || l.eligible || l.satisfied.getLsbD j || !depPresent l.record j || depObject l.record j ||
        w.extractLsb' 54 10 != q then l
    else
      match findLaunch s q (w.extractLsb' 0 54) with
      | some d => if d.ended && d.failed.isNone then { l with satisfied := l.satisfied ||| BitVec.twoPow 4 j } else l.fail .depfail
      | none => l.fail .depfail) l

/-- QCMD UNBIND. -/
def execQcmdUnbind (q : BitVec 10) (s : State) : Outcome State Fault Refusal := onlyReady s <|
  let x := getQueue s q
  if x.st = .closed then
    let s1 := forgetQueue { s with launches := s.launches.map (resolveDeps s q) } q
    .next (setQueue s1 q { qcfg := x.qcfg, qcplb := x.qcplb, chead := x.chead, qerr := x.qerr })
  else commandRefused (afterArrivals s q) q

/-! ## Eligibility (R286, R287) -/

/-- Where a launch stands. -/
inductive Dep where
  | passed | waiting | failed
deriving DecidableEq, Repr

/-- A DEPK 0 dependency. -/
def depState (s : State) (l : Launch) (j : Nat) : Dep :=
  let w := recDep l.record j
  if l.satisfied.getLsbD j || !depPresent l.record j || depObject l.record j then .passed
  else
    let q2 := w.extractLsb' 54 10
    if (getQueue s q2).st = .unbound then .failed
    else
      match findLaunch s q2 (w.extractLsb' 0 54) with
      | some d => if !d.ended then .waiting else if d.failed.isNone then .passed else .failed
      | none => .waiting

/-- Dispatch's access for a launch waits for an answer, or is outstanding beyond the package. -/
def launchBusy (s : State) (l : Launch) : Bool :=
  s.faults.any (fun f => f.agent == .object l.q l.seq || f.agent == .count l.q l.seq) ||
  s.held.any (fun h => h.agent == .object l.q l.seq || h.agent == .count l.q l.seq) ||
  s.objWaits.any (fun w => w.who == .launch l.q l.seq) ||
  s.requests.any fun r => r.agent == .countRead l.q l.seq

/-- Dispatch requests the object of dependency j; one that R241 would refuse, the address being held already and an object beyond the
package (log entry 90) among them, fails the launch. -/
def requestFor (s : State) (l : Launch) (j : Nat) : State :=
  let w := recDep l.record j
  let va : Word := (w.extractLsb' 0 48).setWidth 64
  match translate s none l.ctx va.toNat .atomic .link with
  | (.fault r lv e, s1) => (raiseFault s1 (.object l.q l.seq) l.ctx va.toNat .atomic r lv e).2
  | (.hold, s1) => holdOn s1 (.object l.q l.seq) l.ctx va.toNat .atomic
  | (.ok t, s1) =>
    let pa := t.pa va.toNat
    let excl := !w.getLsbD 48
    let o := objRead s1 pa
    if regionOf pa != .hbm || poisonedAt s1 pa 16 || o.rsv != 0 || o.mode == 3 || (!excl && o.mode == 1 && o.count == 65535) ||
        l.granted.any fun g => g.1 == va
    then modLaunch s1 l.q l.seq fun l => l.fail .depfail
    else
      let s2 := modLaunch { s1 with objWaits := s1.objWaits ++ [⟨pa, excl, .launch l.q l.seq, va⟩] } l.q l.seq fun l =>
        { l with requested := j + 1 }
      if s1.objWaits.any fun x => x.pa == pa then s2 else grants s2 pa

/-- Requests the objects in increasing j, each after the previous grant (R286). -/
def requestObjects (s : State) (q : BitVec 10) (seq : BitVec 54) (fuel : Nat) : State :=
  match fuel with
  | 0 => s
  | k + 1 =>
    match findLaunch s q seq with
    | none => s
    | some l =>
      if l.failed.isSome || launchBusy s l then s
      else
        match (List.range 4).find? fun j => decide (l.requested ≤ j) && depPresent l.record j && depObject l.record j with
        | none => modLaunch s q seq fun l => { l with requested := 4 }
        | some j => requestObjects (requestFor s l j) q seq k

/-- A launch becomes eligible with a count of units (R287). -/
def setCount (s : State) (l : Launch) (n : Nat) : State :=
  if 2 ^ 32 < n * (l.bsize.toNat + 1) then failLaunch s l.q l.seq .badrec
  else
    let s1 := modLaunch s l.q l.seq fun l => { l with eligible := true, units := n }
    if n = 0 then endLaunch s1 l.q l.seq else s1

/-- Reads the indirect count at the home slice (R287). -/
def readCount (s : State) (l : Launch) : State :=
  match translate s none l.ctx l.cnt.toNat .read .link with
  | (.fault r lv e, s1) => (raiseFault s1 (.count l.q l.seq) l.ctx l.cnt.toNat .read r lv e).2
  | (.hold, s1) => holdOn s1 (.count l.q l.seq) l.ctx l.cnt.toNat .read
  | (.ok t, s1) =>
    let pa := t.pa l.cnt.toNat
    if pathMoved s1 pa || lineHeld s1 none pa 4 then s
    else if regionOf pa = .host ∨ regionOf pa = .peer then extRead s1 (.countRead l.q l.seq) pa 4
    else if poisonedAt s1 pa 4 then failLaunch s1 l.q l.seq .badrec
    else setCount s1 l (homeNat s1 pa 4)

/-- Offered in full: every group started, or the launch ended (R285). -/
def Launch.offeredFull (l : Launch) : Bool := l.ended || (l.eligible && decide (l.started = l.total))

/-- Whether a launch's turn has come in its queue (R285). -/
def itsTurn (s : State) (l : Launch) : Bool :=
  (queueLaunches s l.q).all fun x => decide (l.seq.toNat ≤ x.seq.toNat) || x.offeredFull

/-- The steps of R286 that follow the objects. A direct count of 0 waits for the launch's turn (R284). -/
def finishEligible (s : State) (l : Launch) : State :=
  if l.ind then readCount s l
  else
    let n := bitsOf l.cnt.toNat 0 32
    if n = 0 then
      (if itsTurn s l then endLaunch (modLaunch s l.q l.seq fun l => { l with eligible := true }) l.q l.seq else s)
    else modLaunch s l.q l.seq fun l => { l with eligible := true, units := n }

/-- LAUNCH_ELIGIBLE (R286, R287): the launch goes as far towards eligibility as it can. -/
def execLaunchEligible (q : BitVec 10) (seq : BitVec 54) (s : State) : Outcome State Fault Refusal :=
  match findLaunch s q seq with
  | none => .next s
  | some l =>
    if l.ended || l.eligible || launchBusy s l || l.failed.isSome || (getCtx s l.ctx).st != .active then .next s
    else if (List.range 4).any fun j => depState s l j == .failed then .next (failLaunch s q seq .depfail)
    else if (List.range 4).any fun j => depState s l j == .waiting then .next s
    else
      let s1 := requestObjects s q seq 5
      match findLaunch s1 q seq with
      | none => .next s1
      | some l1 =>
        if l1.failed.isSome then .next (endLaunch s1 q seq)
        else if l1.requested ≠ 4 ∨ launchBusy s1 l1 then .next s1
        else .next (finishEligible s1 l1)

/-- The loader asks for what lies beyond the package of the first `n` bytes of an object (R438). -/
def loaderRequest (s : State) (c : BitVec 6) (h : BitVec 32) (obj : Word) (n : Nat) : State :=
  match loaderRead s (some []) c obj.toNat n with
  | (.asks l, s1) => askPages s1 c h l
  | _ => s

/-- The first offer of a launch: an evicted kernel is read again (R306), and in host-assisted scheduling the host learns of the
launch (R272). -/
def firstOffer (s : State) (l : Launch) : State :=
  let s1 := if s.ctl.fnmode.getLsbD 0 then { s with notices := s.notices ++ [.eligibleToHost l.q l.seq] } else s
  match s1.kernels.find? fun k => k.handle == l.kernel && k.st == .evicted with
  | some k =>
    loaderRequest { s1 with kernels := s1.kernels.map fun x => if x.handle = k.handle then { x with st := .reloading, asked := [] } else x }
      k.ctx k.handle k.obj k.len.toNat
  | none => s1

/-- LAUNCH_OFFER (R285): the next unit of the queue's next launch is offered for placement, in increasing index. A HALTED queue
goes on with a launch that has been partly offered (R281). -/
def execLaunchOffer (q : BitVec 10) (s : State) : Outcome State Fault Refusal :=
  let x := getQueue s q
  match (queueLaunches s q).find? fun l => !l.ended && !(l.eligible && decide (l.offered = l.units)) with
  | none => .next s
  | some l =>
    let open_ := (x.st == .opened || x.st == .draining || (x.st == .halted && l.offered != 0)) && (getCtx s x.ctx).st == .active
    if open_ && l.eligible && l.failed.isNone && l.gkilled == 0 && itsTurn s l then
      let s1 := modLaunch s q l.seq fun l => { l with offered := l.offered + 1 }
      .next (if l.offered = 0 then firstOffer s1 l else s1)
    else .next s

/-! ## Completion records (R290) -/

/-- QLOW advances past every launch whose record is written. -/
def advanceLow (s : State) (q : BitVec 10) (fuel : Nat) : State :=
  match fuel with
  | 0 => s
  | k + 1 =>
    let x := getQueue s q
    match findLaunch s q x.low with
    | some l => if l.recorded then advanceLow (setQueue s q { x with low := x.low + 1 }) q k else s
    | none => s

/-- A record is at its address: the queue's count and QLOW advance, and the vector is signalled (R289). -/
def recordWritten (s : State) (r : PendingRecord) : State :=
  let s1 := modLaunch { s with pendingRecords := s.pendingRecords.erase r } r.q r.seq fun l => { l with recorded := true }
  let s2 := modQueue s1 r.q fun x => { x with completions := x.completions + 1 }
  let s3 := advanceLow s2 r.q (s2.launches.length + 1)
  let x := getQueue s3 r.q
  if x.irq then signal s3 x.vec else s3

/-- The completion record of a queue whose write beyond the package has been acknowledged: it is at its address now (R235, R289). -/
def recordAcked (s : State) (q : BitVec 10) : State :=
  match s.pendingRecords.find? fun r => r.q == q with | some r => recordWritten s r | none => s

/-- COMPLETION_RECORD_WRITE (R290): the oldest waiting record of a queue, where the ring has room. It is written at SYSTEM scope: one
that goes to the host or a peer waits for the acknowledgement, and the records behind it with it (R289, R399). -/
def execCompletionRecordWrite (q : BitVec 10) (s : State) : Outcome State Fault Refusal :=
  let x := getQueue s q
  let waits := s.faults.any (fun f => f.agent == .completion q) || s.held.any (fun h => h.agent == .completion q) ||
    s.requests.any (fun r => r.agent == .completionRecord q)
  match s.pendingRecords.find? fun r => r.q == q with
  | none => .next s
  | some r =>
    if waits || x.dead || x.completions - x.chead.toNat == 2 ^ x.clog then .next s
    else
      let va := x.qcplb.toNat + 32 * (x.completions % 2 ^ x.clog)
      match translate s none x.ctx va .write .link with
      | (.fault rs l e, s1) => .next (raiseFault s1 (.completion q) x.ctx va .write rs l e).2
      | (.hold, s1) => .next (holdOn s1 (.completion q) x.ctx va .write)
      | (.ok t, s1) =>
        let pa := t.pa va
        if pathMoved s1 pa then .next s else
        let phase := x.completions / 2 ^ x.clog % 2
        let bs := leBytes 32 (r.body.toNat + phase * 256)
        let s3 := extWrite (homeWrite s1 .device pa bs) (.completionRecord q) pa bs
        .next (if s3.requests.any fun r => r.agent == .completionRecord q then s3 else recordWritten s3 r)

/-- CHEAD_WRITE (R280, R290). -/
def execCheadWrite (q : BitVec 10) (v : Word) (s : State) : Outcome State Fault Refusal := onlyReady s <|
  .next (modQueue s q fun x => { x with chead := v })

/-! ## LAUNCH (R293) -/

/-- The record is read in the scalar stream and handed to the queue, behind those that have arrived there (R283). -/
def launchRead (sd sb : BitVec 6) (q : BitVec 10) (s : State) : State :=
  match seqAddr s (getS s sb) .read with
  | .stop s1 => s1
  | .ok pa cp s1 =>
    if lineHeld s1 (some s1.me.slot) pa 64 then s
    else if poisonedAt s1 pa 64 then consumePoison s1 s1.me.slot pa none
    else
      match readFar s1 none (farPieces pa 64) with
      | (false, s2) => s2
      | (true, s1) =>
      let (bs, s2) := scalarRead s1 (slotCore s1.me.slot) pa 64 cp
      let s3 := afterArrivals s2 q
      if !(getQueue s3 q).accepting then writeBack (queueRefuse s3 q 0x11 0) sd (-2)
      else
        let (n, s4) := acceptRecord s3 q (BitVec.ofNat 512 (leNat bs))
        writeBack s4 sd (n.setWidth 64)

/-- LAUNCH (R293): the block is exposed even where the status is negative. -/
def execLaunch (sd sa sb : BitVec 6) (s : State) : Outcome State Fault Refusal :=
  let a := getS s sa
  let b := getS s sb
  let q : BitVec 10 := a.extractLsb' 0 10
  if b.toNat % 64 ≠ 0 then .next (seqTrap s (wordOf (.launch sd sa sb)) { cause := .strideAlign, tval := b })
  else
    let s1 := expose s
    let x := getQueue s1 q
    if a.extractLsb' 10 54 ≠ 0 ∨ x.st = .unbound ∨ x.ctx ≠ s1.me.ctx then .next (writeBack s1 sd (-1))
    else if !releaseDone s1 s1.me .device || acquirePending s1.me then .next s1
    else .next (launchRead sd sb q (acquireAt s1 s1.me.slot .device))

end Sys2Proof.Machine
end

