-- ==== Sys2Proof/Machine/Arena.lean ====
section
/-!
DEFINITION. Kernels in the arena (R303 to R308): handles, installing and dropping a kernel, reading its object again,
and the result of a kernel command.
-/
namespace Sys2Proof.Machine

/-! ## Handles (R304) -/

def handleOf (ctx : BitVec 6) (index : Nat) (gen : BitVec 16) : BitVec 32 :=
  BitVec.ofNat 32 (ctx.toNat * 2 ^ 26 + index % 1024 * 2 ^ 16 + gen.toNat)

def kernelCtx (h : BitVec 32) : BitVec 6 := h.extractLsb' 26 6
def kernelIndex (h : BitVec 32) : Nat := (h.extractLsb' 16 10).toNat

/-- The lowest index of a context that holds no kernel. -/
def freeIndex (s : State) (ctx : BitVec 6) : Option Nat :=
  (List.range 1024).find? fun i => !(s.kernels.any fun k => kernelCtx k.handle == ctx && kernelIndex k.handle == i)

/-- The GEN of an index's next use; 0 is left out. -/
def nextGen (x : Context) (i : Nat) : BitVec 16 :=
  let g := tabGet x.gens i (0 : BitVec 16) + 1
  if g = 0 then 1 else g

/-! ## Code lines (R308, R389) -/

/-- A kernel leaves RESIDENT or PINNED: its cached code goes (R182, R308). -/
def dropCode (s : State) (h : BitVec 32) : State :=
  let out := s.icache.filter fun l => l.kernel == h
  let s1 := { s with icache := s.icache.filter fun l => l.kernel != h
                     laneFns := s.laneFns.filter fun e => e.kernel != h }
  out.foldl logLatent s1

/-- UNLOADED (R306): the handle names no kernel any more. -/
def dropKernel (s : State) (h : BitVec 32) : State :=
  let s1 := dropCode s h; { s1 with kernels := s1.kernels.filter fun k => k.handle != h }

/-- The accepted launches of a kernel that are not complete. -/
def kernelLaunches (s : State) (h : BitVec 32) : List Launch := s.launches.filter fun l => l.kernel == h && !l.ended

/-- A kernel that cannot be read again: it is UNLOADED and its launches end BADREC (R306). -/
def loseKernel (s : State) (h : BitVec 32) : State :=
  let ls := kernelLaunches s h
  ls.foldl (fun s l => failLaunch s l.q l.seq .badrec) (dropKernel s h)

/-! ## Installing (R305, R306) -/

/-- A kernel whose index is reserved while it loads. -/
def loadingKernel (h : BitVec 32) (f : KcmdF) : Kernel :=
  { handle := h, ctx := f.ctx, st := .loading, obj := f.obj, data := f.data, dlen := f.dlen, len := 0, digest := 0
    tileBase := (Config.arenaBase h).setWidth 64 * 8, handlerBase := (Config.handlerBase h).setWidth 64 * 8
    tile := [], handler := [], lanes := [], shapes := [], streams := [], regions := [], tiers := [], lgneed := 0 }

/-- The arena copy of a loaded object, with the digest of the bytes read. -/
def Kernel.install (k : Kernel) (x : Loaded) (bs : List Byte) (st : KernelSt) : Kernel :=
  { k with st := st, len := BitVec.ofNat 64 bs.length, digest := Config.sha384 bs, tile := x.image.tile
           handler := x.image.handler, lanes := x.image.lanes, shapes := x.shapes, streams := x.streams
           regions := x.regions, tiers := x.tiers, lgneed := BitVec.ofNat 8 x.lgneed, bad := [] }

/-- The data sections with their offsets from DATA (R302). -/
def dataPlaces (x : Loaded) : List (Nat × List Byte) := List.zip (dataOffsets (x.datas.map List.length) 0) x.datas

/-- What reading an object again gives (R306): the same bytes, a failure, a wait at an address on a frozen page, or pages beyond the
package that are still to be asked for. -/
inductive Reread where
  | same | lost
  | waits (va : Nat)
  | asks (pages : List Nat)
deriving DecidableEq, Repr

def rereadObject (s : State) (asked : Option (List Nat)) (k : Kernel) : Reread × State :=
  match loaderRead s asked k.ctx k.obj.toNat k.len.toNat with
  | (.ok bs, s1) => (if Config.sha384 bs = k.digest then .same else .lost, s1)
  | (.fault, s1) => (.lost, s1)
  | (.hold va, s1) => (.waits va, s1)
  | (.asks l, s1) => (.asks l, s1)

/-! ## Command results (R303, R312) -/

def CmdSt.code (x : CmdSt) : Nat := match x with | .idle => 0 | .busy => 1 | .done => 2 | .failed => 3

/-- The register that reports a command. -/
def CmdRes.word (r : CmdRes) : Word :=
  BitVec.ofNat 64 (r.st.code * 2 ^ 62 + r.reason.toNat * 2 ^ 32 + r.value.toNat)

/-- A kernel command ends: KRES and an event report it. The handle is 0 where a LOAD failed. -/
def endKcmd (s : State) (ctx : BitVec 6) (h : BitVec 32) (reason : Option Nat) : State :=
  let r : CmdRes := match reason with
    | none => { st := .done, value := h }
    | some e => { st := .failed, reason := BitVec.ofNat 8 e, value := h }
  let s1 := { s with ctl := { s.ctl with kres := r, kcmd := none } }
  match reason with
  | none => ctxEvent s1 ctx 0x07 0x1FF r.word (h.setWidth 64)
  | some e => refusalEvent s1 ctx e 0x60

end Sys2Proof.Machine
end

