-- ==== Sys2Proof/Machine/Bank.lean ====
section
/-!
DEFINITION. Retiring banks (R356 to R372): bank names, the over-capacity check, evacuation and its end.
-/
namespace Sys2Proof.Machine

/-! ## Bank names (R356, R357) -/

def bankKind (id : Nat) : Nat := id / 2 ^ 28
def bankCore (id : Nat) : BitVec 8 := BitVec.ofNat 8 (bitsOf id 20 8)
def bankIndex (id : Nat) : Nat := bitsOf id 0 9
def bankDie (id : Nat) : Bool := bitsOf id 27 1 = 1

/-- Banks of a kind, in a core or, for slices, in a die. -/
def bankCount (kind : Nat) : Nat :=
  match kind with | 0 => 16 | 1 => 16 | 2 => 8 | 3 => 16 | 4 => 8 | 5 => 384 | 6 => 2 | _ => 0

/-- Whether a BANKID names a bank. -/
def isBank (id : Nat) : Bool :=
  decide (bankIndex id < bankCount (bankKind id)) && bitsOf id 9 11 == 0 && (bankKind id != 5 || bitsOf id 20 7 == 0)

/-- The index n of a bank's status word (R358). -/
def bankWordIndex (id : Nat) : Nat :=
  let k := bankKind id
  if k = 5 then 32768 + bit01 (bankDie id) * 384 + bankIndex id
  else bit01 (bankDie id) * 16384 + bitsOf id 20 7 * 128 +
    (match k with | 0 => 0 | 1 => 16 | 2 => 32 | 3 => 40 | 4 => 56 | _ => 64) + bankIndex id

def BankSt.code (x : BankSt) : Nat :=
  match x with | .online => 0 | .watched => 1 | .evacuating => 2 | .retired => 3 | .offline => 4

/-- The status word of a bank (R358). -/
def Bank.word (b : Bank) : Word :=
  BitVec.ofNat 64 (b.st.code * 2 ^ 61 + bit01 b.req * 2 ^ 60 + b.cause.toNat * 2 ^ 56 + b.sdcw.toNat * 2 ^ 48 +
    b.cew.toNat * 2 ^ 32 + b.cet.toNat)

/-- The capacity register that a bank counts in (R356). -/
def capOf (s : State) (id : Nat) : Nat :=
  match bankKind id with
  | 0 => capStore s (bankCore id) 0
  | 1 => capStore s (bankCore id) 1
  | 2 => capStore s (bankCore id) 2
  | 3 => capL s (bankCore id)
  | 4 => capLg s (bankCore id)
  | 5 => capL2 s (bankDie id)
  | _ => 0

/-! ## The over-capacity check (R363) -/

/-- The resident blocks of a core, armed or running. -/
def residents (s : State) (core : BitVec 8) : List Block :=
  (allBlocks s).filter fun b => slotCore b.slot == core && (b.st == .bound || b.st.live)

/-- Whether a core is over capacity with these blocks. -/
def overCapacity (s : State) (core : BitVec 8) (bs : List Block) : Bool :=
  ([1, 2, 3].any fun i =>
    decide (capStore s core (i - 1) < bs.foldl (fun a b => a + tierBytes b.rsv i) 0)) ||
  (bs.any fun b => match getKernel s b.kernel with | some k => decide (capLg s core < k.lgneed.toNat) | none => false) ||
  bs.any fun b => (getBank s (bankId 6 core (b.slot.toNat % 2))).st == .evacuating

/-- Step 1: armed records of groups that do not run are withdrawn. -/
def withdrawArmed (s : State) (core : BitVec 8) : State :=
  (residents s core).foldl (fun s b =>
    if b.st = .bound then bindRefuse (withdrawRecords s fun y => y.slot == b.slot) b.slot 0x06 b.ctx (recordOffset b.slot)
    else s) s

/-- The start number of a block's group. -/
def startOf (s : State) (b : Block) : Nat := match findGroup s b.gid with | some g => g.startOrder | none => 0

/-- The block whose group started last; ties go to the higher slot. -/
def latest (s : State) (bs : List Block) : Option Block :=
  bs.foldl (fun best b =>
    match best with
    | none => some b
    | some x => if startOf s x < startOf s b ∨ (startOf s x = startOf s b ∧ x.slot.toNat < b.slot.toNat) then some b
      else some x) none

/-- Whether OVERCAP has been raised for a block's group, so that its reservation counts as gone. -/
def raised (s : State) (b : Block) : Bool :=
  match findGroup s b.gid with | some g => g.overcap && g.st == .rolling | none => false

/-- Steps 2 and 3: groups are raised, latest first, until the rest fits. `gone` are the slots counted as gone. -/
def raiseOvercap (s : State) (core : BitVec 8) (gone : List SlotNo) (fuel : Nat) : State :=
  match fuel with
  | 0 => s
  | k + 1 =>
    let bs := (residents s core).filter fun b => !gone.contains b.slot && !raised s b
    if !overCapacity s core bs then s
    else
      match latest s bs with
      | none => s
      | some b =>
        match findGroup s b.gid with
        | none => s
        | some g =>
          let band := (bandOf s g).map Group.id
          let out := (bs.filter fun x => band.contains x.gid).map Block.slot
          raiseOvercap (overcapBand s g) core (gone ++ out) k

/-! ## Placements that no longer exist (R364) -/

/-- Whether the group has a placement at the launch's highest allowed tier (R364). -/
def placementExists (s : State) (g : Group) : Bool :=
  match findLaunch s g.id.queue g.id.seq, getKernel s g.kernel with
  | some l, some k => fitsAt s false g (tierWord k l.tier) k.lgneed.toNat
  | _, _ => true

/-- A group that OVERCAP stopped and that fits nowhere is killed; its launch ends CAPACITY. -/
def judgeCapacity (s : State) : State :=
  (s.groups.filter fun g => g.overcap && g.st == .stopped).foldl (fun s g =>
    if placementExists s g then s else killGroup s g.id LaunchStatus.capacity.code .capacity) s

/-- The check of R363. -/
def checkCapacity (s : State) (core : BitVec 8) : State :=
  judgeCapacity (if overCapacity s core (residents s core) then raiseOvercap (withdrawArmed s core) core [] 3 else s)

/-! ## The end of an evacuation (R359, R361) -/

/-- The bank enters RETIRED, or OFFLINE after such a command; CLASS 0x07 logs it, and a BANKCMD is DONE. -/
def finishBank (s : State) (id : Nat) : State :=
  let b := getBank s id
  let st : BankSt := if b.cause = 4 ∧ b.offline then .offline else .retired
  let s1 := { setBank s id { b with st := st } with evacuations := s.evacuations.filter fun e => e.bank != id }
  let s2 := errLog s1 { class_ := 0x07, detail := b.cause.toNat, info := capOf s1 id, bank := id }
  if s2.ctl.bankcmd.map BitVec.toNat = some id then
    { s2 with ctl := { s2.ctl with bankcmd := none, bankres := { st := .done, value := BitVec.ofNat 32 id } } }
  else s2

/-- A lane group of a core runs a strip: VRET has ended none that it would wait for (R368). -/
def laneRuns (s : State) (core : BitVec 8) (lg : Nat) : Bool :=
  (laneJobs s).any fun j => slotCore j.slot == core && j.strip.lg == lg && j.strip.ret.isNone

/-- Whether the elements of an instruction are dealt to lane groups at issue (R124). -/
def Instr.isDealt (i : Instr) : Bool :=
  match i with
  | .tld _ | .tst _ | .tldff _ | .topt _ | .tgth _ | .tgthFull _ | .tsct _ | .tldw _ _ | .tglk _ | .tscc _ => true
  | i => (Instr.tamoOp i).isSome

/-- The next element of the sequence that an instruction holds in a lane group (R369): of a tile memory instruction, the first of those
dealt to it that is still to be performed; of one on the lane engine, an element of the strip that the lane group runs, which it leaves
at the boundary. -/
def nextDealt (s : State) (b : Block) (f : Flight) (i : Nat) : Option Nat :=
  if f.st = .performed then none
  else if Instr.isDealt f.ins then
    (List.range (f.first.getD f.shape.count)).find? fun e =>
      lgOf f.lgs e == i && !performedAt f.lgs f.elg e && !f.skips.contains e
  else
    match laneOf s (slotCore b.slot) with
    | some j => if j.slot = b.slot ∧ j.flight = f.id ∧ j.strip.lg = i then
        some (((stripActive j.strip).head?.getD ((j.strip.elems.headD none).getD 0))) else none
    | none => none

/-- An instruction in flight holds a sequence dealt to a lane group (R369). -/
def sequenceHeld (s : State) (core : BitVec 8) (i : Nat) : Bool :=
  (allBlocks s).any fun b => slotCore b.slot == core && b.flights.any fun f => (nextDealt s b f i).isSome

/-- The lines of a prefetched tile of stream `n` in a logical bank (log entry 18). -/
def prefetchLines (x : SlotNo) (n : Nat) (p : Prefetched) (l : Nat) : Nat :=
  if p.notIn.contains l then 0 else Config.prefetchLinesIn l x.toNat n p.index

/-- The lines of a stream's prefetched tiles in a logical bank (R145, R365; log entry 18). -/
def streamLines (x : SlotNo) (n : Nat) (w : Stream) (store l : Nat) : Nat :=
  if w.copy.store.toNat = store then natSum (w.prefetched.map fun p => prefetchLines x n p l) else 0

/-- The lines of a block's versions and densified tiles in a logical bank of `store` (R215, R365; log entry 18). -/
def storedLines (b : Block) (store l : Nat) : Nat :=
  natSum ((b.versions.filter fun v => v.geom.store.toNat == store).map fun v => versionLines b.slot v l) +
  natSum ((b.flights.filter fun f => store == 2 && f.dense != 0).map fun f => Config.denseLinesIn l b.slot.toNat f.id)

/-- The live lines of a block in a physical tile-store bank (R365). -/
def liveLines (s : State) (b : Block) (id : Nat) : Nat :=
  if slotCore b.slot != bankCore id then 0
  else natSum ((logicalBanks s (bankKind id) (bankCore id) id).map fun l =>
    storedLines b (bankKind id + 1) l +
      natSum ((List.range 8).map fun n => streamLines b.slot n (streamOf b (BitVec.ofNat 3 n)) (bankKind id + 1) l))

/-- Whether a block has live lines in a tile-store bank. -/
def liveIn (s : State) (b : Block) (id : Nat) : Bool := liveLines s b id != 0

/-- The live lines of a tile-store bank. -/
def bankLines (s : State) (id : Nat) : Nat := natSum ((allBlocks s).map fun b => liveLines s b id)

def bankLive (s : State) (id : Nat) : Bool := bankLines s id != 0

/-- Whether an EVACUATING bank of a kind without a copy can retire now (R365, R368 to R370). -/
def canRetire (s : State) (id : Nat) : Bool :=
  match bankKind id with
  | 3 => !laneRuns s (bankCore id) (bankIndex id / 2)
  | 4 => !sequenceHeld s (bankCore id) (bankIndex id)
  | 6 => !((residents s (bankCore id)).any fun b => b.slot.toNat % 2 == bankIndex id)
  | _ => false

/-- Retires what can retire: called where a strip, an instruction or a block ends. -/
def settleBanks (s : State) : State :=
  ((s.banks.filter fun p => p.2.st == .evacuating).map Prod.fst).foldl (fun s id =>
    if canRetire s id then finishBank s id else s) s

/-! ## Entering EVACUATING (R361 to R372) -/

/-- Of two banks the one with fewer live lines, the first where they have as many. -/
def fewerLines (s : State) (a b : Nat) : Nat := if bankLines s b < bankLines s a then b else a

/-- The target of an evacuation (R365): the ONLINE or WATCHED bank of the store, no target yet, with the fewest live lines; of
several, the lowest number. -/
def targetBank (s : State) (id : Nat) : Option Nat :=
  let ids := (coreBanks (bankKind id) (bankCore id)).filter fun t => bankUp s t && !(s.evacuations.any fun e => e.target == some t)
  match ids with
  | [] => none
  | t :: r => some (r.foldl (fewerLines s) t)

/-- A stream without its prefetched tiles that have lines in some logical banks of a store. -/
def Stream.unfetch (w : Stream) (x : SlotNo) (n store : Nat) (ls : List Nat) : Stream :=
  if w.copy.store.toNat = store then
    { w with prefetched := w.prefetched.filter fun p => !(ls.any fun l => prefetchLines x n p l != 0) }
  else w

/-- A block without its prefetched tiles in those banks. -/
def unfetchBlock (b : Block) (store : Nat) (ls : List Nat) : Block :=
  (List.range 8).foldl (fun b n =>
    setStream b (BitVec.ofNat 3 n) ((streamOf b (BitVec.ofNat 3 n)).unfetch b.slot n store ls)) b

/-- Prefetched tiles in the target bank are discarded (R145, R365). -/
def dropStorePrefetch (s : State) (target : Nat) : State :=
  let ls := logicalBanks s (bankKind target) (bankCore target) target
  ((allBlocks s).filter fun b => slotCore b.slot == bankCore target).foldl (fun s b =>
    modBlock s b.slot fun y => unfetchBlock y (bankKind target + 1) ls) s

/-- What an evacuation starts with. -/
def startEvacuation (s : State) (id : Nat) : State :=
  match bankKind id with
  | 0 | 1 | 2 =>
    let t := targetBank s id
    let s1 := match t with | some n => dropStorePrefetch s n | none => s
    { s1 with evacuations := s1.evacuations ++ [⟨id, t, 0⟩] }
  | 5 => { s with evacuations := s.evacuations ++ [⟨id, none, 0⟩] }
  | _ => s

/-- MapSwap of R366: the logical bank of an evacuated bank is served by its target from now on, and the target's own logical bank
leaves the store. -/
def mapSwap (s : State) (id target : Nat) : State :=
  let at_ := fun (p : Nat) => logicalBanks s (bankKind id) (bankCore id) p
  let out := (at_ target).foldl (fun m l => tabSet m l (2 ^ 32 - 1)) s.bankMap
  { s with bankMap := (at_ id).foldl (fun m l => tabSet m l target) out }

/-- The bank that an access to line `j` of an evacuated bank's logical bank is performed at (Direct of R366): the target once the copy
pointer has passed the line. -/
def directed (e : Evacuation) (j : Nat) : Nat :=
  match e.target with | some t => if j < e.cp then t else e.bank | none => e.bank

/-- Whether accesses to some line of a logical bank are performed at a physical bank just now (R366). -/
def servesLines (s : State) (l id : Nat) : Bool :=
  match s.evacuations.find? fun e => e.bank == physBank s l with
  | some e => (List.range 256).any fun j => directed e j == id
  | none => physBank s l == id

/-- A bank enters EVACUATING: its capacity register falls at once, and its core is checked. -/
def enterEvacuating (s : State) (id : Nat) (cause : BitVec 4) (offline : Bool) : State :=
  let s1 := startEvacuation (setBank s id { getBank s id with st := .evacuating, req := false, cause := cause, offline := offline }) id
  settleBanks (if bankKind id = 5 then s1 else checkCapacity s1 (bankCore id))

/-- Retirement (R359). A lane group whose second register bank leaves goes with it (R368). -/
def evacuate (s : State) (id : Nat) (cause : BitVec 4) (offline : Bool) : State :=
  if !bankUp s id then s
  else
    let s1 := enterEvacuating s id cause offline
    let lg := bankId 4 (bankCore id) (bankIndex id / 2)
    let other := bankId 3 (bankCore id) (bankIndex id / 2 * 2 + 1 - bankIndex id % 2)
    let s2 := if bankKind id = 3 ∧ !bankUp s1 other ∧ bankUp s1 lg then enterEvacuating s1 lg cause false else s1
    if bankKind id = 3 ∨ bankKind id = 4 then lowerCapl s2 (bankCore id) else s2

/-- Retirement decided (R360, R361): an uncorrectable error or a command acts at once; the other causes are the host's
to act on in host-assisted mode. -/
def decideRetire (s : State) (id : Nat) (cause : BitVec 4) : State :=
  if !bankUp s id then s
  else if cause.toNat ≤ 2 ∧ s.ctl.fnmode.getLsbD 3 then
    if (getBank s id).req then s
    else errLog (setBank s id { getBank s id with req := true, cause := cause })
      { class_ := 0x06, detail := cause.toNat, bank := id }
  else evacuate s id cause false

end Sys2Proof.Machine
end

