-- ==== Sys2Proof/Machine/Sync.lean ====
section
/-!
DEFINITION. Synchronisation instructions: ACQ and REL (R241 to R244), BIND and UNBIND (R245), FENCE (R246) and
TWAITV (R254).
-/
namespace Sys2Proof.Machine

open Host (Outcome)

/-! ## ACQ and REL -/

/-- An access of the sequencer to a word at its home slice: alignment is checked by the caller; `reads` says
whether poison is consumed. It does not overtake the block's own store to the word. `leave` is what its leaving the sequencer does (R106). The
copies of the line in the core and its die are dropped: the scalar stream reads nothing older afterwards (R94, R231). An atomic on a word
beyond the package traps TYPE (R399; log entry 90), and a read of one waits for its answer. -/
def wordAccess (s : State) (insn va : Word) (n : Nat) (kind : AccKind) (reads : Bool) (leave : State → State)
    (k : Nat → State → State) : State :=
  if acquirePending s.me then s
  else
    match seqAddr s va kind with
    | .stop s1 => s1
    | .ok pa _ s1 =>
      if lineHeld s1 (some s1.me.slot) pa n || postedMeets s1.me pa n then s
      else if kind ≠ .read ∧ regionOf pa ≠ .hbm then seqTrap s1 insn { cause := .type, tval := va }
      else if reads && poisonedAt s1 pa n then consumePoison (leave s1) s1.me.slot pa none
      else
        match readFar s1 none (farPieces pa n) with
        | (false, s2) => s2
        | (true, s1) =>
        let s2 := dropCache (leave s1) (slotCore s1.me.slot) fun l => l == lineOf pa
        k pa (dropGuests s2 (slotDie s2.me.slot) fun l => l == lineOf pa)

/-- Whether the home slice refuses a request on the word it finds (R241): an ACQ.S that would raise COUNT above 65,535 too, but not
one that parks behind a queued request. -/
def objRefuses (s : State) (pa : Nat) (excl : Bool) : Bool :=
  let o := objRead s pa
  o.rsv != 0 || o.mode == 3 || (!excl && o.mode == 1 && o.count == 65535 && !(s.objWaits.any fun w => w.pa == pa))

/-- A request arrives at the home slice: it is granted, or it parks in the queue (R241, R242). -/
def requestObject (s : State) (pa : Nat) (excl : Bool) (va : Word) : State :=
  let w : ObjWait := ⟨pa, excl, .block s.me.slot, va⟩
  let s1 := { s with objWaits := s.objWaits ++ [w] }
  let s2 := if s.objWaits.any fun x => x.pa == pa then s1 else grants s1 pa
  if s2.objWaits.contains w then parkOn s2 (.object pa excl) else s2

/-- ACQ (R242): the block is exposed as the request leaves the sequencer (R106). -/
def runAcq (i : Instr) (sa : BitVec 6) (excl : Bool) (s : State) : Outcome State Fault Refusal :=
  let va := getS s sa
  let insn := wordOf i
  if va.toNat % 16 ≠ 0 then .next (seqTrap s insn { cause := .strideAlign, tval := va })
  else if s.me.holding.contains va ∨ 16 ≤ s.me.holding.length then .next (trapType s insn va.toNat)
  else .next (wordAccess s insn va 16 .atomic true expose fun pa s1 =>
    if objRefuses s1 pa excl then trapType s1 insn va.toNat else requestObject s1 pa excl va)

/-- ACQ.X (R242). -/
def execAcqX (sa : BitVec 6) (s : State) : Outcome State Fault Refusal := runAcq (.acqX sa) sa true s
/-- ACQ.S (R242). -/
def execAcqS (sa : BitVec 6) (s : State) : Outcome State Fault Refusal := runAcq (.acqS sa) sa false s

/-- The bindings of an object at the REL's issue: those of its first attempt, where it waits (R243). -/
def relBindings (s : State) (va : Word) : List Binding :=
  s.me.relBound.getD ((getCtx s s.me.ctx).bindings.filter fun r => r.object == va)

/-- Whether a range of bytes meets one of some bound regions. -/
def meetsBound (rs : List Binding) (va n : Nat) : Bool := rs.any fun r => rangesMeet (va, n) (r.base.toNat, 64 * r.length)

/-- Whether an earlier access to a region of the object has not been performed (R243). -/
def relWaits (s : State) (rs : List Binding) : Bool :=
  (s.me.posted.any fun p => meetsBound rs p.va p.n) ||
  s.me.flights.any fun f => f.memPending &&
    match footprint s s.me f with
    | some l => l.any fun p => meetsBound rs p.va p.len
    | none => rs != []

/-- REL leaves the sequencer: the bindings that it waited for are no longer kept. -/
def endRel (s : State) : State := { s with me := { s.me with relBound := none } }

/-- REL (R243). A word that the home slice does not take it for refuses it, as R9 has an event that the table of R241 does not list (log entry 74):
TYPE. -/
def execRel (sa : BitVec 6) (s : State) : Outcome State Fault Refusal :=
  let va := getS s sa
  let insn := wordOf (.rel sa)
  let rs := relBindings s va
  if va.toNat % 16 ≠ 0 then .next (seqTrap s insn { cause := .strideAlign, tval := va })
  else if !s.me.holding.contains va then .next (trapType s insn va.toNat)
  else if relWaits s rs then .next { s with me := { s.me with relBound := some rs } }
  else .next (wordAccess { s with me := { s.me with relBound := some rs } } insn va 16 .atomic false (fun s => expose (endRel s)) fun pa s1 =>
    if !mayRelease s1 pa s1.me.token then trapType s1 insn va.toNat
    else
      let s2 := releaseObject s1 (.sync s1.me.slot) pa s1.me.token
      advance { s2 with me := { s2.me with holding := s2.me.holding.erase va } })

/-! ## BIND and UNBIND (R245) -/

def Binding.meets (x y : Binding) : Bool :=
  decide (x.base.toNat < y.base.toNat + 64 * y.length) && decide (y.base.toNat < x.base.toNat + 64 * x.length)

/-- The status of a BIND among the bindings of its context. -/
def bindStatus (l : List Binding) (x : Binding) : Nat :=
  if x.object.toNat % 16 ≠ 0 ∨ x.base.toNat % 64 ≠ 0 ∨ 2 ^ 48 < x.base.toNat + 64 * x.length then 3
  else if l.contains x then 0
  else if l.any fun y => x.meets y then 1
  else if 256 ≤ l.length then 2
  else 0

/-- BIND (R245). -/
def execBind (f : BindF) (s : State) : Outcome State Fault Refusal :=
  let x : Binding := ⟨getS s f.sa, getS s f.sb, f.len.toNat⟩
  let l := (getCtx s s.me.ctx).bindings
  let st := bindStatus l x
  let s1 := if st = 0 ∧ !l.contains x then bindLines (modCtx s s.me.ctx fun c => { c with bindings := c.bindings ++ [x] }) s.me.ctx x else s
  .next (writeBack s1 f.sd (BitVec.ofNat 64 st))

/-- UNBIND (R245): ALIGN and NONE come before the object's word is read. -/
def execUnbind (sd sa : BitVec 6) (s : State) : Outcome State Fault Refusal :=
  let va := getS s sa
  if va.toNat % 16 ≠ 0 then .next (writeBack s sd 3)
  else if !(getCtx s s.me.ctx).bindings.any fun r => r.object == va then .next (writeBack s sd 5)
  else .next (wordAccess s (wordOf (.unbind sd sa)) va 16 .read true id fun pa s1 =>
    if (objRead s1 pa).mode ≠ 0 then writeBack s1 sd 4
    else writeBack (modCtx s1 s1.me.ctx fun c => { c with bindings := c.bindings.filter fun r => r.object != va }) sd 0)

/-! ## FENCE (R246) -/

/-- FENCE waits for its release side, then it is an acquire point. -/
def execFence (scope : Scope) (s : State) : Outcome State Fault Refusal :=
  if !releaseDone s s.me scope then .next s else .next (advance (acquireAt s s.me.slot scope))

/-! ## TWAITV (R254) -/

/-- The operands of TWAITV. -/
def checkWait (b : Block) (f : TmWaitF) (g : ShapeRec) (a : Word) : Option TrapInfo :=
  let mt := g.memType
  firstOf [
    match current b f.t with
    | none => typeTrap f.t.toNat
    | some v =>
      if !(1 ≤ v.geom.type.toNat && v.geom.type.toNat ≤ 6) then typeTrap f.t.toNat
      else if v.geom.type != mt || v.geom.count != g.count then typeTrap (0x100 + f.h.toNat) else none,
    if g.dimsOk then none else typeTrap (0x100 + f.h.toNat),
    checkOperands g f.h.toNat a.toNat 0 false false mt false,
    match current b f.t2 with
    | some v => if v.geom.type == 15 && v.geom.count == g.count then none else typeTrap (0x200 + f.t2.toNat)
    | none => typeTrap (0x200 + f.t2.toNat)]

def waitLayout (s : State) (f : TmWaitF) : Layout :=
  let g := shapeOf s.me f.h
  { g := g, a := (tmAddr s f.s f.off).toNat, mt := g.memType }

/-- Reads the pending elements at the home slice and goes on with those still pending; a read that stops leaves
the state it stops in. The block's copies of what the home slice has read for it are dropped (R231). Poison of the tiles that it compares with counts behind translation (R375, R388). -/
def waitRead (s : State) (f : TmWaitF) (c : Cond) (pending : List Nat) (k : List Nat → State → State) : State :=
  let l := waitLayout s f
  match accessRanges s (pending.flatMap (l.ranges 0)) .read .tile true with
  | (.stop (.fault va kind r lv e), s1) => seqFault s1 va kind r lv e
  | (.stop (.hold va kind), s1) => holdOn s1 (.sequencer s1.me.slot) s1.me.ctx va kind
  | (.stop (.poison pa), s1) => consumePoison s1 s1.me.slot pa none
  | (.stop _, s1) => s1
  | (.ok segs, s0) =>
    let s1 := dropAsks s0 none
    match current s1.me f.t with
    | some x =>
      match minOf ((x.poison.filter fun e => pending.contains e) ++ poisonOf s1.me (curId s1.me f.t2)) with
      | some e => consumePoison s1 s1.me.slot 0 none (some e)
      | none =>
        let hit := fun line => segs.any fun g => touchesLine g.pa g.len line
        k (stillPending s1 c l segs x.elems pending) (dropGuests (dropCache s1 (slotCore s1.me.slot) hit) (slotDie s1.me.slot) hit)
    | none => s1

/-- The mask of pending elements becomes t2's new version, and the instruction completes. -/
def waitDone (s : State) (f : TmWaitF) (pending : List Nat) : State :=
  match current s.me f.t2 with
  | none => s
  | some m =>
    match rename s s.me f.t2 m.geom [] with
    | .ok id b =>
      let bits : List Half := (List.range m.geom.count).map fun e => if pending.contains e then 1 else 0
      let s1 := { s with me := modVersion b id fun v => { v with elems := bits, done := true } }
      advance (if pending = [] ∧ f.aq then acquireAt s1 s1.me.slot f.scope else s1)
    | _ => s

/-- One round of reads: the wait ends, or the block parks with what is pending (not a resumable point). -/
def waitRound (s : State) (f : TmWaitF) (c : Cond) (pending : List Nat) : State :=
  waitRead s f c pending fun left s1 =>
    if left = [] then waitDone s1 f [] else { s1 with me := s1.me.park (.values f c left) }

/-- Whether an instruction whose trap is handled or held still produces the current version of a name. -/
def trappedMakes (b : Block) (t : BitVec 5) : Bool :=
  b.flights.any fun g => g.isTrapped && (curId b t).any fun v => g.dst == some v || g.dst2 == some v

/-- TWAITV (R254): it waits for the block's earlier accesses and for its source versions; in the handler not for one of the trapped
instruction, which is DOUBLE_FAULT (R382). -/
def runTwaitv (i : Instr) (c : Cond) (f : TmWaitF) (s : State) : Outcome State Fault Refusal :=
  match checkWait s.me f (shapeOf s.me f.h) (tmAddr s f.s f.off) with
  | some t => .next (seqTrap s (wordOf i) t)
  | none =>
    if s.me.inHandler && (trappedMakes s.me f.t || trappedMakes s.me f.t2) then .next (doubleTrap s .doubleFault)
    else
    match current s.me f.t2, versionDone s.me (curId s.me f.t), releaseDone s s.me .device && !acquirePending s.me with
    | some m, true, true =>
      if !m.done then .next s
      else
        match rename s s.me f.t2 m.geom [] with
        | .never n => .next (trapType s (wordOf i) n)
        | .stall => .next (awaitRename s f.t2)
        | .ok _ _ =>
          .next (waitRound s f c ((List.range m.geom.count).filter fun e => (m.elems.getD e 0).getLsbD 0))
    | _, _, _ => .next s

/-- TWAITV.EQ (R254). -/
def execTwaitvEq (f : TmWaitF) (s : State) : Outcome State Fault Refusal := runTwaitv (.twaitvEq f) .eq f s
/-- TWAITV.NE (R254). -/
def execTwaitvNe (f : TmWaitF) (s : State) : Outcome State Fault Refusal := runTwaitv (.twaitvNe f) .ne f s
/-- TWAITV.LT (R254). -/
def execTwaitvLt (f : TmWaitF) (s : State) : Outcome State Fault Refusal := runTwaitv (.twaitvLt f) .lt f s
/-- TWAITV.GE (R254). -/
def execTwaitvGe (f : TmWaitF) (s : State) : Outcome State Fault Refusal := runTwaitv (.twaitvGe f) .ge f s
/-- TWAITV.LTU (R254). -/
def execTwaitvLtu (f : TmWaitF) (s : State) : Outcome State Fault Refusal := runTwaitv (.twaitvLtu f) .ltu f s
/-- TWAITV.GEU (R254). -/
def execTwaitvGeu (f : TmWaitF) (s : State) : Outcome State Fault Refusal := runTwaitv (.twaitvGeu f) .geu f s

/-- TWAITV_POLL (R254): the elements still pending are read again. -/
def execTwaitvPoll (x : SlotNo) (s : State) : Outcome State Fault Refusal :=
  let s1 := switchTo s x
  match s1.me.wait with
  | .values f c pending => .next (waitRound s1 f c pending)
  | _ => .next s

/-- TWAITV_LIMIT_EXPIRY (R254): the new version of t2 holds what is pending. -/
def execTwaitvLimitExpiry (x : SlotNo) (s : State) : Outcome State Fault Refusal :=
  let s1 := switchTo s x
  match s1.me.wait with
  | .values f _ pending => .next (waitDone s1 f pending)
  | _ => .next s

end Sys2Proof.Machine
end

