-- ==== Sys2Proof/Machine/Context.lean ====
section
/-!
DEFINITION. Contexts (R312 to R329): the state changes they share, faulting and destroying one, save images and
restoring them.
-/
namespace Sys2Proof.Machine

def CtxSt.code (x : CtxSt) : Nat :=
  match x with
  | .free => 0 | .created => 1 | .active => 2 | .suspending => 3 | .saved => 4 | .restoring => 5
  | .migratingOut => 6 | .migratingIn => 7 | .faulted => 8 | .destroyed => 9

/-! ## Leaving and entering states (R316) -/

/-- Drops every trail of a context (R216). -/
def dropTrails (s : State) (c : BitVec 6) : State := { s with trails := s.trails.filter fun t => t.ctx != c }

/-- A context changes its state, with event 0x09; on leaving ACTIVE its trails go. -/
def moveCtx (s : State) (c : BitVec 6) (st : CtxSt) : State :=
  let old := (getCtx s c).st
  let s1 := modCtx (if old = .active then dropTrails s c else s) c fun x => { x with st := st }
  ctxEvent s1 c 0x09 0x1FF (BitVec.ofNat 64 st.code) (BitVec.ofNat 64 old.code)

/-- A command's result: CRES, with event 0x07, or 0x06 with the reason and what else it carries. -/
def endCcmd (s : State) (c : BitVec 6) (reason : Option (Nat × Nat × Nat)) : State :=
  let r : CmdRes := match reason with
    | none => { st := .done, value := c.setWidth 32 }
    | some e => { st := .failed, reason := BitVec.ofNat 8 e.1, value := c.setWidth 32 }
  let s1 := { s with ctl := { s.ctl with cres := r, ccmd := none } }
  match reason with
  | none => ctxEvent s1 c 0x07 0x1FF r.word 0
  | some e => refusalEvent s1 c e.2.1 e.2.2

/-- A plain refusal reason of R323. -/
def why (reason : Nat) : Option (Nat × Nat × Nat) := some (reason, reason, 0xC0)

/-- The end of a command that had left CRES before: a later command that is BUSY keeps the register. -/
def lateFailure (s : State) (c : BitVec 6) (e : Nat × Nat × Nat) : State :=
  if s.ctl.cres.st = .busy then refusalEvent s c e.2.1 e.2.2 else endCcmd s c (some e)

/-! ## What a context has on the device -/

def ctxQueues (s : State) (c : BitVec 6) : List (BitVec 10 × Queue) :=
  (s.queues.filter fun p => p.2.st != .unbound && p.2.ctx == c).map fun p => (BitVec.ofNat 10 p.1, p.2)

def ctxGroups (s : State) (c : BitVec 6) : List Group := s.groups.filter fun g => g.id.ctx == c

/-- Whether every group that has started is STOPPED or has ended (R316). -/
def ctxStopped (s : State) (c : BitVec 6) : Bool :=
  (ctxGroups s c).all fun g => g.st == .stopped || g.st == .done || g.st == .killed || g.st == .placing

/-! ## FAULTED and DESTROYED (R270, R281, R306, R316) -/

/-- Groups are killed, queues close, kernels are unloaded, trails go. -/
def tearDown (s : State) (c : BitVec 6) : State :=
  let s1 := (ctxQueues s c).foldl (fun s q => closeQueue s q.1) s
  let s2 := (ctxGroups s1 c).foldl (fun s g => killGroup s g.id LaunchStatus.aborted.code .aborted) s1
  let s3 := ((s2.kernels.filter fun k => k.ctx == c).map Kernel.handle).foldl dropKernel s2
  dropTrails s3 c

/-- The session of a context ends: its key slot is empty (R326). -/
def endSession (s : State) (c : BitVec 6) : State :=
  match (getCtx s c).keySlot with
  | some k => modCtx { s with keySlots := tabSet s.keySlots k {} } c fun x => { x with keySlot := none, msgCount := 0 }
  | none => s

def faultCtx (s : State) (c : BitVec 6) : State :=
  modCtx (moveCtx (tearDown (endSession s c) c) c .faulted) c fun x =>
    { x with logging := false, finalStop := false, stopmig := false, round0 := false, endSent := none, arrived := [] }

def destroyCtx (s : State) (c : BitVec 6) : State :=
  let s1 := tearDown (endSession s c) c
  modCtx (moveCtx s1 c .destroyed) c fun x => { x with
    bindings := [], logging := false, finalStop := false, stopmig := false, round0 := false, endSent := none, arrived := [] }

/-! ## Save images (R318 to R320) -/

/-- Record types (R319). -/
def recordTypes : List Nat := [0x0001, 0x0002, 0x0003, 0x0004, 0x0005, 0x0010, 0x0020, 0x0100, 0x0101, 0x00FF]

/-- The types of an image's records in order. -/
def typesOf (cairnForm : Bool) (kernels queues groups : Nat) : List (BitVec 16) :=
  [1, 2, 3] ++ List.replicate kernels 4 ++ List.replicate queues 5 ++ List.replicate groups 0x10 ++
    (if cairnForm then [0x20] else []) ++ [0xFF]

/-- The headers of image `no`'s records from the `i`-th on, by their types: END's body is empty. -/
def headersOf (fw : BitVec 32) (no i : Nat) (l : List (BitVec 16)) : List RecordHeader :=
  match l with
  | [] => []
  | t :: r =>
    { type := t, length := if t = 0xFF then 0 else Config.bodyLength no i, fwver := fw } :: headersOf fw no (i + 1) r

/-- The bytes that a record takes. -/
def RecordHeader.span (h : RecordHeader) : Nat := 16 + roundUp h.length.toNat 8

def spanOf (l : List RecordHeader) : Nat := natSum (l.map RecordHeader.span)

/-- Each record of an image, in order. -/
def recordsFrom (no i : Nat) (l : List RecordHeader) : List (List Byte) :=
  match l with
  | [] => []
  | h :: r => recordBytes h (Config.bodyByte no i) :: recordsFrom no (i + 1) r

/-- The records of an image that this device has made. -/
def Image.recordList (im : Image) : List (List Byte) := recordsFrom im.no 0 im.headers

def Image.bytes (im : Image) : List Byte := im.recordList.flatMap id

/-- The position of a cairn (R320): the word after its REGION, or the start of the tile code. -/
def cairnPc (k : Option Kernel) (c : Cairn) : Word :=
  match k with
  | some k =>
    match k.regions[c.region]? with
    | some r => k.tileBase + BitVec.ofNat 64 (r.1 + 8)
    | none => if c.region = 0xFFFFFFFF then k.tileBase else c.pc
  | none => c.pc

/-- A block part in cairn form (R320): the state of R108, with hs0 to hs15, LSTAT and VTYPE at 0. -/
def cairnBlock (s : State) (b : Block) : Block :=
  let c := b.cairn
  let b1 : Block := { b with
    pc := cairnPc (getKernel s b.kernel) c, loops := c.loops, sregs := c.sregs, shapes := c.shapes
    streams := c.streams.map fun w => { w with prefetched := [] }, tags := c.tags ||| c.pendingTags
    names := restoredNames b, hregs := Vector.replicate 16 0, lstat := 0, vtype := 0, trapRec := {}, region := .clean
    flights := [], fillWait := [], inHandler := false, trapped := none, due := none
    channels := b.channels.map fun ch =>
      { ch with readPos := match c.readPos.find? fun p => p.1 == ch.sender with | some p => p.2 | none => 0 } }
  { b1 with versions := b1.versions.filter fun v => isCurrent b1 v || pinned b1 v.id || heldMessage b1 v.id ||
      hasReaders s b1 v.id }

/-- A launch as an image holds it: an object it had asked for is asked for again. -/
def savedLaunch (s : State) (l : Launch) : Launch :=
  if s.objWaits.any fun w => w.who == .launch l.q l.seq then { l with requested := l.requested - 1 } else l

/-! ## Mapped pages (R319, R327) -/

/-- The leaves below a table, as (virtual address, leaf), valid and well formed. -/
def leavesFrom (s : State) (level va a : Nat) : List (Nat × Leaf) :=
  match level with
  | 0 =>
    (List.range 512).filterMap fun i =>
      let line := a + 64 * (i / 8)
      let e := leafEntry s line (i % 8)
      if e % 2 = 0 ∨ leafBad e then none
      else some (va + 4096 * i, ⟨0, bitsOf e 16 40, e % 2048, e, line + 7 * (i % 8)⟩)
  | k + 1 =>
    (List.range 512).flatMap fun i =>
      let at_ := a + 8 * i
      let e := homeNat s at_ 8
      let va1 := va + i * 4096 * 512 ^ (k + 1)
      if e % 2 = 0 ∨ upperBad e (k + 1) then []
      else if bitsOf e 11 1 = 1 then [(va1, ⟨k + 1, bitsOf e 12 40, e % 2048, e, at_⟩)]
      else leavesFrom s k va1 (bitsOf e 12 40 * 4096)

/-- Whether a leaf maps device memory. -/
def Leaf.onDevice (l : Leaf) : Bool := regionOf (l.frame * 4096) == .hbm

/-- Every page that a context maps. -/
def allPages (s : State) (c : BitVec 6) : List (Nat × Leaf) := leavesFrom s 3 0 (bitsOf (getCtx s c).ptroot.toNat 12 40 * 4096)

/-- Every mapped page of device memory of a context. -/
def mappedPages (s : State) (c : BitVec 6) : List (Nat × Leaf) := (allPages s c).filter fun p => p.2.onDevice

/-- What a MAPPING record carries: the mappings of host and peer memory, without their contents (R319). -/
def mappingsOf (s : State) (c : BitVec 6) : List Mapping :=
  ((allPages s c).filter fun p => !p.2.onDevice).map fun p => ⟨p.1, p.2.level, p.2.flags⟩

/-! ## Saving -/

/-- The image of a context whose groups have stopped. Its digest is that of the bytes behind its first record (R319; log entry 17). -/
def imageOfCtx (s : State) (c : BitVec 6) (cairnForm : Bool) : Image :=
  let x := getCtx s c
  let qs := ctxQueues s c
  let isQ := fun (q : BitVec 10) => qs.any fun p => p.1 == q
  let ks := s.kernels.filter fun k => k.ctx == c && k.st != .loading
  let rs := s.stopRecords.filter fun r => r.id.ctx == c
  let hs := headersOf s.ctl.fwver s.free 0 (typesOf cairnForm ks.length qs.length rs.length)
  { no := s.free, cairnForm := cairnForm, stepping := Config.stepping, isa := Config.isaLevel, count := hs.length, headers := hs
    digest := Config.sha384 ((recordsFrom s.free 1 hs.tail).flatMap id)
    reserved := false, mappings := if cairnForm then mappingsOf s c else []
    grace := x.grace, evring := x.evring, evlog := x.evlog, evvec := x.evvec, evirq := x.evirq
    dlogn := x.dlogn, bindings := x.bindings, kernels := ks, queues := qs
    launches := (s.launches.filter fun l => isQ l.q).map (savedLaunch s)
    groups := ctxGroups s c
    records := if cairnForm then rs.map fun r => { r with blocks := r.blocks.map (cairnBlock s) } else rs
    bars := s.bandBars.filter fun b => b.ctx == c
    pending := s.pendingRecords.filter fun r => isQ r.q }

/-- The image of a context, kept beside its bytes: the records that have arrived at its queues travel in it (R316). -/
def makeImage (s : State) (c : BitVec 6) (cairnForm : Bool) : Image × State :=
  let s0 := (ctxQueues s c).foldl (fun s q => acceptArrived s q.1 s.submitted.length) s
  let im := imageOfCtx s0 c cairnForm
  (im, { s0 with free := s0.free + 1, images := im :: s0.images })

/-- The context's queues, launches and groups leave the device with its image. -/
def leaveDevice (s : State) (c : BitVec 6) : State :=
  let qs := (ctxQueues s c).map Prod.fst
  let s1 := withdrawRecords s fun b => b.ctx == c
  let s2 := cancelFaults s1 fun a =>
    match a with | .object q _ => qs.contains q | .count q _ => qs.contains q | .completion q => qs.contains q | _ => false
  { s2 with
    objWaits := s2.objWaits.filter fun w => match w.who with | .launch q _ => !qs.contains q | _ => true
    requests := s2.requests.filter fun r => !r.agent.ofQueue fun q => qs.contains q
    submitted := s2.submitted.filter fun r => !qs.contains r.1
    launches := s2.launches.filter fun l => !qs.contains l.q
    pendingRecords := s2.pendingRecords.filter fun r => !qs.contains r.q
    groups := s2.groups.filter fun g => g.id.ctx != c
    stopRecords := s2.stopRecords.filter fun r => r.id.ctx != c
    bandBars := s2.bandBars.filter fun b => b.ctx != c
    queues := s2.queues.map fun p => if qs.contains (BitVec.ofNat 10 p.1) then (p.1, { p.2 with st := .unbound }) else p }

/-- SAVED (R316): the image is written to the save area. -/
def saveCtx (s : State) (c : BitVec 6) (im : Image) : State :=
  let s1 := leaveDevice s c
  let s2 := homeWrite s1 .device (getCtx s1 c).savea.toNat im.bytes
  moveCtx (modCtx s2 c fun x => { x with
    cimglen := BitVec.ofNat 64 (spanOf im.headers), logging := false, finalStop := false, stopmig := false, endSent := none }) c .saved

/-! ## Restoring (R321, R322) -/

/-- A header as its bytes give it. -/
def headerOf (x : Nat) : RecordHeader :=
  { type := BitVec.ofNat 16 x, version := BitVec.ofNat 16 (x / 2 ^ 16), skip := bitsOf x 32 1 = 1, rsv := BitVec.ofNat 31 (x / 2 ^ 33)
    length := BitVec.ofNat 32 (x / 2 ^ 64), fwver := BitVec.ofNat 32 (x / 2 ^ 96) }

/-- The headers of the records that stand in some bytes, up to END; none where a record runs past them. -/
def parseRecords (bs : List Byte) (fuel : Nat) : Option (List RecordHeader) :=
  match fuel with
  | 0 => none
  | k + 1 =>
    let h := headerOf (leNat (bs.take 16))
    if bs.length < 16 ∨ bs.length < h.span then none
    else if h.type = 0xFF then some [h]
    else (parseRecords (bs.drop h.span) k).map fun l => h :: l

/-- How often each type may stand in an image (R319). -/
def countsOk (cairnForm : Bool) (l : List RecordHeader) : Bool :=
  let n := fun (t : Nat) => (l.filter fun h => h.type.toNat == t && h.version.toNat == 1).length
  [1, 2, 3, 0xFF].all (fun t => n t == 1) && n 0x20 == bit01 cairnForm && decide (n 0x100 ≤ 1) && decide (n 0x101 ≤ 1)

/-- The first record that a consumer may not skip: reason, TYPE and VERSION (R321). -/
def recordRefused (l : List RecordHeader) : Option (Nat × Nat × Nat) :=
  match l with
  | [] => none
  | h :: r =>
    let what := h.type.toNat + h.version.toNat * 2 ^ 16
    if !h.skip && !recordTypes.contains h.type.toNat then some (0x32, 0x32, what)
    else if !h.skip && decide (1 < h.version.toNat) then some (0x33, 0x33, what)
    else recordRefused r

/-- What the bodies of an image of another producer hold (log entry 17). -/
opaque Config.imageContent (bytes : List Byte) : Image

/-- What an image holds: what this device has put into it, where it has made those bytes. -/
def contentOf (s : State) (bs : List Byte) : Image :=
  (s.images.find? fun im => im.bytes == bs).getD (Config.imageContent bs)

/-- The image that stands in some bytes, at most so long: its framing is that of R318, and its first record is IMAGE (R322). -/
def readImage (s : State) (bs : List Byte) : Option (Image × List Byte) :=
  match parseRecords bs (bs.length / 16 + 1) with
  | none => none
  | some hs =>
    if hs.head?.map RecordHeader.type ≠ some 1 then none
    else
      let own := bs.take (spanOf hs)
      some ({ contentOf s own with headers := hs }, own)

/-- Checks 1 to 4 of R322 for an image that R318 frames, in order; its counts are framing too (log entry 17). -/
def imageRefused (s : State) (im : Image) (bs : List Byte) : Option (Nat × Nat × Nat) :=
  if im.digest ≠ Config.sha384 (bs.drop ((im.headers.head?.map RecordHeader.span).getD 0)) then why 0x31
  else
    match recordRefused im.headers with
    | some e => some e
    | none =>
      if im.reserved || im.headers.any fun h => h.rsv != 0 then why 0x34
      else if !countsOk im.cairnForm im.headers then why 0x30
      else if im.queues.any fun q => (getQueue s q.1).st != .unbound then why 0x36
      else none

/-- How a restore goes on. -/
inductive Reload where
  | ok (s : State)
  | failed (e : Nat × Nat × Nat) (s : State)
  | waits (h : BitVec 32) (va : Nat)
  | asks (h : BitVec 32) (pages : List Nat)

/-- No later LOAD issues a handle again that an image has brought (R304). -/
def passGen (s : State) (h : BitVec 32) : State :=
  modCtx s (kernelCtx h) fun x =>
    let g : BitVec 16 := h.extractLsb' 0 16
    { x with gens := if (tabGet x.gens (kernelIndex h) (0 : BitVec 16)).toNat < g.toNat then tabSet x.gens (kernelIndex h) g else x.gens }

/-- Check 5 of R322 for one kernel: the load of R305 without the data copy, under the handle and digest of the
image. The kernel's reason goes into DATA0 (R323); a digest that differs has none. The handle's index goes on from its GEN (R304). -/
def reloadOne (s : State) (c : BitVec 6) (k : Kernel) : Reload :=
  let fail := fun (r : Nat) (s : State) => Reload.failed (0x35, r, 0xC0) s
  let f : KcmdF := { ctx := c, handle := k.handle, dlen := k.dlen, data := k.data, obj := k.obj }
  if s.kernels.any fun x => x.handle == k.handle then fail 0x10 s
  else
    match loadObject s (some (getCtx s c).asked) f with
    | (.failed r, s1) => fail r s1
    | (.waits va, _) => .waits k.handle va
    | (.asks l, _) => .asks k.handle l
    | (.ok x bs, s1) =>
      if Config.sha384 bs ≠ k.digest then fail 0 s1
      else
        let k1 := (loadingKernel k.handle f).install x bs (if k.st = .pinned then .pinned else .resident)
        .ok (passGen { s1 with kernels := s1.kernels ++ [k1] } k.handle)

def reloadAll (s : State) (c : BitVec 6) (l : List Kernel) : Reload :=
  match l with
  | [] => .ok s
  | k :: r =>
    match reloadOne s c k with
    | .ok s1 => reloadAll s1 c r
    | x => x

def inCtx (c : BitVec 6) (g : GroupId) : GroupId := { g with ctx := c }

/-- Where the GROUP records of an image stand, from an offset on. -/
def groupOffsets (off : Nat) (l : List RecordHeader) : List Nat :=
  match l with
  | [] => []
  | h :: r => (if h.type = 0x10 then [off] else []) ++ groupOffsets (off + h.span) r

/-- The stop records of a restored image: they stand in the save area (R322). -/
def restoredRecords (c : BitVec 6) (savea : Word) (offs : List Nat) (l : List StopRecord) : List StopRecord :=
  match l with
  | [] => []
  | r :: t =>
    { r with
      address := savea + BitVec.ofNat 64 (offs.headD 0), id := inCtx c r.id
      blocks := r.blocks.map fun b => { b with ctx := c, gid := inCtx c b.gid } } :: restoredRecords c savea offs.tail t

/-- Bindings re-enter as BIND would (R245, R322). -/
def rebind (l new : List Binding) : List Binding :=
  match new with
  | [] => l
  | x :: r => rebind (if bindStatus l x = 0 ∧ !l.contains x then l ++ [x] else l) r

/-- Queues, launches, bindings and stopped groups of an image come back; its records stand in the save area (R316, R322). FWVER is
reported (R321). -/
def enterDevice (s : State) (c : BitVec 6) (im : Image) (bs : List Byte) : State :=
  let savea := (getCtx s c).savea
  let rs := restoredRecords c savea (groupOffsets 0 im.headers) im.records
  let addr := fun (g : GroupId) => match rs.find? fun r => r.id == g with | some r => r.address | none => 0
  let s0 := homeWrite s .device savea.toNat bs
  let s1 : State := { s0 with
    launches := s0.launches ++ im.launches.map fun l => { l with ctx := c }
    groups := s0.groups ++ (im.groups.filter fun g => g.started).map fun g =>
      { g with id := inCtx c g.id, image := addr (inCtx c g.id) }
    stopRecords := rs ++ s0.stopRecords
    bandBars := s0.bandBars ++ im.bars.map fun b => { b with ctx := c }
    pendingRecords := s0.pendingRecords ++ im.pending }
  let s2 := im.queues.foldl (fun s q =>
    setQueue s q.1 { q.2 with cfg := q.2.cfg &&& ~~~(0x3F : Word) ||| c.setWidth 64 }) s1
  modCtx s2 c fun x => { x with
    bindings := rebind [] im.bindings, grace := im.grace, evring := im.evring, evlog := im.evlog, evvec := im.evvec
    evirq := im.evirq, dlogn := im.dlogn, finalStop := false, stopmig := false, logging := false
    cimglen := BitVec.ofNat 64 bs.length, imageFw := (im.headers.head?.map RecordHeader.fwver).getD 0 }

/-- Checks the image that stands in some bytes and restores it, or says why not; nothing of a refused image is kept. An image longer
than the save area runs past SAVELEN (R322). -/
def restoreImage (s : State) (c : BitVec 6) (bytes : List Byte) : Reload :=
  match readImage s bytes with
  | none => .failed (0x30, 0x30, 0xC0) s
  | some (im, bs) =>
    if (getCtx s c).savelen.toNat < bs.length then .failed (0x30, 0x30, 0xC0) s
    else
      match imageRefused s im bs with
      | some e => .failed e s
      | none =>
        let gone := (s.kernels.filter fun k => k.ctx == c).map Kernel.handle
        match reloadAll (gone.foldl dropKernel s) c im.kernels with
        | .ok s1 => .ok (enterDevice s1 c im bs)
        | .failed e _ => .failed e s
        | .waits h va => .waits h va
        | .asks h l => .asks h l

/-- Whether the loader waits for an access beyond the package of the kernels that a context brings back. -/
def restoreBusy (s : State) (c : BitVec 6) : Bool :=
  s.requests.any fun r => match r.agent with | .loader x _ => x == c | _ => false

/-- A restored group whose granted reservation fits nowhere counts as stopped by OVERCAP, and one that has no placement at all is KILLED
(R322, R364). -/
def judgeRestored (s : State) (c : BitVec 6) : State :=
  let fits := fun (g : Group) => match getKernel s g.kernel with
    | some k => fitsAt s false g (tierWord k g.tier) k.lgneed.toNat
    | none => true
  judgeCapacity { s with groups := s.groups.map fun g =>
    if g.id.ctx = c ∧ g.st = .stopped ∧ !fits g then { g with overcap := true } else g }

/-- A restore that has to wait (R353, R438): on a frozen page, or for pages beyond the package. -/
def restoreWaits (s : State) (c : BitVec 6) (x : Reload) : State :=
  match x with
  | .waits h va => holdOn s (.loader c h) c va .read
  | .asks h l =>
    modCtx (l.foldl (fun s p => extRead s (.loader c h) (p * 4096) 4096) s) c fun y => { y with asked := y.asked ++ l }
  | _ => s

/-- The restore of a context is over: nothing of its reading is left. -/
def restoreOver (s : State) (c : BitVec 6) : State :=
  modCtx { s with held := s.held.filter fun h => match h.agent with | .loader x _ => x != c | _ => true } c fun x =>
    { x with asked := [] }

end Sys2Proof.Machine
end

