-- ==== Sys2Proof/Machine/BankEvents.lean ====
section
/-!
DEFINITION. Events of the banks: correctable and uncorrectable errors (R359, R360, R388, R389), SDC attribution (R360,
R391), bank commands (R361), copies and drains (R365, R366, R372); and the configuration of banks and of the error log
(R360, R392).
-/
namespace Sys2Proof.Machine

open Host (Outcome)

/-! ## Errors -/

/-- `x + 1`, saturating at the largest value of `n` bits. -/
def satInc {n : Nat} (x : BitVec n) : BitVec n := if x = BitVec.allOnes n then x else x + 1

/-- CORRECTABLE_ERROR (R359, R360): CEW and CET rise; T1 makes an ONLINE bank WATCHED, T2 decides retirement, but never that of a
block slot (R370). -/
def execCorrectableError (bank : BitVec 32) (s : State) : Outcome State Fault Refusal :=
  let id := bank.toNat
  if !isBank id then .next s
  else
    let old := getBank s id
    let b := { old with cew := satInc old.cew, cet := satInc old.cet }
    let watched := b.st = .online ∧ s.ctl.t1.toNat ≤ b.cew.toNat
    let s1 := setBank s id (if watched then { b with st := .watched } else b)
    let s2 := if watched then errLog s1 { class_ := 0x01, detail := 1, info := b.cew.toNat, bank := id } else s1
    if bankUp s2 id ∧ bankKind id ≠ 6 ∧ s.ctl.t2.toNat ≤ b.cew.toNat ∧ !b.req then
      .next (decideRetire (errLog s2 { class_ := 0x01, detail := 2, info := b.cew.toNat, bank := id }) id 1)
    else .next s2

/-- Whether an address lies in a page-table page below the table at `a` (R333). -/
def inTables (s : State) (level a pa : Nat) : Bool :=
  pa / 4096 == a / 4096 ||
  match level with
  | 0 => false
  | k + 1 => (List.range 512).any fun i =>
      let e := homeNat s (a + 8 * i) 8
      e % 2 == 1 && !upperBad e (k + 1) && bitsOf e 11 1 == 0 && inTables s k (bitsOf e 12 40 * 4096) pa

/-- The contexts, from CREATED to MIGRATING-IN, one of whose page-table pages holds the address (R316). -/
def tableOwners (s : State) (pa : Nat) : List (BitVec 6) :=
  (s.contexts.filter fun p =>
    (match p.2.st with | .free => false | .faulted => false | .destroyed => false | _ => true) &&
      inTables s 3 (bitsOf p.2.ptroot.toNat 12 40 * 4096) pa).map fun p => BitVec.ofNat 6 p.1

/-- A context that an error faults: its own command that is still under way fails. -/
def faultByError (s : State) (c : BitVec 6) : State :=
  let s1 := match s.ctl.ccmd with
    | some (_, f) => if f.ctx = c then endCcmd s c (why 0x37) else s
    | none => s
  faultCtx s1 c

/-- A line of memory is poisoned. -/
def poisonMemLine (s : State) (line : Nat) : State :=
  if s.poison.contains line then s else { s with poison := line :: s.poison }

/-- The elements of a version with bytes in its 64-byte line `line` (R113). -/
def lineElems (g : ShapeRec) (line : Nat) : List Nat :=
  (List.range g.count).filter fun e =>
    if g.type = 15 then e / 8 / 64 == line
    else (e / g.cols.toNat * g.pitchBytes + e % g.cols.toNat * (typeBits g.type / 8)) / 64 == line

/-- A line of a tile version is poisoned. -/
def poisonVersion (v : Version) (line : Nat) : Version :=
  let new := lineElems v.geom line
  { v with poison := (List.range v.geom.count).filter fun e => v.poison.contains e || new.contains e }

/-- The arena copy of a kernel is rebuilt from its object, when a bad word of it would be executed; where that fails the kernel is
UNLOADED and the groups that run it are killed (R389). -/
def rebuildArena (s : State) (h : BitVec 32) : State :=
  match getKernel s h with
  | none => s
  | some k =>
    match rereadObject s none k with
    | (.lost, s1) =>
      let gs := s1.groups.filter fun g => g.kernel == h && (g.st == .running || g.st == .stopping || g.st == .rolling)
      gs.foldl (fun s g => killGroup s g.id Cause.ueCode.code .killed) (loseKernel s1 h)
    | (.same, s1) => modKernel s1 h fun x => { x with bad := [] }
    | (.waits _, s1) => s1
    | (.asks _, s1) => s1

/-- The instructions that hold a sequence dealt to a lane group, each with its next element there (R369). -/
def heldBy (s : State) (core : BitVec 8) (i : Nat) : List (SlotNo × Nat × Nat) :=
  ((allBlocks s).filter fun b => slotCore b.slot == core).flatMap fun b =>
    b.flights.filterMap fun f => (nextDealt s b f i).map fun e => (b.slot, f.id, outputOf b f e)

/-- A line of the lane register file of a block's strip is poisoned (R388). -/
def poisonLane (s : State) (x : SlotNo) (r : BitVec 5) (line : Nat) : State :=
  let hit := fun (j : LaneJob) =>
    if j.slot = x ∧ 16 * line < j.strip.active.length then { j with strip := { j.strip with bad := (r, line) :: j.strip.bad } } else j
  { s with lane := s.lane.map hit, lanes := s.lanes.map hit }

/-- What an uncorrectable error does where it lies. -/
def errorAt (s : State) (id : Nat) (site : UeSite) : State :=
  match site with
  | .memory line =>
    let pa := line.toNat * 64
    let s1 := errLog (poisonMemLine s line.toNat) { class_ := 0x02, addr := pa, bank := id }
    (tableOwners s1 pa).foldl faultByError s1
  | .tile x v line =>
    errLog (modBlock s x fun b => modVersion b v fun w => poisonVersion w line)
      { class_ := 0x02, bank := id, slot := x.toNat }
  | .laneReg x r line => errLog (poisonLane s x r line) { class_ := 0x02, bank := id, slot := x.toNat }
  | .arena h handler off =>
    errLog (modKernel s h fun k => { k with bad := (handler, off.toNat / 8 * 8) :: k.bad })
      { class_ := 0x02, addr := arenaLine s h handler off.toNat, bank := id }
  | .element x f => errorEvent s x .ueData (some f)
  | .datapath =>
    if isBank id ∧ bankKind id = 4 then
      (heldBy s (bankCore id) (bankIndex id)).foldl (fun s p => errorEvent s p.1 .ueData (some p.2.1) (some p.2.2)) s
    else s

/-- UNCORRECTABLE_ERROR (R360, R388, R389): a line is poisoned or a datapath ends its element, and the bank, where the
unit is one, retires at once in both modes. -/
def execUncorrectableError (bank : BitVec 32) (site : UeSite) (s : State) : Outcome State Fault Refusal :=
  let s1 := errorAt s bank.toNat site
  .next (if isBank bank.toNat then evacuate s1 bank.toNat 3 false else s1)

/-- BANK_WINDOW_END (R359): CEW and SDCW are cleared. -/
def execBankWindowEnd (s : State) : Outcome State Fault Refusal :=
  .next { s with banks := s.banks.map fun p => (p.1, { p.2 with cew := 0, sdcw := 0 }) }

/-- The value of a pattern of an FP type, whose results have a shadow (R391). -/
def fpOfType (t : BitVec 5) (x : Half) : Option Fp :=
  match numOf t with | some (.fp m) => some (fpRead m false x.toNat) | _ => none

/-- The exponent of the normalised form; that of a zero lies below every other (log entry 88). -/
def Fp.exp (x : Fp) : Int := match x with | .fin _ sig e => leadExp sig e | _ => -(2 ^ 32 : Nat)

/-- The top 7 fraction bits of the normalised form. -/
def Fp.frac7 (x : Fp) : Nat :=
  match x with | .fin _ sig _ => sig * 128 / 2 ^ Nat.log2 sig % 128 | _ => 0

def Fp.finite (x : Fp) : Bool := match x with | .fin _ _ _ => true | .zero _ => true | _ => false

/-- Whether the magnitude exceeds 2^−100. -/
def Fp.large (x : Fp) : Bool :=
  match x with
  | .fin _ sig e => decide (-100 < leadExp sig e) || (decide (leadExp sig e = -100) && sig != 2 ^ Nat.log2 sig)
  | .inf _ => true
  | _ => false

/-- The divergences of R391 between a result and its shadow value. -/
def divergesFrom (x y : Fp) : Bool :=
  if !x.finite || !y.finite then x.finite != y.finite || (!x.isNaN && !y.isNaN && x.isNeg != y.isNeg)
  else
    (x.isNeg != y.isNeg && (x.large || y.large)) ||
    decide (1 < (x.exp - y.exp).natAbs) ||
    (x.exp == y.exp && decide (2 < ((x.frac7 : Int) - y.frac7).natAbs))

/-- The FP result of element `e` that a lane of a strip has written last, with its lane group (R391). -/
def stripResult (s : State) (b : Block) (f : Flight) (e : Nat) : Option (Nat × Fp) :=
  match laneOf s (slotCore b.slot) with
  | some j =>
    if j.slot = b.slot ∧ j.flight = f.id then
      j.strip.fp.bind fun r =>
        ((List.range j.strip.elems.length).find? fun p => r.ex.getD p false && j.strip.elems.getD p none == some e).bind fun p =>
          (fpOfType r.type ((vreg j.strip r.reg).getD p 0)).map fun x => (j.strip.lg, x)
    else none
  | none => none

/-- Output element `e` of a performed instruction, as an FP result. -/
def outputResult (b : Block) (f : Flight) (e : Nat) : Option Fp :=
  match f.dst.bind (findVersion b) with
  | some v => if f.st = .performed then (v.elems[e]?).bind (fpOfType v.geom.type) else none
  | none => none

/-- The FP result at element `e` of an instruction whose shadow can be attributed to a bank (R360, R391; log entry 88): to the lane
group whose lane computes it, or, for a matrix column adder, to a C-store bank of the core at which lines of the destination are; the
understory has no shadow. -/
def shadowed (s : State) (b : Block) (f : Flight) (e id : Nat) : Option Fp :=
  let core := slotCore b.slot
  let strip := (stripResult s b f e).bind fun r =>
    if bankKind id = 4 ∧ bankCore id = core ∧ bankIndex id = r.1 then some r.2 else none
  let lane := if bankKind id = 4 ∧ bankCore id = core ∧ bankIndex id = lgOf f.lgs e then outputResult b f e else none
  let matrix := if bankKind id = 2 ∧ bankCore id = core ∧ holdsLines core then outputResult b f e else none
  match f.ins with
  | .map _ => strip
  | .reduce _ => match strip with | some x => some x | none => lane
  | .tscan _ => lane
  | .tcvt _ _ => lane
  | .mma _ => matrix
  | .mmas _ => matrix
  | .mmss _ => matrix
  | .mmv _ => if f.tb.isSome then matrix else none
  | _ => none
where
  /-- Lines of the destination are at the bank (R366). -/
  holdsLines (core : BitVec 8) : Bool :=
    match f.dst.bind (findVersion b) with
    | some v => (coreBanks 2 core).any fun l => servesLines s l id && versionLines b.slot v l != 0
    | none => false

/-- A shadow divergence after the result of element `e` of an instruction is written, `e` being the lowest that diverges and `y` its
shadow value, attributed to a bank (R154, R174, R360, R391). An element that consumed poison raises UE_DATA instead. -/
def diverge (s : State) (x : SlotNo) (flight e : Nat) (y : Fp) (bank : BitVec 32) : State :=
  match (getBlock s x).bind fun b => (findFlight b flight).map fun f => (b, f) with
  | none => s
  | some (b, f) =>
    let id := bank.toNat
    let bad := match laneOf s (slotCore x) with
      | some j => if j.slot = x ∧ j.flight = flight then (stripActive j.strip).filter fun k => j.bad.contains k && decide (k ≤ e) else []
      | none => []
    if !isBank id || !(shadowed s b f e id).any (fun r => divergesFrom r y) || !raisesError b (some flight) then s
    else if bad != [] then consumePoison s x 0 (some flight) (lowestOutput b flight bad)
    else
    let out := if (stripResult s b f e).isSome then outputOf b f e else e
    let s1 := errorEvent s x .sdc (some flight) (some out)
    let old := getBank s1 id
    let k := { old with sdcw := satInc old.sdcw }
    let s2 := errLog (setBank s1 id k) { class_ := 0x05, info := k.sdcw.toNat, bank := id, slot := x.toNat }
    if s2.ctl.sdcn ≠ 0 ∧ s2.ctl.sdcn.toNat ≤ k.sdcw.toNat ∧ !k.req then decideRetire s2 id 2 else s2

/-! ## Configuration and commands -/

/-- BANKCFG_WRITE (R360). -/
def execBankcfgWrite (v : Word) (s : State) : Outcome State Fault Refusal := whenReady s <|
  let t1 := v.extractLsb' 20 20
  let t2 := v.extractLsb' 0 20
  let w := v.extractLsb' 40 16
  if t1 = 0 ∨ t2.toNat ≤ t1.toNat ∨ w = 0 then .next (errLog s { class_ := 0x08, info := v.toNat, addr := 0x1D0 })
  else .next { s with ctl := { s.ctl with sdcn := v.extractLsb' 56 8, winms := w, t1 := t1, t2 := t2 } }

/-- ELCFG_WRITE (R392). -/
def execElcfgWrite (v : Word) (s : State) : Outcome State Fault Refusal := whenReady s <|
  if bitsOf v.toNat 52 4 < 4 ∨ bitsOf v.toNat 56 6 ≠ 0 ∨ bitsOf v.toNat 11 1 ≠ 0 then
    .next (errLog s { class_ := 0x09, detail := 0x48, info := v.toNat, addr := 0x200 })
  else .next { s with ctl := { s.ctl with elcfg := v } }

def bankFail (s : State) (bank : BitVec 32) (reason : BitVec 8) : State :=
  { s with ctl := { s.ctl with bankres := { st := .failed, reason := reason, value := bank } } }

/-- A BANKCMD (R361). ACTION is 0 or 1; `rsv` are the reserved bits. -/
def runBankcmd (s : State) (action : Nat) (bank : BitVec 32) (rsv : BitVec 30) : State :=
  if s.ctl.bankres.st = .busy then
    errLog s { class_ := 0x09, detail := 0x52, addr := 0x1C8,
               info := action * 2 ^ 62 + rsv.toNat * 2 ^ 32 + bank.toNat }
  else if 2 ≤ action ∨ rsv ≠ 0 ∨ !isBank bank.toNat then bankFail s bank 0x51
  else if !bankUp s bank.toNat then bankFail s bank 0x50
  else
    evacuate { s with ctl := { s.ctl with bankcmd := some bank, bankres := { st := .busy, value := bank } } }
      bank.toNat 4 (action = 1)

/-- BANKCMD_RETIRE (R361). -/
def execBankcmdRetire (bank : BitVec 32) (rsv : BitVec 30) (s : State) : Outcome State Fault Refusal := whenReady s <|
  .next (runBankcmd s 0 bank rsv)

/-- BANKCMD_OFFLINE (R361). -/
def execBankcmdOffline (bank : BitVec 32) (rsv : BitVec 30) (s : State) : Outcome State Fault Refusal := whenReady s <|
  .next (runBankcmd s 1 bank rsv)

/-! ## Copies and drains -/

def findEvacuation (s : State) (id : Nat) : Option Evacuation := s.evacuations.find? fun e => e.bank == id

def modEvacuation (s : State) (id : Nat) (f : Evacuation → Evacuation) : State :=
  { s with evacuations := s.evacuations.map fun e => if e.bank = id then f e else e }

/-- The groups with a live version in a tile-store bank: neither a densified tile nor a prefetch buffer counts (R365). -/
def groupsIn (s : State) (id : Nat) : List GroupId :=
  ((allBlocks s).filter fun b => slotCore b.slot == bankCore id && b.versions.any fun v =>
    v.geom.store.toNat == bankKind id + 1 &&
      liesAmong b.slot v (logicalBanks s (bankKind id) (bankCore id) id)).map Block.gid

/-- TARGET_BANK_TIMEOUT (R365): 100 µs after `bank` entered EVACUATING its target still holds live lines: OVERCAP for
every group with a live version there. -/
def execTargetBankTimeout (bank : BitVec 32) (s : State) : Outcome State Fault Refusal :=
  match (findEvacuation s bank.toNat).bind fun e => if e.cp = 0 then e.target else none with
  | some t =>
    .next ((groupsIn s t).foldl (fun s g => match findGroup s g with | some x => overcapBand s x | none => s) s)
  | none => .next s

/-- BANK_COPY_LINE (R366): the copy pointer moves on once the target holds no live line; the 256th line ends the
evacuation. A store without a target waits until the bank itself holds no live line (R365). -/
def execBankCopyLine (bank : BitVec 32) (s : State) : Outcome State Fault Refusal :=
  match findEvacuation s bank.toNat with
  | none => .next s
  | some e =>
    if bankKind e.bank = 5 then .next s
    else
      match e.target with
      | none => if bankLive s e.bank then .next s else .next (finishBank s e.bank)
      | some t =>
        if e.cp = 0 ∧ bankLive s t then .next s
        else if e.cp + 1 < 256 then .next (modEvacuation s e.bank fun x => { x with cp := x.cp + 1 })
        else .next (finishBank (mapSwap s e.bank t) e.bank)

/-! ## Slices (R372) -/

/-- A slice that holds no line of an address yet fills it, in its home slice (log entry 60). -/
def fillHome (s : State) (line : Nat) : State :=
  let pa := line * 64
  if regionOf pa = .hole ∨ s.homeLines.any (fun h => h.line == line) then s
  else
    let at_ := homeSlice s pa
    { s with homeLines := s.homeLines ++ [{ die := at_.1, line := line, slice := BitVec.ofNat 9 at_.2 }] }

/-- A slice lets a line go. -/
def evictHome (s : State) (line : Nat) : State := { s with homeLines := s.homeLines.filter fun h => h.line != line }

/-- The lines that a slice holds, guest copies marked. -/
def slicesLines (s : State) (die : Bool) (slice : Nat) : List (Nat × Bool) :=
  ((s.guests.filter fun g => g.die == die && g.slice.toNat == slice).map fun g => (g.line, true)) ++
    (s.homeLines.filter fun h => h.die == die && h.slice.toNat == slice).map fun h => (h.line, false)

/-- The line of a slice that comes first in index order. -/
def firstHeld (s : State) (die : Bool) (slice : Nat) : Option (Nat × Bool) :=
  (slicesLines s die slice).foldl (fun best p =>
    match best with
    | none => some p
    | some q => if (Config.l2Set p.1).toNat < (Config.l2Set q.1).toNat then some p else some q) none

/-- Moves a line of a draining slice to the slice that the new map gives (R371, R372): a guest copy with its data, a line of a home
address written back and clean. Values and poison at the home, link tags and watches go with the line. -/
def drainLine (s : State) (die : Bool) (p : Nat × Bool) : State :=
  let dest : BitVec 9 := BitVec.ofNat 9 (sliceOf s die (p.1 * 64))
  if p.2 then
    match s.guests.find? fun g => g.die == die && g.line == p.1 with
    | some g => addGuest { s with guests := s.guests.erase g } { g with slice := dest }
    | none => s
  else
    { s with homeLines := s.homeLines.map fun h =>
        if h.die == die && h.line == p.1 then { h with slice := dest, dirty := false } else h }

/-- SLICE_DRAIN_LINE (R372): one line of a draining slice moves; the slice is RETIRED when it holds none. -/
def execSliceDrainLine (bank : BitVec 32) (s : State) : Outcome State Fault Refusal :=
  match findEvacuation s bank.toNat with
  | none => .next s
  | some e =>
    if bankKind e.bank ≠ 5 then .next s
    else
      let s1 := match firstHeld s (bankDie e.bank) (bankIndex e.bank) with | some p => drainLine s (bankDie e.bank) p | none => s
      if slicesLines s1 (bankDie e.bank) (bankIndex e.bank) = [] then .next (finishBank s1 e.bank) else .next s1

end Sys2Proof.Machine
end

