-- ==== Sys2Proof/Machine/Barrier.lean ====
section
/-!
DEFINITION. Barrier instructions (R256 to R263): BARI, BARA, BARW, and the counting of an arrival whose release side
has been performed.
-/
namespace Sys2Proof.Machine

open Host (Outcome)

/-! ## Configuration (R258, R259) -/

def barDist (w : Word) : BitVec 32 := (w.extractLsb' 16 3).setWidth 32
def barMemb (w : Word) : BitVec 16 := w.extractLsb' 0 16

/-- Whether R258 refuses a configuration word, for a barrier that serves `n` blocks or groups. -/
def barWordBad (w : Word) (n : Nat) : Bool :=
  let d := w.extractLsb' 16 3
  w.extractLsb' 24 40 != 0 || w.getLsbD 19 || d == 0 || decide (5 ≤ d.toNat) || barMemb w == 0 ||
    decide (2 ^ n ≤ (barMemb w).toNat)

/-- The blocks of a group that have not reached DONE. -/
def unfinished (g : Group) : List (BitVec 4) :=
  ((List.range (g.gsize.toNat + 1)).map (BitVec.ofNat 4)).filter fun i => !g.finished.contains i

/-- The members that a configuration selects (R259). -/
def barMembers (s : State) (g : Group) (b : BitVec 5) (w : Word) : List BarMember :=
  if isBandBar b then
    ((bandOf s g).filter fun x => (barMemb w).getLsbD x.bpos.toNat).flatMap fun x =>
      (unfinished x).map fun i => ⟨x.bpos, i, 0, 0⟩
  else ((unfinished g).filter fun i => (barMemb w).getLsbD i.toNat).map fun i => ⟨g.bpos, i, 0, 0⟩

/-- Loads a configuration afresh (R259, R260). -/
def loadBar (s : State) (g : Group) (b : BitVec 5) (w : Word) : State :=
  let m := barMembers s g b w
  setBar s g b { mode := if m = [] then .idle else .opened, config := w, members := m, c := 0 }

/-- The blocks or groups that a barrier can name. -/
def barLimit (g : Group) (b : BitVec 5) : Nat := if isBandBar b then g.bsize.toNat + 1 else g.gsize.toNat + 1

/-- BARI (R258, R259). -/
def execBari (b : BitVec 5) (sa : BitVec 6) (s : State) : Outcome State Fault Refusal :=
  let w := getS s sa
  let insn := wordOf (.bari b sa)
  match findGroup s s.me.gid with
  | none => .next (trapType s insn b.toNat)
  | some g =>
    let v := getBar s g b
    if barWordBad w (barLimit g b) then .next (trapType s insn w.toNat)
    else if v.mode = .broken then .next (trapType s insn (0x100 + b.toNat))
    else if (v.mode = .opened ∨ v.mode = .pending) ∧ v.config = w then .next (advance s)
    else if v.mode = .pending then .next (trapType s insn b.toNat)
    else .next (advance (loadBar s g b w))

/-! ## Arrival and waiting (R261, R262) -/

/-- The block's entry among the members. -/
def barSelf (v : Barrier) (b : Block) : Option BarMember :=
  v.members.find? fun m => m.bpos == b.peer.bpos && m.blk == b.peer.blk

/-- The first two checks of BARA and BARW: the TVAL of their TYPE trap, or the barrier as the block sees it. -/
def barCheck (s : State) (b : BitVec 5) : Except Nat (Group × Barrier × BarMember) :=
  match findGroup s s.me.gid with
  | none => .error b.toNat
  | some g =>
    let v := getBar s g b
    if v.mode = .broken then .error (0x100 + b.toNat)
    else if v.mode = .idle then .error b.toNat
    else match barSelf v s.me with
      | none => .error b.toNat
      | some m => .ok (g, v, m)

/-- Index(PH − 1) modulo 2^32 (R261). -/
def phaseIndex (b : Block) (ph : BitVec 3) : BitVec 32 := (loopIndex b (ph.toNat - 1)).setWidth 32

def modMember (v : Barrier) (p : Peer) (k : BarMember → BarMember) : Barrier :=
  { v with members := v.members.map fun m => if m.bpos == p.bpos && m.blk == p.blk then k m else m }

/-- BARA (R261): a stall leaves the state as it is. -/
def execBara (f : BarF) (s : State) : Outcome State Fault Refusal :=
  let insn := wordOf (.bara f)
  match barCheck s f.b with
  | .error t => .next (trapType s insn t)
  | .ok (g, v, m) =>
    if f.ph ≠ 0 ∧ phaseIndex s.me f.ph ≠ m.a then .next (trapType s insn m.a.toNat)
    else if !((m.a - v.c).toNat < (barDist v.config).toNat) then .next s
    else
      let v1 := { modMember v s.me.peer fun x => { x with a := x.a + 1 } with mode := .pending }
      let s1 := setBar (expose s) g f.b v1
      .next (advance { s1 with arrivals := s1.arrivals ++ [⟨s1.me.slot, f.b, s1.me.nextId⟩]
                               me := { s1.me with nextId := s1.me.nextId + 1 } })

/-- BARW (R262): it parks, or it completes as an acquire point. -/
def execBarw (f : BarF) (s : State) : Outcome State Fault Refusal :=
  let insn := wordOf (.barw f)
  match barCheck s f.b with
  | .error t => .next (trapType s insn t)
  | .ok (_, v, m) =>
    let n := if f.ph = 0 then m.a else phaseIndex s.me f.ph
    if m.a.toNat < n.toNat then .next (trapType s insn n.toNat)
    else if n.toNat ≤ v.c.toNat then .next (advance (acquireAt s s.me.slot (barScope f.b)))
    else .next (parkOn s (.barrier f.b n))

/-- Whether the release side of an arrival has been performed (R235, R261). -/
def arrivalReady (s : State) (b : Block) (a : Arrival) : Bool :=
  releaseDone s { b with posted := b.posted.filter fun p => decide (p.mark ≤ a.mark)
                         flights := b.flights.filter fun f => decide (f.id < a.mark) } (barScope a.b)

/-- P of the arriving member rises, C follows and the parked BARWs whose condition holds complete (R260). -/
def countArrival (s : State) (x : Block) (b : BitVec 5) : State :=
  match findGroup s x.gid with
  | none => s
  | some g =>
    let v := getBar s g b
    if v.mode = .pending ∨ v.mode = .opened then
      barAdvance s g b (modMember v x.peer fun m => { m with p := m.p + 1 }).settle
    else s

/-- BARRIER_ARRIVAL_COUNTED (R261): the oldest arrival of a block on a barrier, once its release side has been
performed. -/
def execBarrierArrivalCounted (x : SlotNo) (b : BitVec 5) (s : State) : Outcome State Fault Refusal :=
  match getBlock s x, s.arrivals.find? fun a => a.slot == x && a.b == b with
  | some y, some a =>
    if arrivalReady s y a then
      .next (settleStop (countArrival { s with arrivals := s.arrivals.erase a } y b) x)
    else .next s
  | _, _ => .next s

end Sys2Proof.Machine
end

