-- ==== Sys2Proof/Machine/BlockEvents.lean ====
section
/-!
DEFINITION. The ends of a block's drain (R84, R99) and of its rollback (R106, R108).
-/
namespace Sys2Proof.Machine

open Host (Outcome)

/-- BLOCK_DRAIN_COMPLETE (R99). -/
def execBlockDrainComplete (x : SlotNo) (s : State) : Outcome State Fault Refusal :=
  match getBlock s x with
  | some b => if b.st = .exiting ∧ exitDrained s b then .next (settleBanks (blockDone s b)) else .next s
  | none => .next s

/-- ROLLBACK_RESTORE_COMPLETE (R108): the cairn is restored; the block runs again after an error, or where the
migration it stopped for was abandoned, else it is STOPPED. A pre-emption request that arrived meanwhile stands. -/
def execRollbackRestoreComplete (x : SlotNo) (s : State) : Outcome State Fault Refusal :=
  match getBlock s x with
  | none => .next s
  | some b =>
    if b.st = .rollback ∧ rollDrained s b then
      let s1 := restoreCairn s x
      match b.roll with
      | .error _ _ =>
        if !b.preempt then .next (settleBanks (modBlock s1 x fun y => { y with st := .running }))
        else if b.graceOver then .next (settleBanks (startRollback s1 x .preempt))
        else .next (settleBanks (modBlock s1 x fun y => { y with st := .stopping }))
      | _ =>
        if b.roll = .migration ∧ !(getCtx s b.ctx).finalStop then
          .next (modBlock s1 x fun y => { y with st := .running })
        else
        let s2 := modBlock (dropCbClaim s1 x) x fun y => { y with st := .stopped }
        match findGroup s2 b.gid with
        | some g => .next (settleBanks (judgeCapacity (settleBand s2 g)))
        | none => .next s2
    else .next s

end Sys2Proof.Machine
end

