-- ==== Sys2Proof/Machine/Migrate.lean ====
section
/-!
DEFINITION. The migration of a context (R324 to R329, R350, R351): pages, pre-copy rounds, the final stop, and what the
target does with a message.
-/
namespace Sys2Proof.Machine

open Host (Outcome)

/-! ## Messages (R328) -/

/-- The bytes of a message's body. -/
def bodyBytes (x : DecampBody) : List Byte :=
  match x with | .page _ _ _ _ data => data | .image data => data | .finish => []

/-- The header of a message: it says what the body is, and for a page its address, size and attributes (R327, R328). -/
def decampHeaderOf (n : Nat) (x : DecampBody) : BitVec 256 :=
  let len := (bodyBytes x).length
  match x with
  | .page va size flags _ _ => Config.decampHeader n 0 va.toNat size.toNat flags.toNat len
  | .image _ => Config.decampHeader n 1 0 0 0 len
  | .finish => Config.decampHeader n 2 0 0 0 len

/-- Sends a message of a context's session, sealed under its key slot: its IV is SID and the message counter. -/
def sendMsg (s : State) (c : BitVec 6) (body : DecampBody) : State :=
  let x := getCtx s c
  let k : KeySlot := tabGet s.keySlots (x.keySlot.getD 0) {}
  let iv := k.sid ++ x.msgCount
  let h := decampHeaderOf x.msgCount.toNat body
  let bs := bodyBytes body
  modCtx { s with decamp := s.decamp ++ [⟨c, iv, h, Config.gcmSeal k.key iv h bs, Config.gcmTag k.key iv h bs⟩] } c fun x =>
    { x with msgCount := x.msgCount + 1 }

/-! ## Sending pages (R327, R351) -/

/-- The steps of R351: the page's D bit is cleared, the page is invalidated, and then it is read at its home slices and sent. -/
def sendPage (s : State) (c : BitVec 6) (va : Nat) (l : Leaf) : State :=
  let old := memRead s.mem l.at_
  let s1 := invalidate (homeWrite s .device l.at_ [old &&& 0xEF]) c false (va / 4096) (512 ^ l.level)
  sendMsg s1 c (.page (BitVec.ofNat 48 va) (BitVec.ofNat 2 l.level) (BitVec.ofNat 11 l.flags) []
    (homeRead s1 (l.frame * 4096) (4096 * 512 ^ l.level)))

def sendAll (s : State) (c : BitVec 6) (l : List (Nat × Leaf)) : State := l.foldl (fun s p => sendPage s c p.1 p.2) s

/-- Whether the invalidation of a page has to wait: an instruction holds its translation, or a store is on its way to it (R341). -/
def pageBusy (s : State) (c : BitVec 6) (p : Nat × Leaf) : Bool :=
  pinHeld s c false (p.1 / 4096) (512 ^ p.2.level) || storeHeld s c false (p.1 / 4096) (512 ^ p.2.level)

/-- Whether two elements of a list of pages name one page. -/
def distinctPages (l : List Nat) : List Nat :=
  match l with
  | [] => []
  | x :: r => let t := distinctPages r; if t.contains x then t else x :: t

/-- The pages that the log entries not yet consumed name, each once (R325, R349): address and SIZE in one number. -/
def loggedPages (s : State) (c : BitVec 6) : List Nat :=
  let x := getCtx s c
  distinctPages ((List.range (x.dlogw.toNat - x.dlogr.toNat)).map fun i =>
    let w := homeNat s (x.dloga.toNat + 16 * ((x.dlogr.toNat + i) % x.dlogn.toNat)) 8
    bitsOf w 12 36 * 4096 + bitsOf w 0 2)

/-! ## Pre-copy (R327, R350) -/

/-- The pages of the next round: those in device memory that the log names, each once; the overflow bit makes it every mapped page.
One whose entry is not valid is not sent (R345). -/
def roundPages (s : State) (c : BitVec 6) : List (Nat × Leaf) :=
  if (getCtx s c).dlogOvf then mappedPages s c
  else (loggedPages s c).filterMap fun w =>
    match walk s c (w / 4096 * 4096) with
    | .leaf l _ => if l.onDevice then some (w / 4096 * 4096, l) else none
    | .fault _ _ _ => none

/-- Sends a round's pages; the log entries that named them are consumed. -/
def sendRound (s : State) (c : BitVec 6) : State :=
  let l := roundPages s c
  sendAll (modCtx s c fun y => { y with dlogr := y.dlogw.setWidth 64, dlogOvf := false }) c l

/-- MIGRATE_OUT starts pre-copy: logging is turned on, and round 0 is to send every mapped page. -/
def startPrecopy (s : State) (c : BitVec 6) (slot : Nat) : State :=
  modCtx s c fun x => { x with
    logging := true, dlogw := 0, dlogr := 0, dlogOvf := false, miground := 0, stopmig := false, finalStop := false
    hostMig := s.ctl.fnmode.getLsbD 4, keySlot := some slot, msgCount := 0, cmig := 0, round0 := true, endSent := none }

/-- Round 0 (R327). -/
def endRound0 (s : State) (c : BitVec 6) : State :=
  let l := mappedPages s c
  sendAll (modCtx s c fun x => { x with round0 := false, cmig := BitVec.ofNat 64 (l.length % 2 ^ 56) }) c l

/-! ## The final stop (R329) -/

/-- A block on the final stop: a clean one rolls back, others run on to their next REGION, one that had stopped on the way to STOPPED
among them. -/
def finalStopBlock (s : State) (b : Block) : State :=
  if b.region = .clean ∧ b.st ≠ .rollback then startRollback s b.slot .migration
  else modBlock s b.slot fun y =>
    { y with preempt := false, atPoint := false, roll := if b.st = .rollback then .migration else y.roll
             st := if y.st = .stopping ∨ y.st = .stopped then .running else y.st }

/-- Dispatch pauses and every running group stops with cause migration. -/
def finalStop (s : State) (c : BitVec 6) : State :=
  let s1 := modCtx s c fun x => { x with finalStop := true }
  let gs := (ctxGroups s1 c).filter fun g => g.st == .running || g.st == .stopping
  let s2 := gs.foldl (fun s g => modGroup s g.id fun y => { y with st := .stopping }) s1
  let bs := (allBlocks s1).filter fun b =>
    (gs.map Group.id).contains b.gid && b.st.live && b.st != .exiting
  bs.foldl finalStopBlock s2

/-- The end of a round (R327): the event, and the final stop where the loop ends. -/
def endRound (s : State) (c : BitVec 6) : State :=
  let x := getCtx s c
  let n := x.miground + 1
  let d := (roundPages s c).length
  let s2 := modCtx (sendRound s c) c fun y => { y with
    miground := n, cmig := BitVec.ofNat 64 (n % 256 * 2 ^ 56 + d % 2 ^ 56) }
  let s3 := ctxEvent s2 c 0x0A 0x1FF (BitVec.ofNat 64 n) (BitVec.ofNat 64 d)
  if (!x.hostMig && (decide (d < 4096) || n == 8)) || x.stopmig then finalStop s3 c else s3

/-- Whether every block of a context has stopped where its cairn holds all that it has done: one that stopped exposed, or outside a
region, before the migration reaches no REGION (R329; log entry 43). -/
def atCairns (s : State) (c : BitVec 6) : Bool :=
  ctxStopped s c && (s.stopRecords.filter fun r => r.id.ctx == c).all fun r => r.blocks.all fun b => b.region == .clean

/-- Whether a context has stopped for its migration and END is still to be sent. -/
def finalDue (s : State) (c : BitVec 6) : Bool :=
  let x := getCtx s c
  x.st == .migratingOut && x.finalStop && x.endSent.isNone && atCairns s c && !((roundPages s c).any (pageBusy s c))

/-- Step 4 of R329: the pages logged since the last round, the cairn-form image record by record, and END. -/
def finalSend (s : State) (c : BitVec 6) : State :=
  if !finalDue s c then s
  else
    let (im, s1) := makeImage (sendRound s c) c true
    let s2 := im.recordList.foldl (fun s r => sendMsg s c (.image r)) s1
    modCtx (sendMsg s2 c .finish) c fun x => { x with endSent := some im.no }

/-- Blocks that had stopped for the migration go on where they are: a group whose blocks have not all stopped runs
again, its stopped blocks from their cairns. -/
def resumeStopping (s : State) (g : Group) : State :=
  let s1 := modGroup s g.id fun y => { y with st := .running }
  (groupBlocks s1 g.id).foldl (fun s b =>
    modBlock s b.slot fun y => if y.st = .stopped then { y with st := .running } else y) s1

/-- A migration out is abandoned (R316, R329): the context is ACTIVE again, the log as before; the groups that
stopped are STOPPED and are placed again. -/
def abandonOut (s : State) (c : BitVec 6) (reason : Nat) : State :=
  let s1 := modCtx (endSession s c) c fun x =>
    { x with logging := false, finalStop := false, stopmig := false, round0 := false, endSent := none }
  let gs := if (getCtx s c).finalStop then (ctxGroups s1 c).filter fun g => g.st == .stopping else []
  let s2 := gs.foldl resumeStopping s1
  lateFailure (moveCtx s2 c .active) c (reason, reason, 0xC0)

/-- A migration in is refused (R316): the pages already written stay. -/
def abandonIn (s : State) (c : BitVec 6) (e : Nat × Nat × Nat) : State :=
  lateFailure (moveCtx (restoreOver (modCtx (endSession s c) c fun x => { x with arrived := [] }) c) c .created) c e

/-! ## The target (R328) -/

/-- Maps a page in a context's tables at a level, taking the given frames for tables that are missing. -/
def mapPage (s : State) (va size frame flags level a : Nat) (tables : List (BitVec 40)) : State :=
  match level with
  | 0 =>
    let at_ := a + 64 * bitsOf va 15 6 + 7 * bitsOf va 12 3
    homeWrite s .device at_ (leBytes 7 (frame * 2 ^ 16 + flags % 2 ^ 9))
  | k + 1 =>
    let at_ := a + 8 * bitsOf va (9 * (k + 1) + 12) 9
    let e := homeNat s at_ 8
    if size = k + 1 then homeWrite s .device at_ (leBytes 8 (frame * 2 ^ 12 + 2 ^ 11 + flags % 2 ^ 9))
    else if e % 2 = 1 then mapPage s va size frame flags k (bitsOf e 12 40 * 4096) tables
    else
      match tables with
      | [] => s
      | t :: r =>
        let s1 := homeWrite s .device (t.toNat * 4096) (List.replicate 4096 0)
        mapPage (homeWrite s1 .device at_ (leBytes 8 (t.toNat * 4096 + 1))) va size frame flags k (t.toNat * 4096) r

/-- A page at the target: its bytes go into the frame that firmware allocated, and it is mapped. -/
def receivePage (s : State) (c : BitVec 6) (va : BitVec 48) (size : BitVec 2) (flags : BitVec 11)
    (tables : List (BitVec 40)) (frame : BitVec 40) (data : List Byte) : State :=
  let root := bitsOf (getCtx s c).ptroot.toNat 12 40 * 4096
  let s1 := homeWrite s .device (frame.toNat * 4096) data
  mapPage s1 va.toNat size.toNat frame.toNat flags.toNat 3 root tables

/-- END at the target (R316, R322): the image that arrived is checked and restored. -/
def receiveEnd (s : State) (c : BitVec 6) : State :=
  if restoreBusy s c then s
  else
    match restoreImage s c (getCtx s c).arrived with
    | .ok s1 => judgeRestored (moveCtx (restoreOver (modCtx (endSession s1 c) c fun x => { x with arrived := [] }) c) c .active) c
    | .failed e s1 => abandonIn s1 c e
    | r => restoreWaits s c r

/-- DECAMP_MESSAGE_RECEIVE (R328): a failing tag, a repeat or a gap ends the session. -/
def execDecampMessageReceive (c : BitVec 6) (counter : Word) (authentic : Bool) (frame : BitVec 40) (body : DecampBody)
    (s : State) : Outcome State Fault Refusal :=
  let x := getCtx s c
  let good := authentic && counter == x.msgCount
  match x.st with
  | .migratingOut => if authentic then .next s else .next (abandonOut s c 0x3A)
  | .migratingIn =>
    if !good then .next (abandonIn s c (0x3A, 0x3A, 0xC0))
    else
      match body with
      | .page va size flags tables data =>
        .next (receivePage (modCtx s c fun y => { y with msgCount := y.msgCount + 1 }) c va size flags tables frame data)
      | .image data => .next (modCtx s c fun y => { y with msgCount := y.msgCount + 1, arrived := y.arrived ++ data })
      | .finish => .next (receiveEnd s c)
  | _ => .next s

end Sys2Proof.Machine
end

