-- ==== Sys2Proof/Machine/ContextEvents.lean ====
section
/-!
DEFINITION. Context commands (R312 to R316) and the events that end them (R316, R322, R326, R327, R329).
-/
namespace Sys2Proof.Machine

open Host (Outcome)

/-! ## What each command does -/

/-- The 64-byte context descriptor (R313). -/
def descriptorBad (x : Nat) : Bool :=
  let f := fun lo w => bitsOf x lo w
  f 145 15 != 0 || f 416 96 != 0 || f 0 12 != 0 || f 64 5 != 0 || f 192 12 != 0 || f 320 12 != 0 ||
    decide (f 128 5 < 4) || decide (16 < f 128 5) || f 160 16 == 0

def contextOf (old : Context) (x : Nat) : Context :=
  let f := fun lo w => bitsOf x lo w
  { gens := old.gens, ptroot := BitVec.ofNat 64 (f 0 64), evring := BitVec.ofNat 64 (f 64 64)
    evlog := BitVec.ofNat 5 (f 128 5), evvec := BitVec.ofNat 11 (f 133 11), evirq := f 144 1 = 1
    pkey := BitVec.ofNat 16 (f 160 16), grace := BitVec.ofNat 16 (f 176 16), savea := BitVec.ofNat 64 (f 192 64)
    savelen := BitVec.ofNat 64 (f 256 64), dloga := BitVec.ofNat 64 (f 320 64), dlogn := BitVec.ofNat 32 (f 384 32) }

/-- Whether a partition key is held by a context that is not FREE (R406). -/
def keyHeld (s : State) (k : BitVec 16) : Bool := s.contexts.any fun p => p.2.st != .free && p.2.pkey == k

/-- CREATE (R313, R315, R316). -/
def runCreate (s : State) (f : CcmdF) : State :=
  let x := homeNat s f.desc.toNat 64
  if (getCtx s f.ctx).st ≠ .free then endCcmd s f.ctx (why 0x37)
  else if f.desc.toNat % 64 ≠ 0 ∨ regionOf f.desc.toNat = .hole ∨ descriptorBad x ∨ keyHeld s (BitVec.ofNat 16 (bitsOf x 160 16))
  then endCcmd s f.ctx (why 0x39)
  else endCcmd (moveCtx (setCtx s f.ctx (contextOf (getCtx s f.ctx) x)) f.ctx .created) f.ctx none

/-- ACTIVATE. -/
def runActivate (s : State) (f : CcmdF) : State :=
  if (getCtx s f.ctx).st = .created then endCcmd (moveCtx s f.ctx .active) f.ctx none else endCcmd s f.ctx (why 0x37)

/-- A command that goes on: CRES is BUSY until it ends. -/
def busyCcmd (s : State) (n : Nat) (f : CcmdF) : State :=
  { s with ctl := { s.ctl with cres := { st := .busy, value := f.ctx.setWidth 32 }, ccmd := some (n, f) } }

/-- SUSPEND: every RUNNING group receives a stop request. -/
def runSuspend (s : State) (f : CcmdF) : State :=
  if (getCtx s f.ctx).st = .active then
    let s1 := moveCtx (busyCcmd s 2 f) f.ctx .suspending
    (ctxGroups s1 f.ctx).foldl (fun s g => requestStop s g) s1
  else endCcmd s f.ctx (why 0x37)

/-- RESTORE. -/
def runRestore (s : State) (f : CcmdF) : State :=
  let st := (getCtx s f.ctx).st
  if st = .saved ∨ st = .created then
    moveCtx (modCtx (busyCcmd s 3 f) f.ctx fun x => { x with fromSaved := st == .saved }) f.ctx .restoring
  else endCcmd s f.ctx (why 0x37)

def keySlotNo (f : CcmdF) : Nat := bit01 f.kdie * 16 + f.kslot.toNat

/-- Whether a key slot can be used: it holds a key and names a valid peer (R409). -/
def slotUsable (s : State) (f : CcmdF) : Bool :=
  let k : KeySlot := tabGet s.keySlots (keySlotNo f) {}
  k.v && k.peer.extractLsb' 8 55 == 0 && (tabGet s.peers (k.peer.toNat % 256) (0 : BitVec 256)).getLsbD 255

/-- MIGRATE_OUT: the command ends when pre-copy begins. -/
def runMigrateOut (s : State) (f : CcmdF) : State :=
  if (getCtx s f.ctx).st ≠ .active then endCcmd s f.ctx (why 0x37)
  else if !slotUsable s f then endCcmd s f.ctx (why 0x3A)
  else endCcmd (startPrecopy (moveCtx s f.ctx .migratingOut) f.ctx (keySlotNo f)) f.ctx none

/-- MIGRATE_IN: the command ends when the session begins. -/
def runMigrateIn (s : State) (f : CcmdF) : State :=
  if (getCtx s f.ctx).st ≠ .created then endCcmd s f.ctx (why 0x37)
  else if !slotUsable s f then endCcmd s f.ctx (why 0x3A)
  else
    let s1 := modCtx (moveCtx s f.ctx .migratingIn) f.ctx fun x =>
      { x with keySlot := some (keySlotNo f), msgCount := 0, arrived := [] }
    endCcmd s1 f.ctx none

/-- STOPMIG (R327): the loop ends with the round in progress. -/
def runStopmig (s : State) (f : CcmdF) : State :=
  if (getCtx s f.ctx).st = .migratingOut then
    endCcmd (modCtx s f.ctx fun x => { x with stopmig := true }) f.ctx none
  else endCcmd s f.ctx (why 0x37)

/-- DESTROY. -/
def runDestroy (s : State) (f : CcmdF) : State :=
  match (getCtx s f.ctx).st with
  | .free | .destroyed => endCcmd s f.ctx (why 0x37)
  | _ => endCcmd (destroyCtx s f.ctx) f.ctx none

/-- FAULT. -/
def runFault (s : State) (f : CcmdF) : State :=
  match (getCtx s f.ctx).st with
  | .free | .destroyed | .faulted => endCcmd s f.ctx (why 0x37)
  | _ => endCcmd (faultCtx s f.ctx) f.ctx none

/-- A command by its code (R312). -/
def runCcmd (s : State) (n : Nat) (f : CcmdF) : State :=
  match n with
  | 0 => runCreate s f
  | 1 => runActivate s f
  | 2 => runSuspend s f
  | 3 => runRestore s f
  | 4 => runMigrateOut s f
  | 5 => runMigrateIn s f
  | 6 => runStopmig s f
  | 7 => runDestroy s f
  | 8 => runFault s f
  | _ => endCcmd s f.ctx (why 0x37)

/-! ## Taking a command (R312) -/

/-- A kernel command or a page move of the context is in progress: a context command waits for it (R312, R352). -/
def ccmdWaits (s : State) (c : BitVec 6) : Bool :=
  (match s.ctl.kcmd with | some k => k.ctx == c | none => false) ||
    (match s.move with | some m => m.ctx == c | none => false)

/-- Whether a command goes on with the state its context is in: SUSPEND in SUSPENDING, RESTORE in RESTORING. The host can issue one
anew only where a takeover has ended the first (R416, log entry 91). -/
def goesOn (s : State) (n : Nat) (f : CcmdF) : Bool :=
  let st := (getCtx s f.ctx).st
  (n == 2 && st == .suspending) || (n == 3 && st == .restoring)

/-- Takes a command from the physical function; other writers are dropped, and so is a command while CRES is BUSY. -/
def takeCcmd (who : Writer) (n : Nat) (f : CcmdF) (s : State) : Outcome State Fault Refusal :=
  if who ≠ .pf then .next s
  else if s.ctl.cres.st = .busy then .next (refusalEvent s f.ctx 0x3F 0xC0)
  else if ccmdWaits s f.ctx || (s.ctl.twinTaken && goesOn s n f) then .next (busyCcmd s n f)
  else .next (runCcmd s n f)

/-- Starts a command that waited for a kernel command or a page move. -/
def startWaiting (s : State) : State :=
  match s.ctl.ccmd with
  | none => s
  | some (n, f) => if ccmdWaits s f.ctx || goesOn s n f then s else runCcmd s n f

/-- CCMD CREATE (R313). -/
def execCcmdCreate (who : Writer) (f : CcmdF) (s : State) : Outcome State Fault Refusal := whenReady s <| takeCcmd who 0 f s
/-- CCMD ACTIVATE (R316). -/
def execCcmdActivate (who : Writer) (f : CcmdF) (s : State) : Outcome State Fault Refusal := whenReady s <| takeCcmd who 1 f s
/-- CCMD SUSPEND (R316). -/
def execCcmdSuspend (who : Writer) (f : CcmdF) (s : State) : Outcome State Fault Refusal := whenReady s <| takeCcmd who 2 f s
/-- CCMD RESTORE (R316). -/
def execCcmdRestore (who : Writer) (f : CcmdF) (s : State) : Outcome State Fault Refusal := whenReady s <| takeCcmd who 3 f s
/-- CCMD MIGRATE_OUT (R316, R327). -/
def execCcmdMigrateOut (who : Writer) (f : CcmdF) (s : State) : Outcome State Fault Refusal := whenReady s <| takeCcmd who 4 f s
/-- CCMD MIGRATE_IN (R316). -/
def execCcmdMigrateIn (who : Writer) (f : CcmdF) (s : State) : Outcome State Fault Refusal := whenReady s <| takeCcmd who 5 f s
/-- CCMD STOPMIG (R327). -/
def execCcmdStopmig (who : Writer) (f : CcmdF) (s : State) : Outcome State Fault Refusal := whenReady s <| takeCcmd who 6 f s
/-- CCMD DESTROY (R316). -/
def execCcmdDestroy (who : Writer) (f : CcmdF) (s : State) : Outcome State Fault Refusal := whenReady s <| takeCcmd who 7 f s
/-- CCMD FAULT (R316). -/
def execCcmdFault (who : Writer) (f : CcmdF) (s : State) : Outcome State Fault Refusal := whenReady s <| takeCcmd who 8 f s

/-! ## Events that end a command -/

/-- Whether Ranger is performing a command for a context (R312). -/
def performing (s : State) (c : BitVec 6) : Bool := s.ctl.ccmd.any fun p => p.2.ctx == c

/-- SUSPEND_IMAGE_WRITTEN (R316): the stop-form image of `len` bytes, once every group has stopped; an event that names another length
is of no image. -/
def execSuspendImageWritten (c : BitVec 6) (len : Word) (s : State) : Outcome State Fault Refusal :=
  let x := getCtx s c
  let (im, s1) := makeImage s c false
  if !performing s c ∨ x.st ≠ .suspending ∨ !ctxStopped s c ∨ len.toNat ≠ spanOf im.headers then .next s
  else if x.savelen.toNat < spanOf im.headers then .next (endCcmd (moveCtx s c .active) c (why 0x38))
  else .next (endCcmd (saveCtx s1 c im) c none)

/-- Where a restore reads its image: the save area, or IMG and LEN. -/
def restoreSource (s : State) (c : BitVec 6) : Nat × Nat :=
  let x := getCtx s c
  if x.fromSaved then (x.savea.toNat, x.savelen.toNat)
  else match s.ctl.ccmd with | some (_, f) => (f.img.toNat, f.len.toNat) | none => (0, 0)

/-- A restore ends: the context is ACTIVE, or as it was (R316). -/
def endRestore (s : State) (c : BitVec 6) (e : Option (Nat × Nat × Nat)) : State :=
  let back : CtxSt := if (getCtx s c).fromSaved then .saved else .created
  endCcmd (restoreOver (moveCtx s c (if e.isNone then .active else back)) c) c e

/-- RESTORE_COMPLETE (R316, R322). -/
def execRestoreComplete (c : BitVec 6) (s : State) : Outcome State Fault Refusal :=
  let x := getCtx s c
  let src := restoreSource s c
  if !performing s c ∨ x.st ≠ .restoring ∨ restoreBusy s c then .next s
  else if !x.fromSaved ∧ src.1 % 4096 ≠ 0 then .next (endRestore s c (why 0x30))
  else
    match restoreImage s c (homeRead s src.1 src.2) with
    | .ok s1 => .next (judgeRestored (endRestore s1 c none) c)
    | .failed e s1 => .next (endRestore s1 c (some e))
    | r => .next (restoreWaits s c r)

/-- Whether no access or block of a context is in flight. -/
def ctxDrained (s : State) (c : BitVec 6) : Bool :=
  ((allBlocks s).all fun b => b.ctx != c || !(b.st.live || b.st == .bound)) &&
    !(s.requests.any fun r => match r.agent with
      | .group g _ _ => g.ctx == c | .contextEvent x => x == c | .loader x _ => x == c | _ => false) &&
    (match s.move with | some m => m.ctx != c | none => true)

/-- CONTEXT_DRAIN_COMPLETE (R316): a DESTROYED context is FREE; its number may be used again. -/
def execContextDrainComplete (c : BitVec 6) (s : State) : Outcome State Fault Refusal :=
  if (getCtx s c).st = .destroyed ∧ ctxDrained s c then
    .next (setCtx (invalidate (moveCtx s c .free) c true 0 0) c { gens := (getCtx s c).gens })
  else .next s

/-- PRECOPY_ROUND_END (R327): the round's pages are sent once their invalidations have completed (R351). -/
def execPrecopyRoundEnd (c : BitVec 6) (s : State) : Outcome State Fault Refusal :=
  let x := getCtx s c
  if x.st ≠ .migratingOut ∨ x.finalStop then .next s
  else if (if x.round0 then mappedPages s c else roundPages s c).any (pageBusy s c) then .next s
  else .next (if x.round0 then endRound0 s c else endRound s c)

/-- MIGRATION_STOP_TIMEOUT (R329): some block has reached no REGION within 10 ms. -/
def execMigrationStopTimeout (c : BitVec 6) (s : State) : Outcome State Fault Refusal :=
  let x := getCtx s c
  if x.st = .migratingOut ∧ x.finalStop ∧ !atCairns s c then .next (abandonOut s c 0x3B) else .next s

/-- TARGET_END_ACK (R316): the target has taken END; the source is SAVED, the image that was sent at SAVEA. -/
def execTargetEndAck (c : BitVec 6) (s : State) : Outcome State Fault Refusal :=
  let x := getCtx s c
  match x.endSent.bind fun n => s.images.find? fun im => im.no == n with
  | some im => if x.st = .migratingOut then .next (saveCtx (endSession s c) c im) else .next s
  | none => .next s

/-- LINK_LOST (R316): a session in progress ends. -/
def execLinkLost (c : BitVec 6) (s : State) : Outcome State Fault Refusal :=
  match (getCtx s c).st with
  | .migratingOut => .next (abandonOut s c 0x3A)
  | .migratingIn => .next (abandonIn s c (0x3A, 0x3A, 0xC0))
  | _ => .next s

/-- TARGET_REFUSAL (R316). -/
def execTargetRefusal (c : BitVec 6) (s : State) : Outcome State Fault Refusal :=
  if (getCtx s c).st = .migratingOut then .next (abandonOut s c 0x3A) else .next s

/-- KEY_SLOT_WRITE (R326): only the host writes a key slot; the write of its 64 bytes sets V. -/
def execKeySlotWrite (who : Writer) (die : Bool) (slot : BitVec 4) (data : BitVec 512) (s : State) :
    Outcome State Fault Refusal := whenReady s <|
  if who ≠ .pf then .next s
  else
    let k : KeySlot := { key := data.extractLsb' 256 256, sid := data.extractLsb' 224 32
                         peer := data.extractLsb' 160 64, v := true }
    .next { s with keySlots := tabSet s.keySlots (bit01 die * 16 + slot.toNat) k }

end Sys2Proof.Machine
end

