-- ==== Sys2Proof/Machine/Control.lean ====
section
/-!
DEFINITION. Branches, calls and loops (R95 to R98), and the code sections an instruction is fetched from (R96).
-/
namespace Sys2Proof.Machine

open Host (Outcome)

/-- The section the block whose turn it is fetches from, with its base: the tile code, or in handler mode the
handler section (R96, R381). -/
def codeOf (s : State) : Word × List Word :=
  match getKernel s s.me.kernel with
  | some k => if s.me.inHandler then (k.handlerBase, k.handler) else (k.tileBase, k.tile)
  | none => (0, [])

/-- The instruction word at an address, where it lies in the section. -/
def wordAt (s : State) (pc : Word) : Option Word :=
  let c := codeOf s
  if pc.toNat % 8 = 0 ∧ c.1.toNat ≤ pc.toNat then c.2[(pc.toNat - c.1.toNat) / 8]? else none

def inSection (s : State) (pc : Word) : Bool := (wordAt s pc).isSome

/-- Transfers control, or traps ILLEGAL with the target where it lies outside the section (R55, R96); lines prefetched behind the
transfer are left (R389). -/
def jumpTo (s : State) (insn : Word) (t : Word) (k : State → State) : State :=
  if inSection s t then k (setPc (leaveLines s (some t)) t) else seqTrap s insn { cause := .illegal, tval := t }

/-- The target of a BR format instruction (R95). -/
def branchTarget (s : State) (off : BitVec 32) : Word := s.me.pc + off.signExtend 64 * 8

/-- The comparison of a condition on two words (R95). -/
def condHolds (c : Cond) (a b : Word) : Bool :=
  match c with
  | .eq => a == b
  | .ne => a != b
  | .lt => a.slt b
  | .ge => !a.slt b
  | .ltu => a.ult b
  | .geu => !a.ult b

/-- B.cond (R95, R96). -/
def execBCond (f : BrF) (s : State) : Outcome State Fault Refusal :=
  if condHolds f.cond (getS s f.sa) (getS s f.sb) then
    .next (jumpTo s (wordOf (.bCond f)) (branchTarget s f.off) fun s => s)
  else .next (advance s)

/-- J (R95). -/
def execJ (off : BitVec 32) (s : State) : Outcome State Fault Refusal :=
  .next (jumpTo s (wordOf (.j off)) (branchTarget s off) fun s => s)

/-- CALL (R95): the link register is written when the transfer is made. -/
def execCall (f : SaOff) (s : State) : Outcome State Fault Refusal :=
  .next (jumpTo s (wordOf (.call f)) (branchTarget s f.off) fun t => setS t f.sa (s.me.pc + 8))

/-- RET (R95): a target that is not a multiple of 8 traps ILLEGAL, as one outside the section does. -/
def execRet (sa : BitVec 6) (s : State) : Outcome State Fault Refusal :=
  .next (jumpTo s (wordOf (.ret sa)) (getS s sa) fun s => s)

def setLoops (s : State) (l : List LoopEntry) : State := { s with me := { s.me with loops := l } }

def trapLoop (s : State) (insn : Word) (n : Nat) : State :=
  seqTrap s insn { cause := .loopDepth, tval := BitVec.ofNat 64 n }

/-- LOOP (R97). -/
def execLoop (f : SaOff) (s : State) : Outcome State Fault Refusal :=
  let c := getS s f.sa
  if c.toInt ≤ 0 then .next (jumpTo s (wordOf (.loop f)) (branchTarget s f.off) fun s => s)
  else if 6 ≤ s.me.loops.length then .next (trapLoop s (wordOf (.loop f)) 6)
  else .next (advance (setLoops s (⟨s.me.pc + 8, c, 0⟩ :: s.me.loops)))

/-- ENDL (R97); it is a resumable point after its update. -/
def execEndl (off : BitVec 32) (s : State) : Outcome State Fault Refusal :=
  match s.me.loops with
  | [] => .next (trapLoop s (wordOf (.endl off)) 0)
  | top :: rest =>
    let t := branchTarget s off
    if t ≠ top.start then .next (seqTrap s (wordOf (.endl off)) { cause := .illegal, tval := t })
    else if (top.index + 1).toNat < top.count.toNat then
      .next (jumpTo s (wordOf (.endl off)) top.start fun s =>
        resumable (setLoops s ({ top with index := top.index + 1 } :: rest)) s.me.slot)
    else .next (resumable (advance (setLoops s rest)) s.me.slot)

/-- LBRK (R97). -/
def execLbrk (lv : BitVec 3) (off : BitVec 32) (s : State) : Outcome State Fault Refusal :=
  let insn := wordOf (.lbrk lv off)
  if s.me.loops.length < lv.toNat then .next (trapLoop s insn s.me.loops.length)
  else .next (jumpTo s insn (branchTarget s off) fun t => setLoops t (s.me.loops.drop lv.toNat))

end Sys2Proof.Machine
end

