-- ==== Sys2Proof/Machine/Kernels.lean ====
section
/-!
DEFINITION. Kernel commands and the events of the loader (R303 to R306), instruction cache fills and lane function
fetches (R182, R308, R389), and the emulator (R311).
-/
namespace Sys2Proof.Machine

open Host (Outcome)

/-! ## Kernel commands (R303, R305, R306) -/

/-- Takes a kernel command; one written while KRES is BUSY is dropped. -/
def takeKcmd (f : KcmdF) (s : State) (run : State → State) : Outcome State Fault Refusal :=
  if s.ctl.kres.st = .busy then .next (refusalEvent s f.ctx 0x0F 0x60) else .next (run s)

/-- LOAD is accepted: an index is reserved. An object in host memory is read over PCI Express (R438). -/
def startLoad (f : KcmdF) (s : State) : State :=
  if (getCtx s f.ctx).st ≠ .active then endKcmd s f.ctx 0 (some 0x11)
  else
    match freeIndex s f.ctx with
    | none => endKcmd s f.ctx 0 (some 0x12)
    | some i =>
      let g := nextGen (getCtx s f.ctx) i
      let h := handleOf f.ctx i g
      let s1 := modCtx s f.ctx fun x => { x with gens := tabSet x.gens i g }
      let s2 := { s1 with
        kernels := s1.kernels ++ [loadingKernel h f]
        ctl := { s1.ctl with kres := { st := .busy }, kcmd := some f } }
      loaderRequest s2 f.ctx h f.obj 64

/-- KCMD LOAD (R305). -/
def execKcmdLoad (f : KcmdF) (s : State) : Outcome State Fault Refusal := whenReady s <| takeKcmd f s (startLoad f)

/-- A command on a handle: it fails where the handle names no kernel of the context or its state does not allow it. -/
def onKernel (f : KcmdF) (allowed : State → Kernel → Bool) (run : State → Kernel → State) (s : State) : State :=
  if (getCtx s f.ctx).st ≠ .active then endKcmd s f.ctx f.handle (some 0x11)
  else
    match getKernel s f.handle with
    | some k =>
      if k.ctx = f.ctx ∧ allowed s k then endKcmd (run s k) f.ctx f.handle none
      else endKcmd s f.ctx f.handle (some 0x10)
    | none => endKcmd s f.ctx f.handle (some 0x10)

def setKernelSt (st : KernelSt) (s : State) (k : Kernel) : State := modKernel s k.handle fun x => { x with st := st }

/-- KCMD PIN (R306). -/
def execKcmdPin (f : KcmdF) (s : State) : Outcome State Fault Refusal := whenReady s <|
  takeKcmd f s (onKernel f (fun _ k => k.st == .resident) (setKernelSt .pinned))

/-- KCMD UNPIN (R306). -/
def execKcmdUnpin (f : KcmdF) (s : State) : Outcome State Fault Refusal := whenReady s <|
  takeKcmd f s (onKernel f (fun _ k => k.st == .pinned) (setKernelSt .resident))

/-- KCMD UNLOAD (R306): refused while an accepted launch of the kernel is incomplete. -/
def execKcmdUnload (f : KcmdF) (s : State) : Outcome State Fault Refusal := whenReady s <|
  takeKcmd f s (onKernel f
    (fun s k => (k.st == .resident || k.st == .evicted) && kernelLaunches s k.handle == [])
    (fun s k => dropKernel s k.handle))

/-- The end of a LOAD; a context command that waited for it starts (R312). -/
def finishLoad (s : State) (c : BitVec 6) (h : BitVec 32) (reason : Option Nat) : State :=
  startWaiting (endKcmd s c h reason)

/-- A LOAD that fails leaves no kernel. -/
def loadFails (s : State) (c : BitVec 6) (h : BitVec 32) (reason : Nat) : State :=
  finishLoad (dropKernel s h) c 0 (some reason)

/-- Whether the loader waits for an access beyond the package (R438). -/
def loaderBusy (s : State) (c : BitVec 6) (h : BitVec 32) : Bool := s.requests.any fun r => r.agent == .loader c h

/-- The loader goes on with a LOAD (R305, R306): the object is read and checked, its code goes to the arena, and its data is copied; the
kernel whose code stands there waits for the last of its data. -/
def goOnLoad (s : State) (f : KcmdF) (k : Kernel) : State :=
  let done := fun (s : State) => finishLoad (modKernel s k.handle fun y => { y with st := .resident }) f.ctx k.handle none
  if k.len ≠ 0 then done s
  else
    match loadObject s (some k.asked) f with
    | (.waits va, s1) => holdOn s1 (.loader f.ctx k.handle) f.ctx va .read
    | (.asks l, s1) => askPages s1 f.ctx k.handle l
    | (.failed r, s1) => loadFails s1 f.ctx k.handle r
    | (.ok x bs, s1) =>
      match copyData s1 k.handle f (dataPlaces x) with
      | (.fault, s2) => loadFails s2 f.ctx k.handle 0x0E
      | (.waits va, s2) => holdOn s2 (.loader f.ctx k.handle) f.ctx va .write
      | (.done, s2) =>
        let s3 := modKernel s2 k.handle fun y => y.install x bs .loading
        if loaderBusy s3 f.ctx k.handle then s3 else done s3

/-- KERNEL_LOAD_COMPLETE (R305, R306): the loader goes as far as it can. -/
def execKernelLoadComplete (s : State) : Outcome State Fault Refusal :=
  match s.ctl.kcmd with
  | none => .next s
  | some f =>
    match s.kernels.find? fun k => k.ctx == f.ctx && k.st == .loading with
    | none => .next (finishLoad s f.ctx 0 (some 0x11))
    | some k =>
      if loaderBusy s f.ctx k.handle then .next s
      else .next (goOnLoad (unhold s (.loader f.ctx k.handle)) f k)

/-- KERNEL_EVICT (R306). -/
def execKernelEvict (h : BitVec 32) (s : State) : Outcome State Fault Refusal :=
  match getKernel s h with
  | some k =>
    if k.st = .resident ∧ kernelLaunches s h = [] then
      .next (dropCode (modKernel s h fun x => { x with st := .evicted, asked := [] }) h)
    else .next s
  | none => .next s

/-- KERNEL_RELOAD_COMPLETE (R306): the digest decides. -/
def execKernelReloadComplete (h : BitVec 32) (s : State) : Outcome State Fault Refusal :=
  match getKernel s h with
  | some k =>
    if k.st ≠ .reloading ∨ loaderBusy s k.ctx h then .next s
    else
      match rereadObject (unhold s (.loader k.ctx h)) (some k.asked) k with
      | (.same, s1) => .next (modKernel s1 h fun x => { x with st := .resident, bad := [] })
      | (.lost, s1) => .next (loseKernel s1 h)
      | (.waits va, s1) => .next (holdOn s1 (.loader k.ctx h) k.ctx va .read)
      | (.asks l, s1) => .next (askPages s1 k.ctx h l)
  | none => .next s

/-- An access of the loader that fails for good (R305, R306, R322, R345, R438): a LOAD fails with 0x0E, a kernel read again is lost, and
a restore is refused. -/
def loaderFails (s : State) (c : BitVec 6) (h : BitVec 32) : State :=
  match (getCtx s c).st with
  | .restoring => endRestore s c (some (0x35, 0x0E, 0xC0))
  | .migratingIn => abandonIn s c (0x35, 0x0E, 0xC0)
  | _ =>
    match getKernel s h with
    | some k => if k.st = .loading then loadFails s c h 0x0E else if k.st = .reloading then loseKernel s h else s
    | none => s

/-! ## Code and lane function fetches (R182, R308, R389) -/

/-- Lines of the instruction cache of a core. -/
def icacheOf (s : State) (core : BitVec 8) : List IcacheLine := s.icache.filter fun l => l.core == core

/-- Takes the line filled longest ago out of a full cache. -/
def icacheRoom (s : State) (core : BitVec 8) : State :=
  if (icacheOf s core).length < 1024 then s
  else
    match (icacheOf s core).getLast? with
    | some l => logLatent { s with icache := s.icache.erase l } l
    | none => s

/-- The bad word of a line as it is filled: the one that the fetch finds, else one of the arena copy. -/
def filledBad (k : Kernel) (handler : Bool) (off : Nat) (ok : Bool) : Option Nat :=
  if ok then (k.bad.find? fun x => x.1 == handler && x.2 / 64 == off / 64).map Prod.snd else some (off / 8 * 8)

/-- ICACHE_FILL (R308): the line that holds the word at `off` of a section; `ok` is false where that word has an
uncorrectable error. -/
def execIcacheFill (core : BitVec 8) (h : BitVec 32) (handler : Bool) (off : BitVec 32) (ok : Bool) (s : State) :
    Outcome State Fault Refusal :=
  match getKernel s h with
  | some k =>
    let code := if handler then k.handler else k.tile
    let line := off.toNat / 64
    let here := s.icache.any fun l => l.core == core && l.kernel == h && l.handler == handler && l.line == line
    if (k.st = .resident ∨ k.st = .pinned) ∧ off.toNat < 8 * code.length ∧ !here then
      let s1 := icacheRoom s core
      .next { s1 with icache := ⟨core, h, handler, line, filledBad k handler off.toNat ok⟩ :: s1.icache }
    else .next s
  | none => .next s

/-- The instructions that wait on a lane function, by slot. -/
def laneFnWaiters (s : State) (core : BitVec 8) (h : BitVec 32) (off : Nat) : List (SlotNo × Nat) :=
  ((allBlocks s).filter fun b => slotCore b.slot == core && b.kernel == h).flatMap fun b =>
    (b.flights.filter fun f => f.st == .waiting && Instr.laneOff f.ins == some off).map fun f => (b.slot, f.id)

/-- LANE_FUNCTION_FETCH_COMPLETE (R182): the function is PRESENT, or each instruction that waits on it raises
UE_CODE. -/
def execLaneFunctionFetchComplete (core : BitVec 8) (h : BitVec 32) (off : BitVec 24) (ok : Bool) (s : State) :
    Outcome State Fault Refusal :=
  let at_ := off.toNat
  if !(s.laneFns.any fun e => e.is core h at_ && !e.present) then .next s
  else if ok then
    .next { s with laneFns := s.laneFns.map fun e => if e.is core h at_ then { e with present := true } else e }
  else
    let s1 := { s with laneFns := s.laneFns.filter fun e => !e.is core h at_ }
    .next ((laneFnWaiters s core h at_).foldl (fun s w => errorEvent s w.1 .ueCode (some w.2)) s1)

/-! ## The emulator (R311) -/

/-- One write that the emulator makes; a new version that finds no room is none (log entry 54). -/
def emuWrite (s : State) (w : EmuWrite) : State :=
  match w with
  | .sreg r v => setS s r v
  | .hreg r v => { s with me := { s.me with hregs := s.me.hregs.set r.toNat v r.isLt } }
  | .loops l => { s with me := { s.me with loops := (l.take 6).map fun (e : Word × Word × Word) => ⟨e.1, e.2.1, e.2.2⟩ } }
  | .stream w base stride count =>
    { s with me := setStream s.me w { streamOf s.me w with base := base, stride := stride, count := count } }
  | .copy w h depth consumed =>
    { s with me := setStream s.me w { streamOf s.me w with
        copy := shapeOf s.me h, source := h, depth := depth, consumed := consumed, prefetched := [] } }
  | .tile t elems =>
    match curId s.me t with
    | some id => { s with me := modVersion s.me id fun v => { v with elems := (elems ++ v.elems.drop elems.length).take v.geom.count } }
    | none => s
  | .scales t l =>
    match curId s.me t with
    | some id => { s with me := modVersion s.me id fun v => { v with scales := l } }
    | none => s
  | .bind t h => { s with me := setName s.me t (h.map fun r => { record := r, cur := none }) }
  | .version t rows cols type store pitch =>
    match nameOf s.me t, rename s s.me t { rows := rows, cols := cols, type := type, store := store, pitch := pitch } [] with
    | some _, .ok id b => { s with me := modVersion b id fun v => { v with done := true } }
    | _, _ => s
  | .vtype v => { s with me := { s.me with vtype := v.setWidth 10 } }
  | .shape h field v => { s with me := setShape s.me h (putField (shapeOf s.me h) field v) }
  | .lstat v => { s with me := { s.me with lstat := v.setWidth 6 } }
  | .tags v => { s with me := { s.me with tags := v } }
  | .memory pa b => homeWrite s (.block s.me.slot) pa.toNat [b]

/-- The word a block's emulator holds. -/
def emuHolds (s : State) (x : SlotNo) : Option Word :=
  match (getBlock s x).map Block.wait with | some (.emulator w) => some w | _ => none

/-- EMULATOR_PERFORM (R311): the whole effect of the instruction; the block goes on after it and is exposed. -/
def execEmulatorPerform (x : SlotNo) (writes : List EmuWrite) (s : State) : Outcome State Fault Refusal :=
  match emuHolds s x with
  | some _ => .next (advance (expose (writes.foldl emuWrite (switchTo s x))))
  | none => .next s

/-- A declined word traps UNDEF_FUTURE, in handler mode DOUBLE_UNDEF. -/
def declineWord (s : State) (w : Word) : State :=
  seqTrap { s with me := { s.me with wait := .none } } w { cause := .undefFuture }

/-- EMULATOR_DECLINE (R311). -/
def execEmulatorDecline (x : SlotNo) (s : State) : Outcome State Fault Refusal :=
  match emuHolds s x with
  | some w => .next (declineWord (switchTo s x) w)
  | none => .next s

/-- A word with a future major: offered to the emulator, or declined at once in hardware mode where EMUSET does not
show its major. -/
def offerEmulator (s : State) (w : Word) : State :=
  let i := (w.extractLsb' 57 7).toNat - 0x60
  if !s.ctl.fnmode.getLsbD 2 && !s.ctl.emuset.getLsbD i then declineWord s w
  else { s with me := { s.me with wait := .emulator w } }

end Sys2Proof.Machine
end

