-- ==== Sys2Proof/Machine/LaneOps.lean ====
section
/-!
DEFINITION. The lane instructions (R192 to R208). Each acts on the strip in progress.
-/
namespace Sys2Proof.Machine

/-! ## Integer and fixed point (R192 to R194) -/

def execVadd (f : L3) (s : State) : LaneOut := laneInt s f fun _ _ a b => a + b
def execVsub (f : L3) (s : State) : LaneOut := laneInt s f fun _ _ a b => a - b
def execVmul (f : L3) (s : State) : LaneOut := laneInt s f fun _ _ a b => a * b
def execVmulh (f : L3) (s : State) : LaneOut := laneInt s f fun _ n a b => a * b / (2 ^ n : Nat)
def execVmin (f : L3) (s : State) : LaneOut := laneInt s f fun _ _ a b => if b < a then b else a
def execVmax (f : L3) (s : State) : LaneOut := laneInt s f fun _ _ a b => if a < b then b else a
def execVand (f : L3) (s : State) : LaneOut := laneBits s f fun a b => a &&& b
def execVor (f : L3) (s : State) : LaneOut := laneBits s f fun a b => a ||| b
def execVxor (f : L3) (s : State) : LaneOut := laneBits s f fun a b => a ^^^ b
def execVshl (f : L3) (s : State) : LaneOut := laneShift s f fun _ a c => a * 2 ^ c
def execVshr (f : L3) (s : State) : LaneOut := laneShift s f fun _ a c => a / 2 ^ c
def execVsra (f : L3) (s : State) : LaneOut :=
  laneShift s f fun n a c => wrapInt n (readInt true n a / (2 ^ c : Nat))

/-- VWMAC (R193): vd is read and written as type W, twice as wide. -/
def execVwmac (f : L3) (s : State) : LaneOut :=
  laneTyped s fun j t =>
    match t with
    | .fp _ => none
    | .int sg n =>
      if 16 < n then none
      else
        let sum := fun p => readInt sg (2 * n) (at_ j.strip f.vd p) + t.toInt (at_ j.strip f.va p) * t.toInt (srcAt j t f.vb p)
        let c := fun p => clampInt (intMin sg (2 * n)) (intMax sg (2 * n)) (sum p)
        some (laneSet j.strip f.vd f.guard (fun p => canonical (.int sg (2 * n)) (wrapInt (2 * n) (c p)))
          fun p => if c p = sum p then 0 else flagSAT)

/-- VNSHR (R194). -/
def execVnshr (f : L3) (s : State) : LaneOut :=
  laneTyped s fun j t =>
    match t with
    | .fp _ => none
    | .int sg n =>
      if 16 < n then none
      else
        let y := fun p => shiftRound (readInt sg (2 * n) (at_ j.strip f.va p))
          (srcAt j t f.vb p % 2 ^ n % (2 * n)) (roundModeOf j.strip.vt.xrm)
        let c := fun p => clampInt (intMin sg n) (intMax sg n) (y p)
        some (laneSet j.strip f.vd f.guard (fun p => canonical t (wrapInt n (c p)))
          fun p => if c p = y p then 0 else flagSAT)

/-- VABS (R192): the least I value is clamped and sets SAT. -/
def execVabs (f : L2) (s : State) : LaneOut :=
  laneTyped s fun j t =>
    match t with
    | .fp _ => none
    | .int sg n =>
      let x := fun p => t.toInt (at_ j.strip f.va p)
      let c := fun p => clampInt (intMin sg n) (intMax sg n) ((x p).natAbs : Int)
      some (laneSet j.strip f.vd f.guard (fun p => canonical t (wrapInt n (c p)))
        fun p => if c p = ((x p).natAbs : Int) then 0 else flagSAT)

/-! ## Floating point (R195 to R198) -/

def execVfadd (f : L3) (s : State) : LaneOut := laneFp s f fun m z _ a b => fpAdd m z a b
def execVfsub (f : L3) (s : State) : LaneOut := laneFp s f fun m z _ a b => fpAdd m z a b.neg
def execVfmul (f : L3) (s : State) : LaneOut := laneFp s f fun m z _ a b => fpMul m z a b
def execVfma (f : L3) (s : State) : LaneOut := laneFp s f fun m z d a b => fpFma m z d a b
def execVfmin (f : L3) (s : State) : LaneOut := laneFp s f fun m z _ a b => fpMinMax m z false a b
def execVfmax (f : L3) (s : State) : LaneOut := laneFp s f fun m z _ a b => fpMinMax m z true a b
def execVrcp (f : L2) (s : State) : LaneOut := laneFp1 s f fun m z _ _ a => fpRecip m z a
def execVrsq (f : L2) (s : State) : LaneOut := laneFp1 s f fun m z _ _ a => fpRsqrt m z a

/-- VEXP2 (R197): which neighbour an inexact result takes is a free value (log entry 3). -/
def execVexp2 (f : L2) (s : State) : LaneOut :=
  laneFp1 { s with free := s.free + 1 } f fun m z p x a => fpExp2 m z (Config.faithfulUp s.free p x) a

/-- VLOG2 (R197), as VEXP2. -/
def execVlog2 (f : L2) (s : State) : LaneOut :=
  laneFp1 { s with free := s.free + 1 } f fun m z p x a => fpLog2 m z (Config.faithfulUp s.free p x) a

/-- VFCLS (R198): a raw container, no flag. -/
def execVfcls (f : L2) (s : State) : LaneOut :=
  laneTyped s fun j t =>
    match t with
    | .fp m => some (laneSet0 j.strip f.vd f.guard fun p =>
        BitVec.ofNat 32 (fpClass m (fpRead m j.strip.vt.fzi (at_ j.strip f.va p))))
    | .int _ _ => none

/-! ## Conversion (R199) -/

/-- VCVT to the current type: a copy, but for the flush of a subnormal; a signalling NaN sets NV (R34). -/
def flushSame (m : FpFmt) (vt : VType) (x : Nat) : FRes :=
  match fpRead m false x with
  | .fin neg sig e =>
    if leadExp sig e < 1 - m.bias then
      if vt.fzi then ⟨fpSign m neg, 0⟩
      else if vt.fzo then ⟨fpSign m neg, flagUF ||| flagNX⟩
      else ⟨x % 2 ^ m.width, 0⟩
    else ⟨x % 2 ^ m.width, 0⟩
  | .nan signalling => ⟨x % 2 ^ m.width, if signalling then flagNV else 0⟩
  | _ => ⟨x % 2 ^ m.width, 0⟩

def execVcvt (f : LcvtF) (s : State) : LaneOut :=
  laneTyped s fun j t =>
    match numOf f.ty with
    | none => none
    | some u =>
      let vt := j.strip.vt
      let r := fun p =>
        let x := at_ j.strip f.va p
        if u = t then (match t with | .fp m => flushSame m vt x | .int _ n => ⟨x % 2 ^ n, 0⟩)
        else convNum t u vt.fzi vt.fzo x
      let st := laneSet j.strip f.vd f.guard (fun p => canonical u (r p).bits) fun p => (r p).flags
      some (if isFpNum u then { st with fp := some ⟨f.vd, f.ty, executed j.strip f.guard⟩ } else st)

/-! ## Comparison and predicates (R200, R201) -/

def execVcmpEq (f : L3) (s : State) : LaneOut := laneCmp s f ⟨fun a b => decide (a = b), fpEq, false, true⟩
def execVcmpNe (f : L3) (s : State) : LaneOut := laneCmp s f ⟨fun a b => decide (a ≠ b), fun a b => !fpEq a b, true, true⟩
def execVcmpLt (f : L3) (s : State) : LaneOut := laneCmp s f ⟨fun a b => decide (a < b), fpLt, false, false⟩
def execVcmpGe (f : L3) (s : State) : LaneOut := laneCmp s f ⟨fun a b => decide (b ≤ a), fun a b => !fpLt a b, false, false⟩
def execVcmpLe (f : L3) (s : State) : LaneOut := laneCmp s f ⟨fun a b => decide (a ≤ b), fun a b => !fpLt b a, false, false⟩
def execVcmpGt (f : L3) (s : State) : LaneOut := laneCmp s f ⟨fun a b => decide (b < a), fun a b => fpLt b a, false, false⟩

def execPand (f : Lp3) (s : State) : LaneOut := lanePred s f.vd f.va f.vb f.guard fun a b => a && b
def execPor (f : Lp3) (s : State) : LaneOut := lanePred s f.vd f.va f.vb f.guard fun a b => a || b
def execPxor (f : Lp3) (s : State) : LaneOut := lanePred s f.vd f.va f.vb f.guard fun a b => a ^^ b
def execPnot (f : L2) (s : State) : LaneOut := lanePred s f.vd f.va f.va f.guard fun a _ => !a

/-! ## Selection and movement (R202 to R206) -/

/-- VSEL (R202): pK selects; every active position is written. -/
def execVsel (f : LselF) (s : State) : LaneOut :=
  laneMove s f.vd none fun j t p =>
    if (j.strip.p[f.p.val]'(f.p.isLt)).getD p false then at_ j.strip f.va p else srcAt j t f.vb p

def execVmov (f : LmovF) (s : State) : LaneOut := laneMove s f.vd f.guard fun j t p => srcAt j t f.vb p

/-- VIDX (R203): the element's own index, converted to the current type. -/
def execVidx (vd : BitVec 5) (guard : Guard) (s : State) : LaneOut :=
  laneTyped s fun j t =>
    let i := fun p => match j.strip.elems.getD p none with | some e => e | none => 0
    match t with
    | .int _ n => some (laneSet0 j.strip vd guard fun p => canonical t (i p % 2 ^ n))
    | .fp m => some (laneSetFp j.strip vd guard j.strip.vt.type (fun p => canonical t (fpOfInt m j.strip.vt.fzo (i p)).bits)
        fun p => (fpOfInt m j.strip.vt.fzo (i p)).flags)

/-- VPERM (R204). -/
def execVperm (f : LpermF) (s : State) : LaneOut :=
  laneMove s f.vd f.guard fun j t p =>
    let src := match f.rep with | none => LaneSrc.vec f.vb | some z => LaneSrc.rep f.vb z
    let i := srcAt j t src p % 2 ^ t.bits
    if i < j.strip.active.length then at_ j.strip f.va i else 0

/-- VCONF (R205): the earlier active positions of the chunk with the same pattern. -/
def execVconf (f : L2) (s : State) : LaneOut :=
  laneTyped s fun j t =>
    match t with
    | .int _ 32 =>
      let st := j.strip
      let hit := fun p i =>
        let q := p / 32 * 32 + i
        decide (q < p) && st.active.getD q false && at_ st f.va q == at_ st f.va p
      some (laneSet0 st f.vd f.guard fun p =>
        BitVec.ofNat 32 (((List.range 32).filter (hit p)).foldl (fun a i => a + 2 ^ i) 0))
    | _ => none

/-- VCOMP (R206): every position of the strip is written. -/
def execVcomp (f : LcompF) (s : State) : LaneOut :=
  laneTyped s fun j t =>
    let st := j.strip
    let sel := (strip0 st).filter fun p => st.active.getD p false && (st.p[f.p.val]'(f.p.isLt)).getD p false
    some (setVreg st f.vd ((strip0 st).map fun i =>
      match sel[i]? with | some p => canonical t (at_ st f.va p % 2 ^ t.bits) | none => 0))

/-! ## Configuration and return (R207, R208) -/

def execVcfg (f : LcfgF) (s : State) : LaneOut :=
  laneAny s fun j => { j.strip with vt := ⟨f.ty, f.fzi, f.fzo, f.xrm⟩ }

/-- VRET (R170, R208): the active elements' results are delivered and the strip's code ends. -/
def execVret (va : BitVec 5) (s : State) : LaneOut :=
  match s.lane with
  | none => .fault .noStrip
  | some j =>
    let st := j.strip
    let w := match numOf st.vt.type with | some t => t.bits | none => 32
    let out := (List.zip (List.zip st.elems st.active) (vreg st va)).filterMap fun x =>
      match x.1.1 with
      | some e => if x.1.2 then some (e, BitVec.ofNat 32 (x.2.toNat % 2 ^ w)) else none
      | none => none
    .next { s with lane := some { j with out := out ++ j.out, strip := { st with code := [], ret := some va } } }

def execVnop (s : State) : LaneOut := laneAny s fun j => j.strip

end Sys2Proof.Machine
end

