-- ==== Sys2Proof/Machine/ScalarMem.lean ====
section
/-!
DEFINITION. Scalar loads, stores and atomics (R93, R94, R247).
-/
namespace Sys2Proof.Machine

open Host (Outcome)

/-! ## Performing an access (R93, R94, R232, R247) -/

inductive AmoOp where
  | add | swap | cas | min | max | and | or | xor | minu | maxu
deriving DecidableEq, Repr

/-- The value `new` of R247 as an `n`-bit pattern; `d` is the old sd cut to `n` bits. -/
def amoNew (op : AmoOp) (n old b d : Nat) : Nat :=
  match op with
  | .add => (old + b) % 2 ^ n
  | .swap => b
  | .cas => if old = d then b else old
  | .min => if readInt true n b < readInt true n old then b else old
  | .max => if readInt true n old < readInt true n b then b else old
  | .and => old &&& b
  | .or => old ||| b
  | .xor => old ^^^ b
  | .minu => if b < old then b else old
  | .maxu => if old < b then b else old

def samoBits (f : SamoF) : Nat := if f.w32 then 32 else 64

/-- The operation and the fields of a SAMO. -/
def Instr.samo (i : Instr) : Option (AmoOp × SamoF) :=
  match i with
  | .samoAdd f => some (.add, f) | .samoSwap f => some (.swap, f) | .samoCas f => some (.cas, f)
  | .samoMin f => some (.min, f) | .samoMax f => some (.max, f) | .samoAnd f => some (.and, f)
  | .samoOr f => some (.or, f) | .samoXor f => some (.xor, f) | .samoMinu f => some (.minu, f)
  | .samoMaxu f => some (.maxu, f)
  | _ => none

/-- Writes a register in the mode in which the access left the sequencer. -/
def setIn (s : State) (handler : Bool) (r : BitVec 6) (v : Word) : State :=
  let t := setS { s with me := { s.me with inHandler := handler } } r v
  { t with me := { t.me with inHandler := s.me.inHandler } }

/-- The read-modify-write of a SAMO at the home slice, and what follows in the block (R232, R235, R247). -/
def performAmo (s : State) (p : Posted) (op : AmoOp) (f : SamoF) (b d : Nat) : State :=
  let n := samoBits f
  let old := homeNat s p.pa (n / 8)
  let s1 := homeWrite s (.sync s.me.slot) p.pa (leBytes (n / 8) (amoNew op n old b d))
  let s2 := dropCache s1 (slotCore s.me.slot) fun l => l == lineOf p.pa
  let s3 := if f.aq then acquireAt s2 s.me.slot f.scope else s2
  setIn s3 p.handler f.sd (BitVec.ofInt 64 (readInt true n old))

/-- A scalar access of the block whose turn it is, performed. -/
def performScalar (s : State) (p : Posted) : State :=
  match p.op with
  | .store data => blockWrite (homeWrite s (.block s.me.slot) p.pa data) s.me p.pa data
  | .load sd signed =>
    let (bs, s1) := scalarRead s (slotCore s.me.slot) p.pa p.n p.cp
    setIn s1 p.handler sd (BitVec.ofInt 64 (readInt signed (8 * p.n) (leNat bs)))
  | .amo i b d => match Instr.samo i with | some (op, f) => performAmo s p op f b d | none => s

/-- Whether an access takes a value from beyond the package: it is performed when the answer has come (R399, R406). -/
def Posted.asks (p : Posted) : Bool := !p.isStore && (regionOf p.pa == .host || regionOf p.pa == .peer)

/-- Whether an access is an acquire point (R235). -/
def Posted.acquires (p : Posted) : Bool :=
  match p.op with | .amo i _ _ => (match Instr.samo i with | some (_, f) => f.aq | none => false) | _ => false

/-- An access performs, on what a peer has answered where it lies there, or consumes poison (R388). -/
def takeScalar (s : State) (p : Posted) : State :=
  if !p.isStore && poisonedAt s p.pa p.n then consumePoison s s.me.slot p.pa none
  else performScalar { s with mem := memStore s.mem p.pa p.answer } p

/-- The code of an operation in an ATOMIC message (R68, R404). -/
def AmoOp.code (op : AmoOp) : Nat :=
  match op with
  | .add => 0 | .swap => 1 | .cas => 2 | .min => 3 | .max => 4 | .and => 5 | .or => 6 | .xor => 7 | .minu => 8 | .maxu => 9

/-- What an access asks for beyond the package: a read, or an atomic step with its operand, a CAS's behind the value that it compares
with (log entry 20). -/
def Posted.asking (p : Posted) : ExtOp :=
  match p.op with
  | .amo i b d =>
    match Instr.samo i with
    | some (op, _) => .atomic op.code (p.n == 4) (if op = .cas then leBytes p.n d ++ leBytes p.n b else leBytes p.n b)
    | none => .read p.n
  | _ => .read p.n

/-- Sends the request of an access beyond the package. -/
def askScalar (s : State) (p : Posted) : Posted × State :=
  ({ p with req := some s.nextReq }, extRequest s (.group s.me.gid s.me.slot none) p.pa p.asking)

/-- Whether the access at the head of a block's scalar stream can be performed or sent now (R250, R405, R406). -/
def postedFree (s : State) (x : SlotNo) (p : Posted) : Bool :=
  match p.req with
  | some t => !(s.requests.any fun r => r.tag == t)
  | none => !lineHeld s (some x) p.pa p.n

/-- The oldest access on its way of the block whose turn it is is performed, or its request is sent (R94, R238). -/
def performPosted (s : State) : State :=
  match s.me.posted with
  | [] => s
  | p :: r =>
    if !postedFree s s.me.slot p then s
    else if p.asks && p.req.isNone then
      let q := askScalar s p
      { q.2 with me := { q.2.me with posted := q.1 :: r } }
    else takeScalar { s with me := { s.me with posted := r } } p

/-- An access leaves the sequencer: it is performed at once, or it is on its way. In a turn that defers work it may stay on its way,
and the tile memory stream may overtake it (R94, R238). -/
def leaveScalar (s : State) (p : Posted) : State :=
  if p.asks then
    let q := askScalar s p
    advance { q.2 with me := { q.2.me with posted := q.2.me.posted ++ [q.1] } }
  else if s.defer && !p.acquires then advance { s with me := { s.me with posted := s.me.posted ++ [p] } }
  else advance (takeScalar s p)

/-- The registers that loads and atomics on their way will write. -/
def dueRegs (b : Block) : List (BitVec 6) :=
  b.posted.filterMap fun p => match p.op with
    | .load sd _ => some sd
    | .amo i _ _ => (Instr.samo i).map fun x => x.2.sd
    | .store _ => none

/-- The scalar registers that an instruction uses, for those that may leave the sequencer behind a load on its way (R238): the tile
instructions and the scalar accesses; none for the others, which wait for it. -/
def Instr.usesOnly (i : Instr) : Option (List (BitVec 6)) :=
  match i with
  | .tld f | .tst f | .tldff f | .topt f => some [f.s]
  | .tgth f | .tgthFull f | .tsct f => some [f.s]
  | .tamoAdd f | .tamoMin f | .tamoMax f | .tamoAnd f | .tamoOr f | .tamoXor f | .tamoSwap f => some [f.s]
  | .tglk f | .tscc f => some [f.s]
  | .tcb f => some [f.sa]
  | .bcopy f => some [f.sa, f.sb]
  | .tldw _ _ | .mma _ | .mmv _ | .mmas _ | .mmss _ | .nop => some []
  | .sld f | .sldZ f => some [f.sa]
  | .sst f => some [f.sa, f.sd]
  | i => (Instr.samo i).map fun x => [x.2.sa, x.2.sb, x.2.sd]

/-- Whether an instruction must wait for a load or an atomic of the block on its way. -/
def awaitsLoad (b : Block) (i : Instr) : Bool :=
  dueRegs b != [] && (b.posted.any Posted.acquires || match Instr.usesOnly i with | some l => l.any fun r => (dueRegs b).contains r | none => true)

/-! ## Scalar accesses of the sequencer (R93, R94, R135) -/

/-- Whether an access must wait for those of its stream on their way: all but one that only follows them. -/
def mustWait (s : State) (p : Posted) : Bool :=
  !s.me.posted.isEmpty && !(s.defer && !p.asks && !p.acquires)

/-- A scalar access of `n` bytes at `va` (R93, R94, R135, R235): a misaligned address traps STRIDE_ALIGN; an access behind those of
its stream on their way, behind an acquire point still to be performed, or to a line held for another block, waits. A faulting access
has not left the sequencer (R346); `leave` is what its leaving does (R106), and `host` says whether host memory admits it (R399). -/
def scalarAccess (s : State) (insn : Word) (va : Word) (n : Nat) (kind : AccKind) (op : PostedOp) (leave : State → State)
    (host : Bool := true) : Outcome State Fault Refusal :=
  if va.toNat % n ≠ 0 then .next (seqTrap s insn { cause := .strideAlign, tval := va })
  else if acquirePending s.me then .next s
  else
    match seqAddr s va kind with
    | .stop s1 => .next s1
    | .ok pa cp s1 =>
      let p : Posted := { va := va.toNat, pa := pa, n := n, cp := cp, op := op, handler := s.me.inHandler, mark := s.me.nextId }
      if mustWait s1 p || lineHeld s1 (some s1.me.slot) pa n then .next s
      else if regionOf pa = .host ∧ !host then .next (seqTrap s1 insn { cause := .type, tval := va })
      else .next (leaveScalar (leave s1) p)

/-- The address of SLD, SLD.Z and SST (R93). -/
def memAddr (s : State) (f : SI) : Word := getS s f.sa + f.imm.signExtend 64

/-- The bytes that SST stores: the low bits of sd (R93). -/
def storeBytes (s : State) (f : SI) : List Byte := leBytes (Width.bits f.w / 8) (getS s f.sd).toNat

/-- SLD (R93). -/
def execSld (f : SI) (s : State) : Outcome State Fault Refusal :=
  scalarAccess s (wordOf (.sld f)) (memAddr s f) (Width.bits f.w / 8) .read (.load f.sd true) id
/-- SLD.Z (R93). -/
def execSldZ (f : SI) (s : State) : Outcome State Fault Refusal :=
  scalarAccess s (wordOf (.sldZ f)) (memAddr s f) (Width.bits f.w / 8) .read (.load f.sd false) id
/-- SST (R93). -/
def execSst (f : SI) (s : State) : Outcome State Fault Refusal :=
  scalarAccess s (wordOf (.sst f)) (memAddr s f) (Width.bits f.w / 8) .write (.store (storeBytes s f)) id

/-! ## SAMO (R247) -/

/-- The operations that PCI Express carries to host memory (R399). -/
def AmoOp.onHost (op : AmoOp) : Bool := match op with | .add => true | .swap => true | .cas => true | _ => false

/-- SAMO: a release waits for the earlier accesses, and the block is exposed as the instruction leaves the
sequencer (R106, R235, R247); an operation that host memory does not admit traps TYPE (R399). -/
def runSamo (op : AmoOp) (i : Instr) (f : SamoF) (s : State) : Outcome State Fault Refusal :=
  let n := samoBits f
  if (getS s f.sa).toNat % (n / 8) ≠ 0 then
    .next (seqTrap s (wordOf i) { cause := .strideAlign, tval := getS s f.sa })
  else if f.rl && !releaseDone s s.me f.scope then .next s
  else scalarAccess s (wordOf i) (getS s f.sa) (n / 8) .atomic
    (.amo i ((getS s f.sb).toNat % 2 ^ n) ((getS s f.sd).toNat % 2 ^ n)) expose op.onHost

/-- SAMO.ADD (R247). -/
def execSamoAdd (f : SamoF) (s : State) : Outcome State Fault Refusal :=
  runSamo .add (.samoAdd f) f s
/-- SAMO.SWAP (R247). -/
def execSamoSwap (f : SamoF) (s : State) : Outcome State Fault Refusal :=
  runSamo .swap (.samoSwap f) f s
/-- SAMO.CAS (R247). -/
def execSamoCas (f : SamoF) (s : State) : Outcome State Fault Refusal :=
  runSamo .cas (.samoCas f) f s
/-- SAMO.MIN (R247). -/
def execSamoMin (f : SamoF) (s : State) : Outcome State Fault Refusal :=
  runSamo .min (.samoMin f) f s
/-- SAMO.MAX (R247). -/
def execSamoMax (f : SamoF) (s : State) : Outcome State Fault Refusal :=
  runSamo .max (.samoMax f) f s
/-- SAMO.AND (R247). -/
def execSamoAnd (f : SamoF) (s : State) : Outcome State Fault Refusal :=
  runSamo .and (.samoAnd f) f s
/-- SAMO.OR (R247). -/
def execSamoOr (f : SamoF) (s : State) : Outcome State Fault Refusal :=
  runSamo .or (.samoOr f) f s
/-- SAMO.XOR (R247). -/
def execSamoXor (f : SamoF) (s : State) : Outcome State Fault Refusal :=
  runSamo .xor (.samoXor f) f s
/-- SAMO.MINU (R247). -/
def execSamoMinu (f : SamoF) (s : State) : Outcome State Fault Refusal :=
  runSamo .minu (.samoMinu f) f s
/-- SAMO.MAXU (R247). -/
def execSamoMaxu (f : SamoF) (s : State) : Outcome State Fault Refusal :=
  runSamo .maxu (.samoMaxu f) f s

end Sys2Proof.Machine
end

