-- ==== Sys2Proof/Machine/PageEvents.lean ====
section
/-!
DEFINITION. Invalidations (R341), answers to fault records and their ring (R344, R345, R353), and page moves (R352 to
R354).
-/
namespace Sys2Proof.Machine

open Host (Outcome)

/-! ## Invalidations (R341) -/

def pinvBad (w : BitVec 128) : Bool :=
  w.extractLsb' 96 25 != 0 || w.extractLsb' 48 16 != 0 || w.extractLsb' 0 12 != 0 ||
    (!w.getLsbD 121 && w.extractLsb' 64 32 == 0)

/-- PINV (R341): one at a time. Old translations may serve until the invalidation is complete. -/
def execPinv (w : BitVec 128) (s : State) : Outcome State Fault Refusal := whenReady s <|
  if s.ctl.pinvs = .busy ∨ pinvBad w then .next (refusalEvent s (w.extractLsb' 122 6) 0x45 0x140)
  else .next { s with ctl := { s.ctl with pinvs := .busy, pinv := some w } }

/-- Removes what an invalidation names. -/
def runPinv (s : State) (w : BitVec 128) : State :=
  invalidate s (w.extractLsb' 122 6) (w.getLsbD 121) (w.extractLsb' 12 36).toNat (w.extractLsb' 64 32).toNat

/-- The end of a page move: the old frame is released (R353). -/
def endMove (s : State) (m : PageMove) : State :=
  startWaiting { invalidate s m.ctx false (m.va.toNat / 4096) 1 with
    move := none, ctl := { s.ctl with pmres := { st := .done } } }

/-- Whether a request queued at a home slice, of an ACQ, a launch or a ring, has used a translation of such a page: its access is still to
be performed (R341). -/
def queuedOn (s : State) (ctx : BitVec 6) (all : Bool) (vp n : Nat) : Bool :=
  let hit := fun (va : Word) => all || (decide (vp ≤ va.toNat / 4096) && decide (va.toNat / 4096 < vp + n))
  (s.objWaits.any fun w => holderCtx s w.who == ctx && hit w.va) ||
  (allBlocks s).any fun b => b.ctx == ctx &&
    match b.wait with | .ring _ _ f _ _ => hit (getS (switchTo s b.slot) f.sa) | _ => false

/-- Whether an access that used a translation which a PINV names is still to be performed: that of an instruction that holds a pin on
one, of the scalar stream on its way, or of a request in a queue. -/
def pinvWaits (s : State) (w : BitVec 128) : Bool :=
  let on := fun (p : State → BitVec 6 → Bool → Nat → Nat → Bool) =>
    p s (w.extractLsb' 122 6) (w.getLsbD 121) (w.extractLsb' 12 36).toNat (w.extractLsb' 64 32).toNat
  on pinHeld || on storeHeld || on queuedOn

/-- INVALIDATION_COMPLETE (R341, R353): of the PINV in progress, once every instruction that held a pin on a translation it names has
completed or faulted; else of the page move. -/
def execInvalidationComplete (s : State) : Outcome State Fault Refusal :=
  match s.ctl.pinv with
  | some w =>
    if pinvWaits s w then .next s
    else .next { runPinv s w with ctl := { s.ctl with pinvs := .done, pinv := none } }
  | none =>
    match s.move with
    | some m => if m.st = .switched then .next (endMove s m) else .next s
    | none => .next s

/-! ## Fault records (R344, R345) -/

def findFault (s : State) (tag : BitVec 16) : Option FaultRecord := s.faults.find? fun f => f.ftag == tag && f.written

/-- Takes an answered record out; waiting records may be written. -/
def dropFault (s : State) (f : FaultRecord) : State := flushFaults { s with faults := s.faults.filter fun g => g.ftag != f.ftag }

/-- RETRY (R345): the access walks again. -/
def retryFault (s : State) (f : FaultRecord) : State :=
  let s1 := dropFault s f
  match f.agent with
  | .sequencer x =>
    modBlock s1 x fun b => if b.wait = .fault f.ftag then { b with wait := .none } else b
  | .flight x id =>
    let s2 := switchTo (modBlock s1 x fun b => modFlight b id fun g =>
      if g.st = .faulted f.ftag then { g with st := .waiting } else g) x
    settleStop (if s2.defer then s2 else drain s2) x
  | _ => s1

/-- The cause of a record (R344) as a trap cause. -/
def faultCause (f : FaultRecord) : Cause :=
  match (f.body.extractLsb' 104 4).toNat with | 1 => .pageFault | 3 => .migrateRetry | _ => .protection

/-- KILL (R345). -/
def killFault (s : State) (f : FaultRecord) : State :=
  let s1 := dropFault s f
  let kill := fun (x : SlotNo) =>
    match getBlock s1 x with | some b => killGroup s1 b.gid (faultCause f).code .killed | none => s1
  match f.agent with
  | .sequencer x => kill x
  | .flight x _ => kill x
  | .object q seq => failLaunch s1 q seq .depfail
  | .count q seq => failLaunch s1 q seq .badrec
  | .completion q => closeForRecord s1 q 0x15
  | .loader c h => loaderFails s1 c h

/-- FRESP RETRY (R345): an unknown tag or a reserved bit makes it ignored. -/
def execFrespRetry (tag : BitVec 16) (rsv : BitVec 46) (s : State) : Outcome State Fault Refusal := whenReady s <|
  match findFault s tag with
  | some f => if rsv = 0 then .next (retryFault s f) else .next s
  | none => .next s

/-- FRESP KILL (R345). -/
def execFrespKill (tag : BitVec 16) (rsv : BitVec 46) (s : State) : Outcome State Fault Refusal := whenReady s <|
  match findFault s tag with
  | some f => if rsv = 0 then .next (killFault s f) else .next s
  | none => .next s

/-- FRCFG_WRITE (R344): an invalid write, or one that changes a ring in use, is ignored and logged. -/
def execFrcfgWrite (v : Word) (s : State) : Outcome State Fault Refusal := whenReady s <|
  let bad := decide ((v.extractLsb' 52 4).toNat < 4) || v.extractLsb' 56 8 != 0 || v.extractLsb' 0 12 != 0
  if bad || (v != s.ctl.frcfg && s.ctl.frtail != s.ctl.frhead) then
    .next (errLog s { class_ := 0x09, detail := 0x47, info := v.toNat, addr := 0x100 })
  else .next (flushFaults { s with ctl := { s.ctl with frcfg := v } })

/-- FRHEAD_WRITE (R344). -/
def execFrheadWrite (v : Word) (s : State) : Outcome State Fault Refusal := whenReady s <|
  .next (flushFaults { s with ctl := { s.ctl with frhead := v } })

/-! ## Frozen pages (R353) -/

def kindOf (n : Nat) : AccKind := if n = 0 then .read else if n = 1 then .write else .atomic

/-- Whether a held access is that of a TPAT, which never raises a record: it ends with no effect (R224, R345). -/
def heldTpat (s : State) (h : HeldAccess) : Option (SlotNo × Flight) :=
  match h.agent with
  | .flight x id =>
    match (getBlock s x).bind fun b => findFlight b id with
    | some f => (match f.ins with | .tpat _ => some (x, f) | _ => none)
    | none => none
  | _ => none

/-- The record of a requester that has waited too long, or whose walk now fails. A ring request that it is leaves its queue
(R295, R346). -/
def heldFails (s : State) (h : HeldAccess) (reason level entry : Nat) : State :=
  match h.agent with
  | .loader c k => loaderFails s c k
  | _ =>
  match heldTpat s h with
  | some (x, f) => let s1 := dropSilent (flightDone (switchTo s x) f); settleStop s1 x
  | none =>
  let (tag, s1) := raiseFault s h.agent h.ctx h.va.toNat (kindOf h.kind) reason level entry
  match h.agent with
  | .sequencer x => modBlock (leaveQueues s1 x) x fun b => { b with wait := .fault tag }
  | .flight x id => modBlock s1 x fun b => modFlight b id fun g => { g with st := .faulted tag }
  | _ => s1

/-- The entry that a walk ends at. -/
def entryOf (s : State) (c : BitVec 6) (va : Nat) : Nat × Nat :=
  match walk s c va with | .leaf l _ => (l.level, l.raw) | .fault _ l e => (l, e)

/-- A requester held on a frozen page walks again at 100 µs. -/
def timeoutHeld (s : State) (h : HeldAccess) : State :=
  let s1 := { s with held := s.held.filter fun x => x != h }
  match (translate s none h.ctx h.va.toNat (kindOf h.kind) .link).1 with
  | .ok _ => s1
  | .fault r l e => heldFails s1 h r l e
  | .hold => let e := entryOf s h.ctx h.va.toNat; heldFails s1 h 0x08 e.1 e.2

/-- FROZEN_HOLD_TIMEOUT (R353): every access of a slot, or of dispatch and the device's own for slot 0x1FF, that is held. -/
def execFrozenHoldTimeout (x : SlotNo) (s : State) : Outcome State Fault Refusal :=
  let s1 := (s.held.filter fun h => h.agent.slotField == x.toNat).foldl timeoutHeld s
  .next (if x = 0x1FF then { replayObjects s1 with heldObjs := [] } else s1)

/-! ## Page moves (R352 to R354) -/

/-- Writes MIG of a leaf entry in its table. -/
def setMig (s : State) (entry mig : Nat) : State :=
  let old := (memRead s.mem (entry + 1)).toNat
  homeWrite s .device (entry + 1) [BitVec.ofNat 8 (old - bitsOf old 1 2 * 2 + mig * 2)]

/-- The refusals of R352 that PMRES shows, and the leaf to move. -/
def moveLeaf (s : State) (w : BitVec 256) : Except Nat Leaf :=
  let c : BitVec 6 := w.extractLsb' 250 6
  let va := (w.extractLsb' 0 48).toNat
  let dst := (w.extractLsb' 64 40).toNat
  if w.extractLsb' 104 146 ≠ 0 ∨ w.extractLsb' 48 16 ≠ 0 ∨ (getCtx s c).st ≠ .active then .error 0x46
  else
    match walk s c va with
    | .fault _ _ _ => .error 0x40
    | .leaf l _ =>
      if l.level ≠ 0 ∨ va % 4096 ≠ 0 then .error 0x40
      else if regionOf (dst * 4096) ≠ .hbm ∨ dst = l.frame then .error 0x41
      else if l.mig ≠ 0 then .error 0x42
      else .ok l

/-- Takes a page move. -/
def startMove (s : State) (w : BitVec 256) : State :=
  match moveLeaf s w with
  | .error r => { s with ctl := { s.ctl with pmres := { st := .failed, reason := BitVec.ofNat 8 r } } }
  | .ok l =>
    let m : PageMove := { ctx := w.extractLsb' 250 6, va := (w.extractLsb' 0 48).setWidth 64, entry := l.at_
                          src := BitVec.ofNat 40 l.frame, dst := w.extractLsb' 64 40, st := .copying, pass := 1
                          todo := List.range 64, copied := [], marked := [], raw := l.raw }
    setMig { s with move := some m, ctl := { s.ctl with pmres := { st := .busy } } } l.at_ 1

/-- PMOVE by the host (R352). -/
def execPmove (w : BitVec 256) (s : State) : Outcome State Fault Refusal := whenReady s <|
  let c : BitVec 6 := w.extractLsb' 250 6
  if s.ctl.pmres.st = .busy then .next (refusalEvent s c 0x43 0x160)
  else if !s.ctl.fnmode.getLsbD 1 then .next (refusalEvent s c 0x44 0x160)
  else .next (startMove s w)

/-- Copies one line of a page, poison and all. -/
def moveLine (s : State) (m : PageMove) (i : Nat) : State :=
  let src := m.src.toNat * 4096 + 64 * i
  let dst := m.dst.toNat * 4096 + 64 * i
  let bad := s.poison.contains (lineOf src)
  let s1 := homeWrite s .device dst (homeRead s src 64)
  if bad then { s1 with poison := lineOf dst :: s1.poison } else s1

/-- Copies the next line of the pass. -/
def copyNext (s : State) : State :=
  match s.move with
  | some m =>
    match m.todo with
    | i :: r => { moveLine s m i with move := some { m with todo := r, copied := i :: m.copied } }
    | [] => s
  | none => s

/-- Copies lines without marking. -/
def copyLines (s : State) (m : PageMove) (l : List Nat) : State := l.foldl (fun s i => moveLine s m i) s

/-- The freeze: MIG becomes 10 and an invalidation of the page is issued. An instruction that holds a pin on the page completes on its
old translation, and what it writes is marked (R341, R353; log entry 44). -/
def freezePage (s : State) (m : PageMove) : State :=
  let s1 := invalidate (setMig s m.entry 2) m.ctx false (m.va.toNat / 4096) 1
  { s1 with move := some { m with st := .frozen, todo := [], copied := List.range 64 } }

/-- The scalar accesses on their way to the page are performed before it freezes (R341). -/
def flushStores (s : State) : State :=
  match s.move with
  | none => s
  | some m => if m.st ≠ .copying then s else ((allBlocks s).filter fun b => b.postedOn m.ctx false (m.va.toNat / 4096) 1).foldl
      (fun s b => settleStop ((List.range b.posted.length).foldl (fun s _ => performPosted s) (switchTo s b.slot)) b.slot) s

/-- PAGE_MOVE_PASS_END (R353): the pass copies its last lines; many marked lines make another pass. A store that cannot go yet holds
the freeze back. -/
def execPageMovePassEnd (s0 : State) : Outcome State Fault Refusal :=
  let s := flushStores s0
  match s.move with
  | none => .next s
  | some m =>
    if m.st ≠ .copying ∨ storeHeld s m.ctx false (m.va.toNat / 4096) 1 then .next s
    else
      let s1 := copyLines s m m.todo
      if 8 ≤ m.marked.length ∧ m.pass < 4 then
        let todo := (List.range 64).filter fun i => m.marked.contains i
        .next { s1 with move := some { m with pass := m.pass + 1, todo := todo, copied := List.range 64, marked := [] } }
      else .next (freezePage s1 m)

/-- The new place of a physical address on the moved page. -/
def movedPa (m : PageMove) (pa : Nat) : Nat :=
  if pa / 4096 = m.src.toNat then m.dst.toNat * 4096 + pa % 4096 else pa

def movedLine (m : PageMove) (line : Nat) : Nat := lineOf (movedPa m (line * 64))

def movedWait (m : PageMove) (w : Wait) : Wait :=
  match w with
  | .object pa x => .object (movedPa m pa) x
  | .ring pa p f e b => .ring (movedPa m pa) p f e b
  | w => w

/-- What the home slices keep of the page goes with it (R354): copies are re-tagged, watches and queued requests
move, link tags break. -/
def retag (s : State) (m : PageMove) : State :=
  let wait := fun (b : Block) => { b with wait := movedWait m b.wait }
  { s with
    cache := s.cache.map fun c => { c with line := movedLine m c.line }
    guests := s.guests.map fun g => { g with line := movedLine m g.line }
    trails := s.trails.map fun t => { t with line := movedLine m t.line }
    links := s.links.filter fun l => l.line * 64 / 4096 != m.src.toNat
    holds := s.holds.map fun h => { h with line := movedLine m h.line }
    objWaits := s.objWaits.map fun w => { w with pa := movedPa m w.pa }
    ringWaits := s.ringWaits.map fun w => (movedPa m w.1, w.2)
    held := s.held.filter fun h => !(h.ctx == m.ctx && h.va.toNat / 4096 == m.va.toNat / 4096)
    me := wait s.me, others := s.others.map wait }

/-- PAGE_MOVE_SWITCH (R353, R354): once the invalidation of the freeze is complete, the marked lines are copied and the entry names the
new frame. What was answered RETRY walks again: the device's own accesses to object words, and the grants that wait for theirs. -/
def execPageMoveSwitch (s : State) : Outcome State Fault Refusal :=
  match s.move with
  | none => .next s
  | some m =>
    let vp := m.va.toNat / 4096
    if m.st ≠ .frozen ∨ pinHeld s m.ctx false vp 1 ∨ storeHeld s m.ctx false vp 1 then .next s
    else
      let s1 := retag (copyLines s m m.marked) m
      let raw := bitsOf m.raw 0 9 + bitsOf m.raw 11 5 * 2 ^ 11 + m.dst.toNat * 2 ^ 16
      let s2 := homeWrite s1 .device m.entry (leBytes 7 raw)
      let s3 := replayObjects { s2 with move := some { m with st := .switched, marked := [] } }
      .next ((s3.objWaits.map ObjWait.pa).foldl grants s3)

end Sys2Proof.Machine
end

