-- ==== Sys2Proof/Machine/TaskQueue.lean ====
section
/-!
DEFINITION. Task queues (R294, R295): QPUT, QGET, their wait queue and QTIMEOUT.
-/
namespace Sys2Proof.Machine

open Host (Outcome)

/-! ## The ring header (R294) -/

structure Ring where
  head : Nat
  tail : Nat
  base : Nat
  log : Nat
  rsv : Nat
deriving DecidableEq, Repr

def ringAt (s : State) (pa : Nat) : Ring :=
  let x := homeNat s pa 64
  { head := bitsOf x 0 64, tail := bitsOf x 64 64, base := bitsOf x 128 48, log := bitsOf x 176 5, rsv := bitsOf x 181 331 }

/-- TAIL − HEAD, modulo 2^64. -/
def Ring.fill (r : Ring) : Nat := (r.tail + 2 ^ 64 - r.head) % 2 ^ 64

def Ring.bad (r : Ring) : Bool := r.rsv != 0 || decide (20 < r.log) || decide (r.base % 64 ≠ 0) || decide (2 ^ r.log < r.fill)

/-- Whether a QPUT or a QGET can act now. -/
def Ring.can (r : Ring) (put : Bool) : Bool := if put then decide (r.fill < 2 ^ r.log) else decide (r.fill ≠ 0)

/-- The virtual address of the slot of position n. -/
def Ring.slotVa (r : Ring) (n : Nat) : Nat := r.base + 64 * (n % 2 ^ r.log)

/-! ## One transfer (R295) -/

/-- A line takes the poison that travels with an entry (R388). -/
def poisonLine (s : State) (pa : Nat) (bad : Bool) : State :=
  if bad && !s.poison.contains (lineOf pa) then { s with poison := lineOf pa :: s.poison } else s

/-- The copies, of the core and of its die, of lines that the home slice has read or written for the scalar stream are dropped: the
stream reads no older bytes afterwards (R94, R231). -/
def dropLines (s : State) (pas : List Nat) : State :=
  let hit := fun l => pas.any fun p => lineOf p == l
  dropGuests (dropCache s (slotCore s.me.slot) hit) (slotDie s.me.slot) hit

/-- A page of a parked request's transfer faults: the request leaves its queue, and runs again from its start once the record is answered
(R346). On a frozen page it keeps its place (R353). -/
def ringStop (s : State) : State :=
  match s.me.wait with | .ring _ _ _ _ _ => s | _ => leaveQueues s s.me.slot

/-- The operands of a ring instruction that the home slice needs. -/
structure RingOp where
  put : Bool
  f : QringF
  entry : List Byte
  bad : Bool

/-- QPUT's transfer by the block whose turn it is; one to a line held for another block, or whose peer page has a new route, waits
(R250, R405). -/
def putEntry (s : State) (pa : Nat) (o : RingOp) (r : Ring) : State :=
  match seqAddr s (BitVec.ofNat 64 (r.slotVa r.tail)) .write with
  | .stop s1 => ringStop s1
  | .ok sp _ s1 =>
    if lineHeld s1 (some s1.me.slot) sp 64 then s else
    let s2 := blockWrite (poisonLine (homeWrite s1 (.sync s1.me.slot) sp o.entry) sp o.bad) s1.me sp o.entry
    let s3 := homeWrite s2 (.sync s2.me.slot) (pa + 8) (leBytes 8 (r.tail + 1))
    writeBack (dropLines (leaveQueues s3 s3.me.slot) [pa, sp]) o.f.sd (BitVec.ofNat 64 r.tail)

/-- QGET's transfer: the slot is read, the entry written to sb, HEAD moves on. -/
def getEntry (s : State) (pa : Nat) (o : RingOp) (r : Ring) : State :=
  match seqAddr s (BitVec.ofNat 64 (r.slotVa r.head)) .read with
  | .stop s1 => ringStop s1
  | .ok sp _ s1 =>
    match seqAddr s1 (getS s1 o.f.sb) .write with
    | .stop s2 => ringStop s2
    | .ok dp _ s2 =>
      if lineHeld s2 (some s2.me.slot) sp 64 || lineHeld s2 (some s2.me.slot) dp 64 then s
      else if poisonedAt s2 sp 64 || poisonedAt s2 pa 64 then consumePoison s2 s2.me.slot (if poisonedAt s2 pa 64 then pa else sp) none
      else
        match readFar s2 none (farPieces sp 64) with
        | (false, s3) => s3
        | (true, s3) =>
        let bs := homeRead s3 sp 64
        let s4 := blockWrite (homeWrite s3 (.block s3.me.slot) dp bs) s3.me dp bs
        let s5 := homeWrite s4 (.sync s4.me.slot) pa (leBytes 8 (r.head + 1))
        writeBack (dropLines (leaveQueues s5 s5.me.slot) [pa, sp]) o.f.sd (BitVec.ofNat 64 r.head)

/-- The transfer of a request. The header is translated for its write just before it, so that D of its page is set (R349); a request
whose header lies elsewhere by now runs again from its start. -/
def transfer (s : State) (pa : Nat) (o : RingOp) (r : Ring) : State :=
  match seqAddr s (getS s o.f.sa) .atomic with
  | .stop s1 => ringStop s1
  | .ok p _ s1 =>
    if p ≠ pa then { leaveQueues s1 s1.me.slot with me := { s1.me with wait := .none } }
    else if o.put then putEntry s1 pa o r else getEntry s1 pa o r

/-! ## The wait queue -/

/-- The oldest parked request of a ring that can be served, as its block holds it. -/
def servable (s : State) (pa : Nat) : Option (SlotNo × RingOp) :=
  let r := ringAt s pa
  s.ringWaits.findSome? fun w =>
    if w.1 = pa ∧ (r.bad || r.can w.2.2) then
      match (getBlock s w.2.1).map Block.wait with
      | some (.ring p put f e b) => if p = pa ∧ put = w.2.2 then some (w.2.1, ⟨put, f, e, b⟩) else none
      | _ => none
    else none

/-- Serves the parked requests of a ring in arrival order; one that cannot go on now holds the later ones back. -/
def serveRing (s : State) (pa fuel : Nat) : State :=
  match fuel with
  | 0 => s
  | k + 1 =>
    match servable s pa with
    | none => s
    | some (x, o) =>
      let r := ringAt s pa
      let s1 := switchTo s x
      let s2 := if r.bad then writeBack (dropLines (leaveQueues s1 x) [pa]) o.f.sd (-2) else transfer s1 pa o r
      if s2.ringWaits.contains (pa, x, o.put) then s2 else serveRing s2 pa k

def serveAll (s : State) (pa : Nat) : State := switchTo (serveRing s pa s.ringWaits.length) s.me.slot

/-- One request at the header's home slice, after the parked ones: it acts, answers, or parks. -/
def ringRequest (s0 : State) (pa : Nat) (o : RingOp) : State :=
  let s := serveAll s0 pa
  let r := ringAt s pa
  if r.bad then writeBack (dropLines s [pa]) o.f.sd (-2)
  else if r.can o.put then serveAll (transfer s pa o r) pa
  else if o.f.lim = 0 then writeBack (dropLines s [pa]) o.f.sd (-1)
  else
    parkOn { s with ringWaits := s.ringWaits ++ [(pa, s.me.slot, o.put)] } (.ring pa o.put o.f o.entry o.bad)

/-- The header is translated and the request leaves the sequencer: the block is exposed (R106). A ring beyond the package, whose header
no atomic there serves, traps TYPE (R399; log entry 90). -/
def ringAccess (s : State) (o : RingOp) : State :=
  match seqAddr s (getS s o.f.sa) .atomic with
  | .stop s1 => s1
  | .ok pa _ s1 =>
    if lineHeld s1 (some s1.me.slot) pa 64 then s
    else if regionOf pa ≠ .hbm then
      seqTrap s1 (wordOf (if o.put then .qput o.f else .qget o.f)) { cause := .type, tval := getS s o.f.sa }
    else if !o.put && poisonedAt s1 pa 64 then consumePoison (expose s1) s1.me.slot pa none
    else ringRequest (expose s1) pa o

/-- The address that traps STRIDE_ALIGN. -/
def ringAlign (s : State) (f : QringF) : Option Word :=
  if (getS s f.sa).toNat % 64 ≠ 0 then some (getS s f.sa)
  else if (getS s f.sb).toNat % 64 ≠ 0 then some (getS s f.sb) else none

/-- QPUT (R295): the entry is read first. -/
def execQput (f : QringF) (s : State) : Outcome State Fault Refusal :=
  match ringAlign s f with
  | some a => .next (seqTrap s (wordOf (.qput f)) { cause := .strideAlign, tval := a })
  | none =>
    if streamBusy s.me then .next s
    else
      match seqAddr s (getS s f.sb) .read with
      | .stop s1 => .next s1
      | .ok pa cp s1 =>
        if lineHeld s1 (some s1.me.slot) pa 64 then .next s else
        match readFar s1 none (farPieces pa 64) with
        | (false, s2) => .next s2
        | (true, s1) =>
        let (bs, s2) := scalarRead s1 (slotCore s1.me.slot) pa 64 cp
        .next (ringAccess s2 ⟨true, f, bs, poisonedAt s2 pa 64⟩)

/-- QGET (R295). -/
def execQget (f : QringF) (s : State) : Outcome State Fault Refusal :=
  match ringAlign s f with
  | some a => .next (seqTrap s (wordOf (.qget f)) { cause := .strideAlign, tval := a })
  | none => if streamBusy s.me then .next s else .next (ringAccess s ⟨false, f, [], false⟩)

/-- QTIMEOUT (R295): a request still parked at its limit traps; TCOORD holds TAIL and HEAD. -/
def execQtimeout (x : SlotNo) (s : State) : Outcome State Fault Refusal :=
  match (getBlock s x).map Block.wait with
  | some (.ring pa _ _ _ _) =>
    let s1 := switchTo (serveAll s pa) x
    match s1.me.wait with
    | .ring _ put f _ _ =>
      let r := ringAt s1 pa
      .next (seqTrap (dropLines s1 [pa]) (wordOf (if put then .qput f else .qget f))
        { cause := .qtimeout, tval := getS s1 f.sa
          tcoord := BitVec.ofNat 64 (r.tail % 2 ^ 32 * 2 ^ 32 + r.head % 2 ^ 32) })
    | _ => .next s1
  | _ => .next s

end Sys2Proof.Machine
end

