-- ==== Sys2Proof/Machine/Link.lean ====
section
/-!
DEFINITION. The ports to the outside: accesses beyond the package and how they end (R399, R406, R438), Lervon ports,
flits and messages (R400 to R406), the host's aperture (R398), Ultra Ethernet packets (R408, R409).
-/
namespace Sys2Proof.Machine

open Host (Outcome)

/-! ## Accesses of the device beyond the package -/

/-- A failed access that the device made for no group (R438). -/
def agentFails (s : State) (a : ExtAgent) : State :=
  match a with
  | .group g _ _ => killGroup s g Cause.protection.code .killed
  | .completionRecord q => closeForRecord s q 0x16
  | .contextEvent c => modCtx s c fun x => { x with cevlost := x.cevlost + 1 }
  | .faultRecord tag => match findFault s tag with | some f => killFault s f | none => s
  | .errorLog => { s with ctl := { s.ctl with ellost := s.ctl.ellost + 1 } }
  | .report => s
  | .countRead q seq => failLaunch s q seq .badrec
  | .loader c h => loaderFails s c h

/-- The agent's number in an error-log record of CLASS 0x0C (R393); the error log's own writes have none, and the attestation engine,
which the list leaves out, is given 0 (log entry 22). -/
def ExtAgent.code (a : ExtAgent) : Option Nat :=
  match a with
  | .completionRecord _ => some 1 | .contextEvent _ => some 2 | .faultRecord _ => some 3 | .countRead _ _ => some 4
  | .loader _ _ => some 5 | .report => some 0 | _ => none

def dropRequest (s : State) (r : ExtRequest) : State := { s with requests := s.requests.filter fun x => x.tag != r.tag }

/-- The answer to what a block has asked for; nothing else of the block awaits it. -/
def Block.answer (b : Block) (tag : Nat) (data : List Byte) : Block :=
  { b with
    asks := b.asks.map fun a => if a.tag = tag then { a with done := true, data := data } else a
    posted := b.posted.map fun p => if p.req = some tag then { p with answer := data } else p }

/-- A request parked in a ring goes on with the answer that it waited for. -/
def serveAnswered (s : State) (x : SlotNo) : State :=
  match (getBlock s x).map Block.wait with | some (.ring pa _ _ _ _) => serveAll s pa | _ => s

/-- An access has ended, with a peer's data: the block goes on with it, and it no longer holds the block back (R99, R102); a completion
record is at its address (R289); what dispatch and the loader have read stands in the peer's memory as the device sees it. -/
def requestEnds (s : State) (r : ExtRequest) (data : List Byte) : State :=
  let s1 := dropRequest s r
  let s2 := { s1 with mem := memStore s1.mem r.pa data }
  match r.agent with
  | .group _ x _ => serveAnswered (settleStop (modBlock s1 x fun b => b.answer r.tag data) x) x
  | .completionRecord q => recordAcked s1 q
  | .countRead q seq => match findLaunch s2 q seq with | some l => if l.ended then s2 else setCount s2 l (homeNat s2 r.pa 4) | none => s2
  | _ => s2

/-- An access to host memory that failed (R399, R438): `detail` is 1 Unsupported Request, 2 Completer Abort, 3 no
completion. -/
def hostFails (s : State) (r : ExtRequest) (detail : Nat) : State :=
  let s1 := dropRequest s r
  let s2 := match ExtAgent.code r.agent with
    | some n => errLog s1 { class_ := 0x0C, detail := detail, info := n, addr := hostAddress r.pa }
    | none => s1
  agentFails s2 r.agent

/-- An access to a peer that failed (R406). -/
def peerFails (s : State) (r : ExtRequest) : State := agentFails (dropRequest s r) r.agent

def findRequest (s : State) (tag : Nat) : Option ExtRequest := s.requests.find? fun r => r.tag == tag

/-- PCIE_COMPLETION_RECEIVE (R399, R438): `req` is the request's tag. -/
def execPcieCompletionReceive (req : Nat) (status : PcieStatus) (s : State) : Outcome State Fault Refusal :=
  match findRequest s req with
  | some r =>
    if regionOf r.pa ≠ .host then .next s
    else
      match status with
      | .success => .next (requestEnds s r [])
      | .unsupportedRequest => .next (hostFails s r 1)
      | .completerAbort => .next (hostFails s r 2)
  | none => .next s

/-- PCIE_COMPLETION_TIMEOUT (R399, R438): none within 50 ms. -/
def execPcieCompletionTimeout (req : Nat) (s : State) : Outcome State Fault Refusal :=
  match findRequest s req with
  | some r => if regionOf r.pa = .host then .next (hostFails s r 3) else .next s
  | none => .next s

/-! ## Lervon ports (R400, R401) -/

/-- UP or DEGRADED. -/
def PortSt.isLive (x : PortSt) : Bool := match x with | .up => true | .degraded => true | _ => false

/-- The outstanding requests of a port end FENCED. -/
def fenceRequests (s : State) (p : BitVec 4) : State :=
  (s.requests.filter fun r => r.port == some p && regionOf r.pa == .peer).foldl peerFails s

/-- Traffic of a port is forgotten when it leaves service. -/
def Port.quiet (x : Port) (st : PortSt) : Port :=
  { x with st := st, width := 0, replay := [], replayCount := 0, nak := false, received := [], credits := 0, owed := 0
           nextSeq := 0, expected := 0, acked := 0 }

/-- TRAIN (R401). -/
def trainPort (s : State) (p : BitVec 4) : State :=
  modPort s p fun x => if x.st = .down ∨ x.st = .fenced then { x with st := .training } else x

/-- DOWN (R401). -/
def downPort (s : State) (p : BitVec 4) : State :=
  if (getPort s p).st.isLive ∨ (getPort s p).st = .training then fenceRequests (modPort s p fun x => x.quiet .down) p else s

/-- RETIRE (R401). -/
def retirePort (s : State) (p : BitVec 4) : State := fenceRequests (modPort s p fun x => x.quiet .retired) p

/-- LCMD TRAIN (R401). -/
def execLcmdTrain (p : BitVec 4) (s : State) : Outcome State Fault Refusal := whenReady s <| .next (trainPort s p)
/-- LCMD DOWN (R401). -/
def execLcmdDown (p : BitVec 4) (s : State) : Outcome State Fault Refusal := whenReady s <| .next (downPort s p)
/-- LCMD RETIRE (R401). -/
def execLcmdRetire (p : BitVec 4) (s : State) : Outcome State Fault Refusal := whenReady s <| .next (retirePort s p)

/-- A failed training: FAILS rises, LASTERR says why, and the eighth failure retires the port (R401). -/
def trainFails (s : State) (p : BitVec 4) (err : BitVec 8) : State :=
  let n := (getPort s p).fails + 1
  let s1 := modPort s p fun x => { x with fails := n, lasterr := err }
  if n = 8 then retirePort s1 p else fenceRequests (modPort s1 p fun x => x.quiet .down) p

/-- LINK_TRAINING_COMPLETE (R400, R401): `lanes` passed and the partner is node `pnode`. -/
def execLinkTrainingComplete (p : BitVec 4) (lanes : BitVec 4) (pnode : BitVec 9) (s : State) :
    Outcome State Fault Refusal :=
  if (getPort s p).st ≠ .training then .next s
  else if pnode = s.ctl.nodeid then .next (trainFails s p 0x72)
  else if lanes.toNat < 2 then .next (trainFails s p 0x71)
  else
    let w : BitVec 4 := if 8 ≤ lanes.toNat then 8 else if 4 ≤ lanes.toNat then 4 else 2
    .next (modPort s p fun x =>
      { x with st := if w = 8 then .up else .degraded, width := w, pnode := pnode, fails := 0, replayCount := 0 })

/-- LINK_TRAINING_TIMEOUT (R401): no partner within 100 ms. -/
def execLinkTrainingTimeout (p : BitVec 4) (s : State) : Outcome State Fault Refusal :=
  if (getPort s p).st = .training then .next (trainFails s p 0x70) else .next s

/-- NODEID_WRITE (R400): dropped while a port is neither DOWN nor RETIRED. -/
def execNodeidWrite (who : Writer) (v : Word) (s : State) : Outcome State Fault Refusal := whenReady s <|
  if (match who with | .vf _ => true | _ => false) || (s.ports.toList.any fun x => x.st != .down && x.st != .retired)
  then .next s
  else .next { s with ctl := { s.ctl with nodeid := v.setWidth 9 } }

/-! ## Flits (R402) -/

/-- `x + 1`, saturating. -/
def satCount (x : BitVec 32) : BitVec 32 := if x = BitVec.allOnes 32 then x else x + 1

/-- The flits sent and not yet acknowledged: no more than 1,024 (R402). Those behind them in the replay buffer wait to be sent. -/
def Port.unacked (x : Port) : List Flit := x.replay.take 1024

/-- An acknowledgement: the flits up to it leave the replay buffer; progress ends a series of replays. -/
def takeAck (x : Port) (ack : BitVec 16) : Port :=
  if x.unacked.any fun f => f.seq == ack then
    { x with replay := (x.replay.dropWhile fun f => f.seq != ack).drop 1, acked := ack, replayCount := 0 }
  else x

/-- The flits that are not acknowledged are sent again. A flit replayed 16 times without progress retrains the port (R401). -/
def replayFlits (x : Port) : Port :=
  if x.replay = [] then x
  else
    let y := { x with replays := satCount x.replays, replayCount := x.replayCount + 1 }
    if y.replayCount = 16 then { y with st := .training, lasterr := 0x73, replayCount := 0 } else y

/-- A discarded flit is answered with NAK, which carries ACK (R402). -/
def Port.discard (x : Port) : Port :=
  let f := sealFlit { seq := x.nextSeq, ack := x.expected - 1, kind := 2, credits := BitVec.ofNat 8 x.returns, reserved := 0
                      slots := List.replicate 240 0, crc := 0 }
  { x with nak := true, replay := x.replay ++ [f], nextSeq := x.nextSeq + 1, owed := x.owed - 16 * x.returns }

/-- REPLAY_TIMEOUT (R402): 2 µs without ACK progress. -/
def execReplayTimeout (p : BitVec 4) (s : State) : Outcome State Fault Refusal :=
  if (getPort s p).st.isLive then .next (modPort s p replayFlits) else .next s

/-! ## Messages (R403, R404) -/

def badMessage (s : State) (p : BitVec 4) : State := modPort s p fun x => { x with crcErrors := satCount x.crcErrors }

/-- The response to a request (R406). -/
def respond (s : State) (p : BitVec 4) (m : LvMsg) (status : Nat) (data : List Byte) : State :=
  sendMessage s p { m with op := 3, aop := BitVec.ofNat 4 status, src := m.dst, dst := m.src, data := data
                           len := BitVec.ofNat 8 (data.length - 1) }

/-- The new value of an atomic step (R404). -/
def peerAtomic (aop bits old b : Nat) : Nat :=
  match aop with
  | 0 => amoNew .add bits old b 0
  | 1 => amoNew .swap bits old b 0
  | 2 => amoNew .cas bits old (b / 2 ^ bits) (b % 2 ^ bits)
  | 3 => amoNew .min bits old b 0
  | 4 => amoNew .max bits old b 0
  | 5 => amoNew .and bits old b 0
  | 6 => amoNew .or bits old b 0
  | 7 => amoNew .xor bits old b 0
  | 8 => amoNew .minu bits old b 0
  | 9 => amoNew .maxu bits old b 0
  | _ => old

/-- The part of an atomic's data that is the operand, as the step takes it. -/
def peerStep (m : LvMsg) (old : Nat) : Nat :=
  let bits := if m.sz then 32 else 64
  match m.aop.toNat with
  | 10 => tamoOp (some .add) 10 old (leNat m.data % 2 ^ 32)
  | 11 => tamoOp (some .min) 10 old (leNat m.data % 2 ^ 32)
  | 12 => tamoOp (some .max) 10 old (leNat m.data % 2 ^ 32)
  | n => if n = 2 then peerAtomic 2 bits old (leNat m.data) else peerAtomic n bits old (leNat m.data % 2 ^ bits)

/-- The bytes that a request touches. -/
def msgExtent (m : LvMsg) : Nat := if m.op = 2 then (if m.sz ∨ 10 ≤ m.aop.toNat then 4 else 8) else m.len.toNat + 1

/-- Bytes read at the pieces of a range. -/
def readSegs (s : State) (segs : List Seg) : List Byte := segs.flatMap fun g => homeRead s g.pa g.len

/-- Bytes written at the pieces of a range. -/
def linkWrite (s : State) (segs : List Seg) (bs : List Byte) : State :=
  match segs with
  | [] => s
  | g :: r => linkWrite (homeWrite s .link g.pa (bs.take g.len)) r (bs.drop g.len)

/-- An inbound request of a context that holds the key, once it is translated. -/
def servePeer (s : State) (p : BitVec 4) (m : LvMsg) (segs : List Seg) : State :=
  let old := readSegs s segs
  if m.op ≠ 1 ∧ (segs.any fun g => poisonedAt s g.pa g.len) then respond s p m 5 []
  else if m.op = 0 then respond s p m 0 old
  else if m.op = 1 then respond (linkWrite s segs (m.data.take (msgExtent m))) p m 0 []
  else respond (linkWrite s segs (leBytes (msgExtent m) (peerStep m (leNat old)))) p m 0 old

/-- The resident context that holds a key (R315, R406). -/
def keyContext (s : State) (k : BitVec 16) : Option (BitVec 6) :=
  (s.contexts.find? fun p =>
    (match p.2.st with | .free => false | .destroyed => false | _ => true) && p.2.pkey == k).map
      fun p => BitVec.ofNat 6 p.1

def msgKind (m : LvMsg) : AccKind := if m.op = 0 then .read else if m.op = 1 then .write else .atomic

/-- Whether a request goes to a line that is held for a block, for which it waits (R250). -/
def requestHeld (s : State) (m : LvMsg) : Bool :=
  match keyContext s m.pkey with
  | none => false
  | some c =>
    match (translateRange [] s none c m.addr.toNat (msgExtent m) (msgKind m) .link (msgExtent m / 4096 + 2)).1 with
    | .ok segs => segs.any fun g => lineHeld s none g.pa g.len
    | _ => false

/-- A request from a peer is served (R347, R406). -/
def takeRequest (s : State) (p : BitVec 4) (m : LvMsg) : State :=
  if 3 ≤ m.op.toNat ∨ (m.op = 2 ∧ 13 ≤ m.aop.toNat) then badMessage s p
  else
    match keyContext s m.pkey with
    | none => respond s p m 1 []
    | some c =>
      match translateRange [] s none c m.addr.toNat (msgExtent m) (msgKind m) .link (msgExtent m / 4096 + 2) with
      | (.fault _ _ _ _, _) => respond s p m 2 []
      | (.hold _, _) => respond s p m 3 []
      | (.ok segs, s1) => servePeer s1 p m segs

/-- LERVON_REQUEST_RECEIVE (R347, R403, R404, R406): a request to a line held for a block waits. -/
def execLervonRequestReceive (p : BitVec 4) (m : LvMsg) (s : State) : Outcome State Fault Refusal :=
  if !(getPort s p).st.isLive || requestHeld s m then .next s else .next (takeRequest s p m)

/-- A poisoned answer is consumed as UE_DATA by the instruction that made the request (R388, R406, R436). -/
def peerPoison (s : State) (r : ExtRequest) : State :=
  let s1 := dropRequest s r
  match r.agent with
  | .group _ x fl => consumePoison s1 x r.pa fl
  | a => agentFails s1 a

/-- The request of a port that a response answers. -/
def answeredBy (s : State) (p : BitVec 4) (m : LvMsg) : Option ExtRequest :=
  s.requests.find? fun r => r.port == some p && regionOf r.pa == .peer && r.tag % 65536 == m.tag.toNat

/-- A peer's answer (R406): RETRY sends the request again. -/
def takeResponse (s : State) (p : BitVec 4) (m : LvMsg) : State :=
  match answeredBy s p m with
  | none => s
  | some r =>
    match m.aop.toNat with
    | 0 => requestEnds s r (match r.op with | .write _ => [] | o => m.data.take o.size)
    | 1 | 2 | 4 => peerFails s r
    | 3 => sendRequest s r
    | 5 => peerPoison s r
    | _ => s

/-- LERVON_RESPONSE_RECEIVE (R406): the answer to the request with its tag on this port. -/
def execLervonResponseReceive (p : BitVec 4) (m : LvMsg) (s : State) : Outcome State Fault Refusal :=
  if !(getPort s p).st.isLive then .next s
  else if m.op ≠ 3 then .next (badMessage s p)
  else .next (takeResponse s p m)

/-! ## Messages out of flits (R402, R403) -/

/-- A header as a message without its data. -/
def headerMsg (x : Nat) : LvMsg :=
  { op := BitVec.ofNat 4 (bitsOf x 124 4), aop := BitVec.ofNat 4 (bitsOf x 120 4), pkey := BitVec.ofNat 16 (bitsOf x 104 16)
    src := BitVec.ofNat 9 (bitsOf x 95 9), dst := BitVec.ofNat 9 (bitsOf x 86 9), tag := BitVec.ofNat 16 (bitsOf x 70 16)
    len := BitVec.ofNat 8 (bitsOf x 62 8), sz := bitsOf x 39 1 = 1, addr := BitVec.ofNat 39 x, data := [] }

/-- The data bytes that follow a header: of a response, those that its request asked for, where it is OK. -/
def dataAfter (s : State) (p : BitVec 4) (m : LvMsg) : Nat :=
  match m.op.toNat with
  | 1 => m.len.toNat + 1
  | 2 => (if m.aop = 2 then 2 else 1) * msgExtent m
  | 3 =>
    match answeredBy s p m with
    | some r => if m.aop = 0 then (match r.op with | .write _ => 0 | o => o.size) else 0
    | none => 0
  | _ => 0

/-- Takes the messages that have arrived whole on a port, in order; a slot of zeros carries none (log entry 20), and a request to a line
held for a block waits with those behind it. -/
def takeSlots (s : State) (p : BitVec 4) (fuel : Nat) : State :=
  match fuel with
  | 0 => s
  | k + 1 =>
    let bs := (getPort s p).received
    let x := leNat (bs.take 16)
    let m := headerMsg x
    let n := dataAfter s p m
    let used := 16 + (n + 15) / 16 * 16
    let rest := fun (c : Nat) => modPort s p fun y => { y with received := bs.drop c }
    if bs.length < 16 then s
    else if x = 0 then takeSlots (rest 16) p k
    else if bs.length < used then s
    else
      let m1 := { m with data := (bs.drop 16).take n }
      if m.op = 3 then takeSlots (takeResponse (rest used) p m1) p k
      else if requestHeld s m1 then s
      else takeSlots (takeRequest (rest used) p m1) p k

/-- A flit that is accepted (R402): its acknowledgement and its credits count, and its slots are taken. -/
def acceptFlit (s : State) (p : BitVec 4) (f : Flit) : State :=
  let x := getPort s p
  let y := takeAck { x with expected := x.expected + 1, credits := x.credits + 16 * f.credits.toNat, nak := false } f.ack
  match f.kind.toNat with
  | 1 =>
    let z := { y with received := y.received ++ f.slots, owed := y.owed + 15 }
    takeSlots (setPort s p z) p (z.received.length / 16)
  | 2 => takeSlots (setPort s p (replayFlits y)) p (y.received.length / 16)
  | 3 =>
    if Config.fenceFlit f.slots then fenceRequests (setPort s p { y.quiet .fenced with lasterr := 0x75 }) p
    else takeSlots (setPort s p y) p (y.received.length / 16)
  | _ => takeSlots (setPort s p y) p (y.received.length / 16)

/-- FLIT_RECEIVE (R401 to R403): a flit is accepted only when its CRC holds and its SEQ is the next expected. Whether a
control flit is FENCE is read from its slots, whose layout the spec does not give (log entry 20). -/
def execFlitReceive (p : BitVec 4) (f : Flit) (s : State) : Outcome State Fault Refusal :=
  let x := getPort s p
  if !x.st.isLive then .next s
  else if !flitOk f then .next (setPort s p ({ x with crcErrors := satCount x.crcErrors }).discard)
  else if f.seq ≠ x.expected ∨ 3 < f.kind.toNat then .next (setPort s p x.discard)
  else .next (acceptFlit s p f)

/-- LERVON_RESPONSE_TIMEOUT (R406): a request without an answer within 2 ms ends FENCED and its port retrains. -/
def execLervonResponseTimeout (tag : BitVec 16) (s : State) : Outcome State Fault Refusal :=
  match s.requests.find? fun r => regionOf r.pa == .peer && r.tag % 65536 == tag.toNat with
  | none => .next s
  | some r =>
    let s1 := peerFails s r
    match r.port with
    | some p => .next (modPort s1 p fun x => if x.st.isLive then { x with st := .training, lasterr := 0x74 } else x)
    | none => .next s1

/-! ## The host (R396 to R398) -/

/-- Whether a host access to the aperture is answered: by the physical function, in READY, below 2^39. -/
def apertureOk (s : State) (who : Writer) (addr : Word) (n : Nat) : Bool :=
  s.isReady && who == .pf && decide (addr.toNat + n ≤ 2 ^ 39)

/-- Whether a host access waits: on a page that a move has frozen (R353), or for a line held for a block (R250). -/
def hostWaits (s : State) (pa n : Nat) : Bool := frozenAt s pa n || lineHeld s none pa n

/-- HOST_APERTURE_READ (R398). -/
def execHostApertureRead (who : Writer) (addr : Word) (len : Nat) (s : State) : Outcome State Fault Refusal :=
  if !apertureOk s who addr len then .next (unsupported s)
  else if hostWaits s addr.toNat len then .next s
  else .next { s with reply := some ⟨true, homeRead s addr.toNat len⟩ }

/-- HOST_APERTURE_WRITE (R398). -/
def execHostApertureWrite (who : Writer) (addr : Word) (data : List Byte) (s : State) : Outcome State Fault Refusal :=
  if !apertureOk s who addr data.length then .next (unsupported s)
  else if hostWaits s addr.toNat data.length then .next s
  else .next (homeWrite s .host addr.toNat data)

/-- The new value of a host AtomicOp; for CAS `a` is compared and `b` is stored. -/
def hostNew (op : HostAtomic) (bits old : Nat) (a b : Word) : Nat :=
  match op with
  | .fetchAdd => amoNew .add bits old (a.toNat % 2 ^ bits) 0
  | .swap => a.toNat % 2 ^ bits
  | .cas => amoNew .cas bits old (b.toNat % 2 ^ bits) (a.toNat % 2 ^ bits)

/-- HOST_ATOMICOP (R395, R398): 32 and 64 bits; others, a 128-bit CAS among them, complete Unsupported Request. -/
def execHostAtomicop (who : Writer) (op : HostAtomic) (bytes : BitVec 5) (addr : Word) (a b : Word) (s : State) :
    Outcome State Fault Refusal :=
  let n := bytes.toNat
  if (n = 4 ∨ n = 8) ∧ addr.toNat % n = 0 ∧ apertureOk s who addr n ∧ hostWaits s addr.toNat n then .next s
  else if (n = 4 ∨ n = 8) ∧ addr.toNat % n = 0 ∧ apertureOk s who addr n then
    let old := homeNat s addr.toNat n
    let s1 := homeWrite s .host addr.toNat (leBytes n (hostNew op (8 * n) old a b))
    .next { s1 with reply := some ⟨true, leBytes n old⟩ }
  else .next (unsupported s)

/-- A write by an agent outside the package to its own memory: host and peer bytes only (R231). -/
def worldWrite (s : State) (pa : BitVec 52) (b : Byte) : State :=
  match regionOf pa.toNat with
  | .host | .peer => homeWrite s .host pa.toNat [b]
  | _ => s

/-- A PCI Express write of the Ranger core: it must lie in one valid event window (R415). In FAILED nothing runs (R412). -/
def rangerWrite (s : State) (addr : Word) (data : List Byte) : State :=
  let n := data.length
  if s.ctl.stage = .failed then s
  else if s.windows.toList.any fun w =>
      w.v && decide (w.base.toNat ≤ addr.toNat) && decide (addr.toNat + n ≤ w.base.toNat + w.npages.toNat * 4096)
  then homeWrite s .device (hostByte addr.toNat) data
  else errLog s { class_ := 0x0B, info := n, addr := addr.toNat }

/-! ## Ownership and peers (R397, R409) -/

/-- Whether a write to an ownership table is refused. -/
def ownRefused (s : State) (table : OwnTable) (i : Nat) (v : Byte) : Bool :=
  decide (16 < v.toNat) ||
  match table with
  | .qown => tabGet s.qown i (0 : Byte) != v && (getQueue s (BitVec.ofNat 10 i)).st != .unbound
  | .vown => false
  | .ctxown => tabGet s.ctxown i (0 : Byte) != v && (getCtx s (BitVec.ofNat 6 i)).st != .free

/-- The offset of an entry, and the context that hears of a refusal (log entry 21). -/
def ownPlace (s : State) (table : OwnTable) (i : Nat) : Nat × BitVec 6 :=
  match table with
  | .qown => (0xD0000 + i, (getQueue s (BitVec.ofNat 10 i)).ctx)
  | .vown => (0xD0400 + i, 0)
  | .ctxown => (0xD0C00 + i, BitVec.ofNat 6 i)

/-- OWNERSHIP_TABLE_WRITE (R397). -/
def execOwnershipTableWrite (who : Writer) (table : OwnTable) (idx : BitVec 11) (v : Byte) (s : State) :
    Outcome State Fault Refusal := whenReady s <|
  let i := idx.toNat
  let size := match table with | .qown => 1024 | .vown => 2048 | .ctxown => 64
  if who ≠ .pf ∨ size ≤ i then .next s
  else if ownRefused s table i v then
    let pl := ownPlace s table i
    .next (refusalEvent s pl.2 0x60 pl.1)
  else
    match table with
    | .qown => .next { s with qown := tabSet s.qown i v }
    | .vown => .next { s with vown := tabSet s.vown i v }
    | .ctxown => .next { s with ctxown := tabSet s.ctxown i v }

/-- The fields of a peer-table entry; its reserved bits read 0. -/
def peerMask : BitVec 256 := BitVec.ofNat 256 (2 ^ 256 - 2 ^ 254 + 2 ^ 152 - 1)

/-- PEER_TABLE_WRITE (R409). -/
def execPeerTableWrite (who : Writer) (idx : BitVec 8) (v : BitVec 256) (s : State) : Outcome State Fault Refusal := whenReady s <|
  if who ≠ .pf then .next s else .next { s with peers := tabSet s.peers idx.toNat (v &&& peerMask) }

/-! ## Ultra Ethernet (R408, R409) -/

/-- A packet of an unsupported service is dropped and counted at its interface: UE0 on CD0, UE1 on CD1 (R13, R408). -/
def dropPacket (s : State) (port : Bool) : State :=
  if port then { s with ctl := { s.ctl with uet1Dropped := s.ctl.uet1Dropped + 1 } }
  else { s with ctl := { s.ctl with uet0Dropped := s.ctl.uet0Dropped + 1 } }

/-- UE_PACKET_RECEIVE at UE0 or UE1 (R408, R409): an RMA is translated in the context that the network software bound to its JOBID,
and refused when it would fault; one to a frozen page or to a held line waits (R250, R353); unsupported services are dropped and counted. A Send brings no access to memory. -/
def execUePacketReceive (port : Bool) (c : BitVec 6) (p : UePacket) (s : State) : Outcome State Fault Refusal := onlyReady s <|
  match p with
  | .unsupported => .next (dropPacket s port)
  | .send _ _ => .next s
  | .rmaWrite _ va data =>
    match translateRange [] s none c va.toNat data.length .write .link (data.length / 4096 + 2) with
    | (.ok segs, s1) =>
      if segs.any fun g => lineHeld s1 none g.pa g.len then .next s
      else .next { linkWrite s1 segs data with reply := some ⟨true, []⟩ }
    | (.hold _, _) => .next s
    | (.fault _ _ _ _, _) => .next (unsupported s)
  | .rmaRead _ va len =>
    match translateRange [] s none c va.toNat len.toNat .read .link (len.toNat / 4096 + 2) with
    | (.ok segs, s1) =>
      if segs.any fun g => lineHeld s1 none g.pa g.len then .next s
      else .next { s1 with reply := some ⟨true, readSegs s1 segs⟩ }
    | (.hold _, _) => .next s
    | (.fault _ _ _ _, _) => .next (unsupported s)

end Sys2Proof.Machine
end

