-- ==== Sys2Proof/Machine/Platform.lean ====
section
/-!
DEFINITION. Power-up, power and trust (R20, R410 to R419): reset and the boot stages, Ranger's twin, attestation, the
current clamp and the islands.
-/
namespace Sys2Proof.Machine

open Host (Outcome)

/-! ## Power-up (R410 to R413) -/

/-- What a reset keeps: memory outside the package, the fuses, and the schedule. -/
def afterReset (s : State) : State :=
  { State.reset with
    mem := s.mem.filter fun c => decide (2 ^ 48 ≤ c.1)
    agenda := s.agenda, free := s.free
    ctl := { State.reset.ctl with stage := .verify, remain := s.ctl.remain, minSvn := s.ctl.minSvn } }

/-- RESET (R410): reset is released, and the boot ROM reads the firmware image. -/
def execReset (s : State) : Outcome State Fault Refusal := .next (afterReset s)

/-- FAILED, with its code (R412). -/
def bootFails (s : State) (err : BitVec 8) : State := { s with ctl := { s.ctl with stage := .failed, err := err } }

/-- BOOT_VERIFY_COMPLETE (R413): framing, ECDSA, LMS, SVN, in this order. -/
def execBootVerifyComplete (framing ecdsa lms : Bool) (svn : BitVec 8) (fwver : BitVec 32) (s : State) :
    Outcome State Fault Refusal :=
  if s.ctl.stage ≠ .verify then .next s
  else if !framing then .next (bootFails s 0x83)
  else if !ecdsa then .next (bootFails s 0x80)
  else if !lms then .next (bootFails s 0x81)
  else if svn.toNat < s.ctl.minSvn.toNat then .next (bootFails s 0x82)
  else .next { s with ctl := { s.ctl with stage := .hbm, svn := svn, fwver := fwver, minSvn := svn } }

/-- HBM_TRAINING_COMPLETE (R410, R412): `bad` has a bit for each stack that failed. -/
def execHbmTrainingComplete (bad : BitVec 8) (s : State) : Outcome State Fault Refusal :=
  if s.ctl.stage ≠ .hbm then .next s
  else if bad ≠ 0 then .next (bootFails { s with ctl := { s.ctl with sbad := bad } } 0x84)
  else .next { s with ctl := { s.ctl with stage := .d2d } }

/-- D2D_TRAINING_COMPLETE (R410, R412). -/
def execD2dTrainingComplete (ok : Bool) (s : State) : Outcome State Fault Refusal :=
  if s.ctl.stage ≠ .d2d then .next s
  else if ok then .next { s with ctl := { s.ctl with stage := .init } }
  else .next (bootFails s 0x85)

def allPorts : List (BitVec 4) := (List.range 12).map (BitVec.ofNat 4)

/-- INIT_COMPLETE (R410): every bank is ONLINE, HBM is zero without poison, the device is READY, and firmware trains
every Lervon port. -/
def execInitComplete (s : State) : Outcome State Fault Refusal :=
  if s.ctl.stage ≠ .init then .next s
  else
    let s1 := { s with
      banks := [], poison := [], mem := s.mem.filter fun c => decide (2 ^ 48 ≤ c.1)
      ctl := { s.ctl with stage := .ready, emuset := Config.emulatedMajors } }
    .next (allPorts.foldl trainPort s1)

/-! ## Ranger's twin (R416) -/

/-- RANGER_HEARTBEAT (R416): the twin sees it. In FAILED nothing runs (R412). -/
def execRangerHeartbeat (s : State) : Outcome State Fault Refusal :=
  if s.ctl.stage = .failed then .next s else
  .next { s with ctl := { s.ctl with heartbeats := s.ctl.heartbeats + 1 } }

/-- A kernel command in BUSY at a takeover. -/
def dropKcmd (s : State) : State :=
  match s.ctl.kcmd with
  | some f =>
    match s.kernels.find? fun k => k.ctx == f.ctx && k.st == .loading with
    | some k => endKcmd (dropKernel s k.handle) f.ctx 0 (some 0xF0)
    | none => endKcmd s f.ctx 0 (some 0xF0)
  | none => s

/-- A context command in BUSY at a takeover; the context stays as it is (log entry 91). -/
def dropCcmd (s : State) : State :=
  match s.ctl.ccmd with
  | some (_, f) => endCcmd s f.ctx (why 0xF0)
  | none => s

/-- A page move in BUSY at a takeover: MIG is 00 again unless the entry has been switched. -/
def dropPmove (s : State) : State :=
  match s.move with
  | some m =>
    let s1 := if m.st = .switched then invalidate s m.ctx false (m.va.toNat / 4096) 1 else setMig s m.entry 0
    { s1 with move := none, ctl := { s1.ctl with pmres := { st := .failed, reason := 0xF0 } } }
  | none => s

/-- A bank command in BUSY at a takeover; the bank's evacuation, hardware's work, goes on. -/
def dropBankcmd (s : State) : State :=
  match s.ctl.bankcmd with
  | some b => { s with ctl := { s.ctl with bankcmd := none, bankres := { st := .failed, reason := 0xF0, value := b } } }
  | none => s

/-- The outstanding fault records are offered again under their tags: written to the host's ring again, or shown to Ranger (log entry
91). -/
def offerAgain (s : State) : State :=
  flushFaults { s with
    faults := s.faults.map fun f => if f.host then { f with written := false } else f
    notices := s.notices ++ (s.faults.filter fun f => !f.host).map fun f => Notice.faultToRanger f.ftag }

/-- RANGER_TAKEOVER (R416): `us` µs after the last heartbeat; no further takeover before reset, and none in FAILED (R412). -/
def execRangerTakeover (us : Word) (s : State) : Outcome State Fault Refusal :=
  if us.toNat < 1000 ∨ s.ctl.twinTaken ∨ s.ctl.stage = .failed then .next s
  else
    let s1 := offerAgain (dropBankcmd (dropPmove (dropCcmd (dropKcmd s))))
    .next (errLog { s1 with ctl := { s1.ctl with twinTaken := true } } { class_ := 0x0A, info := us.toNat })

/-! ## Attestation (R417) -/

def setAtt (s : State) (r : CmdRes) : State := { s with ctl := { s.ctl with attst := r } }

/-- ATTREQ (R417). A request written while BUSY shows reason 0x91; the one in progress goes on (log entry 22). -/
def execAttreq (who : Writer) (data : BitVec 256) (s : State) : Outcome State Fault Refusal := whenReady s <|
  if who ≠ .pf then .next s
  else if s.ctl.attst.st = .busy then .next (setAtt s { s.ctl.attst with reason := 0x91 })
  else if s.ctl.remain = 0 then .next (setAtt s { st := .failed, reason := 0x90 })
  else if (data.extractLsb' 128 6 != 0) || (data.extractLsb' 192 64 != 0) then .next (setAtt s { st := .failed, reason := 0x92 })
  else .next (setAtt { s with ctl := { s.ctl with attreq := some data } } { st := .busy })

/-- The LMS leaf index of the next report: leaves are used in turn (log entry 22); REMAIN is at most 32,768. -/
def leafIndex (s : State) : Nat := 32768 - s.ctl.remain.toNat

/-- A report: the contents of R417 for a nonce; the signatures are free values (log entry 7). -/
def reportBytes (s : State) (data : BitVec 256) : List Byte :=
  leBytes 16 (data.extractLsb' 0 128).toNat ++ leBytes 48 Config.romDigest.toNat ++ leBytes 48 (Config.firmwareDigest s.ctl.fwver s.ctl.svn).toNat ++
    leBytes 8 (s.ctl.fwver.toNat + s.ctl.svn.toNat * 2 ^ 32 + s.ctl.fnmode.toNat * 2 ^ 40) ++ leBytes 4 (leafIndex s) ++
    leBytes 4 0 ++ (List.range 2764).map fun i => Config.signatureByte (leafIndex s) i

/-- ATTEST_REPORT_COMPLETE (R417, R438): the report is written to its host bus address; one leaf is used. -/
def execAttestReportComplete (s : State) : Outcome State Fault Refusal :=
  match s.ctl.attreq with
  | none => .next s
  | some data =>
    let pa := hostByte (data.extractLsb' 128 64).toNat
    let s1 := extWrite (homeWrite s .device pa (reportBytes s data)) .report pa (reportBytes s data)
    .next { s1 with ctl := { s1.ctl with
      remain := s1.ctl.remain - 1, attreq := none, attst := { s1.ctl.attst with st := .done } } }

/-! ## Power (R20, R418, R419) -/

/-- A current limit within its range. -/
def clampAmps (v : Word) : BitVec 12 :=
  let n := (v.extractLsb' 0 12).toNat
  if 3600 < n then 3600 else if n < 1200 then 1200 else BitVec.ofNat 12 n

/-- CLAMPLIM_WRITE (R418): Ranger may only lower it. -/
def execClamplimWrite (who : Writer) (v : Word) (s : State) : Outcome State Fault Refusal := whenReady s <|
  let n := clampAmps v
  match who with
  | .pf => .next { s with ctl := { s.ctl with clamp := n } }
  | .ranger => if n.toNat < s.ctl.clamp.toNat then .next { s with ctl := { s.ctl with clamp := n } } else .next s
  | .vf _ => .next s

/-- CLAMP_EXCURSION (R20): matrix issue cycles are skipped. -/
def execClampExcursion (s : State) : Outcome State Fault Refusal := .next { s with ctl := { s.ctl with clampActive := true } }

/-- CURRENT_BACK_WITHIN_LIMIT (R20). -/
def execCurrentBackWithinLimit (s : State) : Outcome State Fault Refusal :=
  .next { s with ctl := { s.ctl with clampActive := false } }

def modIsland (s : State) (i : BitVec 4) (f : Island → Island) : State :=
  { s with islands := s.islands.set i.toNat (f (s.islands[i.toNat]'(i.isLt))) i.isLt }

/-- VFI_WRITE (R419): requests of 12 to 15 are ignored. -/
def execVfiWrite (i : BitVec 4) (v : Word) (s : State) : Outcome State Fault Refusal := whenReady s <|
  let n := v.extractLsb' 0 4
  if 12 ≤ n.toNat then .next s else .next (modIsland s i fun x => { x with req := n })

/-- VFI_CHANGE_COMPLETE (R419): the requested point is in effect. -/
def execVfiChangeComplete (i : BitVec 4) (s : State) : Outcome State Fault Refusal :=
  .next (modIsland s i fun x => { x with cur := x.req })

/-- THERMAL_PROTECTION (R419): the island runs at a point that is slower than requested. -/
def execThermalProtection (i : BitVec 4) (cur : BitVec 4) (s : State) : Outcome State Fault Refusal :=
  .next (modIsland s i fun x => if x.req.toNat ≤ cur.toNat ∧ cur.toNat < 12 then { x with cur := cur } else x)

end Sys2Proof.Machine
end

