-- ==== Sys2Proof/Machine/Registers.lean ====
section
/-!
DEFINITION. The control window and the queue window as register maps (R7, R8, R396, R411): what a read gives, and what
a write does.
-/
namespace Sys2Proof.Machine

open Host (Outcome)

/-! ## What registers read (R7) -/

def Stage.code (x : Stage) : Nat :=
  match x with | .reset => 0 | .verify => 1 | .hbm => 2 | .d2d => 3 | .init => 4 | .ready => 5 | .failed => 6

def PortSt.code (x : PortSt) : Nat :=
  match x with | .down => 0 | .training => 1 | .up => 2 | .degraded => 3 | .fenced => 4 | .retired => 5

def QueueSt.code (x : QueueSt) : Nat :=
  match x with | .unbound => 0 | .opened => 1 | .draining => 2 | .halted => 3 | .closed => 4

/-- BOOTST (R410). -/
def bootst (s : State) : Nat :=
  s.ctl.stage.code * 2 ^ 60 + s.ctl.err.toNat * 2 ^ 52 + s.ctl.sbad.toNat * 2 ^ 44 + s.ctl.svn.toNat * 2 ^ 36 + s.ctl.fwver.toNat

/-- ATTST (R417). -/
def attst (s : State) : Nat :=
  s.ctl.attst.st.code * 2 ^ 62 + s.ctl.attst.reason.toNat * 2 ^ 32 + s.ctl.remain.toNat

/-- LPSTAT (R400). -/
def lpstat (x : Port) : Nat :=
  x.st.code * 2 ^ 61 + x.width.toNat * 2 ^ 57 + (if x.st.isLive then x.pnode.toNat else 0) * 2 ^ 32 + x.fails.toNat * 2 ^ 8 +
    x.lasterr.toNat

/-- A context's register block (R314, R350). -/
def ctxWord (x : Context) (off : Nat) : Nat :=
  match off with
  | 0x00 => x.st.code
  | 0x08 => x.cevhead.toNat
  | 0x10 => x.cevlost.toNat
  | 0x18 => x.cimglen.toNat
  | 0x20 => x.cmig.toNat
  | 0x28 => bit01 x.dlogOvf * 2 ^ 63 + x.dlogw.toNat
  | 0x30 => x.dlogr.toNat
  | _ => 0

/-- The bank whose status word has index n (R358). -/
def wordBank (n : Nat) : Option Nat :=
  if 32768 ≤ n then
    if n < 32768 + 768 then some (sliceId (decide (384 ≤ n - 32768)) ((n - 32768) % 384)) else none
  else
    let core := BitVec.ofNat 8 (n / 16384 * 128 + n % 16384 / 128)
    let i := n % 128
    if i < 16 then some (bankId 0 core i) else if i < 32 then some (bankId 1 core (i - 16))
    else if i < 40 then some (bankId 2 core (i - 32)) else if i < 56 then some (bankId 3 core (i - 40))
    else if i < 64 then some (bankId 4 core (i - 56)) else if i < 66 then some (bankId 6 core (i - 64)) else none

/-- The 8-byte registers below 0x1800, by offset. Write-only registers and offsets without a register read 0. -/
def lowWord (s : State) (off : Nat) : Nat :=
  match off with
  | 0x0000 => bootst s
  | 0x0008 => attst s
  | 0x0010 => s.ctl.clamp.toNat
  | 0x0040 => s.ctl.fnmode.toNat
  | 0x0048 => s.ctl.binderr.toNat
  | 0x0080 => s.ctl.kres.word.toNat
  | 0x0088 => s.ctl.emuset.toNat
  | 0x00E0 => s.ctl.cres.word.toNat
  | 0x0100 => s.ctl.frcfg.toNat
  | 0x0108 => s.ctl.frtail.toNat
  | 0x0110 => s.ctl.frhead.toNat
  | 0x0150 => s.ctl.pinvs.code * 2 ^ 62
  | 0x0180 => s.ctl.pmres.word.toNat
  | 0x01C0 => s.ctl.bankres.word.toNat
  | 0x01D0 => s.ctl.sdcn.toNat * 2 ^ 56 + s.ctl.winms.toNat * 2 ^ 40 + s.ctl.t1.toNat * 2 ^ 20 + s.ctl.t2.toNat
  | 0x0200 => s.ctl.elcfg.toNat
  | 0x0208 => s.ctl.eltail.toNat
  | 0x0210 => s.ctl.elhead.toNat
  | 0x0218 => s.ctl.ellost.toNat
  | 0x0708 => s.ctl.nodeid.toNat
  | _ =>
    if 0x300 ≤ off ∧ off < 0x380 then
      match s.islands[(off - 0x300) / 8]? with | some x => x.cur.toNat * 2 ^ 12 + x.req.toNat | none => 0
    else if 0x380 ≤ off ∧ off < 0x400 then
      match s.windows[(off - 0x380) / 16]? with
      | some w => if off % 16 = 0 then w.base.toNat + bit01 w.v else w.npages.toNat * 2 ^ 32
      | none => 0
    else if 0x400 ≤ off ∧ off < 0x700 then
      let x := getPort s (BitVec.ofNat 4 ((off - 0x400) / 64))
      if off % 64 = 0 then lpstat x else if off % 64 = 16 then x.replays.toNat * 2 ^ 32 + x.crcErrors.toNat else 0
    else if 0x800 ≤ off ∧ off < 0x1800 then (tabGet s.routes ((off - 0x800) / 8) (0 : BitVec 12)).toNat
    else 0

/-- Whether a vector belongs to a function. -/
def ownsVector (s : State) (fn : Nat) (vec : BitVec 11) : Bool := ownerOf s.vown vec.toNat == fn

/-- Bytes of a function's MSI-X table or pending bits (R397), 8 at a time. -/
def msixWord (s : State) (fn off : Nat) (pba : Bool) : Nat :=
  if pba then
    if 256 ≤ off then 0
    else (List.range 64).foldl (fun a i =>
      let v := BitVec.ofNat 11 (off * 8 + i)
      a + bit01 (ownsVector s fn v && s.pba.contains v) * 2 ^ i) 0
  else
    let v := BitVec.ofNat 11 (off / 16)
    if off / 16 < 2048 ∧ ownsVector s fn v then bitsOf (msixEntry s fn v).toNat (off % 16 * 8) 64 else 0

/-- The 8 bytes of an ownership table from an entry on. -/
def ownWord (t : List (Nat × Byte)) (i : Nat) : Nat := leNat ((List.range 8).map fun k => tabGet t (i + k) (0 : Byte))

/-- The bytes written so far over those of `old`. -/
def stagedNat (s : State) (off n old : Nat) : Nat :=
  leNat ((List.range n).map fun i => tabGet s.staging (off + i) (BitVec.ofNat 8 (old / 2 ^ (8 * i))))

/-- A peer entry, which its registers show with what has been written to it since it took effect (R7, R409). -/
def peerEntry (s : State) (off : Nat) : BitVec 256 := tabGet s.peers ((off - 0xD1000) / 32) 0

/-- The 8 bytes of the control window at an offset that is a multiple of 8. -/
def ctlWord (s : State) (off : Nat) : Nat :=
  if off < 0x1800 then lowWord s off
  else if 0x10000 ≤ off ∧ off < 0x14000 then bitsOf (shownRecord s (BitVec.ofNat 9 ((off - 0x10000) / 32))).toNat (off % 32 * 8) 64
  else if 0x20000 ≤ off ∧ off < 0x21000 then ctxWord (getCtx s (BitVec.ofNat 6 ((off - 0x20000) / 64))) (off % 64)
  else if 0x30000 ≤ off ∧ off < 0x30800 then
    if off % 64 = 0 then bit01 (tabGet s.keySlots ((off - 0x30000) / 64) ({} : KeySlot)).v else 0
  else if 0x80000 ≤ off ∧ off < 0xD0000 then
    match wordBank ((off - 0x80000) / 8) with | some id => (getBank s id).word.toNat | none => 0
  else if 0xD0000 ≤ off ∧ off < 0xD0400 then ownWord s.qown (off - 0xD0000)
  else if 0xD0400 ≤ off ∧ off < 0xD0C00 then ownWord s.vown (off - 0xD0400)
  else if 0xD0C00 ≤ off ∧ off < 0xD0C40 then ownWord s.ctxown (off - 0xD0C00)
  else if 0xD1000 ≤ off ∧ off < 0xD3000 then bitsOf ((BitVec.ofNat 256 (stagedNat s (off / 32 * 32) 32 (peerEntry s off).toNat)) &&& peerMask).toNat (off % 32 * 8) 64
  else if 0xE0000 ≤ off ∧ off < 0xE8000 then msixWord s 0 (off - 0xE0000) false
  else if 0xF0000 ≤ off ∧ off < 0xF0100 then msixWord s 0 (off - 0xF0000) true
  else 0

/-- The 8 bytes of a queue's page (R280). -/
def queueWord (x : Queue) (off : Nat) : Nat :=
  match off with
  | 0x800 => x.qcfg.toNat
  | 0x810 => x.st.code * 2 ^ 61 + x.next.toNat
  | 0x818 => x.low.toNat
  | 0x820 => x.qcplb.toNat
  | 0x828 => x.chead.toNat
  | 0x830 => x.qerr.toNat
  | _ => 0

/-! ## Multi-word registers (R303) -/

/-- The registers that are written in pieces, as (offset, bytes): the write that reaches the last byte acts. BANKCMD holds one command
in both its halves (log entry 51). -/
def staged : List (Nat × Nat) := [(0x20, 32), (0x50, 16), (0x60, 32), (0xC0, 32), (0x140, 16), (0x160, 32), (0x1C8, 8)]

/-- The staged register that holds an offset: those of `staged`, a key slot, a peer entry. -/
def stagedAt (off : Nat) : Option (Nat × Nat) :=
  match staged.find? fun r => decide (r.1 ≤ off) && decide (off < r.1 + r.2) with
  | some r => some r
  | none =>
    if 0x30000 ≤ off ∧ off < 0x30800 then some (off / 64 * 64, 64)
    else if 0xD1000 ≤ off ∧ off < 0xD3000 then some (off / 32 * 32, 32)
    else none

/-- The bytes written so far. -/
def stage (s : State) (off : Nat) (data : List Byte) : State :=
  match data with
  | [] => s
  | b :: r => stage { s with staging := tabSet s.staging off b } (off + 1) r

/-- What a staged register holds where nothing is written: a peer entry its own bytes, a write-only register 0. -/
def stagedOld (s : State) (off : Nat) : Nat := if 0xD1000 ≤ off then (peerEntry s off).toNat else 0

def unstage (s : State) (off n : Nat) : State :=
  { s with staging := s.staging.filter fun p => !(decide (off ≤ p.1) && decide (p.1 < off + n)) }

/-- The state of an outcome. -/
def outState (o : Outcome State Fault Refusal) (s : State) : State := match o with | .next t => t | _ => s

/-- A KCMD (R303); a reserved bit is discarded. -/
def writeKcmd (x : BitVec 256) (s : State) : State :=
  let f : KcmdF := { ctx := x.extractLsb' 250 6, handle := x.extractLsb' 192 32, dlen := x.extractLsb' 128 64
                     data := x.extractLsb' 64 64, obj := x.extractLsb' 0 64 }
  match (x.extractLsb' 248 2).toNat with
  | 0 => outState (execKcmdLoad f s) s
  | 1 => outState (execKcmdPin f s) s
  | 2 => outState (execKcmdUnpin f s) s
  | _ => outState (execKcmdUnload f s) s

/-- A CCMD (R312). -/
def writeCcmd (who : Writer) (x : BitVec 256) (s : State) : State :=
  let f : CcmdF := { ctx := x.extractLsb' 250 6, kdie := x.getLsbD 245, kslot := x.extractLsb' 241 4
                     len := x.extractLsb' 128 64, img := x.extractLsb' 64 64, desc := x.extractLsb' 0 64 }
  outState (takeCcmd who (x.extractLsb' 246 4).toNat f s) s

/-- A PMOVE (R352): Ranger's in hardware mode. -/
def writePmove (who : Writer) (x : BitVec 256) (s : State) : State :=
  if who = .ranger ∧ !s.ctl.fnmode.getLsbD 1 then
    if s.ctl.pmres.st = .busy then refusalEvent s (x.extractLsb' 250 6) 0x43 0x160 else startMove s x
  else outState (execPmove x s) s

/-- What a complete write of a staged register does. -/
def commitStaged (who : Writer) (off x : Nat) (s : State) : State :=
  let w := BitVec.ofNat 64 x
  match off with
  | 0x20 => outState (execAttreq who (BitVec.ofNat 256 x) s) s
  | 0x50 => outState ((if who = .ranger then execRangerStopRequest else execGstop) (BitVec.ofNat 128 x) s) s
  | 0x60 => writeKcmd (BitVec.ofNat 256 x) s
  | 0xC0 => writeCcmd who (BitVec.ofNat 256 x) s
  | 0x140 => outState (execPinv (BitVec.ofNat 128 x) s) s
  | 0x160 => writePmove who (BitVec.ofNat 256 x) s
  | 0x1C8 => runBankcmd s (w.extractLsb' 62 2).toNat (w.extractLsb' 0 32) (w.extractLsb' 32 30)
  | _ =>
    if off < 0x30800 then
      outState (execKeySlotWrite who (decide (0x30400 ≤ off)) (BitVec.ofNat 4 (off % 1024 / 64)) (BitVec.ofNat 512 x) s) s
    else outState (execPeerTableWrite who (BitVec.ofNat 8 ((off - 0xD1000) / 32)) (BitVec.ofNat 256 x) s) s

/-- The staged registers that take writes from the physical function alone: ATTREQ, CCMD, the key slots, the peer table (R312, R409, R417). -/
def pfStaged (off : Nat) : Bool := off == 0x20 || off == 0xC0 || decide (0x30000 ≤ off)

/-- A write of part of a staged register; one from a writer that the register does not take leaves nothing behind. -/
def writeStaged (who : Writer) (r : Nat × Nat) (off : Nat) (data : List Byte) (s : State) : State :=
  if who ≠ .pf ∧ pfStaged r.1 then s else
  let s1 := stage s off data
  if off + data.length = r.1 + r.2 then commitStaged who r.1 (stagedNat s1 r.1 r.2 (stagedOld s r.1)) (unstage s1 r.1 r.2) else s1

/-! ## Bind records (R266, R267) -/

/-- A write to part of a bind record. One that reaches the last byte arms the record or withdraws it, with the bytes as they then
stand. Other pieces are kept but for reserved bits (R7, R8); those of an armed record, which was checked when V was set, have no effect
on dispatch (log entry 23). -/
def writeRecord (who : Writer) (off : Nat) (data : List Byte) (s : State) : State :=
  let x : SlotNo := BitVec.ofNat 9 ((off - 0x10000) / 32)
  let old : BitVec 256 := shownRecord s x
  let new : BitVec 256 := BitVec.ofNat 256 (leNat (setBytes (leBytes 32 old.toNat) (off % 32) data))
  if off % 32 + data.length = 32 then
    if new.getLsbD 255 then armRecord who x new s else withdrawRecord who x new s
  else if !mayBind s who then s
  else if old.getLsbD 255 then { s with slotEdits := tabSet s.slotEdits x.toNat (new &&& (recordBits ||| BitVec.twoPow 256 255)) }
  else storeRecord s x new

/-! ## Registers that are written whole or by halves (R396) -/

/-- The 8-byte value after a write of 4 or 8 bytes. -/
def mergeWord (old off : Nat) (data : List Byte) : Word := BitVec.ofNat 64 (leNat (setBytes (leBytes 8 old) (off % 8) data))

/-- The bits a write sets to 1 in the 8-byte register it lies in. -/
def writtenOnes (off : Nat) (data : List Byte) : Word := mergeWord 0 off data

/-- LCMD of a port (R400); a write that leaves its low half alone writes reserved bits only. -/
def writeLcmd (off : Nat) (data : List Byte) (s : State) : State :=
  let p := BitVec.ofNat 4 ((off - 0x400) / 64)
  match (writtenOnes off data).toNat % 4 with | 1 => trainPort s p | 2 => downPort s p | 3 => retirePort s p | _ => s

def modWindow (s : State) (i : Nat) (f : EventWindow → EventWindow) : State :=
  if h : i < 8 then { s with windows := s.windows.set i (f (s.windows[i]'h)) h } else s

/-- FRESP (R345): its fields lie in the low half, and tag 0, which a write of the upper half alone gives, is never outstanding. -/
def writeFresp (w : Word) (s : State) : State :=
  match (w.extractLsb' 16 2).toNat with
  | 0 => outState (execFrespRetry (w.extractLsb' 0 16) (w.extractLsb' 18 46) s) s
  | 1 => outState (execFrespKill (w.extractLsb' 0 16) (w.extractLsb' 18 46) s) s
  | _ => s

/-- A register below 0x1800, with the value `v` after the write and `ones`, the 1 bits written, which clear BINDERR's VLD (R7);
read-only registers ignore the write. The event windows are the host's (R415). -/
def writeLow (who : Writer) (off : Nat) (v ones : Word) (s : State) : State :=
  match off with
  | 0x0010 => outState (execClamplimWrite who v s) s
  | 0x0040 => if who = .pf then { s with ctl := { s.ctl with fnmode := v.setWidth 5 } } else s
  | 0x0048 => if ones.getLsbD 8 then { s with ctl := { s.ctl with binderr := s.ctl.binderr &&& ~~~(0x100 : Word) } } else s
  | 0x0100 => outState (execFrcfgWrite v s) s
  | 0x0110 => outState (execFrheadWrite v s) s
  | 0x0118 => writeFresp v s
  | 0x01D0 => outState (execBankcfgWrite v s) s
  | 0x0200 => if who = .pf then outState (execElcfgWrite v s) s else s
  | 0x0210 => if who = .pf then { s with ctl := { s.ctl with elhead := v } } else s
  | 0x0708 => outState (execNodeidWrite who v s) s
  | _ =>
    if 0x300 ≤ off ∧ off < 0x380 then outState (execVfiWrite (BitVec.ofNat 4 ((off - 0x300) / 8)) v s) s
    else if 0x380 ≤ off ∧ off < 0x400 then
      if who ≠ .pf then s
      else if off % 16 = 0 then
        modWindow s ((off - 0x380) / 16) fun w => { w with base := v &&& 0xFFFFFFFFFFFFF000, v := v.getLsbD 0 }
      else modWindow s ((off - 0x380) / 16) fun w => { w with npages := v.extractLsb' 32 32 }
    else if 0x800 ≤ off ∧ off < 0x1800 then { s with routes := tabSet s.routes ((off - 0x800) / 8) (v.setWidth 12) }
    else s

/-- The bytes of an ownership table, one entry at a time. -/
def writeOwn (who : Writer) (table : OwnTable) (i : Nat) (data : List Byte) (s : State) : State :=
  match data with
  | [] => s
  | b :: r => writeOwn who table (i + 1) r (outState (execOwnershipTableWrite who table (BitVec.ofNat 11 i) b s) s)

/-- A write to a function's MSI-X table (R397); unmasking a pending vector delivers it. -/
def writeMsix (fn off : Nat) (data : List Byte) (s : State) : State :=
  let v := BitVec.ofNat 11 (off / 16)
  if 2048 ≤ off / 16 ∨ !ownsVector s fn v then s
  else
    let new : BitVec 128 := BitVec.ofNat 128 (leNat (setBytes (leBytes 16 (msixEntry s fn v).toNat) (off % 16) data))
    let s1 := { s with msix := tabSet s.msix (fn * 2048 + off / 16) new }
    if s1.pba.contains v ∧ !new.getLsbD 96 then
      sendSignal { s1 with pba := s1.pba.filter fun x => x != v } fn v
    else s1

/-- An aligned write of 4 or 8 bytes to a register that is not staged. -/
def writePlain (who : Writer) (off : Nat) (data : List Byte) (s : State) : State :=
  if 0x400 ≤ off ∧ off < 0x700 ∧ off % 64 / 8 = 1 then writeLcmd off data s
  else if off < 0x1800 then writeLow who (off / 8 * 8) (mergeWord (ctlWord s (off / 8 * 8)) off data) (writtenOnes off data) s
  else if 0x20000 ≤ off ∧ off < 0x21000 then
    if off % 64 / 8 = 1 then
      let c := BitVec.ofNat 6 ((off - 0x20000) / 64)
      modCtx s c fun x => { x with cevhead := mergeWord x.cevhead.toNat off data }
    else s
  else if 0xD0000 ≤ off ∧ off < 0xD0400 then writeOwn who .qown (off - 0xD0000) data s
  else if 0xD0400 ≤ off ∧ off < 0xD0C00 then writeOwn who .vown (off - 0xD0400) data s
  else if 0xD0C00 ≤ off ∧ off < 0xD0C40 then writeOwn who .ctxown (off - 0xD0C00) data s
  else if 0xE0000 ≤ off ∧ off < 0xE8000 then writeMsix 0 (off - 0xE0000) data s
  else s

/-- An aligned access of 4 or 8 bytes. -/
def plainAccess (off n : Nat) : Bool := (n == 4 || n == 8) && off % n == 0

/-- Whether a register of several words takes a write: of 4 or 8 bytes, of all of it, of its bytes 0–23 before the rest (R267, R303,
R409), of ATTREQ's nonce (R417). A key slot is written whole (R326). -/
def wideAccess (r : Nat × Nat) (off n : Nat) : Bool :=
  (off == r.1 && n == r.2) ||
  (r.2 != 64 && plainAccess off n) || (r.2 == 32 && off == r.1 && n == 24) || (r.1 == 0x20 && off == r.1 && n == 16)

/-- A write to the control window (R396): aligned accesses of 4 and 8 bytes, and the wider ones of registers and records of several
words. -/
def writeControl (who : Writer) (off : Nat) (data : List Byte) (s : State) : State :=
  let n := data.length
  match stagedAt off with
  | some r => if wideAccess r off n then writeStaged who r off data s else unsupported s
  | none =>
    if 0x10000 ≤ off ∧ off < 0x14000 then
      if wideAccess (off / 32 * 32, 32) off n then writeRecord who off data s else unsupported s
    else if plainAccess off n then writePlain who off data s
    else unsupported s

/-! ## The queue window (R280, R396) -/

/-- A register of a queue's page; reserved bits of QCFG and of QCMD are discarded, so a write to QCMD's upper half commands nothing,
and QERR is cleared by the 1 written to it (R7, R8). -/
def writeQueue (who : Writer) (q : BitVec 10) (off : Nat) (data : List Byte) (s : State) : State :=
  let v := mergeWord (queueWord (getQueue s q) (off / 8 * 8)) off data
  match off / 8 * 8 with
  | 0x800 => modQueue s q fun x => { x with qcfg := v &&& ~~~(0x7FFFFF00 : Word) }
  | 0x808 =>
    if off % 8 ≠ 0 then s else
    match (v.extractLsb' 0 3).toNat with
    | 1 => outState (execQcmdBind q s) s
    | 2 => outState (execQcmdHalt q s) s
    | 3 => outState (execQcmdResume q s) s
    | 4 => outState (execQcmdDrain q s) s
    | 5 => outState (execQcmdUnbind q s) s
    | _ => outState (commandRefused (afterArrivals s q) q) s
  | 0x820 => modQueue s q fun x => { x with qcplb := v }
  | 0x828 => outState (execCheadWrite q v s) s
  | 0x830 => if (writtenOnes off data).getLsbD 8 then modQueue s q fun x => { x with qerr := x.qerr &&& ~~~(0x100 : Word) } else s
  | _ => if off < 0x40 then outState (execLrecWrite who q (BitVec.ofNat 12 off) data s) s else s

/-- A write to the queue window: dropped unless the writer owns the queue (R396). -/
def writeQueueWindow (who : Writer) (off : Nat) (data : List Byte) (s : State) : State :=
  let q := BitVec.ofNat 10 (off / 4096)
  let o := off % 4096
  let n := data.length
  if !ownsQueue s who q then s
  else if o < 0x800 ∨ plainAccess o n then writeQueue who q o data s else unsupported s

/-! ## CONTROL_REGISTER_WRITE -/

/-- CONTROL_REGISTER_WRITE (R7, R8, R23, R396, R411): a write to the control window, or with bit 22 of `off` set to the
queue window. A virtual function's control window holds its MSI-X table alone. Before READY BOOTST and ATTST alone answer, and ignore the write. -/
def execControlRegisterWrite (who : Writer) (off : BitVec 23) (data : List Byte) (s : State) : Outcome State Fault Refusal :=
  let o := off.toNat % 2 ^ 22
  if !s.isReady then
    .next (if off.getLsbD 22 || (!(who matches .vf _) && decide (o < 16) && plainAccess o data.length) then s else unsupported s)
  else if off.getLsbD 22 then .next (writeQueueWindow who o data s)
  else
    match who with
    | .vf n => if o < 0x8000 ∧ plainAccess o data.length then .next (writeMsix n.toNat o data s) else .next (unsupported s)
    | _ => if o < 2 ^ 20 then .next (writeControl who o data s) else .next (unsupported s)

/-- The 8 aligned bytes at an offset of a function's control window, or of the queue window (R7, R8, R396, R411); `none` is Unsupported
Request. -/
def windowWord (who : Writer) (queues : Bool) (o : Nat) (s : State) : Option Nat :=
  if !s.isReady then (if queues ∨ (who matches .vf _) ∨ 16 ≤ o then none else some (ctlWord s o))
  else if queues then
    let q := BitVec.ofNat 10 (o / 4096)
    some (if ownsQueue s who q then queueWord (getQueue s q) (o % 4096) else 0)
  else
    match who with
    | .vf n => some (if o < 0x8000 then msixWord s n.toNat o false else if o < 0x10000 then msixWord s n.toNat (o - 0x8000) true else 0)
    | _ => if o < 2 ^ 20 then some (ctlWord s o) else none

/-- What a read of `n` bytes gives: aligned ones of 4 and 8 bytes are answered (R396). -/
def controlRead (who : Writer) (off : BitVec 23) (n : Nat) (s : State) : Option Word :=
  let o := off.toNat % 2 ^ 22
  if plainAccess o n then
    (windowWord who (off.getLsbD 22) (o / 8 * 8) s).map fun x => BitVec.ofNat 64 (bitsOf x (o % 8 * 8) (8 * n))
  else none

end Sys2Proof.Machine
end

