-- ==== Sys2Proof/Machine/ScalarFp.lean ====
section
/-!
DEFINITION. Scalar floating-point instructions (R91, R92).
-/
namespace Sys2Proof.Machine

open Host (Outcome)

/-- The FP32 value in bits [31:0] of a register; subnormals are kept (R35, R91). -/
def fpS (s : State) (r : BitVec 6) : Fp := fpRead fp32 false ((getS s r).toNat % 2 ^ 32)

/-- Any W but 01 traps TYPE with TVAL = W (R91). -/
def fpGuard (insn : Word) (w : Width) (s : State) (v : Word) (sd : BitVec 6) : Outcome State Fault Refusal :=
  if w = .w32 then .next (writeBack s sd v) else .next (trapType s insn (Width.code w))

/-- FADD (R91). -/
def execFadd (f : S3) (s : State) : Outcome State Fault Refusal :=
  fpGuard (wordOf (.fadd f)) f.w s (BitVec.ofNat 64 (fpAdd fp32 false (fpS s f.sa) (fpS s f.sb)).bits) f.sd
/-- FSUB (R91). -/
def execFsub (f : S3) (s : State) : Outcome State Fault Refusal :=
  fpGuard (wordOf (.fsub f)) f.w s (BitVec.ofNat 64 (fpAdd fp32 false (fpS s f.sa) (fpS s f.sb).neg).bits) f.sd
/-- FMUL (R91). -/
def execFmul (f : S3) (s : State) : Outcome State Fault Refusal :=
  fpGuard (wordOf (.fmul f)) f.w s (BitVec.ofNat 64 (fpMul fp32 false (fpS s f.sa) (fpS s f.sb)).bits) f.sd
/-- FMA (R91): sd is the addend. -/
def execFma (f : S3) (s : State) : Outcome State Fault Refusal :=
  fpGuard (wordOf (.fma f)) f.w s
    (BitVec.ofNat 64 (fpFma fp32 false (fpS s f.sd) (fpS s f.sa) (fpS s f.sb)).bits) f.sd
/-- FMIN (R91). -/
def execFmin (f : S3) (s : State) : Outcome State Fault Refusal :=
  fpGuard (wordOf (.fmin f)) f.w s
    (BitVec.ofNat 64 (fpMinMax fp32 false false (fpS s f.sa) (fpS s f.sb)).bits) f.sd
/-- FMAX (R91). -/
def execFmax (f : S3) (s : State) : Outcome State Fault Refusal :=
  fpGuard (wordOf (.fmax f)) f.w s
    (BitVec.ofNat 64 (fpMinMax fp32 false true (fpS s f.sa) (fpS s f.sb)).bits) f.sd

def boolWord (b : Bool) : Word := if b then 1 else 0

/-- Neither operand is a NaN. -/
def ordered (a b : Fp) : Bool := !a.isNaN && !b.isNaN

/-- FCMP.EQ (R91). -/
def execFcmpEq (f : S3) (s : State) : Outcome State Fault Refusal :=
  fpGuard (wordOf (.fcmpEq f)) f.w s (boolWord (fpEq (fpS s f.sa) (fpS s f.sb))) f.sd
/-- FCMP.LT (R91). -/
def execFcmpLt (f : S3) (s : State) : Outcome State Fault Refusal :=
  fpGuard (wordOf (.fcmpLt f)) f.w s
    (boolWord (ordered (fpS s f.sa) (fpS s f.sb) && fpLt (fpS s f.sa) (fpS s f.sb))) f.sd
/-- FCMP.LE (R91). -/
def execFcmpLe (f : S3) (s : State) : Outcome State Fault Refusal :=
  fpGuard (wordOf (.fcmpLe f)) f.w s
    (boolWord (ordered (fpS s f.sa) (fpS s f.sb) && !fpLt (fpS s f.sb) (fpS s f.sa))) f.sd
/-- FCMP.UN (R91). -/
def execFcmpUn (f : S3) (s : State) : Outcome State Fault Refusal :=
  fpGuard (wordOf (.fcmpUn f)) f.w s (boolWord (!ordered (fpS s f.sa) (fpS s f.sb))) f.sd

/-- FCVT.FI (R38, R92). -/
def execFcvtFi (f : S2) (s : State) : Outcome State Fault Refusal :=
  .next (writeBack s f.sd (signWrite (Width.bits f.w) (fpToInt true (Width.bits f.w) (fpS s f.sa)).1))
/-- FCVT.FN (R38, R92): the pattern of the unsigned result is sign-extended. -/
def execFcvtFn (f : S2) (s : State) : Outcome State Fault Refusal :=
  .next (writeBack s f.sd (signWrite (Width.bits f.w) (fpToInt false (Width.bits f.w) (fpS s f.sa)).1))
/-- FCVT.IF (R92). -/
def execFcvtIf (f : S2) (s : State) : Outcome State Fault Refusal :=
  .next (writeBack s f.sd (BitVec.ofNat 64
    (fpOfInt fp32 false (readInt true (Width.bits f.w) (getS s f.sa).toNat)).bits))
/-- FCVT.NF (R92). -/
def execFcvtNf (f : S2) (s : State) : Outcome State Fault Refusal :=
  .next (writeBack s f.sd (BitVec.ofNat 64
    (fpOfInt fp32 false (readInt false (Width.bits f.w) (getS s f.sa).toNat)).bits))

end Sys2Proof.Machine
end

