-- ==== Sys2Proof/Machine/System.lean ====
section
/-!
DEFINITION. System instructions: NOP, YIELD and EXIT (R99), SYSRD and SYSWR (R100), REGION and REGEND (R104), TRAP
and the returns from it (R384, R385).
-/
namespace Sys2Proof.Machine

open Host (Outcome)

/-- NOP (R99). -/
def execNop (s : State) : Outcome State Fault Refusal := .next (advance s)

/-- YIELD (R99): a resumable point. -/
def execYield (s : State) : Outcome State Fault Refusal := .next (resumable (advance s) s.me.slot)

/-! ## EXIT (R99) -/

/-- The instructions in flight that an EXIT of the handler abandons (R99). -/
def abandoned (s : State) : List Nat := if s.me.inHandler then (stuckFlights s s.me).map Flight.id else []

/-- An abandoned instruction counts as complete; its versions are freed. -/
def abandonFlight (b : Block) (id : Nat) : Block :=
  match findFlight b id with
  | none => b
  | some f =>
    let b1 := retireFlight b f
    let gone := fun (v : Nat) => f.dst == some v || f.dst2 == some v
    let names := b1.names.map fun n => match n with
      | some t => if t.cur.any gone then some { t with cur := none } else some t
      | none => none
    { b1 with names := names, versions := b1.versions.filter fun v => !gone v.id }

/-- EXIT waits for the element checks of the instructions that go on (R378). -/
def exitWaits (s : State) : Bool := let out := abandoned s; checksOpen s fun f => !out.contains f.id

/-- EXIT (R99). -/
def execExit (s : State) : Outcome State Fault Refusal :=
  if exitWaits s then .next s
  else
    let b := (abandoned s).foldl abandonFlight s.me
    .next { leaveLines s none with me := { b with st := .exiting, wait := .none, inHandler := false, trapped := none } }

/-! ## System registers (R72, R100) -/

/-- Whether lane work of an earlier MAP or REDUCE is outstanding (R100). -/
def laneWork (b : Block) : Bool :=
  b.flights.any fun f => f.st != .performed && (match f.ins with | .map _ => true | .reduce _ => true | _ => false)

def SysReg.waits (r : SysReg) : Bool := match r with | .lstat => true | .vtype => true | _ => false

/-- The value of a system register (R72, R101, R123, R148, R149, R190, R191, R380). -/
def sysRead (s : State) (r : SysReg) : Word :=
  let b := s.me
  match r with
  | .bid => b.bid
  | .gid => b.gidReg
  | .bndid => b.bndid
  | .lseq => b.lseq
  | .tags => b.tags
  | .ldq => BitVec.ofNat 64 (countOf b .ldq)
  | .stq => BitVec.ofNat 64 (countOf b .stq)
  | .cpq => BitVec.ofNat 64 (countOf b .cpq)
  | .opq => BitVec.ofNat 64 (countOf b .opq)
  | .lstat => b.lstat.setWidth 64
  | .vtype => b.vtype.setWidth 64
  | .capw => query s .capw
  | .capa => query s .capa
  | .capc => query s .capc
  | .capl => query s .capl
  | .caplg => query s .caplg
  | .capl2 => query s .capl2
  | .idx k => loopIndex b k.val
  | .tcause => b.trapRec.tcause
  | .tpc => b.trapRec.tpc
  | .tval => b.trapRec.tval
  | .tinsn => b.trapRec.tinsn
  | .tcoord => b.trapRec.tcoord
  | .tseq => b.trapRec.tseq
  | .elg k => b.trapRec.elg[k.val]'(k.isLt)

/-- SYSRD (R100). -/
def execSysrd (sd : BitVec 6) (r : SysReg) (s : State) : Outcome State Fault Refusal :=
  if SysReg.waits r && laneWork s.me then .next s else .next (writeBack s sd (sysRead s r))

/-- SYSWR LSTAT (R100, R190): ones clear. -/
def execSyswr (sa : BitVec 6) (s : State) : Outcome State Fault Refusal :=
  if laneWork s.me then .next s
  else .next (advance { s with me := { s.me with lstat := s.me.lstat &&& ~~~((getS s sa).setWidth 6) } })

/-! ## Regions (R104 to R106) -/

/-- An earlier instruction can still raise a handler cause (R378). -/
def regionWaits (s : State) : Bool := checksOpen s fun _ => true

/-- The index of a REGION word in the kernel's region table (R301). -/
def regionIndex (s : State) : Nat :=
  match getKernel s s.me.kernel with
  | some k =>
    match k.regions.findIdx? fun r => r.1 + k.tileBase.toNat == s.me.pc.toNat with
    | some i => i
    | none => 0xFFFFFFFF
  | none => 0xFFFFFFFF

/-- The cairn that a REGION records (R104). -/
def cairnOf (s : State) (mask : BitVec 32) : Cairn :=
  let b := s.me
  { pc := b.pc + 8, loops := b.loops, sregs := b.sregs, shapes := b.shapes, streams := b.streams, tags := b.tags,
    pendingTags := BitVec.ofNat 64 (((List.range 64).filter fun g => tagCount b (BitVec.ofNat 6 g) != 0).foldl
      (fun a g => a + 2 ^ g) 0),
    live := ((List.range 32).filter fun n => mask.getLsbD n).map fun n =>
      ⟨BitVec.ofNat 5 n, nameOf b (BitVec.ofNat 5 n)⟩,
    mark := b.nextId, readPos := b.channels.map fun c => (c.sender, c.readPos), region := regionIndex s }

/-- The pins and the taken messages of the last cairn are let go (R104, R274). -/
def dropHeldMessages (b : Block) : Block := { b with channels := b.channels.map fun c => { c with held := [] } }

/-- REGION (R104): the cairn is recorded, the region is clean, and a resumable point follows. In a context on its
last migration stop the block stops at the cairn (R106, R327). -/
def execRegion (mask : BitVec 32) (s : State) : Outcome State Fault Refusal :=
  if regionWaits s then .next s
  else
    let b := { dropHeldMessages s.me with cairn := cairnOf s mask, region := .clean, rollbacks := 0 }
    let s1 := advance { s with me := b }
    let s2 := { s1 with me := reap s1 s1.me }
    if (getCtx s2 s2.me.ctx).finalStop && !s2.me.inHandler then .next (startRollback s2 s2.me.slot .migration)
    else .next (resumable s2 s2.me.slot)

/-- REGEND (R104). -/
def execRegend (s : State) : Outcome State Fault Refusal :=
  if regionWaits s then .next s
  else
    let b := { dropHeldMessages s.me with cairn := { s.me.cairn with live := [] }, region := .outside }
    let s1 := advance { s with me := b }
    .next { s1 with me := reap s1 s1.me }

/-! ## Traps (R384, R385) -/

/-- TRAP (R384). -/
def execTrap (code : BitVec 16) (s : State) : Outcome State Fault Refusal :=
  .next (seqTrap s (wordOf (.trap code)) { cause := .trap, tval := code.setWidth 64 })

/-- ERET in handler mode (R385): it waits for the element checks of the handler's tile instructions (R378). -/
def returnFromTrap (s : State) (form : EretForm) : State :=
  if checksOpen s Flight.inHandler then s
  else
    let r := s.me.trapRec
    let elemv := r.tcause.getLsbD 8
    let form' := if form = .elem ∧ !elemv then .skip else form
    let b := { s.me with loops := s.me.savedLoops }
    match s.me.trapped with
    | none =>
      let pc := if form' = .plain then s.me.savedPc else s.me.savedPc + 8
      leaveHandler { s with me := { b with pc := pc } }
    | some id =>
      let s1 := { s with me := { b with pc := s.me.savedPc } }
      leaveHandler (if form' = .skip then skipFlight s1 id else { s1 with me := modFlight s1.me id fun f => resumeFlight f form' })

/-- The three forms of ERET (R385): outside handler mode they trap ILLEGAL. -/
def runEret (i : Instr) (form : EretForm) (s : State) : Outcome State Fault Refusal :=
  if s.me.inHandler then .next (returnFromTrap s form) else .next (seqTrap s (wordOf i) { cause := .illegal })

/-- ERET (R385). -/
def execEret (s : State) : Outcome State Fault Refusal := runEret .eret .plain s
/-- ERET.SKIP (R385). -/
def execEretSkip (s : State) : Outcome State Fault Refusal := runEret .eretSkip .skip s
/-- ERET.ELEM (R385). -/
def execEretElem (s : State) : Outcome State Fault Refusal := runEret .eretElem .elem s

end Sys2Proof.Machine
end

