-- ==== Sys2Proof/Machine/TileEvents.lean ====
section
/-!
DEFINITION. Events of the tile engines (R122, R139, R148, R172, R216, R250), and what their hardware does on its own:
prefetch (R145), translating and reading ahead (R49, R340), line holds (R250) and evictions (R232, R338).
-/
namespace Sys2Proof.Machine

open Host (Outcome)

/-! ## Completions -/

/-- A performed instruction of a block that waits to be counted complete. -/
def performed (s : State) (x : SlotNo) (id : Nat) : Option Flight :=
  match (getBlock s x).bind fun b => findFlight b id with
  | some f => if f.st = .performed then some f else none
  | none => none

def Instr.isTamo (i : Instr) : Bool := (Instr.tamoOp i).isSome

/-- Whether an instruction still awaits the answer to a read or an atomic beyond the package (R399, R406): a poisoned one is its
error (R388, R436). -/
def unanswered (s : State) (x : SlotNo) (f : Flight) : Bool :=
  s.requests.any fun r =>
    (match r.agent with | .group _ y fl => y == x && fl == some f.id | _ => false) && (!r.write || Instr.isTamo f.ins)

def Instr.isTcb (i : Instr) : Bool := match i with | .tcb _ => true | _ => false

/-- TILE_VERSION_DONE (R122): the version an instruction wrote is DONE, and its counter and tag fall (R148, R149). -/
def execTileVersionDone (x : SlotNo) (id : Nat) (s : State) : Outcome State Fault Refusal :=
  match performed s x id with
  | some f => if f.dst.isSome && !unanswered s x f then .next (settleBanks (completeFlight (switchTo s x) f)) else .next s
  | none => .next s

/-- STORE_COMPLETE (R148): the bytes an instruction wrote have reached their home slices. -/
def execStoreComplete (x : SlotNo) (id : Nat) (s : State) : Outcome State Fault Refusal :=
  match performed s x id with
  | some f => if f.dst.isNone && !Instr.isTcb f.ins && !unanswered s x f then .next (settleBanks (completeFlight (switchTo s x) f)) else .next s
  | none => .next s

/-- STRIP_BOUNDARY (R172): a lane-register bank that waits for this boundary retires at it (R368). -/
def execStripBoundary (s : State) : Outcome State Fault Refusal :=
  .next (settleBanks (stripBoundary (settleBanks s)))

/-- TRAIL_COMPILE_COMPLETE (R216): the oldest compile of an identity ends. -/
def execTrailCompileComplete (cluster : BitVec 5) (ctx : BitVec 6) (desc gen : Word) (s : State) :
    Outcome State Fault Refusal :=
  match (s.trails.filter fun t => t.cluster == cluster && t.ctx == ctx && t.desc == desc && t.gen == gen &&
      t.st != .resident).getLast? with
  | some t => let ws := trailWaiters s t.no; .next (ws.foldl (fun s w => settleStop s w.1) (compileDone s t))
  | none => .next s

/-- LINE_HOLD_EXPIRY (R250). -/
def execLineHoldExpiry (line : BitVec 46) (s : State) : Outcome State Fault Refusal :=
  .next { s with holds := s.holds.filter fun h => h.line != line.toNat }

/-! ## Codebook tables (R139) -/

/-- Marks the oldest table of a core that has been read as arrived. -/
def arriveFirst (l : List CbTable) (core : BitVec 8) : List CbTable :=
  match l with
  | [] => []
  | t :: r => if slotCore t.slot = core ∧ t.data.isSome ∧ !t.arrived then { t with arrived := true } :: r else t :: arriveFirst r core

/-- The block that holds the codebook ring of a core. -/
def ringHolder (s : State) (core : BitVec 8) : Option Block :=
  (allBlocks s).find? fun b => slotCore b.slot == core && b.cbClaim.isSome

/-- A TCB of the block whose turn it is all of whose tables have arrived. -/
def tcbDone (s : State) : Option Flight :=
  s.me.flights.find? fun f => Instr.isTcb f.ins && f.st == .performed &&
    !(s.cbs.any fun t => t.slot == s.me.slot && t.tcb == f.id && !t.arrived)

/-- CODEBOOK_TABLE_ARRIVAL (R139, R140): a TCB is complete with its last table; loads that waited go on. -/
def execCodebookTableArrival (core : BitVec 8) (s : State) : Outcome State Fault Refusal :=
  let s1 := { s with cbs := arriveFirst s.cbs core }
  match ringHolder s1 core with
  | some b =>
    let s2 := switchTo s1 b.slot
    match tcbDone s2 with
    | some f => .next (settleBanks (completeFlight s2 f))
    | none => .next (drain s2)
  | none => .next s1

/-! ## Prefetch (R145, R348) -/

/-- The next tile a stream may prefetch. -/
def nextPrefetch (x : Stream) : Option Nat :=
  let i := x.prefetched.foldl (fun a p => max a (p.index + 1)) x.consumed
  if i < x.count.toNat ∧ x.prefetched.length < x.depth.toNat then some i else none

/-- Whether a tile's contents fit beside the block's versions and prefetched tiles. -/
def prefetchFits (b : Block) (g : ShapeRec) : Bool :=
  let held := usedBytes b g.store
  let ahead := b.streams.toList.foldl (fun a w => a + if w.copy.store = g.store then w.prefetched.length * w.copy.size else 0) 0
  decide (g.size + held + ahead ≤ reservation b g.store)

/-- The pieces of the ranges, where every page translates, none is NS or beyond the package, and no line is held or poisoned. -/
def quietAccess (s : State) (rs : List (Nat × Nat)) : Option (List Seg × State) :=
  match accessPages s s.me rs .read .tile with
  | (.ok segs, s1) =>
    if segs.any (fun g => g.ns || regionOf g.pa != .hbm) || (segsStop s1 s1.me segs true).isSome then none else some (segs, s1)
  | (.stop _, _) => none

/-- The scale vector of an SP2 tile. -/
def quietScales (s : State) (g : ShapeRec) : Option (List (BitVec 16) × State) :=
  if g.type = 11 then
    let n := 2 * g.cols.toNat
    match quietAccess s [(g.scale.toNat, n)] with
    | some (segs, s1) =>
      let (bs, s2) := readVia s1 (slotDie s.me.slot) segs g.scale.toNat n
      some ((List.range g.cols.toNat).map fun c => BitVec.ofNat 16 (leNat ((bs.drop (2 * c)).take 2)), s2)
    | none => none
  else some ([], s)

/-- The elements of a tile in memory, read ahead. -/
def quietElems (s : State) (l : Layout) : Option (List Half × State) :=
  match quietAccess s ((List.range l.g.count).flatMap fun e => l.ranges 0 e) with
  | some (segs, s1) =>
    some ((List.range l.g.count).foldl (fun (p : List Half × State) e =>
      let r := loadElem p.2 (slotDie s.me.slot) l segs e
      (p.1 ++ [BitVec.ofNat 32 r.1], r.2)) ([], s1))
  | none => none

/-- Prefetches the next tile of a stream of the block whose turn it is. It never faults, touches no NS page and reads
nothing that an earlier store of the block has still to write, and it takes no line of a bank that is evacuated or of its target
(R365); layered and codebook operands are left alone. -/
def prefetchTile (s : State) (w : BitVec 3) : State :=
  let x := streamOf s.me w
  match nextPrefetch x with
  | none => s
  | some i =>
    let g := x.copy
    let a := wrap64 (x.base.toNat + i * x.stride.toInt)
    let l : Layout := { g := g, a := a, mt := g.memType }
    if g.memType = 16 ∨ g.memType = 12 ∨ !prefetchFits s.me g ∨
        (checkOperands g x.source.toNat a 0 false false g.type true).isSome ∨
        (s.me.flights.any fun f => f.st != .performed && Instr.writesMemory f.ins) then s
    else
      match quietScales s g with
      | none => s
      | some (sc, s1) =>
        match quietElems s1 l with
        | none => s
        | some (es, s2) =>
          let y := streamOf s2.me w
          { s2 with me := setStream s2.me w { y with prefetched := y.prefetched ++ [⟨i, es, sc, closedBanks s (slotCore s.me.slot) g.store⟩] } }

/-! ## Translating and reading ahead (R49, R340) -/

/-- The translations that a lane group of a core holds, over all instructions (R340). -/
def lanePins (s : State) (core : BitVec 8) (lg : Nat) : Nat :=
  natSum (((allBlocks s).filter fun b => slotCore b.slot == core).flatMap fun b =>
    b.flights.map fun f => (f.pins.filter fun p => p.1 == lg).length)

/-- A lane group of an instruction of the block whose turn it is translates its next page ahead of performing, while it holds fewer
than 32 (R340). A fault is left for the access. -/
def pinNext (s : State) (id lg : Nat) : State :=
  match findFlight s.me id with
  | none => s
  | some f =>
    if f.st ≠ .waiting ∨ 32 ≤ lanePins s (slotCore s.me.slot) lg then s
    else
      match (pageNeeds s f lg).bind fun l => l.find? fun x => !pinServes s.me f lg x with
      | none => s
      | some x =>
        match translate s (some (slotCore s.me.slot)) s.me.ctx x.1 x.2 .tile with
        | (.ok t, s1) => setFlight s1 { f with pins := f.pins ++ [(lg, t)] }
        | _ => s

/-- Reads the plane table of an instruction of the block whose turn it is ahead of its elements (R116), where nothing stops the read and
its checks pass. -/
def readTableAhead (s : State) (id : Nat) : State :=
  match findFlight s.me id with
  | none => s
  | some f =>
    if f.st = .waiting ∧ f.shape.memType = 16 ∧ f.planes = none ∧ settled s s.me (footprintsTo s s.me f.id) f.addr.toNat 64 then
      match fetchPlanes s f with
      | (.ok l, s1) => setFlight s1 { f with planes := some l }
      | _ => s
    else s

/-- Whether an instruction may read these bytes now, whatever its other bytes wait for (R125, R231, R235). -/
def fieldFree (s : State) (f : Flight) (x : Field) : Bool :=
  s.me.flights.all (fun g => !(g.memPending && decide (g.id < f.id)) || (!Instr.aqBit g.ins && !Instr.rlBit f.ins &&
    match footprint s s.me g with
    | some l => l.all fun u => !footsMeet s s.me.ctx u ⟨x.va, x.bytes, false⟩
    | none => false)) &&
  (!Instr.rlBit f.ins || (s.me.posted.filter fun p => decide (p.mark ≤ f.id)) == [])

/-- An instruction reads one field of an element ahead of the rest, where its page translates and its line is neither held nor
poisoned. -/
def readAhead (s : State) (f : Flight) (l : Layout) (lg : Nat) (x : Field) : State :=
  match accessPages s s.me [(x.va, x.bytes)] .read .tile (some f) with
  | (.ok segs, s1) =>
    if (match f.ins with | .tldff _ => segs.any Seg.ns | _ => false) then s
    else
      let f1 := { f with pins := addPins lg f.pins segs }
      match accessSegs (setFlight s1 f1) segs .read true (some f1) with
      | (.stop .wait, s2) => s2
      | (.stop _, _) => s
      | (.ok _, s2) =>
        let r := readField s2 (slotDie s2.me.slot) segs x
        if l.early.any fun y => y.is x then r.2 else setFlight r.2 { f1 with early := f1.early ++ [⟨x.va, x.bit, x.w, r.1⟩] }
  | _ => s

/-- The layout and the stream position of an element of a layered operand, with the lane group that reads it: an element of a TLD or
TLDFF that is still to be loaded, or an entry of the first or second sparse operand of an MMAS or MMSS. -/
def aheadAt (s : State) (f : Flight) (second : Bool) (e : Nat) : Option (Layout × Int × Nat) :=
  let elem := fun (n : Layout → Nat) => (peekLayout s s.me f).bind fun l =>
    if l.mt = 16 ∧ e < n l ∧ !performedAt f.lgs f.elg e ∧ !f.skips.contains e ∧ !second then some (l, elemOffset l.g e, lgOf f.lgs e) else none
  let entry := (sparseFoot s s.me (footprintsTo s s.me f.id) f second).bind fun x =>
    if x.2.1.valt = 16 ∧ e < x.2.2 then
      (peekTable s s.me.ctx x.2.1.desc.lp x.2.1.base).map fun planes => ((valueRanges x.2.1 x.2.2 planes f.early).1, (e : Int), 0)
    else none
  match f.ins with
  | .tld _ => elem fun l => l.g.count
  | .tldff _ => elem fun l => match f.first with | some n => n | none => ffLimit s l
  | .mmas _ => if second then none else entry
  | .mmss _ => entry
  | _ => none

/-- An instruction that waits reads plane `k` of one element of a layered operand (R49): another block may write the element before it
reads the others. -/
def readPlaneAhead (s : State) (id : Nat) (second : Bool) (e k : Nat) : State :=
  match findFlight s.me id with
  | none => s
  | some f =>
    match (if f.st = .waiting then aheadAt s f second e else none) with
    | none => s
    | some (l, p, lg) =>
      let x := l.planeField k p
      if k < l.readPlanes ∧ fieldFree s f x then readAhead s f l lg x else s

/-! ## Line holds -/

/-- A line goes into line-hold mode for a block that waits with a TAMO (R250). -/
def holdLine (s : State) (x : SlotNo) (line : Nat) : State :=
  match getBlock s x with
  | some b =>
    if (b.flights.any fun f => Instr.isTamo f.ins && f.st == .waiting) && !(s.holds.any fun h => h.line == line)
    then { s with holds := ⟨line, x⟩ :: s.holds } else s
  | none => s

def dropNth {α : Type} (l : List α) (k : Nat) : List α := l.take k ++ l.drop (k + 1)

end Sys2Proof.Machine
end

