-- ==== Sys2Proof/Machine/Dispatch.lean ====
section
/-!
DEFINITION. The dispatcher: one arm for every instruction and event.
-/
namespace Sys2Proof.Machine

open Host (Outcome)

/-- The meaning of an instruction or event. -/
def exec (i : Instr) (s : State) : Host.Outcome State Fault Refusal :=
  match i with
  | .add f => Sys2Proof.Machine.execAdd f s
  | .sub f => Sys2Proof.Machine.execSub f s
  | .mul f => Sys2Proof.Machine.execMul f s
  | .mulhs f => Sys2Proof.Machine.execMulhs f s
  | .mulhu f => Sys2Proof.Machine.execMulhu f s
  | .divs f => Sys2Proof.Machine.execDivs f s
  | .divu f => Sys2Proof.Machine.execDivu f s
  | .rems f => Sys2Proof.Machine.execRems f s
  | .remu f => Sys2Proof.Machine.execRemu f s
  | .and f => Sys2Proof.Machine.execAnd f s
  | .or f => Sys2Proof.Machine.execOr f s
  | .xor f => Sys2Proof.Machine.execXor f s
  | .andn f => Sys2Proof.Machine.execAndn f s
  | .shl f => Sys2Proof.Machine.execShl f s
  | .shrl f => Sys2Proof.Machine.execShrl f s
  | .shra f => Sys2Proof.Machine.execShra f s
  | .min f => Sys2Proof.Machine.execMin f s
  | .max f => Sys2Proof.Machine.execMax f s
  | .minu f => Sys2Proof.Machine.execMinu f s
  | .maxu f => Sys2Proof.Machine.execMaxu f s
  | .slt f => Sys2Proof.Machine.execSlt f s
  | .sltu f => Sys2Proof.Machine.execSltu f s
  | .sel f => Sys2Proof.Machine.execSel f s
  | .clz f => Sys2Proof.Machine.execClz f s
  | .ctz f => Sys2Proof.Machine.execCtz f s
  | .popc f => Sys2Proof.Machine.execPopc f s
  | .addImm f => Sys2Proof.Machine.execAddImm f s
  | .subImm f => Sys2Proof.Machine.execSubImm f s
  | .mulImm f => Sys2Proof.Machine.execMulImm f s
  | .mulhsImm f => Sys2Proof.Machine.execMulhsImm f s
  | .mulhuImm f => Sys2Proof.Machine.execMulhuImm f s
  | .divsImm f => Sys2Proof.Machine.execDivsImm f s
  | .divuImm f => Sys2Proof.Machine.execDivuImm f s
  | .remsImm f => Sys2Proof.Machine.execRemsImm f s
  | .remuImm f => Sys2Proof.Machine.execRemuImm f s
  | .andImm f => Sys2Proof.Machine.execAndImm f s
  | .orImm f => Sys2Proof.Machine.execOrImm f s
  | .xorImm f => Sys2Proof.Machine.execXorImm f s
  | .andnImm f => Sys2Proof.Machine.execAndnImm f s
  | .shlImm f => Sys2Proof.Machine.execShlImm f s
  | .shrlImm f => Sys2Proof.Machine.execShrlImm f s
  | .shraImm f => Sys2Proof.Machine.execShraImm f s
  | .minImm f => Sys2Proof.Machine.execMinImm f s
  | .maxImm f => Sys2Proof.Machine.execMaxImm f s
  | .minuImm f => Sys2Proof.Machine.execMinuImm f s
  | .maxuImm f => Sys2Proof.Machine.execMaxuImm f s
  | .sltImm f => Sys2Proof.Machine.execSltImm f s
  | .sltuImm f => Sys2Proof.Machine.execSltuImm f s
  | .selImm f => Sys2Proof.Machine.execSelImm f s
  | .fadd f => Sys2Proof.Machine.execFadd f s
  | .fsub f => Sys2Proof.Machine.execFsub f s
  | .fmul f => Sys2Proof.Machine.execFmul f s
  | .fma f => Sys2Proof.Machine.execFma f s
  | .fmin f => Sys2Proof.Machine.execFmin f s
  | .fmax f => Sys2Proof.Machine.execFmax f s
  | .fcmpEq f => Sys2Proof.Machine.execFcmpEq f s
  | .fcmpLt f => Sys2Proof.Machine.execFcmpLt f s
  | .fcmpLe f => Sys2Proof.Machine.execFcmpLe f s
  | .fcmpUn f => Sys2Proof.Machine.execFcmpUn f s
  | .fcvtFi f => Sys2Proof.Machine.execFcvtFi f s
  | .fcvtFn f => Sys2Proof.Machine.execFcvtFn f s
  | .fcvtIf f => Sys2Proof.Machine.execFcvtIf f s
  | .fcvtNf f => Sys2Proof.Machine.execFcvtNf f s
  | .sld f => Sys2Proof.Machine.execSld f s
  | .sldZ f => Sys2Proof.Machine.execSldZ f s
  | .sst f => Sys2Proof.Machine.execSst f s
  | .samoAdd f => Sys2Proof.Machine.execSamoAdd f s
  | .samoSwap f => Sys2Proof.Machine.execSamoSwap f s
  | .samoCas f => Sys2Proof.Machine.execSamoCas f s
  | .samoMin f => Sys2Proof.Machine.execSamoMin f s
  | .samoMax f => Sys2Proof.Machine.execSamoMax f s
  | .samoAnd f => Sys2Proof.Machine.execSamoAnd f s
  | .samoOr f => Sys2Proof.Machine.execSamoOr f s
  | .samoXor f => Sys2Proof.Machine.execSamoXor f s
  | .samoMinu f => Sys2Proof.Machine.execSamoMinu f s
  | .samoMaxu f => Sys2Proof.Machine.execSamoMaxu f s
  | .bCond f => Sys2Proof.Machine.execBCond f s
  | .j off => Sys2Proof.Machine.execJ off s
  | .call f => Sys2Proof.Machine.execCall f s
  | .ret sa => Sys2Proof.Machine.execRet sa s
  | .loop f => Sys2Proof.Machine.execLoop f s
  | .endl off => Sys2Proof.Machine.execEndl off s
  | .lbrk lv off => Sys2Proof.Machine.execLbrk lv off s
  | .movi f => Sys2Proof.Machine.execMovi f s
  | .movhi f => Sys2Proof.Machine.execMovhi f s
  | .nop => Sys2Proof.Machine.execNop s
  | .sysrd sd r => Sys2Proof.Machine.execSysrd sd r s
  | .syswr sa => Sys2Proof.Machine.execSyswr sa s
  | .yield => Sys2Proof.Machine.execYield s
  | .exit => Sys2Proof.Machine.execExit s
  | .region mask => Sys2Proof.Machine.execRegion mask s
  | .regend => Sys2Proof.Machine.execRegend s
  | .trap code => Sys2Proof.Machine.execTrap code s
  | .eret => Sys2Proof.Machine.execEret s
  | .eretSkip => Sys2Proof.Machine.execEretSkip s
  | .eretElem => Sys2Proof.Machine.execEretElem s
  | .hset f => Sys2Proof.Machine.execHset f s
  | .hget f => Sys2Proof.Machine.execHget f s
  | .tbind t h => Sys2Proof.Machine.execTbind t h s
  | .tdrop t => Sys2Proof.Machine.execTdrop t s
  | .tqry sa sel => Sys2Proof.Machine.execTqry sa sel s
  | .tld f => Sys2Proof.Machine.execTld f s
  | .tst f => Sys2Proof.Machine.execTst f s
  | .tldff f => Sys2Proof.Machine.execTldff f s
  | .tgth f => Sys2Proof.Machine.execTgth f s
  | .tgthFull f => Sys2Proof.Machine.execTgthFull f s
  | .tsct f => Sys2Proof.Machine.execTsct f s
  | .wbind f => Sys2Proof.Machine.execWbind f s
  | .tldw t w => Sys2Proof.Machine.execTldw t w s
  | .tcb f => Sys2Proof.Machine.execTcb f s
  | .topt f => Sys2Proof.Machine.execTopt f s
  | .bcopy f => Sys2Proof.Machine.execBcopy f s
  | .waitc f => Sys2Proof.Machine.execWaitc f s
  | .waittAll sa => Sys2Proof.Machine.execWaittAll sa s
  | .waittAny sa => Sys2Proof.Machine.execWaittAny sa s
  | .tagff sd sa => Sys2Proof.Machine.execTagff sd sa s
  | .tagclr sa => Sys2Proof.Machine.execTagclr sa s
  | .mma f => Sys2Proof.Machine.execMma f s
  | .mmv f => Sys2Proof.Machine.execMmv f s
  | .map f => Sys2Proof.Machine.execMap f s
  | .reduce f => Sys2Proof.Machine.execReduce f s
  | .tcvt td ta => Sys2Proof.Machine.execTcvt td ta s
  | .tfill td imm => Sys2Proof.Machine.execTfill td imm s
  | .tmov td ta => Sys2Proof.Machine.execTmov td ta s
  | .tscan f => Sys2Proof.Machine.execTscan f s
  | .mmas f => Sys2Proof.Machine.execMmas f s
  | .mmss f => Sys2Proof.Machine.execMmss f s
  | .tpat sa => Sys2Proof.Machine.execTpat sa s
  | .tinv sa => Sys2Proof.Machine.execTinv sa s
  | .tdens t sa => Sys2Proof.Machine.execTdens t sa s
  | .acqX sa => Sys2Proof.Machine.execAcqX sa s
  | .acqS sa => Sys2Proof.Machine.execAcqS sa s
  | .rel sa => Sys2Proof.Machine.execRel sa s
  | .bind f => Sys2Proof.Machine.execBind f s
  | .unbind sd sa => Sys2Proof.Machine.execUnbind sd sa s
  | .fence scope => Sys2Proof.Machine.execFence scope s
  | .tamoAdd f => Sys2Proof.Machine.execTamoAdd f s
  | .tamoMin f => Sys2Proof.Machine.execTamoMin f s
  | .tamoMax f => Sys2Proof.Machine.execTamoMax f s
  | .tamoAnd f => Sys2Proof.Machine.execTamoAnd f s
  | .tamoOr f => Sys2Proof.Machine.execTamoOr f s
  | .tamoXor f => Sys2Proof.Machine.execTamoXor f s
  | .tamoSwap f => Sys2Proof.Machine.execTamoSwap f s
  | .tglk f => Sys2Proof.Machine.execTglk f s
  | .tscc f => Sys2Proof.Machine.execTscc f s
  | .twaitvEq f => Sys2Proof.Machine.execTwaitvEq f s
  | .twaitvNe f => Sys2Proof.Machine.execTwaitvNe f s
  | .twaitvLt f => Sys2Proof.Machine.execTwaitvLt f s
  | .twaitvGe f => Sys2Proof.Machine.execTwaitvGe f s
  | .twaitvLtu f => Sys2Proof.Machine.execTwaitvLtu f s
  | .twaitvGeu f => Sys2Proof.Machine.execTwaitvGeu f s
  | .bari b sa => Sys2Proof.Machine.execBari b sa s
  | .bara f => Sys2Proof.Machine.execBara f s
  | .barw f => Sys2Proof.Machine.execBarw f s
  | .tsend t sa => Sys2Proof.Machine.execTsend t sa s
  | .trecv t sa => Sys2Proof.Machine.execTrecv t sa s
  | .launch sd sa sb => Sys2Proof.Machine.execLaunch sd sa sb s
  | .qput f => Sys2Proof.Machine.execQput f s
  | .qget f => Sys2Proof.Machine.execQget f s
  | .vadd f => Sys2Proof.Machine.execVadd f s
  | .vsub f => Sys2Proof.Machine.execVsub f s
  | .vmul f => Sys2Proof.Machine.execVmul f s
  | .vmulh f => Sys2Proof.Machine.execVmulh f s
  | .vwmac f => Sys2Proof.Machine.execVwmac f s
  | .vmin f => Sys2Proof.Machine.execVmin f s
  | .vmax f => Sys2Proof.Machine.execVmax f s
  | .vand f => Sys2Proof.Machine.execVand f s
  | .vor f => Sys2Proof.Machine.execVor f s
  | .vxor f => Sys2Proof.Machine.execVxor f s
  | .vshl f => Sys2Proof.Machine.execVshl f s
  | .vshr f => Sys2Proof.Machine.execVshr f s
  | .vsra f => Sys2Proof.Machine.execVsra f s
  | .vnshr f => Sys2Proof.Machine.execVnshr f s
  | .vabs f => Sys2Proof.Machine.execVabs f s
  | .vfadd f => Sys2Proof.Machine.execVfadd f s
  | .vfsub f => Sys2Proof.Machine.execVfsub f s
  | .vfmul f => Sys2Proof.Machine.execVfmul f s
  | .vfma f => Sys2Proof.Machine.execVfma f s
  | .vfmin f => Sys2Proof.Machine.execVfmin f s
  | .vfmax f => Sys2Proof.Machine.execVfmax f s
  | .vrcp f => Sys2Proof.Machine.execVrcp f s
  | .vrsq f => Sys2Proof.Machine.execVrsq f s
  | .vexp2 f => Sys2Proof.Machine.execVexp2 f s
  | .vlog2 f => Sys2Proof.Machine.execVlog2 f s
  | .vfcls f => Sys2Proof.Machine.execVfcls f s
  | .vcvt f => Sys2Proof.Machine.execVcvt f s
  | .vcmpEq f => Sys2Proof.Machine.execVcmpEq f s
  | .vcmpNe f => Sys2Proof.Machine.execVcmpNe f s
  | .vcmpLt f => Sys2Proof.Machine.execVcmpLt f s
  | .vcmpGe f => Sys2Proof.Machine.execVcmpGe f s
  | .vcmpLe f => Sys2Proof.Machine.execVcmpLe f s
  | .vcmpGt f => Sys2Proof.Machine.execVcmpGt f s
  | .pand f => Sys2Proof.Machine.execPand f s
  | .por f => Sys2Proof.Machine.execPor f s
  | .pxor f => Sys2Proof.Machine.execPxor f s
  | .pnot f => Sys2Proof.Machine.execPnot f s
  | .vsel f => Sys2Proof.Machine.execVsel f s
  | .vmov f => Sys2Proof.Machine.execVmov f s
  | .vidx vd guard => Sys2Proof.Machine.execVidx vd guard s
  | .vperm f => Sys2Proof.Machine.execVperm f s
  | .vconf f => Sys2Proof.Machine.execVconf f s
  | .vcomp f => Sys2Proof.Machine.execVcomp f s
  | .vcfg f => Sys2Proof.Machine.execVcfg f s
  | .vret va => Sys2Proof.Machine.execVret va s
  | .vnop => Sys2Proof.Machine.execVnop s
  | .emulatorPerform slot writes => Sys2Proof.Machine.execEmulatorPerform slot writes s
  | .emulatorDecline slot => Sys2Proof.Machine.execEmulatorDecline slot s
  | .rollbackRestoreComplete slot => Sys2Proof.Machine.execRollbackRestoreComplete slot s
  | .gangStart g => Sys2Proof.Machine.execGangStart g s
  | .bindRecordArm slot record => Sys2Proof.Machine.execBindRecordArm slot record s
  | .bindRecordWithdraw slot => Sys2Proof.Machine.execBindRecordWithdraw slot s
  | .gstop word => Sys2Proof.Machine.execGstop word s
  | .rangerStopRequest word => Sys2Proof.Machine.execRangerStopRequest word s
  | .gracePeriodExpiry slot => Sys2Proof.Machine.execGracePeriodExpiry slot s
  | .nonYieldingReport slot => Sys2Proof.Machine.execNonYieldingReport slot s
  | .blockDrainComplete slot => Sys2Proof.Machine.execBlockDrainComplete slot s
  | .tileVersionDone slot flight => Sys2Proof.Machine.execTileVersionDone slot flight s
  | .storeComplete slot flight => Sys2Proof.Machine.execStoreComplete slot flight s
  | .stripBoundary => Sys2Proof.Machine.execStripBoundary s
  | .codebookTableArrival core => Sys2Proof.Machine.execCodebookTableArrival core s
  | .laneFunctionFetchComplete core kernel offset ok => Sys2Proof.Machine.execLaneFunctionFetchComplete core kernel offset ok s
  | .icacheFill core kernel handler offset ok => Sys2Proof.Machine.execIcacheFill core kernel handler offset ok s
  | .trailCompileComplete cluster ctx desc gen => Sys2Proof.Machine.execTrailCompileComplete cluster ctx desc gen s
  | .barrierArrivalCounted slot b => Sys2Proof.Machine.execBarrierArrivalCounted slot b s
  | .twaitvPoll slot => Sys2Proof.Machine.execTwaitvPoll slot s
  | .twaitvLimitExpiry slot => Sys2Proof.Machine.execTwaitvLimitExpiry slot s
  | .qtimeout slot => Sys2Proof.Machine.execQtimeout slot s
  | .lineHoldExpiry line => Sys2Proof.Machine.execLineHoldExpiry line s
  | .lrecWrite who q off data => Sys2Proof.Machine.execLrecWrite who q off data s
  | .launchAccept q => Sys2Proof.Machine.execLaunchAccept q s
  | .qcmdBind q => Sys2Proof.Machine.execQcmdBind q s
  | .qcmdHalt q => Sys2Proof.Machine.execQcmdHalt q s
  | .qcmdResume q => Sys2Proof.Machine.execQcmdResume q s
  | .qcmdDrain q => Sys2Proof.Machine.execQcmdDrain q s
  | .qcmdUnbind q => Sys2Proof.Machine.execQcmdUnbind q s
  | .launchEligible q seq => Sys2Proof.Machine.execLaunchEligible q seq s
  | .launchOffer q => Sys2Proof.Machine.execLaunchOffer q s
  | .launchComplete q seq => Sys2Proof.Machine.execLaunchComplete q seq s
  | .completionRecordWrite q => Sys2Proof.Machine.execCompletionRecordWrite q s
  | .cheadWrite q v => Sys2Proof.Machine.execCheadWrite q v s
  | .kcmdLoad f => Sys2Proof.Machine.execKcmdLoad f s
  | .kcmdPin f => Sys2Proof.Machine.execKcmdPin f s
  | .kcmdUnpin f => Sys2Proof.Machine.execKcmdUnpin f s
  | .kcmdUnload f => Sys2Proof.Machine.execKcmdUnload f s
  | .kernelLoadComplete => Sys2Proof.Machine.execKernelLoadComplete s
  | .kernelEvict handle => Sys2Proof.Machine.execKernelEvict handle s
  | .kernelReloadComplete handle => Sys2Proof.Machine.execKernelReloadComplete handle s
  | .ccmdCreate who f => Sys2Proof.Machine.execCcmdCreate who f s
  | .ccmdActivate who f => Sys2Proof.Machine.execCcmdActivate who f s
  | .ccmdSuspend who f => Sys2Proof.Machine.execCcmdSuspend who f s
  | .ccmdRestore who f => Sys2Proof.Machine.execCcmdRestore who f s
  | .ccmdMigrateOut who f => Sys2Proof.Machine.execCcmdMigrateOut who f s
  | .ccmdMigrateIn who f => Sys2Proof.Machine.execCcmdMigrateIn who f s
  | .ccmdStopmig who f => Sys2Proof.Machine.execCcmdStopmig who f s
  | .ccmdDestroy who f => Sys2Proof.Machine.execCcmdDestroy who f s
  | .ccmdFault who f => Sys2Proof.Machine.execCcmdFault who f s
  | .suspendImageWritten ctx len => Sys2Proof.Machine.execSuspendImageWritten ctx len s
  | .restoreComplete ctx => Sys2Proof.Machine.execRestoreComplete ctx s
  | .contextDrainComplete ctx => Sys2Proof.Machine.execContextDrainComplete ctx s
  | .precopyRoundEnd ctx => Sys2Proof.Machine.execPrecopyRoundEnd ctx s
  | .migrationStopTimeout ctx => Sys2Proof.Machine.execMigrationStopTimeout ctx s
  | .targetEndAck ctx => Sys2Proof.Machine.execTargetEndAck ctx s
  | .decampMessageReceive ctx counter authentic frame body => Sys2Proof.Machine.execDecampMessageReceive ctx counter authentic frame body s
  | .keySlotWrite who die slot data => Sys2Proof.Machine.execKeySlotWrite who die slot data s
  | .pinv word => Sys2Proof.Machine.execPinv word s
  | .invalidationComplete => Sys2Proof.Machine.execInvalidationComplete s
  | .frespRetry ftag rsv => Sys2Proof.Machine.execFrespRetry ftag rsv s
  | .frespKill ftag rsv => Sys2Proof.Machine.execFrespKill ftag rsv s
  | .frcfgWrite v => Sys2Proof.Machine.execFrcfgWrite v s
  | .frheadWrite v => Sys2Proof.Machine.execFrheadWrite v s
  | .pmove word => Sys2Proof.Machine.execPmove word s
  | .pageMovePassEnd => Sys2Proof.Machine.execPageMovePassEnd s
  | .pageMoveSwitch => Sys2Proof.Machine.execPageMoveSwitch s
  | .frozenHoldTimeout slot => Sys2Proof.Machine.execFrozenHoldTimeout slot s
  | .correctableError bank => Sys2Proof.Machine.execCorrectableError bank s
  | .uncorrectableError bank site => Sys2Proof.Machine.execUncorrectableError bank site s
  | .bankWindowEnd => Sys2Proof.Machine.execBankWindowEnd s
  | .bankcfgWrite v => Sys2Proof.Machine.execBankcfgWrite v s
  | .bankcmdRetire bank rsv => Sys2Proof.Machine.execBankcmdRetire bank rsv s
  | .bankcmdOffline bank rsv => Sys2Proof.Machine.execBankcmdOffline bank rsv s
  | .targetBankTimeout bank => Sys2Proof.Machine.execTargetBankTimeout bank s
  | .bankCopyLine bank => Sys2Proof.Machine.execBankCopyLine bank s
  | .sliceDrainLine bank => Sys2Proof.Machine.execSliceDrainLine bank s
  | .elcfgWrite v => Sys2Proof.Machine.execElcfgWrite v s
  | .lcmdTrain port => Sys2Proof.Machine.execLcmdTrain port s
  | .lcmdDown port => Sys2Proof.Machine.execLcmdDown port s
  | .lcmdRetire port => Sys2Proof.Machine.execLcmdRetire port s
  | .linkTrainingComplete port lanes pnode => Sys2Proof.Machine.execLinkTrainingComplete port lanes pnode s
  | .linkTrainingTimeout port => Sys2Proof.Machine.execLinkTrainingTimeout port s
  | .flitReceive port flit => Sys2Proof.Machine.execFlitReceive port flit s
  | .replayTimeout port => Sys2Proof.Machine.execReplayTimeout port s
  | .lervonRequestReceive port msg => Sys2Proof.Machine.execLervonRequestReceive port msg s
  | .lervonResponseReceive port msg => Sys2Proof.Machine.execLervonResponseReceive port msg s
  | .lervonResponseTimeout tag => Sys2Proof.Machine.execLervonResponseTimeout tag s
  | .nodeidWrite who v => Sys2Proof.Machine.execNodeidWrite who v s
  | .ownershipTableWrite who table idx v => Sys2Proof.Machine.execOwnershipTableWrite who table idx v s
  | .peerTableWrite who idx v => Sys2Proof.Machine.execPeerTableWrite who idx v s
  | .uePacketReceive port ctx p => Sys2Proof.Machine.execUePacketReceive port ctx p s
  | .hostApertureRead who addr len => Sys2Proof.Machine.execHostApertureRead who addr len s
  | .hostApertureWrite who addr data => Sys2Proof.Machine.execHostApertureWrite who addr data s
  | .hostAtomicop who op bytes addr a b => Sys2Proof.Machine.execHostAtomicop who op bytes addr a b s
  | .pcieCompletionReceive req status => Sys2Proof.Machine.execPcieCompletionReceive req status s
  | .pcieCompletionTimeout req => Sys2Proof.Machine.execPcieCompletionTimeout req s
  | .attreq who data => Sys2Proof.Machine.execAttreq who data s
  | .attestReportComplete => Sys2Proof.Machine.execAttestReportComplete s
  | .clamplimWrite who v => Sys2Proof.Machine.execClamplimWrite who v s
  | .clampExcursion => Sys2Proof.Machine.execClampExcursion s
  | .vfiWrite island v => Sys2Proof.Machine.execVfiWrite island v s
  | .vfiChangeComplete island => Sys2Proof.Machine.execVfiChangeComplete island s
  | .controlRegisterWrite who off data => Sys2Proof.Machine.execControlRegisterWrite who off data s
  | .reset => Sys2Proof.Machine.execReset s
  | .bootVerifyComplete framing ecdsa lms svn fwver => Sys2Proof.Machine.execBootVerifyComplete framing ecdsa lms svn fwver s
  | .hbmTrainingComplete bad => Sys2Proof.Machine.execHbmTrainingComplete bad s
  | .d2dTrainingComplete ok => Sys2Proof.Machine.execD2dTrainingComplete ok s
  | .initComplete => Sys2Proof.Machine.execInitComplete s
  | .rangerHeartbeat => Sys2Proof.Machine.execRangerHeartbeat s
  | .rangerTakeover us => Sys2Proof.Machine.execRangerTakeover us s
  | .currentBackWithinLimit => Sys2Proof.Machine.execCurrentBackWithinLimit s
  | .thermalProtection island cur => Sys2Proof.Machine.execThermalProtection island cur s
  | .linkLost ctx => Sys2Proof.Machine.execLinkLost ctx s
  | .targetRefusal ctx => Sys2Proof.Machine.execTargetRefusal ctx s

end Sys2Proof.Machine
end

