-- ==== Sys2Proof/Machine/Schedule.lean ====
section
/-!
DEFINITION. Turns: fetching and issuing (R85, R96, R375 to R379, R389), the lane engine's next instruction (R169), what
the hardware does on its own, and the schedule that holds where no other is given (log entry 2).
-/
namespace Sys2Proof.Machine

open Host (Outcome)

/-! ## Issuing the next instruction of a block -/

/-- The instruction cache line that holds the word at the program counter. -/
def fetchLine (s : State) : Option IcacheLine :=
  let off := s.me.pc.toNat - (codeOf s).1.toNat
  s.icache.find? fun l => l.core == slotCore s.me.slot && l.kernel == s.me.kernel && l.handler == s.me.inHandler &&
    l.line == off / 64 && l.bad == some off

/-- Whether the arena copy of the word at the program counter has an error, and a fetch would read it. -/
def arenaBad (s : State) : Bool :=
  let off := s.me.pc.toNat - (codeOf s).1.toNat
  match getKernel s s.me.kernel with
  | some k => k.bad.contains (s.me.inHandler, off) &&
      !(s.icache.any fun l => l.core == slotCore s.me.slot && l.kernel == s.me.kernel && l.handler == s.me.inHandler &&
        l.line == off / 64 && l.bad != some off)
  | none => false

/-- UE_CODE of the word at the program counter (R389): its cached line goes, and where the error lies in the arena copy, that is rebuilt
before the rollback runs the block again. -/
def codeError (s : State) : State :=
  let s1 := { s with icache := s.icache.filter fun x => (fetchLine s).all fun l => x != l }
  errorEvent (if arenaBad s then rebuildArena s1 s.me.kernel else s1) s.me.slot .ueCode none

/-- Fetches, decodes and executes the word at the program counter (R375): UE_CODE first, then the decode traps. A block
that runs past its section traps ILLEGAL there (R96). -/
def fetchStep (s : State) : Outcome State Fault Refusal :=
  if (fetchLine s).isSome || arenaBad s then .next (codeError s)
  else
    match wordAt s s.me.pc with
    | none => .next (seqTrap s 0 { cause := .illegal, tval := s.me.pc })
    | some w =>
      match decodeSeq w with
      | .ok i => if awaitsLoad s.me i then .next s else exec i s
      | .error .illegal => .next (seqTrap s w { cause := .illegal })
      | .error .reservedField => .next (seqTrap s w { cause := .reservedField })
      | .error .undefFuture => .next (offerEmulator s w)

/-- Whether a trap of an issued instruction is to be taken before anything issues (R377). -/
def takesTrap (b : Block) : Bool := (handlerTrap b).isSome || ((heldTrap b).isSome && canTakeTrap b)

/-- Whether the instruction at the program counter may be tried: the block issues, or waits in a way that it tries
again itself. -/
def triesIssue (b : Block) : Bool :=
  (b.st.issues || b.st == .parked) && !b.atPoint &&
  match b.wait with | .none => true | .counters => true | .channel _ => true | .ring _ _ _ _ _ => true | _ => false

/-- One turn of the block whose turn it is: a trap that it owes, else its next instruction. While its issue window is full, nothing
issues (R85). -/
def issueTurn (s : State) : Outcome State Fault Refusal :=
  match s.me.due with
  | some t => .next (seqTrap { s with me := { s.me with due := none } } ((wordAt s s.me.pc).getD 0) t)
  | none =>
    if takesTrap s.me then .next (takeTrap s)
    else if !triesIssue s.me then .next s
    else
      match s.me.wait with
      | .ring pa _ _ _ _ => .next (serveAll s pa)
      | _ => if windowFull s s.me then .next s else fetchStep s

/-! ## The lane engine -/

/-- The lane engine whose turn it is executes the next lane instruction of its strip, or ends it. -/
def laneTurn (s : State) : Outcome State Fault Refusal :=
  match s.lane with
  | none => .next s
  | some j =>
    if j.strip.ret.isSome then exec .stripBoundary s
    else
      match j.strip.code with
      | [] => .next s
      | w :: _ =>
        match decodeLane w with
        | .ok i =>
          match exec i { s with lane := some (laneHurt j i) } with
          | .next t => .next { t with lane := t.lane.map (laneHeal (executed j.strip (laneGuard i)) i) }
          | o => o
        | .error _ => .next s

/-! ## Turns -/

/-- Whether an instruction is a system event: those have no word. -/
def isEvent (i : Instr) : Bool := match encode i with | .event => true | _ => false

/-- A waiting instruction performs as though one line were held for another block just now (R250). -/
def performPart (s : State) (id line : Nat) : State :=
  let h : LineHold := { line := line, slot := s.me.slot + 1 }
  let t := tryPerform { s with holds := h :: s.holds } id
  { t with holds := t.holds.erase h }

/-- Performs one turn. -/
def runTurn (s : State) (t : Turn) : Outcome State Fault Refusal :=
  match t with
  | .issue x d => issueTurn { switchTo s x with defer := d }
  | .perform x id => .next (settleStop (tryPerform (switchTo { s with defer := false } x) id) x)
  | .performPart x id line => .next (settleStop (performPart (switchTo { s with defer := false } x) id line) x)
  | .lane core => laneTurn (bringLane { s with defer := false } core)
  | .retire => .next (settleBanks s)
  | .grant pa => .next (grants s pa)
  | .store x => .next (settleStop (performPosted (switchTo s x)) x)
  | .event i => if isEvent i then exec i { s with defer := false } else .next s
  | .evictLine core line => .next (dropCache s core fun l => l == line)
  | .evictGuest die line => .next (dropGuests s die fun l => l == line)
  | .fillHome line => .next (fillHome s line)
  | .evictHome line => .next (evictHome s line)
  | .evictTlb k => .next { s with tlb := dropNth s.tlb k }
  | .pin x id lg => .next (pinNext (switchTo s x) id lg)
  | .readTable x id => .next (readTableAhead (switchTo s x) id)
  | .readPlane x id second e k => .next (readPlaneAhead (switchTo s x) id second e k)
  | .moveLine => .next (copyNext s)
  | .prefetch x w => .next (prefetchTile (switchTo s x) w)
  | .hold x line => .next (holdLine s x line)
  | .diverge x f e y bank => .next (diverge s x f e y bank)
  | .finalSend c => .next (finalSend s c)
  | .world pa b => .next (worldWrite s pa b)
  | .rangerWrite a d => .next (rangerWrite s a d)

/-! ## The schedule where the agenda is empty (log entry 2) -/

/-- Whether trying a waiting instruction would bring it on. -/
def performGains (s : State) (b : Block) (id : Nat) : Bool :=
  let s0 := switchTo { s with defer := false } b.slot
  let t := tryPerform s0 id
  t.me.flights != s0.me.flights || (laneJobs t).length != (laneJobs s0).length || t.trails != s0.trails || t.laneFns != s0.laneFns

/-- The lane function fetch that an instruction waits on. -/
def fetchDue (s : State) (b : Block) (f : Flight) : Option Turn :=
  match Instr.laneOff f.ins with
  | some off =>
    if s.laneFns.any fun e => e.is (slotCore b.slot) b.kernel off && !e.present then
      some (.event (.laneFunctionFetchComplete (slotCore b.slot) b.kernel (BitVec.ofNat 24 off) true))
    else none
  | none => none

/-- The compile that an instruction waits on. -/
def compileDue (s : State) (f : Flight) : Option Turn :=
  f.trail.bind fun n => (s.trails.find? fun t => t.no == n && t.st != .resident).map fun t =>
    .event (.trailCompileComplete t.cluster t.ctx t.desc t.gen)

/-- A page or a plane table that an instruction which waits may take ahead: what waits for its element checks goes on then (R378). -/
def aheadDue (s : State) (b : Block) (f : Flight) : Option Turn :=
  let s0 := switchTo s b.slot
  if (readTableAhead s0 f.id).me.flights != s0.me.flights then some (.readTable b.slot f.id)
  else ((List.range 8).find? fun lg => (pinNext s0 f.id lg).me.flights != s0.me.flights).map fun lg => .pin b.slot f.id lg

/-- What is due for one instruction in flight. -/
def flightDue (s : State) (b : Block) (f : Flight) : Option Turn :=
  match f.st with
  | .performed =>
    if Instr.isTcb f.ins then
      if s.cbs.any fun t => t.slot == b.slot && t.data.isSome && !t.arrived
      then some (.event (.codebookTableArrival (slotCore b.slot))) else none
    else if unanswered s b.slot f then none
    else if f.dst.isSome then some (.event (.tileVersionDone b.slot f.id))
    else some (.event (.storeComplete b.slot f.id))
  | .waiting =>
    match fetchDue s b f with
    | some t => some t
    | none =>
      match compileDue s f with
      | some t => some t
      | none => if performGains s b f.id then some (.perform b.slot f.id) else aheadDue s b f
  | _ => none

/-- Whether a pending barrier arrival can be counted (R261). -/
def arrivalDue (s : State) (b : Block) : Option Turn :=
  (s.arrivals.find? fun a => a.slot == b.slot && arrivalReady s b a).map fun a => .event (.barrierArrivalCounted a.slot a.b)

/-- A scalar access on its way that can go on (R238, R250). -/
def storeDue (s : State) (b : Block) : Option Turn :=
  if (b.posted.head?).any fun p => postedFree s b.slot p then some (.store b.slot) else none

/-- What the hardware of one block has to do on its own. -/
def blockDue (s : State) (b : Block) : Option Turn :=
  match storeDue s b with
  | some t => some t
  | none =>
  match b.flights.findSome? fun f => flightDue s b f with
  | some t => some t
  | none =>
    match arrivalDue s b with
    | some t => some t
    | none =>
      if b.st = .exiting ∧ exitDrained s b then some (.event (.blockDrainComplete b.slot))
      else if b.st = .rollback ∧ rollDrained s b then some (.event (.rollbackRestoreComplete b.slot))
      else none

/-- Whether a block has something to do at its turn. -/
def hasTurn (b : Block) : Bool := b.due.isSome || takesTrap b || triesIssue b

/-- The next block in turn after the one whose turn it was. -/
def nextIssuer (s : State) : Option SlotNo :=
  ((allBlocks s).filter hasTurn).foldl (fun best b =>
    match best with
    | none => some b.slot
    | some x => if (b.slot - s.me.slot - 1).toNat < (x - s.me.slot - 1).toNat then some b.slot else some x) none

/-- A context whose END is to be sent (R329). -/
def sendDue (s : State) : Option Turn :=
  (s.contexts.find? fun p => finalDue s (BitVec.ofNat 6 p.1)).map fun p => .finalSend (BitVec.ofNat 6 p.1)

/-- The turn that the schedule gives: the strips in progress, then what the hardware has to do, then the next block. -/
def dueTurn (s : State) : Option Turn :=
  match (laneJobs s).head? with
  | some j => some (.lane (slotCore j.slot))
  | none =>
    match (allBlocks s).findSome? fun b => blockDue s b with
    | some t => some t
    | none =>
      match sendDue s with
      | some t => some t
      | none => (nextIssuer s).map fun x => .issue x false

/-- In FAILED nothing runs until reset (R412): what remains is a reset, the host's accesses, which are answered as before READY (R411),
and memory that is not the device's. -/
def Turn.inFailed (t : Turn) : Bool :=
  match t with
  | .event .reset => true
  | .event (.controlRegisterWrite _ _ _) => true
  | .event (.hostApertureRead _ _ _) => true
  | .event (.hostApertureWrite _ _ _) => true
  | .event (.hostAtomicop _ _ _ _ _ _) => true
  | .world _ _ => true
  | _ => false

/-- A turn of the device, in FAILED but for those that are still taken. -/
def takeTurn (s : State) (t : Turn) : Outcome State Fault Refusal :=
  if s.ctl.stage = .failed && !t.inFailed then .next s else runTurn s t

/-- One step of the device. -/
def machineStep (s : State) : Outcome State Fault Refusal :=
  match s.agenda with
  | t :: r => takeTurn { s with agenda := r } t
  | [] => match dueTurn s with | some t => takeTurn s t | none => .next s

/-! ## A given word as the next instruction -/

/-- A kernel whose tile code is one word. -/
def oneWord (s : State) (w : Word) : Kernel :=
  { handle := s.me.kernel, ctx := s.me.ctx, st := .resident, obj := 0, data := 0, dlen := 0, len := 0, digest := 0
    tileBase := 0, handlerBase := 0, tile := [w], handler := [], lanes := [], shapes := [], streams := [], regions := []
    tiers := [], lgneed := 0 }

/-- The block runs that word next. -/
def withSeqWord (s : State) (w : Word) : State :=
  { s with
    kernels := oneWord s w :: s.kernels.filter fun k => k.handle != s.me.kernel
    me := { s.me with st := .running, pc := 0, inHandler := false, wait := .none, due := none, atPoint := false,
                      posted := [], relBound := none,
                      flights := s.me.flights.filter fun f => match f.st with | .trapped _ => false | _ => true }
    agenda := .issue s.me.slot false :: s.agenda }

/-- A type that R183 allows for a lane opcode. -/
def laneWordType (w : BitVec 32) : BitVec 5 :=
  match (w.extractLsb' 25 7).toNat with
  | 0x05 => 3 | 0x0E => 3
  | n => if 0x20 ≤ n ∧ n ≤ 0x2A then 10 else 5

/-- A strip of 32 elements runs that lane word next. -/
def withLaneWord (s : State) (w : BitVec 32) : State :=
  let st := emptyStrip 32 { type := laneWordType w, fzi := false, fzo := false, xrm := 0 } [w]
  { s with
    lanes := s.lanes.filter fun j => slotCore j.slot != slotCore s.me.slot
    lane := some { slot := s.me.slot, flight := 0, header := 0, code := [w], inputs := [], active := [], bad := []
                   consts := Vector.replicate 16 0, todo := [], out := []
                   strip := { st with elems := (List.range 32).map some, active := List.replicate 32 true } }
    agenda := .lane (slotCore s.me.slot) :: s.agenda }

end Sys2Proof.Machine
end

