-- ==== Sys2Proof/Machine/Step.lean ====
section
/-!
DEFINITION. The step of the device, and placing a word where the next step runs it.
-/
namespace Sys2Proof.Machine

/-- One step (log entry 2). -/
def step (s : State) : Host.Outcome State Fault Refusal := machineStep s

/-- The state in which the next step runs the instruction word `w`: a lane word stands next in the strip in progress, a
sequencer word is the block's next word (log entry 24). -/
def State.withFetchWord (s : State) (nbits w : Nat) : State :=
  if nbits ≤ 32 then withLaneWord s (BitVec.ofNat 32 w) else withSeqWord s (BitVec.ofNat 64 w)

end Sys2Proof.Machine
end

