-- ==== Sys2Proof/Safety.lean ====
section
/-!
DEFINITION. What counts as a safe run, and the words the statements use: an outcome that goes on, memory in its canonical
form, the conditions under which a block issues, and the operations of R88 on words of a given width.
-/
namespace Sys2Proof.Machine

open Host (Outcome)

/-! ## Outcomes -/

/-- The outcome is a next state of which `P` holds. -/
def Reaches (o : Outcome State Fault Refusal) (P : State → Prop) : Prop := ∃ t, o = .next t ∧ P t

/-! ## Safe runs -/

/-- Memory has its one canonical form. -/
def State.memGood (s : State) : Prop := memWf s.mem = true

/-- A step is safe: the machine goes on, and its memory keeps the canonical form. -/
def SafeStep (s : State) : Prop := Reaches (step s) State.memGood

/-- `k` steps are safe. -/
def SafeRun (k : Nat) (s : State) : Prop :=
  match k with
  | 0 => State.memGood s
  | j + 1 => Reaches (step s) (SafeRun j)

/-! ## Scalar operations on words of a given width (R87) -/

/-- Applies an operation to the low `n` bits of two words and sign-extends its result (R87). -/
def atWidth (n : Nat) (g : BitVec n → BitVec n → BitVec n) (a b : Word) : Word :=
  (g (a.setWidth n) (b.setWidth n)).signExtend 64

/-- The upper half of a double-width product (R88, MULHS and MULHU). -/
def highHalf (n : Nat) (x y : BitVec (2 * n)) : BitVec n := (x * y).extractLsb' n n

/-- 1 or 0, as SLT gives it. -/
def oneIf (n : Nat) (b : Bool) : BitVec n := if b then 1 else 0

/-! ## When a block issues -/

/-- Nothing stands before the next instruction of the block whose turn it is: the device has not FAILED, no trap is owed, the block's issue
window has room, it may issue, and neither its instruction cache line nor the arena holds an error at the program counter. -/
def canIssue (s : State) : Prop :=
  s.me.due = none ∧ windowFull s s.me = false ∧ takesTrap s.me = false ∧ triesIssue s.me = true ∧ fetchLine s = none ∧
  arenaBad s = false ∧ s.ctl.stage ≠ .failed ∧
  ∀ pa p f e b, s.me.wait ≠ .ring pa p f e b

/-! ## Stopping -/

/-- A block has stopped with that program counter and loop stack (R84, R102): it stands STOPPED in its slot, or in the stop record of its
group, whose last block it was. -/
def stoppedWith (u : State) (x : SlotNo) (pc : Word) (loops : List LoopEntry) : Prop :=
  ∃ b : Block, b.slot = x ∧ b.st = .stopped ∧ b.pc = pc ∧ b.loops = loops ∧
    (getBlock u x = some b ∨ ∃ r ∈ u.stopRecords, b ∈ r.blocks)

/-! ## Issuing a tile instruction -/

/-- A block outside handler mode with room in its issue window and in the counters (R85, R148); the model is told not to perform
the instruction in the step that issues it (log entry 2). -/
def issuesTile (s : State) : Prop :=
  windowFull s s.me = false ∧ (∀ k, countFull s.me k = false) ∧ s.me.inHandler = false ∧ s.defer = true

/-- The state after an instruction has entered the tile dependency table as `f` (R122, R148, R149): the block `b`, in which
its version has been allocated, holds one more instruction in flight, the live lane groups are dealt to it, its tag is busy,
and the program counter has moved on. -/
def inFlight (s : State) (b : Block) (f : Flight) : State :=
  advance { s with me := { b with
    flights := b.flights ++ [{ f with id := b.nextId, lgs := liveLgs s (slotCore b.slot), inHandler := false }]
    nextId := b.nextId + 1
    tags := match f.tag with | some g => b.tags &&& ~~~(BitVec.twoPow 64 g.toNat) | none => b.tags } }

/-- Rename for a tile memory write to t that names record h: an unbound name is bound to it first (R119, R121). -/
def renameFor (s : State) (t : BitVec 5) (h : BitVec 4) (g : ShapeRec) (rd : List Nat) : RenameRes :=
  let b := bindIfUnbound s.me t h
  rename { s with me := b } b t g rd

/-- A block's registers, records and control, which no issue of a tile instruction changes. -/
def sameControl (a b : Block) : Prop :=
  a.slot = b.slot ∧ a.st = b.st ∧ a.pc = b.pc ∧ a.sregs = b.sregs ∧ a.hregs = b.hregs ∧ a.loops = b.loops ∧
  a.lstat = b.lstat ∧ a.vtype = b.vtype ∧ a.tags = b.tags ∧ a.shapes = b.shapes ∧ a.streams = b.streams ∧
  a.flights = b.flights ∧ a.cairn = b.cairn ∧ a.region = b.region ∧ a.trapRec = b.trapRec ∧ a.holding = b.holding ∧
  a.channels = b.channels ∧ a.inHandler = b.inHandler ∧ a.wait = b.wait

/-- A compute instruction with flight `fl` issues: wherever Rename finds room for td's record, it is put into the tile
dependency table with its new version (R154). -/
def computeIssued (s : State) (td : BitVec 5) (fl : Flight) (o : Outcome State Fault Refusal) : Prop :=
  ∀ id b, rename s s.me td (destGeom s.me td) fl.reads = .ok id b → o = .next (inFlight s b { fl with dst := some id })

/-- A matrix instruction issues (R154, R158): without .acc as a compute instruction; with .acc on the version td has, written
in place where nobody else reads or holds it, else added to a new version. -/
def matrixIssued (s : State) (td : BitVec 5) (acc : Bool) (fl : Flight) (o : Outcome State Fault Refusal) : Prop :=
  (acc = false → computeIssued s td fl o) ∧
  (acc = true → ∀ v, current s.me td = some v →
    (accInPlace s td v = true → v.id ∉ fl.reads →
      o = .next (inFlight s (modVersion s.me v.id fun x => { x with done := false })
        { fl with dst := some v.id, old := some v.id, inPlace := true })) ∧
    (accInPlace s td v = false ∨ v.id ∈ fl.reads → computeIssued s td { fl with old := some v.id } o))

/-- A performed instruction: nothing in memory, registers, names or other blocks has changed, and of the versions only the one
it writes, which holds `elems` and `scales`. -/
def performedWith (s t : State) (f : Flight) (d : Version) (elems : List Half) (scales : List (BitVec 16)) : Prop :=
  (∃ h, findFlight t.me f.id = some h ∧ h.st = .performed) ∧
  findVersion t.me d.id = some { d with elems := elems, scales := scales } ∧
  (∀ i, i ≠ d.id → findVersion t.me i = findVersion s.me i) ∧
  t.mem = s.mem ∧ t.others = s.others ∧ t.me.sregs = s.me.sregs ∧ t.me.names = s.me.names ∧ t.me.lstat = s.me.lstat

/-- The loop of R52 on the products of one output element, each with its k: chunks of 16 consecutive k in rising order, each the exact sum of
the accumulator and its products, rounded once to FP32; a chunk without a product leaves the accumulator (R221). -/
def chunkLoop (k acc : Nat) (ps : List (Nat × Fp)) : Nat :=
  (List.range ((k + 15) / 16)).foldl (fun acc c =>
    let q := ps.filter fun p => p.1 / 16 == c
    if q.isEmpty then acc else (fpPut fp32 false (exactSum (fpRead fp32 false acc) (q.map Prod.snd))).bits) acc

/-! ## Bytes a tile instruction reads -/

/-- Each range `(va e, n)` of an instruction translates to one piece of device memory that is neither held nor poisoned and of which the
block's die holds no guest copy, and translating it changes nothing, whichever of these pages the instruction has pinned. -/
def plainReads (s : State) (f : Flight) (n : Nat) (es : List Nat) (va : Nat → Nat) (sg : Nat → Seg) : Prop :=
  ∀ e ∈ es, va e + n ≤ 2 ^ 64 ∧ (sg e).va = va e ∧ (sg e).len = n ∧ regionOf (sg e).pa = .hbm ∧
    (∀ i < n, guestable (slotDie s.me.slot) ((sg e).pa + i) (sg e).cp = false) ∧
    lineHeld s (some s.me.slot) (sg e).pa n = false ∧ poisonedAt s (sg e).pa n = false ∧
    ∀ ps, (∀ p ∈ ps, ∃ x ∈ es, p.2 = (sg x).t) →
      accessPages s s.me [(va e, n)] .read .tile (some { f with pins := ps }) = (.ok [sg e], s)

/-- The `n` bytes at `va` stand at `pa` and on, and the block's die has no guest copy of them. -/
def viaBytes (s : State) (l : List Seg) (va n pa : Nat) : Prop :=
  ∀ i < n, ∃ cp, viaSegs l ((va + i) % 2 ^ 64) = some (pa + i, cp) ∧ guestable (slotDie s.me.slot) (pa + i) cp = false

/-! ## Lane instructions -/

/-- Every register and predicate of a strip has one entry per position. -/
def stripWf (st : Strip) : Prop :=
  (∀ r, (vreg st r).length = st.active.length) ∧ (∀ k : Fin 24, (st.p[k.val]'(k.isLt)).length = st.active.length)

/-- Whether an instruction executes at position p (R187). -/
def executesAt (st : Strip) (g : Guard) (p : Nat) : Prop := (executed st g).getD p false = true

/-- The container of an integer of the current type: the value modulo 2^n, sign- or zero-extended (R185, R192). -/
def laneInteger (sg : Bool) (n : Nat) (v : Int) : Half :=
  BitVec.ofInt 32 (if sg then (BitVec.ofInt n v).toInt else ((BitVec.ofInt n v).toNat : Int))

/-- A lane instruction completes: it leaves its strip's code, vd holds `val p` at every position p it executes and what it
held at the others, the flags `fl p` of the executed positions are added, and nothing else changes. -/
def laneGives (s : State) (j : LaneJob) (vd : BitVec 5) (g : Guard) (val : Nat → Half) (fl : Nat → Flags)
    (o : Outcome State Fault Refusal) : Prop :=
  ∃ k : LaneJob, o = .next { s with lane := some k } ∧
    k = { j with strip := { j.strip with v := k.strip.v, fp := k.strip.fp, flags := k.strip.flags, code := j.strip.code.drop 1 } } ∧
    (∀ r, r ≠ vd → vreg k.strip r = vreg j.strip r) ∧ (vreg k.strip vd).length = j.strip.active.length ∧
    (∀ p < j.strip.active.length, (executesAt j.strip g p → (vreg k.strip vd)[p]? = some (val p)) ∧
      (¬executesAt j.strip g p → (vreg k.strip vd)[p]? = (vreg j.strip vd)[p]?)) ∧
    (∀ b, k.strip.flags.getLsbD b = true ↔ j.strip.flags.getLsbD b = true ∨
      ∃ p < j.strip.active.length, executesAt j.strip g p ∧ (fl p).getLsbD b = true)

/-- The same for an instruction that writes predicate `vd`. -/
def laneDecides (s : State) (j : LaneJob) (vd : BitVec 5) (g : Guard) (val : Nat → Bool) (fl : Nat → Flags)
    (o : Outcome State Fault Refusal) : Prop :=
  ∃ k : LaneJob, o = .next { s with lane := some k } ∧
    k = { j with strip := { j.strip with p := k.strip.p, flags := k.strip.flags, code := j.strip.code.drop 1 } } ∧
    (∀ i : Fin 24, i.val ≠ vd.toNat % 24 → k.strip.p[i.val]'(i.isLt) = j.strip.p[i.val]'(i.isLt)) ∧
    (∀ p < j.strip.active.length, (executesAt j.strip g p → (preg k.strip vd)[p]? = some (val p)) ∧
      (¬executesAt j.strip g p → (preg k.strip vd)[p]? = (preg j.strip vd)[p]?)) ∧
    (∀ b, k.strip.flags.getLsbD b = true ↔ j.strip.flags.getLsbD b = true ∨
      ∃ p < j.strip.active.length, executesAt j.strip g p ∧ (fl p).getLsbD b = true)

end Sys2Proof.Machine
end

