-- ==== Sys2Proof/Certificates/Slice0/Obligations.lean ====
section
/-!
DEFINITION. The statements about the model, in the order of the spec's chapters. Each one's docstring names the rules it
formalises; a clause that rests on a choice of the model says so and names the log entry.
-/
open Sys2Proof Sys2Proof.Machine

/-! ## The encoding (03) -/

/-- For every well-formed instruction that has a word (sequencer or lane), decoding the word the encoder writes gives the
instruction back, with every operand. -/
def Obligations.DecodeOfEncode : Prop :=
  ∀ i : Instr, i.wf = true → encode i ≠ .event → decode (encode i) = some i

/-- A sequencer word or lane word that the decoder accepts is exactly the word the encoder writes for the instruction read,
and that instruction is well formed: no bit of an accepted word is ignored, and no two words mean one instruction. Every word whose
MAJ is 0x60 to 0x7E is refused as UNDEF_FUTURE, whatever its other bits; every word whose MAJ is 0x00, 0x7F, or one of 0x0D to 0x0F, 0x1B
to 0x1F, 0x25 to 0x27, 0x2B to 0x2F, 0x36, 0x37, 0x3A, 0x3B and 0x3E to 0x5F is refused as ILLEGAL. -/
def Obligations.EncodeOfDecode : Prop :=
  (∀ (x : BitVec 64) (i : Instr), decodeSeq x = .ok i → encodeSeq i = some x ∧ i.wf = true) ∧
  (∀ (x : BitVec 32) (i : Instr), decodeLane x = .ok i → encodeLane i = some x ∧ encodeSeq i = none ∧ i.wf = true) ∧
  (∀ x : BitVec 64,
    (0x60 ≤ (majOf x).toNat ∧ (majOf x).toNat ≤ 0x7E → decodeSeq x = .error .undefFuture) ∧
    ((majOf x).toNat ∈ [0x00, 0x0D, 0x0E, 0x0F, 0x1B, 0x1C, 0x1D, 0x1E, 0x1F, 0x25, 0x26, 0x27, 0x2B, 0x2C, 0x2D, 0x2E, 0x2F,
        0x36, 0x37, 0x3A, 0x3B, 0x7F] ∨ (0x3E ≤ (majOf x).toNat ∧ (majOf x).toNat ≤ 0x5F) →
      decodeSeq x = .error .illegal))

/-- The words that the spec prints for MULHU s7, s2, s9; SHRA.w s6, s6, 3; MOVI s10, -2; MOVHI s10, 0x1234; SYSRD s5, CAPA;
SYSWR LSTAT, s6; J +2; CALL s60, +10 and RET s60 decode to those instructions. -/
def Obligations.PrintedWordsDecode : Prop :=
  decodeSeq 0x0241C22400000000 = .ok (.mulhu ⟨7, 2, 9, .w64⟩) ∧
  decodeSeq 0x04F1860100000003 = .ok (.shraImm ⟨6, 6, .w32, 3⟩) ∧
  decodeSeq 0x12028000FFFFFFFE = .ok (.movi ⟨10, 0xFFFFFFFE⟩) ∧
  decodeSeq 0x1212800000001234 = .ok (.movhi ⟨10, 0x1234⟩) ∧
  decodeSeq 0x1411400000000041 = .ok (.sysrd 5 .capa) ∧
  decodeSeq 0x1420060000000030 = .ok (.syswr 6) ∧
  decodeSeq 0x0E00000000000002 = .ok (.j 2) ∧
  decodeSeq 0x0E1F00000000000A = .ok (.call ⟨60, 10⟩) ∧
  decodeSeq 0x0E2F000000000000 = .ok (.ret 60)

/-! ## Steps -/

/-- Where the schedule gives the block its turn, nothing stands before its next instruction and the word at its program
counter decodes to `i`, the step is exactly exec of `i` in that state with the turn taken from the schedule (`defer` is the
model's own: with it a tile instruction is not performed in the step that issues it; log entry 2). The program counter is
moved by the meaning of `i` itself. An instruction that uses what a scalar load on its way will write waits for it: then the step takes the
turn from the schedule and changes nothing. -/
def Obligations.StepRunsDecoded : Prop :=
  ∀ (s : State) (d : Bool) (rest : List Turn) (w : Word) (i : Instr),
    s.agenda = .issue s.me.slot d :: rest → canIssue s → wordAt s s.me.pc = some w → decodeSeq w = .ok i →
    (awaitsLoad s.me i = false → step s = exec i { s with agenda := rest, defer := d }) ∧
    (awaitsLoad s.me i = true → step s = .next { s with agenda := rest, defer := d })

/-- Where the schedule gives the block its turn and nothing stands before its next instruction: a word refused as ILLEGAL or
RESERVED_FIELD takes that sequencer trap with the word in TINSN, a word of a reserved major is offered to the emulator (R311), and a
program counter outside the section traps ILLEGAL. A lane turn of a core takes up that core's lane job, leaving the jobs of other cores as they are, and runs the next lane
instruction of its strip, or ends it; where lines of the lane register file are poisoned, what reads one is noted for the strip's boundary
and what writes one whole clears it (R388). A system event of the schedule is executed as its own step. In FAILED a turn other than a reset,
a host access or a change of memory that is not the device's changes nothing (R412). -/
def Obligations.StepTakesOtherTurns : Prop :=
  (
  ∀ (s : State) (d : Bool) (rest : List Turn), s.agenda = .issue s.me.slot d :: rest → canIssue s →
    (∀ w, wordAt s s.me.pc = some w → decodeSeq w = .error .illegal →
      step s = .next (seqTrap { s with agenda := rest, defer := d } w { cause := .illegal })) ∧
    (∀ w, wordAt s s.me.pc = some w → decodeSeq w = .error .reservedField →
      step s = .next (seqTrap { s with agenda := rest, defer := d } w { cause := .reservedField })) ∧
    (∀ w, wordAt s s.me.pc = some w → decodeSeq w = .error .undefFuture →
      step s = .next (offerEmulator { s with agenda := rest, defer := d } w)) ∧
    (wordAt s s.me.pc = none →
      step s = .next (seqTrap { s with agenda := rest, defer := d } 0 { cause := .illegal, tval := s.me.pc }))) ∧
  (
  (∀ (s : State) (core : BitVec 8) (rest : List Turn) (j : LaneJob), s.agenda = .lane core :: rest → laneOf s core = some j →
    s.ctl.stage ≠ .failed →
    let s1 := bringLane { s with agenda := rest, defer := false } core
    (∀ (w : BitVec 32) (code : List (BitVec 32)) (i : Instr), j.strip.ret = none → j.strip.code = w :: code → decodeLane w = .ok i →
      step s = match exec i { s1 with lane := some (laneHurt j i) } with
        | .next t => .next { t with lane := t.lane.map (laneHeal (executed j.strip (laneGuard i)) i) }
        | o => o) ∧
    (∀ i, j.strip.bad = [] → laneHurt j i = j) ∧
    (j.strip.ret.isSome = true → step s = exec .stripBoundary s1) ∧ s1.lane = some j ∧
    s1.lanes = (s.lane.toList ++ s.lanes).filter fun k => slotCore k.slot != core) ∧
  (∀ (s : State) (rest : List Turn) (i : Instr), s.agenda = .event i :: rest → encode i = .event → s.ctl.stage ≠ .failed →
    step s = exec i { s with agenda := rest, defer := false }) ∧
  (∀ (s : State) (rest : List Turn) (t : Turn), s.agenda = t :: rest → s.ctl.stage = .failed → t.inFailed = false →
    step s = .next { s with agenda := rest }))

/-! ## Scalar integer instructions (04) -/

/-- Outside handler mode a nonzero field names the general register of its number, in handler mode from 48 on hs0 to hs15, so that
s48 to s63 cannot be reached there. In every mode s0 reads 0 and a write to it changes nothing at all. A field written reads back, every
other field reads as before, and nothing but the registers named changes. SYSRD of IDX k gives the index of loop level k, 0 where the
level is not in use. -/
def Obligations.RegisterFile : Prop :=
  ∀ (s : State) (r q : BitVec 6) (v : Word),
    getS s 0 = 0 ∧ setS s 0 v = s ∧
    (r ≠ 0 → s.me.inHandler = false ∨ r.toNat < 48 → getS s r = s.me.sregs[r.toNat]'(r.isLt) ∧
      (setS s r v).me.hregs = s.me.hregs) ∧
    (∀ k : Fin 16, s.me.inHandler = true → r.toNat = 48 + k.val → getS s r = s.me.hregs[k.val]'(k.isLt) ∧
      (setS s r v).me.sregs = s.me.sregs) ∧
    (r ≠ 0 → getS (setS s r v) r = v) ∧
    (q ≠ r → getS (setS s r v) q = getS s q) ∧
    (∃ g h, setS s r v = { s with me := { s.me with sregs := g, hregs := h } }) ∧
    ∀ k : Fin 6, exec (.sysrd r (.idx k)) s = .next (advance (setS s r
      (match s.me.loops[k.val]? with | some e => e.index | none => 0)))

/-- ADD, SUB, MUL, AND, OR, XOR and ANDN complete for every operand: the low n bits of the sources are combined, the result
is sign-extended into sd (nothing is written where sd is s0), the program counter moves to the next word and nothing else
changes; with an immediate the second source is the sign-extended imm32. MULHS and MULHU write bits [2n-1:n] of the signed or unsigned
product of the low n bits of the sources in the same way. -/
def Obligations.ScalarRingAndBitwise : Prop :=
  ∀ (s : State),
    (∀ f : S3,
      let n := Width.bits f.w
      let a := getS s f.sa
      let b := getS s f.sb
      exec (.add f) s = .next (advance (setS s f.sd (atWidth n (· + ·) a b))) ∧
      exec (.sub f) s = .next (advance (setS s f.sd (atWidth n (· - ·) a b))) ∧
      exec (.mul f) s = .next (advance (setS s f.sd (atWidth n (· * ·) a b))) ∧
      exec (.and f) s = .next (advance (setS s f.sd (atWidth n (· &&& ·) a b))) ∧
      exec (.or f) s = .next (advance (setS s f.sd (atWidth n (· ||| ·) a b))) ∧
      exec (.xor f) s = .next (advance (setS s f.sd (atWidth n (· ^^^ ·) a b))) ∧
      exec (.andn f) s = .next (advance (setS s f.sd (atWidth n (fun x y => x &&& ~~~y) a b)))) ∧
    (∀ f : SI,
      let n := Width.bits f.w
      let a := getS s f.sa
      let b := f.imm.signExtend 64
      exec (.addImm f) s = .next (advance (setS s f.sd (atWidth n (· + ·) a b))) ∧
      exec (.subImm f) s = .next (advance (setS s f.sd (atWidth n (· - ·) a b))) ∧
      exec (.mulImm f) s = .next (advance (setS s f.sd (atWidth n (· * ·) a b))) ∧
      exec (.andImm f) s = .next (advance (setS s f.sd (atWidth n (· &&& ·) a b))) ∧
      exec (.orImm f) s = .next (advance (setS s f.sd (atWidth n (· ||| ·) a b))) ∧
      exec (.xorImm f) s = .next (advance (setS s f.sd (atWidth n (· ^^^ ·) a b))) ∧
      exec (.andnImm f) s = .next (advance (setS s f.sd (atWidth n (fun x y => x &&& ~~~y) a b)))) ∧
    (∀ f : S3,
      let n := Width.bits f.w
      let hs := fun x y : BitVec n => highHalf n (x.signExtend (2 * n)) (y.signExtend (2 * n))
      let hu := fun x y : BitVec n => highHalf n (x.setWidth (2 * n)) (y.setWidth (2 * n))
      exec (.mulhs f) s = .next (advance (setS s f.sd (atWidth n hs (getS s f.sa) (getS s f.sb)))) ∧
      exec (.mulhu f) s = .next (advance (setS s f.sd (atWidth n hu (getS s f.sa) (getS s f.sb))))) ∧
    (∀ f : SI,
      let n := Width.bits f.w
      let hs := fun x y : BitVec n => highHalf n (x.signExtend (2 * n)) (y.signExtend (2 * n))
      let hu := fun x y : BitVec n => highHalf n (x.setWidth (2 * n)) (y.setWidth (2 * n))
      exec (.mulhsImm f) s = .next (advance (setS s f.sd (atWidth n hs (getS s f.sa) (f.imm.signExtend 64)))) ∧
      exec (.mulhuImm f) s = .next (advance (setS s f.sd (atWidth n hu (getS s f.sa) (f.imm.signExtend 64)))))

/-- DIVS, DIVU, REMS and REMU, with a register or an immediate, always complete: the quotient is rounded toward zero and the
remainder has the sign of the dividend; by zero the quotient is all ones and the remainder the dividend; the most negative
value divided by -1 gives itself with remainder 0. -/
def Obligations.ScalarDivision : Prop :=
  ∀ (s : State),
    (∀ f : S3,
      let n := Width.bits f.w
      let a := getS s f.sa
      let b := getS s f.sb
      exec (.divs f) s = .next (advance (setS s f.sd
        (atWidth n (fun x y => if y = 0 then BitVec.allOnes n else x.sdiv y) a b))) ∧
      exec (.divu f) s = .next (advance (setS s f.sd
        (atWidth n (fun x y => if y = 0 then BitVec.allOnes n else x.udiv y) a b))) ∧
      exec (.rems f) s = .next (advance (setS s f.sd (atWidth n (fun x y => if y = 0 then x else x.srem y) a b))) ∧
      exec (.remu f) s = .next (advance (setS s f.sd (atWidth n (fun x y => if y = 0 then x else x.umod y) a b)))) ∧
    (∀ f : SI,
      let n := Width.bits f.w
      let a := getS s f.sa
      let b := f.imm.signExtend 64
      exec (.divsImm f) s = .next (advance (setS s f.sd
        (atWidth n (fun x y => if y = 0 then BitVec.allOnes n else x.sdiv y) a b))) ∧
      exec (.divuImm f) s = .next (advance (setS s f.sd
        (atWidth n (fun x y => if y = 0 then BitVec.allOnes n else x.udiv y) a b))) ∧
      exec (.remsImm f) s = .next (advance (setS s f.sd (atWidth n (fun x y => if y = 0 then x else x.srem y) a b))) ∧
      exec (.remuImm f) s = .next (advance (setS s f.sd (atWidth n (fun x y => if y = 0 then x else x.umod y) a b))))

/-- SHL, SHRL and SHRA, with a register or an immediate: the count is the second source modulo n; SHL and SHRL shift zeros
in, SHRA copies of the sign; the result is sign-extended into sd. MIN, MAX, SLT (signed), MINU, MAXU, SLTU (unsigned) and SEL, with a
register or an immediate: SEL takes the first source where all 64 bits of the old sd are not zero, the second otherwise. -/
def Obligations.ScalarShiftsAndCompares : Prop :=
  (
  ∀ (s : State),
    (∀ f : S3,
      let n := Width.bits f.w
      let a := getS s f.sa
      let b := getS s f.sb
      exec (.shl f) s = .next (advance (setS s f.sd (atWidth n (fun x y => x <<< (y.toNat % n)) a b))) ∧
      exec (.shrl f) s = .next (advance (setS s f.sd (atWidth n (fun x y => x >>> (y.toNat % n)) a b))) ∧
      exec (.shra f) s = .next (advance (setS s f.sd (atWidth n (fun x y => x.sshiftRight (y.toNat % n)) a b)))) ∧
    (∀ f : SI,
      let n := Width.bits f.w
      let a := getS s f.sa
      let b := f.imm.signExtend 64
      exec (.shlImm f) s = .next (advance (setS s f.sd (atWidth n (fun x y => x <<< (y.toNat % n)) a b))) ∧
      exec (.shrlImm f) s = .next (advance (setS s f.sd (atWidth n (fun x y => x >>> (y.toNat % n)) a b))) ∧
      exec (.shraImm f) s = .next (advance (setS s f.sd (atWidth n (fun x y => x.sshiftRight (y.toNat % n)) a b))))) ∧
  (
  ∀ (s : State),
    (∀ f : S3,
      let n := Width.bits f.w
      let a := getS s f.sa
      let b := getS s f.sb
      exec (.min f) s = .next (advance (setS s f.sd (atWidth n (fun x y => if y.slt x then y else x) a b))) ∧
      exec (.max f) s = .next (advance (setS s f.sd (atWidth n (fun x y => if x.slt y then y else x) a b))) ∧
      exec (.minu f) s = .next (advance (setS s f.sd (atWidth n (fun x y => if y.ult x then y else x) a b))) ∧
      exec (.maxu f) s = .next (advance (setS s f.sd (atWidth n (fun x y => if x.ult y then y else x) a b))) ∧
      exec (.slt f) s = .next (advance (setS s f.sd (atWidth n (fun x y => oneIf n (x.slt y)) a b))) ∧
      exec (.sltu f) s = .next (advance (setS s f.sd (atWidth n (fun x y => oneIf n (x.ult y)) a b))) ∧
      exec (.sel f) s = .next (advance (setS s f.sd (atWidth n (fun x y => if getS s f.sd = 0 then y else x) a b)))) ∧
    (∀ f : SI,
      let n := Width.bits f.w
      let a := getS s f.sa
      let b := f.imm.signExtend 64
      exec (.minImm f) s = .next (advance (setS s f.sd (atWidth n (fun x y => if y.slt x then y else x) a b))) ∧
      exec (.maxImm f) s = .next (advance (setS s f.sd (atWidth n (fun x y => if x.slt y then y else x) a b))) ∧
      exec (.minuImm f) s = .next (advance (setS s f.sd (atWidth n (fun x y => if y.ult x then y else x) a b))) ∧
      exec (.maxuImm f) s = .next (advance (setS s f.sd (atWidth n (fun x y => if x.ult y then y else x) a b))) ∧
      exec (.sltImm f) s = .next (advance (setS s f.sd (atWidth n (fun x y => oneIf n (x.slt y)) a b))) ∧
      exec (.sltuImm f) s = .next (advance (setS s f.sd (atWidth n (fun x y => oneIf n (x.ult y)) a b))) ∧
      exec (.selImm f) s = .next (advance (setS s f.sd (atWidth n (fun x y => if getS s f.sd = 0 then y else x) a b)))))


/-- MOVI writes the sign-extended immediate; MOVHI writes it to bits [63:32] and keeps bits [31:0]. A word of either whose sa or W is not
zero is refused as RESERVED_FIELD (the step traps, as another statement says). A MOVI of the low word of a constant followed by a MOVHI of its high word
leaves the constant in sd, and no other register field changed. CLZ and CTZ write the number of leading and trailing zero bits of the
low n bits of sa, n where they are all zero; POPC the number of one bits (R88). Nothing else changes but the program counter. -/
def Obligations.ScalarCountsAndMoves : Prop :=
  ∀ (s : State),
    (∀ f : S2,
      let n := Width.bits f.w
      let x := (getS s f.sa).toNat % 2 ^ n
      (∃ k, k ≤ n ∧ (x = 0 → k = n) ∧ (x ≠ 0 → 2 ^ (n - 1 - k) ≤ x ∧ x < 2 ^ (n - k) ∧ k < n) ∧
        exec (.clz f) s = .next (advance (setS s f.sd (BitVec.ofNat 64 k)))) ∧
      (∃ k, k ≤ n ∧ (x = 0 → k = n) ∧ (x ≠ 0 → x % 2 ^ k = 0 ∧ x % 2 ^ (k + 1) ≠ 0) ∧
        exec (.ctz f) s = .next (advance (setS s f.sd (BitVec.ofNat 64 k)))) ∧
      exec (.popc f) s =
        .next (advance (setS s f.sd (BitVec.ofNat 64 ((List.range n).filter x.testBit).length)))) ∧
    (∀ f : SdImm,
      exec (.movi f) s = .next (advance (setS s f.sd (f.imm.signExtend 64))) ∧
      exec (.movhi f) s = .next (advance (setS s f.sd (f.imm ++ (getS s f.sd).extractLsb' 0 32))) ∧
      (∀ c : Word, f.sd ≠ 0 → f.imm = c.extractLsb' 0 32 → ∃ u v, exec (.movi f) s = .next u ∧
        exec (.movhi ⟨f.sd, c.extractLsb' 32 32⟩) u = .next v ∧ getS v f.sd = c ∧ ∀ q, q ≠ f.sd → getS v q = getS s q)) ∧
    (∀ x : BitVec 64, majOf x = 9 → minOf x = 0 ∨ minOf x = 1 → x.extractLsb' 40 6 ≠ 0 ∨ x.extractLsb' 32 2 ≠ 0 →
      decodeSeq x = .error .reservedField ∧ ∀ d rest, s.agenda = .issue s.me.slot d :: rest → canIssue s →
        wordAt s s.me.pc = some x →
        step s = .next (seqTrap { s with agenda := rest, defer := d } x { cause := .reservedField }))

/-! ## Scalar floating point (04) -/

/-- In FP32, FP16 and BF16, every pattern that is no NaN is read as a value that rounds to the same pattern without raising a
flag (subnormals, both zeros and infinities included), and every NaN pattern is delivered as the canonical NaN of its type. -/
def Obligations.FpPatternsRoundToThemselves : Prop :=
  ∀ f ∈ [fp32, fp16, bf16], ∀ x : Nat, x < 2 ^ f.width →
    ((fpRead f false x).isNaN = false → fpPut f false (fpRead f false x) = ⟨x, 0⟩) ∧
    ((fpRead f false x).isNaN = true → (fpPut f false (fpRead f false x)).bits = fpNaN f)

/-- With W = 01 the six operations complete for all operands: the exact sum, difference, product or fused sum of the FP32
patterns in bits [31:0] is rounded once, a NaN operand gives the canonical NaN (FMIN and FMAX pass a single NaN over), and the
pattern is zero-extended into sd; LSTAT and everything else but the program counter is unchanged. FCMP.EQ, .LT, .LE and .UN write
1 or 0: with a NaN operand only UN holds; without one the order is that of the patterns read as signed magnitudes, the two zeros
being equal. Any other W traps TYPE with TVAL = W. FCVT.FI and FCVT.FN complete for every operand and width: a NaN gives 0, an
infinity the end of the range, a finite value the nearest integer, the even one of two, clamped to the signed or unsigned range; the
n-bit pattern is sign-extended into sd. FCVT.IF and FCVT.NF round the signed or unsigned value of the low n bits of sa to FP32 and
zero-extend it; a value of magnitude below 2^24 is exact. -/
def Obligations.ScalarFpOperations : Prop :=
  (∀ (s : State) (f : S3),
    let a := fpRead fp32 false ((getS s f.sa).toNat % 2 ^ 32)
    let b := fpRead fp32 false ((getS s f.sb).toNat % 2 ^ 32)
    let c := fpRead fp32 false ((getS s f.sd).toNat % 2 ^ 32)
    let word := fun v : Fp => BitVec.ofNat 64 (fpPut fp32 false v).bits
    (f.w = .w32 →
      exec (.fadd f) s = .next (advance (setS s f.sd (word (fpAddExact a b).1))) ∧
      exec (.fsub f) s = .next (advance (setS s f.sd (word (fpAddExact a b.neg).1))) ∧
      exec (.fmul f) s = .next (advance (setS s f.sd (word (fpMulExact a b).1))) ∧
      exec (.fma f) s = .next (advance (setS s f.sd (word (fpAddExact c (fpMulExact a b).1).1))) ∧
      exec (.fmin f) s = .next (advance (setS s f.sd (word (fpPick false a b)))) ∧
      exec (.fmax f) s = .next (advance (setS s f.sd (word (fpPick true a b)))) ∧
      (a.isNaN = true ∨ b.isNaN = true → exec (.fadd f) s = .next (advance (setS s f.sd 0x7FC00000)) ∧
        exec (.fsub f) s = .next (advance (setS s f.sd 0x7FC00000)) ∧
        exec (.fmul f) s = .next (advance (setS s f.sd 0x7FC00000)) ∧
        exec (.fma f) s = .next (advance (setS s f.sd 0x7FC00000))) ∧
      (a.isNaN = true → exec (.fmin f) s = .next (advance (setS s f.sd (word b))) ∧
        exec (.fmax f) s = .next (advance (setS s f.sd (word b)))) ∧
      (b.isNaN = true → a.isNaN = false → exec (.fmin f) s = .next (advance (setS s f.sd (word a))) ∧
        exec (.fmax f) s = .next (advance (setS s f.sd (word a))))) ∧
    (f.w ≠ .w32 → ∀ i ∈ [Instr.fadd f, .fsub f, .fmul f, .fma f, .fmin f, .fmax f, .fcmpEq f, .fcmpLt f, .fcmpLe f, .fcmpUn f],
      exec i s = .next (seqTrap s (wordOf i) { cause := .type, tval := BitVec.ofNat 64 (Width.code f.w) }))) ∧
  (∀ (s : State) (f : S3), f.w = .w32 →
    let x := (getS s f.sa).toNat % 2 ^ 32
    let y := (getS s f.sb).toNat % 2 ^ 32
    let key := fun p : Nat => if p < 2 ^ 31 then (p : Int) else -((p : Int) - 2 ^ 31)
    let nan := fun p : Nat => decide (0x7F800000 < p % 2 ^ 31)
    let bit := fun v : Bool => if v then (1 : Word) else 0
    exec (.fcmpEq f) s = .next (advance (setS s f.sd (bit (!(nan x || nan y) && decide (key x = key y))))) ∧
    exec (.fcmpLt f) s = .next (advance (setS s f.sd (bit (!(nan x || nan y) && decide (key x < key y))))) ∧
    exec (.fcmpLe f) s = .next (advance (setS s f.sd (bit (!(nan x || nan y) && decide (key x ≤ key y))))) ∧
    exec (.fcmpUn f) s = .next (advance (setS s f.sd (bit (nan x || nan y))))) ∧
  (∀ (s : State) (f : S2),
    let n := Width.bits f.w
    let a := fpRead fp32 false ((getS s f.sa).toNat % 2 ^ 32)
    let nearest := fun (m : Nat) (e : Int) (q : Nat) =>
      let d := 2 ^ (-e).toNat
      let x := m * 2 ^ e.toNat
      2 * x ≤ (2 * q + 1) * d ∧ 2 * q * d ≤ 2 * x + d ∧ (2 * x = (2 * q + 1) * d ∨ 2 * q * d = 2 * x + d → q % 2 = 0)
    (∀ sg : Bool, ∃ v : Int,
      exec (if sg then .fcvtFi f else .fcvtFn f) s = .next (advance (setS s f.sd ((BitVec.ofInt n v).signExtend 64))) ∧
      (a.isNaN = true ∨ a.isZero = true → v = 0) ∧
      (∀ neg, a = .inf neg → v = if neg then intMin sg n else intMax sg n) ∧
      (∀ neg m e, a = .fin neg m e → ∃ q : Nat, nearest m e q ∧
        v = max (intMin sg n) (min (intMax sg n) (if neg then -(q : Int) else q)))) ∧
    (∀ (sg : Bool), let x : Int := if sg then ((getS s f.sa).setWidth n).toInt else ((getS s f.sa).setWidth n).toNat
      exec (if sg then .fcvtIf f else .fcvtNf f) s =
        .next (advance (setS s f.sd (BitVec.ofNat 64 (fpOfInt fp32 false x).bits))) ∧
      (x = 0 → (fpOfInt fp32 false x).bits = 0) ∧
      (x ≠ 0 → x.natAbs < 2 ^ 24 → ∃ m k : Nat,
        fpRead fp32 false (fpOfInt fp32 false x).bits = .fin (decide (x < 0)) m (-(k : Int)) ∧ m = x.natAbs * 2 ^ k)))

/-- Under W = 01, whatever the operands, FADD, FSUB, FMUL, FMA, FMIN, FMAX and the four FCMP reach a next state in which only sd and the
program counter have changed; so do the four FCVT at every width. In a strip in progress the floating-point lane instructions under an
FP type, VCVT between lane types, VPERM and VCOMP under any lane type, VCONF under a 32-bit integer type, VCFG, VNOP and VRET reach
a next state: the strip has gone on to its next instruction, VRET has ended its code, and neither memory nor a block has changed. -/
def Obligations.FloatsAndPermutesComplete : Prop :=
  (∀ (s : State) (f : S3), f.w = .w32 →
    ∀ i ∈ [Instr.fadd f, .fsub f, .fmul f, .fma f, .fmin f, .fmax f, .fcmpEq f, .fcmpLt f, .fcmpLe f, .fcmpUn f],
      ∃ t v, exec i s = .next t ∧ t = advance (setS s f.sd v)) ∧
  (∀ (s : State) (f : S2), ∀ i ∈ [Instr.fcvtFi f, .fcvtFn f, .fcvtIf f, .fcvtNf f],
      ∃ t v, exec i s = .next t ∧ t = advance (setS s f.sd v)) ∧
  (∀ (s : State) (j : LaneJob), s.lane = some j →
    let goesOn := fun (i : Instr) => ∃ t k, exec i s = .next t ∧ t.lane = some k ∧ k.strip.code = j.strip.code.drop 1 ∧
      k.strip.ret = j.strip.ret ∧ t.mem = s.mem ∧ t.me = s.me ∧ t.others = s.others
    (∀ m : FpFmt, numOf j.strip.vt.type = some (.fp m) → ∀ (f : L3) (h : L2),
      ∀ i ∈ [Instr.vfadd f, .vfsub f, .vfmul f, .vfma f, .vfmin f, .vfmax f, .vrcp h, .vrsq h, .vexp2 h, .vlog2 h, .vfcls h],
        goesOn i) ∧
    (∀ (t u : Machine.Num) (f : LcvtF), numOf j.strip.vt.type = some t → numOf f.ty = some u → goesOn (.vcvt f)) ∧
    (∀ (t : Machine.Num) (f : LpermF) (g : LcompF), numOf j.strip.vt.type = some t → goesOn (.vperm f) ∧ goesOn (.vcomp g)) ∧
    (∀ (sg : Bool) (f : L2), numOf j.strip.vt.type = some (.int sg 32) → goesOn (.vconf f)) ∧
    (∀ f : LcfgF, goesOn (.vcfg f)) ∧ goesOn .vnop ∧
    (∀ va : BitVec 5, ∃ t k, exec (.vret va) s = .next t ∧ t.lane = some k ∧ k.strip.code = [] ∧ k.strip.ret = some va ∧
      t.mem = s.mem ∧ t.me = s.me ∧ t.others = s.others))

/-! ## Scalar memory (04, 09) -/

/-- SLD, SLD.Z and SST at an address that is no multiple of the access width, and every SAMO at an address that is no multiple
of its width, take the sequencer trap STRIDE_ALIGN with the address in TVAL, in whatever state the page tables are. -/
def Obligations.MisalignedScalarTraps : Prop :=
  ∀ (s : State),
    (∀ f : SI, (memAddr s f).toNat % (Width.bits f.w / 8) ≠ 0 →
      ∀ i ∈ [Instr.sld f, .sldZ f, .sst f],
        exec i s = .next (seqTrap s (wordOf i) { cause := .strideAlign, tval := memAddr s f })) ∧
    (∀ f : SamoF, (getS s f.sa).toNat % (if f.w32 then 4 else 8) ≠ 0 →
      ∀ i ∈ [Instr.samoAdd f, .samoSwap f, .samoCas f, .samoMin f, .samoMax f, .samoAnd f, .samoOr f, .samoXor f, .samoMinu f,
          .samoMaxu f],
        exec i s = .next (seqTrap s (wordOf i) { cause := .strideAlign, tval := getS s f.sa }))

/-- An aligned SLD or SLD.Z that no pending acquire point holds back, whose address translates and whose line is not held for another
block: from device memory without poison, with no access of its stream on its way, it completes: sd receives the loaded bits sign- or
zero-extended, the program counter moves on, the rest of the block is unchanged, and every byte of memory is as the translation left
it. From a page that is not WB the bytes are those of memory; from a line that the core's scalar cache holds they are the line's; on a
miss they are those of the die's guest copy of the line, and of memory where there is none (the premises that every cached line and guest
copy has 64 bytes rule out states that no run reaches). In a turn that defers work the load is on its way instead (R238; log entry 2).
From host or peer memory it is on its way behind the request of a read, and when the answer has come sd receives the answered bytes. An
SST under the same premises completes: the low bits of sd lie little-endian at the physical address, every other byte of memory reads as
the translation left it, the block changes only in its program counter (and in no longer being parked), and beyond the package one
write is requested; in a turn that defers work the store is on its way, and reaches its home slice with the same bytes at a turn of its
own. -/
def Obligations.ScalarAccessesComplete : Prop :=
  (
  ∀ (s s1 : State) (f : SI) (t : TlbEntry) (sg : Bool),
    let i := if sg then Instr.sld f else .sldZ f
    let va := memAddr s f
    let n := Width.bits f.w / 8
    let pa := t.pa va.toNat
    let p : Posted := { va := va.toNat, pa := pa, n := n, cp := t.cp, op := .load f.sd sg, handler := s.me.inHandler, mark := s.me.nextId }
    let core := slotCore s1.me.slot
    va.toNat % n = 0 → acquirePending s.me = false →
    translate s (some (slotCore s.me.slot)) s.me.ctx va.toNat .read .scalar = (.ok t, s1) →
    lineHeld s1 (some s1.me.slot) pa n = false → (∀ c ∈ s1.cache, c.data.length = 64) → (∀ g ∈ s1.guests, g.data.length = 64) →
    (regionOf pa = .hbm → s1.me.posted = [] → s1.defer = false → poisonedAt s1 pa n = false →
      ∃ (bs : List Byte) (u : State), exec i s = .next u ∧ bs.length = n ∧
        u.me = (advance (setS s1 f.sd (BitVec.ofInt 64 (readInt sg (8 * n) (leNat bs))))).me ∧
        u.others = s1.others ∧ u.mem = s1.mem ∧
        (t.cp ≠ 0 → bs = memBytes s1.mem pa n) ∧
        (t.cp = 0 → bs =
          match s1.cache.find? fun c => c.core == core && c.line == lineOf pa with
          | some c => (c.data.drop (pa % 64)).take n
          | none =>
            match (if guestable (coreDie core) pa t.cp then
                s1.guests.find? fun g => g.die == coreDie core && g.line == lineOf pa else none) with
            | some g => (g.data.drop (pa % 64)).take n
            | none => memBytes s1.mem pa n)) ∧
    (regionOf pa = .hbm → s1.defer = true →
      exec i s = .next (advance { s1 with me := { s1.me with posted := s1.me.posted ++ [p] } })) ∧
    (regionOf pa = .host ∨ regionOf pa = .peer → s1.me.posted = [] → ∃ (u : State) (r : ExtRequest), exec i s = .next u ∧
      u.requests = s1.requests ++ [r] ∧ r.tag = s1.nextReq ∧ r.pa = pa ∧ r.op = .read n ∧ u.mem = s1.mem ∧
      u.me = { s1.me.advance with posted := [{ p with req := some s1.nextReq }] })) ∧
  (
  ∀ (s s1 : State) (f : SI) (t : TlbEntry),
    let va := memAddr s f
    let n := Width.bits f.w / 8
    let pa := t.pa va.toNat
    let bs := storeBytes s f
    let p : Posted := { va := va.toNat, pa := pa, n := n, cp := t.cp, op := .store bs, handler := s.me.inHandler, mark := s.me.nextId }
    va.toNat % n = 0 → acquirePending s.me = false →
    translate s (some (slotCore s.me.slot)) s.me.ctx va.toNat .write .scalar = (.ok t, s1) →
    lineHeld s1 (some s1.me.slot) pa n = false → memWf s1.mem = true →
    (s1.me.posted = [] → s1.defer = false → ∃ u : State, exec (.sst f) s = .next u ∧ u.me = s1.me.advance ∧ u.others = s1.others ∧
      memNat u.mem pa n = (getS s f.sd).toNat % 2 ^ (8 * n) ∧
      (∀ a, (a < pa ∨ pa + n ≤ a) → memRead u.mem a = memRead s1.mem a) ∧
      (regionOf pa = .hbm → u.requests = s1.requests) ∧
      (regionOf pa = .host ∨ regionOf pa = .peer → ∃ r, u.requests = s1.requests ++ [r] ∧ r.pa = pa ∧ r.op = .write bs)) ∧
    (s1.defer = true → exec (.sst f) s = .next (advance { s1 with me := { s1.me with posted := s1.me.posted ++ [p] } }))) ∧
  (∀ (s : State) (p : Posted) (r : List Posted), s.me.posted = p :: r → postedFree s s.me.slot p = true → memWf s.mem = true →
    (∀ data, p.op = .store data → p.answer = [] → regionOf p.pa = .hbm →
      (performPosted s).me = { s.me with posted := r } ∧ memBytes (performPosted s).mem p.pa data.length = data ∧
      ∀ a, (a < p.pa ∨ p.pa + data.length ≤ a) → memRead (performPosted s).mem a = memRead s.mem a) ∧
    (∀ sd sg, p.op = .load sd sg → p.req.isSome = true → regionOf p.pa ≠ .hbm → p.answer.length = p.n → p.handler = s.me.inHandler →
      poisonedAt s p.pa p.n = false →
      (performPosted s).me = (setS { s with me := { s.me with posted := r } } sd
        (BitVec.ofInt 64 (readInt sg (8 * p.n) (leNat p.answer)))).me))


/-- An aligned SAMO that neither a pending acquire point nor an access of the stream on its way holds back, with RL only when every
earlier access has been performed, whose address translates to device memory and whose line is neither held for another block nor
poisoned, completes for each of the ten operations: the home slice holds the operation's new value, computed from the old one, sb and
(for CAS) sd; sd receives the old value sign-extended; every other byte of memory reads as the translation left it; the core's cache no
longer holds the line. With AQ it is an acquire point as well: prefetched tiles go, and the core's cache keeps only the copies that an
acquire point may leave (keptCopy: R237, log entry 61, DEDUCED). Without AQ, in a turn that defers work, it is on its way instead (log
entry 2). To peer memory each of them, and to host memory ADD, SWAP and CAS, is one atomic request with its operand (CAS's comparand first:
log entry 20, PRESUMED), behind which it is on its way; sd then receives the answered value. The others trap TYPE there with the address. -/
def Obligations.SamoCompletes : Prop :=
  (∀ (s s1 : State) (f : SamoF) (t : TlbEntry),
    let n := if f.w32 then 4 else 8
    let va := getS s f.sa
    let pa := t.pa va.toNat
    let old := memNat s1.mem pa n
    let b := (getS s f.sb).toNat % 2 ^ (8 * n)
    let d := (getS s f.sd).toNat % 2 ^ (8 * n)
    let x : Int := readInt true (8 * n) old
    let y : Int := readInt true (8 * n) b
    let e := expose s1
    let at_ := fun (i : Instr) => ({ va := va.toNat, pa := pa, n := n, cp := t.cp, op := .amo i b d, handler := s.me.inHandler, mark := s.me.nextId } : Posted)
    va.toNat % n = 0 → acquirePending s.me = false → (f.rl = true → releaseDone s s.me f.scope = true) →
    translate s (some (slotCore s.me.slot)) s.me.ctx va.toNat .atomic .scalar = (.ok t, s1) →
    lineHeld s1 (some s1.me.slot) pa n = false → memWf s1.mem = true →
    (s1.me.posted = [] → s1.defer = false ∨ f.aq = true → poisonedAt s1 pa n = false → regionOf pa = .hbm →
      ∀ p ∈ [(Instr.samoAdd f, (old + b) % 2 ^ (8 * n)), (.samoSwap f, b), (.samoCas f, if old = d then b else old),
          (.samoMin f, if y < x then b else old), (.samoMax f, if x < y then b else old), (.samoAnd f, old &&& b),
          (.samoOr f, old ||| b), (.samoXor f, old ^^^ b), (.samoMinu f, if b < old then b else old),
          (.samoMaxu f, if old < b then b else old)],
        ∃ u : State, exec p.1 s = .next u ∧ memNat u.mem pa n = p.2 ∧
          (∀ a, (a < pa ∨ pa + n ≤ a) → memRead u.mem a = memRead s1.mem a) ∧ u.others = s1.others ∧
          u.me = (advance (setS (if f.aq then acquireAt e e.me.slot f.scope else e) f.sd (BitVec.ofInt 64 x))).me ∧
          ∀ c ∈ u.cache, c.core = slotCore s1.me.slot → c.line ≠ lineOf pa ∧
            (f.aq = true → f.scope ≠ .block → keptCopy u s1.me.slot c.line c.unbound = true)) ∧
    (f.aq = false → s1.defer = true → regionOf pa = .hbm →
      ∀ i ∈ [Instr.samoAdd f, .samoSwap f, .samoCas f, .samoMin f, .samoMax f, .samoAnd f, .samoOr f, .samoXor f, .samoMinu f, .samoMaxu f],
        exec i s = .next (advance { e with me := { e.me with posted := e.me.posted ++ [at_ i] } })) ∧
    (regionOf pa = .host ∨ regionOf pa = .peer → s1.me.posted = [] →
      ∀ p ∈ [(Instr.samoAdd f, 0), (.samoSwap f, 1), (.samoCas f, 2), (.samoMin f, 3), (.samoMax f, 4), (.samoAnd f, 5), (.samoOr f, 6),
          (.samoXor f, 7), (.samoMinu f, 8), (.samoMaxu f, 9)],
        (regionOf pa = .peer ∨ p.2 < 3 → ∃ (u : State) (r : ExtRequest), exec p.1 s = .next u ∧ u.requests = s1.requests ++ [r] ∧
          r.tag = s1.nextReq ∧ r.pa = pa ∧ u.mem = s1.mem ∧
          r.op = .atomic p.2 f.w32 (if p.2 = 2 then leBytes n d ++ leBytes n b else leBytes n b) ∧
          u.me = { e.me.advance with posted := [{ at_ p.1 with req := some s1.nextReq }] }) ∧
        (regionOf pa = .host → 3 ≤ p.2 → exec p.1 s = .next (seqTrap s1 (wordOf p.1) { cause := .type, tval := va })))) ∧
  (∀ (s : State) (f : SamoF) (p : Posted) (r : List Posted) (b d : Nat), s.me.posted = p :: r → postedFree s s.me.slot p = true →
    p.req.isSome = true → p.n = (if f.w32 then 4 else 8) → p.answer.length = p.n → p.handler = s.me.inHandler →
    poisonedAt s p.pa p.n = false → memWf s.mem = true → f.aq = false →
    ∀ i ∈ [Instr.samoAdd f, .samoSwap f, .samoCas f, .samoMin f, .samoMax f, .samoAnd f, .samoOr f, .samoXor f, .samoMinu f, .samoMaxu f],
      p.op = .amo i b d →
      (performPosted s).me = (setS { s with me := { s.me with posted := r } } f.sd
        (BitVec.ofInt 64 (readInt true (8 * p.n) (leNat p.answer)))).me)

/-! ## Control transfer (04) -/

/-- B.cond compares the 64-bit words of sa and sb: where the condition does not hold the program counter moves to the next
word; where it holds, and for J, CALL and RET always, the program counter becomes PC + SignExtend(off32) * 8 (for RET the word
in sa) where that target lies in the section, and CALL then holds PC + 8 in sa; a target outside the section, or not a
multiple of 8, traps ILLEGAL with the target in TVAL. Nothing else changes, but that instruction cache lines with an error that the
transfer leaves behind unexecuted are dropped and logged (R389): leaving them touches no block, and nothing at all where there is none. -/
def Obligations.BranchesTransfer : Prop :=
  ∀ (s : State),
    (∀ t : Option Word, (leaveLines s t).me = s.me ∧ (leaveLines s t).others = s.others ∧ (leaveLines s t).groups = s.groups ∧
      ((∀ l ∈ s.icache, l.bad = none) → leaveLines s t = s)) ∧
    (∀ f : BrF,
      let a := getS s f.sa
      let b := getS s f.sb
      let holds : Bool := match f.cond with
        | .eq => decide (a = b) | .ne => decide (a ≠ b) | .lt => decide (a.toInt < b.toInt)
        | .ge => decide (b.toInt ≤ a.toInt) | .ltu => decide (a.toNat < b.toNat) | .geu => decide (b.toNat ≤ a.toNat)
      let t := s.me.pc + f.off.signExtend 64 * 8
      (holds = false → exec (.bCond f) s = .next (advance s)) ∧
      (holds = true → (wordAt s t).isSome = true → exec (.bCond f) s = .next (setPc (leaveLines s (some t)) t)) ∧
      (holds = true → wordAt s t = none →
        exec (.bCond f) s = .next (seqTrap s (wordOf (.bCond f)) { cause := .illegal, tval := t }))) ∧
    (∀ off : BitVec 32,
      let t := s.me.pc + off.signExtend 64 * 8
      ((wordAt s t).isSome = true → exec (.j off) s = .next (setPc (leaveLines s (some t)) t)) ∧
      (wordAt s t = none → exec (.j off) s = .next (seqTrap s (wordOf (.j off)) { cause := .illegal, tval := t }))) ∧
    (∀ f : SaOff,
      let t := s.me.pc + f.off.signExtend 64 * 8
      ((wordAt s t).isSome = true → exec (.call f) s = .next (setS (setPc (leaveLines s (some t)) t) f.sa (s.me.pc + 8))) ∧
      (wordAt s t = none → exec (.call f) s = .next (seqTrap s (wordOf (.call f)) { cause := .illegal, tval := t }))) ∧
    (∀ sa : BitVec 6,
      let t := getS s sa
      ((wordAt s t).isSome = true → exec (.ret sa) s = .next (setPc (leaveLines s (some t)) t)) ∧
      (wordAt s t = none → exec (.ret sa) s = .next (seqTrap s (wordOf (.ret sa)) { cause := .illegal, tval := t })) ∧
      (t.toNat % 8 ≠ 0 → wordAt s t = none))

/-- LOOP with a count of 0 or below jumps by its offset; with a positive count it traps LOOP_DEPTH with TVAL 6 on a full stack
and otherwise pushes PC + 8, the count and index 0 and goes on. ENDL traps LOOP_DEPTH with TVAL 0 on an empty stack and
ILLEGAL where its target is not the START of the top; otherwise the index rises by one and, below the count, the program
counter goes back to START, else the entry goes and the program counter moves on. LBRK drops its levels and jumps, or traps
LOOP_DEPTH with the depth. A LOOP that skips, an ENDL that goes back and an LBRK trap ILLEGAL with the target in TVAL where the target
lies outside the section. In a STOPPING block a completed ENDL is a resumable point: the block stops there once nothing of it is in
flight, with the program counter and the loop stack as the ENDL leaves them, and until then issues nothing more. -/
def Obligations.LoopsFollowTheStack : Prop :=
  (∀ (s : State), s.me.st ≠ .stopping →
    (∀ f : SaOff,
      let c := getS s f.sa
      let t := s.me.pc + f.off.signExtend 64 * 8
      (c.toInt ≤ 0 → (wordAt s t).isSome = true → exec (.loop f) s = .next (setPc (leaveLines s (some t)) t)) ∧
      (c.toInt ≤ 0 → wordAt s t = none →
        exec (.loop f) s = .next (seqTrap s (wordOf (.loop f)) { cause := .illegal, tval := t })) ∧
      (0 < c.toInt → s.me.loops.length < 6 →
        exec (.loop f) s =
          .next (advance { s with me := { s.me with loops := ⟨s.me.pc + 8, c, 0⟩ :: s.me.loops } })) ∧
      (0 < c.toInt → 6 ≤ s.me.loops.length →
        exec (.loop f) s = .next (seqTrap s (wordOf (.loop f)) { cause := .loopDepth, tval := 6 }))) ∧
    (∀ off : BitVec 32,
      let t := s.me.pc + off.signExtend 64 * 8
      (s.me.loops = [] →
        exec (.endl off) s = .next (seqTrap s (wordOf (.endl off)) { cause := .loopDepth, tval := 0 })) ∧
      (∀ e rest, s.me.loops = e :: rest →
        (t ≠ e.start → exec (.endl off) s = .next (seqTrap s (wordOf (.endl off)) { cause := .illegal, tval := t })) ∧
        (t = e.start → (e.index + 1).toNat < e.count.toNat → (wordAt s t).isSome = true →
          exec (.endl off) s = .next { leaveLines s (some t) with
            me := { s.me with pc := t, loops := { e with index := e.index + 1 } :: rest } }) ∧
        (t = e.start → (e.index + 1).toNat < e.count.toNat → wordAt s t = none →
          exec (.endl off) s = .next (seqTrap s (wordOf (.endl off)) { cause := .illegal, tval := t })) ∧
        (t = e.start → e.count.toNat ≤ (e.index + 1).toNat →
          exec (.endl off) s = .next (advance { s with me := { s.me with loops := rest } })))) ∧
    (∀ (lv : BitVec 3) (off : BitVec 32),
      let t := s.me.pc + off.signExtend 64 * 8
      (lv.toNat ≤ s.me.loops.length → (wordAt s t).isSome = true →
        exec (.lbrk lv off) s = .next { leaveLines s (some t) with
          me := { s.me with pc := t, loops := s.me.loops.drop lv.toNat } }) ∧
      (lv.toNat ≤ s.me.loops.length → wordAt s t = none →
        exec (.lbrk lv off) s = .next (seqTrap s (wordOf (.lbrk lv off)) { cause := .illegal, tval := t })) ∧
      (s.me.loops.length < lv.toNat →
        exec (.lbrk lv off) s =
          .next (seqTrap s (wordOf (.lbrk lv off))
            { cause := .loopDepth, tval := BitVec.ofNat 64 s.me.loops.length })))) ∧
  (∀ (s : State) (off : BitVec 32) (e : LoopEntry) (rest : List LoopEntry),
    let t := s.me.pc + off.signExtend 64 * 8
    let back := decide ((e.index + 1).toNat < e.count.toNat)
    let pc := if back then t else s.me.pc + 8
    let loops := if back then { e with index := e.index + 1 } :: rest else rest
    s.me.st = .stopping → s.me.loops = e :: rest → t = e.start → (wordAt s t).isSome = true →
    ∃ u, exec (.endl off) s = .next u ∧
      ((∀ l ∈ s.icache, l.bad = none) → drained s s.me = true → stoppedWith u s.me.slot pc loops) ∧
      ((∀ l ∈ s.icache, l.bad = none) → drained s s.me = false →
        u.me.pc = pc ∧ u.me.loops = loops ∧ u.me.st = .stopping ∧ triesIssue u.me = false))

/-! ## System instructions (04) -/

/-- NOP always, and YIELD outside STOPPING, only move the program counter on; in a STOPPING block YIELD is a resumable point, at which the
block stops once nothing of it is in flight, and until then issues nothing more. SYSRD writes the register's value to sd and
changes nothing else: identity, tags, the counters (the number of instructions in flight that count in each), the index of a
loop level or 0 where the level is not occupied, and the trap record; LSTAT and VTYPE, and SYSWR LSTAT, wait until no lane work
of an earlier MAP or REDUCE is left, and SYSWR clears the LSTAT bits that are 1 in sa. -/
def Obligations.SystemRegisters : Prop :=
  ∀ (s : State),
    exec .nop s = .next (advance s) ∧
    (s.me.st ≠ .stopping → exec .yield s = .next (advance s)) ∧
    (s.me.st = .stopping → drained s s.me = true →
      ∃ u, exec .yield s = .next u ∧ stoppedWith u s.me.slot (s.me.pc + 8) s.me.loops) ∧
    (s.me.st = .stopping → drained s s.me = false →
      exec .yield s = .next { s with me := { s.me.advance with atPoint := true } } ∧
      triesIssue { s.me.advance with atPoint := true } = false) ∧
    (∀ sd : BitVec 6,
      (∀ p ∈ [(SysReg.bid, s.me.bid), (.gid, s.me.gidReg), (.bndid, s.me.bndid), (.lseq, s.me.lseq), (.tags, s.me.tags),
          (.ldq, BitVec.ofNat 64 (s.me.flights.filter fun f => f.kind == .ldq).length),
          (.stq, BitVec.ofNat 64 (s.me.flights.filter fun f => f.kind == .stq).length),
          (.cpq, BitVec.ofNat 64 (s.me.flights.filter fun f => f.kind == .cpq).length),
          (.opq, BitVec.ofNat 64 (s.me.flights.filter fun f => f.kind == .opq).length),
          (.tcause, s.me.trapRec.tcause), (.tpc, s.me.trapRec.tpc), (.tval, s.me.trapRec.tval), (.tinsn, s.me.trapRec.tinsn),
          (.tcoord, s.me.trapRec.tcoord), (.tseq, s.me.trapRec.tseq)],
        exec (.sysrd sd p.1) s = .next (advance (setS s sd p.2))) ∧
      (∀ k, exec (.sysrd sd (.idx k)) s = .next (advance (setS s sd
        (match s.me.loops[k.val]? with | some e => e.index | none => 0)))) ∧
      (∀ k, exec (.sysrd sd (.elg k)) s = .next (advance (setS s sd (s.me.trapRec.elg[k.val]'k.isLt)))) ∧
      (∀ q ∈ [(SysReg.capw, QuerySel.capw), (.capa, .capa), (.capc, .capc), (.capl, .capl), (.caplg, .caplg),
          (.capl2, .capl2)], exec (.sysrd sd q.1) s = .next (advance (setS s sd (query s q.2)))) ∧
      (laneWork s.me = false →
        exec (.sysrd sd .lstat) s = .next (advance (setS s sd (s.me.lstat.setWidth 64))) ∧
        exec (.sysrd sd .vtype) s = .next (advance (setS s sd (s.me.vtype.setWidth 64)))) ∧
      (laneWork s.me = true → exec (.sysrd sd .lstat) s = .next s ∧ exec (.sysrd sd .vtype) s = .next s)) ∧
    (∀ sa : BitVec 6,
      (laneWork s.me = true → exec (.syswr sa) s = .next s) ∧
      (laneWork s.me = false → exec (.syswr sa) s =
        .next (advance { s with me := { s.me with lstat := s.me.lstat &&& ~~~((getS s sa).setWidth 6) } })))

/-- Where no earlier memory instruction can still raise a handler cause: outside handler mode EXIT puts the block into EXITING
and changes nothing else (but for bad instruction cache lines that it leaves behind, R389); in handler mode it also leaves the handler and
abandons the trapped instruction, those whose trap is held and those that wait on one of them: they are in flight no more and their
versions are freed, and every other instruction stays in flight (the premise that their numbers differ rules out states that no run
reaches). REGION, in a block that is not STOPPING and whose context is not on its last migration stop, records
a cairn with the next program counter, the loop stack, the registers, the shape records, the streams, the tags and the live-in
names of its mask, makes the region clean with no rollback counted and moves on; REGEND leaves the regions and moves on; in a STOPPING block REGION is a resumable point after its cairn is recorded. All
three leave memory, the registers, the shape records and the current versions of the names as they are. Where an earlier memory
instruction can still raise a cause they wait. -/
def Obligations.RegionsAndExit : Prop :=
  ∀ (s : State),
    (exitWaits s = true → exec .exit s = .next s) ∧
    (exitWaits s = false → s.me.inHandler = false →
      exec .exit s = .next { leaveLines s none with me := { s.me with st := .exiting, wait := .none, trapped := none } }) ∧
    (exitWaits s = false → s.me.inHandler = true → s.me.flights.Pairwise (fun f g => f.id ≠ g.id) →
      ∃ t, exec .exit s = .next t ∧ t.me.st = .exiting ∧ t.me.wait = .none ∧ t.me.inHandler = false ∧ t.me.trapped = none ∧
        (∀ f, f ∈ t.me.flights ↔ f ∈ s.me.flights ∧ f.id ∉ abandoned s) ∧
        (∀ f ∈ s.me.flights, f.isTrapped = true → f.id ∈ abandoned s) ∧
        (∀ f ∈ s.me.flights, f.id ∈ abandoned s → ∀ v, f.dst = some v ∨ f.dst2 = some v → findVersion t.me v = none) ∧
        t.me.sregs = s.me.sregs ∧ t.me.hregs = s.me.hregs ∧ t.me.shapes = s.me.shapes ∧ t.others = s.others) ∧
    (∀ mask, s.me.st = .stopping → regionWaits s = false → (getCtx s s.me.ctx).finalStop = false →
      (drained s s.me = true → ∃ t, exec (.region mask) s = .next t ∧ stoppedWith t s.me.slot (s.me.pc + 8) s.me.loops) ∧
      (drained s s.me = false → ∃ t, exec (.region mask) s = .next t ∧ t.me.st = .stopping ∧ triesIssue t.me = false ∧
        t.me.pc = s.me.pc + 8 ∧ t.me.region = .clean ∧ t.me.cairn.pc = s.me.pc + 8)) ∧
    (∀ mask, regionWaits s = true → exec (.region mask) s = .next s) ∧
    (∀ mask, regionWaits s = false → s.me.st ≠ .stopping → (getCtx s s.me.ctx).finalStop = false →
      ∃ t, exec (.region mask) s = .next t ∧ t.me.pc = s.me.pc + 8 ∧ t.me.region = .clean ∧ t.me.rollbacks = 0 ∧
        t.me.cairn.pc = s.me.pc + 8 ∧ t.me.cairn.loops = s.me.loops ∧ t.me.cairn.sregs = s.me.sregs ∧
        t.me.cairn.shapes = s.me.shapes ∧ t.me.cairn.streams = s.me.streams ∧ t.me.cairn.tags = s.me.tags ∧
        (∀ n : BitVec 5, mask.getLsbD n.toNat = true → ⟨n, nameOf s.me n⟩ ∈ t.me.cairn.live) ∧
        (∀ l ∈ t.me.cairn.live, mask.getLsbD l.name.toNat = true) ∧
        t.me.sregs = s.me.sregs ∧ t.me.hregs = s.me.hregs ∧ t.me.shapes = s.me.shapes ∧ t.me.names = s.me.names ∧
        t.me.lstat = s.me.lstat ∧ t.me.flights = s.me.flights ∧ t.mem = s.mem ∧ t.others = s.others) ∧
    (regionWaits s = true → exec .regend s = .next s) ∧
    (regionWaits s = false →
      ∃ t, exec .regend s = .next t ∧ t.me.pc = s.me.pc + 8 ∧ t.me.region = .outside ∧ t.me.cairn.live = [] ∧
        t.me.sregs = s.me.sregs ∧ t.me.hregs = s.me.hregs ∧ t.me.shapes = s.me.shapes ∧ t.me.names = s.me.names ∧
        t.me.lstat = s.me.lstat ∧ t.me.flights = s.me.flights ∧ t.mem = s.mem ∧ t.others = s.others)

/-! ## Traps (17) -/

/-- TRAP raises the cause TRAP with its code in TVAL. A sequencer trap of a block outside handler mode whose kernel has a handler
section writes the trap record (cause code, program counter, TVAL, TINSN, a new event number), saves the loop stack, enters HANDLER with
the program counter at offset 0 of the handler section, and changes no register, no byte of memory and no other block. In a kernel
without a handler section it writes the trap record, reports event 0x20 with TCAUSE and TPC and kills the group with the cause code; in
handler mode it is DOUBLE_UNDEF for the decode causes and DOUBLE_FAULT otherwise, reported as event 0x22 or 0x21, and kills the group. -/
def Obligations.TrapsTaken : Prop :=
  (
  (∀ (s : State) (code : BitVec 16),
    exec (.trap code) s = .next (seqTrap s (wordOf (.trap code)) { cause := .trap, tval := code.setWidth 64 })) ∧
  (∀ (s : State) (insn : Word) (c : Cause) (v : Word) (k : Kernel),
    s.me.inHandler = false → getKernel s s.me.kernel = some k → k.handler ≠ [] →
    let t := seqTrap s insn { cause := c, tval := v }
    t.me.trapRec = { tcause := BitVec.ofNat 64 c.code, tpc := s.me.pc, tval := v, tinsn := insn, tcoord := 0,
                     tseq := s.evseq + 1, elg := Vector.replicate 8 0 } ∧
    t.me.pc = k.handlerBase ∧ t.me.st = .handler ∧ t.me.inHandler = true ∧ t.me.savedPc = s.me.pc ∧
    t.me.savedLoops = s.me.loops ∧ t.me.loops = s.me.loops ∧ t.me.sregs = s.me.sregs ∧ t.me.hregs = s.me.hregs ∧
    t.me.lstat = s.me.lstat ∧ t.me.names = s.me.names ∧ t.me.versions = s.me.versions ∧ t.me.flights = s.me.flights ∧
    t.mem = s.mem ∧ t.others = s.others ∧ t.evseq = s.evseq + 1)) ∧
  (
  (∀ (s : State) (insn : Word) (c : Cause) (v : Word) (k : Kernel),
    s.me.inHandler = false → getKernel s s.me.kernel = some k → k.handler = [] →
    ∃ s1 : State, s1.mem = s.mem ∧ s1.others = s.others ∧ s1.evseq = s.evseq + 1 ∧ s1.groups = s.groups ∧
      s1.me.trapRec.tcause = BitVec.ofNat 64 c.code ∧ s1.me.trapRec.tpc = s.me.pc ∧ s1.me.trapRec.tval = v ∧
      seqTrap s insn { cause := c, tval := v } =
        killGroup (ctxEvent s1 s.me.ctx 0x20 s.me.slot.toNat (BitVec.ofNat 64 c.code) s.me.pc) s.me.gid c.code .killed) ∧
  (∀ (s : State) (insn : Word) (c : Cause) (v : Word), s.me.inHandler = true →
    (c ∈ [Cause.illegal, .reservedField, .undefFuture] → seqTrap s insn { cause := c, tval := v } =
      killGroup (ctxEvent s s.me.ctx 0x22 s.me.slot.toNat s.me.pc s.me.savedPc) s.me.gid 0x21 .killed) ∧
    (c ∉ [Cause.illegal, .reservedField, .undefFuture, .doubleUndef] → seqTrap s insn { cause := c, tval := v } =
      killGroup (ctxEvent s s.me.ctx 0x21 s.me.slot.toNat s.me.pc s.me.savedPc) s.me.gid 0x20 .killed)))


/-- Outside handler mode the three forms trap ILLEGAL. In handler mode, with no element check of a handler's instruction still open, no
other held trap and no pre-emption request held: after a sequencer trap ERET goes to the saved program counter, ERET.SKIP and
ERET.ELEM (which has no element to skip) to the word after it; after an issued trap all three go to the saved program counter,
and the trapped instruction waits again (ERET), counts as performed (ERET.SKIP) or waits again with its trapping element
skipped (ERET.ELEM). The loop stack is restored; no general register, hs register, memory byte or other block changes. -/
def Obligations.EretReturns : Prop :=
  ∀ (s : State),
    (s.me.inHandler = false → ∀ i ∈ [Instr.eret, .eretSkip, .eretElem],
      exec i s = .next (seqTrap s (wordOf i) { cause := .illegal })) ∧
    (s.me.inHandler = true → checksOpen s Flight.inHandler = false → s.me.preempt = false →
      (s.me.trapped = none → s.me.trapRec.tcause.getLsbD 8 = false →
        (∀ f ∈ s.me.flights, ∀ t, f.st ≠ .trapped t) →
        ∀ p ∈ [(Instr.eret, s.me.savedPc), (.eretSkip, s.me.savedPc + 8), (.eretElem, s.me.savedPc + 8)],
          exec p.1 s = .next { s with me := { s.me with
            pc := p.2, loops := s.me.savedLoops, inHandler := false, trapped := none, wait := .none, st := .running,
            atPoint := false } }) ∧
      (∀ (f : Flight) (t : TrapInfo) (e : ElemAt), s.me.trapped = some f.id → s.me.flights = [f] → f.st = .trapped t →
        t.elem = some e → s.me.trapRec.tcause.getLsbD 8 = true → f.inPlace = false →
        (∀ p ∈ [(Instr.eret, { f with st := .waiting, structs := [], trail := none }),
            (.eretElem, { f with st := .waiting, structs := [], trail := none, skips := e.elem :: f.skips })],
          exec p.1 s = .next { s with me := { s.me with
            pc := s.me.savedPc, loops := s.me.savedLoops, inHandler := false, trapped := none, wait := .none,
            st := .running, atPoint := false, flights := [p.2] } }) ∧
        ∃ u, exec .eretSkip s = .next u ∧ u.me.pc = s.me.savedPc ∧ u.me.loops = s.me.savedLoops ∧ u.me.inHandler = false ∧
          u.me.trapped = none ∧ u.me.st = .running ∧ u.me.sregs = s.me.sregs ∧ u.me.hregs = s.me.hregs ∧ u.mem = s.mem ∧
          u.others = s.others ∧ (∃ h, u.me.flights = [h] ∧ h.id = f.id ∧ h.st = .performed)))

/-! ## Shape records, names, streams, counters (05) -/

/-- HSET writes its field of record h to the width of the field (MROW and MCOL signed, the others unsigned), so that HGET reads
that value back, and changes no other field and no other record. HGET writes a field to sa; HGET of FILL outside handler mode stays
where it is while an earlier gather that names h has still to set it. TQRY writes the capacity or the reservation it selects. TBIND
leaves the name bound to its record without a version, TDROP leaves it unbound; every other name and its current version stay, and
no version appears. WBIND sets one stream to the base in sa, the stride in sb, its count and depth and a copy of record h, no tile consumed
or prefetched. Nothing else changes but the program counter. -/
def Obligations.RecordsNamesStreams : Prop :=
  (
  ∀ (s : State),
    (∀ f : HField, ∃ u : State, exec (.hset f) s = .next u ∧
      getField (shapeOf u.me f.h) f.field =
        (let v := getS s f.sa
         match f.field with
         | .rows => (v.setWidth 13).setWidth 64 | .cols => (v.setWidth 13).setWidth 64 | .type => (v.setWidth 5).setWidth 64
         | .store => (v.setWidth 2).setWidth 64 | .pitch => (v.setWidth 17).setWidth 64
         | .mrow => (v.setWidth 40).signExtend 64 | .mcol => (v.setWidth 40).signExtend 64
         | .fmt => (v.setWidth 9).setWidth 64 | .limit => (v.setWidth 32).setWidth 64 | .scale => v
         | .fill => (v.setWidth 32).setWidth 64) ∧
      (∀ x, x ≠ f.field → getField (shapeOf u.me f.h) x = getField (shapeOf s.me f.h) x) ∧
      (∀ k, k ≠ f.h → shapeOf u.me k = shapeOf s.me k) ∧
      u = advance { s with me := { s.me with shapes := u.me.shapes, fillWait := u.me.fillWait } } ∧
      (f.field ≠ .fill → u.me.fillWait = s.me.fillWait)) ∧
    (∀ f : HField, f.field ≠ .fill ∨ fillPending s.me f.h = false →
      exec (.hget f) s = .next (advance (setS s f.sa (getField (shapeOf s.me f.h) f.field)))) ∧
    (∀ f : HField, f.field = .fill → fillPending s.me f.h = true → s.me.inHandler = false → exec (.hget f) s = .next s) ∧
    (∀ (sa : BitVec 6) (q : QuerySel), exec (.tqry sa q) s = .next (advance (setS s sa (query s q)))) ∧
    query s .reservation = s.me.rsv) ∧
  (
  ∀ (s : State),
    (∀ (t : BitVec 5) (h : BitVec 4),
      ∀ p ∈ [(Instr.tbind t h, some ({ record := h, cur := none } : TileName)), (.tdrop t, none)],
        ∃ u : State, exec p.1 s = .next u ∧ nameOf u.me t = p.2 ∧ (∀ k, k ≠ t → nameOf u.me k = nameOf s.me k) ∧
          (∀ v ∈ u.me.versions, v ∈ s.me.versions) ∧
          (∀ v ∈ s.me.versions, isCurrent s.me v = true → v.name ≠ t → v ∈ u.me.versions) ∧
          u = advance { s with me := { s.me with names := u.me.names, versions := u.me.versions } }) ∧
    (∀ f : WbindF, ∃ u : State, exec (.wbind f) s = .next u ∧
      streamOf u.me f.w = { base := getS s f.sa, stride := getS s f.sb, count := f.count, depth := f.depth,
                            copy := shapeOf s.me f.h, source := f.h, consumed := 0, prefetched := [] } ∧
      (∀ k, k ≠ f.w → streamOf u.me k = streamOf s.me k) ∧
      u = advance { s with me := { s.me with streams := u.me.streams } }))


/-- WAITC completes where each counter is at most its limit (63 is no limit), WAITT.ALL where no instruction in flight
carries a tag of the mask, WAITT.ANY where a tag of the mask is set or none is in flight; otherwise a running block parks and
nothing else changes. TAGFF writes the number of the lowest tag that is set and in the mask, or -1; TAGCLR clears the tags of
its mask. Nothing else changes but the program counter. -/
def Obligations.CountersAndTags : Prop :=
  ∀ (s : State),
    let n := fun k => (s.me.flights.filter fun f => f.kind == k).length
    let busy := fun g : BitVec 6 => s.me.flights.any fun f => f.tag == some g
    let parked : Host.Outcome State Fault Refusal := .next { s with me := { s.me with wait := .counters, st := .parked } }
    (∀ f : WaitcF,
      let ok := fun (k : CounterKind) (l : BitVec 6) => l = 63 ∨ n k ≤ l.toNat
      ((ok .ldq f.ld ∧ ok .stq f.st ∧ ok .cpq f.cp ∧ ok .opq f.op) → exec (.waitc f) s = .next (advance s)) ∧
      (¬(ok .ldq f.ld ∧ ok .stq f.st ∧ ok .cpq f.cp ∧ ok .opq f.op) → s.me.st = .running → exec (.waitc f) s = parked)) ∧
    (∀ sa : BitVec 6,
      let m := getS s sa
      let idle := ∀ g : BitVec 6, m.getLsbD g.toNat = true → busy g = false
      (idle → exec (.waittAll sa) s = .next (advance s) ∧ exec (.waittAny sa) s = .next (advance s)) ∧
      (m &&& s.me.tags ≠ 0 → exec (.waittAny sa) s = .next (advance s)) ∧
      (¬idle → s.me.st = .running → exec (.waittAll sa) s = parked ∧
        (m &&& s.me.tags = 0 → exec (.waittAny sa) s = parked)) ∧
      exec (.tagclr sa) s = .next (advance { s with me := { s.me with tags := s.me.tags &&& ~~~m } }) ∧
      ∀ sd : BitVec 6,
        (m &&& s.me.tags = 0 → exec (.tagff sd sa) s = .next (advance (setS s sd (-1)))) ∧
        (∀ g : Nat, g < 64 → (m &&& s.me.tags).getLsbD g = true → (∀ k, k < g → (m &&& s.me.tags).getLsbD k = false) →
          exec (.tagff sd sa) s = .next (advance (setS s sd (BitVec.ofNat 64 g)))))

/-- Where Rename succeeds for a name and a geometry, the name's current version has that geometry, is not DONE and holds
all-zero bits; every other name keeps its record and version, no registers, records, streams, tags or instructions in flight
change, and the name keeps its record (record 0 where it was unbound, which no issue of the model lets happen). For a load or store of a well-formed record whose memory
format is its own numeric type (PC 0, PM T), the issue checks pass where the address is a multiple of the element size, MROW is one when
there is more than one row, and MCOL when there is more than one column; where one of them is not, the check is STRIDE_ALIGN with the
address in TVAL. -/
def Obligations.RenameGivesAPendingVersion : Prop :=
  (∀ (s : State) (b c : Block) (t : BitVec 5) (g : ShapeRec) (rd : List Nat) (id : Nat),
    rename s b t g rd = .ok id c →
    (∃ v, current c t = some v ∧ v.id = id ∧ v.geom = g ∧ v.done = false ∧ v.elems = List.replicate g.count 0 ∧
      v.scales = [] ∧ v.poison = []) ∧
    (∀ k, k ≠ t → nameOf c k = nameOf b k) ∧
    (∀ n, nameOf b t = some n → ∃ m, nameOf c t = some m ∧ m.record = n.record) ∧
    sameControl c b) ∧
  (∀ (g : ShapeRec) (h : BitVec 4) (a : Word) (store : Bool),
    g.ok = true → g.fmt = 0 → g.type.toNat ∈ [1, 2, 3, 4, 5, 6, 8, 9, 10] →
    let es : Nat := typeBits g.type / 8
    let aligned := a.toNat % es = 0 ∧ (1 < g.rows.toNat → g.mrow.toInt % (es : Int) = 0) ∧
      (1 < g.cols.toNat → g.mcol.toInt % (es : Int) = 0)
    (aligned → checkOperands g h.toNat a.toNat 0 false store g.type true = none) ∧
    (¬aligned → checkOperands g h.toNat a.toNat 0 false store g.type true = some { cause := .strideAlign, tval := a }))

/-! ## Issuing tile memory instructions (05) -/

/-- Where the issue checks pass and Rename finds room, each of the five is put into the tile dependency table with its
address s + off * 64 (for TLDW the base of the stream plus the consumed tiles' strides), its record, its new version and its tag,
counting in LDQ, and nothing else changes; TLDFF, TGTH and TGTH.FULL will set FILL of the record; a load of a CB3 operand takes its codebook
tables; TLDW has consumed one tile of its stream. Where a check fails, its trap is taken: those of the operands and, for CB3, of the tables
in the ring; TGTH traps TYPE with 0x100 + h where MCOL is not the size of a memory element; TLDW traps BOUND with the count in TVAL when no
tile is left. The block is outside handler mode, has room in its window and does not perform the instruction at once. The order of the
checks is log entry 28; TYPE with 0x100 + h for a ring with too few tables is log entry 68; the old version of TGTH is one of equal ROWS,
COLS, TYPE and STORE, whatever its PITCH (log entry 64), and its companion name is bound to h where it is unbound (log entry 69). -/
def Obligations.TileLoadsIssue : Prop :=
  ∀ (s : State), issuesTile s →
    (∀ (f : TmF),
      let g := shapeOf s.me f.h
      let a := tmAddr s f.s f.off
      let ops := checkOperands g f.h.toNat a.toNat f.pc.toNat (f.pm == .guarded) false g.type true
      let tables := checkTables s g f.h.toNat
      let fl := fun i id => { flight i a g f.h .ldq with dst := some id, tag := if f.te then some f.tag else none }
      let taken := fun b : Block => { s with cbs := reserveTables s.cbs b.slot (tablesNeeded g) b.nextId }
      (ops = none → tables = none → ∀ id b, renameFor s f.t f.h g [] = .ok id b →
        exec (.tld f) s = .next (inFlight (taken b) b (fl (.tld f) id)) ∧
        exec (.tldff f) s =
          .next (inFlight (taken b) { b with fillWait := b.fillWait ++ [(b.nextId, f.h, true)] } (fl (.tldff f) id))) ∧
      (∀ t, ops = some t ∨ (ops = none ∧ tables = some t) →
        exec (.tld f) s = .next (seqTrap s (wordOf (.tld f)) t) ∧ exec (.tldff f) s = .next (seqTrap s (wordOf (.tldff f)) t))) ∧
    (∀ (f : TmIdxF),
      let g := shapeOf s.me f.h
      let a := tmAddr s f.s f.off
      let c := checkIndexed s.me f g a
      let tb := curId s.me f.t2
      let tag := if f.te then some f.tag else none
      (c = none → ∀ id b,
        renameFor s f.t f.h g (Flight.reads { flight (.tgthFull f) a g f.h .ldq with tb := tb, tag := tag }) = .ok id b →
        exec (.tgthFull f) s = .next (inFlight s { b with fillWait := b.fillWait ++ [(b.nextId, f.h, true)] }
          { flight (.tgthFull f) a g f.h .ldq with tb := tb, tag := tag, dst := some id })) ∧
      (∀ t, c = some t → exec (.tgthFull f) s = .next (seqTrap s (wordOf (.tgthFull f)) t) ∧
        exec (.tgth f) s = .next (seqTrap s (wordOf (.tgth f)) t)) ∧
      (c = none → g.mcol.toInt ≠ (typeBits g.memType / 8 : Nat) → exec (.tgth f) s =
        .next (seqTrap s (wordOf (.tgth f)) { cause := .type, tval := BitVec.ofNat 64 (0x100 + f.h.toNat) })) ∧
      (let comp := current s.me (f.t2 + 1)
       let usable := comp.filter fun v => v.geom.type == 15 && v.geom.count == g.count
       let fl : Flight := { flight (.tgth f) a g f.h .ldq with
         tb := tb, tag := tag, old := ((current s.me f.t).filter fun v => sameTile v.geom g).map Version.id
         tc := usable.map Version.id, ta := if usable.isNone then comp.map Version.id else none }
       c = none → g.mcol.toInt = (typeBits g.memType / 8 : Nat) → ∀ id b id2 b2,
         renameFor s f.t f.h g fl.reads = .ok id b →
         renameFor { s with me := b } (f.t2 + 1) f.h { rows := g.rows, cols := g.cols, type := 15, store := 2 } fl.reads
           = .ok id2 b2 →
         exec (.tgth f) s = .next (inFlight s { b2 with fillWait := b2.fillWait ++ [(b2.nextId, f.h, true)] }
           { fl with dst := some id, dst2 := some id2 }))) ∧
    (∀ (t : BitVec 5) (w : BitVec 3),
      let x := streamOf s.me w
      let a := BitVec.ofNat 64 (wrap64 (x.base.toNat + x.consumed * x.stride.toInt))
      let ops := checkOperands x.copy x.source.toNat a.toNat 0 false false x.copy.type true
      let tables := checkTables s x.copy x.source.toNat
      (x.consumed = x.count.toNat → exec (.tldw t w) s =
        .next (seqTrap s (wordOf (.tldw t w)) { cause := .bound, tval := x.count.setWidth 64 })) ∧
      (∀ c, x.consumed ≠ x.count.toNat → ops = some c ∨ (ops = none ∧ tables = some c) →
        exec (.tldw t w) s = .next (seqTrap s (wordOf (.tldw t w)) c)) ∧
      (x.consumed ≠ x.count.toNat → ops = none → tables = none → ∀ id b, renameFor s t x.source x.copy [] = .ok id b →
        exec (.tldw t w) s = .next (inFlight { s with cbs := reserveTables s.cbs b.slot (tablesNeeded x.copy) b.nextId }
          (setStream b w { x with consumed := x.consumed + 1 })
          { flight (.tldw t w) a x.copy x.source .ldq with dst := some id, addr2 := BitVec.ofNat 64 x.consumed })))

/-- Where the issue checks pass, TST, TSCT and TOPT are put into the tile dependency table with their address, their record,
the current version of t (and of the index tile) and their tag, counting in STQ; BCOPY with its destination and source,
counting in CPQ; TCB with its address, with as many new ring tables as it loads; unless the block in the other slot of the
core holds the ring, it is claimed for the oldest TCB of the block whose tables are in it, else the TCB waits in the window (R141). A BCOPY
of length 0 completes at once and sets its tag. Nothing else changes: no byte of memory, no version, no register. Where a check of
TST, TSCT or TOPT fails, its trap is taken, that of the operands before that of the tile (log entry 28); a TCB address that is no multiple
of 16 traps STRIDE_ALIGN; a TCB of more tables than the slots that are free or that loads already issued will free traps TYPE with their
number in TVAL, and one that waits for such slots stays. -/
def Obligations.TileStoresIssue : Prop :=
  ∀ (s : State), issuesTile s →
    (∀ (f : TmF),
      let g := shapeOf s.me f.h
      let a := tmAddr s f.s f.off
      let tag := if f.te then some f.tag else none
      let ops := checkOperands g f.h.toNat a.toNat f.pc.toNat (f.pm == .guarded) true g.type true
      (ops = none → tileMatches s.me f.t g f.h = none →
        exec (.tst f) s = .next (inFlight s s.me { flight (.tst f) a g f.h .stq with ta := curId s.me f.t, tag := tag })) ∧
      (∀ t, ops = some t → exec (.tst f) s = .next (seqTrap s (wordOf (.tst f)) t)) ∧
      (∀ t, ops = none → tileMatches s.me f.t g f.h = some t → exec (.tst f) s = .next (seqTrap s (wordOf (.tst f)) t)) ∧
      (checkTopt s.me f g a = none →
        exec (.topt f) s = .next (inFlight s s.me { flight (.topt f) a g f.h .stq with ta := curId s.me f.t, tag := tag })) ∧
      (∀ t, checkTopt s.me f g a = some t → exec (.topt f) s = .next (seqTrap s (wordOf (.topt f)) t))) ∧
    (∀ (f : TmIdxF),
      let g := shapeOf s.me f.h
      let a := tmAddr s f.s f.off
      (checkIndexed s.me f g a true = none → tileMatches s.me f.t g f.h = none →
        exec (.tsct f) s = .next (inFlight s s.me { flight (.tsct f) a g f.h .stq with
          ta := curId s.me f.t, tb := curId s.me f.t2, tag := if f.te then some f.tag else none })) ∧
      (∀ t, checkIndexed s.me f g a true = some t → exec (.tsct f) s = .next (seqTrap s (wordOf (.tsct f)) t)) ∧
      (∀ t, checkIndexed s.me f g a true = none → tileMatches s.me f.t g f.h = some t →
        exec (.tsct f) s = .next (seqTrap s (wordOf (.tsct f)) t))) ∧
    (∀ (f : TcbF),
      let a := getS s f.sa
      let l := s.cbs.filter fun t => t.slot == s.me.slot
      let new : CbTable := ⟨s.me.slot, s.me.nextId, none, false, none⟩
      let all := l ++ List.replicate f.n.toNat new
      (a.toNat % 16 = 0 → f.n.toNat + l.length ≤ 4 →
        exec (.tcb f) s = .next (inFlight { s with cbs := s.cbs ++ List.replicate f.n.toNat new }
          { s.me with cbClaim := if ringTaken s then s.me.cbClaim else s.me.cbClaim.or (all.head?.map CbTable.tcb) }
          { flight (.tcb f) a {} 0 .cpq with tag := if f.te then some f.tag else none })) ∧
      (a.toNat % 16 ≠ 0 →
        exec (.tcb f) s = .next (seqTrap s (wordOf (.tcb f)) { cause := .strideAlign, tval := a })) ∧
      (let room := 4 - l.length + (l.filter fun t => t.by_.isSome).length
       a.toNat % 16 = 0 →
        (room < f.n.toNat → exec (.tcb f) s =
          .next (seqTrap s (wordOf (.tcb f)) { cause := .type, tval := BitVec.ofNat 64 f.n.toNat })) ∧
        (f.n.toNat ≤ room → 4 < f.n.toNat + l.length → l.length ≤ 4 → exec (.tcb f) s = .next s))) ∧
    (∀ (f : BcopyF), copiesInFlight s < 256 →
      (f.len ≠ 0 → exec (.bcopy f) s = .next (inFlight s s.me { flight (.bcopy f) (getS s f.sa) {} 0 .cpq with
        addr2 := getS s f.sb, tag := if f.te then some f.tag else none })) ∧
      (f.len = 0 → f.te = false → exec (.bcopy f) s = .next (advance s)) ∧
      (f.len = 0 → f.te = true → tagCount s.me f.tag = 0 →
        exec (.bcopy f) s =
          .next (advance { s with me := { s.me with tags := s.me.tags ||| BitVec.twoPow 64 f.tag.toNat } })))

/-! ## Performing loads and stores (05) -/

/-- When a TLD or TGTH.FULL of a plain operand (no LP, CB3, MASK or SP2 format) performs for the first time, no index is out of bounds, and
every element's access is one piece of device memory that is neither held nor poisoned and of which the die holds no guest copy, element e
of its version is what the little-endian bytes at the translation of A + r * MROW + c * MCOL (or A + index * MCOL) hold, bit for bit
without a conversion (FMT 0), else converted to TYPE; TGTH.FULL sets FILL to the element count; the instruction counts as performed, and
memory, registers, names, flags and other versions are unchanged. The translations are held, so that the accesses change nothing. -/
def Obligations.LoadFillsElements : Prop :=
  ∀ (s : State) (f : Flight) (v : Version) (sg : Nat → Seg),
    let l := layoutOf s.me f []
    let mt := f.shape.memType
    let n := typeBits mt / 8
    let es := List.range f.shape.count
    (∃ g, f.ins = .tld g) ∨ (∃ g, f.ins = .tgthFull g) → Instr.aqBit f.ins = false →
    findFlight s.me f.id = some f → f.dst = some v.id → findVersion s.me v.id = some v → (∀ x ∈ s.me.versions, x.poison = []) →
    mt.toNat ∈ [1, 2, 3, 4, 5, 6, 8, 9, 10] → f.shape.type ≠ 11 → (∀ e ∈ es, l.outOfBounds e = false) →
    f.elg = Vector.replicate 8 0 → f.skips = [] → f.first = none → f.pins = [] → (∀ w ∈ s.me.streams.toList, w.prefetched = []) →
    v.elems.length = f.shape.count → s.cbs = [] → s.faults = [] → s.held = [] →
    (∀ x ∈ f.lgs, x < 8) → f.lgs.Nodup → f.lgs ≠ [] → plainReads s f n es l.addr sg →
    performedWith s (performFlight s f) f v (es.map fun e => BitVec.ofNat 32
      (if f.shape.fmt = 0 then memNat s.mem (sg e).pa n else convPat mt f.shape.type (memNat s.mem (sg e).pa n))) v.scales ∧
    (∀ g, f.ins = .tgthFull g → (f.id, f.record.extractLsb' 0 4, true) ∈ s.me.fillWait →
      (shapeOf (performFlight s f).me (f.record.extractLsb' 0 4)).fill = BitVec.ofNat 32 f.shape.count)

/-- When a TST or TSCT of a 1 x 1 tile of a plain memory type performs, its index is in bounds, and the access at its address (what its issue
computed from s + off * 64, plus the index times MCOL) translates to one piece at `pa` on lines that are not held, the element's pattern
lies little-endian in the memory type's bytes at `pa`, bit for bit without a conversion (FMT 0); every other byte of memory reads as the
translation left it, and the instruction counts as performed. -/
def Obligations.StoreWritesItsBytes : Prop :=
  ∀ (s s1 : State) (f : Flight) (v : Version) (sg : Seg),
    let l := layoutOf s.me f []
    let mt := f.shape.memType
    let n := typeBits mt / 8
    let pa := sg.pa
    let x := (v.elems.getD 0 0).toNat
    (∃ g, f.ins = .tst g) ∨ (∃ g, f.ins = .tsct g) → Instr.aqBit f.ins = false →
    s.me.flights = [f] → f.ta = some v.id → findVersion s.me v.id = some v → (∀ x ∈ s.me.versions, x.poison = []) →
    f.shape.rows = 1 → f.shape.cols = 1 → mt.toNat ∈ [1, 2, 3, 4, 5, 6, 8, 9, 10] → l.outOfBounds 0 = false →
    f.elg = Vector.replicate 8 0 → f.skips = [] → f.started = false → f.lgs = [0] → f.pins = [] → s.me.slot = s1.me.slot →
    l.addr 0 + n ≤ 2 ^ 64 → memWf s1.mem = true → s1.me.flights = [f] → s1.faults = [] → s1.held = [] →
    sg.va = l.addr 0 → sg.len = n → lineHeld s1 (some s.me.slot) pa n = false →
    accessPages s s.me [(l.addr 0, n)] .write .tile (some f) = (.ok [sg], s1) →
    (∃ h, (performFlight s f).me.flights = [h] ∧ h.st = .performed) ∧
    memNat (performFlight s f).mem pa n = (if f.shape.fmt = 0 then x else convPat f.shape.type mt x) % 2 ^ (8 * n) ∧
    ∀ a, (a < pa ∨ pa + n ≤ a) → memRead (performFlight s f).mem a = memRead s1.mem a

/-- Performing TGTH with no outstanding index out of bounds puts the elements in the aligned 1,024-byte window of the lowest outstanding one
into its version, keeps the old version's values (or 0) elsewhere, writes the mask of the elements still outstanding to the companion, and
sets FILL to the count of the others. Performing TOPT on one element whose planes lie in bytes of their own writes each plane that
changes of the pattern that R142 computes, and no other byte. Performing TCB fills its tables with the 16-byte groups at its address and
leaves the other tables; they still have to arrive. Performing a BCOPY of at most 64 bytes leaves the source's bytes at the destination, as
if all were read before any is written, and no other byte changes. Each counts as performed. The accesses are taken to translate to device
memory without poison, held lines or guest copies, the reads without a change. -/
def Obligations.TileMemoryMoves : Prop :=
  ∀ (s s1 : State) (f : Flight) (rd wr : List Seg) (at_ : Nat → Nat), s.me.flights = [f] → s.faults = [] → s.held = [] →
    s1.me = s.me → s1.faults = [] → s1.held = [] → f.pins = [] → f.skips = [] → Instr.aqBit f.ins = false →
    (∀ x ∈ s.me.versions, x.poison = []) → (∀ g ∈ rd, regionOf g.pa = .hbm) → segsStop s s.me rd true (some f) = none →
    segsStop s1 s1.me rd true (some f) = none → segsStop s1 s1.me wr false (some f) = none →
    (∀ c g d d2, f.ins = .tgth c → f.shape = g → f.dst = some d.id → f.dst2 = some d2.id → d.id ≠ d2.id →
      findVersion s.me d.id = some d → findVersion s.me d2.id = some d2 → g.type ≠ 11 →
      g.memType.toNat ∈ [1, 2, 3, 4, 5, 6, 8, 9, 10] → (f.id, f.record.extractLsb' 0 4, true) ∈ s.me.fillWait →
      let l := layoutOf s.me f []
      let n := typeBits g.memType / 8
      let out := outstanding s f
      let win := out.filter fun e => decide (l.addr e / 1024 = l.addr (out.headD 0) / 1024)
      let old := match f.old.bind (findVersion s.me) with | some v => v.elems | none => []
      let val := fun e => if e ∈ win then BitVec.ofNat 32 (convPat g.memType g.type (memNat s.mem (at_ e) n)) else old.getD e 0
      let mask := fun e => if e ∈ out ∧ e ∉ win then (1 : Half) else 0
      (∀ e ∈ out, l.outOfBounds e = false) → out ≠ [] →
      accessPages s s.me (win.map fun e => (l.addr e, n)) .read .tile (some f) = (.ok rd, s) →
      (∀ e ∈ win, viaBytes s rd (l.addr e) n (at_ e)) →
      let t := performFlight s f
      (∃ h, t.me.flights = [h] ∧ h.st = .performed) ∧ t.mem = s.mem ∧
      findVersion t.me d.id = some { d with elems := (List.range g.count).map val, poison := [] } ∧
      findVersion t.me d2.id = some { d2 with elems := (List.range g.count).map mask } ∧
      (shapeOf t.me (f.record.extractLsb' 0 4)).fill =
        BitVec.ofNat 32 (g.count - (out.filter fun e => decide (e ∉ win)).length)) ∧
    (∀ c pl v, f.ins = .topt c → f.shape.memType = 16 → f.planes = some pl → f.early = [] → f.shape.rows = 1 → f.shape.cols = 1 →
      f.lgs = [0] → f.elg = Vector.replicate 8 0 → f.ta = some v.id → findVersion s.me v.id = some v →
      (∀ w ∈ s.me.streams.toList, w.prefetched = []) → memWf s1.mem = true → s1.mem = s.mem →
      let l := layoutOf s.me f pl
      let fld := fun k => l.planeField k 0
      let has := fun (m : List Host.Cell) k => bitsOf (memNat m (at_ k) (fld k).bytes) (fld k).bit (planeBits k)
      let old := (List.range 5).foldl (fun a k => a * 2 ^ planeBits k + has s.mem k) 0
      let new := toptNew old (v.elems.getD 0 0).toNat (l.plane 0).scale
      let plane := fun x k => bitsOf x (32 - planesWidth (k + 1)) (planeBits k)
      let changed := (List.range 5).filter fun k => plane old k != plane new k
      accessPages s s.me (l.ranges 5 0) .read .tile (some f) = (.ok rd, s) →
      accessPages s s.me (changed.map fun k => ((fld k).va, (fld k).bytes)) .write .tile
        (some { f with pins := addPins 0 [] rd }) = (.ok wr, s1) →
      (∀ k < 5, viaBytes s rd (fld k).va (fld k).bytes (at_ k)) →
      (∀ k ∈ changed, ∀ i < (fld k).bytes, (viaSegs wr (((fld k).va + i) % 2 ^ 64)).map Prod.fst = some (at_ k + i)) →
      (∀ j < 5, ∀ k < 5, j ≠ k → at_ j + (fld j).bytes ≤ at_ k ∨ at_ k + (fld k).bytes ≤ at_ j) →
      let t := performFlight s f
      (∃ h, t.me.flights = [h] ∧ h.st = .performed) ∧ (∀ k < 5, has t.mem k = plane new k) ∧
      ∀ a, (∀ k ∈ changed, a < at_ k ∨ at_ k + (fld k).bytes ≤ a) → memRead t.mem a = memRead s.mem a) ∧
    (∀ c, f.ins = .tcb c → ringTaken s = false →
      accessRanges s [(f.addr.toNat, 16 * c.n.toNat)] .read .copy true (some f) = (.ok rd, s) →
      viaBytes s rd f.addr.toNat (16 * c.n.toNat) (at_ 0) →
      let mine := fun t : CbTable => t.slot == s.me.slot && t.tcb == f.id
      (s.cbs.filter mine).length = c.n.toNat →
      let t := performFlight s f
      (∃ h, t.me.flights = [h] ∧ h.st = .performed) ∧ t.mem = s.mem ∧
      (t.cbs.filter mine).map (fun x => (x.data, x.arrived)) = (List.zip (List.range c.n.toNat) (s.cbs.filter mine)).map (fun p =>
        (some (Vector.ofFn fun (j : Fin 8) => BitVec.ofNat 16 (memNat s.mem (at_ 0 + 16 * p.1 + 2 * j.val) 2)), p.2.arrived)) ∧
      (t.cbs.filter fun x => !mine x) = s.cbs.filter fun x => !mine x) ∧
    (∀ c w, f.ins = .bcopy c → f.elg = Vector.replicate 8 0 → wr = [w] → memWf s1.mem = true →
      let n := c.len.toNat
      0 < n → n ≤ 64 → w.len = n →
      accessRanges s [(f.addr2.toNat, n)] .read .copy false (some f) = (.ok rd, s) →
      accessRanges s [(f.addr.toNat, n)] .write .copy false (some f) = (.ok wr, s1) →
      viaBytes s1 rd f.addr2.toNat n (at_ 0) → (∀ g ∈ rd, poisonedAt s1 g.pa g.len = false) →
      let t := performFlight s f
      (∃ h, t.me.flights = [h] ∧ h.st = .performed) ∧ memBytes t.mem w.pa n = memBytes s1.mem (at_ 0) n ∧
      ∀ a, (a < w.pa ∨ w.pa + n ≤ a) → memRead t.mem a = memRead s1.mem a)

/-! ## Tile compute (06) and sparse tiles (08) -/

/-- With td bound to a well-formed FP32 record in the C-store (one row for MMV, and with .acc a version of that geometry),
and sources of the geometry the instruction asks for, all DONE or not, each of the four is put into the tile dependency table
with its sources and its destination, and nothing else changes. MMV on a bound name without a version whose record has STORE
none is the understory form: it issues with that record where the record passes R161 and its region translates, and holds the
translations; it traps TYPE where a page is not UL or the region has two homes; where a page faults it issues without them and stops there,
while the block goes on. A source of MMA without a version traps TYPE with the name's number. A version of that geometry is one of equal
ROWS, COLS, TYPE and STORE, whatever its PITCH (log entry 64), and a version held as a message, or one for whose successor the instruction
has waited for room, is not written in place (log entry 85); the order of the region's fault, UL and die checks is log entry 65. -/
def Obligations.MatrixInstructionsIssue : Prop :=
  ∀ (s : State) (f : MmF), issuesTile s →
    let g := destGeom s.me f.td
    let dst := fun vec : Bool => (nameOf s.me f.td).isSome = true ∧ g.ok = true ∧ g.store = 3 ∧ g.type = 10 ∧
      (vec = true → g.rows = 1) ∧ (f.acc = true → ∃ v, current s.me f.td = some v ∧ sameTile v.geom g = true)
    let weights := fun x : ShapeRec => x.store = 1 ∧ x.type.toNat ∈ [8, 9, 11]
    (∀ a w, current s.me f.ta = some a → current s.me f.tb = some w →
      let fl := fun i => { cflight i with ta := some a.id, tb := some w.id }
      let dense := a.geom.store = 2 ∧ a.geom.type.toNat ∈ [8, 9] ∧ a.geom.rows = g.rows ∧ weights w.geom ∧
        w.geom.rows = a.geom.cols ∧ w.geom.cols = g.cols
      (dst false → dense → matrixIssued s f.td f.acc (fl (.mma f)) (exec (.mma f) s)) ∧
      (dst true → dense → matrixIssued s f.td f.acc (fl (.mmv f)) (exec (.mmv f) s)) ∧
      (dst false → isHandle a.geom = true → weights w.geom → w.geom.cols = g.cols →
        matrixIssued s f.td f.acc (fl (.mmas f)) (exec (.mmas f) s)) ∧
      (dst false → isHandle a.geom = true → isHandle w.geom = true →
        matrixIssued s f.td f.acc (fl (.mmss f)) (exec (.mmss f) s))) ∧
    (∀ a, current s.me f.ta = some a → isUnderstory s.me f.tb = true → dst true →
      a.geom.store = 2 → a.geom.type.toNat ∈ [8, 9] → a.geom.rows = 1 →
      let h := recordOf s.me f.tb
      let r := shapeOf s.me h
      checkRegionRec r h a.geom.cols.toNat g.cols.toNat = none →
      (∀ l k s1, regionCheck s r = (.ok l k, s1) → issuesTile s1 → s1.me = s.me →
        matrixIssued s1 f.td f.acc
          { cflight (.mmv f) with ta := some a.id, shape := r, record := h.setWidth 5, pins := pinsOf (l ++ k) }
          (exec (.mmv f) s)) ∧
      (∀ w s1 id b, regionCheck s r = (.stop w, s1) → issuesTile s1 → s1.me = s.me → s1.held = [] → f.acc = false →
        let fl := { cflight (.mmv f) with ta := some a.id, shape := r, record := h.setWidth 5 }
        rename s1 s1.me f.td g fl.reads = .ok id b →
        let u := inFlight s1 b { fl with dst := some id }
        ∀ x, u.me.flights.getLast? = some x → exec (.mmv f) s = .next (stopFlight u x 0 w)) ∧
      (∀ t s1, regionCheck s r = (.trap t, s1) → exec (.mmv f) s = .next (trapType s1 (wordOf (.mmv f)) t))) ∧
    (f.acc = false → current s.me f.ta = none →
      exec (.mma f) s = .next (seqTrap s (wordOf (.mma f)) { cause := .type, tval := f.ta.setWidth 64 }))

/-- With td bound to a well-formed record: TFILL issues (for an SP2 record where the value is below 256), TMOV from a source of
the same type and element count, TCVT between numeric tiles of the A- or C-store of equal count, TSCAN from a tile of td's rows
and columns whose operation is allowed and whose accumulation type is td's, with a mask of its count where ME is set; REDUCE and
MAP where the checks of their rules pass, with the constants of R168 and (where a lane function is named) that function brought
into the store of the core. A lane function that the core's capacity does not fit reports OVERCAP; an offset without a function
traps ILLEGAL with the offset. A source of TMOV, TCVT or TSCAN without a version traps TYPE with the name's number. -/
def Obligations.VectorInstructionsIssue : Prop :=
  ∀ (s : State), issuesTile s →
    (∀ td : BitVec 5, (nameOf s.me td).isSome = true → (destGeom s.me td).ok = true →
      let g := destGeom s.me td
      let core := slotCore s.me.slot
      (∀ imm : BitVec 24, g.type ≠ 11 ∨ imm.toNat < 256 →
        computeIssued s td (cflight (.tfill td imm)) (exec (.tfill td imm) s)) ∧
      (∀ ta a, current s.me ta = some a → a.geom.type = g.type → a.geom.count = g.count →
        computeIssued s td { cflight (.tmov td ta) with ta := some a.id } (exec (.tmov td ta) s)) ∧
      (∀ ta a, current s.me ta = some a → inAC g = true → inAC a.geom = true → (numOf g.type).isSome = true →
        (numOf a.geom.type).isSome = true → a.geom.count = g.count →
        computeIssued s td { cflight (.tcvt td ta) with ta := some a.id } (exec (.tcvt td ta) s)) ∧
      (∀ (f : ScanF) a, f.td = td → current s.me f.ta = some a → inAC g = true → inAC a.geom = true →
        opAllowed a.geom.type f.op = true → accType a.geom.type = some g.type → a.geom.rows = g.rows → a.geom.cols = g.cols →
        (f.me = false → computeIssued s td { cflight (.tscan f) with ta := some a.id } (exec (.tscan f) s)) ∧
        (∀ m, f.me = true → current s.me f.tc = some m → m.geom.type = 15 → m.geom.count = a.geom.count →
          computeIssued s td { cflight (.tscan f) with ta := some a.id, tc := some m.id } (exec (.tscan f) s))) ∧
      (∀ f : RedF, f.td = td → f.pf = false → checkReduce s.me f (geomOf s.me f.ta).type = none →
        computeIssued s td (redFlight s f) (exec (.reduce f) s)) ∧
      (∀ (f : RedF) h code, f.td = td → f.pf = true → fnAt s f.imm = some (h, code) →
        checkReduce s.me f (typeAfter (laneType h).type code) = none → laneFits s core h = true →
        computeIssued (laneName s core s.me.kernel f.imm.toNat) td (redFlight s f) (exec (.reduce f) s)) ∧
      (∀ (f : MapF) h code, f.td = td → fnAt s f.imm = some (h, code) → checkMap s.me f h code = none →
        (laneFits s core h = true →
          computeIssued (laneName s core s.me.kernel f.imm.toNat) td (mapFlight s f) (exec (.map f) s)) ∧
        (laneFits s core h = false → exec (.map f) s = .next (overcapSelf s s.me.slot)))) ∧
    (∀ f : MapF, fnAt s f.imm = none →
      exec (.map f) s = .next (seqTrap s (wordOf (.map f)) { cause := .illegal, tval := f.imm.setWidth 64 })) ∧
    (∀ td ta : BitVec 5, current s.me ta = none → ∀ i ∈ [Instr.tmov td ta, .tcvt td ta],
      exec i s = .next (seqTrap s (wordOf i) { cause := .type, tval := ta.setWidth 64 })) ∧
    (∀ f : ScanF, current s.me f.ta = none →
      exec (.tscan f) s = .next (seqTrap s (wordOf (.tscan f)) { cause := .type, tval := f.ta.setWidth 64 }))

/-- Performing TFILL, TMOV or TCVT, whose sources hold no poison, writes the destination version whole and changes no other
version, register, name or byte of memory and no flag: TFILL one value in every element: the 24 bits as a signed value clamped to the range
of an I or N type, as the upper 24 bits of an FP32 pattern for FP32, that FP32 value rounded for FP16 and BF16, 0 or 1 for MASK, the low
byte for the weights of an SP2 tile; TMOV the source's patterns and
scale vector in element order, TCVT each pattern converted between the two types. The scale vector of an SP2 tile that TFILL
writes is a free value (log entry 16), about which nothing is said. -/
def Obligations.FillMoveConvert : Prop :=
  ∀ (s : State) (f : Flight) (d : Version), s.faults = [] → s.held = [] →
    findFlight s.me f.id = some f → f.dst = some d.id → findVersion s.me d.id = some d →
    (∀ td imm, f.ins = .tfill td imm →
      ∃ (x : Half) (sc : List (BitVec 16)), performedWith s (performFlight s f) f d (List.replicate d.geom.count x) sc ∧
        (d.geom.type ≠ 11 → sc = []) ∧
        (∀ sg n, numOf d.geom.type = some (.int sg n) →
          x = BitVec.ofInt 32 (if sg then max (-(2 ^ (n - 1) : Nat)) (min (2 ^ (n - 1) - 1 : Nat) imm.toInt)
            else max 0 (min (2 ^ n - 1 : Nat) imm.toInt)) &&& BitVec.ofNat 32 (2 ^ n - 1)) ∧
        (d.geom.type = 10 → x = BitVec.ofNat 32 (imm.toNat * 256)) ∧
        (∀ t, (d.geom.type = 8 ∧ t = fp16) ∨ (d.geom.type = 9 ∧ t = bf16) →
          x = BitVec.ofNat 32 (fpPut t false (fpRead fp32 false (imm.toNat * 256))).bits) ∧
        (d.geom.type = 15 → x = if imm = 0 then 0 else 1) ∧
        (d.geom.type = 11 → x = imm.setWidth 32 &&& 0xFF)) ∧
    (∀ td ta a, f.ins = .tmov td ta → f.ta = some a.id → findVersion s.me a.id = some a → a.poison = [] →
      performedWith s (performFlight s f) f d a.elems a.scales) ∧
    (∀ td ta a, f.ins = .tcvt td ta → f.ta = some a.id → findVersion s.me a.id = some a → a.poison = [] →
      performedWith s (performFlight s f) f d
        (a.elems.map fun x => BitVec.ofNat 32 (convPat a.geom.type d.geom.type x.toNat)) [])

/-- Performing a matrix instruction writes each element (i, j) of its version by the loop of R52: over chunks of 16 consecutive k in rising
order, from the old element (where it accumulates) or +0, the exact sum of the accumulator and the chunk's products is rounded once to FP32;
a chunk without a product leaves the accumulator (R221). The products are A(i, k) * B(k, j) for MMA and for the engine form of MMV, whose SP2
weights carry the scale of their column; for the understory form B's column j lies at SCALE + j * MROW in memory; for MMAS, one for each entry
of row i, with its column as k; for MMSS, one for each pair of an entry of A's row i and an entry of B in the row of its column and in column
j. Memory, registers, names, flags and other versions are unchanged. The sparse clauses take structures that are already read (R222), with
the values that reading val gives. -/
def Obligations.MatrixInstructionsWrite : Prop :=
  ∀ (s : State) (f : Flight) (d : Version), s.faults = [] → s.held = [] → s.poison = [] → s.me.flights = [f] → f.dst = some d.id →
    findVersion s.me d.id = some d → (∀ x ∈ s.me.versions, x.poison = []) →
    let m := d.geom.rows.toNat
    let n := d.geom.cols.toNat
    let old := match f.old.bind (findVersion s.me) with | some v => v.elems | none => []
    let gives := fun (k : Nat) (ps : Nat → Nat → List (Nat × Fp)) =>
      ∃ e, performedWith s (performFlight s f) f d e [] ∧ e.length = m * n ∧ ∀ i < m, ∀ j < n,
        e.getD (i * n + j) 0 = BitVec.ofNat 32 (chunkLoop k (old.getD (i * n + j) 0).toNat (ps i j))
    let mul := fun x y => (fpMulExact x y).1
    (∀ c a w, f.ins = .mma c ∨ f.ins = .mmv c → f.ta = some a.id → findVersion s.me a.id = some a → f.tb = some w.id →
      findVersion s.me w.id = some w → a.geom.type.toNat ∈ [8, 9] → a.geom.rows = d.geom.rows → w.geom.rows = a.geom.cols →
      w.geom.cols = d.geom.cols → a.elems.length = a.geom.count → w.elems.length = w.geom.count → 1 ≤ m → 1 ≤ n →
      let k := a.geom.cols.toNat
      let av := fun i x => fpOfTile a.geom.type (a.elems.getD (i * k + x) 0).toNat
      let wv := fun x j =>
        let p := (w.elems.getD (x * n + j) 0).toNat
        if w.geom.type = 11 then sp2Weight (p % 256) (w.scales.getD j 0).toNat else fpOfTile w.geom.type p
      1 ≤ k → gives k fun i j => (List.range k).map fun x => (x, mul (av i x) (wv x j))) ∧
    (∀ c a region scale, f.ins = .mmv c → f.tb = none → f.ta = some a.id → findVersion s.me a.id = some a → a.geom.type.toNat ∈ [8, 9] →
      let r := f.shape
      let k := r.rows.toNat
      let sz := weightBytes r
      m = 1 → r.cols = d.geom.cols → 1 ≤ n → 1 ≤ k → a.elems.length = k → regionCheck s r (some f) = (.ok region scale, s) →
      let at_ := fun x j => homeVia s region (r.scale.toNat + j * r.mrow.toNat + x * sz) sz
      let wv := fun x j => if r.type = 11 then sp2Weight (at_ x j) (homeVia s scale ((scaleVector r + 2 * j) % 2 ^ 64) 2)
        else fpOfTile r.type (at_ x j)
      gives k fun _ j => (List.range k).map fun x => (x, mul (fpOfTile a.geom.type (a.elems.getD x 0).toNat) (wv x j))) ∧
    (∀ c w r vals, f.ins = .mmas c → f.tb = some w.id → findVersion s.me w.id = some w → f.trail = none → f.structs = [r] →
      r.rows = m → r.cols = w.geom.rows.toNat → w.geom.cols = d.geom.cols → w.elems.length = w.geom.count → 1 ≤ n →
      (∀ e ∈ r.entries, e.2.2 < r.cols) → vals.length = r.entries.length →
      (pathOf { s.me with flights := [{ f with dense := 0 }] } r.rows r.cols r.entries = .dense →
        denseFree { s.me with flights := [{ f with dense := 0 }] } r.rows r.cols = true) →
      (∀ z ∈ [0, denseSize r.rows r.cols],
        let u : State := { s with me := { s.me with flights := [{ f with dense := z }] } }
        readValues u { f with dense := z } r.src r.count (r.entries.map Prod.fst) = (.ok vals, u)) →
      let wv := fun x j =>
        let p := (w.elems.getD (x * n + j) 0).toNat
        if w.geom.type = 11 then sp2Weight (p % 256) (w.scales.getD j 0).toNat else fpOfTile w.geom.type p
      gives r.cols fun i j => ((List.zip r.entries vals).filter fun e => e.1.2.1 == i).map fun e =>
        (e.1.2.2, mul e.2.2 (wv e.1.2.2 j))) ∧
    (∀ c a b va vb, f.ins = .mmss c → f.structs = [a, b] → a.rows = m → a.cols = b.rows → (∀ e ∈ b.entries, e.2.1 < b.rows) →
      (∀ e ∈ a.entries, e.2.2 < a.cols) → va.length = a.entries.length → vb.length = b.entries.length →
      readValues s f a.src a.count (a.entries.map Prod.fst) = (.ok va, s) →
      readValues s f b.src b.count (b.entries.map Prod.fst) = (.ok vb, s) →
      gives a.cols fun i j => ((List.zip a.entries va).filter fun p => p.1.2.1 == i).flatMap fun p =>
        ((List.zip b.entries vb).filter fun q => q.1.2.1 == p.1.2.2 && q.1.2.2 == j).map fun q => (p.1.2.2, mul p.2.2 q.2.2))

/-- Performing TSCAN writes at each position of a row the running result of the selected values up to it, from the identity. REDUCE without a
pre-function writes the tree result of R53, over the whole tile or for each row, of the selected values. MAP, whose function is in the store
of the core and whose lane engine is idle, starts the engine with its function, its constants and its mask, the inputs converted to the
header's type (with SEG = g element g * j + i as input i of output j), and a first strip; every other element is still to come. When the last
strip has ended the version holds what VRET delivered, at the elements no strip delivered td's previous version (where it has td's
geometry) or 0, and the strip's flags join LSTAT. Memory, registers and names do not change. No source holds poison. -/
def Obligations.VectorInstructionsWrite : Prop :=
  ∀ (s : State) (f : Flight) (d : Version), s.faults = [] → s.held = [] → s.poison = [] →
    findFlight s.me f.id = some f → f.dst = some d.id → findVersion s.me d.id = some d → (∀ x ∈ s.me.versions, x.poison = []) →
    let core := slotCore s.me.slot
    (∀ a, f.ta = some a.id → findVersion s.me a.id = some a → a.elems.length = a.geom.count →
      let mask := maskOf s.me f.tc a.geom.count
      let n := a.geom.cols.toNat
      let x := fun e => (widen a.geom.type d.geom.type (a.elems.getD e 0), mask.getD e false)
      mask.length = a.geom.count → 1 ≤ n →
      (∀ c : ScanF, f.ins = .tscan c → performedWith s (performFlight s f) f d ((List.range a.geom.count).map fun e =>
        ((List.range (e % n + 1)).filter fun k => (x (e / n * n + k)).2).foldl
          (fun r k => redApply c.op d.geom.type r (x (e / n * n + k)).1) (redIdentity c.op d.geom.type)) []) ∧
      (∀ c : RedF, f.ins = .reduce c → c.pf = false → performedWith s (performFlight s f) f d
        (if d.geom.rows = 1 ∧ d.geom.cols = 1 then [reduceList c.op d.geom.type ((List.range a.geom.count).map x)]
         else (List.range a.geom.rows.toNat).map fun i => reduceList c.op d.geom.type ((List.range n).map fun c => x (i * n + c))) [])) ∧
    (∀ (c : MapF) h code, f.ins = .map c → laneOf s core = none → lanePresent s core s.me.kernel c.imm.toNat = true →
      (getKernel s s.me.kernel).bind (fun k => laneFn k c.imm.toNat) = some (h, code) → laneFits s core h = true →
      let t := performFlight s f
      let ins := ([f.ta, f.tb, f.tc].take c.nin.toNat).filterMap (getVersion s.me)
      ∃ j, t.lane = some j ∧ j.slot = s.me.slot ∧ j.flight = f.id ∧ j.header = h ∧ j.strip.code = code ∧ j.consts = f.consts ∧
        j.active = (if c.me then maskOf s.me f.tc d.geom.count else List.replicate d.geom.count true) ∧ j.out = [] ∧
        (c.seg = 0 → j.inputs = ins.map fun v => laneInput v (laneType h).type) ∧
        (∀ v l, c.seg ≠ 0 → ins = v :: l → ∀ i ≤ c.seg.toNat, ∀ e < d.geom.count,
          (j.inputs.getD i []).getD e 0 = (laneInput v (laneType h).type).getD ((c.seg.toNat + 1) * e + i) 0) ∧
        (∀ e < d.geom.count, e ∈ j.todo ↔ some e ∉ j.strip.elems) ∧
        t.mem = s.mem ∧ t.me.sregs = s.me.sregs ∧ t.me.names = s.me.names ∧ t.me.lstat = s.me.lstat) ∧
    (∀ (c : MapF) j, f.ins = .map c → s.lane = some j → j.slot = s.me.slot → j.flight = f.id → j.strip.ret.isSome = true → j.todo = [] →
      j.bad = [] →
      let t := stripBoundary s
      let old := match f.old.bind (findVersion s.me) with | some v => v.elems | none => []
      (∃ g, findFlight t.me f.id = some g ∧ g.st = .performed) ∧ t.lane = none ∧ t.me.lstat = s.me.lstat ||| j.strip.flags ∧
      findVersion t.me d.id = some { d with scales := [], poison := [], elems := (List.range j.active.length).map fun e => (lookupOut j.out e).getD (old.getD e 0) } ∧
      (∀ i, i ≠ d.id → findVersion t.me i = findVersion s.me i) ∧ t.mem = s.mem ∧ t.me.sregs = s.me.sregs ∧ t.me.names = s.me.names)

/-- TPAT at a multiple of 64 is put into the tile memory stream, counts in no counter and changes nothing else; at another
address it traps STRIDE_ALIGN. TINV at a multiple of 64 removes every RESIDENT trail of the context at that address, dooms
every COMPILING one, leaves every other trail, and changes nothing else. TDENS issues with a handle that has a version and an
address that is a multiple of 16, counting in STQ; a handle that is none traps TYPE, an unaligned address STRIDE_ALIGN. Performing a TPAT changes
nothing but its own standing where its descriptor's page is in its way or the descriptor fails its checks, or where the structure's pointers
are in its way; it reads no further where the trail cache has the identity, and else starts a compile of the structure where R215 gives the
Trail path. A structure whose pointers start at 0 and never fall, and whose columns lie below COLS, has exactly the entries q < ptr[ROWS]
with the row m for which ptr[m] <= q < ptr[m+1] and the column idx[q]; any other traps BOUND. -/
def Obligations.TrailInstructions : Prop :=
  (∀ (s : State), issuesTile s →
    (∀ sa : BitVec 6,
      let a := getS s sa
      let at_ := fun t : Trail => t.ctx = s.me.ctx ∧ t.desc = a
      (a.toNat % 64 = 0 →
        exec (.tpat sa) s = .next (inFlight s s.me { cflight (.tpat sa) with addr := a }) ∧
        ∃ l, exec (.tinv sa) s = .next (advance { s with trails := l }) ∧
          (∀ t ∈ s.trails, ¬at_ t → t ∈ l) ∧
          (∀ t ∈ s.trails, at_ t → t.st = .compiling → { t with st := .doomed } ∈ l) ∧
          (∀ t ∈ l, at_ t → t.st = .doomed) ∧
          (∀ t ∈ l, t ∈ s.trails ∨ ∃ u ∈ s.trails, at_ u ∧ u.st = .compiling ∧ t = { u with st := .doomed })) ∧
      (a.toNat % 64 ≠ 0 → ∀ i ∈ [Instr.tpat sa, .tinv sa],
        exec i s = .next (seqTrap s (wordOf i) { cause := .strideAlign, tval := a }))) ∧
    (∀ (t : BitVec 5) (sa : BitVec 6) (v : Version), current s.me t = some v →
      let a := getS s sa
      (isHandle v.geom = true → a.toNat % 16 = 0 → exec (.tdens t sa) s =
        .next (inFlight s s.me { cflight (.tdens t sa) with addr := a, ta := some v.id, kind := .stq })) ∧
      (isHandle v.geom = true → a.toNat % 16 ≠ 0 →
        exec (.tdens t sa) s = .next (seqTrap s (wordOf (.tdens t sa)) { cause := .strideAlign, tval := a })) ∧
      (isHandle v.geom = false →
        exec (.tdens t sa) s = .next (seqTrap s (wordOf (.tdens t sa)) { cause := .type, tval := t.setWidth 64 })))) ∧
  (∀ (s : State) (f : Flight) (c : BitVec 6), f.ins = .tpat c →
    let a := f.addr.toNat
    let o : Operand := ⟨0, 0, []⟩
    (patMeets s f a 64 = .ends → performFlight s f = flightDone s f) ∧
    (∀ g l s0, accessRanges s [(a, 64)] .read .tile true (some f) = (.ok (g :: l), s0) → (g :: l).any Seg.ns = false →
      (descOf a (homeNat s0 g.pa 64)).valt ≠ 16 →
      (∀ h s1, readDesc s a f = (.error h, s1) → performFlight s f = flightDone s f) ∧
      (∀ d s1, readDesc s a f = (.ok d, s1) →
        ((lookupTrail s1 (slotCluster s1.me.slot) s1.me.ctx d).isSome = true → performFlight s f = flightDone s1 f) ∧
        ((lookupTrail s1 (slotCluster s1.me.slot) s1.me.ctx d).isSome = false →
          (patMeets s1 f d.ptr (4 * (d.rows + 1)) = .ends → performFlight s f = flightDone s f) ∧
          (∀ pb s2 raw s3 es s4, patMeets s1 f d.ptr (4 * (d.rows + 1)) = .clear →
            readX false s1 f d.ptr (4 * (d.rows + 1)) = (.ok pb, s2) →
            patMeets s1 f d.idx (2 * entryCount o (intsOf 4 (d.rows + 1) pb)) = .clear →
            readRaw true s1 f d o = (.ok raw, s3) → entriesOf s3 d o raw = (.ok es, s4) →
            (pathOf s4.me d.rows d.cols es ≠ .trail → performFlight s f = flightDone s4 f) ∧
            (pathOf s4.me d.rows d.cols es = .trail → ∃ t rest, t.st = .compiling ∧ t.desc = BitVec.ofNat 64 d.at_ ∧ t.gen = d.gen ∧
              t.ctx = s4.me.ctx ∧ t.cluster = slotCluster s4.me.slot ∧ t.rows = d.rows ∧ t.cols = d.cols ∧ t.entries = es.map Prod.snd ∧
              (∀ x ∈ rest, x ∈ s4.trails) ∧
              performFlight s f = flightDone { s4 with free := s4.free + 1, trails := t :: rest } f)))))) ∧
  (∀ (s : State) (d : Desc) (o : Operand) (r : RawStructure), o.skips = [] → r.ptr.length = d.rows + 1 →
    let p := fun m => r.ptr.getD m 0
    let x := fun q => r.idx.getD q 0
    let well := p 0 = 0 ∧ (∀ m < d.rows, p m ≤ p (m + 1)) ∧ ∀ q < (p d.rows).toNat, 0 ≤ x q ∧ x q < d.cols
    (well → ∃ es, entriesOf s d o r = (.ok es, s) ∧ es.map Prod.fst = List.range (p d.rows).toNat ∧
      ∀ q m c, (q, m, c) ∈ es ↔ m < d.rows ∧ p m ≤ q ∧ (q : Int) < p (m + 1) ∧ (c : Int) = x q) ∧
    (¬well → ∃ t u, entriesOf s d o r = (.error (.trap t), u) ∧ t.cause = .bound))

/-! ## Atomics on tiles (09) -/

/-- Where the operand rules of R248 hold and Rename finds room, the seven TAMO operations are put into the tile dependency
table with their source, index tile, address and new version, counting in OPQ, and the block is exposed; TGLK likewise but for
the source and the exposure, and FILL of the record waits for it; TSCC likewise with the companion of t2, a MASK of the record's rows and
columns, as its destination. The record of a new version of t must have STORE A or C and its memory type as TYPE: otherwise TAMO and TGLK trap
TYPE with 0x100 + h. Where another rule fails the trap it names is taken, those on t's version before those on the record and the index tile;
AND, OR and XOR on an FP32 tile trap TYPE with the tile's number. The order of the checks is log entry 28, which operand TVAL names where two
disagree log entry 27; the companion of TSCC is bound to h where it is unbound (log entry 69). -/
def Obligations.TileAtomicsIssue : Prop :=
  ∀ (s : State) (f : TmAmoF), issuesTile s →
    let g := shapeOf s.me f.h
    let a := tmAddr s f.s f.off
    let bare := fun i => { flight i a g f.h .opq with tb := curId s.me f.t2 }
    let fl := fun i => { bare i with ta := curId s.me f.t }
    let exposed := fun b => expose { s with me := b }
    let ops := checkAmoOperands s.me f g a true
    let bitwise := [Instr.tamoAnd f, .tamoOr f, .tamoXor f]
    let fits := (g.store = 2 ∨ g.store = 3) ∧ g.type = g.memType
    let misfit : TrapInfo := { cause := .type, tval := BitVec.ofNat 64 (0x100 + f.h.toNat) }
    (∀ i, i ∈ [Instr.tamoAdd f, .tamoMin f, .tamoMax f, .tamoSwap f] ++ bitwise →
      let tile := checkAmoTile s.me f g (decide (i ∈ bitwise))
      (tile = none → ops = none → fits → ∀ id b, renameFor s f.t f.h g (fl i).reads = .ok id b →
        exec i s = .next (inFlight (exposed b) (exposed b).me { fl i with dst := some id })) ∧
      (∀ t, tile = some t → exec i s = .next (seqTrap s (wordOf i) t)) ∧
      (∀ t, tile = none → ops = some t → exec i s = .next (seqTrap s (wordOf i) t)) ∧
      (tile = none → ops = none → ¬fits → exec i s = .next (seqTrap s (wordOf i) misfit))) ∧
    (∀ v, current s.me f.t = some v → v.geom.type = 10 → ∀ i ∈ bitwise,
      exec i s = .next (seqTrap s (wordOf i) { cause := .type, tval := f.t.setWidth 64 })) ∧
    (ops = none → fits →
      ∀ id b, renameFor s f.t f.h g (bare (.tglk f)).reads = .ok id b →
      exec (.tglk f) s = .next (inFlight s { b with fillWait := b.fillWait ++ [(b.nextId, f.h, true)] }
        { bare (.tglk f) with dst := some id })) ∧
    (ops = none → ¬fits → exec (.tglk f) s = .next (seqTrap s (wordOf (.tglk f)) misfit)) ∧
    (∀ t, ops = some t → exec (.tglk f) s = .next (seqTrap s (wordOf (.tglk f)) t)) ∧
    (checkAmoTile s.me f g false = none → checkAmoOperands s.me f g a false = none →
      let fc := { fl (.tscc f) with shape := { g with type := g.memType } }
      ∀ id b, renameFor s (f.t2 + 1) f.h { rows := g.rows, cols := g.cols, type := 15, store := 2 } fc.reads = .ok id b →
        exec (.tscc f) s = .next (inFlight (exposed b) (exposed b).me { fc with dst := some id })) ∧
    (∀ t, checkAmoTile s.me f g false = some t ∨
        (checkAmoTile s.me f g false = none ∧ checkAmoOperands s.me f g a false = some t) →
      exec (.tscc f) s = .next (seqTrap s (wordOf (.tscc f)) t))

/-- When a TAMO on a 1 x 1 I32 operand with a zero index performs, its address translates to device memory and its lines are
neither held nor poisoned, the four bytes at the physical address hold old + x, min, max, and, or, xor (signed), or x for SWAP;
the destination version's element holds the old value; every other byte of memory reads as the translation left it, and the
instruction counts as performed. -/
def Obligations.TamoOneElement : Prop :=
  ∀ (s s1 : State) (f : Flight) (m : TmAmoF) (src dst idx : Version) (sg : Seg),
    let pa := sg.pa
    s.me.flights = [f] → m.aq = false → f.ta = some src.id → f.tb = some idx.id → f.dst = some dst.id →
    s.me.versions = [src, idx, dst] → src.id ≠ dst.id → idx.id ≠ dst.id → idx.id ≠ src.id → src.poison = [] →
    f.shape.rows = 1 → f.shape.cols = 1 → f.shape.fmt = 0 → f.shape.type = 5 → 0 < f.shape.limit.toNat →
    idx.elems = [0] → dst.elems.length = 1 → f.elg = Vector.replicate 8 0 → f.skips = [] → f.lgs = [0] →
    f.addr.toNat + 4 ≤ 2 ^ 64 → memWf s1.mem = true → s1.me = s.me → s1.faults = [] → s1.held = [] →
    sg.va = f.addr.toNat → sg.len = 4 → regionOf pa = .hbm →
    accessPages s s.me [(f.addr.toNat, 4)] .atomic .tile (some f) = (.ok [sg], s1) →
    (∀ l, lineHeld s1 (some s.me.slot) pa l = false) → poisonedAt s1 pa 4 = false →
    let old := memNat s1.mem pa 4
    let a : BitVec 32 := BitVec.ofNat 32 old
    let x := src.elems.getD 0 0
    ∀ p ∈ [(Instr.tamoAdd m, a + x), (.tamoMin m, if x.slt a then x else a), (.tamoMax m, if a.slt x then x else a),
        (.tamoAnd m, a &&& x), (.tamoOr m, a ||| x), (.tamoXor m, a ^^^ x), (.tamoSwap m, x)],
      f.ins = p.1 →
      (∃ h, (performFlight s f).me.flights = [h] ∧ h.st = .performed) ∧
      memNat (performFlight s f).mem pa 4 = p.2.toNat ∧
      (∀ b, (b < pa ∨ pa + 4 ≤ b) → memRead (performFlight s f).mem b = memRead s1.mem b) ∧
      (performFlight s f).me.versions = [src, idx, { dst with elems := [a] }]

/-! ## Objects, bindings, fences, waits (09) -/

/-- At an aligned address that translates, on a line neither held nor poisoned nor met by the block's own store on its way, with
no request queued at the object: ACQ.X
of a FREE word makes it EXCLUSIVE with the block's token, ACQ.S makes a FREE word SHARED with a count of 1 and raises the count
of a SHARED one; the block then holds the object, is exposed where its region was clean, and moves on. A word that is held
parks a running block in the object's queue, memory unchanged. REL of an exclusive hold under the block's own token makes the word FREE and raises its
version; of a shared one it lowers the count, to FREE at the last; on a FREE or BROKEN word, a SHARED one with a count of 0, or one with another owner, it traps
TYPE; while an access to bytes bound when it issued is outstanding it stays. No byte outside the object's 16 changes. A misaligned address
traps STRIDE_ALIGN; ACQ of a held or BROKEN object, ACQ.S at a count of 65,535, ACQ with 16 held and REL of one not held trap TYPE with the
address. The TYPE of a REL that the table of R241 does not list follows R9 (log entry 74). The grant's own look at
the page's D bit (R349) is taken to change nothing, as where the translation is held. -/
def Obligations.ObjectsAcquiredAndReleased : Prop :=
  ∀ (s s1 : State) (sa : BitVec 6) (t : TlbEntry),
    let va := getS s sa
    let pa := t.pa va.toNat
    let o := objRead s1 pa
    let outside := fun u : State => ∀ a, (a < pa ∨ pa + 16 ≤ a) → memRead u.mem a = memRead s1.mem a
    let bare := fun s0 : State => va.toNat % 16 = 0 ∧ acquirePending s.me = false ∧
      translate s0 (some (slotCore s.me.slot)) s.me.ctx va.toNat .atomic .scalar = (.ok t, s1) ∧ s1.me = s0.me ∧
      lineHeld s1 (some s1.me.slot) pa 16 = false ∧ postedMeets s.me pa 16 = false ∧ poisonedAt s1 pa 16 = false ∧
      regionOf pa = .hbm ∧ memWf s1.mem = true ∧ (∀ w ∈ s1.objWaits, w.pa ≠ pa) ∧ o.rsv = 0
    let moved := fun (u : State) (h : List Word) => u.me.holding = h ∧ u.me.pc = s.me.pc + 8 ∧ u.me.sregs = s.me.sregs ∧
      u.me.region = (if s.me.region = .clean then .exposed else s.me.region) ∧ outside u
    let line := fun l => l == lineOf pa
    let asked := fun excl : Bool => { dropGuests (dropCache (expose s1) (slotCore s.me.slot) line) (slotDie s.me.slot) line with
      objWaits := s1.objWaits ++ [⟨pa, excl, .block s.me.slot, va⟩] }
    let waiting : State := { s with me := { s.me with relBound := some (relBindings s va) } }
    let refused := fun i => ∃ u, exec i s = .next (seqTrap u (wordOf i) { cause := .type, tval := va }) ∧
      u.mem = s1.mem ∧ u.me.holding = s.me.holding
    (bare s → (∀ e, objAccess (asked e) s.me.ctx va = (.ok pa, asked e)) →
      s.me.holding.contains va = false → s.me.holding.length < 16 →
      (o.mode = 0 → ∃ u, exec (.acqX sa) s = .next u ∧ moved u (s.me.holding ++ [va]) ∧
        objRead u pa = { o with mode := 2, owner := s.me.token.toNat }) ∧
      (o.mode = 0 → ∃ u, exec (.acqS sa) s = .next u ∧ moved u (s.me.holding ++ [va]) ∧
        objRead u pa = { o with mode := 1, count := 1 }) ∧
      (o.mode = 1 → o.count < 65535 → ∃ u, exec (.acqS sa) s = .next u ∧ moved u (s.me.holding ++ [va]) ∧
        objRead u pa = { o with count := o.count + 1 }) ∧
      (s.me.st = .running → ∀ p ∈ [(Instr.acqX sa, true), (.acqS sa, false)],
        o.mode = 2 ∨ (o.mode = 1 ∧ p.2 = true) → ∃ u, exec p.1 s = .next u ∧ u.mem = s1.mem ∧ u.me.st = .parked ∧
          u.me.wait = .object pa p.2 ∧ u.me.pc = s.me.pc ∧ u.objWaits = s1.objWaits ++ [⟨pa, p.2, .block s.me.slot, va⟩]) ∧
      (o.mode = 3 → refused (.acqX sa) ∧ refused (.acqS sa)) ∧ (o.mode = 1 → o.count = 65535 → refused (.acqS sa))) ∧
    (bare waiting → s.me.holding.contains va = true → relWaits s (relBindings s va) = false →
      (o.mode = 2 → o.owner = s.me.token.toNat → ∃ u, exec (.rel sa) s = .next u ∧ moved u (s.me.holding.erase va) ∧
        objRead u pa = { o with mode := 0, owner := 0, version := (o.version + 1) % 2 ^ 64 }) ∧
      (o.mode = 1 → 1 < o.count → ∃ u, exec (.rel sa) s = .next u ∧ moved u (s.me.holding.erase va) ∧
        objRead u pa = { o with count := o.count - 1 }) ∧
      (o.mode = 1 → o.count = 1 → ∃ u, exec (.rel sa) s = .next u ∧ moved u (s.me.holding.erase va) ∧
        objRead u pa = { o with mode := 0, count := 0 }) ∧
      (o.mode = 0 ∨ o.mode = 3 ∨ (o.mode = 1 ∧ o.count = 0) ∨ (o.mode = 2 ∧ o.owner ≠ s.me.token.toNat) → refused (.rel sa))) ∧
    (va.toNat % 16 = 0 → s.me.holding.contains va = true → relWaits s (relBindings s va) = true →
      exec (.rel sa) s = .next waiting) ∧
    (va.toNat % 16 ≠ 0 → ∀ i ∈ [Instr.acqX sa, .acqS sa, .rel sa],
      exec i s = .next (seqTrap s (wordOf i) { cause := .strideAlign, tval := va })) ∧
    (va.toNat % 16 = 0 → s.me.holding.contains va = true ∨ 16 ≤ s.me.holding.length → ∀ i ∈ [Instr.acqX sa, .acqS sa],
      exec i s = .next (seqTrap s (wordOf i) { cause := .type, tval := va })) ∧
    (va.toNat % 16 = 0 → s.me.holding.contains va = false →
      exec (.rel sa) s = .next (seqTrap s (wordOf (.rel sa)) { cause := .type, tval := va }))

/-- BIND writes 3 for a misaligned object or region or one beyond 2^48, 0 for a binding that exists, 1 for one whose region
meets another's, 2 in a context with 256 bindings, else 0 with the binding added; UNBIND writes 3 for a misaligned address, 5
where nothing is bound to it, 4 where the object is held, else 0 with its bindings removed. No other context's bindings change.
FENCE stays while an earlier access has not been performed; then it moves on, drops the block's
prefetched tiles, above BLOCK scope the core's cached lines, at DEVICE and SYSTEM the die's guest copies, but for those of lines
bound in its context that have missed no write made while they were unbound, about which it publishes nothing (R237; log entry 61), and
changes no memory and no register. -/
def Obligations.BindUnbindFence : Prop :=
  ∀ (s : State),
    (∀ f : BindF,
      let x : Binding := ⟨getS s f.sa, getS s f.sb, f.len.toNat⟩
      let l := (getCtx s s.me.ctx).bindings
      let meets := fun y : Binding => x.base.toNat < y.base.toNat + 64 * y.length ∧ y.base.toNat < x.base.toNat + 64 * x.length
      let bad := x.object.toNat % 16 ≠ 0 ∨ x.base.toNat % 64 ≠ 0 ∨ 2 ^ 48 < x.base.toNat + 64 * x.length
      let gives := fun v : Word => exec (.bind f) s = .next (advance (setS s f.sd v))
      (bad → gives 3) ∧ (¬bad → x ∈ l → gives 0) ∧ (¬bad → x ∉ l → (∃ y ∈ l, meets y) → gives 1) ∧
      (¬bad → x ∉ l → (∀ y ∈ l, ¬meets y) → 256 ≤ l.length → gives 2) ∧
      (¬bad → x ∉ l → (∀ y ∈ l, ¬meets y) → l.length < 256 → ∃ u, exec (.bind f) s = .next u ∧
        u.me = (advance (setS s f.sd 0)).me ∧ (getCtx u s.me.ctx).bindings = l ++ [x] ∧
        (∀ c, c ≠ s.me.ctx → getCtx u c = getCtx s c) ∧ u.mem = s.mem ∧ u.others = s.others)) ∧
    (∀ sd sa : BitVec 6,
      let va := getS s sa
      let l := (getCtx s s.me.ctx).bindings
      (va.toNat % 16 ≠ 0 → exec (.unbind sd sa) s = .next (advance (setS s sd 3))) ∧
      (va.toNat % 16 = 0 → (∀ r ∈ l, r.object ≠ va) → exec (.unbind sd sa) s = .next (advance (setS s sd 5))) ∧
      (∀ t s1, va.toNat % 16 = 0 → (∃ r ∈ l, r.object = va) → acquirePending s.me = false →
        translate s (some (slotCore s.me.slot)) s.me.ctx va.toNat .read .scalar = (.ok t, s1) → s1.me = s.me →
        lineHeld s1 (some s1.me.slot) (t.pa va.toNat) 16 = false → postedMeets s.me (t.pa va.toNat) 16 = false →
        poisonedAt s1 (t.pa va.toNat) 16 = false → regionOf (t.pa va.toNat) = .hbm →
        let line := fun l => l == lineOf (t.pa va.toNat)
        ((objRead s1 (t.pa va.toNat)).mode ≠ 0 → exec (.unbind sd sa) s =
          .next (advance (setS (dropGuests (dropCache s1 (slotCore s.me.slot) line) (slotDie s.me.slot) line) sd 4))) ∧
        ((objRead s1 (t.pa va.toNat)).mode = 0 → ∃ u, exec (.unbind sd sa) s = .next u ∧
          u.me = (advance (setS s1 sd 0)).me ∧
          (getCtx u s.me.ctx).bindings = (getCtx s1 s.me.ctx).bindings.filter (fun r => r.object != va) ∧
          (∀ c, c ≠ s.me.ctx → getCtx u c = getCtx s1 c) ∧ u.mem = s1.mem ∧ u.others = s1.others))) ∧
    (∀ sc : Scope,
      (releaseDone s s.me sc = false → exec (.fence sc) s = .next s) ∧
      (releaseDone s s.me sc = true → ∃ u, exec (.fence sc) s = .next u ∧ u.me.pc = s.me.pc + 8 ∧
        u.me.sregs = s.me.sregs ∧ u.mem = s.mem ∧ u.others = s.others ∧ (∀ w ∈ u.me.streams.toList, w.prefetched = []) ∧
        (sc = .block → u.cache = s.cache ∧ u.guests = s.guests) ∧
        (sc ≠ .block → ∀ c, c ∈ u.cache ↔
          c ∈ s.cache ∧ (c.core ≠ slotCore s.me.slot ∨ (boundLine s s.me.ctx c.line = true ∧ c.unbound = false))) ∧
        (sc = .device ∨ sc = .system → ∀ g, g ∈ u.guests ↔
          g ∈ s.guests ∧ (g.die ≠ slotDie s.me.slot ∨ (boundLine s s.me.ctx g.line = true ∧ g.unbound = false)))))

/-- With its operands in order, its mask and source DONE, room for the mask's new version and the block's earlier accesses
performed, TWAITV reads the watched elements at the home slice: where none fails the condition it moves on and t2's new version
is a DONE mask of zeros; else a running block parks with the elements that failed. EQ, NE, LT, GE compare the n-bit values
signed, LTU and GEU unsigned, the memory's value on the left. Registers and memory are unchanged. The statement takes accesses
that translate without changing the state, as they do where the translations are held, sources without poison, and a block that is not in its
handler. -/
def Obligations.TileWaits : Prop :=
  ∀ (s : State) (f : TmWaitF) (m x : Version) (segs : List Seg) (id : Nat) (b : Block),
    checkWait s.me f (shapeOf s.me f.h) (tmAddr s f.s f.off) = none →
    current s.me f.t2 = some m → m.done = true → current s.me f.t = some x → versionDone s.me (curId s.me f.t) = true →
    releaseDone s s.me .device = true → acquirePending s.me = false → rename s s.me f.t2 m.geom [] = .ok id b →
    s.me.inHandler = false → s.me.asks = [] → m.poison = [] → x.poison = [] →
    let l := waitLayout s f
    let n := typeBits l.mt
    let pending := (List.range m.geom.count).filter fun e => (m.elems.getD e 0).getLsbD 0
    accessRanges s (pending.flatMap (l.ranges 0)) .read .tile true = (.ok segs, s) →
    ∀ p ∈ [(Instr.twaitvEq f, Cond.eq), (.twaitvNe f, .ne), (.twaitvLt f, .lt), (.twaitvGe f, .ge), (.twaitvLtu f, .ltu),
        (.twaitvGeu f, .geu)],
      let met := fun e => match viaSegs segs (l.addr e) with
        | some (pa, _) =>
          let a := memNat s.mem pa (n / 8)
          let c := (x.elems.getD e 0).toNat % 2 ^ n
          match p.2 with
          | .eq => a = c | .ne => a ≠ c | .ltu => a < c | .geu => c ≤ a
          | .lt => readInt true n a < readInt true n c | .ge => readInt true n c ≤ readInt true n a
        | none => False
      ((∀ e ∈ pending, met e) → f.aq = false → ∃ u v, exec p.1 s = .next u ∧ u.me.pc = s.me.pc + 8 ∧
        current u.me f.t2 = some v ∧ v.done = true ∧ v.geom = m.geom ∧ v.elems = List.replicate m.geom.count 0 ∧
        u.me.sregs = s.me.sregs ∧ u.mem = s.mem ∧ u.others = s.others) ∧
      ((∃ e ∈ pending, ¬met e) → s.me.st = .running → ∃ u left, exec p.1 s = .next u ∧
        u.me = { s.me with wait := .values f p.2 left, st := .parked } ∧ u.mem = s.mem ∧ u.others = s.others ∧
        ∀ e, e ∈ left ↔ e ∈ pending ∧ ¬met e)

/-! ## Barriers (10) -/

/-- BARI of a good word loads an IDLE barrier, or an OPEN one with another word, afresh, leaves one in use with the same word, and
traps TYPE otherwise. BARA of a member whose arrivals are fewer than DIST ahead of C raises its A, exposes the block, and moves
on with the arrival outstanding; at DIST it stays. Once the block's earlier accesses are performed the arrival is counted: P
rises by one, and where the least P of the members has risen C is it. BARW waits for its phase n: it moves on where n is at most C, traps TYPE with
n above A, and else parks a running block. -/
def Obligations.BarriersCount : Prop :=
  ∀ (s : State) (g : Group), findGroup s s.me.gid = some g →
    (∀ (b : BitVec 5) (sa : BitVec 6),
      let w := getS s sa
      let v := getBar s g b
      (barWordBad w (barLimit g b) = true →
        exec (.bari b sa) s = .next (seqTrap s (wordOf (.bari b sa)) { cause := .type, tval := w })) ∧
      (barWordBad w (barLimit g b) = false →
        (v.mode = .broken → exec (.bari b sa) s =
          .next (seqTrap s (wordOf (.bari b sa)) { cause := .type, tval := BitVec.ofNat 64 (0x100 + b.toNat) })) ∧
        (v.mode = .opened ∨ v.mode = .pending → v.config = w → exec (.bari b sa) s = .next (advance s)) ∧
        (v.mode = .pending → v.config ≠ w → exec (.bari b sa) s =
          .next (seqTrap s (wordOf (.bari b sa)) { cause := .type, tval := b.setWidth 64 })) ∧
        (v.mode = .idle ∨ (v.mode = .opened ∧ v.config ≠ w) → exec (.bari b sa) s =
          .next (advance (setBar s g b { mode := if barMembers s g b w = [] then .idle else .opened, config := w,
                                          members := barMembers s g b w, c := 0 }))))) ∧
    (∀ (f : BarF) (m : BarMember),
      let v := getBar s g f.b
      let n := if f.ph = 0 then m.a else phaseIndex s.me f.ph
      v.mode = .opened ∨ v.mode = .pending → barSelf v s.me = some m →
      (f.ph = 0 ∨ phaseIndex s.me f.ph = m.a → (m.a - v.c).toNat < (barDist v.config).toNat →
        exec (.bara f) s = .next (advance
          (let s1 := setBar (expose s) g f.b
             { modMember v s.me.peer (fun x => { x with a := x.a + 1 }) with mode := .pending }
           { s1 with arrivals := s1.arrivals ++ [⟨s1.me.slot, f.b, s1.me.nextId⟩]
                     me := { s1.me with nextId := s1.me.nextId + 1 } }))) ∧
      (f.ph = 0 ∨ phaseIndex s.me f.ph = m.a → (barDist v.config).toNat ≤ (m.a - v.c).toNat →
        exec (.bara f) s = .next s) ∧
      (n.toNat ≤ m.a.toNat → n.toNat ≤ v.c.toNat →
        exec (.barw f) s = .next (advance (acquireAt s s.me.slot (if isBandBar f.b then .band else .group)))) ∧
      (n.toNat ≤ m.a.toNat → v.c.toNat < n.toNat → s.me.st = .running →
        exec (.barw f) s = .next { s with me := { s.me with wait := .barrier f.b n, st := .parked } }) ∧
      (m.a.toNat < n.toNat → exec (.barw f) s =
        .next (seqTrap s (wordOf (.barw f)) { cause := .type, tval := n.setWidth 64 }))) ∧
    (∀ (b : BitVec 5) (a : Arrival), s.me.st = .running →
      (s.arrivals.find? fun a => a.slot == s.me.slot && a.b == b) = some a → arrivalReady s s.me a = true →
      (getBar s g b).mode = .pending → barWaiters { s with arrivals := s.arrivals.erase a } g b
        (modMember (getBar s g b) s.me.peer fun m => { m with p := m.p + 1 }).settle.c = [] →
      exec (.barrierArrivalCounted s.me.slot b) s =
        .next (setBar { s with arrivals := s.arrivals.erase a } g b
          (modMember (getBar s g b) s.me.peer fun m => { m with p := m.p + 1 }).settle)) ∧
    (∀ v : Barrier, v.members ≠ [] →
      ((∃ m ∈ v.members, m.p.toNat ≤ v.c.toNat) → v.settle = v) ∧
      ((∀ m ∈ v.members, v.c.toNat < m.p.toNat) → ∃ c mode, v.settle = { v with c := c, mode := mode } ∧
        (∀ m ∈ v.members, c.toNat ≤ m.p.toNat) ∧ (∃ m ∈ v.members, c = m.p) ∧
        ((∀ m ∈ v.members, m.a = c) → mode = .opened) ∧ ((∃ m ∈ v.members, m.a ≠ c) → mode = .pending)))

/-! ## Channels, LAUNCH and rings (11, 12) -/

/-- TSEND to a partner that has not ended, from a name with a version, with fewer than 4 untaken messages in the channel,
exposes the block, appends the version to the channel and moves on; with 4 it stays; a partner that does not exist or has ended
traps TYPE with the operand, a name without a version with its number. TRECV with no held message to map takes a DONE message of
td's ROWS, COLS and TYPE into a new DONE version of the name with the message's contents, and the channel has one message less;
on an empty channel a running block parks, or traps TYPE with bit 63 set where the partner has ended; a message of another
geometry, or an unbound name, traps TYPE with the name's number. Where the block holds the message at its read position, TRECV maps the name
to that version again; a name that a rollback has unbound has the record that it had when the message was taken (log entry 72). The partner
may be the block itself. No byte of memory changes. -/
def Obligations.ChannelsPassTiles : Prop :=
  ∀ (s : State) (t : BitVec 5) (sa : BitVec 6),
    let w := getS s sa
    (partnerOf s s.me w = none → ∀ i ∈ [Instr.tsend t sa, .trecv t sa],
      exec i s = .next (seqTrap s (wordOf i) { cause := .type, tval := w })) ∧
    (∀ g p, partnerOf s s.me w = some (g, p) →
      (partnerGone g p = true → exec (.tsend t sa) s =
        .next (seqTrap s (wordOf (.tsend t sa)) { cause := .type, tval := w })) ∧
      (∀ x r, partnerGone g p = false → slotOfPeer s g p = some x → getBlock s x = some r →
        (current s.me t = none → exec (.tsend t sa) s =
          .next (seqTrap s (wordOf (.tsend t sa)) { cause := .type, tval := t.setWidth 64 })) ∧
        (∀ v, current s.me t = some v → 4 ≤ (channelFrom r s.me.peer).untaken.length → exec (.tsend t sa) s = .next s) ∧
        (∀ v, current s.me t = some v → x ≠ s.me.slot → r.slot = x → (channelFrom r s.me.peer).untaken.length < 4 →
          ∃ u r', exec (.tsend t sa) s = .next u ∧ getBlock u x = some r' ∧
            (channelFrom r' s.me.peer).untaken = (channelFrom r s.me.peer).untaken ++
              [{ version := v.id, geom := v.geom, content := if v.done then some v else none }] ∧
            u.me.pc = s.me.pc + 8 ∧ u.me.versions = s.me.versions ∧ u.me.sregs = s.me.sregs ∧ u.mem = s.mem) ∧
        (∀ v, current s.me t = some v → x = s.me.slot → (channelFrom s.me s.me.peer).untaken.length < 4 →
          ∃ u, exec (.tsend t sa) s = .next u ∧ (channelFrom u.me s.me.peer).untaken = (channelFrom s.me s.me.peer).untaken ++
              [{ version := v.id, geom := v.geom, content := if v.done then some v else none }] ∧
            u.me.pc = s.me.pc + 8 ∧ u.me.versions = s.me.versions ∧ u.me.sregs = s.me.sregs ∧ u.mem = s.mem)) ∧
      (let c := channelFrom s.me p
       heldAt s.me c = none →
       (c.untaken = [] → partnerGone g p = true → exec (.trecv t sa) s =
         .next (seqTrap s (wordOf (.trecv t sa)) { cause := .type, tval := w ||| BitVec.twoPow 64 63 })) ∧
       (c.untaken = [] → partnerGone g p = false → s.me.st = .running → exec (.trecv t sa) s =
         .next { s with me := { s.me with wait := .channel p, st := .parked } }) ∧
       (∀ m rest, c.untaken = m :: rest → nameOf s.me t = none → exec (.trecv t sa) s =
         .next (seqTrap s (wordOf (.trecv t sa)) { cause := .type, tval := t.setWidth 64 })) ∧
       (∀ m rest n mv, c.untaken = m :: rest → nameOf s.me t = some n →
         let d := destGeom s.me t
         let same := m.geom.rows = d.rows ∧ m.geom.cols = d.cols ∧ m.geom.type = d.type
         (¬same → exec (.trecv t sa) s =
           .next (seqTrap s (wordOf (.trecv t sa)) { cause := .type, tval := t.setWidth 64 })) ∧
         (∀ z, same → d.ok = true → rename s s.me t d [] = .never z → exec (.trecv t sa) s =
           .next (seqTrap s (wordOf (.trecv t sa)) { cause := .type, tval := BitVec.ofNat 64 z })) ∧
         (∀ id b, same → d.ok = true → rename s s.me t d [] = .ok id b → m.content = none → exec (.trecv t sa) s = .next s) ∧
         (∀ id b, same → d.ok = true → m.content = some mv → rename s s.me t d [] = .ok id b →
           ∃ u v, exec (.trecv t sa) s = .next u ∧ current u.me t = some v ∧ v.done = true ∧ v.geom = d ∧
             v.elems = mv.elems ∧ v.scales = mv.scales ∧ v.poison = mv.poison ∧
             (channelFrom u.me p).untaken = rest ∧ (channelFrom u.me p).held = c.held ++ [⟨id, n.record⟩] ∧
             u.me.pc = s.me.pc + 8 ∧ u.me.sregs = s.me.sregs ∧ u.mem = s.mem))) ∧
      (∀ m v, heldAt s.me (channelFrom s.me p) = some m → findVersion s.me m.version = some v →
        let g := heldGeom s.me t m
        v.geom.rows = g.rows → v.geom.cols = g.cols → v.geom.type = g.type →
        ∃ u, exec (.trecv t sa) s = .next u ∧ curId u.me t = some v.id ∧ u.me.pc = s.me.pc + 8 ∧ u.me.sregs = s.me.sregs ∧
          u.mem = s.mem ∧ (channelFrom u.me p).untaken = (channelFrom s.me p).untaken ∧
          (channelFrom u.me p).readPos = (channelFrom s.me p).readPos + 1))

/-- LAUNCH with a misaligned record traps STRIDE_ALIGN; on a queue that is not open to the block's context it writes -1; else,
once the earlier accesses are performed and the record's bytes are read, it writes -2 where the queue accepts nothing and else the
sequence number under which the record is accepted, after the records that had arrived. QPUT into a ring with room and QGET from one with an entry, no request waiting,
move the 64 bytes, raise TAIL or HEAD by one and write its old value; with a limit of 0 a full or empty ring answers -1; a bad
header answers -2. The memory clauses take accesses whose translations are held, to device memory, and a ring whose slot, header
and entry do not overlap. -/
def Obligations.LaunchAndRings : Prop :=
  ∀ (s : State) (sd sa sb : BitVec 6),
    let a := getS s sa
    let b := getS s sb
    (b.toNat % 64 ≠ 0 → exec (.launch sd sa sb) s =
      .next (seqTrap s (wordOf (.launch sd sa sb)) { cause := .strideAlign, tval := b })) ∧
    (b.toNat % 64 = 0 →
      let s0 := expose s
      let q : BitVec 10 := a.extractLsb' 0 10
      let mine := a.extractLsb' 10 54 = 0 ∧ (getQueue s0 q).st ≠ .unbound ∧ (getQueue s0 q).ctx = s.me.ctx
      (¬mine → exec (.launch sd sa sb) s = .next (advance (setS s0 sd (-1)))) ∧
      (mine → releaseDone s0 s0.me .device = false ∨ acquirePending s0.me = true → exec (.launch sd sa sb) s = .next s0) ∧
      (∀ pa cp s1, mine → releaseDone s0 s0.me .device = true → acquirePending s0.me = false →
        seqAddr (acquireAt s0 s.me.slot .device) b .read = .ok pa cp s1 → cp ≠ 0 → regionOf pa = .hbm →
        lineHeld s1 (some s1.me.slot) pa 64 = false → poisonedAt s1 pa 64 = false →
        let rec_ := BitVec.ofNat 512 (memNat s1.mem pa 64)
        let s2 := afterArrivals s1 q
        ((getQueue s2 q).accepting = false → exec (.launch sd sa sb) s =
          .next (advance (setS (queueRefuse s2 q 0x11 0) sd (-2)))) ∧
        ((getQueue s2 q).accepting = true → exec (.launch sd sa sb) s =
            .next (advance (setS (acceptRecord s2 q rec_).2 sd ((getQueue s2 q).next.setWidth 64)))))) ∧
    (∀ (lim : BitVec 25) (pa ea : Nat) (cp ce : BitVec 2),
      let f : QringF := ⟨sd, sa, sb, lim⟩
      let r := ringAt s pa
      a.toNat % 64 = 0 → b.toNat % 64 = 0 → streamBusy s.me = false → s.me.region ≠ .clean → s.ringWaits = [] →
      s.objWaits = [] → ce ≠ 0 → regionOf pa = .hbm → regionOf ea = .hbm → s.holds = [] →
      s.poison = [] → memWf s.mem = true → seqAddr s a .atomic = .ok pa cp s → seqAddr s b .read = .ok ea ce s →
      let answers := fun v : Word => .next (advance (setS (dropLines s [pa]) sd v))
      (r.bad = true → exec (.qput f) s = answers (-2) ∧ exec (.qget f) s = answers (-2)) ∧
      (r.bad = false → lim = 0 → r.fill = 2 ^ r.log → exec (.qput f) s = answers (-1)) ∧
      (r.bad = false → lim = 0 → r.fill = 0 → exec (.qget f) s = answers (-1)) ∧
      (∀ sp c, r.bad = false → r.fill < 2 ^ r.log → seqAddr s (BitVec.ofNat 64 (r.slotVa r.tail)) .write = .ok sp c s →
        regionOf sp = .hbm → (sp + 64 ≤ pa ∨ pa + 64 ≤ sp) → ∃ u, exec (.qput f) s = .next u ∧
          memBytes u.mem sp 64 = memBytes s.mem ea 64 ∧ memNat u.mem (pa + 8) 8 = (r.tail + 1) % 2 ^ 64 ∧
          (∀ x, (x < sp ∨ sp + 64 ≤ x) → (x < pa + 8 ∨ pa + 16 ≤ x) → memRead u.mem x = memRead s.mem x) ∧
          u.me = (advance (setS s sd (BitVec.ofNat 64 r.tail))).me ∧ u.others = s.others) ∧
      (∀ sp c dp e, r.bad = false → r.fill ≠ 0 → seqAddr s (BitVec.ofNat 64 (r.slotVa r.head)) .read = .ok sp c s →
        seqAddr s b .write = .ok dp e s → regionOf sp = .hbm → regionOf dp = .hbm →
        (sp + 64 ≤ dp ∨ dp + 64 ≤ sp) → (dp + 64 ≤ pa ∨ pa + 64 ≤ dp) → ∃ u, exec (.qget f) s = .next u ∧
          memBytes u.mem dp 64 = memBytes s.mem sp 64 ∧ memNat u.mem pa 8 = (r.head + 1) % 2 ^ 64 ∧
          (∀ x, (x < dp ∨ dp + 64 ≤ x) → (x < pa ∨ pa + 8 ≤ x) → memRead u.mem x = memRead s.mem x) ∧
          u.me = (advance (setS s sd (BitVec.ofNat 64 r.head))).me ∧ u.others = s.others))

/-! ## Lane instructions (07) -/

/-- In a strip whose registers have an entry per position, under an integer type of n bits: VADD, VSUB, VMUL, VMULH, VMIN, VMAX,
the three shifts and the three bitwise operations write their n-bit result, in its canonical container, at every executed
position, keep vd elsewhere and set no flag; VABS, VWMAC (a 2n-bit sum, n at most 16) and VNSHR clamp, and set SAT exactly where the
clamp changes the value. No other register, no predicate and nothing outside the strip changes, and the strip's code moves on. Under
an FP type the bitwise ones write the pattern of the two patterns with no flag, and the others are refused as a type the load
check of R183 keeps out. -/
def Obligations.LaneIntegers : Prop :=
  ∀ (s : State) (j : LaneJob), s.lane = some j → stripWf j.strip →
    (∀ (sg : Bool) (n : Nat), numOf j.strip.vt.type = some (.int sg n) →
      (∀ f : L3,
        let a := fun p => readInt sg n (at_ j.strip f.va p)
        let b := fun p => readInt sg n (srcAt j (.int sg n) f.vb p)
        let ua := fun p => at_ j.strip f.va p % 2 ^ n
        let ub := fun p => srcAt j (.int sg n) f.vb p % 2 ^ n
        (∀ p ∈ ([(Instr.vadd f, fun p => a p + b p), (.vsub f, fun p => a p - b p), (.vmul f, fun p => a p * b p),
            (.vmulh f, fun p => a p * b p / 2 ^ n), (.vmin f, fun p => min (a p) (b p)), (.vmax f, fun p => max (a p) (b p)),
            (.vand f, fun p => ((ua p &&& ub p : Nat) : Int)), (.vor f, fun p => ((ua p ||| ub p : Nat) : Int)),
            (.vxor f, fun p => ((ua p ^^^ ub p : Nat) : Int)),
            (.vshl f, fun p => (ua p : Int) * 2 ^ (ub p % n)), (.vshr f, fun p => (ua p : Int) / 2 ^ (ub p % n)),
            (.vsra f, fun p => readInt true n (ua p) / 2 ^ (ub p % n))] : List (Instr × (Nat → Int))),
          laneGives s j f.vd f.guard (fun q => laneInteger sg n (p.2 q)) (fun _ => 0) (exec p.1 s)) ∧
        (n ≤ 16 →
          let sum := fun p => readInt sg (2 * n) (at_ j.strip f.vd p) + a p * b p
          let shr := fun p => shiftRound (readInt sg (2 * n) (at_ j.strip f.va p)) (ub p % (2 * n)) (roundModeOf j.strip.vt.xrm)
          let clamp := fun (m : Nat) (x : Int) => max (intMin sg m) (min (intMax sg m) x)
          laneGives s j f.vd f.guard (fun p => laneInteger sg (2 * n) (clamp (2 * n) (sum p)))
            (fun p => if intMin sg (2 * n) ≤ sum p ∧ sum p ≤ intMax sg (2 * n) then 0 else flagSAT) (exec (.vwmac f) s) ∧
          laneGives s j f.vd f.guard (fun p => laneInteger sg n (clamp n (shr p)))
            (fun p => if intMin sg n ≤ shr p ∧ shr p ≤ intMax sg n then 0 else flagSAT) (exec (.vnshr f) s))) ∧
      (∀ f : L2,
        let x := fun p => readInt sg n (at_ j.strip f.va p)
        laneGives s j f.vd f.guard (fun p => laneInteger sg n (min (intMax sg n) (x p).natAbs))
          (fun p => if ((x p).natAbs : Int) ≤ intMax sg n then 0 else flagSAT) (exec (.vabs f) s))) ∧
    (∀ m, numOf j.strip.vt.type = some (.fp m) → ∀ (f : L3) (h : L2),
      (let a := fun p => at_ j.strip f.va p
       let b := fun p => srcAt j (.fp m) f.vb p
       ∀ p ∈ ([(Instr.vand f, fun p => a p &&& b p), (.vor f, fun p => a p ||| b p), (.vxor f, fun p => a p ^^^ b p)] :
          List (Instr × (Nat → Nat))),
         laneGives s j f.vd f.guard (fun q => BitVec.ofNat 32 (p.2 q % 2 ^ m.width)) (fun _ => 0) (exec p.1 s)) ∧
      ∀ i ∈ [Instr.vadd f, .vsub f, .vmul f, .vmulh f, .vmin f, .vmax f, .vshl f, .vshr f, .vsra f, .vwmac f, .vnshr f, .vabs h],
        exec i s = .refused .laneType)

/-- In such a strip, under an FP type: VFADD, VFSUB, VFMUL, VFMA, VFMIN, VFMAX, VRCP and VRSQ write the pattern of their rounded
result and add its flags, with FZI on the operands and FZO on the result; VEXP2 and VLOG2 likewise, for some choice of the neighbour
of an inexact result, which is free (log entry 3); VFCLS writes the class mask and no flag; VCVT writes the pattern of the named type
under any lane type, its flags those of R38's table; under the same FP type it keeps the pattern, but a subnormal becomes the zero of
its sign where FZI or FZO is set, with UF and NX where FZO alone is, and a NaN's pattern is copied as it is, a signalling one flagging
NV (the copied pattern is log entry 26, the model's reading). Nothing else changes. Under an integer type the instructions other
than VCVT are refused as a type the load check of R183 keeps out. -/
def Obligations.LaneFloats : Prop :=
  ∀ (s : State) (j : LaneJob), s.lane = some j → stripWf j.strip →
    let vt := j.strip.vt
    (∀ m : FpFmt, numOf vt.type = some (.fp m) →
      (∀ f : L3,
        let d := fun p => fpRead m vt.fzi (at_ j.strip f.vd p)
        let a := fun p => fpRead m vt.fzi (at_ j.strip f.va p)
        let b := fun p => fpRead m vt.fzi (srcAt j (.fp m) f.vb p)
        ∀ p ∈ ([(Instr.vfadd f, fun p => fpAdd m vt.fzo (a p) (b p)), (.vfsub f, fun p => fpAdd m vt.fzo (a p) (b p).neg),
            (.vfmul f, fun p => fpMul m vt.fzo (a p) (b p)), (.vfma f, fun p => fpFma m vt.fzo (d p) (a p) (b p)),
            (.vfmin f, fun p => fpMinMax m vt.fzo false (a p) (b p)), (.vfmax f, fun p => fpMinMax m vt.fzo true (a p) (b p))] :
              List (Instr × (Nat → FRes))),
          laneGives s j f.vd f.guard (fun q => BitVec.ofNat 32 ((p.2 q).bits % 2 ^ m.width)) (fun q => (p.2 q).flags)
            (exec p.1 s)) ∧
      (∀ f : L2,
        let a := fun p => fpRead m vt.fzi (at_ j.strip f.va p)
        let gives := fun (s : State) (r : Nat → FRes) => laneGives s j f.vd f.guard
          (fun q => BitVec.ofNat 32 ((r q).bits % 2 ^ m.width)) (fun q => (r q).flags)
        gives s (fun p => fpRecip m vt.fzo (a p)) (exec (.vrcp f) s) ∧
        gives s (fun p => fpRsqrt m vt.fzo (a p)) (exec (.vrsq f) s) ∧
        (∃ up : Nat → Bool, gives { s with free := s.free + 1 } (fun p => fpExp2 m vt.fzo (up p) (a p)) (exec (.vexp2 f) s)) ∧
        (∃ up : Nat → Bool, gives { s with free := s.free + 1 } (fun p => fpLog2 m vt.fzo (up p) (a p)) (exec (.vlog2 f) s)) ∧
        laneGives s j f.vd f.guard (fun p => BitVec.ofNat 32 (fpClass m (a p))) (fun _ => 0) (exec (.vfcls f) s))) ∧
    (∀ (t u : Machine.Num) (f : LcvtF), numOf vt.type = some t → numOf f.ty = some u →
      let x := fun p => at_ j.strip f.va p
      (t ≠ u → laneGives s j f.vd f.guard (fun p => canonical u (convNum t u vt.fzi vt.fzo (x p)).bits)
        (fun p => (convNum t u vt.fzi vt.fzo (x p)).flags) (exec (.vcvt f) s)) ∧
      (∀ sg n, t = .int sg n → u = .int sg n →
        laneGives s j f.vd f.guard (fun p => laneInteger sg n (readInt sg n (x p))) (fun _ => 0) (exec (.vcvt f) s)) ∧
      (∀ m, t = .fp m → u = .fp m →
        let v := fun p => fpRead m false (x p)
        let subnormal := fun p => match v p with | .fin _ sig e => decide (leadExp sig e < 1 - m.bias) | _ => false
        let negative := fun p => match v p with | .fin neg _ _ => neg | _ => false
        laneGives s j f.vd f.guard
          (fun p => BitVec.ofNat 32 (if subnormal p && (vt.fzi || vt.fzo) then fpSign m (negative p) else x p % 2 ^ m.width))
          (fun p => if subnormal p && !vt.fzi && vt.fzo then flagUF ||| flagNX else if v p = .nan true then flagNV else 0)
          (exec (.vcvt f) s))) ∧
    (∀ sg n, numOf vt.type = some (.int sg n) → ∀ (f : L3) (h : L2),
      ∀ i ∈ [Instr.vfadd f, .vfsub f, .vfmul f, .vfma f, .vfmin f, .vfmax f, .vrcp h, .vrsq h, .vexp2 h, .vlog2 h, .vfcls h],
        exec i s = .refused .laneType)

/-- In such a strip: VCMP writes predicate vd at the executed positions, on integers by their values, on FP operands by their values,
with a NaN making NE hold and the others fail (EQ and NE flag a signalling NaN, the others any NaN as NV); PAND, POR, PXOR and PNOT write
theirs; VSEL takes va where pK is set and vb elsewhere at every active position; VMOV copies vb; VIDX writes the element's index,
modulo 2^n under an integer type. VSEL and VMOV take the low n bits and write them canonical for the current type (log entry 76, the
model's reading). Registers and predicates other than vd, the flags but for VCMP's, and everything outside the strip
are unchanged. -/
def Obligations.LanePredicatesAndMoves : Prop :=
  ∀ (s : State) (j : LaneJob), s.lane = some j → stripWf j.strip →
    let st := j.strip
    (∀ (f : L3) (sg : Bool) (n : Nat), numOf st.vt.type = some (.int sg n) →
      let a := fun p => readInt sg n (at_ st f.va p)
      let b := fun p => readInt sg n (srcAt j (.int sg n) f.vb p)
      ∀ p ∈ ([(Instr.vcmpEq f, fun p => decide (a p = b p)), (.vcmpNe f, fun p => decide (a p ≠ b p)),
          (.vcmpLt f, fun p => decide (a p < b p)), (.vcmpGe f, fun p => decide (b p ≤ a p)),
          (.vcmpLe f, fun p => decide (a p ≤ b p)), (.vcmpGt f, fun p => decide (b p < a p))] : List (Instr × (Nat → Bool))),
        laneDecides s j f.vd f.guard p.2 (fun _ => 0) (exec p.1 s)) ∧
    (∀ (f : L3) (m : FpFmt), numOf st.vt.type = some (.fp m) →
      let x := fun p => fpRead m st.vt.fzi (at_ st f.va p)
      let y := fun p => fpRead m st.vt.fzi (srcAt j (.fp m) f.vb p)
      let nan := fun p => (x p).isNaN || (y p).isNaN
      let signals := fun p => decide (x p = .nan true ∨ y p = .nan true)
      ∀ p ∈ ([(Instr.vcmpEq f, false, fun p => fpEq (x p) (y p)), (.vcmpNe f, true, fun p => !fpEq (x p) (y p)),
          (.vcmpLt f, false, fun p => fpLt (x p) (y p)), (.vcmpGe f, false, fun p => !fpLt (x p) (y p)),
          (.vcmpLe f, false, fun p => !fpLt (y p) (x p)), (.vcmpGt f, false, fun p => fpLt (y p) (x p))] :
            List (Instr × Bool × (Nat → Bool))),
        let quiet := decide (p.1 = .vcmpEq f ∨ p.1 = .vcmpNe f)
        laneDecides s j f.vd f.guard (fun q => if nan q then p.2.1 else p.2.2 q)
          (fun q => if nan q && (!quiet || signals q) then flagNV else 0) (exec p.1 s)) ∧
    (∀ (f : Lp3) (h : L2),
      let at1 := fun (r : BitVec 5) p => (preg st r).getD p false
      laneDecides s j f.vd f.guard (fun p => at1 f.va p && at1 f.vb p) (fun _ => 0) (exec (.pand f) s) ∧
      laneDecides s j f.vd f.guard (fun p => at1 f.va p || at1 f.vb p) (fun _ => 0) (exec (.por f) s) ∧
      laneDecides s j f.vd f.guard (fun p => at1 f.va p ^^ at1 f.vb p) (fun _ => 0) (exec (.pxor f) s) ∧
      laneDecides s j h.vd h.guard (fun p => !at1 h.va p) (fun _ => 0) (exec (.pnot h) s)) ∧
    (∀ t : Machine.Num, numOf st.vt.type = some t →
      (∀ f : LselF, laneGives s j f.vd none (fun p => canonical t ((if (st.p[f.p.val]'(f.p.isLt)).getD p false
          then at_ st f.va p else srcAt j t f.vb p) % 2 ^ t.bits)) (fun _ => 0) (exec (.vsel f) s)) ∧
      (∀ f : LmovF, laneGives s j f.vd f.guard (fun p => canonical t (srcAt j t f.vb p % 2 ^ t.bits)) (fun _ => 0)
        (exec (.vmov f) s)) ∧
      (∀ (vd : BitVec 5) (g : Guard) (sg : Bool) (n : Nat), t = .int sg n →
        laneGives s j vd g (fun p => laneInteger sg n (match st.elems.getD p none with | some e => (e : Int) | none => 0))
          (fun _ => 0) (exec (.vidx vd g) s)) ∧
      (∀ (vd : BitVec 5) (g : Guard) (m : FpFmt), t = .fp m →
        let r := fun p => fpOfInt m st.vt.fzo (match st.elems.getD p none with | some e => (e : Int) | none => 0)
        laneGives s j vd g (fun p => BitVec.ofNat 32 ((r p).bits % 2 ^ m.width)) (fun p => (r p).flags) (exec (.vidx vd g) s)))

/-- In such a strip: VPERM writes va's pattern at the position that vb's pattern names, 0 where that is past the strip; VCONF, under a
32-bit integer type, writes the mask of the earlier active positions of its chunk of 32 that hold the same pattern; VCOMP packs
va's patterns at the active positions where pK is set to the front of vd and zeroes the rest; VCFG sets the type, flush and rounding
fields; VNOP does nothing; VRET delivers va's pattern for each active element and ends the strip's code. VPERM and VCOMP take the low n bits and write them
canonical for the current type (log entry 76, the model's reading). Nothing else changes. -/
def Obligations.LanePermuteAndReturn : Prop :=
  ∀ (s : State) (j : LaneJob), s.lane = some j → stripWf j.strip →
    let st := j.strip
    (∀ t : Machine.Num, numOf st.vt.type = some t →
      (∀ f : LpermF,
        let i := fun p => srcAt j t (match f.rep with | none => LaneSrc.vec f.vb | some z => .rep f.vb z) p % 2 ^ t.bits
        laneGives s j f.vd f.guard (fun p => canonical t ((if i p < st.active.length then at_ st f.va (i p) else 0) % 2 ^ t.bits))
          (fun _ => 0) (exec (.vperm f) s)) ∧
      (∀ (f : L2) (sg : Bool), t = .int sg 32 → ∃ mask : Nat → Half,
        laneGives s j f.vd f.guard mask (fun _ => 0) (exec (.vconf f) s) ∧
        ∀ p, ∀ i < 32, ((mask p).getLsbD i = true ↔
          p / 32 * 32 + i < p ∧ st.active.getD (p / 32 * 32 + i) false = true ∧ at_ st f.va (p / 32 * 32 + i) = at_ st f.va p)) ∧
      (∀ f : LcompF, ∃ k : LaneJob, exec (.vcomp f) s = .next { s with lane := some k } ∧
        k = { j with strip := { st with v := k.strip.v, fp := k.strip.fp, code := st.code.drop 1 } } ∧
        (∀ r, r ≠ f.vd → vreg k.strip r = vreg st r) ∧
        let kept := (List.range st.active.length).filter fun p =>
          st.active.getD p false && (st.p[f.p.val]'(f.p.isLt)).getD p false
        vreg k.strip f.vd = (kept.map fun p => canonical t (at_ st f.va p % 2 ^ t.bits)) ++
          List.replicate (st.active.length - kept.length) 0)) ∧
    (∀ f : LcfgF, exec (.vcfg f) s = .next { s with lane := some { j with
      strip := { st with vt := ⟨f.ty, f.fzi, f.fzo, f.xrm⟩, code := st.code.drop 1 } } }) ∧
    exec .vnop s = .next { s with lane := some { j with strip := { st with code := st.code.drop 1 } } } ∧
    (∀ va : BitVec 5, ∃ k : LaneJob, exec (.vret va) s = .next { s with lane := some k } ∧
      k = { j with out := k.out, strip := { st with code := [], ret := some va } } ∧
      ∀ t, numOf st.vt.type = some t → st.elems.length = st.active.length → ∃ new, k.out = new ++ j.out ∧
        ∀ e x, (e, x) ∈ new ↔ ∃ p < st.active.length, st.elems.getD p none = some e ∧ st.active.getD p false = true ∧
          x = BitVec.ofNat 32 (at_ st va p % 2 ^ t.bits))

/-! ## Placement, stopping, the emulator (04, 11, 13) -/

/-- In a READY device a bind record of the scheduler of the mode (the physical function, or Ranger, whose firmware places in the order
of R288 and the tier of R364) that is accepted puts its block BOUND into the slot and its group into PLACING; a refused one sets
BINDERR; withdrawing an armed record frees the slot, and is refused for a running block. A gang start makes every waiting group of
the band RUNNING, and a block bound by a fresh record starts at offset 0 of the tile section with PARAM in s1 and zero in every
other register. A stop request that names a RUNNING group leaves no group of its band RUNNING; one that names none, or
sets a reserved bit, sets BINDERR with reason 0x09 and SLOT 0x1FF (the model's reading, log entry 33). A placement that Ranger's
firmware does not make is no event (log entry 2, the model's choice). The expiry of the grace period makes a clean STOPPING block roll back, and a report of a non-yielding block is
event 0x01 with its program counter. The end of a drain frees an EXITING block's slot; the end of a rollback after an error makes
the block run from its cairn (in a device with no bank evacuating). The emulator's PERFORM, whose writes are a list that the event carries
(log entry 54, the model's choice), writes what it says and moves on with the block exposed; its DECLINE traps UNDEF_FUTURE. Memory is unchanged where an event log record is not written. -/
def Obligations.BlockEvents : Prop :=
  ∀ (s : State) (x : SlotNo),
    (s.isReady = true →
      (∀ record : BitVec 256,
        let raw := record ||| BitVec.twoPow 256 255
        let r := bindRec raw
        let places := s.ctl.fnmode.getLsbD 0 = true ∨ rangerPlaces s x r = true
        (¬places → exec (.bindRecordArm x record) s = .next s) ∧
        (places → recReason s x r = none → ∃ u b h, exec (.bindRecordArm x record) s = .next u ∧ u.mem = s.mem ∧
          slotRecord u x = raw ∧ getBlock u x = some b ∧ b.st = .bound ∧ b.gid = r.id ∧ b.kernel = r.kernel ∧
          findGroup u r.id = some h ∧ h.st = .placing) ∧
        (∀ e, places → recReason s x r = some e → ∃ u, exec (.bindRecordArm x record) s = .next u ∧
          u.ctl.binderr = BitVec.ofNat 64 (x.toNat * 2 ^ 55 + 0x100 + e) ∧ u.me = s.me ∧ u.others = s.others)) ∧
      (∀ b, occupant s x = some b →
        (b.st = .bound → ∃ u, exec (.bindRecordWithdraw x) s = .next u ∧ slotFree u x = true ∧ u.mem = s.mem) ∧
        (b.st ≠ .bound → ∃ u, exec (.bindRecordWithdraw x) s = .next u ∧
          u.ctl.binderr = BitVec.ofNat 64 (x.toNat * 2 ^ 55 + 0x107) ∧ u.me = s.me ∧ u.others = s.others)) ∧
      (∀ w : BitVec 128, ∀ i ∈ (if s.ctl.fnmode.getLsbD 0 then [Instr.gstop w] else [.gstop w, .rangerStopRequest w]),
        (∀ g, stopTarget s w = some g → w.extractLsb' 38 25 = 0 → ∃ u, exec i s = .next u ∧
          ∀ h ∈ bandOf u g, h.st ≠ .running) ∧
        (stopTarget s w = none ∨ w.extractLsb' 38 25 ≠ 0 → ∃ u, exec i s = .next u ∧
          u.ctl.binderr = BitVec.ofNat 64 (0x1FF * 2 ^ 55 + 0x109) ∧ u.me = s.me ∧ u.others = s.others))) ∧
    (∀ id g, findGroup s id = some g → g.st = .placing → canStart s g = true → ∃ u, exec (.gangStart id) s = .next u ∧
      u.mem = s.mem ∧
      (∀ h ∈ waitingGroups s g, ∃ k ∈ u.groups, k.id = h.id ∧ k.st = .running ∧ k.started = true) ∧
      (∀ y b k l, getBlock s y = some b → b.st = .bound → b.gid = id → (bindRec (slotRecord s y)).kind = 0 →
        getKernel s b.kernel = some k → findLaunch s b.gid.queue b.gid.seq = some l → ∃ c, getBlock u y = some c ∧
          c.st = .running ∧ c.pc = k.tileBase ∧ c.sregs = (Vector.replicate 64 (0 : Word)).set 1 l.param ∧
          c.cairn.pc = k.tileBase)) ∧
    (∀ b, getBlock s x = some b →
      (b.preempt = true → b.graceOver = false → b.st = .stopping → b.atPoint = false → b.region = .clean →
        b.wait.emulated = false → ∃ u c, exec (.gracePeriodExpiry x) s = .next u ∧ u.mem = s.mem ∧ getBlock u x = some c ∧ c.st = .rollback ∧
          c.sregs = b.sregs ∧ c.cairn = b.cairn ∧ c.flights = b.flights.filter fun f => decide (f.id < b.cairn.mark)) ∧
      (b.preempt = true → b.st.live = true → b.st ≠ .stopped →
        exec (.nonYieldingReport x) s = .next (ctxEvent s b.ctx 0x01 x.toNat b.pc 0)) ∧
      (b.st = .exiting → exitDrained s b = true → ∃ u c, exec (.blockDrainComplete x) s = .next u ∧
        slotFree u x = true ∧ getBlock u x = some c ∧ (c.st = .done ∨ c.st = .free) ∧ c.holding = []) ∧
      (∀ e n, b.st = .rollback → rollDrained s b = true → b.roll = .error e n → b.preempt = false →
        (∀ p ∈ s.banks, p.2.st ≠ .evacuating) → ∃ u c, exec (.rollbackRestoreComplete x) s = .next u ∧ u.mem = s.mem ∧ getBlock u x = some c ∧ c.st = .running ∧
          c.pc = b.cairn.pc ∧ c.sregs = b.cairn.sregs ∧ c.loops = b.cairn.loops ∧ c.shapes = b.cairn.shapes ∧
          c.names = restoredNames b) ∧
      (∀ w, b.wait = .emulator w →
        (∀ writes, ∃ u, exec (.emulatorPerform x writes) s = .next u ∧ u.me.slot = b.slot ∧ u.me.pc = b.pc + 8 ∧
          u.me.wait = .none ∧ u.me.region = (if b.region = .clean then .exposed else b.region) ∧
          u.ctl = s.ctl ∧ u.queues = s.queues) ∧
        (∀ r v, ∃ u, exec (.emulatorPerform x [.sreg r v]) s = .next u ∧ getS u r = (if r = 0 then 0 else v) ∧
          (∀ q, q ≠ r → getS u q = getS (switchTo s x) q) ∧ u.mem = s.mem ∧ u.others = (switchTo s x).others) ∧
        exec (.emulatorDecline x) s = .next
          (seqTrap { switchTo s x with me := { b with wait := .none } } w { cause := .undefFuture })))

/-- For a running block whose other instructions in flight wait for nothing, in a device with no bank evacuating: a performed
instruction that awaits no answer from beyond the package leaves the flights with its completion, its version is DONE, its tag is set where no other instruction carries it, and
memory is unchanged. The end of a strip without poison adds its flags to LSTAT and starts the next strip, or ends a MAP with the
results in its version. The arrival of a codebook table marks the oldest table of the core that has been read; a TCB is complete with
its last. A lane function is PRESENT with its fetch; an instruction cache line is filled with the error of the fetch, or that of the arena's copy; a compiling trail is
RESIDENT, a doomed one gone. A poll of TWAITV that reads no poisoned element moves on with a mask of zeros where every pending element meets its condition, else
the block waits on for those that do not; its limit gives the mask of what is pending; the limit of a ring request traps QTIMEOUT with TAIL
and HEAD. A line hold ends. -/
def Obligations.EngineEvents : Prop :=
  ∀ (s : State) (x : SlotNo), (∀ p ∈ s.banks, p.2.st ≠ .evacuating) →
    (∀ b id f, getBlock s x = some b → b.st = .running → findFlight b id = some f → f.st = .performed →
      (∀ g ∈ b.flights, g.st ≠ .waiting) → Instr.isTcb f.ins = false → unanswered s x f = false →
      ∃ u, exec (if f.dst.isSome then .tileVersionDone x id else .storeComplete x id) s = .next u ∧ u.me.slot = x ∧
        u.me.flights = b.flights.filter (fun g => g.id != id) ∧ u.me.sregs = b.sregs ∧ u.me.names = b.names ∧ u.mem = s.mem ∧
        (∀ d v, f.dst = some d → findVersion b d = some v → curId b v.name = some d → otherWriter b f d = false →
          findVersion u.me d = some { v with done := true }) ∧
        (∀ g, f.tag = some g → (u.me.tags.getLsbD g.toNat = true ↔
          b.tags.getLsbD g.toNat = true ∨ ∀ h ∈ b.flights, h.id ≠ id → h.tag ≠ some g))) ∧
    (∀ j b, s.lane = some j → j.strip.ret.isSome = true → getBlock s j.slot = some b →
      (∀ e ∈ stripActive j.strip, e ∉ j.bad) →
      (j.todo ≠ [] → laneFits s (slotCore j.slot) j.header = true → ∃ u k, exec .stripBoundary s = .next u ∧
        u.me = { b with lstat := b.lstat ||| j.strip.flags } ∧ u.lane = some k ∧ u.mem = s.mem ∧
        k.slot = j.slot ∧ k.flight = j.flight ∧ k.out = j.out ∧ k.strip.code = j.code ∧ k.strip.flags = 0) ∧
      (∀ f m d v, j.todo = [] → findFlight b j.flight = some f → f.ins = .map m → f.dst = some d → findVersion b d = some v →
        ∃ u g, exec .stripBoundary s = .next u ∧ u.lane = none ∧ u.me.slot = j.slot ∧
          u.me.lstat = b.lstat ||| j.strip.flags ∧ findFlight u.me j.flight = some g ∧ g.st = .performed ∧ u.mem = s.mem ∧
          findVersion u.me d = some { v with
            elems := ((List.range j.active.length).map fun e => (lookupOut j.out e).getD (mapRest b f e)), scales := [] })) ∧
    (∀ core l t r, s.cbs = l ++ t :: r → (∀ y ∈ l, ¬(slotCore y.slot = core ∧ y.data.isSome = true ∧ y.arrived = false)) →
      slotCore t.slot = core → t.data.isSome = true → t.arrived = false →
      let s1 := { s with cbs := l ++ { t with arrived := true } :: r }
      (ringHolder s core = none → exec (.codebookTableArrival core) s = .next s1) ∧
      (∀ b, ringHolder s core = some b → getBlock s b.slot = some b → (∀ f ∈ b.flights, f.st ≠ .waiting) →
        (tcbDone (switchTo s1 b.slot) = none → exec (.codebookTableArrival core) s = .next (switchTo s1 b.slot)) ∧
        (∀ f, tcbDone (switchTo s1 b.slot) = some f → b.st = .running →
          ∃ u, exec (.codebookTableArrival core) s = .next u ∧ u.me.flights = b.flights.filter (fun g => g.id != f.id) ∧
            u.cbs = s1.cbs ∧ u.mem = s.mem))) ∧
    (∀ core h (off : BitVec 24), (∃ e ∈ s.laneFns, e.is core h off.toNat = true ∧ e.present = false) →
      exec (.laneFunctionFetchComplete core h off true) s = .next { s with
        laneFns := s.laneFns.map (fun e => if e.is core h off.toNat then { e with present := true } else e) } ∧
      (laneFnWaiters s core h off.toNat = [] → exec (.laneFunctionFetchComplete core h off false) s =
        .next { s with laneFns := s.laneFns.filter fun e => !e.is core h off.toNat })) ∧
    (∀ core h hd (off : BitVec 32) ok k, getKernel s h = some k → k.st = .resident ∨ k.st = .pinned →
      off.toNat < 8 * (if hd then k.handler else k.tile).length →
      (∀ l ∈ s.icache, ¬(l.core = core ∧ l.kernel = h ∧ l.handler = hd ∧ l.line = off.toNat / 64)) →
      (s.icache.filter fun l => l.core == core).length < 1024 →
      exec (.icacheFill core h hd off ok) s = .next { s with icache :=
        ⟨core, h, hd, off.toNat / 64, if ok then (k.bad.find? fun w => w.1 == hd && w.2 / 64 == off.toNat / 64).map Prod.snd
          else some (off.toNat / 8 * 8)⟩ :: s.icache }) ∧
    (∀ t, t ∈ s.trails → cacheBytes s.trails t.cluster ≤ 524288 → trailWaiters s t.no = [] →
      (∀ y ∈ s.trails, y ≠ t → y.no ≠ t.no ∧ (y.is t.cluster t.ctx t.desc t.gen = true → y.st = .resident)) →
      (t.st = .compiling → exec (.trailCompileComplete t.cluster t.ctx t.desc t.gen) s = .next { s with
        trails := s.trails.map (fun y => if y.no = t.no then { y with st := .resident } else y) }) ∧
      (t.st = .doomed → exec (.trailCompileComplete t.cluster t.ctx t.desc t.gen) s =
        .next { s with trails := s.trails.filter fun y => y.no != t.no })) ∧
    (∀ f c pending m id b, s.me.slot = x → s.me.wait = .values f c pending → current s.me f.t2 = some m →
      rename s s.me f.t2 m.geom [] = .ok id b →
      (∃ u v, exec (.twaitvLimitExpiry x) s = .next u ∧ u.me.pc = s.me.pc + 8 ∧ u.me.wait = .none ∧ u.mem = s.mem ∧
        current u.me f.t2 = some v ∧ v.done = true ∧
        v.elems = (List.range m.geom.count).map fun e => if pending.contains e then 1 else 0) ∧
      (∀ y segs, current s.me f.t = some y →
        accessRanges s (pending.flatMap ((waitLayout s f).ranges 0)) .read .tile true = (.ok segs, s) →
        (∀ e ∈ pending, e ∉ y.poison) → poisonOf s.me (curId s.me f.t2) = [] →
        let left := stillPending s c (waitLayout s f) segs y.elems pending
        (left = [] → ∃ u v, exec (.twaitvPoll x) s = .next u ∧ u.me.pc = s.me.pc + 8 ∧ u.mem = s.mem ∧
          current u.me f.t2 = some v ∧ v.done = true ∧ v.elems = List.replicate m.geom.count 0) ∧
        (left ≠ [] → ∃ u, exec (.twaitvPoll x) s = .next u ∧ u.me.pc = s.me.pc ∧ u.me.wait = .values f c left ∧
          u.mem = s.mem ∧ u.others = s.others))) ∧
    (∀ pa put f e bad, s.me.slot = x → s.me.wait = .ring pa put f e bad → servable s pa = none →
      exec (.qtimeout x) s = .next (seqTrap (dropLines s [pa]) (wordOf (if put then .qput f else .qget f))
        { cause := .qtimeout, tval := getS s f.sa, tcoord :=
            BitVec.ofNat 64 ((ringAt s pa).tail % 2 ^ 32 * 2 ^ 32 + (ringAt s pa).head % 2 ^ 32) })) ∧
    (∀ line : BitVec 46, ∃ u, exec (.lineHoldExpiry line) s = .next u ∧
      u = { s with holds := u.holds } ∧ ∀ h, h ∈ u.holds ↔ h ∈ s.holds ∧ h.line ≠ line.toNat)

/-! ## Launch queues (12) -/

/-- In a READY device a 64-byte write at the record port by the queue's owner hands in a record where the queue is OPEN or HALTED, and
sets QERR with reason 0x11 in another state; a write by anyone else is dropped. Acceptance takes the oldest record handed in: a good one
is a launch with the next number, a bad one a launch that ended with its status, and the OPEN queue HALTED. With no record waiting, BIND
opens an UNBOUND queue whose checks pass with NEXT and LOW 1, HALT and RESUME go between OPEN and HALTED, DRAIN gives DRAINING, or
CLOSED where every launch has ended, UNBIND makes a CLOSED queue UNBOUND with nothing of its launches left; in another state each sets
QERR with reason 0x13. A launch without dependencies and with a direct count n above 0 is eligible with n units; one with a failed
dependency ends DEPFAIL. An offer is of the next unit of the queue's next launch, and the first one tells the host where it schedules (a notice in State.notices: log entry 2). A launch whose groups have ended completes, with its record waiting; a
waiting record is written at its place in the completion ring with its PHASE, and nothing beside it; one written to the host or a peer
waits for the acknowledgement, and one for a peer page whose route has changed is not written yet (log entry 47). A write of CHEAD sets it. -/
def Obligations.QueueEvents : Prop :=
  ∀ (s : State) (q : BitVec 10),
    let x := getQueue s q
    let refused := fun (i : Instr) (n : Nat) => ∃ u, exec i s = .next u ∧ (getQueue u q).qerr = BitVec.ofNat 64 (0x100 + n) ∧
      (getQueue u q).st = x.st ∧ u.launches = s.launches ∧ u.submitted = s.submitted ∧ u.me = s.me
    (s.isReady = true → ∀ who data,
      (ownsQueue s who q = true → data.length = 64 →
        (x.accepting = true → exec (.lrecWrite who q 0 data) s =
          .next { s with submitted := s.submitted ++ [(q, BitVec.ofNat 512 (leNat data))] }) ∧
        (x.accepting = false → refused (.lrecWrite who q 0 data) 0x11)) ∧
      (ownsQueue s who q = false → exec (.lrecWrite who q 0 data) s = .next s)) ∧
    (∀ r, s.submitted.find? (fun y => y.1 == q) = some r → (∀ y ∈ s.launches, ¬(y.q = q ∧ y.seq = x.next)) →
      let l : Launch := { q := q, seq := x.next, ctx := x.ctx, record := capPrio r.2 x.pmax, token := 0 }
      (launchReason s l = none → ∃ u m, exec (.launchAccept q) s = .next u ∧ u.submitted = s.submitted.erase r ∧
        getQueue u q = { x with next := x.next + 1 } ∧ u.launches = s.launches ++ [m] ∧
        m = { l with token := m.token }) ∧
      (∀ f, launchReason s l = some f → ∃ u m, exec (.launchAccept q) s = .next u ∧ findLaunch u q x.next = some m ∧
        m.ended = true ∧ m.failed = some f ∧ (getQueue u q).next = x.next + 1 ∧
        (x.st = .opened → (getQueue u q).st = .halted))) ∧
    (s.isReady = true → (∀ r ∈ s.submitted, r.1 ≠ q) →
      (x.st = .unbound → bindOk s x = true → ∃ u, exec (.qcmdBind q) s = .next u ∧ getQueue u q =
        { x with st := .opened, cfg := x.qcfg, next := 1, low := 1, chead := 0, completions := 0, dead := false }) ∧
      (x.st = .unbound → bindOk s x = false → refused (.qcmdBind q) 0x14) ∧
      (x.st = .opened → exec (.qcmdHalt q) s = .next (setQueue s q { x with st := .halted })) ∧
      (x.st = .halted → exec (.qcmdResume q) s = .next (setQueue s q { x with st := .opened })) ∧
      (x.accepting = true → exec (.qcmdDrain q) s = .next (setQueue s q { x with
        st := (if (queueLaunches s q).all Launch.ended then .closed else .draining) })) ∧
      (x.st = .closed → ∃ u, exec (.qcmdUnbind q) s = .next u ∧ (getQueue u q).st = .unbound ∧
        (∀ l ∈ u.launches, l.q ≠ q) ∧ (∀ g ∈ u.groups, g.id.queue ≠ q) ∧ u.mem = s.mem) ∧
      (∀ p ∈ [(Instr.qcmdBind q, x.st = .unbound), (.qcmdHalt q, x.st = .opened), (.qcmdResume q, x.st = .halted),
        (.qcmdDrain q, x.accepting = true), (.qcmdUnbind q, x.st = .closed)], ¬p.2 → refused p.1 0x13) ∧
      (∀ v, exec (.cheadWrite q v) s = .next (setQueue s q { x with chead := v }))) ∧
    (∀ seq l, findLaunch s q seq = some l → l.ended = false →
      (l.eligible = false → launchBusy s l = false → l.failed = none → (getCtx s l.ctx).st = .active →
        (l.field 176 4 = (0 : BitVec 4) → l.ind = false → bitsOf l.cnt.toNat 0 32 ≠ 0 →
          ∃ u, exec (.launchEligible q seq) s = .next u ∧ u.mem = s.mem ∧ u.queues = s.queues ∧
            findLaunch u q seq = some { l with requested := 4, eligible := true, units := bitsOf l.cnt.toNat 0 32 }) ∧
        ((∃ j < 4, depState s l j = .failed) → ∃ u m, exec (.launchEligible q seq) s = .next u ∧
          findLaunch u q seq = some m ∧ m.ended = true ∧ m.failed = some .depfail)) ∧
      (l.canEnd = true → ∃ u m, exec (.launchComplete q seq) s = .next u ∧ findLaunch u q seq = some m ∧ m.ended = true ∧
        m.failed = l.failed ∧ (x.dead = false → ∃ ev, ⟨q, seq, recordBody l ev
          (match l.failed with | some f => f.code | none => 0)⟩ ∈ u.pendingRecords))) ∧
    (∀ l, (queueLaunches s q).find? (fun y => !y.ended && !(y.eligible && decide (y.offered = y.units))) = some l →
      x.st = .opened ∨ x.st = .draining ∨ (x.st = .halted ∧ l.offered ≠ 0) →
      (getCtx s x.ctx).st = .active → l.eligible = true → l.failed = none → l.gkilled = 0 → itsTurn s l = true →
      (∀ k ∈ s.kernels, k.handle = l.kernel → k.st ≠ .evicted) →
      let u := modLaunch s q l.seq fun y => { y with offered := y.offered + 1 }
      exec (.launchOffer q) s = .next (if l.offered = 0 ∧ s.ctl.fnmode.getLsbD 0 = true
        then { u with notices := u.notices ++ [.eligibleToHost l.q l.seq] } else u)) ∧
    (∀ r t, s.pendingRecords.find? (fun y => y.q == q) = some r → x.dead = false →
      (∀ f ∈ s.faults, f.agent ≠ .completion q) → (∀ h ∈ s.held, h.agent ≠ .completion q) →
      (∀ z ∈ s.requests, z.agent ≠ .completionRecord q) →
      x.completions - x.chead.toNat ≠ 2 ^ x.clog → memWf s.mem = true →
      let va := x.qcplb.toNat + 32 * (x.completions % 2 ^ x.clog)
      translate s none x.ctx va .write .link = (.ok t, s) →
      (pathMoved s (t.pa va) = true → exec (.completionRecordWrite q) s = .next s) ∧
      (pathMoved s (t.pa va) = false → ∃ u, exec (.completionRecordWrite q) s = .next u ∧
        (regionOf (t.pa va) = .hbm → u.pendingRecords = s.pendingRecords.erase r ∧
          (getQueue u q).completions = x.completions + 1) ∧
        (regionOf (t.pa va) = .host ∨ regionOf (t.pa va) = .peer → u.pendingRecords = s.pendingRecords ∧
          u.queues = s.queues ∧ ∃ z ∈ u.requests, z.agent = .completionRecord q ∧ z.write = true) ∧
        memBytes u.mem (t.pa va) 32 = leBytes 32 (r.body.toNat + x.completions / 2 ^ x.clog % 2 * 256) ∧
        ∀ a, a < t.pa va ∨ t.pa va + 32 ≤ a → memRead u.mem a = memRead s.mem a))

/-! ## Kernels and pages (13, 15) -/

/-- In a READY device with KRES not BUSY and the context ACTIVE: LOAD reserves the lowest free index, with its next generation, for a
kernel in LOADING, and KRES is BUSY; PIN and UNPIN take a kernel of the context between RESIDENT and PINNED, and UNLOAD takes one
without an incomplete launch away, with KRES DONE; one they do not allow gives FAILED with reason 0x10. In a context that is not ACTIVE
KRES is FAILED with reason 0x11; while KRES is BUSY a command only reports reason 0x0F. A load whose object is read, checked and copied
leaves the kernel RESIDENT with what was loaded and KRES DONE with its handle, once its writes beyond the package, if any, are
acknowledged; one that fails leaves no kernel, and KRES FAILED with the reason. Reason 0x11 before every other check, the lowest free
index, HANDLE 0 of a failed LOAD and DATA1 0x60 of a refusal are the model's readings (log entry 39). A RESIDENT kernel without an incomplete launch can be evicted, and is RESIDENT again once its object has been read with the
digest it had. -/
def Obligations.KernelEvents : Prop :=
  ∀ (s : State) (f : KcmdF),
    let commands := [Instr.kcmdLoad f, .kcmdPin f, .kcmdUnpin f, .kcmdUnload f]
    let failed := fun (i : Instr) (h : BitVec 32) (n : BitVec 8) => ∃ u, exec i s = .next u ∧
      u.ctl.kres = { st := .failed, reason := n, value := h } ∧ u.kernels = s.kernels ∧ u.me = s.me
    (s.isReady = true →
      (s.ctl.kres.st = .busy → ∀ i ∈ commands, exec i s = .next (refusalEvent s f.ctx 0x0F 0x60)) ∧
      (s.ctl.kres.st ≠ .busy → (getCtx s f.ctx).st ≠ .active → failed (.kcmdLoad f) 0 0x11 ∧
        ∀ i ∈ [Instr.kcmdPin f, .kcmdUnpin f, .kcmdUnload f], failed i f.handle 0x11) ∧
      (s.ctl.kres.st ≠ .busy → (getCtx s f.ctx).st = .active →
        (freeIndex s f.ctx = none → failed (.kcmdLoad f) 0 0x12) ∧
        (∀ i, freeIndex s f.ctx = some i → ∃ u k, exec (.kcmdLoad f) s = .next u ∧ u.ctl.kres = { st := .busy } ∧
          u.ctl.kcmd = some f ∧ u.kernels = s.kernels ++ [k] ∧ k.st = .loading ∧ k.ctx = f.ctx ∧ k.obj = f.obj ∧
          k.handle = handleOf f.ctx i (nextGen (getCtx s f.ctx) i) ∧ u.me = s.me ∧ (u.requests = s.requests → u.mem = s.mem)) ∧
        (∀ k, getKernel s f.handle = some k → k.ctx = f.ctx →
          (∀ p ∈ [(Instr.kcmdPin f, KernelSt.resident, KernelSt.pinned), (.kcmdUnpin f, .pinned, .resident)],
            (k.st = p.2.1 → ∃ u, exec p.1 s = .next u ∧ u.ctl.kres = { st := .done, value := f.handle } ∧
              getKernel u f.handle = some { k with st := p.2.2 } ∧ u.me = s.me) ∧
            (k.st ≠ p.2.1 → failed p.1 f.handle 0x10)) ∧
          (k.st = .resident ∨ k.st = .evicted → kernelLaunches s f.handle = [] → ∃ u, exec (.kcmdUnload f) s = .next u ∧
            u.ctl.kres = { st := .done, value := f.handle } ∧ getKernel u f.handle = none ∧ u.me = s.me) ∧
          (kernelLaunches s f.handle ≠ [] → failed (.kcmdUnload f) f.handle 0x10)) ∧
        (getKernel s f.handle = none → ∀ i ∈ [Instr.kcmdPin f, .kcmdUnpin f, .kcmdUnload f], failed i f.handle 0x10))) ∧
    (∀ k, s.ctl.kcmd = some f → s.kernels.find? (fun y => y.ctx == f.ctx && y.st == .loading) = some k →
      (∀ r ∈ s.requests, r.agent ≠ .loader f.ctx k.handle) →
      let s0 := unhold s (.loader f.ctx k.handle)
      (∀ n s1, k.len = 0 → loadObject s0 (some k.asked) f = (.failed n, s1) → s1.ctl.ccmd = none →
        ∃ u, exec .kernelLoadComplete s = .next u ∧
          u.ctl.kres = { st := .failed, reason := BitVec.ofNat 8 n, value := 0 } ∧ getKernel u k.handle = none ∧
          u.ctl.kcmd = none) ∧
      (∀ x bs s1 s2 k2, k.len = 0 → loadObject s0 (some k.asked) f = (.ok x bs, s1) →
        copyData s1 k.handle f (dataPlaces x) = (.done, s2) → s2.ctl.ccmd = none → getKernel s2 k.handle = some k2 →
        ((∀ r ∈ s2.requests, r.agent ≠ .loader f.ctx k.handle) → ∃ u, exec .kernelLoadComplete s = .next u ∧
          u.ctl.kres = { st := .done, value := k.handle } ∧ getKernel u k.handle = some (k2.install x bs .resident) ∧
          u.ctl.kcmd = none) ∧
        ((∃ r ∈ s2.requests, r.agent = .loader f.ctx k.handle) → ∃ u, exec .kernelLoadComplete s = .next u ∧
          u.ctl = s2.ctl ∧ getKernel u k.handle = some (k2.install x bs .loading))) ∧
      (∀ k2, k.len ≠ 0 → s.ctl.ccmd = none → getKernel s k.handle = some k2 → ∃ u, exec .kernelLoadComplete s = .next u ∧
        u.ctl.kres = { st := .done, value := k.handle } ∧ getKernel u k.handle = some { k2 with st := .resident } ∧
        u.ctl.kcmd = none)) ∧
    (∀ h k, getKernel s h = some k →
      (k.st = .resident → kernelLaunches s h = [] → ∃ u, exec (.kernelEvict h) s = .next u ∧
        getKernel u h = some { k with st := .evicted, asked := [] } ∧ (∀ l ∈ u.icache, l.kernel ≠ h) ∧ (∀ e ∈ u.laneFns, e.kernel ≠ h)) ∧
      (∀ s1, k.st = .reloading → (∀ r ∈ s.requests, r.agent ≠ .loader k.ctx h) → rereadObject (unhold s (.loader k.ctx h)) (some k.asked) k = (.same, s1) →
        s1.kernels = s.kernels → ∃ u, exec (.kernelReloadComplete h) s = .next u ∧
          getKernel u h = some { k with st := .resident, bad := [] }))

/-- In a READY device: a well-formed PINV is taken while none is BUSY and refused with reason 0x45 otherwise; its end, which waits for instructions and stores that hold one of them, drops exactly the
cached translations it names. RETRY of an outstanding record lets a waiting sequencer go on, KILL kills its group or fails its launch;
both take the record out, and an unknown tag or a reserved bit has no effect. A good write of FRCFG, and FRHEAD, sets the register. A
page move is taken in host-assisted mode while PMRES is not BUSY and its checks pass: PMRES is BUSY and the leaf's MIG becomes 01; a
failed check shows its reason in PMRES (without an event, and in the model's order of checks: log entry 44). With no store on its way, the end of a pass with 8 marked lines before the fourth pass copies those again; otherwise MIG
becomes 10 and the page's translations go, in one step (log entry 44). The switch, which waits for instructions and stores that hold a
translation of the page, writes the entry with the new frame and MIG 00; the invalidation after it ends
the move with PMRES DONE. A sequencer held on a frozen page for 100 µs gets a fault record, unless its walk passes by then. -/
def Obligations.PageEvents : Prop :=
  ∀ (s : State),
    let named := fun (t : TlbEntry) (c : BitVec 6) (vp n : Nat) => t.ctx = c ∧ t.vpage < vp + n ∧ vp < t.vpage + 512 ^ t.size
    (∀ w : BitVec 128, s.isReady = true →
      (s.ctl.pinvs ≠ .busy → pinvBad w = false →
        exec (.pinv w) s = .next { s with ctl := { s.ctl with pinvs := .busy, pinv := some w } }) ∧
      (s.ctl.pinvs = .busy ∨ pinvBad w = true →
        exec (.pinv w) s = .next (refusalEvent s (w.extractLsb' 122 6) 0x45 0x140))) ∧
    (∀ w, s.ctl.pinv = some w → pinvWaits s w = true → exec .invalidationComplete s = .next s) ∧
    (∀ w, s.ctl.pinv = some w → pinvWaits s w = false → ∃ u, exec .invalidationComplete s = .next u ∧ u.ctl.pinvs = .done ∧ u.ctl.pinv = none ∧
      u.mem = s.mem ∧ u.me = s.me ∧ ∀ t, t ∈ u.tlb ↔ t ∈ s.tlb ∧ ¬(t.ctx = w.extractLsb' 122 6 ∧ (w.getLsbD 121 = true ∨
        named t t.ctx (w.extractLsb' 12 36).toNat (w.extractLsb' 64 32).toNat))) ∧
    (∀ m, s.ctl.pinv = none → s.move = some m → m.st = .switched → s.ctl.ccmd = none →
      ∃ u, exec .invalidationComplete s = .next u ∧ u.move = none ∧ u.ctl.pmres = { st := .done } ∧ u.mem = s.mem ∧
        ∀ t, t ∈ u.tlb ↔ t ∈ s.tlb ∧ ¬named t m.ctx (m.va.toNat / 4096) 1) ∧
    (s.isReady = true → ∀ tag,
      (∀ rsv, findFault s tag = none ∨ rsv ≠ 0 →
        exec (.frespRetry tag rsv) s = .next s ∧ exec (.frespKill tag rsv) s = .next s) ∧
      (∀ f, findFault s tag = some f →
        (∀ x b, f.agent = .sequencer x → getBlock s x = some b →
          (b.wait = .fault tag → ∃ u, exec (.frespRetry tag 0) s = .next u ∧ getBlock u x = some { b with wait := .none } ∧
            ∀ g ∈ u.faults, g.ftag ≠ tag) ∧
          (∀ g, findGroup s b.gid = some g → g.started = true → g.st ≠ .done → g.st ≠ .killed →
            ∃ u h, exec (.frespKill tag 0) s = .next u ∧ findGroup u b.gid = some h ∧ h.st = .killed)) ∧
        (∀ q seq l, f.agent = .object q seq → findLaunch s q seq = some l → l.ended = false → l.failed = none →
          (∃ u, exec (.frespRetry tag 0) s = .next u ∧ (∀ g ∈ u.faults, g.ftag ≠ tag) ∧ u.launches = s.launches) ∧
          (∃ u m, exec (.frespKill tag 0) s = .next u ∧ findLaunch u q seq = some m ∧ m.ended = true ∧
            m.failed = some .depfail)))) ∧
    (s.isReady = true → ∀ v : Word,
      (4 ≤ (v.extractLsb' 52 4).toNat → v.extractLsb' 56 8 = 0 → v.extractLsb' 0 12 = 0 → s.ctl.frtail = s.ctl.frhead →
        ∃ u, exec (.frcfgWrite v) s = .next u ∧ u.ctl.frcfg = v ∧ u.me = s.me) ∧
      (∃ u, exec (.frheadWrite v) s = .next u ∧ u.ctl.frhead = v ∧ u.me = s.me)) ∧
    (s.isReady = true → memWf s.mem = true → ∀ w : BitVec 256,
      (s.ctl.pmres.st = .busy → exec (.pmove w) s = .next (refusalEvent s (w.extractLsb' 250 6) 0x43 0x160)) ∧
      (s.ctl.pmres.st ≠ .busy → s.ctl.fnmode.getLsbD 1 = false →
        exec (.pmove w) s = .next (refusalEvent s (w.extractLsb' 250 6) 0x44 0x160)) ∧
      (s.ctl.pmres.st ≠ .busy → s.ctl.fnmode.getLsbD 1 = true →
        (∀ r, moveLeaf s w = .error r → exec (.pmove w) s = .next { s with ctl := { s.ctl with
          pmres := { st := .failed, reason := BitVec.ofNat 8 r } } }) ∧
        (∀ l, moveLeaf s w = .ok l → ∃ u m, exec (.pmove w) s = .next u ∧ u.ctl.pmres = { st := .busy } ∧ u.move = some m ∧
          m.st = .copying ∧ m.todo = List.range 64 ∧ m.dst = w.extractLsb' 64 40 ∧
          (memRead u.mem (l.at_ + 1)).toNat / 2 % 4 = 1 ∧ ∀ a, a ≠ l.at_ + 1 → memRead u.mem a = memRead s.mem a))) ∧
    (∀ m, s.move = some m → m.st = .copying → m.todo = [] → memWf s.mem = true → (∀ b ∈ allBlocks s, b.posted = []) →
      (8 ≤ m.marked.length → m.pass < 4 → exec .pageMovePassEnd s = .next { s with move := some { m with
        pass := m.pass + 1, todo := (List.range 64).filter (fun i => m.marked.contains i), copied := List.range 64, marked := [] } }) ∧
      (m.marked.length < 8 ∨ 4 ≤ m.pass → ∃ u n, exec .pageMovePassEnd s = .next u ∧ u.move = some n ∧ n.st = .frozen ∧
        (memRead u.mem (m.entry + 1)).toNat / 2 % 4 = 2 ∧ (∀ a, a ≠ m.entry + 1 → memRead u.mem a = memRead s.mem a) ∧
        ∀ t ∈ u.tlb, ¬named t m.ctx (m.va.toNat / 4096) 1)) ∧
    (∀ m, s.move = some m → m.st = .frozen → let vp := m.va.toNat / 4096
      (pinHeld s m.ctx false vp 1 = true ∨ storeHeld s m.ctx false vp 1 = true → exec .pageMoveSwitch s = .next s) ∧
      (pinHeld s m.ctx false vp 1 = false → storeHeld s m.ctx false vp 1 = false → m.marked = [] → memWf s.mem = true →
        s.heldObjs = [] → s.objWaits = [] → ∃ u, exec .pageMoveSwitch s = .next u ∧ u.move = some { m with st := .switched, marked := [] } ∧
        memBytes u.mem m.entry 7 = leBytes 7 (bitsOf m.raw 0 9 + bitsOf m.raw 11 5 * 2 ^ 11 + m.dst.toNat * 2 ^ 16) ∧
        ∀ a, a < m.entry ∨ m.entry + 7 ≤ a → memRead u.mem a = memRead s.mem a)) ∧
    (∀ x h, s.held = [h] → h.agent = .sequencer x → s.heldObjs = [] →
      (∀ t, (translate s none h.ctx h.va.toNat (kindOf h.kind) .link).1 = .ok t →
        exec (.frozenHoldTimeout x) s = .next { s with held := [] }) ∧
      ((translate s none h.ctx h.va.toNat (kindOf h.kind) .link).1 = .hold → (getBlock s x).isSome = true →
        ∃ u f b, exec (.frozenHoldTimeout x) s = .next u ∧ u.held = [] ∧ f ∈ u.faults ∧ f.agent = .sequencer x ∧
          getBlock u x = some b ∧ b.wait = .fault f.ftag))

/-! ## Contexts (14) -/

/-- In a READY device, for the physical function, with CRES not BUSY and no kernel command or page move of the context in the way: a
command allowed in the context's state takes it to the state R316 gives and, but for SUSPEND and RESTORE, leaves CRES DONE with its number; in another
state CRES is FAILED with reason 0x37. SUSPEND and RESTORE keep CRES BUSY until an event ends them: the image written, whose length is that of its records, makes the context SAVED, or
ACTIVE with reason 0x38 where the save area is too small; the restore makes it ACTIVE, or what it was where the image is refused. A
DESTROYED context that has drained is FREE, its number usable, with no translation left. The end of round 0 of a pre-copy and of each later round, once no instruction holds its pages, counts the later ones and
begins the final stop where the loop ends; a source is ACTIVE again where its stop takes too long, its link is lost, or its target
refuses, and SAVED where the target acknowledges an END that was sent. A message to a target counts where it is authentic and in turn, and a piece of the image is kept; the END makes
it ACTIVE where the image that has arrived passes; otherwise the context is CREATED again. The key slots are the physical function's to write.
The model's readings: CRES DONE for the MIGRATE commands, a command that waits, STOPMIG's state and DATA1 0xC0 (log entry 41); an image of
the wrong length, which is no event (17); round 0 as an event of its own and the abandoned migration (43); a SUSPEND or RESTORE that the
host issues again after a takeover, which goes on (91). -/
def Obligations.ContextEvents : Prop :=
  ∀ (s : State) (f : CcmdF) (who : Writer) (c : BitVec 6),
    let x := getCtx s c
    let y := getCtx s f.ctx
    let gets := fun (i : Instr) (st : CtxSt) => ∃ u, exec i s = .next u ∧ (getCtx u c).st = st
    let res := fun (i : Instr) (r : CmdRes) (st : CtxSt) => ∃ u, exec i s = .next u ∧ u.ctl.cres = r ∧ (getCtx u f.ctx).st = st
    let good : CmdRes := { st := .done, value := f.ctx.setWidth 32 }
    let busy : CmdRes := { st := .busy, value := f.ctx.setWidth 32 }
    let no := fun (r : BitVec 8) => ({ st := .failed, reason := r, value := f.ctx.setWidth 32 } : CmdRes)
    (s.isReady = true → s.ctl.cres.st ≠ .busy → ccmdWaits s f.ctx = false →
      (y.st = .free → f.desc.toNat % 64 = 0 → regionOf f.desc.toNat ≠ .hole → descriptorBad (homeNat s f.desc.toNat 64) = false →
        keyHeld s (BitVec.ofNat 16 (bitsOf (homeNat s f.desc.toNat 64) 160 16)) = false →
        res (.ccmdCreate .pf f) good .created) ∧
      (y.st = .created → res (.ccmdActivate .pf f) good .active) ∧
      (y.st = .active → res (.ccmdSuspend .pf f) busy .suspending) ∧
      (y.st = .saved ∨ y.st = .created → res (.ccmdRestore .pf f) busy .restoring) ∧
      (y.st = .active → slotUsable s f = true → ∃ u, exec (.ccmdMigrateOut .pf f) s = .next u ∧ u.ctl.cres = good ∧
        (getCtx u f.ctx).st = .migratingOut ∧ (getCtx u f.ctx).logging = true ∧ (getCtx u f.ctx).dlogw = 0) ∧
      (y.st = .created → slotUsable s f = true → res (.ccmdMigrateIn .pf f) good .migratingIn) ∧
      (y.st = .migratingOut → ∃ u, exec (.ccmdStopmig .pf f) s = .next u ∧ u.ctl.cres = good ∧
        (getCtx u f.ctx).st = .migratingOut ∧ (getCtx u f.ctx).stopmig = true) ∧
      (∀ p ∈ [(Instr.ccmdDestroy .pf f, CtxSt.destroyed, [CtxSt.free, .destroyed]),
          (.ccmdFault .pf f, .faulted, [.free, .destroyed, .faulted])],
        (y.st ∉ p.2.2 → ∃ u, exec p.1 s = .next u ∧ u.ctl.cres = good ∧ (getCtx u f.ctx).st = p.2.1 ∧
          ∀ k ∈ u.kernels, k.ctx ≠ f.ctx) ∧
        (y.st ∈ p.2.2 → res p.1 (no 0x37) y.st)) ∧
      (∀ p ∈ [(Instr.ccmdCreate .pf f, [CtxSt.free]), (.ccmdActivate .pf f, [.created]), (.ccmdSuspend .pf f, [.active]),
          (.ccmdRestore .pf f, [.saved, .created]), (.ccmdMigrateOut .pf f, [.active]), (.ccmdMigrateIn .pf f, [.created]),
          (.ccmdStopmig .pf f, [.migratingOut])], y.st ∉ p.2 →
        s.ctl.twinTaken = false ∨ (p.1, y.st) ∉ [(Instr.ccmdSuspend .pf f, CtxSt.suspending), (.ccmdRestore .pf f, .restoring)] →
          res p.1 (no 0x37) y.st) ∧
      (s.ctl.twinTaken = true → (y.st = .suspending → res (.ccmdSuspend .pf f) busy .suspending) ∧
        (y.st = .restoring → res (.ccmdRestore .pf f) busy .restoring)) ∧
      (∀ p ∈ [(Instr.ccmdMigrateOut .pf f, CtxSt.active), (.ccmdMigrateIn .pf f, .created)],
        y.st = p.2 → slotUsable s f = false → res p.1 (no 0x3A) y.st)) ∧
    (s.isReady = true → ∀ i ∈ [Instr.ccmdCreate who f, .ccmdActivate who f, .ccmdSuspend who f, .ccmdRestore who f,
        .ccmdMigrateOut who f, .ccmdMigrateIn who f, .ccmdStopmig who f, .ccmdDestroy who f, .ccmdFault who f],
      (who ≠ .pf → exec i s = .next s) ∧
      (who = .pf → s.ctl.cres.st = .busy → exec i s = .next (refusalEvent s f.ctx 0x3F 0xC0)) ∧
      (who = .pf → s.ctl.cres.st ≠ .busy → ccmdWaits s f.ctx = true → res i busy y.st)) ∧
    (∀ len : Word, performing s c = true → x.st = .suspending → ctxStopped s c = true →
      let n := spanOf (makeImage s c false).1.headers
      (len.toNat ≠ n → exec (.suspendImageWritten c len) s = .next s) ∧
      (len.toNat = n → n ≤ x.savelen.toNat → ∃ u, exec (.suspendImageWritten c len) s = .next u ∧ (getCtx u c).st = .saved ∧
        (getCtx u c).cimglen = len ∧ u.ctl.cres = { st := .done, value := c.setWidth 32 }) ∧
      (len.toNat = n → x.savelen.toNat < n → ∃ u, exec (.suspendImageWritten c len) s = .next u ∧ (getCtx u c).st = .active ∧
        u.ctl.cres = { st := .failed, reason := 0x38, value := c.setWidth 32 })) ∧
    (performing s c = true → x.st = .restoring → restoreBusy s c = false → (x.fromSaved = true ∨ (restoreSource s c).1 % 4096 = 0) →
      let bytes := homeRead s (restoreSource s c).1 (restoreSource s c).2
      (readImage s bytes = none → gets (.restoreComplete c) (if x.fromSaved then .saved else .created)) ∧
      (∀ s1, restoreImage s c bytes = .ok s1 → ∃ u, exec (.restoreComplete c) s = .next u ∧ (getCtx u c).st = .active ∧
        u.ctl.cres = { st := .done, value := c.setWidth 32 } ∧ u.kernels = s1.kernels ∧ u.queues = s1.queues) ∧
      (∀ e s1, restoreImage s c bytes = .failed e s1 →
        gets (.restoreComplete c) (if x.fromSaved then .saved else .created))) ∧
    (x.st = .destroyed → ctxDrained s c = true → ∃ u, exec (.contextDrainComplete c) s = .next u ∧
      getCtx u c = { gens := x.gens } ∧ (∀ t ∈ u.tlb, t.ctx ≠ c) ∧ u.me = s.me) ∧
    (x.st = .migratingOut → x.finalStop = false →
      (x.round0 = true → (∀ p ∈ mappedPages s c, pageBusy s c p = false) → ∃ u, exec (.precopyRoundEnd c) s = .next u ∧
        (getCtx u c).st = .migratingOut ∧ (getCtx u c).miground = x.miground ∧ (getCtx u c).round0 = false ∧
        (getCtx u c).finalStop = false) ∧
      (x.round0 = false → (∀ p ∈ roundPages s c, pageBusy s c p = false) → ∃ u, exec (.precopyRoundEnd c) s = .next u ∧
        (getCtx u c).st = .migratingOut ∧ (getCtx u c).miground = x.miground + 1 ∧
        ((getCtx u c).finalStop = true ↔ x.stopmig = true ∨
          (x.hostMig = false ∧ ((roundPages s c).length < 4096 ∨ x.miground + 1 = 8))))) ∧
    (x.st = .migratingOut →
      (x.finalStop = true → atCairns s c = false → gets (.migrationStopTimeout c) .active) ∧
      (x.endSent = none → exec (.targetEndAck c) s = .next s) ∧
      (∀ n, x.endSent = some n → (∃ im ∈ s.images, im.no = n) → gets (.targetEndAck c) .saved)) ∧
    (x.st = .migratingOut → gets (.linkLost c) .active ∧ gets (.targetRefusal c) .active ∧
      ∀ n fr b, gets (.decampMessageReceive c n false fr b) .active) ∧
    (x.st = .migratingIn → gets (.linkLost c) .created ∧
      (∀ n a fr b, a = false ∨ n ≠ x.msgCount → gets (.decampMessageReceive c n a fr b) .created) ∧
      (∀ fr data, exec (.decampMessageReceive c x.msgCount true fr (.image data)) s =
        .next (modCtx s c fun z => { z with msgCount := z.msgCount + 1, arrived := z.arrived ++ data })) ∧
      (∀ fr va size flags tables data, ∃ u, exec (.decampMessageReceive c x.msgCount true fr
        (.page va size flags tables data)) s = .next u ∧ (getCtx u c).st = .migratingIn ∧
          (getCtx u c).msgCount = x.msgCount + 1 ∧ u.me = s.me) ∧
      (restoreBusy s c = false → ∀ fr,
        (∀ s1, restoreImage s c x.arrived = .ok s1 → gets (.decampMessageReceive c x.msgCount true fr .finish) .active) ∧
        (∀ e s1, restoreImage s c x.arrived = .failed e s1 →
          gets (.decampMessageReceive c x.msgCount true fr .finish) .created))) ∧
    (s.isReady = true → ∀ die slot data,
      (who ≠ .pf → exec (.keySlotWrite who die slot data) s = .next s) ∧
      (∃ u, exec (.keySlotWrite .pf die slot data) s = .next u ∧ u.me = s.me ∧
        tabGet u.keySlots (bit01 die * 16 + slot.toNat) {} =
          ⟨data.extractLsb' 256 256, data.extractLsb' 224 32, data.extractLsb' 160 64, true⟩))

/-! ## Banks (16, 17) -/

/-- A correctable error raises CEW and CET of its bank, saturating; at T1 an ONLINE bank is no longer ONLINE; at T2 the bank leaves
service in hardware mode, and in host-assisted mode asks to, a block slot excepted. An uncorrectable error poisons its line of memory, and retires the bank
that raises it. The end of the window clears CEW and SDCW of every bank and nothing else of it. BANKCFG takes a write with
0 < T1 < T2 and a window above 0, and ELCFG one with a legal size and no reserved bit; others are logged only. In a READY device a
bank command for a bank in service sends it into EVACUATING with cause 4, to RETIRED or OFFLINE when it is empty, BANKRES BUSY until
then; one for another number is FAILED with 0x51, for a bank out of service with 0x50. A target that still holds live lines after
100 µs raises OVERCAP for their groups. Each copied line moves the pointer on, and line 256 of a bank ends the evacuation; each drained line of a
slice leaves for the slice that the new map gives, and the slice is RETIRED when it holds none. The slice map of a die names only slices that are up, wherever some are. -/
def Obligations.BankEvents : Prop :=
  ∀ (s : State) (bank : BitVec 32),
    let id := bank.toNat
    let b := getBank s id
    let leaves := fun (u : State) (cause : BitVec 4) =>
      ((getBank u id).st = .evacuating ∨ (getBank u id).st = .retired) ∧ (getBank u id).cause = cause
    let finished := fun (u : State) (e : Evacuation) => findEvacuation u id = none ∧
      (getBank u id).st = (if b.cause = 4 ∧ b.offline then .offline else .retired) ∧ u.evacuations = s.evacuations.filter (· != e)
    (∀ die pa, upSlices s die ≠ [] → sliceOf s die pa ∈ upSlices s die) ∧
    (isBank id = true → ∃ u, exec (.correctableError bank) s = .next u ∧ (getBank u id).cew = satInc b.cew ∧
      (getBank u id).cet = satInc b.cet ∧
      (b.st = .online → s.ctl.t1.toNat ≤ (satInc b.cew).toNat → (getBank u id).st ≠ .online) ∧
      ((satInc b.cew).toNat < s.ctl.t1.toNat → (satInc b.cew).toNat < s.ctl.t2.toNat → (getBank u id).st = b.st) ∧
      (bankKind id = 6 → (getBank u id).st = b.st ∨ (getBank u id).st = .watched) ∧
      (bankKind id ≠ 6 → bankUp s id = true → s.ctl.t2.toNat ≤ (satInc b.cew).toNat → b.req = false →
        (s.ctl.fnmode.getLsbD 3 = false → leaves u 1) ∧
        (s.ctl.fnmode.getLsbD 3 = true → bankUp u id = true ∧ (getBank u id).req = true))) ∧
    (∀ line : BitVec 46, isBank id = false → ∀ s1,
      s1 = errLog (poisonMemLine s line.toNat) { class_ := 0x02, addr := line.toNat * 64, bank := id } →
      tableOwners s1 (line.toNat * 64) = [] →
      ∃ u, exec (.uncorrectableError bank (.memory line)) s = .next u ∧ line.toNat ∈ u.poison ∧ u.me = s.me) ∧
    (isBank id = true → bankKind id ≠ 4 → bankUp s id = true → ∃ u, exec (.uncorrectableError bank .datapath) s = .next u ∧
      leaves u 3) ∧
    (∃ u, exec .bankWindowEnd s = .next u ∧ u = { s with banks := u.banks } ∧
      ∀ i, getBank u i = { getBank s i with cew := 0, sdcw := 0 }) ∧
    (s.isReady = true → ∀ v : Word,
      let t1 := v.extractLsb' 20 20
      let t2 := v.extractLsb' 0 20
      (0 < t1.toNat → t1.toNat < t2.toNat → v.extractLsb' 40 16 ≠ 0 → exec (.bankcfgWrite v) s = .next { s with ctl :=
        { s.ctl with sdcn := v.extractLsb' 56 8, winms := v.extractLsb' 40 16, t1 := t1, t2 := t2 } }) ∧
      (t1 = 0 ∨ t2.toNat ≤ t1.toNat ∨ v.extractLsb' 40 16 = 0 →
        exec (.bankcfgWrite v) s = .next (errLog s { class_ := 0x08, info := v.toNat, addr := 0x1D0 })) ∧
      (4 ≤ bitsOf v.toNat 52 4 → bitsOf v.toNat 56 6 = 0 → bitsOf v.toNat 11 1 = 0 →
        exec (.elcfgWrite v) s = .next { s with ctl := { s.ctl with elcfg := v } }) ∧
      (bitsOf v.toNat 52 4 < 4 ∨ bitsOf v.toNat 56 6 ≠ 0 ∨ bitsOf v.toNat 11 1 ≠ 0 → exec (.elcfgWrite v) s =
        .next (errLog s { class_ := 0x09, detail := 0x48, info := v.toNat, addr := 0x200 }))) ∧
    (s.isReady = true → s.ctl.bankres.st ≠ .busy →
      ∀ p ∈ [(Instr.bankcmdRetire bank 0, BankSt.retired), (.bankcmdOffline bank 0, .offline)],
      (isBank id = true → bankUp s id = true → ∃ u, exec p.1 s = .next u ∧ (getBank u id).cause = 4 ∧
        (((getBank u id).st = .evacuating ∧ u.ctl.bankres = { st := .busy, value := bank }) ∨
          ((getBank u id).st = p.2 ∧ u.ctl.bankres = { st := .done, value := bank }))) ∧
      (isBank id = true → bankUp s id = false → ∃ u, exec p.1 s = .next u ∧
        u.ctl.bankres = { st := .failed, reason := 0x50, value := bank } ∧ u.banks = s.banks) ∧
      (isBank id = false → ∃ u, exec p.1 s = .next u ∧
        u.ctl.bankres = { st := .failed, reason := 0x51, value := bank } ∧ u.banks = s.banks)) ∧
    (∀ e, findEvacuation s id = some e → s.evacuations.filter (fun y => y.bank == id) = [e] →
      (∀ t, e.target = some t → e.cp = 0 →
        (groupsIn s t = [] → exec (.targetBankTimeout bank) s = .next s) ∧
        (∀ g x, groupsIn s t = [g] → findGroup s g = some x →
          exec (.targetBankTimeout bank) s = .next (overcapBand s x))) ∧
      (bankKind id ≠ 5 →
        (∀ t, e.target = some t → e.cp = 0 → bankLive s t = true → exec (.bankCopyLine bank) s = .next s) ∧
        (∀ t, e.target = some t → e.cp ≠ 0 ∨ bankLive s t = false →
          (e.cp + 1 < 256 → ∃ u, exec (.bankCopyLine bank) s = .next u ∧ findEvacuation u id = some { e with cp := e.cp + 1 } ∧
            u.banks = s.banks) ∧
          (256 ≤ e.cp + 1 → ∃ u, exec (.bankCopyLine bank) s = .next u ∧ finished u e)) ∧
        (e.target = none →
          (bankLive s id = true → exec (.bankCopyLine bank) s = .next s) ∧
          (bankLive s id = false → ∃ u, exec (.bankCopyLine bank) s = .next u ∧ finished u e))) ∧
      (bankKind id = 5 →
        let die := bankDie id
        let slice := bankIndex id
        (slicesLines s die slice = [] → ∃ u, exec (.sliceDrainLine bank) s = .next u ∧ finished u e) ∧
        (∀ p, firstHeld s die slice = some p →
          let s1 := drainLine s die p
          s1.mem = s.mem ∧ s1.poison = s.poison ∧ s1.banks = s.banks ∧
          (slicesLines s1 die slice ≠ [] → exec (.sliceDrainLine bank) s = .next s1) ∧
          (slicesLines s1 die slice = [] → ∃ u, exec (.sliceDrainLine bank) s = .next u ∧ finished u e))))

/-! ## Links and the host (18) -/

/-- TRAIN takes a DOWN or FENCED port to TRAINING, DOWN and RETIRE take it out of service with its traffic forgotten. A training that
passes gives UP at 8 lanes and DEGRADED at 4 or 2; one whose partner is this node, with fewer than 2 lanes, or without a partner counts
in FAILS with LASTERR and leaves the port DOWN, at the eighth RETIRED. On a live port a flit with a bad CRC or out of sequence is
discarded and a NAK flit sent (a KIND above 3 likewise: log entry 20); an accepted one moves the expected number on, gives its credits,
takes its acknowledgement, and its slots join what was received, out of which requests are served in order, slots of zeros carrying none
(log entry 20), or its kind replays or fences the port (which control flit is FENCE: log entry 20). A replay counts; the sixteenth without
progress retrains. A request for a line that is held for a block waits. Another with a bad operation counts as an error; with a key no
context holds it is answered 1, where its translation faults 2, where the page is frozen 3, on poison 5, else 0 with the bytes read, the
write made, or the atomic step taken (which context a key is, log entry 47; CAS's operand words, log entry 20). A response ends the
request it answers: 0 completes it with its data, 1, 2 and 4 kill its group, 3 keeps it and sends it again (log entry 47), 5 is poison;
without one the port retrains. -/
def Obligations.PortEvents : Prop :=
  ∀ (s : State) (p : BitVec 4), p.toNat < 12 →
    let x := getPort s p
    let gives := fun (i : Instr) (y : Port) => ∃ u, exec i s = .next u ∧ getPort u p = y
    let fails := fun (e : BitVec 8) => Port.quiet { x with fails := x.fails + 1, lasterr := e }
      (if x.fails + 1 = 8 then .retired else .down)
    (s.isReady = true →
      (x.st = .down ∨ x.st = .fenced → gives (.lcmdTrain p) { x with st := .training }) ∧
      (x.st ≠ .down → x.st ≠ .fenced → gives (.lcmdTrain p) x) ∧
      (x.st.isLive = true ∨ x.st = .training → gives (.lcmdDown p) (x.quiet .down)) ∧
      gives (.lcmdRetire p) (x.quiet .retired)) ∧
    (x.st = .training → ∀ lanes pnode,
      (pnode = s.ctl.nodeid → gives (.linkTrainingComplete p lanes pnode) (fails 0x72)) ∧
      (pnode ≠ s.ctl.nodeid → BitVec.toNat lanes < 2 → gives (.linkTrainingComplete p lanes pnode) (fails 0x71)) ∧
      (pnode ≠ s.ctl.nodeid → 2 ≤ lanes.toNat → ∃ u, exec (.linkTrainingComplete p lanes pnode) s = .next u ∧
        (getPort u p).st = (if 8 ≤ lanes.toNat then .up else .degraded) ∧ (getPort u p).pnode = pnode ∧
        (getPort u p).fails = 0 ∧ (getPort u p).width = (if 8 ≤ lanes.toNat then 8 else if 4 ≤ lanes.toNat then 4 else 2)) ∧
      gives (.linkTrainingTimeout p) (fails 0x70)) ∧
    (x.st.isLive = true →
      (∀ f : Flit,
        let y := takeAck { x with expected := x.expected + 1, credits := x.credits + 16 * f.credits.toNat, nak := false } f.ack
        let z := { y with received := y.received ++ f.slots, owed := y.owed + 15 }
        (flitOk f = false → gives (.flitReceive p f) ({ x with crcErrors := satCount x.crcErrors }).discard) ∧
        (flitOk f = true → f.seq ≠ x.expected ∨ 3 < f.kind.toNat → gives (.flitReceive p f) x.discard) ∧
        (flitOk f = true → f.seq = x.expected →
          (f.kind = 1 → exec (.flitReceive p f) s = .next (takeSlots (setPort s p z) p (z.received.length / 16))) ∧
          (x.received = [] →
            (f.kind = 0 → gives (.flitReceive p f) y) ∧
            (f.kind = 2 → gives (.flitReceive p f) (replayFlits y)) ∧
            (f.kind = 3 → Config.fenceFlit f.slots = false → gives (.flitReceive p f) y)) ∧
          (f.kind = 3 → Config.fenceFlit f.slots = true →
            gives (.flitReceive p f) { y.quiet .fenced with lasterr := 0x75 }))) ∧
      (∀ k rest,
        let left := fun (u : State) => modPort u p fun v => { v with received := rest }
        (x.received.length < 16 → takeSlots s p k = s) ∧
        (x.received = List.replicate 16 0 ++ rest → takeSlots s p (k + 1) = takeSlots (left s) p k) ∧
        (∀ m : LvMsg, x.received = msgSlots m ++ rest → msgHeader m ≠ 0 → m.op.toNat < 3 → requestHeld s m = false →
          m.data.length = (if m.op = 0 then 0 else if m.op = 1 then m.len.toNat + 1 else
            (if m.aop = 2 then 2 else 1) * msgExtent m) →
          takeSlots s p (k + 1) = takeSlots (takeRequest (left s) p m) p k)) ∧
      (x.replay = [] → gives (.replayTimeout p) x) ∧
      (x.replay ≠ [] → gives (.replayTimeout p) (if x.replayCount + 1 = 16
        then { x with replays := satCount x.replays, st := .training, lasterr := 0x73, replayCount := 0 }
        else { x with replays := satCount x.replays, replayCount := x.replayCount + 1 })) ∧
      (∀ m : LvMsg,
        let answers := fun (st : BitVec 4) (data : List Byte) (u : State) => ∃ r, u.sent = s.sent ++ [⟨p, r⟩] ∧ r.op = 3 ∧
          r.aop = st ∧ r.tag = m.tag ∧ r.dst = m.src ∧ r.data = data
        (requestHeld s m = true → exec (.lervonRequestReceive p m) s = .next s) ∧
        (requestHeld s m = false → exec (.lervonRequestReceive p m) s = .next (takeRequest s p m)) ∧
        (requestHeld s m = false → 3 ≤ m.op.toNat ∨ (m.op = 2 ∧ 13 ≤ m.aop.toNat) →
          gives (.lervonRequestReceive p m) { x with crcErrors := satCount x.crcErrors }) ∧
        (requestHeld s m = false → m.op.toNat < 3 → (m.op = 2 → m.aop.toNat < 13) →
          (keyContext s m.pkey = none → ∃ u, exec (.lervonRequestReceive p m) s = .next u ∧ answers 1 [] u ∧ u.mem = s.mem) ∧
          (∀ c, keyContext s m.pkey = some c →
            let tr := translateRange [] s none c m.addr.toNat (msgExtent m) (msgKind m) .link (msgExtent m / 4096 + 2)
            (∀ a r l e s1, tr = (.fault a r l e, s1) →
              ∃ u, exec (.lervonRequestReceive p m) s = .next u ∧ answers 2 [] u ∧ u.mem = s.mem) ∧
            (∀ a s1, tr = (.hold a, s1) →
              ∃ u, exec (.lervonRequestReceive p m) s = .next u ∧ answers 3 [] u ∧ u.mem = s.mem) ∧
            (∀ g : Seg, g.len = msgExtent m → tr = (.ok [g], s) → memWf s.mem = true →
              (m.op ≠ 1 → poisonedAt s g.pa g.len = true →
                ∃ u, exec (.lervonRequestReceive p m) s = .next u ∧ answers 5 [] u ∧ u.mem = s.mem) ∧
              (m.op = 0 → poisonedAt s g.pa g.len = false → ∃ u, exec (.lervonRequestReceive p m) s = .next u ∧
                answers 0 (memBytes s.mem g.pa g.len) u ∧ u.mem = s.mem) ∧
              (m.op = 1 → m.data.length = msgExtent m → ∃ u, exec (.lervonRequestReceive p m) s = .next u ∧
                answers 0 [] u ∧ memBytes u.mem g.pa g.len = m.data ∧
                ∀ a, a < g.pa ∨ g.pa + g.len ≤ a → memRead u.mem a = memRead s.mem a) ∧
              (m.op = 2 → poisonedAt s g.pa g.len = false → ∃ u, exec (.lervonRequestReceive p m) s = .next u ∧
                answers 0 (memBytes s.mem g.pa g.len) u ∧
                memBytes u.mem g.pa g.len = leBytes g.len (peerStep m (memNat s.mem g.pa g.len)) ∧
                ∀ a, a < g.pa ∨ g.pa + g.len ≤ a → memRead u.mem a = memRead s.mem a)))) ∧
        (m.op ≠ 3 → gives (.lervonResponseReceive p m) { x with crcErrors := satCount x.crcErrors }) ∧
        (∀ r g y fl h, m.op = 3 → s.requests.find? (fun q => q.port == some p && regionOf q.pa == .peer &&
            q.tag % 65536 == m.tag.toNat) = some r → r.agent = .group g y fl → findGroup s g = some h → h.started = true →
          h.st ≠ .done → h.st ≠ .killed →
          (∀ b, m.aop = 0 → getBlock s y = some b → b.st ≠ .stopping → (∀ pa a c d e, b.wait ≠ .ring pa a c d e) →
            ∃ u, exec (.lervonResponseReceive p m) s = .next u ∧
            u.requests = s.requests.filter (fun q => q.tag != r.tag) ∧ u.mem = s.mem ∧
            getBlock u y = some (b.answer r.tag (match r.op with | .write _ => [] | o => m.data.take o.size))) ∧
          (m.aop ∈ [1, 2, 4] → ∃ u k, exec (.lervonResponseReceive p m) s = .next u ∧ findGroup u g = some k ∧
            k.st = .killed) ∧
          (m.aop = 3 → ∃ u, exec (.lervonResponseReceive p m) s = .next u ∧ u.requests = s.requests ∧ u.mem = s.mem ∧
            u.me = s.me ∧ u.others = s.others ∧ u.sent = s.sent ++ [⟨p, r.message s⟩]) ∧
          (m.aop = 5 → exec (.lervonResponseReceive p m) s =
            .next (consumePoison (dropRequest s r) y r.pa fl))))) ∧
    (∀ tag r g y fl h, s.requests.find? (fun q => regionOf q.pa == .peer && q.tag % 65536 == (BitVec.toNat (tag : BitVec 16))) =
        some r → r.port = some p → r.agent = .group g y fl → findGroup s g = some h → h.started = true → h.st ≠ .done →
      h.st ≠ .killed → ∃ u k, exec (.lervonResponseTimeout tag) s = .next u ∧ findGroup u g = some k ∧ k.st = .killed ∧
        (x.st.isLive = true → (getPort u p).st = .training ∧ (getPort u p).lasterr = 0x74) ∧
        (x.st.isLive = false → (getPort u p).st = x.st ∧ (getPort u p).lasterr = x.lasterr))

/-- The physical function reads and writes device memory below 2^39 of a READY device: a read replies with the bytes, a write changes
exactly its bytes, an aligned AtomicOp of 4 or 8 bytes replies with the old value and leaves the new one; an access to a frame that a page move
has frozen (log entry 44) or to a line held for a block waits, and changes nothing yet; any other access, a misaligned AtomicOp among
them (log entry 48), completes Unsupported Request. NODEID takes a write while every port is DOWN or RETIRED. An ownership table takes the physical function's write,
refused with reason 0x60 for a queue that is bound, a context that is not FREE or a function above 16; the peer table keeps the fields of
an entry. A packet of an unsupported service is counted at its interface; an RMA that translates writes or reads its bytes, and one that does not is
refused (log entry 49); one to a frozen page or a held line waits. A completion ends a host access; a failed one, or none in time, kills the group it was made for, and loses an error-log
record. -/
def Obligations.OutsideEvents : Prop :=
  ∀ (s : State) (who : Writer),
    let beside := fun (u : State) (a n : Nat) => ∀ b, b < a ∨ a + n ≤ b → memRead u.mem b = memRead s.mem b
    (∀ addr : Word,
      (∀ n, apertureOk s who addr n = true → hostWaits s addr.toNat n = true → exec (.hostApertureRead who addr n) s = .next s) ∧
      (∀ n, apertureOk s who addr n = true → hostWaits s addr.toNat n = false →
        exec (.hostApertureRead who addr n) s = .next { s with reply := some ⟨true, memBytes s.mem addr.toNat n⟩ }) ∧
      (∀ n, apertureOk s who addr n = false → exec (.hostApertureRead who addr n) s = .next (unsupported s)) ∧
      (∀ data, apertureOk s who addr data.length = true → hostWaits s addr.toNat data.length = true →
        exec (.hostApertureWrite who addr data) s = .next s) ∧
      (∀ data, apertureOk s who addr data.length = true → hostWaits s addr.toNat data.length = false → memWf s.mem = true →
        ∃ u, exec (.hostApertureWrite who addr data) s = .next u ∧ memBytes u.mem addr.toNat data.length = data ∧
          beside u addr.toNat data.length) ∧
      (∀ data, apertureOk s who addr data.length = false → exec (.hostApertureWrite who addr data) s = .next (unsupported s)) ∧
      (∀ op a b, ∀ n ∈ [(4 : BitVec 5), 8], addr.toNat % n.toNat = 0 → apertureOk s who addr n.toNat = true →
        (hostWaits s addr.toNat n.toNat = true → exec (.hostAtomicop who op n addr a b) s = .next s) ∧
        (hostWaits s addr.toNat n.toNat = false → memWf s.mem = true → ∃ u, exec (.hostAtomicop who op n addr a b) s = .next u ∧
          u.reply = some ⟨true, memBytes s.mem addr.toNat n.toNat⟩ ∧ beside u addr.toNat n.toNat ∧
          memBytes u.mem addr.toNat n.toNat =
            leBytes n.toNat (hostNew op (8 * n.toNat) (memNat s.mem addr.toNat n.toNat) a b))) ∧
      (∀ op n a b, (n ≠ 4 ∧ n ≠ 8) ∨ addr.toNat % n.toNat ≠ 0 ∨ apertureOk s who addr n.toNat = false →
        exec (.hostAtomicop who op n addr a b) s = .next (unsupported s))) ∧
    (s.isReady = true →
      (∀ v : Word, (∀ n, who ≠ .vf n) →
        ((∀ x ∈ s.ports.toList, x.st = .down ∨ x.st = .retired) →
          exec (.nodeidWrite who v) s = .next { s with ctl := { s.ctl with nodeid := v.setWidth 9 } }) ∧
        ((∃ x ∈ s.ports.toList, x.st ≠ .down ∧ x.st ≠ .retired) → exec (.nodeidWrite who v) s = .next s)) ∧
      (∀ table idx (v : Byte), BitVec.toNat idx < (match table with | .qown => 1024 | .vown => 2048 | .ctxown => 64) →
        (who ≠ .pf → exec (.ownershipTableWrite who table idx v) s = .next s) ∧
        (ownRefused s table idx.toNat v = true → ∃ u, exec (.ownershipTableWrite .pf table idx v) s = .next u ∧
          u.qown = s.qown ∧ u.vown = s.vown ∧ u.ctxown = s.ctxown) ∧
        (ownRefused s table idx.toNat v = false → ∃ u, exec (.ownershipTableWrite .pf table idx v) s = .next u ∧
          tabGet (match table with | .qown => u.qown | .vown => u.vown | .ctxown => u.ctxown) idx.toNat (0 : Byte) = v ∧
          u.mem = s.mem ∧ u.me = s.me)) ∧
      (∀ idx v, exec (.peerTableWrite .pf idx v) s = .next { s with peers := tabSet s.peers idx.toNat (v &&& peerMask) } ∧
        (who ≠ .pf → exec (.peerTableWrite who idx v) s = .next s)) ∧
      (∀ port c,
        exec (.uePacketReceive port c .unsupported) s =
          .next (if port then { s with ctl := { s.ctl with uet1Dropped := s.ctl.uet1Dropped + 1 } }
            else { s with ctl := { s.ctl with uet0Dropped := s.ctl.uet0Dropped + 1 } }) ∧
        (∀ j va data, let tr := translateRange [] s none c (BitVec.toNat va) data.length .write .link (data.length / 4096 + 2)
          (∀ a s1, tr = (.hold a, s1) → exec (.uePacketReceive port c (.rmaWrite j va data)) s = .next s) ∧
          (∀ g : Seg, tr = (.ok [g], s) → lineHeld s none g.pa g.len = true →
            exec (.uePacketReceive port c (.rmaWrite j va data)) s = .next s) ∧
          (∀ g : Seg, tr = (.ok [g], s) → lineHeld s none g.pa g.len = false → g.len = data.length → memWf s.mem = true →
            ∃ u, exec (.uePacketReceive port c (.rmaWrite j va data)) s = .next u ∧ u.reply = some ⟨true, []⟩ ∧
              memBytes u.mem g.pa g.len = data ∧ beside u g.pa g.len) ∧
          (∀ a r l e s1, tr = (.fault a r l e, s1) →
            exec (.uePacketReceive port c (.rmaWrite j va data)) s = .next (unsupported s))) ∧
        (∀ j va len, let tr := translateRange [] s none c (BitVec.toNat va) (BitVec.toNat len) .read .link (len.toNat / 4096 + 2)
          (∀ g : Seg, tr = (.ok [g], s) → lineHeld s none g.pa g.len = false →
            ∃ u, exec (.uePacketReceive port c (.rmaRead j va len)) s = .next u ∧
            u = { s with reply := some ⟨true, memBytes s.mem g.pa g.len⟩ }) ∧
          (∀ a r l e s1, tr = (.fault a r l e, s1) →
            exec (.uePacketReceive port c (.rmaRead j va len)) s = .next (unsupported s))))) ∧
    (∀ tag r, findRequest s tag = some r → regionOf r.pa = .host →
      (∀ g y fl h, r.agent = .group g y fl → findGroup s g = some h → h.started = true → h.st ≠ .done → h.st ≠ .killed →
        (∀ b, getBlock s y = some b → b.st ≠ .stopping → (∀ pa a c d e, b.wait ≠ .ring pa a c d e) →
          ∃ u, exec (.pcieCompletionReceive tag .success) s = .next u ∧
          u.requests = s.requests.filter (fun q => q.tag != r.tag) ∧ u.mem = s.mem ∧ getBlock u y = some (b.answer r.tag [])) ∧
        ∀ i ∈ [Instr.pcieCompletionReceive tag .unsupportedRequest, .pcieCompletionReceive tag .completerAbort,
          .pcieCompletionTimeout tag], ∃ u k, exec i s = .next u ∧ findGroup u g = some k ∧ k.st = .killed) ∧
      (r.agent = .errorLog → ∀ i ∈ [Instr.pcieCompletionReceive tag .unsupportedRequest,
          .pcieCompletionReceive tag .completerAbort, .pcieCompletionTimeout tag], exec i s = .next { s with
            requests := s.requests.filter (fun q => q.tag != r.tag)
            ctl := { s.ctl with ellost := s.ctl.ellost + 1 } }))

/-! ## Power-up, power and trust (01, 19) -/

/-- RESET puts the device into VERIFY with no block, kernel, context or queue, device memory zero, and the fuses kept. VERIFY, HBM, D2D
and INIT follow each other, each failure giving FAILED with its code, the verification's in the order framing, ECDSA, LMS, SVN; INIT
leaves every bank ONLINE, no poison, and DOWN ports in TRAINING. A heartbeat is counted; 1,000 µs after the last the twin takes over,
once, but not in FAILED: commands in progress are FAILED with 0xF0, and contexts and outstanding fault records stay. An attestation request is taken by the physical function while none is BUSY and a leaf
is left; the report is written at its address and uses a leaf. The current limit lies between 1,200 and 3,600, Ranger may only lower it,
and an excursion clamps the matrix engine until the current is back. An island takes requests below 12, which become current, and
thermal protection makes it slower. Before READY no register is written, BOOTST and ATTST alone taking the access; the write of a whole register of the control window or
of a queue's command register does what that register's own event does. -/
def Obligations.PlatformEvents : Prop :=
  ∀ (s : State),
    let failed := fun (i : Instr) (e : BitVec 8) => ∃ u, exec i s = .next u ∧ u.ctl.stage = .failed ∧ u.ctl.err = e
    let stage := fun (i : Instr) (st : Stage) => ∃ u, exec i s = .next u ∧ u = { s with ctl := { s.ctl with stage := st } }
    (memWf s.mem = true → ∃ u, exec .reset s = .next u ∧ u.ctl.stage = .verify ∧ u.ctl.remain = s.ctl.remain ∧
      u.ctl.minSvn = s.ctl.minSvn ∧ u.me = Block.empty 0 ∧ u.others = [] ∧ u.kernels = [] ∧ u.contexts = [] ∧ u.queues = [] ∧
      u.groups = [] ∧ u.tlb = [] ∧ u.banks = [] ∧
      ∀ a, memRead u.mem a = if a < 2 ^ 48 then memDefault else memRead s.mem a) ∧
    (∀ fr ec lm svn fw, let i := Instr.bootVerifyComplete fr ec lm svn fw
      (s.ctl.stage ≠ .verify → exec i s = .next s) ∧
      (s.ctl.stage = .verify →
        (fr = false → failed i 0x83) ∧ (fr = true → ec = false → failed i 0x80) ∧
        (fr = true → ec = true → lm = false → failed i 0x81) ∧
        (fr = true → ec = true → lm = true → BitVec.toNat svn < s.ctl.minSvn.toNat → failed i 0x82) ∧
        (fr = true → ec = true → lm = true → s.ctl.minSvn.toNat ≤ BitVec.toNat svn → exec i s = .next { s with ctl :=
          { s.ctl with stage := .hbm, svn := svn, fwver := fw, minSvn := svn } }))) ∧
    (∀ bad : BitVec 8, s.ctl.stage = .hbm → (bad = 0 → stage (.hbmTrainingComplete bad) .d2d) ∧
      (bad ≠ 0 → failed (.hbmTrainingComplete bad) 0x84)) ∧
    (s.ctl.stage = .d2d → stage (.d2dTrainingComplete true) .init ∧ failed (.d2dTrainingComplete false) 0x85) ∧
    (s.ctl.stage = .init → memWf s.mem = true → ∃ u, exec .initComplete s = .next u ∧ u.ctl.stage = .ready ∧
      u.ctl.emuset = Config.emulatedMajors ∧ u.banks = [] ∧ u.poison = [] ∧
      (∀ p : BitVec 4, p.toNat < 12 → getPort s p = {} → getPort u p = { st := .training }) ∧
      ∀ a, memRead u.mem a = if a < 2 ^ 48 then memDefault else memRead s.mem a) ∧
    (s.ctl.stage ≠ .failed →
      exec .rangerHeartbeat s = .next { s with ctl := { s.ctl with heartbeats := s.ctl.heartbeats + 1 } }) ∧
    (s.ctl.stage = .failed → ∀ us, exec .rangerHeartbeat s = .next s ∧ exec (.rangerTakeover us) s = .next s) ∧
    (∀ us : Word,
      (us.toNat < 1000 ∨ s.ctl.twinTaken = true → exec (.rangerTakeover us) s = .next s) ∧
      (1000 ≤ us.toNat → s.ctl.twinTaken = false → s.ctl.stage ≠ .failed →
        ∃ u, exec (.rangerTakeover us) s = .next u ∧ u.ctl.twinTaken = true ∧
        (∀ c, (getCtx u c).st = (getCtx s c).st) ∧ (∀ f ∈ s.faults, ∃ g ∈ u.faults, g.ftag = f.ftag) ∧
        (s.ctl.kcmd.isSome = true → u.ctl.kcmd = none ∧ u.ctl.kres.st = .failed ∧ u.ctl.kres.reason = 0xF0) ∧
        (s.ctl.ccmd.isSome = true → u.ctl.ccmd = none ∧ u.ctl.cres.st = .failed ∧ u.ctl.cres.reason = 0xF0) ∧
        (s.move.isSome = true → u.move = none ∧ u.ctl.pmres = { st := .failed, reason := 0xF0 }) ∧
        (∀ b, s.ctl.bankcmd = some b → u.ctl.bankcmd = none ∧
          u.ctl.bankres = { st := .failed, reason := 0xF0, value := b }))) ∧
    (s.isReady = true → ∀ who data,
      (who ≠ .pf → exec (.attreq who data) s = .next s) ∧
      (s.ctl.attst.st = .busy → exec (.attreq .pf data) s = .next (setAtt s { s.ctl.attst with reason := 0x91 })) ∧
      (s.ctl.attst.st ≠ .busy →
        (s.ctl.remain = 0 → exec (.attreq .pf data) s = .next (setAtt s { st := .failed, reason := 0x90 })) ∧
        (s.ctl.remain ≠ 0 → data.extractLsb' 128 6 ≠ 0 ∨ data.extractLsb' 192 64 ≠ 0 →
          exec (.attreq .pf data) s = .next (setAtt s { st := .failed, reason := 0x92 })) ∧
        (s.ctl.remain ≠ 0 → data.extractLsb' 128 6 = 0 → data.extractLsb' 192 64 = 0 → exec (.attreq .pf data) s =
          .next { s with ctl := { s.ctl with attreq := some data, attst := { st := .busy } } }))) ∧
    (∀ data, s.ctl.attreq = some data → memWf s.mem = true → let a := hostByte (data.extractLsb' 128 64).toNat
      ∃ u, exec .attestReportComplete s = .next u ∧ u.ctl.remain = s.ctl.remain - 1 ∧ u.ctl.attreq = none ∧
        u.ctl.attst.st = .done ∧ memBytes u.mem a (reportBytes s data).length = reportBytes s data ∧
        ∀ b, b < a ∨ a + (reportBytes s data).length ≤ b → memRead u.mem b = memRead s.mem b) ∧
    (s.isReady = true → ∀ v : Word, let n := clampAmps v
      1200 ≤ n.toNat ∧ n.toNat ≤ 3600 ∧
      (1200 ≤ (v.extractLsb' 0 12).toNat → (v.extractLsb' 0 12).toNat ≤ 3600 → n = v.extractLsb' 0 12) ∧
      exec (.clamplimWrite .pf v) s = .next { s with ctl := { s.ctl with clamp := n } } ∧
      (n.toNat < s.ctl.clamp.toNat → exec (.clamplimWrite .ranger v) s = .next { s with ctl := { s.ctl with clamp := n } }) ∧
      (s.ctl.clamp.toNat ≤ n.toNat → exec (.clamplimWrite .ranger v) s = .next s) ∧
      (∀ k, exec (.clamplimWrite (.vf k) v) s = .next s) ∧
      ∀ i, (12 ≤ (v.extractLsb' 0 4).toNat → exec (.vfiWrite i v) s = .next s) ∧
        ((v.extractLsb' 0 4).toNat < 12 →
          exec (.vfiWrite i v) s = .next (modIsland s i fun x => { x with req := v.extractLsb' 0 4 }))) ∧
    (exec .clampExcursion s = .next { s with ctl := { s.ctl with clampActive := true } } ∧
      exec .currentBackWithinLimit s = .next { s with ctl := { s.ctl with clampActive := false } }) ∧
    (∀ i, exec (.vfiChangeComplete i) s = .next (modIsland s i fun x => { x with cur := x.req }) ∧
      ∀ cur, (s.islands[i.toNat]'(i.isLt)).req.toNat ≤ BitVec.toNat cur → cur.toNat < 12 →
        exec (.thermalProtection i cur) s = .next (modIsland s i fun x => { x with cur := cur })) ∧
    (s.isReady = false → ∀ who (off : BitVec 23) (data : List Byte),
      let n := data.length
      let answered := (who = .pf ∨ who = .ranger) ∧ off.toNat % 2 ^ 22 < 16 ∧ (n = 4 ∨ n = 8) ∧ off.toNat % 2 ^ 22 % n = 0
      (off.getLsbD 22 = true ∨ answered → exec (.controlRegisterWrite who off data) s = .next s) ∧
      (off.getLsbD 22 = false → ¬answered → exec (.controlRegisterWrite who off data) s = .next (unsupported s))) ∧
    (s.isReady = true → ∀ data : List Byte, let v := leNat data
      (data.length = 8 →
        (∀ p ∈ [((0x10 : BitVec 23), Instr.clamplimWrite .pf (BitVec.ofNat 64 v)), (0x100, .frcfgWrite (BitVec.ofNat 64 v)),
          (0x110, .frheadWrite (BitVec.ofNat 64 v)), (0x1D0, .bankcfgWrite (BitVec.ofNat 64 v)),
          (0x200, .elcfgWrite (BitVec.ofNat 64 v)), (0x708, .nodeidWrite .pf (BitVec.ofNat 64 v))],
          exec (.controlRegisterWrite .pf p.1 data) s = exec p.2 s) ∧
        exec (.controlRegisterWrite .pf 0x40 data) s = .next { s with ctl := { s.ctl with fnmode := BitVec.ofNat 5 v } } ∧
        ∀ q : BitVec 10, ownsQueue s .pf q = true →
          ∀ p ∈ [(1, Instr.qcmdBind q), (2, .qcmdHalt q), (3, .qcmdResume q), (4, .qcmdDrain q), (5, .qcmdUnbind q)],
          v % 8 = p.1 → exec (.controlRegisterWrite .pf (BitVec.ofNat 23 (2 ^ 22 + q.toNat * 4096 + 0x808)) data) s =
            exec p.2 s) ∧
      (s.staging = [] →
        (data.length = 16 → ∀ p ∈ [((0x50 : BitVec 23), Instr.gstop (BitVec.ofNat 128 v)), (0x140, .pinv (BitVec.ofNat 128 v))],
          exec (.controlRegisterWrite .pf p.1 data) s = exec p.2 s) ∧
        (data.length = 32 → ∀ p ∈ [((0x20 : BitVec 23), Instr.attreq .pf (BitVec.ofNat 256 v)),
            (0x160, .pmove (BitVec.ofNat 256 v))],
          exec (.controlRegisterWrite .pf p.1 data) s = exec p.2 s)))

/-! ## The whole machine -/

/-- Whatever the device does in a step (an instruction of a block or of the lane engine, a system event, an eviction, a write of an
agent outside the package), memory keeps the one form in which equal contents are equal lists: addresses rising, no byte listed that
reads as an unlisted one. The statement holds in every state with memory in that form, reached by a run or not. -/
def Obligations.StepKeepsMemoryForm : Prop :=
  ∀ s t : State, memWf s.mem = true → step s = .next t → memWf t.mem = true

/-- After reset memory has its canonical form, no block is resident, BOOTST shows stage RESET, the capacity registers hold the values of
R25, every bank is ONLINE, BANKCFG has SDCN 3, WINMS 1000, T1 8 and T2 64, CLAMPLIM is 3,600, every queue is UNBOUND, every context FREE,
every Lervon port DOWN, no fault record is outstanding, and the schedule is empty (the model's own: log entry 2). -/
def Obligations.ResetState : Prop :=
  memWf State.reset.mem = true ∧ State.reset.me.st = .free ∧ State.reset.others = [] ∧ State.reset.agenda = [] ∧
  State.reset.ctl.stage = .reset ∧ ctlWord State.reset 0x0010 = 3600 ∧
  ctlWord State.reset 0x01D0 = 3 * 2 ^ 56 + 1000 * 2 ^ 40 + 8 * 2 ^ 20 + 64 ∧
  (∀ core : BitVec 8, capStore State.reset core 0 = 262144 ∧ capStore State.reset core 1 = 262144 ∧
    capStore State.reset core 2 = 131072 ∧ capL State.reset core = 2048 ∧ capLg State.reset core = 8) ∧
  (∀ die, capL2 State.reset die = 100663296) ∧
  (∀ id, (getBank State.reset id).st = .online) ∧ (∀ q, (getQueue State.reset q).st = .unbound) ∧
  (∀ c, (getCtx State.reset c).st = .free) ∧ (∀ p, (getPort State.reset p).st = .down) ∧ State.reset.faults = []
end

