-- ==== Sys2Proof/Laws/Encoding.lean ====
section
/-!
SUPPORT. What the reader of each set of operand fields makes of the word that the encoder writes (R56, R60 to R75): the
operands it was written from.
-/
namespace Sys2Proof.Laws

set_option linter.unusedSimpArgs false

open Sys2Proof

theorem widthOf_code (w : Width) : widthOf (widthCode w) = w := by cases w <;> rfl
theorem scopeOf_code (c : Scope) : scopeOf (scopeCode c) = some c := by cases c <;> rfl
theorem condOf_code (c : Cond) : condOf (condCode c) = some c := by cases c <;> rfl
theorem planeModeOf_code (c : PlaneMode) : planeModeOf (planeModeCode c) = some c := by cases c <;> rfl
theorem shapeFieldOf_code (c : ShapeField) : shapeFieldOf (shapeFieldCode c) = some c := by cases c <;> rfl
theorem querySelOf_code (c : QuerySel) : querySelOf (querySelCode c) = some c := by cases c <;> rfl
theorem redOpOf_code (c : RedOp) : redOpOf (redOpCode c) = some c := by cases c <;> rfl
theorem repSizeOf_code (c : RepSize) : repSizeOf (repSizeCode c) = c := by cases c <;> rfl

theorem sysRegOf_code (r : SysReg) : sysRegOf (sysRegCode r) = some r := by
  cases r with
  | idx k => revert k; decide
  | elg k => revert k; decide
  | _ => rfl

/-- A bit as a field of one bit. -/
theorem bitB_field (x : BitVec 64) (k : Nat) : bitB x k = (x.extractLsb' k 1 == 1#1) := by
  unfold bitB
  cases h : x.getLsbD k <;> simp [BitVec.eq_of_getLsbD_eq_iff, h]

theorem b1_eq_one (b : Bool) : (b1 b == 1#1) = b := by cases b <;> rfl

theorem scopeCode_eq_zero (c : Scope) : (scopeCode c == 0#3) = (c == .block) := by cases c <;> rfl
theorem planeModeCode_eq_zero (c : PlaneMode) : (planeModeCode c == 0#2) = (c == .trunc) := by cases c <;> rfl

theorem packS3_maj (maj : BitVec 7) (min : BitVec 5) (f : S3) : majOf (packS3 maj min f) = maj := by
  unfold majOf packS3
  simp only [BitVec.extractLsb'_append_eq_of_le, BitVec.extractLsb'_append_eq_of_add_le, Nat.reduceLeDiff,
    Nat.reduceSub, BitVec.extractLsb'_eq_self, Nat.le_refl]

theorem packS3_min (maj : BitVec 7) (min : BitVec 5) (f : S3) : minOf (packS3 maj min f) = min := by
  unfold minOf packS3
  simp only [BitVec.extractLsb'_append_eq_of_le, BitVec.extractLsb'_append_eq_of_add_le, Nat.reduceLeDiff,
    Nat.reduceSub, BitVec.extractLsb'_eq_self, Nat.le_refl]

theorem readS3_packS3 (maj : BitVec 7) (min : BitVec 5) (f : S3) (mk : S3 → Instr) :
    readS3 (packS3 maj min f) mk = .ok (mk f) := by
  unfold readS3 packS3 fld
  simp only [BitVec.extractLsb'_append_eq_of_le, BitVec.extractLsb'_append_eq_of_add_le, Nat.reduceLeDiff,
    Nat.reduceSub, BitVec.extractLsb'_eq_self, Nat.le_refl]
  simp [needZero, widthOf_code, bne]

theorem packS2_maj (maj : BitVec 7) (min : BitVec 5) (f : S2) : majOf (packS2 maj min f) = maj := by
  unfold majOf packS2
  simp only [BitVec.extractLsb'_append_eq_of_le, BitVec.extractLsb'_append_eq_of_add_le, Nat.reduceLeDiff,
    Nat.reduceSub, BitVec.extractLsb'_eq_self, Nat.le_refl]

theorem packS2_min (maj : BitVec 7) (min : BitVec 5) (f : S2) : minOf (packS2 maj min f) = min := by
  unfold minOf packS2
  simp only [BitVec.extractLsb'_append_eq_of_le, BitVec.extractLsb'_append_eq_of_add_le, Nat.reduceLeDiff,
    Nat.reduceSub, BitVec.extractLsb'_eq_self, Nat.le_refl]

theorem readS2_packS2 (maj : BitVec 7) (min : BitVec 5) (f : S2) (mk : S2 → Instr) :
    readS2 (packS2 maj min f) mk = .ok (mk f) := by
  unfold readS2 packS2 fld
  simp only [BitVec.extractLsb'_append_eq_of_le, BitVec.extractLsb'_append_eq_of_add_le, Nat.reduceLeDiff,
    Nat.reduceSub, BitVec.extractLsb'_eq_self, Nat.le_refl]
  simp [needZero, widthOf_code, bne]

theorem packSI_maj (maj : BitVec 7) (min : BitVec 5) (f : SI) : majOf (packSI maj min f) = maj := by
  unfold majOf packSI
  simp only [BitVec.extractLsb'_append_eq_of_le, BitVec.extractLsb'_append_eq_of_add_le, Nat.reduceLeDiff,
    Nat.reduceSub, BitVec.extractLsb'_eq_self, Nat.le_refl]

theorem packSI_min (maj : BitVec 7) (min : BitVec 5) (f : SI) : minOf (packSI maj min f) = min := by
  unfold minOf packSI
  simp only [BitVec.extractLsb'_append_eq_of_le, BitVec.extractLsb'_append_eq_of_add_le, Nat.reduceLeDiff,
    Nat.reduceSub, BitVec.extractLsb'_eq_self, Nat.le_refl]

theorem readSI_packSI (maj : BitVec 7) (min : BitVec 5) (f : SI) (mk : SI → Instr) :
    readSI (packSI maj min f) mk = .ok (mk f) := by
  unfold readSI packSI fld
  simp only [BitVec.extractLsb'_append_eq_of_le, BitVec.extractLsb'_append_eq_of_add_le, Nat.reduceLeDiff,
    Nat.reduceSub, BitVec.extractLsb'_eq_self, Nat.le_refl]
  simp [needZero, widthOf_code, bne]

theorem packSamo_maj (maj : BitVec 7) (min : BitVec 5) (f : SamoF) : majOf (packSamo maj min f) = maj := by
  unfold majOf packSamo
  simp only [BitVec.extractLsb'_append_eq_of_le, BitVec.extractLsb'_append_eq_of_add_le, Nat.reduceLeDiff,
    Nat.reduceSub, BitVec.extractLsb'_eq_self, Nat.le_refl]

theorem packSamo_min (maj : BitVec 7) (min : BitVec 5) (f : SamoF) : minOf (packSamo maj min f) = min := by
  unfold minOf packSamo
  simp only [BitVec.extractLsb'_append_eq_of_le, BitVec.extractLsb'_append_eq_of_add_le, Nat.reduceLeDiff,
    Nat.reduceSub, BitVec.extractLsb'_eq_self, Nat.le_refl]

theorem readSamo_packSamo (maj : BitVec 7) (min : BitVec 5) (f : SamoF) (mk : SamoF → Instr) (h : f.wf) :
    readSamo (packSamo maj min f) mk = .ok (mk f) := by
  unfold SamoF.wf at h
  unfold readSamo packSamo fld
  simp only [bitB_field]
  simp only [BitVec.extractLsb'_append_eq_of_le, BitVec.extractLsb'_append_eq_of_add_le, Nat.reduceLeDiff,
    Nat.reduceSub, BitVec.extractLsb'_eq_self, Nat.le_refl]
  simp [needZero, scopeOf_code, needCode, b1_eq_one, bne, scopeCode_eq_zero] at h ⊢
  grind

theorem packBr_maj (maj : BitVec 7) (min : BitVec 5) (f : BrF) : majOf (packBr maj min f) = maj := by
  unfold majOf packBr
  simp only [BitVec.extractLsb'_append_eq_of_le, BitVec.extractLsb'_append_eq_of_add_le, Nat.reduceLeDiff,
    Nat.reduceSub, BitVec.extractLsb'_eq_self, Nat.le_refl]

theorem packBr_min (maj : BitVec 7) (min : BitVec 5) (f : BrF) : minOf (packBr maj min f) = min := by
  unfold minOf packBr
  simp only [BitVec.extractLsb'_append_eq_of_le, BitVec.extractLsb'_append_eq_of_add_le, Nat.reduceLeDiff,
    Nat.reduceSub, BitVec.extractLsb'_eq_self, Nat.le_refl]

theorem readBr_packBr (maj : BitVec 7) (min : BitVec 5) (f : BrF) (mk : BrF → Instr) :
    readBr (packBr maj min f) mk = .ok (mk f) := by
  unfold readBr packBr fld
  simp only [bitB_field]
  simp only [BitVec.extractLsb'_append_eq_of_le, BitVec.extractLsb'_append_eq_of_add_le, Nat.reduceLeDiff,
    Nat.reduceSub, BitVec.extractLsb'_eq_self, Nat.le_refl]
  simp [needZero, condOf_code, needSome, b1_eq_one, bne]

theorem packOff_maj (maj : BitVec 7) (min : BitVec 5) (off : BitVec 32) : majOf (packOff maj min off) = maj := by
  unfold majOf packOff
  simp only [BitVec.extractLsb'_append_eq_of_le, BitVec.extractLsb'_append_eq_of_add_le, Nat.reduceLeDiff,
    Nat.reduceSub, BitVec.extractLsb'_eq_self, Nat.le_refl]

theorem packOff_min (maj : BitVec 7) (min : BitVec 5) (off : BitVec 32) : minOf (packOff maj min off) = min := by
  unfold minOf packOff
  simp only [BitVec.extractLsb'_append_eq_of_le, BitVec.extractLsb'_append_eq_of_add_le, Nat.reduceLeDiff,
    Nat.reduceSub, BitVec.extractLsb'_eq_self, Nat.le_refl]

theorem readOff_packOff (maj : BitVec 7) (min : BitVec 5) (off : BitVec 32) (mk : BitVec 32 → Instr) :
    readOff (packOff maj min off) mk = .ok (mk off) := by
  unfold readOff packOff fld
  simp only [BitVec.extractLsb'_append_eq_of_le, BitVec.extractLsb'_append_eq_of_add_le, Nat.reduceLeDiff,
    Nat.reduceSub, BitVec.extractLsb'_eq_self, Nat.le_refl]
  simp [needZero, bne]

theorem packSaOff_maj (maj : BitVec 7) (min : BitVec 5) (f : SaOff) : majOf (packSaOff maj min f) = maj := by
  unfold majOf packSaOff
  simp only [BitVec.extractLsb'_append_eq_of_le, BitVec.extractLsb'_append_eq_of_add_le, Nat.reduceLeDiff,
    Nat.reduceSub, BitVec.extractLsb'_eq_self, Nat.le_refl]

theorem packSaOff_min (maj : BitVec 7) (min : BitVec 5) (f : SaOff) : minOf (packSaOff maj min f) = min := by
  unfold minOf packSaOff
  simp only [BitVec.extractLsb'_append_eq_of_le, BitVec.extractLsb'_append_eq_of_add_le, Nat.reduceLeDiff,
    Nat.reduceSub, BitVec.extractLsb'_eq_self, Nat.le_refl]

theorem readSaOff_packSaOff (maj : BitVec 7) (min : BitVec 5) (f : SaOff) (mk : SaOff → Instr) :
    readSaOff (packSaOff maj min f) mk = .ok (mk f) := by
  unfold readSaOff packSaOff fld
  simp only [BitVec.extractLsb'_append_eq_of_le, BitVec.extractLsb'_append_eq_of_add_le, Nat.reduceLeDiff,
    Nat.reduceSub, BitVec.extractLsb'_eq_self, Nat.le_refl]
  simp [needZero, bne]

theorem packBrSa_maj (maj : BitVec 7) (min : BitVec 5) (sa : BitVec 6) : majOf (packBrSa maj min sa) = maj := by
  unfold majOf packBrSa
  simp only [BitVec.extractLsb'_append_eq_of_le, BitVec.extractLsb'_append_eq_of_add_le, Nat.reduceLeDiff,
    Nat.reduceSub, BitVec.extractLsb'_eq_self, Nat.le_refl]

theorem packBrSa_min (maj : BitVec 7) (min : BitVec 5) (sa : BitVec 6) : minOf (packBrSa maj min sa) = min := by
  unfold minOf packBrSa
  simp only [BitVec.extractLsb'_append_eq_of_le, BitVec.extractLsb'_append_eq_of_add_le, Nat.reduceLeDiff,
    Nat.reduceSub, BitVec.extractLsb'_eq_self, Nat.le_refl]

theorem readBrSa_packBrSa (maj : BitVec 7) (min : BitVec 5) (sa : BitVec 6) (mk : BitVec 6 → Instr) :
    readBrSa (packBrSa maj min sa) mk = .ok (mk sa) := by
  unfold readBrSa packBrSa fld
  simp only [BitVec.extractLsb'_append_eq_of_le, BitVec.extractLsb'_append_eq_of_add_le, Nat.reduceLeDiff,
    Nat.reduceSub, BitVec.extractLsb'_eq_self, Nat.le_refl]
  simp [needZero, bne]

theorem packLbrk_maj (maj : BitVec 7) (min : BitVec 5) (lv : BitVec 3) (off : BitVec 32) : majOf (packLbrk maj min lv off) = maj := by
  unfold majOf packLbrk
  simp only [BitVec.extractLsb'_append_eq_of_le, BitVec.extractLsb'_append_eq_of_add_le, Nat.reduceLeDiff,
    Nat.reduceSub, BitVec.extractLsb'_eq_self, Nat.le_refl]

theorem packLbrk_min (maj : BitVec 7) (min : BitVec 5) (lv : BitVec 3) (off : BitVec 32) : minOf (packLbrk maj min lv off) = min := by
  unfold minOf packLbrk
  simp only [BitVec.extractLsb'_append_eq_of_le, BitVec.extractLsb'_append_eq_of_add_le, Nat.reduceLeDiff,
    Nat.reduceSub, BitVec.extractLsb'_eq_self, Nat.le_refl]

theorem readLbrk_packLbrk (maj : BitVec 7) (min : BitVec 5) (lv : BitVec 3) (off : BitVec 32) (mk : BitVec 3 → BitVec 32 → Instr) (h : lv ≠ 0 ∧ lv ≠ 7) :
    readLbrk (packLbrk maj min lv off) mk = .ok (mk lv off) := by
  unfold readLbrk packLbrk fld
  simp only [BitVec.extractLsb'_append_eq_of_le, BitVec.extractLsb'_append_eq_of_add_le, Nat.reduceLeDiff,
    Nat.reduceSub, BitVec.extractLsb'_eq_self, Nat.le_refl]
  simp_all [needZero, bne]

theorem packSdImm_maj (maj : BitVec 7) (min : BitVec 5) (f : SdImm) : majOf (packSdImm maj min f) = maj := by
  unfold majOf packSdImm
  simp only [BitVec.extractLsb'_append_eq_of_le, BitVec.extractLsb'_append_eq_of_add_le, Nat.reduceLeDiff,
    Nat.reduceSub, BitVec.extractLsb'_eq_self, Nat.le_refl]

theorem packSdImm_min (maj : BitVec 7) (min : BitVec 5) (f : SdImm) : minOf (packSdImm maj min f) = min := by
  unfold minOf packSdImm
  simp only [BitVec.extractLsb'_append_eq_of_le, BitVec.extractLsb'_append_eq_of_add_le, Nat.reduceLeDiff,
    Nat.reduceSub, BitVec.extractLsb'_eq_self, Nat.le_refl]

theorem readSdImm_packSdImm (maj : BitVec 7) (min : BitVec 5) (f : SdImm) (mk : SdImm → Instr) :
    readSdImm (packSdImm maj min f) mk = .ok (mk f) := by
  unfold readSdImm packSdImm fld
  simp only [BitVec.extractLsb'_append_eq_of_le, BitVec.extractLsb'_append_eq_of_add_le, Nat.reduceLeDiff,
    Nat.reduceSub, BitVec.extractLsb'_eq_self, Nat.le_refl]
  simp [needZero, bne]

theorem packY0_maj (maj : BitVec 7) (min : BitVec 5) : majOf (packY0 maj min) = maj := by
  unfold majOf packY0
  simp only [BitVec.extractLsb'_append_eq_of_le, BitVec.extractLsb'_append_eq_of_add_le, Nat.reduceLeDiff,
    Nat.reduceSub, BitVec.extractLsb'_eq_self, Nat.le_refl]

theorem packY0_min (maj : BitVec 7) (min : BitVec 5) : minOf (packY0 maj min) = min := by
  unfold minOf packY0
  simp only [BitVec.extractLsb'_append_eq_of_le, BitVec.extractLsb'_append_eq_of_add_le, Nat.reduceLeDiff,
    Nat.reduceSub, BitVec.extractLsb'_eq_self, Nat.le_refl]

theorem readY0_packY0 (maj : BitVec 7) (min : BitVec 5) (i : Instr) :
    readY0 (packY0 maj min) i = .ok i := by
  unfold readY0 packY0 fld
  simp only [BitVec.extractLsb'_append_eq_of_le, BitVec.extractLsb'_append_eq_of_add_le, Nat.reduceLeDiff,
    Nat.reduceSub, BitVec.extractLsb'_eq_self, Nat.le_refl]
  simp [needZero, bne]

theorem packSi0_maj (maj : BitVec 7) (min : BitVec 5) : majOf (packSi0 maj min) = maj := by
  unfold majOf packSi0
  simp only [BitVec.extractLsb'_append_eq_of_le, BitVec.extractLsb'_append_eq_of_add_le, Nat.reduceLeDiff,
    Nat.reduceSub, BitVec.extractLsb'_eq_self, Nat.le_refl]

theorem packSi0_min (maj : BitVec 7) (min : BitVec 5) : minOf (packSi0 maj min) = min := by
  unfold minOf packSi0
  simp only [BitVec.extractLsb'_append_eq_of_le, BitVec.extractLsb'_append_eq_of_add_le, Nat.reduceLeDiff,
    Nat.reduceSub, BitVec.extractLsb'_eq_self, Nat.le_refl]

theorem readSi0_packSi0 (maj : BitVec 7) (min : BitVec 5) (i : Instr) :
    readSi0 (packSi0 maj min) i = .ok i := by
  unfold readSi0 packSi0 fld
  simp only [BitVec.extractLsb'_append_eq_of_le, BitVec.extractLsb'_append_eq_of_add_le, Nat.reduceLeDiff,
    Nat.reduceSub, BitVec.extractLsb'_eq_self, Nat.le_refl]
  simp [needZero, bne]

theorem packRegion_maj (maj : BitVec 7) (min : BitVec 5) (mask : BitVec 32) : majOf (packRegion maj min mask) = maj := by
  unfold majOf packRegion
  simp only [BitVec.extractLsb'_append_eq_of_le, BitVec.extractLsb'_append_eq_of_add_le, Nat.reduceLeDiff,
    Nat.reduceSub, BitVec.extractLsb'_eq_self, Nat.le_refl]

theorem packRegion_min (maj : BitVec 7) (min : BitVec 5) (mask : BitVec 32) : minOf (packRegion maj min mask) = min := by
  unfold minOf packRegion
  simp only [BitVec.extractLsb'_append_eq_of_le, BitVec.extractLsb'_append_eq_of_add_le, Nat.reduceLeDiff,
    Nat.reduceSub, BitVec.extractLsb'_eq_self, Nat.le_refl]

theorem readRegion_packRegion (maj : BitVec 7) (min : BitVec 5) (mask : BitVec 32) (mk : BitVec 32 → Instr) :
    readRegion (packRegion maj min mask) mk = .ok (mk mask) := by
  unfold readRegion packRegion fld
  simp only [BitVec.extractLsb'_append_eq_of_le, BitVec.extractLsb'_append_eq_of_add_le, Nat.reduceLeDiff,
    Nat.reduceSub, BitVec.extractLsb'_eq_self, Nat.le_refl]
  simp [needZero, bne]

theorem packTrap_maj (maj : BitVec 7) (min : BitVec 5) (code : BitVec 16) : majOf (packTrap maj min code) = maj := by
  unfold majOf packTrap
  simp only [BitVec.extractLsb'_append_eq_of_le, BitVec.extractLsb'_append_eq_of_add_le, Nat.reduceLeDiff,
    Nat.reduceSub, BitVec.extractLsb'_eq_self, Nat.le_refl]

theorem packTrap_min (maj : BitVec 7) (min : BitVec 5) (code : BitVec 16) : minOf (packTrap maj min code) = min := by
  unfold minOf packTrap
  simp only [BitVec.extractLsb'_append_eq_of_le, BitVec.extractLsb'_append_eq_of_add_le, Nat.reduceLeDiff,
    Nat.reduceSub, BitVec.extractLsb'_eq_self, Nat.le_refl]

theorem readTrap_packTrap (maj : BitVec 7) (min : BitVec 5) (code : BitVec 16) (mk : BitVec 16 → Instr) :
    readTrap (packTrap maj min code) mk = .ok (mk code) := by
  unfold readTrap packTrap fld
  simp only [BitVec.extractLsb'_append_eq_of_le, BitVec.extractLsb'_append_eq_of_add_le, Nat.reduceLeDiff,
    Nat.reduceSub, BitVec.extractLsb'_eq_self, Nat.le_refl]
  simp [needZero, bne]

theorem packSysrd_maj (maj : BitVec 7) (min : BitVec 5) (sd : BitVec 6) (r : SysReg) : majOf (packSysrd maj min sd r) = maj := by
  unfold majOf packSysrd
  simp only [BitVec.extractLsb'_append_eq_of_le, BitVec.extractLsb'_append_eq_of_add_le, Nat.reduceLeDiff,
    Nat.reduceSub, BitVec.extractLsb'_eq_self, Nat.le_refl]

theorem packSysrd_min (maj : BitVec 7) (min : BitVec 5) (sd : BitVec 6) (r : SysReg) : minOf (packSysrd maj min sd r) = min := by
  unfold minOf packSysrd
  simp only [BitVec.extractLsb'_append_eq_of_le, BitVec.extractLsb'_append_eq_of_add_le, Nat.reduceLeDiff,
    Nat.reduceSub, BitVec.extractLsb'_eq_self, Nat.le_refl]

theorem readSysrd_packSysrd (maj : BitVec 7) (min : BitVec 5) (sd : BitVec 6) (r : SysReg) (mk : BitVec 6 → SysReg → Instr) :
    readSysrd (packSysrd maj min sd r) mk = .ok (mk sd r) := by
  unfold readSysrd packSysrd fld
  simp only [BitVec.extractLsb'_append_eq_of_le, BitVec.extractLsb'_append_eq_of_add_le, Nat.reduceLeDiff,
    Nat.reduceSub, BitVec.extractLsb'_eq_self, Nat.le_refl]
  simp [needZero, sysRegOf_code, needSome, bne]

theorem packSyswr_maj (maj : BitVec 7) (min : BitVec 5) (sa : BitVec 6) : majOf (packSyswr maj min sa) = maj := by
  unfold majOf packSyswr
  simp only [BitVec.extractLsb'_append_eq_of_le, BitVec.extractLsb'_append_eq_of_add_le, Nat.reduceLeDiff,
    Nat.reduceSub, BitVec.extractLsb'_eq_self, Nat.le_refl]

theorem packSyswr_min (maj : BitVec 7) (min : BitVec 5) (sa : BitVec 6) : minOf (packSyswr maj min sa) = min := by
  unfold minOf packSyswr
  simp only [BitVec.extractLsb'_append_eq_of_le, BitVec.extractLsb'_append_eq_of_add_le, Nat.reduceLeDiff,
    Nat.reduceSub, BitVec.extractLsb'_eq_self, Nat.le_refl]

theorem readSyswr_packSyswr (maj : BitVec 7) (min : BitVec 5) (sa : BitVec 6) (mk : BitVec 6 → Instr) :
    readSyswr (packSyswr maj min sa) mk = .ok (mk sa) := by
  unfold readSyswr packSyswr fld
  simp only [BitVec.extractLsb'_append_eq_of_le, BitVec.extractLsb'_append_eq_of_add_le, Nat.reduceLeDiff,
    Nat.reduceSub, BitVec.extractLsb'_eq_self, Nat.le_refl]
  simp [needZero, bne]

theorem packHField_maj (maj : BitVec 7) (min : BitVec 5) (f : HField) : majOf (packHField maj min f) = maj := by
  unfold majOf packHField
  simp only [BitVec.extractLsb'_append_eq_of_le, BitVec.extractLsb'_append_eq_of_add_le, Nat.reduceLeDiff,
    Nat.reduceSub, BitVec.extractLsb'_eq_self, Nat.le_refl]

theorem packHField_min (maj : BitVec 7) (min : BitVec 5) (f : HField) : minOf (packHField maj min f) = min := by
  unfold minOf packHField
  simp only [BitVec.extractLsb'_append_eq_of_le, BitVec.extractLsb'_append_eq_of_add_le, Nat.reduceLeDiff,
    Nat.reduceSub, BitVec.extractLsb'_eq_self, Nat.le_refl]

theorem readHField_packHField (maj : BitVec 7) (min : BitVec 5) (f : HField) (mk : HField → Instr) :
    readHField (packHField maj min f) mk = .ok (mk f) := by
  unfold readHField packHField fld
  simp only [BitVec.extractLsb'_append_eq_of_le, BitVec.extractLsb'_append_eq_of_add_le, Nat.reduceLeDiff,
    Nat.reduceSub, BitVec.extractLsb'_eq_self, Nat.le_refl]
  simp [needZero, shapeFieldOf_code, needSome, bne]

theorem packTH_maj (maj : BitVec 7) (min : BitVec 5) (t : BitVec 5) (h : BitVec 4) : majOf (packTH maj min t h) = maj := by
  unfold majOf packTH
  simp only [BitVec.extractLsb'_append_eq_of_le, BitVec.extractLsb'_append_eq_of_add_le, Nat.reduceLeDiff,
    Nat.reduceSub, BitVec.extractLsb'_eq_self, Nat.le_refl]

theorem packTH_min (maj : BitVec 7) (min : BitVec 5) (t : BitVec 5) (h : BitVec 4) : minOf (packTH maj min t h) = min := by
  unfold minOf packTH
  simp only [BitVec.extractLsb'_append_eq_of_le, BitVec.extractLsb'_append_eq_of_add_le, Nat.reduceLeDiff,
    Nat.reduceSub, BitVec.extractLsb'_eq_self, Nat.le_refl]

theorem readTH_packTH (maj : BitVec 7) (min : BitVec 5) (t : BitVec 5) (h : BitVec 4) (mk : BitVec 5 → BitVec 4 → Instr) :
    readTH (packTH maj min t h) mk = .ok (mk t h) := by
  unfold readTH packTH fld
  simp only [BitVec.extractLsb'_append_eq_of_le, BitVec.extractLsb'_append_eq_of_add_le, Nat.reduceLeDiff,
    Nat.reduceSub, BitVec.extractLsb'_eq_self, Nat.le_refl]
  simp [needZero, bne]

theorem packTxT_maj (maj : BitVec 7) (min : BitVec 5) (t : BitVec 5) : majOf (packTxT maj min t) = maj := by
  unfold majOf packTxT
  simp only [BitVec.extractLsb'_append_eq_of_le, BitVec.extractLsb'_append_eq_of_add_le, Nat.reduceLeDiff,
    Nat.reduceSub, BitVec.extractLsb'_eq_self, Nat.le_refl]

theorem packTxT_min (maj : BitVec 7) (min : BitVec 5) (t : BitVec 5) : minOf (packTxT maj min t) = min := by
  unfold minOf packTxT
  simp only [BitVec.extractLsb'_append_eq_of_le, BitVec.extractLsb'_append_eq_of_add_le, Nat.reduceLeDiff,
    Nat.reduceSub, BitVec.extractLsb'_eq_self, Nat.le_refl]

theorem readTxT_packTxT (maj : BitVec 7) (min : BitVec 5) (t : BitVec 5) (mk : BitVec 5 → Instr) :
    readTxT (packTxT maj min t) mk = .ok (mk t) := by
  unfold readTxT packTxT fld
  simp only [BitVec.extractLsb'_append_eq_of_le, BitVec.extractLsb'_append_eq_of_add_le, Nat.reduceLeDiff,
    Nat.reduceSub, BitVec.extractLsb'_eq_self, Nat.le_refl]
  simp [needZero, bne]

theorem packTqry_maj (maj : BitVec 7) (min : BitVec 5) (sa : BitVec 6) (sel : QuerySel) : majOf (packTqry maj min sa sel) = maj := by
  unfold majOf packTqry
  simp only [BitVec.extractLsb'_append_eq_of_le, BitVec.extractLsb'_append_eq_of_add_le, Nat.reduceLeDiff,
    Nat.reduceSub, BitVec.extractLsb'_eq_self, Nat.le_refl]

theorem packTqry_min (maj : BitVec 7) (min : BitVec 5) (sa : BitVec 6) (sel : QuerySel) : minOf (packTqry maj min sa sel) = min := by
  unfold minOf packTqry
  simp only [BitVec.extractLsb'_append_eq_of_le, BitVec.extractLsb'_append_eq_of_add_le, Nat.reduceLeDiff,
    Nat.reduceSub, BitVec.extractLsb'_eq_self, Nat.le_refl]

theorem readTqry_packTqry (maj : BitVec 7) (min : BitVec 5) (sa : BitVec 6) (sel : QuerySel) (mk : BitVec 6 → QuerySel → Instr) :
    readTqry (packTqry maj min sa sel) mk = .ok (mk sa sel) := by
  unfold readTqry packTqry fld
  simp only [BitVec.extractLsb'_append_eq_of_le, BitVec.extractLsb'_append_eq_of_add_le, Nat.reduceLeDiff,
    Nat.reduceSub, BitVec.extractLsb'_eq_self, Nat.le_refl]
  simp [needZero, querySelOf_code, needSome, bne]

theorem packTm_maj (maj : BitVec 7) (min : BitVec 5) (f : TmF) : majOf (packTm maj min f) = maj := by
  unfold majOf packTm
  simp only [BitVec.extractLsb'_append_eq_of_le, BitVec.extractLsb'_append_eq_of_add_le, Nat.reduceLeDiff,
    Nat.reduceSub, BitVec.extractLsb'_eq_self, Nat.le_refl]

theorem packTm_min (maj : BitVec 7) (min : BitVec 5) (f : TmF) : minOf (packTm maj min f) = min := by
  unfold minOf packTm
  simp only [BitVec.extractLsb'_append_eq_of_le, BitVec.extractLsb'_append_eq_of_add_le, Nat.reduceLeDiff,
    Nat.reduceSub, BitVec.extractLsb'_eq_self, Nat.le_refl]

theorem readTm_packTm (maj : BitVec 7) (min : BitVec 5) (f : TmF) (mk : TmF → Instr) (h : f.wf) :
    readTm (packTm maj min f) mk = .ok (mk f) := by
  unfold TmF.wf at h
  unfold readTm tmReserved packTm fld
  simp only [bitB_field]
  simp only [BitVec.extractLsb'_append_eq_of_le, BitVec.extractLsb'_append_eq_of_add_le, Nat.reduceLeDiff,
    Nat.reduceSub, BitVec.extractLsb'_eq_self, Nat.le_refl]
  have h6 : f.pc ≠ 6#3 := by intro e; simp [e] at h
  have h7 : f.pc ≠ 7#3 := by intro e; simp [e] at h
  simp [needZero, scopeOf_code, planeModeOf_code, needCode, b1_eq_one, bne, scopeCode_eq_zero, planeModeCode_eq_zero] at h ⊢
  grind

theorem packTmIdx_maj (maj : BitVec 7) (min : BitVec 5) (f : TmIdxF) : majOf (packTmIdx maj min f) = maj := by
  unfold majOf packTmIdx
  simp only [BitVec.extractLsb'_append_eq_of_le, BitVec.extractLsb'_append_eq_of_add_le, Nat.reduceLeDiff,
    Nat.reduceSub, BitVec.extractLsb'_eq_self, Nat.le_refl]

theorem packTmIdx_min (maj : BitVec 7) (min : BitVec 5) (f : TmIdxF) : minOf (packTmIdx maj min f) = min := by
  unfold minOf packTmIdx
  simp only [BitVec.extractLsb'_append_eq_of_le, BitVec.extractLsb'_append_eq_of_add_le, Nat.reduceLeDiff,
    Nat.reduceSub, BitVec.extractLsb'_eq_self, Nat.le_refl]

theorem readTmIdx_packTmIdx (maj : BitVec 7) (min : BitVec 5) (f : TmIdxF) (mk : TmIdxF → Instr) (h : f.wf) :
    readTmIdx (packTmIdx maj min f) mk = .ok (mk f) := by
  unfold TmIdxF.wf at h
  unfold readTmIdx tmReserved packTmIdx fld
  simp only [bitB_field]
  simp only [BitVec.extractLsb'_append_eq_of_le, BitVec.extractLsb'_append_eq_of_add_le, Nat.reduceLeDiff,
    Nat.reduceSub, BitVec.extractLsb'_eq_self, Nat.le_refl]
  have h6 : f.pc ≠ 6#3 := by intro e; simp [e] at h
  have h7 : f.pc ≠ 7#3 := by intro e; simp [e] at h
  simp [needZero, scopeOf_code, planeModeOf_code, needCode, b1_eq_one, bne, scopeCode_eq_zero, planeModeCode_eq_zero] at h ⊢
  grind

theorem packTmAmo_maj (maj : BitVec 7) (min : BitVec 5) (f : TmAmoF) : majOf (packTmAmo maj min f) = maj := by
  unfold majOf packTmAmo
  simp only [BitVec.extractLsb'_append_eq_of_le, BitVec.extractLsb'_append_eq_of_add_le, Nat.reduceLeDiff,
    Nat.reduceSub, BitVec.extractLsb'_eq_self, Nat.le_refl]

theorem packTmAmo_min (maj : BitVec 7) (min : BitVec 5) (f : TmAmoF) : minOf (packTmAmo maj min f) = min := by
  unfold minOf packTmAmo
  simp only [BitVec.extractLsb'_append_eq_of_le, BitVec.extractLsb'_append_eq_of_add_le, Nat.reduceLeDiff,
    Nat.reduceSub, BitVec.extractLsb'_eq_self, Nat.le_refl]

theorem readTmAmo_packTmAmo (maj : BitVec 7) (min : BitVec 5) (f : TmAmoF) (mk : TmAmoF → Instr) (h : f.wf) :
    readTmAmo (packTmAmo maj min f) mk = .ok (mk f) := by
  unfold TmAmoF.wf at h
  unfold readTmAmo tmReserved packTmAmo fld
  simp only [bitB_field]
  simp only [BitVec.extractLsb'_append_eq_of_le, BitVec.extractLsb'_append_eq_of_add_le, Nat.reduceLeDiff,
    Nat.reduceSub, BitVec.extractLsb'_eq_self, Nat.le_refl]
  have h6 : f.pc ≠ 6#3 := by intro e; simp [e] at h
  have h7 : f.pc ≠ 7#3 := by intro e; simp [e] at h
  simp [needZero, scopeOf_code, needCode, b1_eq_one, bne, scopeCode_eq_zero] at h ⊢
  grind

theorem packTmWait_maj (maj : BitVec 7) (min : BitVec 5) (f : TmWaitF) : majOf (packTmWait maj min f) = maj := by
  unfold majOf packTmWait
  simp only [BitVec.extractLsb'_append_eq_of_le, BitVec.extractLsb'_append_eq_of_add_le, Nat.reduceLeDiff,
    Nat.reduceSub, BitVec.extractLsb'_eq_self, Nat.le_refl]

theorem packTmWait_min (maj : BitVec 7) (min : BitVec 5) (f : TmWaitF) : minOf (packTmWait maj min f) = min := by
  unfold minOf packTmWait
  simp only [BitVec.extractLsb'_append_eq_of_le, BitVec.extractLsb'_append_eq_of_add_le, Nat.reduceLeDiff,
    Nat.reduceSub, BitVec.extractLsb'_eq_self, Nat.le_refl]

theorem readTmWait_packTmWait (maj : BitVec 7) (min : BitVec 5) (f : TmWaitF) (mk : TmWaitF → Instr) (h : f.wf) :
    readTmWait (packTmWait maj min f) mk = .ok (mk f) := by
  unfold TmWaitF.wf at h
  unfold readTmWait tmReserved packTmWait fld
  simp only [bitB_field]
  simp only [BitVec.extractLsb'_append_eq_of_le, BitVec.extractLsb'_append_eq_of_add_le, Nat.reduceLeDiff,
    Nat.reduceSub, BitVec.extractLsb'_eq_self, Nat.le_refl]
  simp [needZero, scopeOf_code, needCode, b1_eq_one, bne, scopeCode_eq_zero] at h ⊢
  rw [if_neg (by grind), if_neg (by omega)]

theorem packWbind_maj (maj : BitVec 7) (min : BitVec 5) (f : WbindF) : majOf (packWbind maj min f) = maj := by
  unfold majOf packWbind
  simp only [BitVec.extractLsb'_append_eq_of_le, BitVec.extractLsb'_append_eq_of_add_le, Nat.reduceLeDiff,
    Nat.reduceSub, BitVec.extractLsb'_eq_self, Nat.le_refl]

theorem packWbind_min (maj : BitVec 7) (min : BitVec 5) (f : WbindF) : minOf (packWbind maj min f) = min := by
  unfold minOf packWbind
  simp only [BitVec.extractLsb'_append_eq_of_le, BitVec.extractLsb'_append_eq_of_add_le, Nat.reduceLeDiff,
    Nat.reduceSub, BitVec.extractLsb'_eq_self, Nat.le_refl]

theorem readWbind_packWbind (maj : BitVec 7) (min : BitVec 5) (f : WbindF) (mk : WbindF → Instr) :
    readWbind (packWbind maj min f) mk = .ok (mk f) := by
  unfold readWbind packWbind fld
  simp only [BitVec.extractLsb'_append_eq_of_le, BitVec.extractLsb'_append_eq_of_add_le, Nat.reduceLeDiff,
    Nat.reduceSub, BitVec.extractLsb'_eq_self, Nat.le_refl]
  simp [needZero, bne]

theorem packTldw_maj (maj : BitVec 7) (min : BitVec 5) (t : BitVec 5) (w : BitVec 3) : majOf (packTldw maj min t w) = maj := by
  unfold majOf packTldw
  simp only [BitVec.extractLsb'_append_eq_of_le, BitVec.extractLsb'_append_eq_of_add_le, Nat.reduceLeDiff,
    Nat.reduceSub, BitVec.extractLsb'_eq_self, Nat.le_refl]

theorem packTldw_min (maj : BitVec 7) (min : BitVec 5) (t : BitVec 5) (w : BitVec 3) : minOf (packTldw maj min t w) = min := by
  unfold minOf packTldw
  simp only [BitVec.extractLsb'_append_eq_of_le, BitVec.extractLsb'_append_eq_of_add_le, Nat.reduceLeDiff,
    Nat.reduceSub, BitVec.extractLsb'_eq_self, Nat.le_refl]

theorem readTldw_packTldw (maj : BitVec 7) (min : BitVec 5) (t : BitVec 5) (w : BitVec 3) (mk : BitVec 5 → BitVec 3 → Instr) :
    readTldw (packTldw maj min t w) mk = .ok (mk t w) := by
  unfold readTldw packTldw fld
  simp only [BitVec.extractLsb'_append_eq_of_le, BitVec.extractLsb'_append_eq_of_add_le, Nat.reduceLeDiff,
    Nat.reduceSub, BitVec.extractLsb'_eq_self, Nat.le_refl]
  simp [needZero, bne]

theorem packTcb_maj (maj : BitVec 7) (min : BitVec 5) (f : TcbF) : majOf (packTcb maj min f) = maj := by
  unfold majOf packTcb
  simp only [BitVec.extractLsb'_append_eq_of_le, BitVec.extractLsb'_append_eq_of_add_le, Nat.reduceLeDiff,
    Nat.reduceSub, BitVec.extractLsb'_eq_self, Nat.le_refl]

theorem packTcb_min (maj : BitVec 7) (min : BitVec 5) (f : TcbF) : minOf (packTcb maj min f) = min := by
  unfold minOf packTcb
  simp only [BitVec.extractLsb'_append_eq_of_le, BitVec.extractLsb'_append_eq_of_add_le, Nat.reduceLeDiff,
    Nat.reduceSub, BitVec.extractLsb'_eq_self, Nat.le_refl]

theorem readTcb_packTcb (maj : BitVec 7) (min : BitVec 5) (f : TcbF) (mk : TcbF → Instr) (h : f.wf) :
    readTcb (packTcb maj min f) mk = .ok (mk f) := by
  unfold TcbF.wf at h
  unfold readTcb packTcb fld
  simp only [bitB_field]
  simp only [BitVec.extractLsb'_append_eq_of_le, BitVec.extractLsb'_append_eq_of_add_le, Nat.reduceLeDiff,
    Nat.reduceSub, BitVec.extractLsb'_eq_self, Nat.le_refl]
  simp [needZero, b1_eq_one, bne] at h ⊢
  rw [if_neg (by grind), if_neg (by grind)]

theorem packBcopy_maj (maj : BitVec 7) (min : BitVec 5) (f : BcopyF) : majOf (packBcopy maj min f) = maj := by
  unfold majOf packBcopy
  simp only [BitVec.extractLsb'_append_eq_of_le, BitVec.extractLsb'_append_eq_of_add_le, Nat.reduceLeDiff,
    Nat.reduceSub, BitVec.extractLsb'_eq_self, Nat.le_refl]

theorem packBcopy_min (maj : BitVec 7) (min : BitVec 5) (f : BcopyF) : minOf (packBcopy maj min f) = min := by
  unfold minOf packBcopy
  simp only [BitVec.extractLsb'_append_eq_of_le, BitVec.extractLsb'_append_eq_of_add_le, Nat.reduceLeDiff,
    Nat.reduceSub, BitVec.extractLsb'_eq_self, Nat.le_refl]

theorem readBcopy_packBcopy (maj : BitVec 7) (min : BitVec 5) (f : BcopyF) (mk : BcopyF → Instr) (h : f.wf) :
    readBcopy (packBcopy maj min f) mk = .ok (mk f) := by
  unfold BcopyF.wf at h
  unfold readBcopy packBcopy fld
  simp only [bitB_field]
  simp only [BitVec.extractLsb'_append_eq_of_le, BitVec.extractLsb'_append_eq_of_add_le, Nat.reduceLeDiff,
    Nat.reduceSub, BitVec.extractLsb'_eq_self, Nat.le_refl]
  simp [needZero, b1_eq_one, bne] at h ⊢
  grind

theorem packWaitc_maj (maj : BitVec 7) (min : BitVec 5) (f : WaitcF) : majOf (packWaitc maj min f) = maj := by
  unfold majOf packWaitc
  simp only [BitVec.extractLsb'_append_eq_of_le, BitVec.extractLsb'_append_eq_of_add_le, Nat.reduceLeDiff,
    Nat.reduceSub, BitVec.extractLsb'_eq_self, Nat.le_refl]

theorem packWaitc_min (maj : BitVec 7) (min : BitVec 5) (f : WaitcF) : minOf (packWaitc maj min f) = min := by
  unfold minOf packWaitc
  simp only [BitVec.extractLsb'_append_eq_of_le, BitVec.extractLsb'_append_eq_of_add_le, Nat.reduceLeDiff,
    Nat.reduceSub, BitVec.extractLsb'_eq_self, Nat.le_refl]

theorem readWaitc_packWaitc (maj : BitVec 7) (min : BitVec 5) (f : WaitcF) (mk : WaitcF → Instr) :
    readWaitc (packWaitc maj min f) mk = .ok (mk f) := by
  unfold readWaitc packWaitc fld
  simp only [BitVec.extractLsb'_append_eq_of_le, BitVec.extractLsb'_append_eq_of_add_le, Nat.reduceLeDiff,
    Nat.reduceSub, BitVec.extractLsb'_eq_self, Nat.le_refl]
  simp [needZero, bne]

theorem packYSa_maj (maj : BitVec 7) (min : BitVec 5) (sa : BitVec 6) : majOf (packYSa maj min sa) = maj := by
  unfold majOf packYSa
  simp only [BitVec.extractLsb'_append_eq_of_le, BitVec.extractLsb'_append_eq_of_add_le, Nat.reduceLeDiff,
    Nat.reduceSub, BitVec.extractLsb'_eq_self, Nat.le_refl]

theorem packYSa_min (maj : BitVec 7) (min : BitVec 5) (sa : BitVec 6) : minOf (packYSa maj min sa) = min := by
  unfold minOf packYSa
  simp only [BitVec.extractLsb'_append_eq_of_le, BitVec.extractLsb'_append_eq_of_add_le, Nat.reduceLeDiff,
    Nat.reduceSub, BitVec.extractLsb'_eq_self, Nat.le_refl]

theorem readYSa_packYSa (maj : BitVec 7) (min : BitVec 5) (sa : BitVec 6) (mk : BitVec 6 → Instr) :
    readYSa (packYSa maj min sa) mk = .ok (mk sa) := by
  unfold readYSa packYSa fld
  simp only [BitVec.extractLsb'_append_eq_of_le, BitVec.extractLsb'_append_eq_of_add_le, Nat.reduceLeDiff,
    Nat.reduceSub, BitVec.extractLsb'_eq_self, Nat.le_refl]
  simp [needZero, bne]

theorem packYSdSa_maj (maj : BitVec 7) (min : BitVec 5) (sd sa : BitVec 6) : majOf (packYSdSa maj min sd sa) = maj := by
  unfold majOf packYSdSa
  simp only [BitVec.extractLsb'_append_eq_of_le, BitVec.extractLsb'_append_eq_of_add_le, Nat.reduceLeDiff,
    Nat.reduceSub, BitVec.extractLsb'_eq_self, Nat.le_refl]

theorem packYSdSa_min (maj : BitVec 7) (min : BitVec 5) (sd sa : BitVec 6) : minOf (packYSdSa maj min sd sa) = min := by
  unfold minOf packYSdSa
  simp only [BitVec.extractLsb'_append_eq_of_le, BitVec.extractLsb'_append_eq_of_add_le, Nat.reduceLeDiff,
    Nat.reduceSub, BitVec.extractLsb'_eq_self, Nat.le_refl]

theorem readYSdSa_packYSdSa (maj : BitVec 7) (min : BitVec 5) (sd sa : BitVec 6) (mk : BitVec 6 → BitVec 6 → Instr) :
    readYSdSa (packYSdSa maj min sd sa) mk = .ok (mk sd sa) := by
  unfold readYSdSa packYSdSa fld
  simp only [BitVec.extractLsb'_append_eq_of_le, BitVec.extractLsb'_append_eq_of_add_le, Nat.reduceLeDiff,
    Nat.reduceSub, BitVec.extractLsb'_eq_self, Nat.le_refl]
  simp [needZero, bne]

theorem packMm_maj (maj : BitVec 7) (min : BitVec 5) (f : MmF) : majOf (packMm maj min f) = maj := by
  unfold majOf packMm
  simp only [BitVec.extractLsb'_append_eq_of_le, BitVec.extractLsb'_append_eq_of_add_le, Nat.reduceLeDiff,
    Nat.reduceSub, BitVec.extractLsb'_eq_self, Nat.le_refl]

theorem packMm_min (maj : BitVec 7) (min : BitVec 5) (f : MmF) : minOf (packMm maj min f) = min := by
  unfold minOf packMm
  simp only [BitVec.extractLsb'_append_eq_of_le, BitVec.extractLsb'_append_eq_of_add_le, Nat.reduceLeDiff,
    Nat.reduceSub, BitVec.extractLsb'_eq_self, Nat.le_refl]

theorem readMm_packMm (maj : BitVec 7) (min : BitVec 5) (f : MmF) (mk : MmF → Instr) :
    readMm (packMm maj min f) mk = .ok (mk f) := by
  unfold readMm packMm fld
  simp only [bitB_field]
  simp only [BitVec.extractLsb'_append_eq_of_le, BitVec.extractLsb'_append_eq_of_add_le, Nat.reduceLeDiff,
    Nat.reduceSub, BitVec.extractLsb'_eq_self, Nat.le_refl]
  simp [needZero, b1_eq_one, bne]

theorem packMap_maj (maj : BitVec 7) (min : BitVec 5) (f : MapF) : majOf (packMap maj min f) = maj := by
  unfold majOf packMap
  simp only [BitVec.extractLsb'_append_eq_of_le, BitVec.extractLsb'_append_eq_of_add_le, Nat.reduceLeDiff,
    Nat.reduceSub, BitVec.extractLsb'_eq_self, Nat.le_refl]

theorem packMap_min (maj : BitVec 7) (min : BitVec 5) (f : MapF) : minOf (packMap maj min f) = min := by
  unfold minOf packMap
  simp only [BitVec.extractLsb'_append_eq_of_le, BitVec.extractLsb'_append_eq_of_add_le, Nat.reduceLeDiff,
    Nat.reduceSub, BitVec.extractLsb'_eq_self, Nat.le_refl]

theorem readMap_packMap (maj : BitVec 7) (min : BitVec 5) (f : MapF) (mk : MapF → Instr) (h : f.wf) :
    readMap (packMap maj min f) mk = .ok (mk f) := by
  unfold MapF.wf at h
  unfold readMap packMap fld
  simp only [bitB_field]
  simp only [BitVec.extractLsb'_append_eq_of_le, BitVec.extractLsb'_append_eq_of_add_le, Nat.reduceLeDiff,
    Nat.reduceSub, BitVec.extractLsb'_eq_self, Nat.le_refl]
  simp [needZero, b1_eq_one, bne] at h ⊢
  rw [if_neg (by have := f.nin.isLt; grind), if_neg h.1.1]

theorem packRed_maj (maj : BitVec 7) (min : BitVec 5) (f : RedF) : majOf (packRed maj min f) = maj := by
  unfold majOf packRed
  simp only [BitVec.extractLsb'_append_eq_of_le, BitVec.extractLsb'_append_eq_of_add_le, Nat.reduceLeDiff,
    Nat.reduceSub, BitVec.extractLsb'_eq_self, Nat.le_refl]

theorem packRed_min (maj : BitVec 7) (min : BitVec 5) (f : RedF) : minOf (packRed maj min f) = min := by
  unfold minOf packRed
  simp only [BitVec.extractLsb'_append_eq_of_le, BitVec.extractLsb'_append_eq_of_add_le, Nat.reduceLeDiff,
    Nat.reduceSub, BitVec.extractLsb'_eq_self, Nat.le_refl]

theorem readRed_packRed (maj : BitVec 7) (min : BitVec 5) (f : RedF) (mk : RedF → Instr) (h : f.wf) :
    readRed (packRed maj min f) mk = .ok (mk f) := by
  unfold RedF.wf at h
  unfold readRed packRed fld
  simp only [bitB_field]
  simp only [BitVec.extractLsb'_append_eq_of_le, BitVec.extractLsb'_append_eq_of_add_le, Nat.reduceLeDiff,
    Nat.reduceSub, BitVec.extractLsb'_eq_self, Nat.le_refl]
  simp [needZero, redOpOf_code, needSome, b1_eq_one, bne] at h ⊢
  grind

theorem packScan_maj (maj : BitVec 7) (min : BitVec 5) (f : ScanF) : majOf (packScan maj min f) = maj := by
  unfold majOf packScan
  simp only [BitVec.extractLsb'_append_eq_of_le, BitVec.extractLsb'_append_eq_of_add_le, Nat.reduceLeDiff,
    Nat.reduceSub, BitVec.extractLsb'_eq_self, Nat.le_refl]

theorem packScan_min (maj : BitVec 7) (min : BitVec 5) (f : ScanF) : minOf (packScan maj min f) = min := by
  unfold minOf packScan
  simp only [BitVec.extractLsb'_append_eq_of_le, BitVec.extractLsb'_append_eq_of_add_le, Nat.reduceLeDiff,
    Nat.reduceSub, BitVec.extractLsb'_eq_self, Nat.le_refl]

theorem readScan_packScan (maj : BitVec 7) (min : BitVec 5) (f : ScanF) (mk : ScanF → Instr) (h : f.wf) :
    readScan (packScan maj min f) mk = .ok (mk f) := by
  unfold ScanF.wf at h
  unfold readScan packScan fld
  simp only [bitB_field]
  simp only [BitVec.extractLsb'_append_eq_of_le, BitVec.extractLsb'_append_eq_of_add_le, Nat.reduceLeDiff,
    Nat.reduceSub, BitVec.extractLsb'_eq_self, Nat.le_refl]
  simp [needZero, redOpOf_code, needSome, b1_eq_one, bne] at h ⊢
  grind

theorem packTdTa_maj (maj : BitVec 7) (min : BitVec 5) (td ta : BitVec 5) : majOf (packTdTa maj min td ta) = maj := by
  unfold majOf packTdTa
  simp only [BitVec.extractLsb'_append_eq_of_le, BitVec.extractLsb'_append_eq_of_add_le, Nat.reduceLeDiff,
    Nat.reduceSub, BitVec.extractLsb'_eq_self, Nat.le_refl]

theorem packTdTa_min (maj : BitVec 7) (min : BitVec 5) (td ta : BitVec 5) : minOf (packTdTa maj min td ta) = min := by
  unfold minOf packTdTa
  simp only [BitVec.extractLsb'_append_eq_of_le, BitVec.extractLsb'_append_eq_of_add_le, Nat.reduceLeDiff,
    Nat.reduceSub, BitVec.extractLsb'_eq_self, Nat.le_refl]

theorem readTdTa_packTdTa (maj : BitVec 7) (min : BitVec 5) (td ta : BitVec 5) (mk : BitVec 5 → BitVec 5 → Instr) :
    readTdTa (packTdTa maj min td ta) mk = .ok (mk td ta) := by
  unfold readTdTa packTdTa fld
  simp only [BitVec.extractLsb'_append_eq_of_le, BitVec.extractLsb'_append_eq_of_add_le, Nat.reduceLeDiff,
    Nat.reduceSub, BitVec.extractLsb'_eq_self, Nat.le_refl]
  simp [needZero, bne]

theorem packTfill_maj (maj : BitVec 7) (min : BitVec 5) (td : BitVec 5) (imm : BitVec 24) : majOf (packTfill maj min td imm) = maj := by
  unfold majOf packTfill
  simp only [BitVec.extractLsb'_append_eq_of_le, BitVec.extractLsb'_append_eq_of_add_le, Nat.reduceLeDiff,
    Nat.reduceSub, BitVec.extractLsb'_eq_self, Nat.le_refl]

theorem packTfill_min (maj : BitVec 7) (min : BitVec 5) (td : BitVec 5) (imm : BitVec 24) : minOf (packTfill maj min td imm) = min := by
  unfold minOf packTfill
  simp only [BitVec.extractLsb'_append_eq_of_le, BitVec.extractLsb'_append_eq_of_add_le, Nat.reduceLeDiff,
    Nat.reduceSub, BitVec.extractLsb'_eq_self, Nat.le_refl]

theorem readTfill_packTfill (maj : BitVec 7) (min : BitVec 5) (td : BitVec 5) (imm : BitVec 24) (mk : BitVec 5 → BitVec 24 → Instr) :
    readTfill (packTfill maj min td imm) mk = .ok (mk td imm) := by
  unfold readTfill packTfill fld
  simp only [BitVec.extractLsb'_append_eq_of_le, BitVec.extractLsb'_append_eq_of_add_le, Nat.reduceLeDiff,
    Nat.reduceSub, BitVec.extractLsb'_eq_self, Nat.le_refl]
  simp [needZero, bne]

theorem packTxSa_maj (maj : BitVec 7) (min : BitVec 5) (sa : BitVec 6) : majOf (packTxSa maj min sa) = maj := by
  unfold majOf packTxSa
  simp only [BitVec.extractLsb'_append_eq_of_le, BitVec.extractLsb'_append_eq_of_add_le, Nat.reduceLeDiff,
    Nat.reduceSub, BitVec.extractLsb'_eq_self, Nat.le_refl]

theorem packTxSa_min (maj : BitVec 7) (min : BitVec 5) (sa : BitVec 6) : minOf (packTxSa maj min sa) = min := by
  unfold minOf packTxSa
  simp only [BitVec.extractLsb'_append_eq_of_le, BitVec.extractLsb'_append_eq_of_add_le, Nat.reduceLeDiff,
    Nat.reduceSub, BitVec.extractLsb'_eq_self, Nat.le_refl]

theorem readTxSa_packTxSa (maj : BitVec 7) (min : BitVec 5) (sa : BitVec 6) (mk : BitVec 6 → Instr) :
    readTxSa (packTxSa maj min sa) mk = .ok (mk sa) := by
  unfold readTxSa packTxSa fld
  simp only [BitVec.extractLsb'_append_eq_of_le, BitVec.extractLsb'_append_eq_of_add_le, Nat.reduceLeDiff,
    Nat.reduceSub, BitVec.extractLsb'_eq_self, Nat.le_refl]
  simp [needZero, bne]

theorem packTxTSa_maj (maj : BitVec 7) (min : BitVec 5) (t : BitVec 5) (sa : BitVec 6) : majOf (packTxTSa maj min t sa) = maj := by
  unfold majOf packTxTSa
  simp only [BitVec.extractLsb'_append_eq_of_le, BitVec.extractLsb'_append_eq_of_add_le, Nat.reduceLeDiff,
    Nat.reduceSub, BitVec.extractLsb'_eq_self, Nat.le_refl]

theorem packTxTSa_min (maj : BitVec 7) (min : BitVec 5) (t : BitVec 5) (sa : BitVec 6) : minOf (packTxTSa maj min t sa) = min := by
  unfold minOf packTxTSa
  simp only [BitVec.extractLsb'_append_eq_of_le, BitVec.extractLsb'_append_eq_of_add_le, Nat.reduceLeDiff,
    Nat.reduceSub, BitVec.extractLsb'_eq_self, Nat.le_refl]

theorem readTxTSa_packTxTSa (maj : BitVec 7) (min : BitVec 5) (t : BitVec 5) (sa : BitVec 6) (mk : BitVec 5 → BitVec 6 → Instr) :
    readTxTSa (packTxTSa maj min t sa) mk = .ok (mk t sa) := by
  unfold readTxTSa packTxTSa fld
  simp only [BitVec.extractLsb'_append_eq_of_le, BitVec.extractLsb'_append_eq_of_add_le, Nat.reduceLeDiff,
    Nat.reduceSub, BitVec.extractLsb'_eq_self, Nat.le_refl]
  simp [needZero, bne]

theorem packBind_maj (maj : BitVec 7) (min : BitVec 5) (f : BindF) : majOf (packBind maj min f) = maj := by
  unfold majOf packBind
  simp only [BitVec.extractLsb'_append_eq_of_le, BitVec.extractLsb'_append_eq_of_add_le, Nat.reduceLeDiff,
    Nat.reduceSub, BitVec.extractLsb'_eq_self, Nat.le_refl]

theorem packBind_min (maj : BitVec 7) (min : BitVec 5) (f : BindF) : minOf (packBind maj min f) = min := by
  unfold minOf packBind
  simp only [BitVec.extractLsb'_append_eq_of_le, BitVec.extractLsb'_append_eq_of_add_le, Nat.reduceLeDiff,
    Nat.reduceSub, BitVec.extractLsb'_eq_self, Nat.le_refl]

theorem readBind_packBind (maj : BitVec 7) (min : BitVec 5) (f : BindF) (mk : BindF → Instr) (h : f.wf) :
    readBind (packBind maj min f) mk = .ok (mk f) := by
  unfold BindF.wf at h
  unfold readBind packBind fld
  simp only [BitVec.extractLsb'_append_eq_of_le, BitVec.extractLsb'_append_eq_of_add_le, Nat.reduceLeDiff,
    Nat.reduceSub, BitVec.extractLsb'_eq_self, Nat.le_refl]
  simp_all [needZero, bne]

theorem packFence_maj (maj : BitVec 7) (min : BitVec 5) (scope : Scope) : majOf (packFence maj min scope) = maj := by
  unfold majOf packFence
  simp only [BitVec.extractLsb'_append_eq_of_le, BitVec.extractLsb'_append_eq_of_add_le, Nat.reduceLeDiff,
    Nat.reduceSub, BitVec.extractLsb'_eq_self, Nat.le_refl]

theorem packFence_min (maj : BitVec 7) (min : BitVec 5) (scope : Scope) : minOf (packFence maj min scope) = min := by
  unfold minOf packFence
  simp only [BitVec.extractLsb'_append_eq_of_le, BitVec.extractLsb'_append_eq_of_add_le, Nat.reduceLeDiff,
    Nat.reduceSub, BitVec.extractLsb'_eq_self, Nat.le_refl]

theorem readFence_packFence (maj : BitVec 7) (min : BitVec 5) (scope : Scope) (mk : Scope → Instr) :
    readFence (packFence maj min scope) mk = .ok (mk scope) := by
  unfold readFence packFence fld
  simp only [BitVec.extractLsb'_append_eq_of_le, BitVec.extractLsb'_append_eq_of_add_le, Nat.reduceLeDiff,
    Nat.reduceSub, BitVec.extractLsb'_eq_self, Nat.le_refl]
  simp [needZero, scopeOf_code, needCode, bne, scopeCode_eq_zero]

theorem packBari_maj (maj : BitVec 7) (min : BitVec 5) (b : BitVec 5) (sa : BitVec 6) : majOf (packBari maj min b sa) = maj := by
  unfold majOf packBari
  simp only [BitVec.extractLsb'_append_eq_of_le, BitVec.extractLsb'_append_eq_of_add_le, Nat.reduceLeDiff,
    Nat.reduceSub, BitVec.extractLsb'_eq_self, Nat.le_refl]

theorem packBari_min (maj : BitVec 7) (min : BitVec 5) (b : BitVec 5) (sa : BitVec 6) : minOf (packBari maj min b sa) = min := by
  unfold minOf packBari
  simp only [BitVec.extractLsb'_append_eq_of_le, BitVec.extractLsb'_append_eq_of_add_le, Nat.reduceLeDiff,
    Nat.reduceSub, BitVec.extractLsb'_eq_self, Nat.le_refl]

theorem readBari_packBari (maj : BitVec 7) (min : BitVec 5) (b : BitVec 5) (sa : BitVec 6) (mk : BitVec 5 → BitVec 6 → Instr) (h : b.toNat ≤ 19) :
    readBari (packBari maj min b sa) mk = .ok (mk b sa) := by
  unfold readBari packBari fld
  simp only [BitVec.extractLsb'_append_eq_of_le, BitVec.extractLsb'_append_eq_of_add_le, Nat.reduceLeDiff,
    Nat.reduceSub, BitVec.extractLsb'_eq_self, Nat.le_refl]
  simp_all [needZero, bne]

theorem packBar_maj (maj : BitVec 7) (min : BitVec 5) (f : BarF) : majOf (packBar maj min f) = maj := by
  unfold majOf packBar
  simp only [BitVec.extractLsb'_append_eq_of_le, BitVec.extractLsb'_append_eq_of_add_le, Nat.reduceLeDiff,
    Nat.reduceSub, BitVec.extractLsb'_eq_self, Nat.le_refl]

theorem packBar_min (maj : BitVec 7) (min : BitVec 5) (f : BarF) : minOf (packBar maj min f) = min := by
  unfold minOf packBar
  simp only [BitVec.extractLsb'_append_eq_of_le, BitVec.extractLsb'_append_eq_of_add_le, Nat.reduceLeDiff,
    Nat.reduceSub, BitVec.extractLsb'_eq_self, Nat.le_refl]

theorem readBar_packBar (maj : BitVec 7) (min : BitVec 5) (f : BarF) (mk : BarF → Instr) (h : f.wf) :
    readBar (packBar maj min f) mk = .ok (mk f) := by
  unfold BarF.wf at h
  unfold readBar packBar fld
  simp only [BitVec.extractLsb'_append_eq_of_le, BitVec.extractLsb'_append_eq_of_add_le, Nat.reduceLeDiff,
    Nat.reduceSub, BitVec.extractLsb'_eq_self, Nat.le_refl]
  simp_all [needZero, bne]

theorem packLaunch_maj (maj : BitVec 7) (min : BitVec 5) (sd sa sb : BitVec 6) : majOf (packLaunch maj min sd sa sb) = maj := by
  unfold majOf packLaunch
  simp only [BitVec.extractLsb'_append_eq_of_le, BitVec.extractLsb'_append_eq_of_add_le, Nat.reduceLeDiff,
    Nat.reduceSub, BitVec.extractLsb'_eq_self, Nat.le_refl]

theorem packLaunch_min (maj : BitVec 7) (min : BitVec 5) (sd sa sb : BitVec 6) : minOf (packLaunch maj min sd sa sb) = min := by
  unfold minOf packLaunch
  simp only [BitVec.extractLsb'_append_eq_of_le, BitVec.extractLsb'_append_eq_of_add_le, Nat.reduceLeDiff,
    Nat.reduceSub, BitVec.extractLsb'_eq_self, Nat.le_refl]

theorem readLaunch_packLaunch (maj : BitVec 7) (min : BitVec 5) (sd sa sb : BitVec 6) (mk : BitVec 6 → BitVec 6 → BitVec 6 → Instr) :
    readLaunch (packLaunch maj min sd sa sb) mk = .ok (mk sd sa sb) := by
  unfold readLaunch packLaunch fld
  simp only [BitVec.extractLsb'_append_eq_of_le, BitVec.extractLsb'_append_eq_of_add_le, Nat.reduceLeDiff,
    Nat.reduceSub, BitVec.extractLsb'_eq_self, Nat.le_refl]
  simp [needZero, bne]

theorem packQring_maj (maj : BitVec 7) (min : BitVec 5) (f : QringF) : majOf (packQring maj min f) = maj := by
  unfold majOf packQring
  simp only [BitVec.extractLsb'_append_eq_of_le, BitVec.extractLsb'_append_eq_of_add_le, Nat.reduceLeDiff,
    Nat.reduceSub, BitVec.extractLsb'_eq_self, Nat.le_refl]

theorem packQring_min (maj : BitVec 7) (min : BitVec 5) (f : QringF) : minOf (packQring maj min f) = min := by
  unfold minOf packQring
  simp only [BitVec.extractLsb'_append_eq_of_le, BitVec.extractLsb'_append_eq_of_add_le, Nat.reduceLeDiff,
    Nat.reduceSub, BitVec.extractLsb'_eq_self, Nat.le_refl]

theorem readQring_packQring (maj : BitVec 7) (min : BitVec 5) (f : QringF) (mk : QringF → Instr) (h : f.wf) :
    readQring (packQring maj min f) mk = .ok (mk f) := by
  unfold QringF.wf at h
  unfold readQring packQring fld
  simp only [BitVec.extractLsb'_append_eq_of_le, BitVec.extractLsb'_append_eq_of_add_le, Nat.reduceLeDiff,
    Nat.reduceSub, BitVec.extractLsb'_eq_self, Nat.le_refl]
  simp_all [needZero, bne]

/-! ## Lane words -/

section
variable (op : BitVec 7) (vd va r pred : BitVec 5) (vb : LaneSrc)

theorem laneOp_packLane : laneOp (packLane op vd va vb pred) = op := by
  unfold laneOp packLane
  cases vb <;>
  simp only [BitVec.extractLsb'_append_eq_of_le, BitVec.extractLsb'_append_eq_of_add_le, Nat.reduceLeDiff,
    Nat.reduceSub, BitVec.extractLsb'_eq_self, Nat.le_refl]

theorem laneVd_packLane : laneVd (packLane op vd va vb pred) = vd := by
  unfold laneVd packLane
  cases vb <;>
  simp only [BitVec.extractLsb'_append_eq_of_le, BitVec.extractLsb'_append_eq_of_add_le, Nat.reduceLeDiff,
    Nat.reduceSub, BitVec.extractLsb'_eq_self, Nat.le_refl]

theorem laneVa_packLane : laneVa (packLane op vd va vb pred) = va := by
  unfold laneVa packLane
  cases vb <;>
  simp only [BitVec.extractLsb'_append_eq_of_le, BitVec.extractLsb'_append_eq_of_add_le, Nat.reduceLeDiff,
    Nat.reduceSub, BitVec.extractLsb'_eq_self, Nat.le_refl]

theorem lanePred_packLane : lanePred (packLane op vd va vb pred) = pred := by
  unfold lanePred packLane
  cases vb <;>
  simp only [BitVec.extractLsb'_append_eq_of_le, BitVec.extractLsb'_append_eq_of_add_le, Nat.reduceLeDiff,
    Nat.reduceSub, BitVec.extractLsb'_eq_self, Nat.le_refl]

theorem laneVb_packLane : laneVb (packLane op vd va (.vec r) pred) = r := by
  unfold laneVb packLane
  simp only [BitVec.extractLsb'_append_eq_of_le, BitVec.extractLsb'_append_eq_of_add_le, Nat.reduceLeDiff,
    Nat.reduceSub, BitVec.extractLsb'_eq_self, Nat.le_refl]

theorem laneVb_packLane_rep (z : RepSize) : laneVb (packLane op vd va (.rep r z) pred) = r := by
  unfold laneVb packLane
  simp only [BitVec.extractLsb'_append_eq_of_le, BitVec.extractLsb'_append_eq_of_add_le, Nat.reduceLeDiff,
    Nat.reduceSub, BitVec.extractLsb'_eq_self, Nat.le_refl]

theorem laneVb_packLane_imm : laneVb (packLane op vd va (.imm r) pred) = r := by
  unfold laneVb packLane
  simp only [BitVec.extractLsb'_append_eq_of_le, BitVec.extractLsb'_append_eq_of_add_le, Nat.reduceLeDiff,
    Nat.reduceSub, BitVec.extractLsb'_eq_self, Nat.le_refl]

theorem laneVb_packLane_const : laneVb (packLane op vd va (.const r) pred) = r := by
  unfold laneVb packLane
  simp only [BitVec.extractLsb'_append_eq_of_le, BitVec.extractLsb'_append_eq_of_add_le, Nat.reduceLeDiff,
    Nat.reduceSub, BitVec.extractLsb'_eq_self, Nat.le_refl]

/-- The last three bits of a lane word whose vb is not replicated are zero. -/
theorem laneRe_field (x : BitVec 32) : laneRe x = (x.extractLsb' 2 1 == 1#1) := by
  unfold laneRe
  cases h : x.getLsbD 2 <;> simp_all [BitVec.eq_of_getLsbD_eq_iff]


theorem laneForm_vec : laneForm (packLane op vd va (.vec r) pred) = 0 := by
  unfold laneForm packLane
  simp only [BitVec.extractLsb'_append_eq_of_le, BitVec.extractLsb'_append_eq_of_add_le, Nat.reduceLeDiff,
    Nat.reduceSub, BitVec.extractLsb'_eq_self, Nat.le_refl]
  rfl

theorem laneRsz_vec : laneRsz (packLane op vd va (.vec r) pred) = 0 := by
  unfold laneRsz packLane
  simp only [BitVec.extractLsb'_append_eq_of_add_le, Nat.reduceLeDiff]
  rfl

theorem laneRe_vec : laneRe (packLane op vd va (.vec r) pred) = false := by
  rw [laneRe_field]
  unfold packLane
  simp only [BitVec.extractLsb'_append_eq_of_add_le, Nat.reduceLeDiff]
  rfl

theorem laneForm_const : laneForm (packLane op vd va (.const r) pred) = 1 := by
  unfold laneForm packLane
  simp only [BitVec.extractLsb'_append_eq_of_le, BitVec.extractLsb'_append_eq_of_add_le, Nat.reduceLeDiff,
    Nat.reduceSub, BitVec.extractLsb'_eq_self, Nat.le_refl]
  rfl

theorem laneRsz_const : laneRsz (packLane op vd va (.const r) pred) = 0 := by
  unfold laneRsz packLane
  simp only [BitVec.extractLsb'_append_eq_of_add_le, Nat.reduceLeDiff]
  rfl

theorem laneRe_const : laneRe (packLane op vd va (.const r) pred) = false := by
  rw [laneRe_field]
  unfold packLane
  simp only [BitVec.extractLsb'_append_eq_of_add_le, Nat.reduceLeDiff]
  rfl

theorem laneForm_imm : laneForm (packLane op vd va (.imm r) pred) = 2 := by
  unfold laneForm packLane
  simp only [BitVec.extractLsb'_append_eq_of_le, BitVec.extractLsb'_append_eq_of_add_le, Nat.reduceLeDiff,
    Nat.reduceSub, BitVec.extractLsb'_eq_self, Nat.le_refl]
  rfl

theorem laneRsz_imm : laneRsz (packLane op vd va (.imm r) pred) = 0 := by
  unfold laneRsz packLane
  simp only [BitVec.extractLsb'_append_eq_of_add_le, Nat.reduceLeDiff]
  rfl

theorem laneRe_imm : laneRe (packLane op vd va (.imm r) pred) = false := by
  rw [laneRe_field]
  unfold packLane
  simp only [BitVec.extractLsb'_append_eq_of_add_le, Nat.reduceLeDiff]
  rfl

theorem laneForm_rep (z : RepSize) : laneForm (packLane op vd va (.rep r z) pred) = 0 := by
  unfold laneForm packLane
  simp only [BitVec.extractLsb'_append_eq_of_le, BitVec.extractLsb'_append_eq_of_add_le, Nat.reduceLeDiff,
    Nat.reduceSub, BitVec.extractLsb'_eq_self, Nat.le_refl]
  rfl

theorem laneRsz_rep (z : RepSize) : laneRsz (packLane op vd va (.rep r z) pred) = repSizeCode z := by
  unfold laneRsz packLane
  simp only [BitVec.extractLsb'_append_eq_of_le, BitVec.extractLsb'_append_eq_of_add_le, Nat.reduceLeDiff,
    Nat.reduceSub, BitVec.extractLsb'_eq_self, Nat.le_refl]

theorem laneRe_rep (z : RepSize) : laneRe (packLane op vd va (.rep r z) pred) = true := by
  rw [laneRe_field]
  unfold packLane
  simp only [BitVec.extractLsb'_append_eq_of_le, BitVec.extractLsb'_append_eq_of_add_le, Nat.reduceLeDiff,
    Nat.reduceSub, BitVec.extractLsb'_eq_self, Nat.le_refl]
  rfl

end

theorem laneSrcOf_packLane (op : BitVec 7) (vd va pred : BitVec 5) (vb : LaneSrc) (k : LaneSrc → Except Nat Instr) :
    laneSrcOf (packLane op vd va vb pred) k = k vb := by
  unfold laneSrcOf
  cases vb with
  | vec r => simp [laneForm_vec, laneRe_vec, laneRsz_vec, laneVb_packLane, laneNeed]
  | rep r z => simp [laneForm_rep, laneRe_rep, laneRsz_rep, laneVb_packLane_rep, repSizeOf_code]
  | const r => simp [laneForm_const, laneRe_const, laneRsz_const, laneVb_packLane_const, laneNeed]
  | imm r => simp [laneForm_imm, laneRe_imm, laneRsz_imm, laneVb_packLane_imm, laneNeed]

theorem laneForm0_packLane (op : BitVec 7) (vd va r pred : BitVec 5) (k : Except Nat Instr) :
    laneForm0 (packLane op vd va (.vec r) pred) k = k := by
  unfold laneForm0
  simp [laneForm_vec, laneRe_vec, laneRsz_vec, laneNeed]

theorem predCode_toNat (p : Fin 24) : (predCode (some p)).toNat = p.val := by
  revert p; decide

theorem predCode_ne (p : Fin 24) : predCode (some p) ≠ 31 := by
  revert p; decide

theorem lanePredOf_packLane (op : BitVec 7) (vd va : BitVec 5) (vb : LaneSrc) (g : Guard)
    (k : Guard → Except Nat Instr) : lanePredOf (packLane op vd va vb (predCode g)) k = k g := by
  unfold lanePredOf
  rw [lanePred_packLane]
  cases g with
  | none => rfl
  | some p =>
    rw [if_neg (predCode_ne p), dif_pos (by rw [predCode_toNat]; exact p.isLt)]
    congr 2
    exact Fin.ext (predCode_toNat p)

theorem lanePredReq_packLane (op : BitVec 7) (vd va : BitVec 5) (vb : LaneSrc) (p : Fin 24)
    (k : Fin 24 → Except Nat Instr) : lanePredReq (packLane op vd va vb (predCode (some p))) k = k p := by
  unfold lanePredReq
  rw [lanePred_packLane, dif_pos (by rw [predCode_toNat]; exact p.isLt)]
  congr 1
  exact Fin.ext (predCode_toNat p)

theorem packL3_op (op : BitVec 7) (f : L3) : laneOp (packL3 op f) = op := by
  unfold packL3
  exact laneOp_packLane _ _ _ _ _

theorem readL3_packL3 (op : BitVec 7) (f : L3) (mk : L3 → Instr) : readL3 (packL3 op f) mk = .ok (mk f) := by
  unfold readL3 packL3
  simp [laneSrcOf_packLane, lanePredOf_packLane, lanePredReq_packLane, laneForm0_packLane, laneVd_packLane, laneVa_packLane,
    laneVb_packLane, laneVb_packLane_imm, laneVb_packLane_rep, lanePred_packLane, laneForm_imm, laneForm_vec, laneForm_rep, laneRe_imm, laneRe_vec, laneRe_rep, laneRsz_imm,
    laneRsz_vec, laneRsz_rep, repSizeOf_code, laneNeed]

theorem packL2_op (op : BitVec 7) (f : L2) : laneOp (packL2 op f) = op := by
  unfold packL2
  exact laneOp_packLane _ _ _ _ _

theorem readL2_packL2 (op : BitVec 7) (f : L2) (mk : L2 → Instr) : readL2 (packL2 op f) mk = .ok (mk f) := by
  unfold readL2 packL2
  simp [laneSrcOf_packLane, lanePredOf_packLane, lanePredReq_packLane, laneForm0_packLane, laneVd_packLane, laneVa_packLane,
    laneVb_packLane, laneVb_packLane_imm, laneVb_packLane_rep, lanePred_packLane, laneForm_imm, laneForm_vec, laneForm_rep, laneRe_imm, laneRe_vec, laneRe_rep, laneRsz_imm,
    laneRsz_vec, laneRsz_rep, repSizeOf_code, laneNeed]

theorem packLcvt_op (op : BitVec 7) (f : LcvtF) : laneOp (packLcvt op f) = op := by
  unfold packLcvt
  exact laneOp_packLane _ _ _ _ _

theorem readLcvt_packLcvt (op : BitVec 7) (f : LcvtF) (mk : LcvtF → Instr) : readLcvt (packLcvt op f) mk = .ok (mk f) := by
  unfold readLcvt packLcvt
  simp [laneSrcOf_packLane, lanePredOf_packLane, lanePredReq_packLane, laneForm0_packLane, laneVd_packLane, laneVa_packLane,
    laneVb_packLane, laneVb_packLane_imm, laneVb_packLane_rep, lanePred_packLane, laneForm_imm, laneForm_vec, laneForm_rep, laneRe_imm, laneRe_vec, laneRe_rep, laneRsz_imm,
    laneRsz_vec, laneRsz_rep, repSizeOf_code, laneNeed]

theorem packLp3_op (op : BitVec 7) (f : Lp3) : laneOp (packLp3 op f) = op := by
  unfold packLp3
  exact laneOp_packLane _ _ _ _ _

theorem readLp3_packLp3 (op : BitVec 7) (f : Lp3) (mk : Lp3 → Instr) : readLp3 (packLp3 op f) mk = .ok (mk f) := by
  unfold readLp3 packLp3
  simp [laneSrcOf_packLane, lanePredOf_packLane, lanePredReq_packLane, laneForm0_packLane, laneVd_packLane, laneVa_packLane,
    laneVb_packLane, laneVb_packLane_imm, laneVb_packLane_rep, lanePred_packLane, laneForm_imm, laneForm_vec, laneForm_rep, laneRe_imm, laneRe_vec, laneRe_rep, laneRsz_imm,
    laneRsz_vec, laneRsz_rep, repSizeOf_code, laneNeed]

theorem packLsel_op (op : BitVec 7) (f : LselF) : laneOp (packLsel op f) = op := by
  unfold packLsel
  exact laneOp_packLane _ _ _ _ _

theorem readLsel_packLsel (op : BitVec 7) (f : LselF) (mk : LselF → Instr) : readLsel (packLsel op f) mk = .ok (mk f) := by
  unfold readLsel packLsel
  simp [laneSrcOf_packLane, lanePredOf_packLane, lanePredReq_packLane, laneForm0_packLane, laneVd_packLane, laneVa_packLane,
    laneVb_packLane, laneVb_packLane_imm, laneVb_packLane_rep, lanePred_packLane, laneForm_imm, laneForm_vec, laneForm_rep, laneRe_imm, laneRe_vec, laneRe_rep, laneRsz_imm,
    laneRsz_vec, laneRsz_rep, repSizeOf_code, laneNeed]

theorem packLmov_op (op : BitVec 7) (f : LmovF) : laneOp (packLmov op f) = op := by
  unfold packLmov
  exact laneOp_packLane _ _ _ _ _

theorem readLmov_packLmov (op : BitVec 7) (f : LmovF) (mk : LmovF → Instr) : readLmov (packLmov op f) mk = .ok (mk f) := by
  unfold readLmov packLmov
  simp [laneSrcOf_packLane, lanePredOf_packLane, lanePredReq_packLane, laneForm0_packLane, laneVd_packLane, laneVa_packLane,
    laneVb_packLane, laneVb_packLane_imm, laneVb_packLane_rep, lanePred_packLane, laneForm_imm, laneForm_vec, laneForm_rep, laneRe_imm, laneRe_vec, laneRe_rep, laneRsz_imm,
    laneRsz_vec, laneRsz_rep, repSizeOf_code, laneNeed]

theorem packLidx_op (op : BitVec 7) (vd : BitVec 5) (guard : Guard) : laneOp (packLidx op vd guard) = op := by
  unfold packLidx
  exact laneOp_packLane _ _ _ _ _

theorem readLidx_packLidx (op : BitVec 7) (vd : BitVec 5) (guard : Guard) (mk : BitVec 5 → Guard → Instr) : readLidx (packLidx op vd guard) mk = .ok (mk vd guard) := by
  unfold readLidx packLidx
  simp [laneSrcOf_packLane, lanePredOf_packLane, lanePredReq_packLane, laneForm0_packLane, laneVd_packLane, laneVa_packLane,
    laneVb_packLane, laneVb_packLane_imm, laneVb_packLane_rep, lanePred_packLane, laneForm_imm, laneForm_vec, laneForm_rep, laneRe_imm, laneRe_vec, laneRe_rep, laneRsz_imm,
    laneRsz_vec, laneRsz_rep, repSizeOf_code, laneNeed]

theorem packLperm_op (op : BitVec 7) (f : LpermF) : laneOp (packLperm op f) = op := by
  unfold packLperm
  exact laneOp_packLane _ _ _ _ _

theorem readLperm_packLperm (op : BitVec 7) (f : LpermF) (mk : LpermF → Instr) : readLperm (packLperm op f) mk = .ok (mk f) := by
  obtain ⟨vd, va, vb, rep, g⟩ := f
  unfold readLperm packLperm
  cases rep <;>
  simp [laneSrcOf_packLane, lanePredOf_packLane, lanePredReq_packLane, laneForm0_packLane, laneVd_packLane, laneVa_packLane,
    laneVb_packLane, laneVb_packLane_imm, laneVb_packLane_rep, lanePred_packLane, laneForm_imm, laneForm_vec, laneForm_rep, laneRe_imm, laneRe_vec, laneRe_rep, laneRsz_imm,
    laneRsz_vec, laneRsz_rep, repSizeOf_code, laneNeed]

theorem packLcomp_op (op : BitVec 7) (f : LcompF) : laneOp (packLcomp op f) = op := by
  unfold packLcomp
  exact laneOp_packLane _ _ _ _ _

theorem readLcomp_packLcomp (op : BitVec 7) (f : LcompF) (mk : LcompF → Instr) : readLcomp (packLcomp op f) mk = .ok (mk f) := by
  unfold readLcomp packLcomp
  simp [laneSrcOf_packLane, lanePredOf_packLane, lanePredReq_packLane, laneForm0_packLane, laneVd_packLane, laneVa_packLane,
    laneVb_packLane, laneVb_packLane_imm, laneVb_packLane_rep, lanePred_packLane, laneForm_imm, laneForm_vec, laneForm_rep, laneRe_imm, laneRe_vec, laneRe_rep, laneRsz_imm,
    laneRsz_vec, laneRsz_rep, repSizeOf_code, laneNeed]

theorem packLcfg_op (op : BitVec 7) (f : LcfgF) : laneOp (packLcfg op f) = op := by
  unfold packLcfg
  exact laneOp_packLane _ _ _ _ _

theorem readLcfg_packLcfg (op : BitVec 7) (f : LcfgF) (mk : LcfgF → Instr) : readLcfg (packLcfg op f) mk = .ok (mk f) := by
  obtain ⟨ty, fzi, fzo, xrm⟩ := f
  unfold readLcfg packLcfg
  simp only [laneSrcOf_packLane, lanePredOf_packLane, lanePredReq_packLane, laneForm0_packLane, laneVd_packLane, laneVa_packLane,
    laneVb_packLane, laneVb_packLane_imm, laneVb_packLane_rep, lanePred_packLane, laneForm_imm, laneForm_vec, laneForm_rep, laneRe_imm, laneRe_vec, laneRe_rep, laneRsz_imm,
    laneRsz_vec, laneRsz_rep, repSizeOf_code, laneNeed]
  have h0 : ∀ a b : Bool, ∀ x : BitVec 2, (b1 a ++ b1 b ++ x ++ 0#1 : BitVec 5).getLsbD 0 = false := by decide
  have h4 : ∀ a b : Bool, ∀ x : BitVec 2, (b1 a ++ b1 b ++ x ++ 0#1 : BitVec 5).getLsbD 4 = a := by decide
  have h3 : ∀ a b : Bool, ∀ x : BitVec 2, (b1 a ++ b1 b ++ x ++ 0#1 : BitVec 5).getLsbD 3 = b := by decide
  have h1 : ∀ a b : Bool, ∀ x : BitVec 2, (b1 a ++ b1 b ++ x ++ 0#1 : BitVec 5).extractLsb' 1 2 = x := by decide
  rw [h0, h4, h3, h1]
  rfl

theorem packLret_op (op : BitVec 7) (va : BitVec 5) : laneOp (packLret op va) = op := by
  unfold packLret
  exact laneOp_packLane _ _ _ _ _

theorem readLret_packLret (op : BitVec 7) (va : BitVec 5) (mk : BitVec 5 → Instr) : readLret (packLret op va) mk = .ok (mk va) := by
  unfold readLret packLret
  simp [laneSrcOf_packLane, lanePredOf_packLane, lanePredReq_packLane, laneForm0_packLane, laneVd_packLane, laneVa_packLane,
    laneVb_packLane, laneVb_packLane_imm, laneVb_packLane_rep, lanePred_packLane, laneForm_imm, laneForm_vec, laneForm_rep, laneRe_imm, laneRe_vec, laneRe_rep, laneRsz_imm,
    laneRsz_vec, laneRsz_rep, repSizeOf_code, laneNeed]

theorem packLnop_op (op : BitVec 7) : laneOp (packLnop op) = op := by
  unfold packLnop
  exact laneOp_packLane _ _ _ _ _

theorem readLnop_packLnop (op : BitVec 7) (i : Instr) : readLnop (packLnop op) i = .ok i := by
  unfold readLnop packLnop
  simp [laneSrcOf_packLane, lanePredOf_packLane, lanePredReq_packLane, laneForm0_packLane, laneVd_packLane, laneVa_packLane,
    laneVb_packLane, laneVb_packLane_imm, laneVb_packLane_rep, lanePred_packLane, laneForm_imm, laneForm_vec, laneForm_rep, laneRe_imm, laneRe_vec, laneRe_rep, laneRsz_imm,
    laneRsz_vec, laneRsz_rep, repSizeOf_code, laneNeed]

end Sys2Proof.Laws
end

