-- ==== Sys2Proof/Laws/Memory.lean ====
section
/-!
SUPPORT. Laws of memory and of the keyed tables: the canonical form is kept, a read after a write, and what the
device's own reports change.
-/
namespace Sys2Proof.Laws

open Sys2Proof Sys2Proof.Machine

/-! ## Keyed tables -/

theorem tabGet_tabSet_same {α : Type} (t : List (Nat × α)) (k : Nat) (v d : α) : tabGet (tabSet t k v) k d = v := by
  induction t with
  | nil => simp [tabSet, tabGet]
  | cons x r ih =>
    obtain ⟨j, w⟩ := x
    simp only [tabSet]
    split
    · simp [tabGet]
    · split
      · simp [tabGet]
      · simp_all [tabGet]

theorem tabGet_tabSet_other {α : Type} (t : List (Nat × α)) (k i : Nat) (v d : α) (h : i ≠ k) :
    tabGet (tabSet t k v) i d = tabGet t i d := by
  induction t with
  | nil => simp [tabSet, tabGet, Ne.symm h]
  | cons x r ih =>
    obtain ⟨j, w⟩ := x
    simp only [tabSet]
    split
    · rename_i hj; subst hj; simp [tabGet, Ne.symm h]
    · split
      · simp [tabGet, Ne.symm h]
      · simp [tabGet, ih]

theorem tabSet_twice {α : Type} (t : List (Nat × α)) (k : Nat) (v w : α) : tabSet (tabSet t k v) k w = tabSet t k w := by
  induction t with
  | nil => simp [tabSet]
  | cons x r ih =>
    obtain ⟨j, u⟩ := x
    by_cases h1 : j = k
    · simp [tabSet, h1]
    · by_cases h2 : k < j
      · simp [tabSet, h1, h2]
      · simp [tabSet, h1, h2, ih]

/-! ## The canonical form -/

theorem memSorted_le {m : List Host.Cell} {a b : Nat} (h : a ≤ b) (hm : memSorted b m = true) : memSorted a m = true := by
  cases m with
  | nil => rfl
  | cons x r =>
    simp only [memSorted, Bool.and_eq_true, decide_eq_true_eq] at *
    exact ⟨⟨by omega, hm.1.2⟩, hm.2⟩

theorem memSorted_write (m : List Host.Cell) (lo a : Nat) (b : Byte) (hl : lo ≤ a) (hm : memSorted lo m = true) :
    memSorted lo (memWrite m a b) = true := by
  induction m generalizing lo with
  | nil => simp only [memWrite]; split <;> simp_all [memSorted]
  | cons x r ih =>
    obtain ⟨k, v⟩ := x
    simp only [memSorted, Bool.and_eq_true, decide_eq_true_eq] at hm
    simp only [memWrite]
    split
    · split
      · simp_all [memSorted]
      · simp_all [memSorted, Nat.succ_le_iff]
    · split
      · split
        · exact memSorted_le (by omega) hm.2
        · simp_all [memSorted]
      · simp only [memSorted, Bool.and_eq_true, decide_eq_true_eq]
        exact ⟨hm.1, ih (k + 1) (by omega) hm.2⟩

theorem memWf_write {m : List Host.Cell} (a : Nat) (b : Byte) (h : memWf m = true) : memWf (memWrite m a b) = true :=
  memSorted_write m 0 a b (Nat.zero_le a) h

theorem memWf_store {m : List Host.Cell} (a : Nat) (bs : List Byte) (h : memWf m = true) :
    memWf (memStore m a bs) = true := by
  induction bs generalizing m a with
  | nil => exact h
  | cons b r ih => exact ih _ (memWf_write a b h)

theorem memSorted_filter (p : Host.Cell → Bool) (m : List Host.Cell) (lo : Nat) (h : memSorted lo m = true) :
    memSorted lo (m.filter p) = true := by
  induction m generalizing lo with
  | nil => rfl
  | cons x r ih =>
    obtain ⟨k, v⟩ := x
    simp only [memSorted, Bool.and_eq_true, decide_eq_true_eq] at h
    simp only [List.filter]
    split
    · simp only [memSorted, Bool.and_eq_true, decide_eq_true_eq]; exact ⟨h.1, ih _ h.2⟩
    · exact memSorted_le (by omega) (ih _ h.2)

theorem memWf_filter {m : List Host.Cell} (p : Host.Cell → Bool) (h : memWf m = true) : memWf (m.filter p) = true :=
  memSorted_filter p m 0 h

theorem memWf_reset : memWf State.reset.mem = true := rfl

/-! ## Reading what was written -/

theorem memRead_below {m : List Host.Cell} {lo a : Nat} (h : memSorted lo m = true) (ha : a < lo) :
    memRead m a = memDefault := by
  cases m with
  | nil => rfl
  | cons x r =>
    obtain ⟨k, v⟩ := x
    simp only [memSorted, Bool.and_eq_true, decide_eq_true_eq] at h
    have h1 : ¬k = a := by omega
    have h2 : a < k := by omega
    simp [memRead, h1, h2]

theorem memRead_write_same {m : List Host.Cell} {lo : Nat} (h : memSorted lo m = true) (a : Nat) (b : Byte) :
    memRead (memWrite m a b) a = b := by
  induction m generalizing lo with
  | nil => simp only [memWrite]; split <;> simp_all [memRead]
  | cons x r ih =>
    obtain ⟨k, v⟩ := x
    simp only [memSorted, Bool.and_eq_true, decide_eq_true_eq] at h
    simp only [memWrite]
    split
    · rename_i hk
      have hn : ¬k = a := by omega
      split <;> simp_all [memRead]
    · split
      · rename_i hk
        subst hk
        split
        · rename_i hb; subst hb; exact memRead_below h.2 (Nat.lt_succ_self a)
        · simp [memRead]
      · rename_i h1 h2
        have e1 : ¬k = a := fun e => h2 e.symm
        simp [memRead, e1, h1, ih h.2]

theorem memRead_write_other {m : List Host.Cell} {lo : Nat} (h : memSorted lo m = true) (a c : Nat) (b : Byte) (hc : c ≠ a) :
    memRead (memWrite m a b) c = memRead m c := by
  induction m generalizing lo with
  | nil =>
    simp only [memWrite]
    split
    · rfl
    · simp [memRead, Ne.symm hc]
  | cons x r ih =>
    obtain ⟨k, v⟩ := x
    simp only [memSorted, Bool.and_eq_true, decide_eq_true_eq] at h
    simp only [memWrite]
    split
    · rename_i hk
      split
      · rfl
      · by_cases h1 : c < a
        · have e1 : ¬k = c := by omega
          have e2 : c < k := by omega
          have e3 : ¬a = c := by omega
          simp [memRead, e1, e2, e3, h1]
        · have e3 : ¬a = c := by omega
          rw [memRead, if_neg e3, if_neg h1]
    · split
      · rename_i hk
        subst hk
        split
        · by_cases h1 : c < a
          · rw [memRead_below h.2 (by omega)]; simp [memRead, Ne.symm hc, h1]
          · simp [memRead, Ne.symm hc, h1]
        · simp [memRead, Ne.symm hc]
      · simp only [memRead]
        split
        · rfl
        · split
          · rfl
          · exact ih h.2

theorem memRead_store_other {m : List Host.Cell} (h : memWf m = true) (a : Nat) (bs : List Byte) (c : Nat)
    (hc : c < a ∨ a + bs.length ≤ c) : memRead (memStore m a bs) c = memRead m c := by
  induction bs generalizing m a with
  | nil => rfl
  | cons b r ih =>
    simp only [List.length_cons] at hc
    rw [memStore, ih (memWf_write a b h) (a + 1) (by omega), memRead_write_other h a c b (by omega)]

theorem memBytes_store_other {m : List Host.Cell} (h : memWf m = true) (a : Nat) (bs : List Byte) (c n : Nat)
    (hc : c + n ≤ a ∨ a + bs.length ≤ c) : memBytes (memStore m a bs) c n = memBytes m c n := by
  induction n generalizing c with
  | zero => rfl
  | succ k ih => simp only [memBytes]; rw [ih (c + 1) (by omega), memRead_store_other h a bs c (by omega)]

theorem memBytes_store_same {m : List Host.Cell} (h : memWf m = true) (a : Nat) (bs : List Byte) :
    memBytes (memStore m a bs) a bs.length = bs := by
  induction bs generalizing m a with
  | nil => rfl
  | cons b r ih =>
    simp only [memStore, List.length_cons, memBytes]
    rw [memRead_store_other (memWf_write a b h) (a + 1) r a (Or.inl (Nat.lt_succ_self a)),
      memRead_write_same h a b, ih (memWf_write a b h) (a + 1)]

theorem memBytes_length (m : List Host.Cell) (a n : Nat) : (memBytes m a n).length = n := by
  induction n generalizing a with
  | zero => rfl
  | succ k ih => simp [memBytes, ih]

theorem leBytes_length (n x : Nat) : (leBytes n x).length = n := by
  induction n generalizing x with
  | zero => rfl
  | succ k ih => simp [leBytes, ih]

theorem leNat_leBytes (n x : Nat) : leNat (leBytes n x) = x % 256 ^ n := by
  induction n generalizing x with
  | zero => simp [leBytes, leNat, Nat.mod_one]
  | succ k ih =>
    have h : (256 : Nat) ^ (k + 1) = 256 * 256 ^ k := by rw [Nat.pow_succ, Nat.mul_comm]
    rw [h, Nat.mod_mul]
    simp only [leBytes, leNat, ih, BitVec.toNat_ofNat]

theorem leBytes_leNat (bs : List Byte) : leBytes bs.length (leNat bs) = bs := by
  induction bs with
  | nil => rfl
  | cons b r ih =>
    have h : b.toNat < 256 := b.isLt
    simp only [List.length_cons, leBytes, leNat]
    refine List.cons_eq_cons.mpr ⟨?_, ?_⟩
    · apply BitVec.eq_of_toNat_eq; simpa [Nat.add_mul_mod_self_left] using h
    · rw [show (b.toNat + 256 * leNat r) / 256 = leNat r by omega]; exact ih

/-! ## Writes at the home slice and the device's reports -/

/-- A write at the home slice changes only memory and what watches it. -/
theorem homeWrite_frame (s : State) (who : Agent) (pa : Nat) (bs : List Byte) :
    (homeWrite s who pa bs).mem = memStore s.mem pa bs ∧ (homeWrite s who pa bs).me = s.me ∧
    (homeWrite s who pa bs).others = s.others ∧ (homeWrite s who pa bs).ctl = s.ctl ∧
    (homeWrite s who pa bs).groups = s.groups ∧ (homeWrite s who pa bs).launches = s.launches ∧
    (homeWrite s who pa bs).queues = s.queues ∧ (homeWrite s who pa bs).contexts = s.contexts ∧
    (homeWrite s who pa bs).kernels = s.kernels ∧ (homeWrite s who pa bs).banks = s.banks ∧
    (homeWrite s who pa bs).objWaits = s.objWaits ∧ (homeWrite s who pa bs).ports = s.ports := by
  unfold homeWrite
  by_cases h : bs.length = 0
  · rw [List.length_eq_zero_iff] at h; subst h; simp [memStore]
  · simp [h]

theorem homeWrite_memWf {s : State} (who : Agent) (pa : Nat) (bs : List Byte) (h : memWf s.mem = true) :
    memWf (homeWrite s who pa bs).mem = true := by
  rw [(homeWrite_frame s who pa bs).1]; exact memWf_store pa bs h

theorem signal_frame (s : State) (v : BitVec 11) :
    signal s v = { s with pba := (signal s v).pba, signals := (signal s v).signals } := by
  unfold signal; simp only; split
  · split <;> rfl
  · rfl

/-- A message on a port changes the port's replay buffer and what has been sent. -/
theorem sendMessage_frame (s : State) (p : BitVec 4) (m : LvMsg) :
    sendMessage s p m = { s with ports := (sendMessage s p m).ports, sent := (sendMessage s p m).sent } := by
  unfold sendMessage setPort; simp only; split <;> rfl

theorem sendRequest_frame (s : State) (r : ExtRequest) :
    sendRequest s r = { s with ports := (sendRequest s r).ports, sent := (sendRequest s r).sent } := by
  unfold sendRequest; split
  · exact sendMessage_frame _ _ _
  · rfl

/-- An access beyond the package changes the ports, what has been sent and the outstanding requests, and nothing else. -/
theorem extRequest_frame (s : State) (a : ExtAgent) (pa : Nat) (op : ExtOp) :
    extRequest s a pa op = { s with
      ports := (extRequest s a pa op).ports, sent := (extRequest s a pa op).sent
      requests := (extRequest s a pa op).requests, nextReq := (extRequest s a pa op).nextReq } := by
  unfold extRequest; simp only; split
  · rw [sendRequest_frame]
  · rw [sendRequest_frame]
  · rfl

/-- Whatever every step of a fold leaves as it is, the fold does. -/
theorem foldl_keeps {α β : Type} (g : State → β) (f : State → α → State) (h : ∀ s x, g (f s x) = g s) (l : List α) (s : State) :
    g (l.foldl f s) = g s := by
  induction l generalizing s with
  | nil => rfl
  | cons x r ih => exact (ih (f s x)).trans (h s x)

end Sys2Proof.Laws
end

