-- ==== Sys2Proof/Laws/State.lean ====
section
/-!
SUPPORT. What each update of the state leaves in each field: one simp lemma per field per update, so that no proof
about an instruction unfolds a record update.
-/
namespace Sys2Proof.Laws

open Sys2Proof Sys2Proof.Machine


/-! ## Block.advance -/

@[simp] theorem advanceBlock_slot (b : Block) : b.advance.slot = b.slot := rfl
@[simp] theorem advanceBlock_ctx (b : Block) : b.advance.ctx = b.ctx := rfl
@[simp] theorem advanceBlock_kernel (b : Block) : b.advance.kernel = b.kernel := rfl
@[simp] theorem advanceBlock_gid (b : Block) : b.advance.gid = b.gid := rfl
@[simp] theorem advanceBlock_bid (b : Block) : b.advance.bid = b.bid := rfl
@[simp] theorem advanceBlock_gidReg (b : Block) : b.advance.gidReg = b.gidReg := rfl
@[simp] theorem advanceBlock_bndid (b : Block) : b.advance.bndid = b.bndid := rfl
@[simp] theorem advanceBlock_lseq (b : Block) : b.advance.lseq = b.lseq := rfl
@[simp] theorem advanceBlock_rsv (b : Block) : b.advance.rsv = b.rsv := rfl
@[simp] theorem advanceBlock_loops (b : Block) : b.advance.loops = b.loops := rfl
@[simp] theorem advanceBlock_sregs (b : Block) : b.advance.sregs = b.sregs := rfl
@[simp] theorem advanceBlock_hregs (b : Block) : b.advance.hregs = b.hregs := rfl
@[simp] theorem advanceBlock_shapes (b : Block) : b.advance.shapes = b.shapes := rfl
@[simp] theorem advanceBlock_names (b : Block) : b.advance.names = b.names := rfl
@[simp] theorem advanceBlock_versions (b : Block) : b.advance.versions = b.versions := rfl
@[simp] theorem advanceBlock_streams (b : Block) : b.advance.streams = b.streams := rfl
@[simp] theorem advanceBlock_tags (b : Block) : b.advance.tags = b.tags := rfl
@[simp] theorem advanceBlock_lstat (b : Block) : b.advance.lstat = b.lstat := rfl
@[simp] theorem advanceBlock_vtype (b : Block) : b.advance.vtype = b.vtype := rfl
@[simp] theorem advanceBlock_vtypeOf (b : Block) : b.advance.vtypeOf = b.vtypeOf := rfl
@[simp] theorem advanceBlock_region (b : Block) : b.advance.region = b.region := rfl
@[simp] theorem advanceBlock_cairn (b : Block) : b.advance.cairn = b.cairn := rfl
@[simp] theorem advanceBlock_rollbacks (b : Block) : b.advance.rollbacks = b.rollbacks := rfl
@[simp] theorem advanceBlock_trapRec (b : Block) : b.advance.trapRec = b.trapRec := rfl
@[simp] theorem advanceBlock_inHandler (b : Block) : b.advance.inHandler = b.inHandler := rfl
@[simp] theorem advanceBlock_savedPc (b : Block) : b.advance.savedPc = b.savedPc := rfl
@[simp] theorem advanceBlock_savedLoops (b : Block) : b.advance.savedLoops = b.savedLoops := rfl
@[simp] theorem advanceBlock_trapped (b : Block) : b.advance.trapped = b.trapped := rfl
@[simp] theorem advanceBlock_flights (b : Block) : b.advance.flights = b.flights := rfl
@[simp] theorem advanceBlock_nextId (b : Block) : b.advance.nextId = b.nextId := rfl
@[simp] theorem advanceBlock_due (b : Block) : b.advance.due = b.due := rfl
@[simp] theorem advanceBlock_token (b : Block) : b.advance.token = b.token := rfl
@[simp] theorem advanceBlock_holding (b : Block) : b.advance.holding = b.holding := rfl
@[simp] theorem advanceBlock_channels (b : Block) : b.advance.channels = b.channels := rfl
@[simp] theorem advanceBlock_preempt (b : Block) : b.advance.preempt = b.preempt := rfl
@[simp] theorem advanceBlock_graceOver (b : Block) : b.advance.graceOver = b.graceOver := rfl
@[simp] theorem advanceBlock_atPoint (b : Block) : b.advance.atPoint = b.atPoint := rfl
@[simp] theorem advanceBlock_roll (b : Block) : b.advance.roll = b.roll := rfl
@[simp] theorem advanceBlock_fillWait (b : Block) : b.advance.fillWait = b.fillWait := rfl
@[simp] theorem advanceBlock_cbClaim (b : Block) : b.advance.cbClaim = b.cbClaim := rfl
@[simp] theorem advanceBlock_posted (b : Block) : b.advance.posted = b.posted := rfl
@[simp] theorem advanceBlock_relBound (b : Block) : b.advance.relBound = b.relBound := rfl
@[simp] theorem advanceBlock_pc (b : Block) : b.advance.pc = b.pc + 8 := rfl
@[simp] theorem advanceBlock_wait (b : Block) : b.advance.wait = .none := rfl
@[simp] theorem advanceBlock_renames (b : Block) : b.advance.renames = [] := rfl
@[simp] theorem advanceBlock_asks (b : Block) : b.advance.asks = b.asks.filter fun a => a.flight.isSome := rfl

/-! ## Block.park -/

@[simp] theorem park_slot (b : Block) (w : Wait) : (b.park w).slot = b.slot := rfl
@[simp] theorem park_ctx (b : Block) (w : Wait) : (b.park w).ctx = b.ctx := rfl
@[simp] theorem park_kernel (b : Block) (w : Wait) : (b.park w).kernel = b.kernel := rfl
@[simp] theorem park_gid (b : Block) (w : Wait) : (b.park w).gid = b.gid := rfl
@[simp] theorem park_bid (b : Block) (w : Wait) : (b.park w).bid = b.bid := rfl
@[simp] theorem park_gidReg (b : Block) (w : Wait) : (b.park w).gidReg = b.gidReg := rfl
@[simp] theorem park_bndid (b : Block) (w : Wait) : (b.park w).bndid = b.bndid := rfl
@[simp] theorem park_lseq (b : Block) (w : Wait) : (b.park w).lseq = b.lseq := rfl
@[simp] theorem park_rsv (b : Block) (w : Wait) : (b.park w).rsv = b.rsv := rfl
@[simp] theorem park_pc (b : Block) (w : Wait) : (b.park w).pc = b.pc := rfl
@[simp] theorem park_loops (b : Block) (w : Wait) : (b.park w).loops = b.loops := rfl
@[simp] theorem park_sregs (b : Block) (w : Wait) : (b.park w).sregs = b.sregs := rfl
@[simp] theorem park_hregs (b : Block) (w : Wait) : (b.park w).hregs = b.hregs := rfl
@[simp] theorem park_shapes (b : Block) (w : Wait) : (b.park w).shapes = b.shapes := rfl
@[simp] theorem park_names (b : Block) (w : Wait) : (b.park w).names = b.names := rfl
@[simp] theorem park_versions (b : Block) (w : Wait) : (b.park w).versions = b.versions := rfl
@[simp] theorem park_streams (b : Block) (w : Wait) : (b.park w).streams = b.streams := rfl
@[simp] theorem park_tags (b : Block) (w : Wait) : (b.park w).tags = b.tags := rfl
@[simp] theorem park_lstat (b : Block) (w : Wait) : (b.park w).lstat = b.lstat := rfl
@[simp] theorem park_vtype (b : Block) (w : Wait) : (b.park w).vtype = b.vtype := rfl
@[simp] theorem park_vtypeOf (b : Block) (w : Wait) : (b.park w).vtypeOf = b.vtypeOf := rfl
@[simp] theorem park_region (b : Block) (w : Wait) : (b.park w).region = b.region := rfl
@[simp] theorem park_cairn (b : Block) (w : Wait) : (b.park w).cairn = b.cairn := rfl
@[simp] theorem park_rollbacks (b : Block) (w : Wait) : (b.park w).rollbacks = b.rollbacks := rfl
@[simp] theorem park_trapRec (b : Block) (w : Wait) : (b.park w).trapRec = b.trapRec := rfl
@[simp] theorem park_inHandler (b : Block) (w : Wait) : (b.park w).inHandler = b.inHandler := rfl
@[simp] theorem park_savedPc (b : Block) (w : Wait) : (b.park w).savedPc = b.savedPc := rfl
@[simp] theorem park_savedLoops (b : Block) (w : Wait) : (b.park w).savedLoops = b.savedLoops := rfl
@[simp] theorem park_trapped (b : Block) (w : Wait) : (b.park w).trapped = b.trapped := rfl
@[simp] theorem park_flights (b : Block) (w : Wait) : (b.park w).flights = b.flights := rfl
@[simp] theorem park_nextId (b : Block) (w : Wait) : (b.park w).nextId = b.nextId := rfl
@[simp] theorem park_due (b : Block) (w : Wait) : (b.park w).due = b.due := rfl
@[simp] theorem park_token (b : Block) (w : Wait) : (b.park w).token = b.token := rfl
@[simp] theorem park_holding (b : Block) (w : Wait) : (b.park w).holding = b.holding := rfl
@[simp] theorem park_channels (b : Block) (w : Wait) : (b.park w).channels = b.channels := rfl
@[simp] theorem park_preempt (b : Block) (w : Wait) : (b.park w).preempt = b.preempt := rfl
@[simp] theorem park_graceOver (b : Block) (w : Wait) : (b.park w).graceOver = b.graceOver := rfl
@[simp] theorem park_atPoint (b : Block) (w : Wait) : (b.park w).atPoint = b.atPoint := rfl
@[simp] theorem park_roll (b : Block) (w : Wait) : (b.park w).roll = b.roll := rfl
@[simp] theorem park_fillWait (b : Block) (w : Wait) : (b.park w).fillWait = b.fillWait := rfl
@[simp] theorem park_cbClaim (b : Block) (w : Wait) : (b.park w).cbClaim = b.cbClaim := rfl
@[simp] theorem park_posted (b : Block) (w : Wait) : (b.park w).posted = b.posted := rfl
@[simp] theorem park_asks (b : Block) (w : Wait) : (b.park w).asks = b.asks := rfl
@[simp] theorem park_relBound (b : Block) (w : Wait) : (b.park w).relBound = b.relBound := rfl
@[simp] theorem park_renames (b : Block) (w : Wait) : (b.park w).renames = b.renames := rfl
@[simp] theorem park_wait (b : Block) (w : Wait) : (b.park w).wait = w := rfl

/-! ## setName -/

@[simp] theorem setName_slot (b : Block) (t : BitVec 5) (n : Option TileName) : (setName b t n).slot = b.slot := rfl
@[simp] theorem setName_st (b : Block) (t : BitVec 5) (n : Option TileName) : (setName b t n).st = b.st := rfl
@[simp] theorem setName_ctx (b : Block) (t : BitVec 5) (n : Option TileName) : (setName b t n).ctx = b.ctx := rfl
@[simp] theorem setName_kernel (b : Block) (t : BitVec 5) (n : Option TileName) : (setName b t n).kernel = b.kernel := rfl
@[simp] theorem setName_gid (b : Block) (t : BitVec 5) (n : Option TileName) : (setName b t n).gid = b.gid := rfl
@[simp] theorem setName_bid (b : Block) (t : BitVec 5) (n : Option TileName) : (setName b t n).bid = b.bid := rfl
@[simp] theorem setName_gidReg (b : Block) (t : BitVec 5) (n : Option TileName) : (setName b t n).gidReg = b.gidReg := rfl
@[simp] theorem setName_bndid (b : Block) (t : BitVec 5) (n : Option TileName) : (setName b t n).bndid = b.bndid := rfl
@[simp] theorem setName_lseq (b : Block) (t : BitVec 5) (n : Option TileName) : (setName b t n).lseq = b.lseq := rfl
@[simp] theorem setName_rsv (b : Block) (t : BitVec 5) (n : Option TileName) : (setName b t n).rsv = b.rsv := rfl
@[simp] theorem setName_pc (b : Block) (t : BitVec 5) (n : Option TileName) : (setName b t n).pc = b.pc := rfl
@[simp] theorem setName_loops (b : Block) (t : BitVec 5) (n : Option TileName) : (setName b t n).loops = b.loops := rfl
@[simp] theorem setName_sregs (b : Block) (t : BitVec 5) (n : Option TileName) : (setName b t n).sregs = b.sregs := rfl
@[simp] theorem setName_hregs (b : Block) (t : BitVec 5) (n : Option TileName) : (setName b t n).hregs = b.hregs := rfl
@[simp] theorem setName_shapes (b : Block) (t : BitVec 5) (n : Option TileName) : (setName b t n).shapes = b.shapes := rfl
@[simp] theorem setName_versions (b : Block) (t : BitVec 5) (n : Option TileName) : (setName b t n).versions = b.versions := rfl
@[simp] theorem setName_streams (b : Block) (t : BitVec 5) (n : Option TileName) : (setName b t n).streams = b.streams := rfl
@[simp] theorem setName_tags (b : Block) (t : BitVec 5) (n : Option TileName) : (setName b t n).tags = b.tags := rfl
@[simp] theorem setName_lstat (b : Block) (t : BitVec 5) (n : Option TileName) : (setName b t n).lstat = b.lstat := rfl
@[simp] theorem setName_vtype (b : Block) (t : BitVec 5) (n : Option TileName) : (setName b t n).vtype = b.vtype := rfl
@[simp] theorem setName_vtypeOf (b : Block) (t : BitVec 5) (n : Option TileName) : (setName b t n).vtypeOf = b.vtypeOf := rfl
@[simp] theorem setName_region (b : Block) (t : BitVec 5) (n : Option TileName) : (setName b t n).region = b.region := rfl
@[simp] theorem setName_cairn (b : Block) (t : BitVec 5) (n : Option TileName) : (setName b t n).cairn = b.cairn := rfl
@[simp] theorem setName_rollbacks (b : Block) (t : BitVec 5) (n : Option TileName) : (setName b t n).rollbacks = b.rollbacks := rfl
@[simp] theorem setName_trapRec (b : Block) (t : BitVec 5) (n : Option TileName) : (setName b t n).trapRec = b.trapRec := rfl
@[simp] theorem setName_inHandler (b : Block) (t : BitVec 5) (n : Option TileName) : (setName b t n).inHandler = b.inHandler := rfl
@[simp] theorem setName_savedPc (b : Block) (t : BitVec 5) (n : Option TileName) : (setName b t n).savedPc = b.savedPc := rfl
@[simp] theorem setName_savedLoops (b : Block) (t : BitVec 5) (n : Option TileName) : (setName b t n).savedLoops = b.savedLoops := rfl
@[simp] theorem setName_trapped (b : Block) (t : BitVec 5) (n : Option TileName) : (setName b t n).trapped = b.trapped := rfl
@[simp] theorem setName_flights (b : Block) (t : BitVec 5) (n : Option TileName) : (setName b t n).flights = b.flights := rfl
@[simp] theorem setName_nextId (b : Block) (t : BitVec 5) (n : Option TileName) : (setName b t n).nextId = b.nextId := rfl
@[simp] theorem setName_wait (b : Block) (t : BitVec 5) (n : Option TileName) : (setName b t n).wait = b.wait := rfl
@[simp] theorem setName_due (b : Block) (t : BitVec 5) (n : Option TileName) : (setName b t n).due = b.due := rfl
@[simp] theorem setName_token (b : Block) (t : BitVec 5) (n : Option TileName) : (setName b t n).token = b.token := rfl
@[simp] theorem setName_holding (b : Block) (t : BitVec 5) (n : Option TileName) : (setName b t n).holding = b.holding := rfl
@[simp] theorem setName_channels (b : Block) (t : BitVec 5) (n : Option TileName) : (setName b t n).channels = b.channels := rfl
@[simp] theorem setName_preempt (b : Block) (t : BitVec 5) (n : Option TileName) : (setName b t n).preempt = b.preempt := rfl
@[simp] theorem setName_graceOver (b : Block) (t : BitVec 5) (n : Option TileName) : (setName b t n).graceOver = b.graceOver := rfl
@[simp] theorem setName_atPoint (b : Block) (t : BitVec 5) (n : Option TileName) : (setName b t n).atPoint = b.atPoint := rfl
@[simp] theorem setName_roll (b : Block) (t : BitVec 5) (n : Option TileName) : (setName b t n).roll = b.roll := rfl
@[simp] theorem setName_fillWait (b : Block) (t : BitVec 5) (n : Option TileName) : (setName b t n).fillWait = b.fillWait := rfl
@[simp] theorem setName_cbClaim (b : Block) (t : BitVec 5) (n : Option TileName) : (setName b t n).cbClaim = b.cbClaim := rfl
@[simp] theorem setName_posted (b : Block) (t : BitVec 5) (n : Option TileName) : (setName b t n).posted = b.posted := rfl
@[simp] theorem setName_asks (b : Block) (t : BitVec 5) (n : Option TileName) : (setName b t n).asks = b.asks := rfl
@[simp] theorem setName_relBound (b : Block) (t : BitVec 5) (n : Option TileName) : (setName b t n).relBound = b.relBound := rfl
@[simp] theorem setName_renames (b : Block) (t : BitVec 5) (n : Option TileName) : (setName b t n).renames = b.renames := rfl

/-! ## setShape -/

@[simp] theorem setShape_slot (b : Block) (t : BitVec 4) (n : ShapeRec) : (setShape b t n).slot = b.slot := rfl
@[simp] theorem setShape_st (b : Block) (t : BitVec 4) (n : ShapeRec) : (setShape b t n).st = b.st := rfl
@[simp] theorem setShape_ctx (b : Block) (t : BitVec 4) (n : ShapeRec) : (setShape b t n).ctx = b.ctx := rfl
@[simp] theorem setShape_kernel (b : Block) (t : BitVec 4) (n : ShapeRec) : (setShape b t n).kernel = b.kernel := rfl
@[simp] theorem setShape_gid (b : Block) (t : BitVec 4) (n : ShapeRec) : (setShape b t n).gid = b.gid := rfl
@[simp] theorem setShape_bid (b : Block) (t : BitVec 4) (n : ShapeRec) : (setShape b t n).bid = b.bid := rfl
@[simp] theorem setShape_gidReg (b : Block) (t : BitVec 4) (n : ShapeRec) : (setShape b t n).gidReg = b.gidReg := rfl
@[simp] theorem setShape_bndid (b : Block) (t : BitVec 4) (n : ShapeRec) : (setShape b t n).bndid = b.bndid := rfl
@[simp] theorem setShape_lseq (b : Block) (t : BitVec 4) (n : ShapeRec) : (setShape b t n).lseq = b.lseq := rfl
@[simp] theorem setShape_rsv (b : Block) (t : BitVec 4) (n : ShapeRec) : (setShape b t n).rsv = b.rsv := rfl
@[simp] theorem setShape_pc (b : Block) (t : BitVec 4) (n : ShapeRec) : (setShape b t n).pc = b.pc := rfl
@[simp] theorem setShape_loops (b : Block) (t : BitVec 4) (n : ShapeRec) : (setShape b t n).loops = b.loops := rfl
@[simp] theorem setShape_sregs (b : Block) (t : BitVec 4) (n : ShapeRec) : (setShape b t n).sregs = b.sregs := rfl
@[simp] theorem setShape_hregs (b : Block) (t : BitVec 4) (n : ShapeRec) : (setShape b t n).hregs = b.hregs := rfl
@[simp] theorem setShape_names (b : Block) (t : BitVec 4) (n : ShapeRec) : (setShape b t n).names = b.names := rfl
@[simp] theorem setShape_versions (b : Block) (t : BitVec 4) (n : ShapeRec) : (setShape b t n).versions = b.versions := rfl
@[simp] theorem setShape_streams (b : Block) (t : BitVec 4) (n : ShapeRec) : (setShape b t n).streams = b.streams := rfl
@[simp] theorem setShape_tags (b : Block) (t : BitVec 4) (n : ShapeRec) : (setShape b t n).tags = b.tags := rfl
@[simp] theorem setShape_lstat (b : Block) (t : BitVec 4) (n : ShapeRec) : (setShape b t n).lstat = b.lstat := rfl
@[simp] theorem setShape_vtype (b : Block) (t : BitVec 4) (n : ShapeRec) : (setShape b t n).vtype = b.vtype := rfl
@[simp] theorem setShape_vtypeOf (b : Block) (t : BitVec 4) (n : ShapeRec) : (setShape b t n).vtypeOf = b.vtypeOf := rfl
@[simp] theorem setShape_region (b : Block) (t : BitVec 4) (n : ShapeRec) : (setShape b t n).region = b.region := rfl
@[simp] theorem setShape_cairn (b : Block) (t : BitVec 4) (n : ShapeRec) : (setShape b t n).cairn = b.cairn := rfl
@[simp] theorem setShape_rollbacks (b : Block) (t : BitVec 4) (n : ShapeRec) : (setShape b t n).rollbacks = b.rollbacks := rfl
@[simp] theorem setShape_trapRec (b : Block) (t : BitVec 4) (n : ShapeRec) : (setShape b t n).trapRec = b.trapRec := rfl
@[simp] theorem setShape_inHandler (b : Block) (t : BitVec 4) (n : ShapeRec) : (setShape b t n).inHandler = b.inHandler := rfl
@[simp] theorem setShape_savedPc (b : Block) (t : BitVec 4) (n : ShapeRec) : (setShape b t n).savedPc = b.savedPc := rfl
@[simp] theorem setShape_savedLoops (b : Block) (t : BitVec 4) (n : ShapeRec) : (setShape b t n).savedLoops = b.savedLoops := rfl
@[simp] theorem setShape_trapped (b : Block) (t : BitVec 4) (n : ShapeRec) : (setShape b t n).trapped = b.trapped := rfl
@[simp] theorem setShape_flights (b : Block) (t : BitVec 4) (n : ShapeRec) : (setShape b t n).flights = b.flights := rfl
@[simp] theorem setShape_nextId (b : Block) (t : BitVec 4) (n : ShapeRec) : (setShape b t n).nextId = b.nextId := rfl
@[simp] theorem setShape_wait (b : Block) (t : BitVec 4) (n : ShapeRec) : (setShape b t n).wait = b.wait := rfl
@[simp] theorem setShape_due (b : Block) (t : BitVec 4) (n : ShapeRec) : (setShape b t n).due = b.due := rfl
@[simp] theorem setShape_token (b : Block) (t : BitVec 4) (n : ShapeRec) : (setShape b t n).token = b.token := rfl
@[simp] theorem setShape_holding (b : Block) (t : BitVec 4) (n : ShapeRec) : (setShape b t n).holding = b.holding := rfl
@[simp] theorem setShape_channels (b : Block) (t : BitVec 4) (n : ShapeRec) : (setShape b t n).channels = b.channels := rfl
@[simp] theorem setShape_preempt (b : Block) (t : BitVec 4) (n : ShapeRec) : (setShape b t n).preempt = b.preempt := rfl
@[simp] theorem setShape_graceOver (b : Block) (t : BitVec 4) (n : ShapeRec) : (setShape b t n).graceOver = b.graceOver := rfl
@[simp] theorem setShape_atPoint (b : Block) (t : BitVec 4) (n : ShapeRec) : (setShape b t n).atPoint = b.atPoint := rfl
@[simp] theorem setShape_roll (b : Block) (t : BitVec 4) (n : ShapeRec) : (setShape b t n).roll = b.roll := rfl
@[simp] theorem setShape_fillWait (b : Block) (t : BitVec 4) (n : ShapeRec) : (setShape b t n).fillWait = b.fillWait := rfl
@[simp] theorem setShape_cbClaim (b : Block) (t : BitVec 4) (n : ShapeRec) : (setShape b t n).cbClaim = b.cbClaim := rfl
@[simp] theorem setShape_posted (b : Block) (t : BitVec 4) (n : ShapeRec) : (setShape b t n).posted = b.posted := rfl
@[simp] theorem setShape_asks (b : Block) (t : BitVec 4) (n : ShapeRec) : (setShape b t n).asks = b.asks := rfl
@[simp] theorem setShape_relBound (b : Block) (t : BitVec 4) (n : ShapeRec) : (setShape b t n).relBound = b.relBound := rfl
@[simp] theorem setShape_renames (b : Block) (t : BitVec 4) (n : ShapeRec) : (setShape b t n).renames = b.renames := rfl

/-! ## setStream -/

@[simp] theorem setStream_slot (b : Block) (t : BitVec 3) (n : Stream) : (setStream b t n).slot = b.slot := rfl
@[simp] theorem setStream_st (b : Block) (t : BitVec 3) (n : Stream) : (setStream b t n).st = b.st := rfl
@[simp] theorem setStream_ctx (b : Block) (t : BitVec 3) (n : Stream) : (setStream b t n).ctx = b.ctx := rfl
@[simp] theorem setStream_kernel (b : Block) (t : BitVec 3) (n : Stream) : (setStream b t n).kernel = b.kernel := rfl
@[simp] theorem setStream_gid (b : Block) (t : BitVec 3) (n : Stream) : (setStream b t n).gid = b.gid := rfl
@[simp] theorem setStream_bid (b : Block) (t : BitVec 3) (n : Stream) : (setStream b t n).bid = b.bid := rfl
@[simp] theorem setStream_gidReg (b : Block) (t : BitVec 3) (n : Stream) : (setStream b t n).gidReg = b.gidReg := rfl
@[simp] theorem setStream_bndid (b : Block) (t : BitVec 3) (n : Stream) : (setStream b t n).bndid = b.bndid := rfl
@[simp] theorem setStream_lseq (b : Block) (t : BitVec 3) (n : Stream) : (setStream b t n).lseq = b.lseq := rfl
@[simp] theorem setStream_rsv (b : Block) (t : BitVec 3) (n : Stream) : (setStream b t n).rsv = b.rsv := rfl
@[simp] theorem setStream_pc (b : Block) (t : BitVec 3) (n : Stream) : (setStream b t n).pc = b.pc := rfl
@[simp] theorem setStream_loops (b : Block) (t : BitVec 3) (n : Stream) : (setStream b t n).loops = b.loops := rfl
@[simp] theorem setStream_sregs (b : Block) (t : BitVec 3) (n : Stream) : (setStream b t n).sregs = b.sregs := rfl
@[simp] theorem setStream_hregs (b : Block) (t : BitVec 3) (n : Stream) : (setStream b t n).hregs = b.hregs := rfl
@[simp] theorem setStream_shapes (b : Block) (t : BitVec 3) (n : Stream) : (setStream b t n).shapes = b.shapes := rfl
@[simp] theorem setStream_names (b : Block) (t : BitVec 3) (n : Stream) : (setStream b t n).names = b.names := rfl
@[simp] theorem setStream_versions (b : Block) (t : BitVec 3) (n : Stream) : (setStream b t n).versions = b.versions := rfl
@[simp] theorem setStream_tags (b : Block) (t : BitVec 3) (n : Stream) : (setStream b t n).tags = b.tags := rfl
@[simp] theorem setStream_lstat (b : Block) (t : BitVec 3) (n : Stream) : (setStream b t n).lstat = b.lstat := rfl
@[simp] theorem setStream_vtype (b : Block) (t : BitVec 3) (n : Stream) : (setStream b t n).vtype = b.vtype := rfl
@[simp] theorem setStream_vtypeOf (b : Block) (t : BitVec 3) (n : Stream) : (setStream b t n).vtypeOf = b.vtypeOf := rfl
@[simp] theorem setStream_region (b : Block) (t : BitVec 3) (n : Stream) : (setStream b t n).region = b.region := rfl
@[simp] theorem setStream_cairn (b : Block) (t : BitVec 3) (n : Stream) : (setStream b t n).cairn = b.cairn := rfl
@[simp] theorem setStream_rollbacks (b : Block) (t : BitVec 3) (n : Stream) : (setStream b t n).rollbacks = b.rollbacks := rfl
@[simp] theorem setStream_trapRec (b : Block) (t : BitVec 3) (n : Stream) : (setStream b t n).trapRec = b.trapRec := rfl
@[simp] theorem setStream_inHandler (b : Block) (t : BitVec 3) (n : Stream) : (setStream b t n).inHandler = b.inHandler := rfl
@[simp] theorem setStream_savedPc (b : Block) (t : BitVec 3) (n : Stream) : (setStream b t n).savedPc = b.savedPc := rfl
@[simp] theorem setStream_savedLoops (b : Block) (t : BitVec 3) (n : Stream) : (setStream b t n).savedLoops = b.savedLoops := rfl
@[simp] theorem setStream_trapped (b : Block) (t : BitVec 3) (n : Stream) : (setStream b t n).trapped = b.trapped := rfl
@[simp] theorem setStream_flights (b : Block) (t : BitVec 3) (n : Stream) : (setStream b t n).flights = b.flights := rfl
@[simp] theorem setStream_nextId (b : Block) (t : BitVec 3) (n : Stream) : (setStream b t n).nextId = b.nextId := rfl
@[simp] theorem setStream_wait (b : Block) (t : BitVec 3) (n : Stream) : (setStream b t n).wait = b.wait := rfl
@[simp] theorem setStream_due (b : Block) (t : BitVec 3) (n : Stream) : (setStream b t n).due = b.due := rfl
@[simp] theorem setStream_token (b : Block) (t : BitVec 3) (n : Stream) : (setStream b t n).token = b.token := rfl
@[simp] theorem setStream_holding (b : Block) (t : BitVec 3) (n : Stream) : (setStream b t n).holding = b.holding := rfl
@[simp] theorem setStream_channels (b : Block) (t : BitVec 3) (n : Stream) : (setStream b t n).channels = b.channels := rfl
@[simp] theorem setStream_preempt (b : Block) (t : BitVec 3) (n : Stream) : (setStream b t n).preempt = b.preempt := rfl
@[simp] theorem setStream_graceOver (b : Block) (t : BitVec 3) (n : Stream) : (setStream b t n).graceOver = b.graceOver := rfl
@[simp] theorem setStream_atPoint (b : Block) (t : BitVec 3) (n : Stream) : (setStream b t n).atPoint = b.atPoint := rfl
@[simp] theorem setStream_roll (b : Block) (t : BitVec 3) (n : Stream) : (setStream b t n).roll = b.roll := rfl
@[simp] theorem setStream_fillWait (b : Block) (t : BitVec 3) (n : Stream) : (setStream b t n).fillWait = b.fillWait := rfl
@[simp] theorem setStream_cbClaim (b : Block) (t : BitVec 3) (n : Stream) : (setStream b t n).cbClaim = b.cbClaim := rfl
@[simp] theorem setStream_posted (b : Block) (t : BitVec 3) (n : Stream) : (setStream b t n).posted = b.posted := rfl
@[simp] theorem setStream_asks (b : Block) (t : BitVec 3) (n : Stream) : (setStream b t n).asks = b.asks := rfl
@[simp] theorem setStream_relBound (b : Block) (t : BitVec 3) (n : Stream) : (setStream b t n).relBound = b.relBound := rfl
@[simp] theorem setStream_renames (b : Block) (t : BitVec 3) (n : Stream) : (setStream b t n).renames = b.renames := rfl

/-! ## modVersion -/

@[simp] theorem modVersion_slot (b : Block) (t : Nat) (n : Version → Version) : (modVersion b t n).slot = b.slot := rfl
@[simp] theorem modVersion_st (b : Block) (t : Nat) (n : Version → Version) : (modVersion b t n).st = b.st := rfl
@[simp] theorem modVersion_ctx (b : Block) (t : Nat) (n : Version → Version) : (modVersion b t n).ctx = b.ctx := rfl
@[simp] theorem modVersion_kernel (b : Block) (t : Nat) (n : Version → Version) : (modVersion b t n).kernel = b.kernel := rfl
@[simp] theorem modVersion_gid (b : Block) (t : Nat) (n : Version → Version) : (modVersion b t n).gid = b.gid := rfl
@[simp] theorem modVersion_bid (b : Block) (t : Nat) (n : Version → Version) : (modVersion b t n).bid = b.bid := rfl
@[simp] theorem modVersion_gidReg (b : Block) (t : Nat) (n : Version → Version) : (modVersion b t n).gidReg = b.gidReg := rfl
@[simp] theorem modVersion_bndid (b : Block) (t : Nat) (n : Version → Version) : (modVersion b t n).bndid = b.bndid := rfl
@[simp] theorem modVersion_lseq (b : Block) (t : Nat) (n : Version → Version) : (modVersion b t n).lseq = b.lseq := rfl
@[simp] theorem modVersion_rsv (b : Block) (t : Nat) (n : Version → Version) : (modVersion b t n).rsv = b.rsv := rfl
@[simp] theorem modVersion_pc (b : Block) (t : Nat) (n : Version → Version) : (modVersion b t n).pc = b.pc := rfl
@[simp] theorem modVersion_loops (b : Block) (t : Nat) (n : Version → Version) : (modVersion b t n).loops = b.loops := rfl
@[simp] theorem modVersion_sregs (b : Block) (t : Nat) (n : Version → Version) : (modVersion b t n).sregs = b.sregs := rfl
@[simp] theorem modVersion_hregs (b : Block) (t : Nat) (n : Version → Version) : (modVersion b t n).hregs = b.hregs := rfl
@[simp] theorem modVersion_shapes (b : Block) (t : Nat) (n : Version → Version) : (modVersion b t n).shapes = b.shapes := rfl
@[simp] theorem modVersion_names (b : Block) (t : Nat) (n : Version → Version) : (modVersion b t n).names = b.names := rfl
@[simp] theorem modVersion_streams (b : Block) (t : Nat) (n : Version → Version) : (modVersion b t n).streams = b.streams := rfl
@[simp] theorem modVersion_tags (b : Block) (t : Nat) (n : Version → Version) : (modVersion b t n).tags = b.tags := rfl
@[simp] theorem modVersion_lstat (b : Block) (t : Nat) (n : Version → Version) : (modVersion b t n).lstat = b.lstat := rfl
@[simp] theorem modVersion_vtype (b : Block) (t : Nat) (n : Version → Version) : (modVersion b t n).vtype = b.vtype := rfl
@[simp] theorem modVersion_vtypeOf (b : Block) (t : Nat) (n : Version → Version) : (modVersion b t n).vtypeOf = b.vtypeOf := rfl
@[simp] theorem modVersion_region (b : Block) (t : Nat) (n : Version → Version) : (modVersion b t n).region = b.region := rfl
@[simp] theorem modVersion_cairn (b : Block) (t : Nat) (n : Version → Version) : (modVersion b t n).cairn = b.cairn := rfl
@[simp] theorem modVersion_rollbacks (b : Block) (t : Nat) (n : Version → Version) : (modVersion b t n).rollbacks = b.rollbacks := rfl
@[simp] theorem modVersion_trapRec (b : Block) (t : Nat) (n : Version → Version) : (modVersion b t n).trapRec = b.trapRec := rfl
@[simp] theorem modVersion_inHandler (b : Block) (t : Nat) (n : Version → Version) : (modVersion b t n).inHandler = b.inHandler := rfl
@[simp] theorem modVersion_savedPc (b : Block) (t : Nat) (n : Version → Version) : (modVersion b t n).savedPc = b.savedPc := rfl
@[simp] theorem modVersion_savedLoops (b : Block) (t : Nat) (n : Version → Version) : (modVersion b t n).savedLoops = b.savedLoops := rfl
@[simp] theorem modVersion_trapped (b : Block) (t : Nat) (n : Version → Version) : (modVersion b t n).trapped = b.trapped := rfl
@[simp] theorem modVersion_flights (b : Block) (t : Nat) (n : Version → Version) : (modVersion b t n).flights = b.flights := rfl
@[simp] theorem modVersion_nextId (b : Block) (t : Nat) (n : Version → Version) : (modVersion b t n).nextId = b.nextId := rfl
@[simp] theorem modVersion_wait (b : Block) (t : Nat) (n : Version → Version) : (modVersion b t n).wait = b.wait := rfl
@[simp] theorem modVersion_due (b : Block) (t : Nat) (n : Version → Version) : (modVersion b t n).due = b.due := rfl
@[simp] theorem modVersion_token (b : Block) (t : Nat) (n : Version → Version) : (modVersion b t n).token = b.token := rfl
@[simp] theorem modVersion_holding (b : Block) (t : Nat) (n : Version → Version) : (modVersion b t n).holding = b.holding := rfl
@[simp] theorem modVersion_channels (b : Block) (t : Nat) (n : Version → Version) : (modVersion b t n).channels = b.channels := rfl
@[simp] theorem modVersion_preempt (b : Block) (t : Nat) (n : Version → Version) : (modVersion b t n).preempt = b.preempt := rfl
@[simp] theorem modVersion_graceOver (b : Block) (t : Nat) (n : Version → Version) : (modVersion b t n).graceOver = b.graceOver := rfl
@[simp] theorem modVersion_atPoint (b : Block) (t : Nat) (n : Version → Version) : (modVersion b t n).atPoint = b.atPoint := rfl
@[simp] theorem modVersion_roll (b : Block) (t : Nat) (n : Version → Version) : (modVersion b t n).roll = b.roll := rfl
@[simp] theorem modVersion_fillWait (b : Block) (t : Nat) (n : Version → Version) : (modVersion b t n).fillWait = b.fillWait := rfl
@[simp] theorem modVersion_cbClaim (b : Block) (t : Nat) (n : Version → Version) : (modVersion b t n).cbClaim = b.cbClaim := rfl
@[simp] theorem modVersion_posted (b : Block) (t : Nat) (n : Version → Version) : (modVersion b t n).posted = b.posted := rfl
@[simp] theorem modVersion_asks (b : Block) (t : Nat) (n : Version → Version) : (modVersion b t n).asks = b.asks := rfl
@[simp] theorem modVersion_relBound (b : Block) (t : Nat) (n : Version → Version) : (modVersion b t n).relBound = b.relBound := rfl
@[simp] theorem modVersion_renames (b : Block) (t : Nat) (n : Version → Version) : (modVersion b t n).renames = b.renames := rfl

/-! ## modFlight -/

@[simp] theorem modFlight_slot (b : Block) (t : Nat) (n : Flight → Flight) : (modFlight b t n).slot = b.slot := rfl
@[simp] theorem modFlight_st (b : Block) (t : Nat) (n : Flight → Flight) : (modFlight b t n).st = b.st := rfl
@[simp] theorem modFlight_ctx (b : Block) (t : Nat) (n : Flight → Flight) : (modFlight b t n).ctx = b.ctx := rfl
@[simp] theorem modFlight_kernel (b : Block) (t : Nat) (n : Flight → Flight) : (modFlight b t n).kernel = b.kernel := rfl
@[simp] theorem modFlight_gid (b : Block) (t : Nat) (n : Flight → Flight) : (modFlight b t n).gid = b.gid := rfl
@[simp] theorem modFlight_bid (b : Block) (t : Nat) (n : Flight → Flight) : (modFlight b t n).bid = b.bid := rfl
@[simp] theorem modFlight_gidReg (b : Block) (t : Nat) (n : Flight → Flight) : (modFlight b t n).gidReg = b.gidReg := rfl
@[simp] theorem modFlight_bndid (b : Block) (t : Nat) (n : Flight → Flight) : (modFlight b t n).bndid = b.bndid := rfl
@[simp] theorem modFlight_lseq (b : Block) (t : Nat) (n : Flight → Flight) : (modFlight b t n).lseq = b.lseq := rfl
@[simp] theorem modFlight_rsv (b : Block) (t : Nat) (n : Flight → Flight) : (modFlight b t n).rsv = b.rsv := rfl
@[simp] theorem modFlight_pc (b : Block) (t : Nat) (n : Flight → Flight) : (modFlight b t n).pc = b.pc := rfl
@[simp] theorem modFlight_loops (b : Block) (t : Nat) (n : Flight → Flight) : (modFlight b t n).loops = b.loops := rfl
@[simp] theorem modFlight_sregs (b : Block) (t : Nat) (n : Flight → Flight) : (modFlight b t n).sregs = b.sregs := rfl
@[simp] theorem modFlight_hregs (b : Block) (t : Nat) (n : Flight → Flight) : (modFlight b t n).hregs = b.hregs := rfl
@[simp] theorem modFlight_shapes (b : Block) (t : Nat) (n : Flight → Flight) : (modFlight b t n).shapes = b.shapes := rfl
@[simp] theorem modFlight_names (b : Block) (t : Nat) (n : Flight → Flight) : (modFlight b t n).names = b.names := rfl
@[simp] theorem modFlight_versions (b : Block) (t : Nat) (n : Flight → Flight) : (modFlight b t n).versions = b.versions := rfl
@[simp] theorem modFlight_streams (b : Block) (t : Nat) (n : Flight → Flight) : (modFlight b t n).streams = b.streams := rfl
@[simp] theorem modFlight_tags (b : Block) (t : Nat) (n : Flight → Flight) : (modFlight b t n).tags = b.tags := rfl
@[simp] theorem modFlight_lstat (b : Block) (t : Nat) (n : Flight → Flight) : (modFlight b t n).lstat = b.lstat := rfl
@[simp] theorem modFlight_vtype (b : Block) (t : Nat) (n : Flight → Flight) : (modFlight b t n).vtype = b.vtype := rfl
@[simp] theorem modFlight_vtypeOf (b : Block) (t : Nat) (n : Flight → Flight) : (modFlight b t n).vtypeOf = b.vtypeOf := rfl
@[simp] theorem modFlight_region (b : Block) (t : Nat) (n : Flight → Flight) : (modFlight b t n).region = b.region := rfl
@[simp] theorem modFlight_cairn (b : Block) (t : Nat) (n : Flight → Flight) : (modFlight b t n).cairn = b.cairn := rfl
@[simp] theorem modFlight_rollbacks (b : Block) (t : Nat) (n : Flight → Flight) : (modFlight b t n).rollbacks = b.rollbacks := rfl
@[simp] theorem modFlight_trapRec (b : Block) (t : Nat) (n : Flight → Flight) : (modFlight b t n).trapRec = b.trapRec := rfl
@[simp] theorem modFlight_inHandler (b : Block) (t : Nat) (n : Flight → Flight) : (modFlight b t n).inHandler = b.inHandler := rfl
@[simp] theorem modFlight_savedPc (b : Block) (t : Nat) (n : Flight → Flight) : (modFlight b t n).savedPc = b.savedPc := rfl
@[simp] theorem modFlight_savedLoops (b : Block) (t : Nat) (n : Flight → Flight) : (modFlight b t n).savedLoops = b.savedLoops := rfl
@[simp] theorem modFlight_trapped (b : Block) (t : Nat) (n : Flight → Flight) : (modFlight b t n).trapped = b.trapped := rfl
@[simp] theorem modFlight_nextId (b : Block) (t : Nat) (n : Flight → Flight) : (modFlight b t n).nextId = b.nextId := rfl
@[simp] theorem modFlight_wait (b : Block) (t : Nat) (n : Flight → Flight) : (modFlight b t n).wait = b.wait := rfl
@[simp] theorem modFlight_due (b : Block) (t : Nat) (n : Flight → Flight) : (modFlight b t n).due = b.due := rfl
@[simp] theorem modFlight_token (b : Block) (t : Nat) (n : Flight → Flight) : (modFlight b t n).token = b.token := rfl
@[simp] theorem modFlight_holding (b : Block) (t : Nat) (n : Flight → Flight) : (modFlight b t n).holding = b.holding := rfl
@[simp] theorem modFlight_channels (b : Block) (t : Nat) (n : Flight → Flight) : (modFlight b t n).channels = b.channels := rfl
@[simp] theorem modFlight_preempt (b : Block) (t : Nat) (n : Flight → Flight) : (modFlight b t n).preempt = b.preempt := rfl
@[simp] theorem modFlight_graceOver (b : Block) (t : Nat) (n : Flight → Flight) : (modFlight b t n).graceOver = b.graceOver := rfl
@[simp] theorem modFlight_atPoint (b : Block) (t : Nat) (n : Flight → Flight) : (modFlight b t n).atPoint = b.atPoint := rfl
@[simp] theorem modFlight_roll (b : Block) (t : Nat) (n : Flight → Flight) : (modFlight b t n).roll = b.roll := rfl
@[simp] theorem modFlight_fillWait (b : Block) (t : Nat) (n : Flight → Flight) : (modFlight b t n).fillWait = b.fillWait := rfl
@[simp] theorem modFlight_cbClaim (b : Block) (t : Nat) (n : Flight → Flight) : (modFlight b t n).cbClaim = b.cbClaim := rfl
@[simp] theorem modFlight_posted (b : Block) (t : Nat) (n : Flight → Flight) : (modFlight b t n).posted = b.posted := rfl
@[simp] theorem modFlight_asks (b : Block) (t : Nat) (n : Flight → Flight) : (modFlight b t n).asks = b.asks := rfl
@[simp] theorem modFlight_relBound (b : Block) (t : Nat) (n : Flight → Flight) : (modFlight b t n).relBound = b.relBound := rfl
@[simp] theorem modFlight_renames (b : Block) (t : Nat) (n : Flight → Flight) : (modFlight b t n).renames = b.renames := rfl

/-! ## advance -/

@[simp] theorem advance_me (s : State) : (advance s).me = s.me.advance := rfl
@[simp] theorem advance_others (s : State) : (advance s).others = s.others := rfl
@[simp] theorem advance_lane (s : State) : (advance s).lane = s.lane := rfl
@[simp] theorem advance_lanes (s : State) : (advance s).lanes = s.lanes := rfl
@[simp] theorem advance_agenda (s : State) : (advance s).agenda = s.agenda := rfl
@[simp] theorem advance_defer (s : State) : (advance s).defer = s.defer := rfl
@[simp] theorem advance_free (s : State) : (advance s).free = s.free := rfl
@[simp] theorem advance_mem (s : State) : (advance s).mem = s.mem := rfl
@[simp] theorem advance_poison (s : State) : (advance s).poison = s.poison := rfl
@[simp] theorem advance_cache (s : State) : (advance s).cache = s.cache := rfl
@[simp] theorem advance_guests (s : State) : (advance s).guests = s.guests := rfl
@[simp] theorem advance_homeLines (s : State) : (advance s).homeLines = s.homeLines := rfl
@[simp] theorem advance_tlb (s : State) : (advance s).tlb = s.tlb := rfl
@[simp] theorem advance_cbs (s : State) : (advance s).cbs = s.cbs := rfl
@[simp] theorem advance_laneFns (s : State) : (advance s).laneFns = s.laneFns := rfl
@[simp] theorem advance_icache (s : State) : (advance s).icache = s.icache := rfl
@[simp] theorem advance_trails (s : State) : (advance s).trails = s.trails := rfl
@[simp] theorem advance_objWaits (s : State) : (advance s).objWaits = s.objWaits := rfl
@[simp] theorem advance_ringWaits (s : State) : (advance s).ringWaits = s.ringWaits := rfl
@[simp] theorem advance_links (s : State) : (advance s).links = s.links := rfl
@[simp] theorem advance_holds (s : State) : (advance s).holds = s.holds := rfl
@[simp] theorem advance_groups (s : State) : (advance s).groups = s.groups := rfl
@[simp] theorem advance_bandBars (s : State) : (advance s).bandBars = s.bandBars := rfl
@[simp] theorem advance_arrivals (s : State) : (advance s).arrivals = s.arrivals := rfl
@[simp] theorem advance_slots (s : State) : (advance s).slots = s.slots := rfl
@[simp] theorem advance_slotEdits (s : State) : (advance s).slotEdits = s.slotEdits := rfl
@[simp] theorem advance_stopRecords (s : State) : (advance s).stopRecords = s.stopRecords := rfl
@[simp] theorem advance_notices (s : State) : (advance s).notices = s.notices := rfl
@[simp] theorem advance_queues (s : State) : (advance s).queues = s.queues := rfl
@[simp] theorem advance_launches (s : State) : (advance s).launches = s.launches := rfl
@[simp] theorem advance_submitted (s : State) : (advance s).submitted = s.submitted := rfl
@[simp] theorem advance_pendingRecords (s : State) : (advance s).pendingRecords = s.pendingRecords := rfl
@[simp] theorem advance_kernels (s : State) : (advance s).kernels = s.kernels := rfl
@[simp] theorem advance_contexts (s : State) : (advance s).contexts = s.contexts := rfl
@[simp] theorem advance_images (s : State) : (advance s).images = s.images := rfl
@[simp] theorem advance_decamp (s : State) : (advance s).decamp = s.decamp := rfl
@[simp] theorem advance_keySlots (s : State) : (advance s).keySlots = s.keySlots := rfl
@[simp] theorem advance_faults (s : State) : (advance s).faults = s.faults := rfl
@[simp] theorem advance_nextFtag (s : State) : (advance s).nextFtag = s.nextFtag := rfl
@[simp] theorem advance_held (s : State) : (advance s).held = s.held := rfl
@[simp] theorem advance_heldObjs (s : State) : (advance s).heldObjs = s.heldObjs := rfl
@[simp] theorem advance_move (s : State) : (advance s).move = s.move := rfl
@[simp] theorem advance_banks (s : State) : (advance s).banks = s.banks := rfl
@[simp] theorem advance_evacuations (s : State) : (advance s).evacuations = s.evacuations := rfl
@[simp] theorem advance_bankMap (s : State) : (advance s).bankMap = s.bankMap := rfl
@[simp] theorem advance_capls (s : State) : (advance s).capls = s.capls := rfl
@[simp] theorem advance_ports (s : State) : (advance s).ports = s.ports := rfl
@[simp] theorem advance_routes (s : State) : (advance s).routes = s.routes := rfl
@[simp] theorem advance_requests (s : State) : (advance s).requests = s.requests := rfl
@[simp] theorem advance_nextReq (s : State) : (advance s).nextReq = s.nextReq := rfl
@[simp] theorem advance_sent (s : State) : (advance s).sent = s.sent := rfl
@[simp] theorem advance_reply (s : State) : (advance s).reply = s.reply := rfl
@[simp] theorem advance_signals (s : State) : (advance s).signals = s.signals := rfl
@[simp] theorem advance_msix (s : State) : (advance s).msix = s.msix := rfl
@[simp] theorem advance_pba (s : State) : (advance s).pba = s.pba := rfl
@[simp] theorem advance_qown (s : State) : (advance s).qown = s.qown := rfl
@[simp] theorem advance_vown (s : State) : (advance s).vown = s.vown := rfl
@[simp] theorem advance_ctxown (s : State) : (advance s).ctxown = s.ctxown := rfl
@[simp] theorem advance_peers (s : State) : (advance s).peers = s.peers := rfl
@[simp] theorem advance_windows (s : State) : (advance s).windows = s.windows := rfl
@[simp] theorem advance_islands (s : State) : (advance s).islands = s.islands := rfl
@[simp] theorem advance_staging (s : State) : (advance s).staging = s.staging := rfl
@[simp] theorem advance_evseq (s : State) : (advance s).evseq = s.evseq := rfl
@[simp] theorem advance_ctl (s : State) : (advance s).ctl = s.ctl := rfl

/-! ## setPc -/

@[simp] theorem setPc_me (s : State) (pc : Word) : (setPc s pc).me = { s.me with pc := pc } := rfl
@[simp] theorem setPc_others (s : State) (pc : Word) : (setPc s pc).others = s.others := rfl
@[simp] theorem setPc_lane (s : State) (pc : Word) : (setPc s pc).lane = s.lane := rfl
@[simp] theorem setPc_lanes (s : State) (pc : Word) : (setPc s pc).lanes = s.lanes := rfl
@[simp] theorem setPc_agenda (s : State) (pc : Word) : (setPc s pc).agenda = s.agenda := rfl
@[simp] theorem setPc_defer (s : State) (pc : Word) : (setPc s pc).defer = s.defer := rfl
@[simp] theorem setPc_free (s : State) (pc : Word) : (setPc s pc).free = s.free := rfl
@[simp] theorem setPc_mem (s : State) (pc : Word) : (setPc s pc).mem = s.mem := rfl
@[simp] theorem setPc_poison (s : State) (pc : Word) : (setPc s pc).poison = s.poison := rfl
@[simp] theorem setPc_cache (s : State) (pc : Word) : (setPc s pc).cache = s.cache := rfl
@[simp] theorem setPc_guests (s : State) (pc : Word) : (setPc s pc).guests = s.guests := rfl
@[simp] theorem setPc_homeLines (s : State) (pc : Word) : (setPc s pc).homeLines = s.homeLines := rfl
@[simp] theorem setPc_tlb (s : State) (pc : Word) : (setPc s pc).tlb = s.tlb := rfl
@[simp] theorem setPc_cbs (s : State) (pc : Word) : (setPc s pc).cbs = s.cbs := rfl
@[simp] theorem setPc_laneFns (s : State) (pc : Word) : (setPc s pc).laneFns = s.laneFns := rfl
@[simp] theorem setPc_icache (s : State) (pc : Word) : (setPc s pc).icache = s.icache := rfl
@[simp] theorem setPc_trails (s : State) (pc : Word) : (setPc s pc).trails = s.trails := rfl
@[simp] theorem setPc_objWaits (s : State) (pc : Word) : (setPc s pc).objWaits = s.objWaits := rfl
@[simp] theorem setPc_ringWaits (s : State) (pc : Word) : (setPc s pc).ringWaits = s.ringWaits := rfl
@[simp] theorem setPc_links (s : State) (pc : Word) : (setPc s pc).links = s.links := rfl
@[simp] theorem setPc_holds (s : State) (pc : Word) : (setPc s pc).holds = s.holds := rfl
@[simp] theorem setPc_groups (s : State) (pc : Word) : (setPc s pc).groups = s.groups := rfl
@[simp] theorem setPc_bandBars (s : State) (pc : Word) : (setPc s pc).bandBars = s.bandBars := rfl
@[simp] theorem setPc_arrivals (s : State) (pc : Word) : (setPc s pc).arrivals = s.arrivals := rfl
@[simp] theorem setPc_slots (s : State) (pc : Word) : (setPc s pc).slots = s.slots := rfl
@[simp] theorem setPc_slotEdits (s : State) (pc : Word) : (setPc s pc).slotEdits = s.slotEdits := rfl
@[simp] theorem setPc_stopRecords (s : State) (pc : Word) : (setPc s pc).stopRecords = s.stopRecords := rfl
@[simp] theorem setPc_notices (s : State) (pc : Word) : (setPc s pc).notices = s.notices := rfl
@[simp] theorem setPc_queues (s : State) (pc : Word) : (setPc s pc).queues = s.queues := rfl
@[simp] theorem setPc_launches (s : State) (pc : Word) : (setPc s pc).launches = s.launches := rfl
@[simp] theorem setPc_submitted (s : State) (pc : Word) : (setPc s pc).submitted = s.submitted := rfl
@[simp] theorem setPc_pendingRecords (s : State) (pc : Word) : (setPc s pc).pendingRecords = s.pendingRecords := rfl
@[simp] theorem setPc_kernels (s : State) (pc : Word) : (setPc s pc).kernels = s.kernels := rfl
@[simp] theorem setPc_contexts (s : State) (pc : Word) : (setPc s pc).contexts = s.contexts := rfl
@[simp] theorem setPc_images (s : State) (pc : Word) : (setPc s pc).images = s.images := rfl
@[simp] theorem setPc_decamp (s : State) (pc : Word) : (setPc s pc).decamp = s.decamp := rfl
@[simp] theorem setPc_keySlots (s : State) (pc : Word) : (setPc s pc).keySlots = s.keySlots := rfl
@[simp] theorem setPc_faults (s : State) (pc : Word) : (setPc s pc).faults = s.faults := rfl
@[simp] theorem setPc_nextFtag (s : State) (pc : Word) : (setPc s pc).nextFtag = s.nextFtag := rfl
@[simp] theorem setPc_held (s : State) (pc : Word) : (setPc s pc).held = s.held := rfl
@[simp] theorem setPc_heldObjs (s : State) (pc : Word) : (setPc s pc).heldObjs = s.heldObjs := rfl
@[simp] theorem setPc_move (s : State) (pc : Word) : (setPc s pc).move = s.move := rfl
@[simp] theorem setPc_banks (s : State) (pc : Word) : (setPc s pc).banks = s.banks := rfl
@[simp] theorem setPc_evacuations (s : State) (pc : Word) : (setPc s pc).evacuations = s.evacuations := rfl
@[simp] theorem setPc_bankMap (s : State) (pc : Word) : (setPc s pc).bankMap = s.bankMap := rfl
@[simp] theorem setPc_capls (s : State) (pc : Word) : (setPc s pc).capls = s.capls := rfl
@[simp] theorem setPc_ports (s : State) (pc : Word) : (setPc s pc).ports = s.ports := rfl
@[simp] theorem setPc_routes (s : State) (pc : Word) : (setPc s pc).routes = s.routes := rfl
@[simp] theorem setPc_requests (s : State) (pc : Word) : (setPc s pc).requests = s.requests := rfl
@[simp] theorem setPc_nextReq (s : State) (pc : Word) : (setPc s pc).nextReq = s.nextReq := rfl
@[simp] theorem setPc_sent (s : State) (pc : Word) : (setPc s pc).sent = s.sent := rfl
@[simp] theorem setPc_reply (s : State) (pc : Word) : (setPc s pc).reply = s.reply := rfl
@[simp] theorem setPc_signals (s : State) (pc : Word) : (setPc s pc).signals = s.signals := rfl
@[simp] theorem setPc_msix (s : State) (pc : Word) : (setPc s pc).msix = s.msix := rfl
@[simp] theorem setPc_pba (s : State) (pc : Word) : (setPc s pc).pba = s.pba := rfl
@[simp] theorem setPc_qown (s : State) (pc : Word) : (setPc s pc).qown = s.qown := rfl
@[simp] theorem setPc_vown (s : State) (pc : Word) : (setPc s pc).vown = s.vown := rfl
@[simp] theorem setPc_ctxown (s : State) (pc : Word) : (setPc s pc).ctxown = s.ctxown := rfl
@[simp] theorem setPc_peers (s : State) (pc : Word) : (setPc s pc).peers = s.peers := rfl
@[simp] theorem setPc_windows (s : State) (pc : Word) : (setPc s pc).windows = s.windows := rfl
@[simp] theorem setPc_islands (s : State) (pc : Word) : (setPc s pc).islands = s.islands := rfl
@[simp] theorem setPc_staging (s : State) (pc : Word) : (setPc s pc).staging = s.staging := rfl
@[simp] theorem setPc_evseq (s : State) (pc : Word) : (setPc s pc).evseq = s.evseq := rfl
@[simp] theorem setPc_ctl (s : State) (pc : Word) : (setPc s pc).ctl = s.ctl := rfl

/-! ## setFlight -/

@[simp] theorem setFlight_me (s : State) (f : Flight) : (setFlight s f).me = modFlight s.me f.id fun _ => f := rfl
@[simp] theorem setFlight_others (s : State) (f : Flight) : (setFlight s f).others = s.others := rfl
@[simp] theorem setFlight_lane (s : State) (f : Flight) : (setFlight s f).lane = s.lane := rfl
@[simp] theorem setFlight_lanes (s : State) (f : Flight) : (setFlight s f).lanes = s.lanes := rfl
@[simp] theorem setFlight_agenda (s : State) (f : Flight) : (setFlight s f).agenda = s.agenda := rfl
@[simp] theorem setFlight_defer (s : State) (f : Flight) : (setFlight s f).defer = s.defer := rfl
@[simp] theorem setFlight_free (s : State) (f : Flight) : (setFlight s f).free = s.free := rfl
@[simp] theorem setFlight_mem (s : State) (f : Flight) : (setFlight s f).mem = s.mem := rfl
@[simp] theorem setFlight_poison (s : State) (f : Flight) : (setFlight s f).poison = s.poison := rfl
@[simp] theorem setFlight_cache (s : State) (f : Flight) : (setFlight s f).cache = s.cache := rfl
@[simp] theorem setFlight_guests (s : State) (f : Flight) : (setFlight s f).guests = s.guests := rfl
@[simp] theorem setFlight_homeLines (s : State) (f : Flight) : (setFlight s f).homeLines = s.homeLines := rfl
@[simp] theorem setFlight_tlb (s : State) (f : Flight) : (setFlight s f).tlb = s.tlb := rfl
@[simp] theorem setFlight_cbs (s : State) (f : Flight) : (setFlight s f).cbs = s.cbs := rfl
@[simp] theorem setFlight_laneFns (s : State) (f : Flight) : (setFlight s f).laneFns = s.laneFns := rfl
@[simp] theorem setFlight_icache (s : State) (f : Flight) : (setFlight s f).icache = s.icache := rfl
@[simp] theorem setFlight_trails (s : State) (f : Flight) : (setFlight s f).trails = s.trails := rfl
@[simp] theorem setFlight_objWaits (s : State) (f : Flight) : (setFlight s f).objWaits = s.objWaits := rfl
@[simp] theorem setFlight_ringWaits (s : State) (f : Flight) : (setFlight s f).ringWaits = s.ringWaits := rfl
@[simp] theorem setFlight_links (s : State) (f : Flight) : (setFlight s f).links = s.links := rfl
@[simp] theorem setFlight_holds (s : State) (f : Flight) : (setFlight s f).holds = s.holds := rfl
@[simp] theorem setFlight_groups (s : State) (f : Flight) : (setFlight s f).groups = s.groups := rfl
@[simp] theorem setFlight_bandBars (s : State) (f : Flight) : (setFlight s f).bandBars = s.bandBars := rfl
@[simp] theorem setFlight_arrivals (s : State) (f : Flight) : (setFlight s f).arrivals = s.arrivals := rfl
@[simp] theorem setFlight_slots (s : State) (f : Flight) : (setFlight s f).slots = s.slots := rfl
@[simp] theorem setFlight_slotEdits (s : State) (f : Flight) : (setFlight s f).slotEdits = s.slotEdits := rfl
@[simp] theorem setFlight_stopRecords (s : State) (f : Flight) : (setFlight s f).stopRecords = s.stopRecords := rfl
@[simp] theorem setFlight_notices (s : State) (f : Flight) : (setFlight s f).notices = s.notices := rfl
@[simp] theorem setFlight_queues (s : State) (f : Flight) : (setFlight s f).queues = s.queues := rfl
@[simp] theorem setFlight_launches (s : State) (f : Flight) : (setFlight s f).launches = s.launches := rfl
@[simp] theorem setFlight_submitted (s : State) (f : Flight) : (setFlight s f).submitted = s.submitted := rfl
@[simp] theorem setFlight_pendingRecords (s : State) (f : Flight) : (setFlight s f).pendingRecords = s.pendingRecords := rfl
@[simp] theorem setFlight_kernels (s : State) (f : Flight) : (setFlight s f).kernels = s.kernels := rfl
@[simp] theorem setFlight_contexts (s : State) (f : Flight) : (setFlight s f).contexts = s.contexts := rfl
@[simp] theorem setFlight_images (s : State) (f : Flight) : (setFlight s f).images = s.images := rfl
@[simp] theorem setFlight_decamp (s : State) (f : Flight) : (setFlight s f).decamp = s.decamp := rfl
@[simp] theorem setFlight_keySlots (s : State) (f : Flight) : (setFlight s f).keySlots = s.keySlots := rfl
@[simp] theorem setFlight_faults (s : State) (f : Flight) : (setFlight s f).faults = s.faults := rfl
@[simp] theorem setFlight_nextFtag (s : State) (f : Flight) : (setFlight s f).nextFtag = s.nextFtag := rfl
@[simp] theorem setFlight_held (s : State) (f : Flight) : (setFlight s f).held = s.held := rfl
@[simp] theorem setFlight_heldObjs (s : State) (f : Flight) : (setFlight s f).heldObjs = s.heldObjs := rfl
@[simp] theorem setFlight_move (s : State) (f : Flight) : (setFlight s f).move = s.move := rfl
@[simp] theorem setFlight_banks (s : State) (f : Flight) : (setFlight s f).banks = s.banks := rfl
@[simp] theorem setFlight_evacuations (s : State) (f : Flight) : (setFlight s f).evacuations = s.evacuations := rfl
@[simp] theorem setFlight_bankMap (s : State) (f : Flight) : (setFlight s f).bankMap = s.bankMap := rfl
@[simp] theorem setFlight_capls (s : State) (f : Flight) : (setFlight s f).capls = s.capls := rfl
@[simp] theorem setFlight_ports (s : State) (f : Flight) : (setFlight s f).ports = s.ports := rfl
@[simp] theorem setFlight_routes (s : State) (f : Flight) : (setFlight s f).routes = s.routes := rfl
@[simp] theorem setFlight_requests (s : State) (f : Flight) : (setFlight s f).requests = s.requests := rfl
@[simp] theorem setFlight_nextReq (s : State) (f : Flight) : (setFlight s f).nextReq = s.nextReq := rfl
@[simp] theorem setFlight_sent (s : State) (f : Flight) : (setFlight s f).sent = s.sent := rfl
@[simp] theorem setFlight_reply (s : State) (f : Flight) : (setFlight s f).reply = s.reply := rfl
@[simp] theorem setFlight_signals (s : State) (f : Flight) : (setFlight s f).signals = s.signals := rfl
@[simp] theorem setFlight_msix (s : State) (f : Flight) : (setFlight s f).msix = s.msix := rfl
@[simp] theorem setFlight_pba (s : State) (f : Flight) : (setFlight s f).pba = s.pba := rfl
@[simp] theorem setFlight_qown (s : State) (f : Flight) : (setFlight s f).qown = s.qown := rfl
@[simp] theorem setFlight_vown (s : State) (f : Flight) : (setFlight s f).vown = s.vown := rfl
@[simp] theorem setFlight_ctxown (s : State) (f : Flight) : (setFlight s f).ctxown = s.ctxown := rfl
@[simp] theorem setFlight_peers (s : State) (f : Flight) : (setFlight s f).peers = s.peers := rfl
@[simp] theorem setFlight_windows (s : State) (f : Flight) : (setFlight s f).windows = s.windows := rfl
@[simp] theorem setFlight_islands (s : State) (f : Flight) : (setFlight s f).islands = s.islands := rfl
@[simp] theorem setFlight_staging (s : State) (f : Flight) : (setFlight s f).staging = s.staging := rfl
@[simp] theorem setFlight_evseq (s : State) (f : Flight) : (setFlight s f).evseq = s.evseq := rfl
@[simp] theorem setFlight_ctl (s : State) (f : Flight) : (setFlight s f).ctl = s.ctl := rfl

/-! ## setBank -/

@[simp] theorem setBank_me (s : State) (i : Nat) (b : Bank) : (setBank s i b).me = s.me := rfl
@[simp] theorem setBank_others (s : State) (i : Nat) (b : Bank) : (setBank s i b).others = s.others := rfl
@[simp] theorem setBank_lane (s : State) (i : Nat) (b : Bank) : (setBank s i b).lane = s.lane := rfl
@[simp] theorem setBank_lanes (s : State) (i : Nat) (b : Bank) : (setBank s i b).lanes = s.lanes := rfl
@[simp] theorem setBank_agenda (s : State) (i : Nat) (b : Bank) : (setBank s i b).agenda = s.agenda := rfl
@[simp] theorem setBank_defer (s : State) (i : Nat) (b : Bank) : (setBank s i b).defer = s.defer := rfl
@[simp] theorem setBank_free (s : State) (i : Nat) (b : Bank) : (setBank s i b).free = s.free := rfl
@[simp] theorem setBank_mem (s : State) (i : Nat) (b : Bank) : (setBank s i b).mem = s.mem := rfl
@[simp] theorem setBank_poison (s : State) (i : Nat) (b : Bank) : (setBank s i b).poison = s.poison := rfl
@[simp] theorem setBank_cache (s : State) (i : Nat) (b : Bank) : (setBank s i b).cache = s.cache := rfl
@[simp] theorem setBank_guests (s : State) (i : Nat) (b : Bank) : (setBank s i b).guests = s.guests := rfl
@[simp] theorem setBank_homeLines (s : State) (i : Nat) (b : Bank) : (setBank s i b).homeLines = s.homeLines := rfl
@[simp] theorem setBank_tlb (s : State) (i : Nat) (b : Bank) : (setBank s i b).tlb = s.tlb := rfl
@[simp] theorem setBank_cbs (s : State) (i : Nat) (b : Bank) : (setBank s i b).cbs = s.cbs := rfl
@[simp] theorem setBank_laneFns (s : State) (i : Nat) (b : Bank) : (setBank s i b).laneFns = s.laneFns := rfl
@[simp] theorem setBank_icache (s : State) (i : Nat) (b : Bank) : (setBank s i b).icache = s.icache := rfl
@[simp] theorem setBank_trails (s : State) (i : Nat) (b : Bank) : (setBank s i b).trails = s.trails := rfl
@[simp] theorem setBank_objWaits (s : State) (i : Nat) (b : Bank) : (setBank s i b).objWaits = s.objWaits := rfl
@[simp] theorem setBank_ringWaits (s : State) (i : Nat) (b : Bank) : (setBank s i b).ringWaits = s.ringWaits := rfl
@[simp] theorem setBank_links (s : State) (i : Nat) (b : Bank) : (setBank s i b).links = s.links := rfl
@[simp] theorem setBank_holds (s : State) (i : Nat) (b : Bank) : (setBank s i b).holds = s.holds := rfl
@[simp] theorem setBank_groups (s : State) (i : Nat) (b : Bank) : (setBank s i b).groups = s.groups := rfl
@[simp] theorem setBank_bandBars (s : State) (i : Nat) (b : Bank) : (setBank s i b).bandBars = s.bandBars := rfl
@[simp] theorem setBank_arrivals (s : State) (i : Nat) (b : Bank) : (setBank s i b).arrivals = s.arrivals := rfl
@[simp] theorem setBank_slots (s : State) (i : Nat) (b : Bank) : (setBank s i b).slots = s.slots := rfl
@[simp] theorem setBank_slotEdits (s : State) (i : Nat) (b : Bank) : (setBank s i b).slotEdits = s.slotEdits := rfl
@[simp] theorem setBank_stopRecords (s : State) (i : Nat) (b : Bank) : (setBank s i b).stopRecords = s.stopRecords := rfl
@[simp] theorem setBank_notices (s : State) (i : Nat) (b : Bank) : (setBank s i b).notices = s.notices := rfl
@[simp] theorem setBank_queues (s : State) (i : Nat) (b : Bank) : (setBank s i b).queues = s.queues := rfl
@[simp] theorem setBank_launches (s : State) (i : Nat) (b : Bank) : (setBank s i b).launches = s.launches := rfl
@[simp] theorem setBank_submitted (s : State) (i : Nat) (b : Bank) : (setBank s i b).submitted = s.submitted := rfl
@[simp] theorem setBank_pendingRecords (s : State) (i : Nat) (b : Bank) : (setBank s i b).pendingRecords = s.pendingRecords := rfl
@[simp] theorem setBank_kernels (s : State) (i : Nat) (b : Bank) : (setBank s i b).kernels = s.kernels := rfl
@[simp] theorem setBank_contexts (s : State) (i : Nat) (b : Bank) : (setBank s i b).contexts = s.contexts := rfl
@[simp] theorem setBank_images (s : State) (i : Nat) (b : Bank) : (setBank s i b).images = s.images := rfl
@[simp] theorem setBank_decamp (s : State) (i : Nat) (b : Bank) : (setBank s i b).decamp = s.decamp := rfl
@[simp] theorem setBank_keySlots (s : State) (i : Nat) (b : Bank) : (setBank s i b).keySlots = s.keySlots := rfl
@[simp] theorem setBank_faults (s : State) (i : Nat) (b : Bank) : (setBank s i b).faults = s.faults := rfl
@[simp] theorem setBank_nextFtag (s : State) (i : Nat) (b : Bank) : (setBank s i b).nextFtag = s.nextFtag := rfl
@[simp] theorem setBank_held (s : State) (i : Nat) (b : Bank) : (setBank s i b).held = s.held := rfl
@[simp] theorem setBank_heldObjs (s : State) (i : Nat) (b : Bank) : (setBank s i b).heldObjs = s.heldObjs := rfl
@[simp] theorem setBank_move (s : State) (i : Nat) (b : Bank) : (setBank s i b).move = s.move := rfl
@[simp] theorem setBank_banks (s : State) (i : Nat) (b : Bank) : (setBank s i b).banks = tabSet s.banks i b := rfl
@[simp] theorem setBank_evacuations (s : State) (i : Nat) (b : Bank) : (setBank s i b).evacuations = s.evacuations := rfl
@[simp] theorem setBank_bankMap (s : State) (i : Nat) (b : Bank) : (setBank s i b).bankMap = s.bankMap := rfl
@[simp] theorem setBank_capls (s : State) (i : Nat) (b : Bank) : (setBank s i b).capls = s.capls := rfl
@[simp] theorem setBank_ports (s : State) (i : Nat) (b : Bank) : (setBank s i b).ports = s.ports := rfl
@[simp] theorem setBank_routes (s : State) (i : Nat) (b : Bank) : (setBank s i b).routes = s.routes := rfl
@[simp] theorem setBank_requests (s : State) (i : Nat) (b : Bank) : (setBank s i b).requests = s.requests := rfl
@[simp] theorem setBank_nextReq (s : State) (i : Nat) (b : Bank) : (setBank s i b).nextReq = s.nextReq := rfl
@[simp] theorem setBank_sent (s : State) (i : Nat) (b : Bank) : (setBank s i b).sent = s.sent := rfl
@[simp] theorem setBank_reply (s : State) (i : Nat) (b : Bank) : (setBank s i b).reply = s.reply := rfl
@[simp] theorem setBank_signals (s : State) (i : Nat) (b : Bank) : (setBank s i b).signals = s.signals := rfl
@[simp] theorem setBank_msix (s : State) (i : Nat) (b : Bank) : (setBank s i b).msix = s.msix := rfl
@[simp] theorem setBank_pba (s : State) (i : Nat) (b : Bank) : (setBank s i b).pba = s.pba := rfl
@[simp] theorem setBank_qown (s : State) (i : Nat) (b : Bank) : (setBank s i b).qown = s.qown := rfl
@[simp] theorem setBank_vown (s : State) (i : Nat) (b : Bank) : (setBank s i b).vown = s.vown := rfl
@[simp] theorem setBank_ctxown (s : State) (i : Nat) (b : Bank) : (setBank s i b).ctxown = s.ctxown := rfl
@[simp] theorem setBank_peers (s : State) (i : Nat) (b : Bank) : (setBank s i b).peers = s.peers := rfl
@[simp] theorem setBank_windows (s : State) (i : Nat) (b : Bank) : (setBank s i b).windows = s.windows := rfl
@[simp] theorem setBank_islands (s : State) (i : Nat) (b : Bank) : (setBank s i b).islands = s.islands := rfl
@[simp] theorem setBank_staging (s : State) (i : Nat) (b : Bank) : (setBank s i b).staging = s.staging := rfl
@[simp] theorem setBank_evseq (s : State) (i : Nat) (b : Bank) : (setBank s i b).evseq = s.evseq := rfl
@[simp] theorem setBank_ctl (s : State) (i : Nat) (b : Bank) : (setBank s i b).ctl = s.ctl := rfl

/-! ## setCtx -/

@[simp] theorem setCtx_me (s : State) (c : BitVec 6) (x : Context) : (setCtx s c x).me = s.me := rfl
@[simp] theorem setCtx_others (s : State) (c : BitVec 6) (x : Context) : (setCtx s c x).others = s.others := rfl
@[simp] theorem setCtx_lane (s : State) (c : BitVec 6) (x : Context) : (setCtx s c x).lane = s.lane := rfl
@[simp] theorem setCtx_lanes (s : State) (c : BitVec 6) (x : Context) : (setCtx s c x).lanes = s.lanes := rfl
@[simp] theorem setCtx_agenda (s : State) (c : BitVec 6) (x : Context) : (setCtx s c x).agenda = s.agenda := rfl
@[simp] theorem setCtx_defer (s : State) (c : BitVec 6) (x : Context) : (setCtx s c x).defer = s.defer := rfl
@[simp] theorem setCtx_free (s : State) (c : BitVec 6) (x : Context) : (setCtx s c x).free = s.free := rfl
@[simp] theorem setCtx_mem (s : State) (c : BitVec 6) (x : Context) : (setCtx s c x).mem = s.mem := rfl
@[simp] theorem setCtx_poison (s : State) (c : BitVec 6) (x : Context) : (setCtx s c x).poison = s.poison := rfl
@[simp] theorem setCtx_cache (s : State) (c : BitVec 6) (x : Context) : (setCtx s c x).cache = s.cache := rfl
@[simp] theorem setCtx_guests (s : State) (c : BitVec 6) (x : Context) : (setCtx s c x).guests = s.guests := rfl
@[simp] theorem setCtx_homeLines (s : State) (c : BitVec 6) (x : Context) : (setCtx s c x).homeLines = s.homeLines := rfl
@[simp] theorem setCtx_tlb (s : State) (c : BitVec 6) (x : Context) : (setCtx s c x).tlb = s.tlb := rfl
@[simp] theorem setCtx_cbs (s : State) (c : BitVec 6) (x : Context) : (setCtx s c x).cbs = s.cbs := rfl
@[simp] theorem setCtx_laneFns (s : State) (c : BitVec 6) (x : Context) : (setCtx s c x).laneFns = s.laneFns := rfl
@[simp] theorem setCtx_icache (s : State) (c : BitVec 6) (x : Context) : (setCtx s c x).icache = s.icache := rfl
@[simp] theorem setCtx_trails (s : State) (c : BitVec 6) (x : Context) : (setCtx s c x).trails = s.trails := rfl
@[simp] theorem setCtx_objWaits (s : State) (c : BitVec 6) (x : Context) : (setCtx s c x).objWaits = s.objWaits := rfl
@[simp] theorem setCtx_ringWaits (s : State) (c : BitVec 6) (x : Context) : (setCtx s c x).ringWaits = s.ringWaits := rfl
@[simp] theorem setCtx_links (s : State) (c : BitVec 6) (x : Context) : (setCtx s c x).links = s.links := rfl
@[simp] theorem setCtx_holds (s : State) (c : BitVec 6) (x : Context) : (setCtx s c x).holds = s.holds := rfl
@[simp] theorem setCtx_groups (s : State) (c : BitVec 6) (x : Context) : (setCtx s c x).groups = s.groups := rfl
@[simp] theorem setCtx_bandBars (s : State) (c : BitVec 6) (x : Context) : (setCtx s c x).bandBars = s.bandBars := rfl
@[simp] theorem setCtx_arrivals (s : State) (c : BitVec 6) (x : Context) : (setCtx s c x).arrivals = s.arrivals := rfl
@[simp] theorem setCtx_slots (s : State) (c : BitVec 6) (x : Context) : (setCtx s c x).slots = s.slots := rfl
@[simp] theorem setCtx_slotEdits (s : State) (c : BitVec 6) (x : Context) : (setCtx s c x).slotEdits = s.slotEdits := rfl
@[simp] theorem setCtx_stopRecords (s : State) (c : BitVec 6) (x : Context) : (setCtx s c x).stopRecords = s.stopRecords := rfl
@[simp] theorem setCtx_notices (s : State) (c : BitVec 6) (x : Context) : (setCtx s c x).notices = s.notices := rfl
@[simp] theorem setCtx_queues (s : State) (c : BitVec 6) (x : Context) : (setCtx s c x).queues = s.queues := rfl
@[simp] theorem setCtx_launches (s : State) (c : BitVec 6) (x : Context) : (setCtx s c x).launches = s.launches := rfl
@[simp] theorem setCtx_submitted (s : State) (c : BitVec 6) (x : Context) : (setCtx s c x).submitted = s.submitted := rfl
@[simp] theorem setCtx_pendingRecords (s : State) (c : BitVec 6) (x : Context) : (setCtx s c x).pendingRecords = s.pendingRecords := rfl
@[simp] theorem setCtx_kernels (s : State) (c : BitVec 6) (x : Context) : (setCtx s c x).kernels = s.kernels := rfl
@[simp] theorem setCtx_contexts (s : State) (c : BitVec 6) (x : Context) : (setCtx s c x).contexts = tabSet s.contexts c.toNat x := rfl
@[simp] theorem setCtx_images (s : State) (c : BitVec 6) (x : Context) : (setCtx s c x).images = s.images := rfl
@[simp] theorem setCtx_decamp (s : State) (c : BitVec 6) (x : Context) : (setCtx s c x).decamp = s.decamp := rfl
@[simp] theorem setCtx_keySlots (s : State) (c : BitVec 6) (x : Context) : (setCtx s c x).keySlots = s.keySlots := rfl
@[simp] theorem setCtx_faults (s : State) (c : BitVec 6) (x : Context) : (setCtx s c x).faults = s.faults := rfl
@[simp] theorem setCtx_nextFtag (s : State) (c : BitVec 6) (x : Context) : (setCtx s c x).nextFtag = s.nextFtag := rfl
@[simp] theorem setCtx_held (s : State) (c : BitVec 6) (x : Context) : (setCtx s c x).held = s.held := rfl
@[simp] theorem setCtx_heldObjs (s : State) (c : BitVec 6) (x : Context) : (setCtx s c x).heldObjs = s.heldObjs := rfl
@[simp] theorem setCtx_move (s : State) (c : BitVec 6) (x : Context) : (setCtx s c x).move = s.move := rfl
@[simp] theorem setCtx_banks (s : State) (c : BitVec 6) (x : Context) : (setCtx s c x).banks = s.banks := rfl
@[simp] theorem setCtx_evacuations (s : State) (c : BitVec 6) (x : Context) : (setCtx s c x).evacuations = s.evacuations := rfl
@[simp] theorem setCtx_bankMap (s : State) (c : BitVec 6) (x : Context) : (setCtx s c x).bankMap = s.bankMap := rfl
@[simp] theorem setCtx_capls (s : State) (c : BitVec 6) (x : Context) : (setCtx s c x).capls = s.capls := rfl
@[simp] theorem setCtx_ports (s : State) (c : BitVec 6) (x : Context) : (setCtx s c x).ports = s.ports := rfl
@[simp] theorem setCtx_routes (s : State) (c : BitVec 6) (x : Context) : (setCtx s c x).routes = s.routes := rfl
@[simp] theorem setCtx_requests (s : State) (c : BitVec 6) (x : Context) : (setCtx s c x).requests = s.requests := rfl
@[simp] theorem setCtx_nextReq (s : State) (c : BitVec 6) (x : Context) : (setCtx s c x).nextReq = s.nextReq := rfl
@[simp] theorem setCtx_sent (s : State) (c : BitVec 6) (x : Context) : (setCtx s c x).sent = s.sent := rfl
@[simp] theorem setCtx_reply (s : State) (c : BitVec 6) (x : Context) : (setCtx s c x).reply = s.reply := rfl
@[simp] theorem setCtx_signals (s : State) (c : BitVec 6) (x : Context) : (setCtx s c x).signals = s.signals := rfl
@[simp] theorem setCtx_msix (s : State) (c : BitVec 6) (x : Context) : (setCtx s c x).msix = s.msix := rfl
@[simp] theorem setCtx_pba (s : State) (c : BitVec 6) (x : Context) : (setCtx s c x).pba = s.pba := rfl
@[simp] theorem setCtx_qown (s : State) (c : BitVec 6) (x : Context) : (setCtx s c x).qown = s.qown := rfl
@[simp] theorem setCtx_vown (s : State) (c : BitVec 6) (x : Context) : (setCtx s c x).vown = s.vown := rfl
@[simp] theorem setCtx_ctxown (s : State) (c : BitVec 6) (x : Context) : (setCtx s c x).ctxown = s.ctxown := rfl
@[simp] theorem setCtx_peers (s : State) (c : BitVec 6) (x : Context) : (setCtx s c x).peers = s.peers := rfl
@[simp] theorem setCtx_windows (s : State) (c : BitVec 6) (x : Context) : (setCtx s c x).windows = s.windows := rfl
@[simp] theorem setCtx_islands (s : State) (c : BitVec 6) (x : Context) : (setCtx s c x).islands = s.islands := rfl
@[simp] theorem setCtx_staging (s : State) (c : BitVec 6) (x : Context) : (setCtx s c x).staging = s.staging := rfl
@[simp] theorem setCtx_evseq (s : State) (c : BitVec 6) (x : Context) : (setCtx s c x).evseq = s.evseq := rfl
@[simp] theorem setCtx_ctl (s : State) (c : BitVec 6) (x : Context) : (setCtx s c x).ctl = s.ctl := rfl

/-! ## setQueue -/

@[simp] theorem setQueue_me (s : State) (q : BitVec 10) (x : Queue) : (setQueue s q x).me = s.me := rfl
@[simp] theorem setQueue_others (s : State) (q : BitVec 10) (x : Queue) : (setQueue s q x).others = s.others := rfl
@[simp] theorem setQueue_lane (s : State) (q : BitVec 10) (x : Queue) : (setQueue s q x).lane = s.lane := rfl
@[simp] theorem setQueue_lanes (s : State) (q : BitVec 10) (x : Queue) : (setQueue s q x).lanes = s.lanes := rfl
@[simp] theorem setQueue_agenda (s : State) (q : BitVec 10) (x : Queue) : (setQueue s q x).agenda = s.agenda := rfl
@[simp] theorem setQueue_defer (s : State) (q : BitVec 10) (x : Queue) : (setQueue s q x).defer = s.defer := rfl
@[simp] theorem setQueue_free (s : State) (q : BitVec 10) (x : Queue) : (setQueue s q x).free = s.free := rfl
@[simp] theorem setQueue_mem (s : State) (q : BitVec 10) (x : Queue) : (setQueue s q x).mem = s.mem := rfl
@[simp] theorem setQueue_poison (s : State) (q : BitVec 10) (x : Queue) : (setQueue s q x).poison = s.poison := rfl
@[simp] theorem setQueue_cache (s : State) (q : BitVec 10) (x : Queue) : (setQueue s q x).cache = s.cache := rfl
@[simp] theorem setQueue_guests (s : State) (q : BitVec 10) (x : Queue) : (setQueue s q x).guests = s.guests := rfl
@[simp] theorem setQueue_homeLines (s : State) (q : BitVec 10) (x : Queue) : (setQueue s q x).homeLines = s.homeLines := rfl
@[simp] theorem setQueue_tlb (s : State) (q : BitVec 10) (x : Queue) : (setQueue s q x).tlb = s.tlb := rfl
@[simp] theorem setQueue_cbs (s : State) (q : BitVec 10) (x : Queue) : (setQueue s q x).cbs = s.cbs := rfl
@[simp] theorem setQueue_laneFns (s : State) (q : BitVec 10) (x : Queue) : (setQueue s q x).laneFns = s.laneFns := rfl
@[simp] theorem setQueue_icache (s : State) (q : BitVec 10) (x : Queue) : (setQueue s q x).icache = s.icache := rfl
@[simp] theorem setQueue_trails (s : State) (q : BitVec 10) (x : Queue) : (setQueue s q x).trails = s.trails := rfl
@[simp] theorem setQueue_objWaits (s : State) (q : BitVec 10) (x : Queue) : (setQueue s q x).objWaits = s.objWaits := rfl
@[simp] theorem setQueue_ringWaits (s : State) (q : BitVec 10) (x : Queue) : (setQueue s q x).ringWaits = s.ringWaits := rfl
@[simp] theorem setQueue_links (s : State) (q : BitVec 10) (x : Queue) : (setQueue s q x).links = s.links := rfl
@[simp] theorem setQueue_holds (s : State) (q : BitVec 10) (x : Queue) : (setQueue s q x).holds = s.holds := rfl
@[simp] theorem setQueue_groups (s : State) (q : BitVec 10) (x : Queue) : (setQueue s q x).groups = s.groups := rfl
@[simp] theorem setQueue_bandBars (s : State) (q : BitVec 10) (x : Queue) : (setQueue s q x).bandBars = s.bandBars := rfl
@[simp] theorem setQueue_arrivals (s : State) (q : BitVec 10) (x : Queue) : (setQueue s q x).arrivals = s.arrivals := rfl
@[simp] theorem setQueue_slots (s : State) (q : BitVec 10) (x : Queue) : (setQueue s q x).slots = s.slots := rfl
@[simp] theorem setQueue_slotEdits (s : State) (q : BitVec 10) (x : Queue) : (setQueue s q x).slotEdits = s.slotEdits := rfl
@[simp] theorem setQueue_stopRecords (s : State) (q : BitVec 10) (x : Queue) : (setQueue s q x).stopRecords = s.stopRecords := rfl
@[simp] theorem setQueue_notices (s : State) (q : BitVec 10) (x : Queue) : (setQueue s q x).notices = s.notices := rfl
@[simp] theorem setQueue_queues (s : State) (q : BitVec 10) (x : Queue) : (setQueue s q x).queues = tabSet s.queues q.toNat x := rfl
@[simp] theorem setQueue_launches (s : State) (q : BitVec 10) (x : Queue) : (setQueue s q x).launches = s.launches := rfl
@[simp] theorem setQueue_submitted (s : State) (q : BitVec 10) (x : Queue) : (setQueue s q x).submitted = s.submitted := rfl
@[simp] theorem setQueue_pendingRecords (s : State) (q : BitVec 10) (x : Queue) : (setQueue s q x).pendingRecords = s.pendingRecords := rfl
@[simp] theorem setQueue_kernels (s : State) (q : BitVec 10) (x : Queue) : (setQueue s q x).kernels = s.kernels := rfl
@[simp] theorem setQueue_contexts (s : State) (q : BitVec 10) (x : Queue) : (setQueue s q x).contexts = s.contexts := rfl
@[simp] theorem setQueue_images (s : State) (q : BitVec 10) (x : Queue) : (setQueue s q x).images = s.images := rfl
@[simp] theorem setQueue_decamp (s : State) (q : BitVec 10) (x : Queue) : (setQueue s q x).decamp = s.decamp := rfl
@[simp] theorem setQueue_keySlots (s : State) (q : BitVec 10) (x : Queue) : (setQueue s q x).keySlots = s.keySlots := rfl
@[simp] theorem setQueue_faults (s : State) (q : BitVec 10) (x : Queue) : (setQueue s q x).faults = s.faults := rfl
@[simp] theorem setQueue_nextFtag (s : State) (q : BitVec 10) (x : Queue) : (setQueue s q x).nextFtag = s.nextFtag := rfl
@[simp] theorem setQueue_held (s : State) (q : BitVec 10) (x : Queue) : (setQueue s q x).held = s.held := rfl
@[simp] theorem setQueue_heldObjs (s : State) (q : BitVec 10) (x : Queue) : (setQueue s q x).heldObjs = s.heldObjs := rfl
@[simp] theorem setQueue_move (s : State) (q : BitVec 10) (x : Queue) : (setQueue s q x).move = s.move := rfl
@[simp] theorem setQueue_banks (s : State) (q : BitVec 10) (x : Queue) : (setQueue s q x).banks = s.banks := rfl
@[simp] theorem setQueue_evacuations (s : State) (q : BitVec 10) (x : Queue) : (setQueue s q x).evacuations = s.evacuations := rfl
@[simp] theorem setQueue_bankMap (s : State) (q : BitVec 10) (x : Queue) : (setQueue s q x).bankMap = s.bankMap := rfl
@[simp] theorem setQueue_capls (s : State) (q : BitVec 10) (x : Queue) : (setQueue s q x).capls = s.capls := rfl
@[simp] theorem setQueue_ports (s : State) (q : BitVec 10) (x : Queue) : (setQueue s q x).ports = s.ports := rfl
@[simp] theorem setQueue_routes (s : State) (q : BitVec 10) (x : Queue) : (setQueue s q x).routes = s.routes := rfl
@[simp] theorem setQueue_requests (s : State) (q : BitVec 10) (x : Queue) : (setQueue s q x).requests = s.requests := rfl
@[simp] theorem setQueue_nextReq (s : State) (q : BitVec 10) (x : Queue) : (setQueue s q x).nextReq = s.nextReq := rfl
@[simp] theorem setQueue_sent (s : State) (q : BitVec 10) (x : Queue) : (setQueue s q x).sent = s.sent := rfl
@[simp] theorem setQueue_reply (s : State) (q : BitVec 10) (x : Queue) : (setQueue s q x).reply = s.reply := rfl
@[simp] theorem setQueue_signals (s : State) (q : BitVec 10) (x : Queue) : (setQueue s q x).signals = s.signals := rfl
@[simp] theorem setQueue_msix (s : State) (q : BitVec 10) (x : Queue) : (setQueue s q x).msix = s.msix := rfl
@[simp] theorem setQueue_pba (s : State) (q : BitVec 10) (x : Queue) : (setQueue s q x).pba = s.pba := rfl
@[simp] theorem setQueue_qown (s : State) (q : BitVec 10) (x : Queue) : (setQueue s q x).qown = s.qown := rfl
@[simp] theorem setQueue_vown (s : State) (q : BitVec 10) (x : Queue) : (setQueue s q x).vown = s.vown := rfl
@[simp] theorem setQueue_ctxown (s : State) (q : BitVec 10) (x : Queue) : (setQueue s q x).ctxown = s.ctxown := rfl
@[simp] theorem setQueue_peers (s : State) (q : BitVec 10) (x : Queue) : (setQueue s q x).peers = s.peers := rfl
@[simp] theorem setQueue_windows (s : State) (q : BitVec 10) (x : Queue) : (setQueue s q x).windows = s.windows := rfl
@[simp] theorem setQueue_islands (s : State) (q : BitVec 10) (x : Queue) : (setQueue s q x).islands = s.islands := rfl
@[simp] theorem setQueue_staging (s : State) (q : BitVec 10) (x : Queue) : (setQueue s q x).staging = s.staging := rfl
@[simp] theorem setQueue_evseq (s : State) (q : BitVec 10) (x : Queue) : (setQueue s q x).evseq = s.evseq := rfl
@[simp] theorem setQueue_ctl (s : State) (q : BitVec 10) (x : Queue) : (setQueue s q x).ctl = s.ctl := rfl

/-! ## setS -/

@[simp] theorem setS_others (s : State) (r : BitVec 6) (v : Word) : (setS s r v).others = s.others := by
  unfold setS; split
  · rfl
  · split <;> rfl
@[simp] theorem setS_lane (s : State) (r : BitVec 6) (v : Word) : (setS s r v).lane = s.lane := by
  unfold setS; split
  · rfl
  · split <;> rfl
@[simp] theorem setS_lanes (s : State) (r : BitVec 6) (v : Word) : (setS s r v).lanes = s.lanes := by
  unfold setS; split
  · rfl
  · split <;> rfl
@[simp] theorem setS_agenda (s : State) (r : BitVec 6) (v : Word) : (setS s r v).agenda = s.agenda := by
  unfold setS; split
  · rfl
  · split <;> rfl
@[simp] theorem setS_defer (s : State) (r : BitVec 6) (v : Word) : (setS s r v).defer = s.defer := by
  unfold setS; split
  · rfl
  · split <;> rfl
@[simp] theorem setS_free (s : State) (r : BitVec 6) (v : Word) : (setS s r v).free = s.free := by
  unfold setS; split
  · rfl
  · split <;> rfl
@[simp] theorem setS_mem (s : State) (r : BitVec 6) (v : Word) : (setS s r v).mem = s.mem := by
  unfold setS; split
  · rfl
  · split <;> rfl
@[simp] theorem setS_poison (s : State) (r : BitVec 6) (v : Word) : (setS s r v).poison = s.poison := by
  unfold setS; split
  · rfl
  · split <;> rfl
@[simp] theorem setS_cache (s : State) (r : BitVec 6) (v : Word) : (setS s r v).cache = s.cache := by
  unfold setS; split
  · rfl
  · split <;> rfl
@[simp] theorem setS_guests (s : State) (r : BitVec 6) (v : Word) : (setS s r v).guests = s.guests := by
  unfold setS; split
  · rfl
  · split <;> rfl
@[simp] theorem setS_homeLines (s : State) (r : BitVec 6) (v : Word) : (setS s r v).homeLines = s.homeLines := by
  unfold setS; split
  · rfl
  · split <;> rfl
@[simp] theorem setS_tlb (s : State) (r : BitVec 6) (v : Word) : (setS s r v).tlb = s.tlb := by
  unfold setS; split
  · rfl
  · split <;> rfl
@[simp] theorem setS_cbs (s : State) (r : BitVec 6) (v : Word) : (setS s r v).cbs = s.cbs := by
  unfold setS; split
  · rfl
  · split <;> rfl
@[simp] theorem setS_laneFns (s : State) (r : BitVec 6) (v : Word) : (setS s r v).laneFns = s.laneFns := by
  unfold setS; split
  · rfl
  · split <;> rfl
@[simp] theorem setS_icache (s : State) (r : BitVec 6) (v : Word) : (setS s r v).icache = s.icache := by
  unfold setS; split
  · rfl
  · split <;> rfl
@[simp] theorem setS_trails (s : State) (r : BitVec 6) (v : Word) : (setS s r v).trails = s.trails := by
  unfold setS; split
  · rfl
  · split <;> rfl
@[simp] theorem setS_objWaits (s : State) (r : BitVec 6) (v : Word) : (setS s r v).objWaits = s.objWaits := by
  unfold setS; split
  · rfl
  · split <;> rfl
@[simp] theorem setS_ringWaits (s : State) (r : BitVec 6) (v : Word) : (setS s r v).ringWaits = s.ringWaits := by
  unfold setS; split
  · rfl
  · split <;> rfl
@[simp] theorem setS_links (s : State) (r : BitVec 6) (v : Word) : (setS s r v).links = s.links := by
  unfold setS; split
  · rfl
  · split <;> rfl
@[simp] theorem setS_holds (s : State) (r : BitVec 6) (v : Word) : (setS s r v).holds = s.holds := by
  unfold setS; split
  · rfl
  · split <;> rfl
@[simp] theorem setS_groups (s : State) (r : BitVec 6) (v : Word) : (setS s r v).groups = s.groups := by
  unfold setS; split
  · rfl
  · split <;> rfl
@[simp] theorem setS_bandBars (s : State) (r : BitVec 6) (v : Word) : (setS s r v).bandBars = s.bandBars := by
  unfold setS; split
  · rfl
  · split <;> rfl
@[simp] theorem setS_arrivals (s : State) (r : BitVec 6) (v : Word) : (setS s r v).arrivals = s.arrivals := by
  unfold setS; split
  · rfl
  · split <;> rfl
@[simp] theorem setS_slots (s : State) (r : BitVec 6) (v : Word) : (setS s r v).slots = s.slots := by
  unfold setS; split
  · rfl
  · split <;> rfl
@[simp] theorem setS_slotEdits (s : State) (r : BitVec 6) (v : Word) : (setS s r v).slotEdits = s.slotEdits := by
  unfold setS; split
  · rfl
  · split <;> rfl
@[simp] theorem setS_stopRecords (s : State) (r : BitVec 6) (v : Word) : (setS s r v).stopRecords = s.stopRecords := by
  unfold setS; split
  · rfl
  · split <;> rfl
@[simp] theorem setS_notices (s : State) (r : BitVec 6) (v : Word) : (setS s r v).notices = s.notices := by
  unfold setS; split
  · rfl
  · split <;> rfl
@[simp] theorem setS_queues (s : State) (r : BitVec 6) (v : Word) : (setS s r v).queues = s.queues := by
  unfold setS; split
  · rfl
  · split <;> rfl
@[simp] theorem setS_launches (s : State) (r : BitVec 6) (v : Word) : (setS s r v).launches = s.launches := by
  unfold setS; split
  · rfl
  · split <;> rfl
@[simp] theorem setS_submitted (s : State) (r : BitVec 6) (v : Word) : (setS s r v).submitted = s.submitted := by
  unfold setS; split
  · rfl
  · split <;> rfl
@[simp] theorem setS_pendingRecords (s : State) (r : BitVec 6) (v : Word) : (setS s r v).pendingRecords = s.pendingRecords := by
  unfold setS; split
  · rfl
  · split <;> rfl
@[simp] theorem setS_kernels (s : State) (r : BitVec 6) (v : Word) : (setS s r v).kernels = s.kernels := by
  unfold setS; split
  · rfl
  · split <;> rfl
@[simp] theorem setS_contexts (s : State) (r : BitVec 6) (v : Word) : (setS s r v).contexts = s.contexts := by
  unfold setS; split
  · rfl
  · split <;> rfl
@[simp] theorem setS_images (s : State) (r : BitVec 6) (v : Word) : (setS s r v).images = s.images := by
  unfold setS; split
  · rfl
  · split <;> rfl
@[simp] theorem setS_decamp (s : State) (r : BitVec 6) (v : Word) : (setS s r v).decamp = s.decamp := by
  unfold setS; split
  · rfl
  · split <;> rfl
@[simp] theorem setS_keySlots (s : State) (r : BitVec 6) (v : Word) : (setS s r v).keySlots = s.keySlots := by
  unfold setS; split
  · rfl
  · split <;> rfl
@[simp] theorem setS_faults (s : State) (r : BitVec 6) (v : Word) : (setS s r v).faults = s.faults := by
  unfold setS; split
  · rfl
  · split <;> rfl
@[simp] theorem setS_nextFtag (s : State) (r : BitVec 6) (v : Word) : (setS s r v).nextFtag = s.nextFtag := by
  unfold setS; split
  · rfl
  · split <;> rfl
@[simp] theorem setS_held (s : State) (r : BitVec 6) (v : Word) : (setS s r v).held = s.held := by
  unfold setS; split
  · rfl
  · split <;> rfl
@[simp] theorem setS_heldObjs (s : State) (r : BitVec 6) (v : Word) : (setS s r v).heldObjs = s.heldObjs := by
  unfold setS; split
  · rfl
  · split <;> rfl
@[simp] theorem setS_move (s : State) (r : BitVec 6) (v : Word) : (setS s r v).move = s.move := by
  unfold setS; split
  · rfl
  · split <;> rfl
@[simp] theorem setS_banks (s : State) (r : BitVec 6) (v : Word) : (setS s r v).banks = s.banks := by
  unfold setS; split
  · rfl
  · split <;> rfl
@[simp] theorem setS_evacuations (s : State) (r : BitVec 6) (v : Word) : (setS s r v).evacuations = s.evacuations := by
  unfold setS; split
  · rfl
  · split <;> rfl
@[simp] theorem setS_bankMap (s : State) (r : BitVec 6) (v : Word) : (setS s r v).bankMap = s.bankMap := by
  unfold setS; split
  · rfl
  · split <;> rfl
@[simp] theorem setS_capls (s : State) (r : BitVec 6) (v : Word) : (setS s r v).capls = s.capls := by
  unfold setS; split
  · rfl
  · split <;> rfl
@[simp] theorem setS_ports (s : State) (r : BitVec 6) (v : Word) : (setS s r v).ports = s.ports := by
  unfold setS; split
  · rfl
  · split <;> rfl
@[simp] theorem setS_routes (s : State) (r : BitVec 6) (v : Word) : (setS s r v).routes = s.routes := by
  unfold setS; split
  · rfl
  · split <;> rfl
@[simp] theorem setS_requests (s : State) (r : BitVec 6) (v : Word) : (setS s r v).requests = s.requests := by
  unfold setS; split
  · rfl
  · split <;> rfl
@[simp] theorem setS_nextReq (s : State) (r : BitVec 6) (v : Word) : (setS s r v).nextReq = s.nextReq := by
  unfold setS; split
  · rfl
  · split <;> rfl
@[simp] theorem setS_sent (s : State) (r : BitVec 6) (v : Word) : (setS s r v).sent = s.sent := by
  unfold setS; split
  · rfl
  · split <;> rfl
@[simp] theorem setS_reply (s : State) (r : BitVec 6) (v : Word) : (setS s r v).reply = s.reply := by
  unfold setS; split
  · rfl
  · split <;> rfl
@[simp] theorem setS_signals (s : State) (r : BitVec 6) (v : Word) : (setS s r v).signals = s.signals := by
  unfold setS; split
  · rfl
  · split <;> rfl
@[simp] theorem setS_msix (s : State) (r : BitVec 6) (v : Word) : (setS s r v).msix = s.msix := by
  unfold setS; split
  · rfl
  · split <;> rfl
@[simp] theorem setS_pba (s : State) (r : BitVec 6) (v : Word) : (setS s r v).pba = s.pba := by
  unfold setS; split
  · rfl
  · split <;> rfl
@[simp] theorem setS_qown (s : State) (r : BitVec 6) (v : Word) : (setS s r v).qown = s.qown := by
  unfold setS; split
  · rfl
  · split <;> rfl
@[simp] theorem setS_vown (s : State) (r : BitVec 6) (v : Word) : (setS s r v).vown = s.vown := by
  unfold setS; split
  · rfl
  · split <;> rfl
@[simp] theorem setS_ctxown (s : State) (r : BitVec 6) (v : Word) : (setS s r v).ctxown = s.ctxown := by
  unfold setS; split
  · rfl
  · split <;> rfl
@[simp] theorem setS_peers (s : State) (r : BitVec 6) (v : Word) : (setS s r v).peers = s.peers := by
  unfold setS; split
  · rfl
  · split <;> rfl
@[simp] theorem setS_windows (s : State) (r : BitVec 6) (v : Word) : (setS s r v).windows = s.windows := by
  unfold setS; split
  · rfl
  · split <;> rfl
@[simp] theorem setS_islands (s : State) (r : BitVec 6) (v : Word) : (setS s r v).islands = s.islands := by
  unfold setS; split
  · rfl
  · split <;> rfl
@[simp] theorem setS_staging (s : State) (r : BitVec 6) (v : Word) : (setS s r v).staging = s.staging := by
  unfold setS; split
  · rfl
  · split <;> rfl
@[simp] theorem setS_evseq (s : State) (r : BitVec 6) (v : Word) : (setS s r v).evseq = s.evseq := by
  unfold setS; split
  · rfl
  · split <;> rfl
@[simp] theorem setS_ctl (s : State) (r : BitVec 6) (v : Word) : (setS s r v).ctl = s.ctl := by
  unfold setS; split
  · rfl
  · split <;> rfl
@[simp] theorem setS_me_slot (s : State) (r : BitVec 6) (v : Word) : (setS s r v).me.slot = s.me.slot := by
  unfold setS; split
  · rfl
  · split <;> rfl
@[simp] theorem setS_me_st (s : State) (r : BitVec 6) (v : Word) : (setS s r v).me.st = s.me.st := by
  unfold setS; split
  · rfl
  · split <;> rfl
@[simp] theorem setS_me_ctx (s : State) (r : BitVec 6) (v : Word) : (setS s r v).me.ctx = s.me.ctx := by
  unfold setS; split
  · rfl
  · split <;> rfl
@[simp] theorem setS_me_kernel (s : State) (r : BitVec 6) (v : Word) : (setS s r v).me.kernel = s.me.kernel := by
  unfold setS; split
  · rfl
  · split <;> rfl
@[simp] theorem setS_me_gid (s : State) (r : BitVec 6) (v : Word) : (setS s r v).me.gid = s.me.gid := by
  unfold setS; split
  · rfl
  · split <;> rfl
@[simp] theorem setS_me_bid (s : State) (r : BitVec 6) (v : Word) : (setS s r v).me.bid = s.me.bid := by
  unfold setS; split
  · rfl
  · split <;> rfl
@[simp] theorem setS_me_gidReg (s : State) (r : BitVec 6) (v : Word) : (setS s r v).me.gidReg = s.me.gidReg := by
  unfold setS; split
  · rfl
  · split <;> rfl
@[simp] theorem setS_me_bndid (s : State) (r : BitVec 6) (v : Word) : (setS s r v).me.bndid = s.me.bndid := by
  unfold setS; split
  · rfl
  · split <;> rfl
@[simp] theorem setS_me_lseq (s : State) (r : BitVec 6) (v : Word) : (setS s r v).me.lseq = s.me.lseq := by
  unfold setS; split
  · rfl
  · split <;> rfl
@[simp] theorem setS_me_rsv (s : State) (r : BitVec 6) (v : Word) : (setS s r v).me.rsv = s.me.rsv := by
  unfold setS; split
  · rfl
  · split <;> rfl
@[simp] theorem setS_me_pc (s : State) (r : BitVec 6) (v : Word) : (setS s r v).me.pc = s.me.pc := by
  unfold setS; split
  · rfl
  · split <;> rfl
@[simp] theorem setS_me_loops (s : State) (r : BitVec 6) (v : Word) : (setS s r v).me.loops = s.me.loops := by
  unfold setS; split
  · rfl
  · split <;> rfl
@[simp] theorem setS_me_shapes (s : State) (r : BitVec 6) (v : Word) : (setS s r v).me.shapes = s.me.shapes := by
  unfold setS; split
  · rfl
  · split <;> rfl
@[simp] theorem setS_me_names (s : State) (r : BitVec 6) (v : Word) : (setS s r v).me.names = s.me.names := by
  unfold setS; split
  · rfl
  · split <;> rfl
@[simp] theorem setS_me_versions (s : State) (r : BitVec 6) (v : Word) : (setS s r v).me.versions = s.me.versions := by
  unfold setS; split
  · rfl
  · split <;> rfl
@[simp] theorem setS_me_streams (s : State) (r : BitVec 6) (v : Word) : (setS s r v).me.streams = s.me.streams := by
  unfold setS; split
  · rfl
  · split <;> rfl
@[simp] theorem setS_me_tags (s : State) (r : BitVec 6) (v : Word) : (setS s r v).me.tags = s.me.tags := by
  unfold setS; split
  · rfl
  · split <;> rfl
@[simp] theorem setS_me_lstat (s : State) (r : BitVec 6) (v : Word) : (setS s r v).me.lstat = s.me.lstat := by
  unfold setS; split
  · rfl
  · split <;> rfl
@[simp] theorem setS_me_vtype (s : State) (r : BitVec 6) (v : Word) : (setS s r v).me.vtype = s.me.vtype := by
  unfold setS; split
  · rfl
  · split <;> rfl
@[simp] theorem setS_me_vtypeOf (s : State) (r : BitVec 6) (v : Word) : (setS s r v).me.vtypeOf = s.me.vtypeOf := by
  unfold setS; split
  · rfl
  · split <;> rfl
@[simp] theorem setS_me_region (s : State) (r : BitVec 6) (v : Word) : (setS s r v).me.region = s.me.region := by
  unfold setS; split
  · rfl
  · split <;> rfl
@[simp] theorem setS_me_cairn (s : State) (r : BitVec 6) (v : Word) : (setS s r v).me.cairn = s.me.cairn := by
  unfold setS; split
  · rfl
  · split <;> rfl
@[simp] theorem setS_me_rollbacks (s : State) (r : BitVec 6) (v : Word) : (setS s r v).me.rollbacks = s.me.rollbacks := by
  unfold setS; split
  · rfl
  · split <;> rfl
@[simp] theorem setS_me_trapRec (s : State) (r : BitVec 6) (v : Word) : (setS s r v).me.trapRec = s.me.trapRec := by
  unfold setS; split
  · rfl
  · split <;> rfl
@[simp] theorem setS_me_inHandler (s : State) (r : BitVec 6) (v : Word) : (setS s r v).me.inHandler = s.me.inHandler := by
  unfold setS; split
  · rfl
  · split <;> rfl
@[simp] theorem setS_me_savedPc (s : State) (r : BitVec 6) (v : Word) : (setS s r v).me.savedPc = s.me.savedPc := by
  unfold setS; split
  · rfl
  · split <;> rfl
@[simp] theorem setS_me_savedLoops (s : State) (r : BitVec 6) (v : Word) : (setS s r v).me.savedLoops = s.me.savedLoops := by
  unfold setS; split
  · rfl
  · split <;> rfl
@[simp] theorem setS_me_trapped (s : State) (r : BitVec 6) (v : Word) : (setS s r v).me.trapped = s.me.trapped := by
  unfold setS; split
  · rfl
  · split <;> rfl
@[simp] theorem setS_me_flights (s : State) (r : BitVec 6) (v : Word) : (setS s r v).me.flights = s.me.flights := by
  unfold setS; split
  · rfl
  · split <;> rfl
@[simp] theorem setS_me_nextId (s : State) (r : BitVec 6) (v : Word) : (setS s r v).me.nextId = s.me.nextId := by
  unfold setS; split
  · rfl
  · split <;> rfl
@[simp] theorem setS_me_wait (s : State) (r : BitVec 6) (v : Word) : (setS s r v).me.wait = s.me.wait := by
  unfold setS; split
  · rfl
  · split <;> rfl
@[simp] theorem setS_me_due (s : State) (r : BitVec 6) (v : Word) : (setS s r v).me.due = s.me.due := by
  unfold setS; split
  · rfl
  · split <;> rfl
@[simp] theorem setS_me_token (s : State) (r : BitVec 6) (v : Word) : (setS s r v).me.token = s.me.token := by
  unfold setS; split
  · rfl
  · split <;> rfl
@[simp] theorem setS_me_holding (s : State) (r : BitVec 6) (v : Word) : (setS s r v).me.holding = s.me.holding := by
  unfold setS; split
  · rfl
  · split <;> rfl
@[simp] theorem setS_me_channels (s : State) (r : BitVec 6) (v : Word) : (setS s r v).me.channels = s.me.channels := by
  unfold setS; split
  · rfl
  · split <;> rfl
@[simp] theorem setS_me_preempt (s : State) (r : BitVec 6) (v : Word) : (setS s r v).me.preempt = s.me.preempt := by
  unfold setS; split
  · rfl
  · split <;> rfl
@[simp] theorem setS_me_graceOver (s : State) (r : BitVec 6) (v : Word) : (setS s r v).me.graceOver = s.me.graceOver := by
  unfold setS; split
  · rfl
  · split <;> rfl
@[simp] theorem setS_me_atPoint (s : State) (r : BitVec 6) (v : Word) : (setS s r v).me.atPoint = s.me.atPoint := by
  unfold setS; split
  · rfl
  · split <;> rfl
@[simp] theorem setS_me_roll (s : State) (r : BitVec 6) (v : Word) : (setS s r v).me.roll = s.me.roll := by
  unfold setS; split
  · rfl
  · split <;> rfl
@[simp] theorem setS_me_fillWait (s : State) (r : BitVec 6) (v : Word) : (setS s r v).me.fillWait = s.me.fillWait := by
  unfold setS; split
  · rfl
  · split <;> rfl
@[simp] theorem setS_me_cbClaim (s : State) (r : BitVec 6) (v : Word) : (setS s r v).me.cbClaim = s.me.cbClaim := by
  unfold setS; split
  · rfl
  · split <;> rfl
@[simp] theorem setS_me_posted (s : State) (r : BitVec 6) (v : Word) : (setS s r v).me.posted = s.me.posted := by
  unfold setS; split
  · rfl
  · split <;> rfl
@[simp] theorem setS_me_asks (s : State) (r : BitVec 6) (v : Word) : (setS s r v).me.asks = s.me.asks := by
  unfold setS; split
  · rfl
  · split <;> rfl
@[simp] theorem setS_me_relBound (s : State) (r : BitVec 6) (v : Word) : (setS s r v).me.relBound = s.me.relBound := by
  unfold setS; split
  · rfl
  · split <;> rfl
@[simp] theorem setS_me_renames (s : State) (r : BitVec 6) (v : Word) : (setS s r v).me.renames = s.me.renames := by
  unfold setS; split
  · rfl
  · split <;> rfl

/-! ## The lookups of tables after an update -/

@[simp] theorem getBank_setBank_same (s : State) (i : Nat) (b : Bank) : getBank (setBank s i b) i = b :=
  tabGet_tabSet_same _ _ _ _

theorem getBank_setBank_other (s : State) (i j : Nat) (b : Bank) (h : j ≠ i) : getBank (setBank s i b) j = getBank s j :=
  tabGet_tabSet_other _ _ _ _ _ h

@[simp] theorem getCtx_setCtx_same (s : State) (c : BitVec 6) (x : Context) : getCtx (setCtx s c x) c = x :=
  tabGet_tabSet_same _ _ _ _

theorem getCtx_setCtx_other (s : State) (c d : BitVec 6) (x : Context) (h : d ≠ c) :
    getCtx (setCtx s c x) d = getCtx s d :=
  tabGet_tabSet_other _ _ _ _ _ fun e => h (BitVec.eq_of_toNat_eq e)

@[simp] theorem getQueue_setQueue_same (s : State) (q : BitVec 10) (x : Queue) : getQueue (setQueue s q x) q = x :=
  tabGet_tabSet_same _ _ _ _

theorem getQueue_setQueue_other (s : State) (q r : BitVec 10) (x : Queue) (h : r ≠ q) :
    getQueue (setQueue s q x) r = getQueue s r :=
  tabGet_tabSet_other _ _ _ _ _ fun e => h (BitVec.eq_of_toNat_eq e)

theorem getCtx_of_contexts {s t : State} (h : t.contexts = s.contexts) (c : BitVec 6) : getCtx t c = getCtx s c := by
  unfold getCtx; rw [h]

theorem getQueue_of_queues {s t : State} (h : t.queues = s.queues) (q : BitVec 10) : getQueue t q = getQueue s q := by
  unfold getQueue; rw [h]

theorem getBank_of_banks {s t : State} (h : t.banks = s.banks) (i : Nat) : getBank t i = getBank s i := by
  unfold getBank; rw [h]


end Sys2Proof.Laws
end

