-- ==== Sys2Proof/Laws/Keeps.lean ====
section
/-!
SUPPORT. What the shared operations do to memory: those that leave every cell as it is (`f_mem`), and those that keep
the canonical form (`f_memWf`). A proof about an instruction cites these in place of unfolding the operations.
-/
namespace Sys2Proof.Laws

open Sys2Proof Sys2Proof.Machine

/-! ## Folds -/

theorem foldl_mem {α : Type} (f : State → α → State) (h : ∀ s x, (f s x).mem = s.mem) (l : List α) (s : State) :
    (l.foldl f s).mem = s.mem := by
  induction l generalizing s with
  | nil => rfl
  | cons x r ih => simp [ih, h]

theorem foldl_memWf {α : Type} (f : State → α → State) (h : ∀ s x, memWf s.mem = true → memWf (f s x).mem = true)
    (l : List α) (s : State) (hs : memWf s.mem = true) : memWf (l.foldl f s).mem = true := by
  induction l generalizing s with
  | nil => exact hs
  | cons x r ih => exact ih _ (h s x hs)

theorem memWf_ite {c : Prop} [Decidable c] {a b : State} (ha : memWf a.mem = true) (hb : memWf b.mem = true) :
    memWf (if c then a else b).mem = true := by
  by_cases h : c
  · rw [if_pos h]; exact ha
  · rw [if_neg h]; exact hb

/-! ## Operations that leave memory as it is -/

@[simp] theorem extRequest_mem (s : State) (a : ExtAgent) (pa : Nat) (op : ExtOp) : (extRequest s a pa op).mem = s.mem := by
  rw [extRequest_frame]

@[simp] theorem extWrite_mem (s : State) (a : ExtAgent) (pa : Nat) (bs : List Byte) : (extWrite s a pa bs).mem = s.mem := by
  unfold extWrite; exact foldl_mem _ (fun s p => extRequest_mem s a _ _) _ s

@[simp] theorem signal_mem (s : State) (v : BitVec 11) : (signal s v).mem = s.mem := by rw [signal_frame]

@[simp] theorem modCtx_mem (s : State) (c : BitVec 6) (f : Context → Context) : (modCtx s c f).mem = s.mem := rfl
@[simp] theorem dropCache_mem (s : State) (c : BitVec 8) (p : Nat → Bool) : (dropCache s c p).mem = s.mem := rfl
@[simp] theorem dropGuests_mem (s : State) (d : Bool) (p : Nat → Bool) : (dropGuests s d p).mem = s.mem := rfl

@[simp] theorem modBlock_mem (s : State) (x : SlotNo) (f : Block → Block) : (modBlock s x f).mem = s.mem := by
  unfold modBlock; split <;> rfl

@[simp] theorem putBlock_mem (s : State) (b : Block) : (putBlock s b).mem = s.mem := by
  unfold putBlock; split
  · rfl
  · split <;> rfl

@[simp] theorem switchTo_mem (s : State) (x : SlotNo) : (switchTo s x).mem = s.mem := by
  unfold switchTo; split <;> rfl

@[simp] theorem acquireAt_mem (s : State) (x : SlotNo) (sc : Scope) : (acquireAt s x sc).mem = s.mem := by
  unfold acquireAt; cases sc <;> simp

@[simp] theorem dropBound_mem (s : State) (x : SlotNo) (c : BitVec 6) (va : Word) : (dropBound s x c va).mem = s.mem := by
  simp [dropBound]

@[simp] theorem addLine_mem (s : State) (c : CacheLine) : (addLine s c).mem = s.mem := rfl
@[simp] theorem addGuest_mem (s : State) (g : GuestCopy) : (addGuest s g).mem = s.mem := rfl

@[simp] theorem l2Fill_mem (s : State) (d : Bool) (pa : Nat) (cp : BitVec 2) : (l2Fill s d pa cp).mem = s.mem := by
  unfold l2Fill; split <;> rfl

@[simp] theorem tileRead_mem (s : State) (d : Bool) (pa n : Nat) (cp : BitVec 2) : (tileRead s d pa n cp).2.mem = s.mem := by
  induction n generalizing s pa with
  | zero => rfl
  | succ k ih => simp [tileRead, ih]

@[simp] theorem scalarRead_mem (s : State) (c : BitVec 8) (pa n : Nat) (cp : BitVec 2) :
    (scalarRead s c pa n cp).2.mem = s.mem := by
  unfold scalarRead; split
  · split
    · rfl
    · simp
  · rfl

@[simp] theorem invalidate_mem (s : State) (c : BitVec 6) (all : Bool) (vp n : Nat) :
    (invalidate s c all vp n).mem = s.mem := rfl
@[simp] theorem cancelFaults_mem (s : State) (p : FaultAgent → Bool) : (cancelFaults s p).mem = s.mem := rfl
@[simp] theorem holdOn_mem (s : State) (a : FaultAgent) (c : BitVec 6) (va : Nat) (k : AccKind) :
    (holdOn s a c va k).mem = s.mem := rfl
@[simp] theorem modGroup_mem (s : State) (g : GroupId) (f : Group → Group) : (modGroup s g f).mem = s.mem := rfl
@[simp] theorem modLaunch_mem (s : State) (q : BitVec 10) (n : BitVec 54) (f : Launch → Launch) :
    (modLaunch s q n f).mem = s.mem := rfl
@[simp] theorem newToken_mem (s : State) : (newToken s).2.mem = s.mem := rfl
@[simp] theorem leaveQueues_mem (s : State) (x : SlotNo) : (leaveQueues s x).mem = s.mem := rfl
@[simp] theorem dropLinks_mem (s : State) (x : SlotNo) : (dropLinks s x).mem = s.mem := rfl
@[simp] theorem clearRecord_mem (s : State) (x : SlotNo) : (clearRecord s x).mem = s.mem := rfl
@[simp] theorem cancelBlockFaults_mem (s : State) (x : SlotNo) (q : Bool) (p : Nat → Bool) :
    (cancelBlockFaults s x q p).mem = s.mem := rfl

@[simp] theorem refuseWaiter_mem (s : State) (w : ObjWait) : (refuseWaiter s w).mem = s.mem := by
  unfold refuseWaiter; cases w.who <;> simp

@[simp] theorem completeGrant_mem (s : State) (w : ObjWait) : (completeGrant s w).mem = s.mem := by
  unfold completeGrant
  cases w.who with
  | block x => cases h : getBlock { s with objWaits := s.objWaits.filter fun x => x != w } x <;> simp [h]
  | launch q n => simp

@[simp] theorem setBar_mem (s : State) (g : Group) (b : BitVec 5) (v : Barrier) : (setBar s g b v).mem = s.mem := by
  unfold setBar; split <;> simp

@[simp] theorem barAdvance_mem (s : State) (g : Group) (b : BitVec 5) (v : Barrier) : (barAdvance s g b v).mem = s.mem := by
  unfold barAdvance; rw [foldl_mem _ (by simp)]; simp

@[simp] theorem barLeave_mem (s : State) (g : Group) (k : BitVec 4) (b : BitVec 5) : (barLeave s g k b).mem = s.mem := by
  unfold barLeave; simp only; split <;> simp

@[simp] theorem dropCbClaim_mem (s : State) (x : SlotNo) : (dropCbClaim s x).mem = s.mem := by
  simp [dropCbClaim]

@[simp] theorem dropLane_mem (s : State) (x : SlotNo) (p : Nat → Bool) : (dropLane s x p).mem = s.mem := rfl

@[simp] theorem refuseAll_mem (s : State) (pa n : Nat) : (refuseAll s pa n).mem = s.mem := by
  induction n generalizing s with
  | zero => rfl
  | succ k ih => unfold refuseAll; split <;> simp [ih]

@[simp] theorem groupDone_mem (s : State) (g : Group) : (groupDone s g).mem = s.mem := by
  simp only [groupDone, modLaunch_mem, modGroup_mem]; rw [foldl_mem _ (by simp)]

@[simp] theorem withdrawRecords_mem (s : State) (p : Block → Bool) : (withdrawRecords s p).mem = s.mem := by
  simp only [withdrawRecords]; rw [foldl_mem _ (by simp)]

@[simp] theorem withdrawLaunch_mem (s : State) (q : BitVec 10) (n : BitVec 54) : (withdrawLaunch s q n).mem = s.mem := by
  simp [withdrawLaunch]

@[simp] theorem rollRing_mem (s : State) (x : SlotNo) (m : Nat) : (rollRing s x m).mem = s.mem := by
  unfold rollRing; split
  · rfl
  · split <;> simp

@[simp] theorem startRollback_mem (s : State) (x : SlotNo) (c : RollCause) : (startRollback s x c).mem = s.mem := by
  unfold startRollback; split <;> simp

@[simp] theorem restoreCairn_mem (s : State) (x : SlotNo) : (restoreCairn s x).mem = s.mem := by
  unfold restoreCairn; split <;> simp

@[simp] theorem expose_mem (s : State) : (expose s).mem = s.mem := by unfold expose; split <;> rfl

/-! ## Reports of the device -/

theorem errLog_memWf {s : State} (r : ErrRec) (h : memWf s.mem = true) : memWf (errLog s r).mem = true := by
  refine memWf_ite h (memWf_ite ?_ ?_)
  · rw [signal_mem, extWrite_mem]; exact homeWrite_memWf _ _ _ h
  · rw [extWrite_mem]; exact homeWrite_memWf _ _ _ h

theorem ctxEvent_memWf {s : State} (c : BitVec 6) (code slot : Nat) (d0 d1 : Word) (h : memWf s.mem = true) :
    memWf (ctxEvent s c code slot d0 d1).mem = true := by
  refine memWf_ite h (memWf_ite h (memWf_ite ?_ ?_))
  · rw [signal_mem, setCtx_mem, extWrite_mem]; exact homeWrite_memWf _ _ _ h
  · rw [setCtx_mem, extWrite_mem]; exact homeWrite_memWf _ _ _ h

theorem refusalEvent_memWf {s : State} (c : BitVec 6) (r d : Nat) (h : memWf s.mem = true) :
    memWf (refusalEvent s c r d).mem = true := ctxEvent_memWf _ _ _ _ _ h

/-! ## Translation and fault records -/

theorem dirtyLog_memWf {s : State} (c : BitVec 6) (vp sz : Nat) (e : Eng) (h : memWf s.mem = true) :
    memWf (dirtyLog s c vp sz e).mem = true := by
  unfold dirtyLog; simp only
  split
  · exact h
  · split
    · split
      · exact h
      · exact ctxEvent_memWf _ _ _ _ _ h
    · exact homeWrite_memWf _ _ _ h

theorem setAD_memWf {s : State} (t : TlbEntry) (k : AccKind) (e : Eng) (h : memWf s.mem = true) :
    memWf (setAD s t k e).mem = true := by
  have h1 : ∀ (s0 : State) (c : Bool), memWf s0.mem = true →
      memWf (if c then dirtyLog s0 t.ctx t.vpage t.size e else s0).mem = true :=
    fun _ _ h0 => memWf_ite (dirtyLog_memWf _ _ _ _ h0) h0
  exact memWf_ite (h1 _ _ h) (homeWrite_memWf _ _ _ (h1 _ _ h))

theorem translate_memWf {s : State} (core : Option (BitVec 8)) (c : BitVec 6) (va : Nat) (k : AccKind) (e : Eng)
    (h : memWf s.mem = true) : memWf (Machine.translate s core c va k e).2.mem = true := by
  unfold Machine.translate; simp only
  split
  · split
    · exact h
    · split
      · exact h
      · exact setAD_memWf (s := { s with tlb := _ }) _ _ _ h
  · split
    · exact h
    · split
      · exact h
      · split
        · exact h
        · split
          · exact setAD_memWf _ _ _ h
          · exact setAD_memWf (s := { s with tlb := _ }) _ _ _ h

theorem translateBy_memWf {s : State} (pins : List TlbEntry) (core : Option (BitVec 8)) (c : BitVec 6) (va : Nat)
    (k : AccKind) (e : Eng) (h : memWf s.mem = true) : memWf (translateBy pins s core c va k e).2.mem = true := by
  unfold translateBy
  split
  · split
    · exact h
    · split
      · exact h
      · exact setAD_memWf _ _ _ h
  · exact translate_memWf _ _ _ _ _ h

theorem objAccess_memWf {s : State} (c : BitVec 6) (va : Word) (h : memWf s.mem = true) :
    memWf (objAccess s c va).2.mem = true := by
  have ht := translate_memWf none c va.toNat .atomic .link h
  unfold objAccess
  split <;> (next q => rw [q] at ht; exact ht)

theorem translateRange_memWf {s : State} (pins : List TlbEntry) (core : Option (BitVec 8)) (c : BitVec 6) (va n : Nat)
    (k : AccKind) (e : Eng) (fuel : Nat) (h : memWf s.mem = true) :
    memWf (translateRange pins s core c va n k e fuel).2.mem = true := by
  induction fuel generalizing s va n with
  | zero => exact h
  | succ m ih =>
    unfold translateRange
    split
    · exact h
    · have ht := translateBy_memWf pins core c (va % 2 ^ 64) k e h
      simp only
      split
      · next s1 q => rw [q] at ht; exact ht
      · next s1 q => rw [q] at ht; exact ht
      · next t s1 q =>
        rw [q] at ht
        have hi := ih (va % 2 ^ 64 + min n (4096 - va % 2 ^ 64 % 4096)) (n - min n (4096 - va % 2 ^ 64 % 4096)) ht
        split
        · next q2 => rw [q2] at hi; exact hi
        · exact hi

theorem putFault_memWf {s : State} (f : FaultRecord) (h : memWf s.mem = true) : memWf (putFault s f).mem = true := by
  simp only [putFault, extWrite_mem]; exact homeWrite_memWf _ _ _ h

theorem flushFaultsFrom_memWf {s : State} (l : List FaultRecord) (h : memWf s.mem = true) :
    memWf (flushFaultsFrom s l).2.mem = true := by
  induction l generalizing s with
  | nil => exact h
  | cons f r ih =>
    unfold flushFaultsFrom
    split
    · exact ih h
    · split
      · exact ih (putFault_memWf f h)
      · exact h

theorem flushFaults_memWf {s : State} (h : memWf s.mem = true) : memWf (flushFaults s).mem = true :=
  flushFaultsFrom_memWf s.faults h

theorem raiseFault_memWf {s : State} (a : FaultAgent) (c : BitVec 6) (va : Nat) (k : AccKind) (r l e : Nat)
    (h : memWf s.mem = true) : memWf (raiseFault s a c va k r l e).2.mem = true := by
  unfold raiseFault; simp only [nextEvent]; exact flushFaults_memWf h

/-! ## Synchronisation objects -/

theorem objWrite_memWf {s : State} (a : Agent) (pa : Nat) (o : ObjWord) (h : memWf s.mem = true) :
    memWf (objWrite s a pa o).mem = true := homeWrite_memWf _ _ _ h

theorem grantWrite_memWf {s : State} (w : ObjWait) (o : ObjWord) (h : memWf s.mem = true) :
    memWf (grantWrite s w o).mem = true := by
  have ht := objAccess_memWf (holderCtx s w.who) w.va h
  unfold grantWrite
  split
  · next q => rw [q] at ht; exact ht
  · next q => rw [q] at ht; rw [completeGrant_mem]; exact objWrite_memWf _ _ _ ht

theorem grantHead_memWf {s : State} (pa fuel : Nat) (h : memWf s.mem = true) :
    memWf (grantHead s pa fuel).mem = true := by
  induction fuel generalizing s with
  | zero => exact h
  | succ k ih =>
    unfold grantHead
    split
    · exact h
    · simp only
      split
      · exact ih (by simpa using h)
      · split
        · exact grantWrite_memWf _ _ h
        · split
          · exact ih (grantWrite_memWf _ _ h)
          · exact h

theorem grants_memWf {s : State} (pa : Nat) (h : memWf s.mem = true) : memWf (grants s pa).mem = true :=
  grantHead_memWf _ _ h

theorem releaseObject_memWf {s : State} (a : Agent) (pa : Nat) (t : BitVec 32) (h : memWf s.mem = true) :
    memWf (releaseObject s a pa t).mem = true :=
  memWf_ite h (memWf_ite (objWrite_memWf _ _ _ h)
    (memWf_ite (grants_memWf _ (objWrite_memWf _ _ _ h)) (grants_memWf _ (objWrite_memWf _ _ _ h))))

theorem objAct_memWf {s : State} (x : HeldObj) (pa : Nat) (h : memWf s.mem = true) : memWf (objAct s x pa).mem = true := by
  unfold objAct; simp only
  split
  · split
    · rw [refuseAll_mem]; exact ctxEvent_memWf _ _ _ _ _ (objWrite_memWf _ _ _ h)
    · exact h
  · exact releaseObject_memWf _ _ _ h

theorem objDo_memWf {s : State} (x : HeldObj) (h : memWf s.mem = true) : memWf (objDo s x).mem = true := by
  have ht := objAccess_memWf x.ctx x.va h
  unfold objDo
  split
  · next q => rw [q] at ht; exact ht
  · next q => rw [q] at ht; exact ht
  · next q => rw [q] at ht; exact objAct_memWf _ _ ht

theorem replayObjects_memWf {s : State} (h : memWf s.mem = true) : memWf (replayObjects s).mem = true :=
  foldl_memWf _ (fun _ x hs => objDo_memWf x hs) _ _ h

theorem breakObject_memWf {s : State} (b : Block) (va : Word) (h : memWf s.mem = true) :
    memWf (breakObject s b va).mem = true := objDo_memWf _ h

theorem releaseAtExit_memWf {s : State} (b : Block) (va : Word) (h : memWf s.mem = true) :
    memWf (releaseAtExit s b va).mem = true := ctxEvent_memWf _ _ _ _ _ (objDo_memWf _ h)

/-! ## How blocks and groups end -/

@[simp] theorem sweepBand_mem (s : State) (b : Block) : (sweepBand s b).mem = s.mem :=
  foldl_mem _ (fun s _ => modBlock_mem s _ _) _ s

theorem barBreak_memWf {s : State} (g : Group) (b : BitVec 5) (h : memWf s.mem = true) :
    memWf (barBreak s g b).mem = true := by
  unfold barBreak; simp only
  split
  · apply ctxEvent_memWf
    rw [foldl_mem _ (by simp)]; simpa using h
  · exact h

theorem freeChannels_memWf {s : State} (b : Block) (h : memWf s.mem = true) : memWf (freeChannels s b).mem = true := by
  unfold freeChannels
  apply foldl_memWf _ _ _ _ h
  intro s c hs
  exact memWf_ite hs (ctxEvent_memWf _ _ _ _ _ hs)

theorem breakHeld_memWf {s : State} (b : Block) (l : List Word) (h : memWf s.mem = true) :
    memWf (l.foldl (fun s va => breakObject s b va) s).mem = true :=
  foldl_memWf _ (fun _ va hs => breakObject_memWf b va hs) _ _ h

theorem killBlock_memWf {s : State} (b : Block) (h : memWf s.mem = true) : memWf (killBlock s b).mem = true := by
  have h1 : memWf (b.holding.foldl (fun s va => breakObject s b va) (leaveQueues s b.slot)).mem = true :=
    breakHeld_memWf b _ h
  simp only [killBlock, sweepBand_mem, clearRecord_mem, modBlock_mem, dropLane_mem, cancelBlockFaults_mem]
  exact freeChannels_memWf b (by simpa using h1)

theorem stopGroup_memWf {s : State} (g : Group) (h : memWf s.mem = true) : memWf (stopGroup s g).mem = true := by
  unfold stopGroup
  simp only [modGroup_mem]
  rw [foldl_mem _ (by simp)]; dsimp only
  exact homeWrite_memWf .device (stopAddress s g.id.ctx s.free).toNat (stopBytes s s.free) h

theorem settleBand_memWf {s : State} (g : Group) (h : memWf s.mem = true) : memWf (settleBand s g).mem = true := by
  have hd : memWf ((bandOf s g).foldl (fun (s : State) (x : Group) =>
      if (x.st == GroupSt.running || x.st == GroupSt.stopping || x.st == GroupSt.rolling) &&
          decide (x.finished.length = x.gsize.toNat + 1) then groupDone s x else s) s).mem = true :=
    foldl_memWf _ (fun s x hs => memWf_ite (by simpa using hs) hs) _ _ h
  exact memWf_ite (foldl_memWf _ (fun _ x hs => stopGroup_memWf x hs) _ _ hd) hd

theorem settleStop_memWf {s : State} (x : SlotNo) (h : memWf s.mem = true) : memWf (settleStop s x).mem = true := by
  unfold settleStop
  split
  · exact h
  · split
    · simp only
      split
      · exact settleBand_memWf _ (by simpa using h)
      · simpa using h
    · exact h

theorem resumable_memWf {s : State} (x : SlotNo) (h : memWf s.mem = true) : memWf (resumable s x).mem = true := by
  unfold resumable
  split
  · exact h
  · exact memWf_ite (settleStop_memWf _ (by simpa using h)) h

theorem preemptBlock_memWf {s : State} (x : SlotNo) (h : memWf s.mem = true) : memWf (preemptBlock s x).mem = true := by
  unfold preemptBlock
  split
  · exact h
  · simp only; split
    · simpa using h
    · split <;> first | exact settleStop_memWf _ (by simpa using h) | simpa using h
    · simpa using h
    · simpa using h
    · simpa using h
    · exact h

theorem requestStop_memWf {s : State} (g : Group) (h : memWf s.mem = true) : memWf (requestStop s g).mem = true :=
  settleBand_memWf _ (foldl_memWf _ (fun _ b hs => preemptBlock_memWf b.slot hs) _ _
    (by rw [foldl_mem _ (by simp)]; exact h))

theorem killGroup_memWf {s : State} (id : GroupId) (n : Nat) (st : LaunchStatus) (h : memWf s.mem = true) :
    memWf (killGroup s id n st).mem = true := by
  unfold killGroup
  split
  · exact h
  · simp only
    split
    · exact h
    · split
      · simpa using h
      · apply settleBand_memWf
        simp only [withdrawLaunch_mem, modLaunch_mem]
        apply ctxEvent_memWf
        rw [foldl_mem _ (by simp)]
        apply foldl_memWf _ (fun s b hs => barBreak_memWf _ b hs)
        apply foldl_memWf _ (fun s b hs => freeChannels_memWf b (breakHeld_memWf b _ hs))
        exact foldl_memWf _ (fun s b hs => killBlock_memWf b hs) _ _ (by simpa using h)

theorem errorEvent_memWf {s : State} (x : SlotNo) (c : Cause) (f e : Option Nat) (h : memWf s.mem = true) :
    memWf (errorEvent s x c f e).mem = true := by
  unfold errorEvent
  split
  · exact h
  · exact memWf_ite h (memWf_ite (ctxEvent_memWf _ _ _ _ _ (by simpa using h)) (killGroup_memWf _ _ _ h))

theorem consumePoison_memWf {s : State} (x : SlotNo) (pa : Nat) (f e : Option Nat) (h : memWf s.mem = true) :
    memWf (consumePoison s x pa f e).mem = true := by
  unfold consumePoison
  split
  · exact h
  · exact errorEvent_memWf _ _ _ _ (errLog_memWf _ h)

@[simp] theorem overcapBlock_mem (s : State) (b : Block) : (overcapBlock s b).mem = s.mem := by
  unfold overcapBlock; split <;> simp

theorem overcapBand_memWf {s : State} (g : Group) (h : memWf s.mem = true) : memWf (overcapBand s g).mem = true := by
  unfold overcapBand
  apply foldl_memWf _ _ _ _ h
  intro s x hs; simp only
  split
  · split
    · exact killGroup_memWf _ _ _ hs
    · rw [foldl_mem _ (by simp)]; exact hs
  · exact hs

/-! ## Traps and returns -/

theorem doubleTrap_memWf {s : State} (c : Cause) (h : memWf s.mem = true) : memWf (doubleTrap s c).mem = true :=
  killGroup_memWf _ _ _ (ctxEvent_memWf _ _ _ _ _ h)

theorem enterTrap_memWf {s : State} (t : TrapInfo) (w : Word) (f : Option Nat) (h : memWf s.mem = true) :
    memWf (enterTrap s t w f).mem = true := by
  unfold enterTrap
  split
  · exact doubleTrap_memWf _ h
  · simp only [nextEvent]
    split
    · split
      · exact killGroup_memWf _ _ _ (ctxEvent_memWf _ _ _ _ _ h)
      · exact h
    · exact killGroup_memWf _ _ _ (ctxEvent_memWf _ _ _ _ _ h)

theorem seqTrap_memWf {s : State} (w : Word) (t : TrapInfo) (h : memWf s.mem = true) : memWf (seqTrap s w t).mem = true :=
  enterTrap_memWf _ _ _ h

theorem trapType_memWf {s : State} (w : Word) (n : Nat) (h : memWf s.mem = true) : memWf (trapType s w n).mem = true :=
  enterTrap_memWf _ _ _ h

theorem takeTrap_memWf {s : State} (h : memWf s.mem = true) : memWf (takeTrap s).mem = true := by
  unfold takeTrap
  split
  · exact doubleTrap_memWf _ h
  · split
    · split
      · exact enterTrap_memWf _ _ _ h
      · exact h
    · exact h

@[simp] theorem setVersion_mem (s : State) (i : Option Nat) (f : Version → Version) : (setVersion s i f).mem = s.mem := by
  unfold setVersion; split <;> rfl

@[simp] theorem setFill_mem (s : State) (f : Flight) (n : Nat) : (setFill s f n).mem = s.mem := by
  unfold setFill; simp only; split <;> rfl

@[simp] theorem consumeTables_mem (s : State) (f : Flight) : (consumeTables s f).mem = s.mem := rfl
@[simp] theorem skipTables_mem (s : State) (f : Flight) : (skipTables s f).mem = s.mem := rfl
@[simp] theorem skipWindow_mem (s : State) (f : Flight) : (skipWindow s f).mem = s.mem := by simp [skipWindow]

@[simp] theorem skipEffect_mem (s : State) (f : Flight) : (skipEffect s f).mem = s.mem := by
  unfold skipEffect; split <;> (try split) <;> simp

@[simp] theorem dropAsks_mem (s : State) (x : Option Nat) : (dropAsks s x).mem = s.mem := rfl

@[simp] theorem flightDone_mem (s : State) (f : Flight) : (flightDone s f).mem = s.mem := by
  unfold flightDone; simp only; split <;> simp

@[simp] theorem skipFlight_mem (s : State) (i : Nat) : (skipFlight s i).mem = s.mem := by
  unfold skipFlight; split <;> simp

theorem leaveHandler_memWf {s : State} (h : memWf s.mem = true) : memWf (leaveHandler s).mem = true := by
  unfold leaveHandler; simp only
  split
  · simpa using h
  · exact takeTrap_memWf h

theorem returnFromTrap_memWf {s : State} (f : EretForm) (h : memWf s.mem = true) :
    memWf (returnFromTrap s f).mem = true := by
  unfold returnFromTrap; simp only
  split
  · exact h
  · split
    · exact leaveHandler_memWf h
    · apply leaveHandler_memWf
      refine memWf_ite ?_ h
      rw [skipFlight_mem]; exact h

/-! ## Parks and scalar accesses -/

theorem parkOn_memWf {s : State} (w : Wait) (h : memWf s.mem = true) : memWf (parkOn s w).mem = true := by
  unfold parkOn
  split
  · exact resumable_memWf _ (by simpa using h)
  · simpa using h

theorem seqFault_memWf {s : State} (va : Nat) (k : AccKind) (r l e : Nat) (h : memWf s.mem = true) :
    memWf (seqFault s va k r l e).mem = true := by
  unfold seqFault; exact raiseFault_memWf _ _ _ _ _ _ _ h

/-- The state a sequencer translation leaves, whether it goes on or stops, keeps the form. -/
theorem seqAddr_memWf {s : State} (va : Word) (k : AccKind) (h : memWf s.mem = true) :
    (match seqAddr s va k with | .ok _ _ t => memWf t.mem | .stop t => memWf t.mem) = true := by
  have ht := translate_memWf (some (slotCore s.me.slot)) s.me.ctx va.toNat k .scalar h
  unfold seqAddr
  generalize Machine.translate s (some (slotCore s.me.slot)) s.me.ctx va.toNat k .scalar = r at ht
  obtain ⟨x, s1⟩ := r
  cases x with
  | ok t => exact ht
  | fault r l e => exact seqFault_memWf _ _ _ _ _ ht
  | hold => exact ht

@[simp] theorem blockWrite_mem (s : State) (b : Block) (pa : Nat) (bs : List Byte) (f : Option Nat) :
    (blockWrite s b pa bs f).mem = s.mem := by
  simp [blockWrite]

@[simp] theorem askOnce_mem (s : State) (f : Option Nat) (pa : Nat) (op : ExtOp) : (askOnce s f pa op).mem = s.mem := by
  unfold askOnce; split
  · rfl
  · simp

theorem useAnswer_memWf {s : State} (f : Option Nat) (p : Nat × Nat) (h : memWf s.mem = true) :
    memWf (useAnswer s f p).mem = true := by
  unfold useAnswer; split
  · exact memWf_store _ _ h
  · exact h

/-- What a read beyond the package leaves, whether its answers have come or not, keeps the form. -/
theorem readFar_memWf {s : State} (f : Option Nat) (ps : List (Nat × Nat)) (h : memWf s.mem = true) :
    memWf (readFar s f ps).2.mem = true := by
  unfold readFar; split
  · exact foldl_memWf _ (fun _ p hs => useAnswer_memWf f p hs) _ _ h
  · have e := foldl_mem (fun s (p : Nat × Nat) => askOnce s f p.1 (.read p.2)) (fun s p => askOnce_mem s f p.1 _) ps s
    dsimp only; rw [e]; exact h

end Sys2Proof.Laws
end

