-- ==== Sys2Proof/Laws/Frames.lean ====
section
/-!
SUPPORT. What the device's reports, translations, fault records and reads leave as it is: the blocks, the groups, the
launches, the queues, the kernels and the banks.
-/
namespace Sys2Proof.Laws

open Sys2Proof Sys2Proof.Machine


/-! ## The field `me` -/

theorem ite_me {c : Prop} [Decidable c] {a b : State} {x} (ha : a.me = x) (hb : b.me = x) :
    (if c then a else b).me = x := by
  by_cases h : c
  · rw [if_pos h]; exact ha
  · rw [if_neg h]; exact hb

@[simp] theorem homeWrite_me (s : State) (a : Agent) (pa : Nat) (bs : List Byte) : (homeWrite s a pa bs).me = s.me :=
  ite_me rfl rfl

@[simp] theorem extRequest_me (s : State) (a : ExtAgent) (pa : Nat) (op : ExtOp) : (extRequest s a pa op).me = s.me := by
  rw [extRequest_frame]

@[simp] theorem extWrite_me (s : State) (a : ExtAgent) (pa : Nat) (bs : List Byte) : (extWrite s a pa bs).me = s.me := by
  unfold extWrite; exact foldl_keeps State.me _ (fun s p => extRequest_me s a _ _) _ s

@[simp] theorem signal_me (s : State) (v : BitVec 11) : (signal s v).me = s.me := by rw [signal_frame]

@[simp] theorem errLog_me (s : State) (r : ErrRec) : (errLog s r).me = s.me := by
  refine ite_me rfl (ite_me ?_ ?_)
  · rw [signal_me, extWrite_me]; exact homeWrite_me _ _ _ _
  · rw [extWrite_me]; exact homeWrite_me _ _ _ _

@[simp] theorem ctxEvent_me (s : State) (c : BitVec 6) (code slot : Nat) (d0 d1 : Word) :
    (ctxEvent s c code slot d0 d1).me = s.me := by
  refine ite_me rfl (ite_me rfl (ite_me ?_ ?_))
  · rw [signal_me, setCtx_me, extWrite_me]; exact homeWrite_me _ _ _ _
  · rw [setCtx_me, extWrite_me]; exact homeWrite_me _ _ _ _

@[simp] theorem refusalEvent_me (s : State) (c : BitVec 6) (r d : Nat) : (refusalEvent s c r d).me = s.me :=
  ctxEvent_me _ _ _ _ _ _

@[simp] theorem dirtyLog_me (s : State) (c : BitVec 6) (vp sz : Nat) (e : Eng) : (dirtyLog s c vp sz e).me = s.me := by
  refine ite_me rfl (ite_me (ite_me rfl ?_) ?_)
  · rw [ctxEvent_me, setCtx_me]
  · exact homeWrite_me _ _ _ _

@[simp] theorem setAD_me (s : State) (t : TlbEntry) (k : AccKind) (e : Eng) : (setAD s t k e).me = s.me := by
  refine ite_me ?_ ?_
  · exact ite_me (dirtyLog_me _ _ _ _ _) rfl
  · rw [homeWrite_me]; exact ite_me (dirtyLog_me _ _ _ _ _) rfl

@[simp] theorem translate_me (s : State) (core : Option (BitVec 8)) (c : BitVec 6) (va : Nat) (k : AccKind) (e : Eng) :
    (Machine.translate s core c va k e).2.me = s.me := by
  unfold Machine.translate; simp only
  split
  · split
    · rfl
    · split <;> simp
  · split
    · rfl
    · split
      · rfl
      · split
        · rfl
        · split <;> simp

@[simp] theorem translateBy_me (s : State) (pins : List TlbEntry) (core : Option (BitVec 8)) (c : BitVec 6) (va : Nat)
    (k : AccKind) (e : Eng) : (translateBy pins s core c va k e).2.me = s.me := by
  unfold translateBy
  split
  · split
    · rfl
    · split <;> simp
  · simp

@[simp] theorem translateRange_me (s : State) (pins : List TlbEntry) (core : Option (BitVec 8)) (c : BitVec 6)
    (va n : Nat) (k : AccKind) (e : Eng) (fuel : Nat) :
    (translateRange pins s core c va n k e fuel).2.me = s.me := by
  induction fuel generalizing s va n with
  | zero => rfl
  | succ m ih =>
    unfold translateRange
    split
    · rfl
    · have ht := translateBy_me s pins core c (va % 2 ^ 64) k e
      simp only
      split
      · next s1 q => rw [q] at ht; exact ht
      · next s1 q => rw [q] at ht; exact ht
      · next t s1 q =>
        rw [q] at ht
        have hi := ih s1 (va % 2 ^ 64 + min n (4096 - va % 2 ^ 64 % 4096)) (n - min n (4096 - va % 2 ^ 64 % 4096))
        split
        · next q2 => rw [q2] at hi; exact hi.trans ht
        · exact hi.trans ht

@[simp] theorem putFault_me (s : State) (r : FaultRecord) : (putFault s r).me = s.me := by
  unfold putFault; simp

@[simp] theorem flushFaultsFrom_me (s : State) (l : List FaultRecord) : (flushFaultsFrom s l).2.me = s.me := by
  induction l generalizing s with
  | nil => rfl
  | cons r l ih =>
    unfold flushFaultsFrom
    split
    · exact ih s
    · split
      · exact (ih _).trans (putFault_me s r)
      · rfl

@[simp] theorem flushFaults_me (s : State) : (flushFaults s).me = s.me := flushFaultsFrom_me s s.faults

@[simp] theorem raiseFault_me (s : State) (a : FaultAgent) (c : BitVec 6) (va : Nat) (k : AccKind) (r l e : Nat) :
    (raiseFault s a c va k r l e).2.me = s.me := by
  unfold raiseFault; simp only [nextEvent]; exact flushFaults_me _

@[simp] theorem l2Fill_me (s : State) (d : Bool) (pa : Nat) (cp : BitVec 2) : (l2Fill s d pa cp).me = s.me :=
  ite_me rfl rfl

@[simp] theorem tileRead_me (s : State) (d : Bool) (pa n : Nat) (cp : BitVec 2) :
    (tileRead s d pa n cp).2.me = s.me := by
  induction n generalizing s pa with
  | zero => rfl
  | succ k ih => simp [tileRead, ih]

@[simp] theorem addLine_me (s : State) (c : CacheLine) : (addLine s c).me = s.me := rfl

@[simp] theorem scalarRead_me (s : State) (c : BitVec 8) (pa n : Nat) (cp : BitVec 2) :
    (scalarRead s c pa n cp).2.me = s.me := by
  unfold scalarRead; split
  · split
    · rfl
    · simp
  · rfl

/-! ## The field `others` -/

theorem ite_others {c : Prop} [Decidable c] {a b : State} {x} (ha : a.others = x) (hb : b.others = x) :
    (if c then a else b).others = x := by
  by_cases h : c
  · rw [if_pos h]; exact ha
  · rw [if_neg h]; exact hb

@[simp] theorem homeWrite_others (s : State) (a : Agent) (pa : Nat) (bs : List Byte) : (homeWrite s a pa bs).others = s.others :=
  ite_others rfl rfl

@[simp] theorem extRequest_others (s : State) (a : ExtAgent) (pa : Nat) (op : ExtOp) : (extRequest s a pa op).others = s.others := by
  rw [extRequest_frame]

@[simp] theorem extWrite_others (s : State) (a : ExtAgent) (pa : Nat) (bs : List Byte) : (extWrite s a pa bs).others = s.others := by
  unfold extWrite; exact foldl_keeps State.others _ (fun s p => extRequest_others s a _ _) _ s

@[simp] theorem signal_others (s : State) (v : BitVec 11) : (signal s v).others = s.others := by rw [signal_frame]

@[simp] theorem errLog_others (s : State) (r : ErrRec) : (errLog s r).others = s.others := by
  refine ite_others rfl (ite_others ?_ ?_)
  · rw [signal_others, extWrite_others]; exact homeWrite_others _ _ _ _
  · rw [extWrite_others]; exact homeWrite_others _ _ _ _

@[simp] theorem ctxEvent_others (s : State) (c : BitVec 6) (code slot : Nat) (d0 d1 : Word) :
    (ctxEvent s c code slot d0 d1).others = s.others := by
  refine ite_others rfl (ite_others rfl (ite_others ?_ ?_))
  · rw [signal_others, setCtx_others, extWrite_others]; exact homeWrite_others _ _ _ _
  · rw [setCtx_others, extWrite_others]; exact homeWrite_others _ _ _ _

@[simp] theorem refusalEvent_others (s : State) (c : BitVec 6) (r d : Nat) : (refusalEvent s c r d).others = s.others :=
  ctxEvent_others _ _ _ _ _ _

@[simp] theorem dirtyLog_others (s : State) (c : BitVec 6) (vp sz : Nat) (e : Eng) : (dirtyLog s c vp sz e).others = s.others := by
  refine ite_others rfl (ite_others (ite_others rfl ?_) ?_)
  · rw [ctxEvent_others, setCtx_others]
  · exact homeWrite_others _ _ _ _

@[simp] theorem setAD_others (s : State) (t : TlbEntry) (k : AccKind) (e : Eng) : (setAD s t k e).others = s.others := by
  refine ite_others ?_ ?_
  · exact ite_others (dirtyLog_others _ _ _ _ _) rfl
  · rw [homeWrite_others]; exact ite_others (dirtyLog_others _ _ _ _ _) rfl

@[simp] theorem translate_others (s : State) (core : Option (BitVec 8)) (c : BitVec 6) (va : Nat) (k : AccKind) (e : Eng) :
    (Machine.translate s core c va k e).2.others = s.others := by
  unfold Machine.translate; simp only
  split
  · split
    · rfl
    · split <;> simp
  · split
    · rfl
    · split
      · rfl
      · split
        · rfl
        · split <;> simp

@[simp] theorem translateBy_others (s : State) (pins : List TlbEntry) (core : Option (BitVec 8)) (c : BitVec 6) (va : Nat)
    (k : AccKind) (e : Eng) : (translateBy pins s core c va k e).2.others = s.others := by
  unfold translateBy
  split
  · split
    · rfl
    · split <;> simp
  · simp

@[simp] theorem translateRange_others (s : State) (pins : List TlbEntry) (core : Option (BitVec 8)) (c : BitVec 6)
    (va n : Nat) (k : AccKind) (e : Eng) (fuel : Nat) :
    (translateRange pins s core c va n k e fuel).2.others = s.others := by
  induction fuel generalizing s va n with
  | zero => rfl
  | succ m ih =>
    unfold translateRange
    split
    · rfl
    · have ht := translateBy_others s pins core c (va % 2 ^ 64) k e
      simp only
      split
      · next s1 q => rw [q] at ht; exact ht
      · next s1 q => rw [q] at ht; exact ht
      · next t s1 q =>
        rw [q] at ht
        have hi := ih s1 (va % 2 ^ 64 + min n (4096 - va % 2 ^ 64 % 4096)) (n - min n (4096 - va % 2 ^ 64 % 4096))
        split
        · next q2 => rw [q2] at hi; exact hi.trans ht
        · exact hi.trans ht

@[simp] theorem putFault_others (s : State) (r : FaultRecord) : (putFault s r).others = s.others := by
  unfold putFault; simp

@[simp] theorem flushFaultsFrom_others (s : State) (l : List FaultRecord) : (flushFaultsFrom s l).2.others = s.others := by
  induction l generalizing s with
  | nil => rfl
  | cons r l ih =>
    unfold flushFaultsFrom
    split
    · exact ih s
    · split
      · exact (ih _).trans (putFault_others s r)
      · rfl

@[simp] theorem flushFaults_others (s : State) : (flushFaults s).others = s.others := flushFaultsFrom_others s s.faults

@[simp] theorem raiseFault_others (s : State) (a : FaultAgent) (c : BitVec 6) (va : Nat) (k : AccKind) (r l e : Nat) :
    (raiseFault s a c va k r l e).2.others = s.others := by
  unfold raiseFault; simp only [nextEvent]; exact flushFaults_others _

@[simp] theorem l2Fill_others (s : State) (d : Bool) (pa : Nat) (cp : BitVec 2) : (l2Fill s d pa cp).others = s.others :=
  ite_others rfl rfl

@[simp] theorem tileRead_others (s : State) (d : Bool) (pa n : Nat) (cp : BitVec 2) :
    (tileRead s d pa n cp).2.others = s.others := by
  induction n generalizing s pa with
  | zero => rfl
  | succ k ih => simp [tileRead, ih]

@[simp] theorem addLine_others (s : State) (c : CacheLine) : (addLine s c).others = s.others := rfl

@[simp] theorem scalarRead_others (s : State) (c : BitVec 8) (pa n : Nat) (cp : BitVec 2) :
    (scalarRead s c pa n cp).2.others = s.others := by
  unfold scalarRead; split
  · split
    · rfl
    · simp
  · rfl

/-! ## The field `groups` -/

theorem ite_groups {c : Prop} [Decidable c] {a b : State} {x} (ha : a.groups = x) (hb : b.groups = x) :
    (if c then a else b).groups = x := by
  by_cases h : c
  · rw [if_pos h]; exact ha
  · rw [if_neg h]; exact hb

@[simp] theorem homeWrite_groups (s : State) (a : Agent) (pa : Nat) (bs : List Byte) : (homeWrite s a pa bs).groups = s.groups :=
  ite_groups rfl rfl

@[simp] theorem extRequest_groups (s : State) (a : ExtAgent) (pa : Nat) (op : ExtOp) : (extRequest s a pa op).groups = s.groups := by
  rw [extRequest_frame]

@[simp] theorem extWrite_groups (s : State) (a : ExtAgent) (pa : Nat) (bs : List Byte) : (extWrite s a pa bs).groups = s.groups := by
  unfold extWrite; exact foldl_keeps State.groups _ (fun s p => extRequest_groups s a _ _) _ s

@[simp] theorem signal_groups (s : State) (v : BitVec 11) : (signal s v).groups = s.groups := by rw [signal_frame]

@[simp] theorem errLog_groups (s : State) (r : ErrRec) : (errLog s r).groups = s.groups := by
  refine ite_groups rfl (ite_groups ?_ ?_)
  · rw [signal_groups, extWrite_groups]; exact homeWrite_groups _ _ _ _
  · rw [extWrite_groups]; exact homeWrite_groups _ _ _ _

@[simp] theorem ctxEvent_groups (s : State) (c : BitVec 6) (code slot : Nat) (d0 d1 : Word) :
    (ctxEvent s c code slot d0 d1).groups = s.groups := by
  refine ite_groups rfl (ite_groups rfl (ite_groups ?_ ?_))
  · rw [signal_groups, setCtx_groups, extWrite_groups]; exact homeWrite_groups _ _ _ _
  · rw [setCtx_groups, extWrite_groups]; exact homeWrite_groups _ _ _ _

@[simp] theorem refusalEvent_groups (s : State) (c : BitVec 6) (r d : Nat) : (refusalEvent s c r d).groups = s.groups :=
  ctxEvent_groups _ _ _ _ _ _

@[simp] theorem dirtyLog_groups (s : State) (c : BitVec 6) (vp sz : Nat) (e : Eng) : (dirtyLog s c vp sz e).groups = s.groups := by
  refine ite_groups rfl (ite_groups (ite_groups rfl ?_) ?_)
  · rw [ctxEvent_groups, setCtx_groups]
  · exact homeWrite_groups _ _ _ _

@[simp] theorem setAD_groups (s : State) (t : TlbEntry) (k : AccKind) (e : Eng) : (setAD s t k e).groups = s.groups := by
  refine ite_groups ?_ ?_
  · exact ite_groups (dirtyLog_groups _ _ _ _ _) rfl
  · rw [homeWrite_groups]; exact ite_groups (dirtyLog_groups _ _ _ _ _) rfl

@[simp] theorem translate_groups (s : State) (core : Option (BitVec 8)) (c : BitVec 6) (va : Nat) (k : AccKind) (e : Eng) :
    (Machine.translate s core c va k e).2.groups = s.groups := by
  unfold Machine.translate; simp only
  split
  · split
    · rfl
    · split <;> simp
  · split
    · rfl
    · split
      · rfl
      · split
        · rfl
        · split <;> simp

@[simp] theorem translateBy_groups (s : State) (pins : List TlbEntry) (core : Option (BitVec 8)) (c : BitVec 6) (va : Nat)
    (k : AccKind) (e : Eng) : (translateBy pins s core c va k e).2.groups = s.groups := by
  unfold translateBy
  split
  · split
    · rfl
    · split <;> simp
  · simp

@[simp] theorem translateRange_groups (s : State) (pins : List TlbEntry) (core : Option (BitVec 8)) (c : BitVec 6)
    (va n : Nat) (k : AccKind) (e : Eng) (fuel : Nat) :
    (translateRange pins s core c va n k e fuel).2.groups = s.groups := by
  induction fuel generalizing s va n with
  | zero => rfl
  | succ m ih =>
    unfold translateRange
    split
    · rfl
    · have ht := translateBy_groups s pins core c (va % 2 ^ 64) k e
      simp only
      split
      · next s1 q => rw [q] at ht; exact ht
      · next s1 q => rw [q] at ht; exact ht
      · next t s1 q =>
        rw [q] at ht
        have hi := ih s1 (va % 2 ^ 64 + min n (4096 - va % 2 ^ 64 % 4096)) (n - min n (4096 - va % 2 ^ 64 % 4096))
        split
        · next q2 => rw [q2] at hi; exact hi.trans ht
        · exact hi.trans ht

@[simp] theorem putFault_groups (s : State) (r : FaultRecord) : (putFault s r).groups = s.groups := by
  unfold putFault; simp

@[simp] theorem flushFaultsFrom_groups (s : State) (l : List FaultRecord) : (flushFaultsFrom s l).2.groups = s.groups := by
  induction l generalizing s with
  | nil => rfl
  | cons r l ih =>
    unfold flushFaultsFrom
    split
    · exact ih s
    · split
      · exact (ih _).trans (putFault_groups s r)
      · rfl

@[simp] theorem flushFaults_groups (s : State) : (flushFaults s).groups = s.groups := flushFaultsFrom_groups s s.faults

@[simp] theorem raiseFault_groups (s : State) (a : FaultAgent) (c : BitVec 6) (va : Nat) (k : AccKind) (r l e : Nat) :
    (raiseFault s a c va k r l e).2.groups = s.groups := by
  unfold raiseFault; simp only [nextEvent]; exact flushFaults_groups _

@[simp] theorem l2Fill_groups (s : State) (d : Bool) (pa : Nat) (cp : BitVec 2) : (l2Fill s d pa cp).groups = s.groups :=
  ite_groups rfl rfl

@[simp] theorem tileRead_groups (s : State) (d : Bool) (pa n : Nat) (cp : BitVec 2) :
    (tileRead s d pa n cp).2.groups = s.groups := by
  induction n generalizing s pa with
  | zero => rfl
  | succ k ih => simp [tileRead, ih]

@[simp] theorem addLine_groups (s : State) (c : CacheLine) : (addLine s c).groups = s.groups := rfl

@[simp] theorem scalarRead_groups (s : State) (c : BitVec 8) (pa n : Nat) (cp : BitVec 2) :
    (scalarRead s c pa n cp).2.groups = s.groups := by
  unfold scalarRead; split
  · split
    · rfl
    · simp
  · rfl

/-! ## The field `launches` -/

theorem ite_launches {c : Prop} [Decidable c] {a b : State} {x} (ha : a.launches = x) (hb : b.launches = x) :
    (if c then a else b).launches = x := by
  by_cases h : c
  · rw [if_pos h]; exact ha
  · rw [if_neg h]; exact hb

@[simp] theorem homeWrite_launches (s : State) (a : Agent) (pa : Nat) (bs : List Byte) : (homeWrite s a pa bs).launches = s.launches :=
  ite_launches rfl rfl

@[simp] theorem extRequest_launches (s : State) (a : ExtAgent) (pa : Nat) (op : ExtOp) : (extRequest s a pa op).launches = s.launches := by
  rw [extRequest_frame]

@[simp] theorem extWrite_launches (s : State) (a : ExtAgent) (pa : Nat) (bs : List Byte) : (extWrite s a pa bs).launches = s.launches := by
  unfold extWrite; exact foldl_keeps State.launches _ (fun s p => extRequest_launches s a _ _) _ s

@[simp] theorem signal_launches (s : State) (v : BitVec 11) : (signal s v).launches = s.launches := by rw [signal_frame]

@[simp] theorem errLog_launches (s : State) (r : ErrRec) : (errLog s r).launches = s.launches := by
  refine ite_launches rfl (ite_launches ?_ ?_)
  · rw [signal_launches, extWrite_launches]; exact homeWrite_launches _ _ _ _
  · rw [extWrite_launches]; exact homeWrite_launches _ _ _ _

@[simp] theorem ctxEvent_launches (s : State) (c : BitVec 6) (code slot : Nat) (d0 d1 : Word) :
    (ctxEvent s c code slot d0 d1).launches = s.launches := by
  refine ite_launches rfl (ite_launches rfl (ite_launches ?_ ?_))
  · rw [signal_launches, setCtx_launches, extWrite_launches]; exact homeWrite_launches _ _ _ _
  · rw [setCtx_launches, extWrite_launches]; exact homeWrite_launches _ _ _ _

@[simp] theorem refusalEvent_launches (s : State) (c : BitVec 6) (r d : Nat) : (refusalEvent s c r d).launches = s.launches :=
  ctxEvent_launches _ _ _ _ _ _

@[simp] theorem dirtyLog_launches (s : State) (c : BitVec 6) (vp sz : Nat) (e : Eng) : (dirtyLog s c vp sz e).launches = s.launches := by
  refine ite_launches rfl (ite_launches (ite_launches rfl ?_) ?_)
  · rw [ctxEvent_launches, setCtx_launches]
  · exact homeWrite_launches _ _ _ _

@[simp] theorem setAD_launches (s : State) (t : TlbEntry) (k : AccKind) (e : Eng) : (setAD s t k e).launches = s.launches := by
  refine ite_launches ?_ ?_
  · exact ite_launches (dirtyLog_launches _ _ _ _ _) rfl
  · rw [homeWrite_launches]; exact ite_launches (dirtyLog_launches _ _ _ _ _) rfl

@[simp] theorem translate_launches (s : State) (core : Option (BitVec 8)) (c : BitVec 6) (va : Nat) (k : AccKind) (e : Eng) :
    (Machine.translate s core c va k e).2.launches = s.launches := by
  unfold Machine.translate; simp only
  split
  · split
    · rfl
    · split <;> simp
  · split
    · rfl
    · split
      · rfl
      · split
        · rfl
        · split <;> simp

@[simp] theorem translateBy_launches (s : State) (pins : List TlbEntry) (core : Option (BitVec 8)) (c : BitVec 6) (va : Nat)
    (k : AccKind) (e : Eng) : (translateBy pins s core c va k e).2.launches = s.launches := by
  unfold translateBy
  split
  · split
    · rfl
    · split <;> simp
  · simp

@[simp] theorem translateRange_launches (s : State) (pins : List TlbEntry) (core : Option (BitVec 8)) (c : BitVec 6)
    (va n : Nat) (k : AccKind) (e : Eng) (fuel : Nat) :
    (translateRange pins s core c va n k e fuel).2.launches = s.launches := by
  induction fuel generalizing s va n with
  | zero => rfl
  | succ m ih =>
    unfold translateRange
    split
    · rfl
    · have ht := translateBy_launches s pins core c (va % 2 ^ 64) k e
      simp only
      split
      · next s1 q => rw [q] at ht; exact ht
      · next s1 q => rw [q] at ht; exact ht
      · next t s1 q =>
        rw [q] at ht
        have hi := ih s1 (va % 2 ^ 64 + min n (4096 - va % 2 ^ 64 % 4096)) (n - min n (4096 - va % 2 ^ 64 % 4096))
        split
        · next q2 => rw [q2] at hi; exact hi.trans ht
        · exact hi.trans ht

@[simp] theorem putFault_launches (s : State) (r : FaultRecord) : (putFault s r).launches = s.launches := by
  unfold putFault; simp

@[simp] theorem flushFaultsFrom_launches (s : State) (l : List FaultRecord) : (flushFaultsFrom s l).2.launches = s.launches := by
  induction l generalizing s with
  | nil => rfl
  | cons r l ih =>
    unfold flushFaultsFrom
    split
    · exact ih s
    · split
      · exact (ih _).trans (putFault_launches s r)
      · rfl

@[simp] theorem flushFaults_launches (s : State) : (flushFaults s).launches = s.launches := flushFaultsFrom_launches s s.faults

@[simp] theorem raiseFault_launches (s : State) (a : FaultAgent) (c : BitVec 6) (va : Nat) (k : AccKind) (r l e : Nat) :
    (raiseFault s a c va k r l e).2.launches = s.launches := by
  unfold raiseFault; simp only [nextEvent]; exact flushFaults_launches _

@[simp] theorem l2Fill_launches (s : State) (d : Bool) (pa : Nat) (cp : BitVec 2) : (l2Fill s d pa cp).launches = s.launches :=
  ite_launches rfl rfl

@[simp] theorem tileRead_launches (s : State) (d : Bool) (pa n : Nat) (cp : BitVec 2) :
    (tileRead s d pa n cp).2.launches = s.launches := by
  induction n generalizing s pa with
  | zero => rfl
  | succ k ih => simp [tileRead, ih]

@[simp] theorem addLine_launches (s : State) (c : CacheLine) : (addLine s c).launches = s.launches := rfl

@[simp] theorem scalarRead_launches (s : State) (c : BitVec 8) (pa n : Nat) (cp : BitVec 2) :
    (scalarRead s c pa n cp).2.launches = s.launches := by
  unfold scalarRead; split
  · split
    · rfl
    · simp
  · rfl

/-! ## The field `queues` -/

theorem ite_queues {c : Prop} [Decidable c] {a b : State} {x} (ha : a.queues = x) (hb : b.queues = x) :
    (if c then a else b).queues = x := by
  by_cases h : c
  · rw [if_pos h]; exact ha
  · rw [if_neg h]; exact hb

@[simp] theorem homeWrite_queues (s : State) (a : Agent) (pa : Nat) (bs : List Byte) : (homeWrite s a pa bs).queues = s.queues :=
  ite_queues rfl rfl

@[simp] theorem extRequest_queues (s : State) (a : ExtAgent) (pa : Nat) (op : ExtOp) : (extRequest s a pa op).queues = s.queues := by
  rw [extRequest_frame]

@[simp] theorem extWrite_queues (s : State) (a : ExtAgent) (pa : Nat) (bs : List Byte) : (extWrite s a pa bs).queues = s.queues := by
  unfold extWrite; exact foldl_keeps State.queues _ (fun s p => extRequest_queues s a _ _) _ s

@[simp] theorem signal_queues (s : State) (v : BitVec 11) : (signal s v).queues = s.queues := by rw [signal_frame]

@[simp] theorem errLog_queues (s : State) (r : ErrRec) : (errLog s r).queues = s.queues := by
  refine ite_queues rfl (ite_queues ?_ ?_)
  · rw [signal_queues, extWrite_queues]; exact homeWrite_queues _ _ _ _
  · rw [extWrite_queues]; exact homeWrite_queues _ _ _ _

@[simp] theorem ctxEvent_queues (s : State) (c : BitVec 6) (code slot : Nat) (d0 d1 : Word) :
    (ctxEvent s c code slot d0 d1).queues = s.queues := by
  refine ite_queues rfl (ite_queues rfl (ite_queues ?_ ?_))
  · rw [signal_queues, setCtx_queues, extWrite_queues]; exact homeWrite_queues _ _ _ _
  · rw [setCtx_queues, extWrite_queues]; exact homeWrite_queues _ _ _ _

@[simp] theorem refusalEvent_queues (s : State) (c : BitVec 6) (r d : Nat) : (refusalEvent s c r d).queues = s.queues :=
  ctxEvent_queues _ _ _ _ _ _

@[simp] theorem dirtyLog_queues (s : State) (c : BitVec 6) (vp sz : Nat) (e : Eng) : (dirtyLog s c vp sz e).queues = s.queues := by
  refine ite_queues rfl (ite_queues (ite_queues rfl ?_) ?_)
  · rw [ctxEvent_queues, setCtx_queues]
  · exact homeWrite_queues _ _ _ _

@[simp] theorem setAD_queues (s : State) (t : TlbEntry) (k : AccKind) (e : Eng) : (setAD s t k e).queues = s.queues := by
  refine ite_queues ?_ ?_
  · exact ite_queues (dirtyLog_queues _ _ _ _ _) rfl
  · rw [homeWrite_queues]; exact ite_queues (dirtyLog_queues _ _ _ _ _) rfl

@[simp] theorem translate_queues (s : State) (core : Option (BitVec 8)) (c : BitVec 6) (va : Nat) (k : AccKind) (e : Eng) :
    (Machine.translate s core c va k e).2.queues = s.queues := by
  unfold Machine.translate; simp only
  split
  · split
    · rfl
    · split <;> simp
  · split
    · rfl
    · split
      · rfl
      · split
        · rfl
        · split <;> simp

@[simp] theorem translateBy_queues (s : State) (pins : List TlbEntry) (core : Option (BitVec 8)) (c : BitVec 6) (va : Nat)
    (k : AccKind) (e : Eng) : (translateBy pins s core c va k e).2.queues = s.queues := by
  unfold translateBy
  split
  · split
    · rfl
    · split <;> simp
  · simp

@[simp] theorem translateRange_queues (s : State) (pins : List TlbEntry) (core : Option (BitVec 8)) (c : BitVec 6)
    (va n : Nat) (k : AccKind) (e : Eng) (fuel : Nat) :
    (translateRange pins s core c va n k e fuel).2.queues = s.queues := by
  induction fuel generalizing s va n with
  | zero => rfl
  | succ m ih =>
    unfold translateRange
    split
    · rfl
    · have ht := translateBy_queues s pins core c (va % 2 ^ 64) k e
      simp only
      split
      · next s1 q => rw [q] at ht; exact ht
      · next s1 q => rw [q] at ht; exact ht
      · next t s1 q =>
        rw [q] at ht
        have hi := ih s1 (va % 2 ^ 64 + min n (4096 - va % 2 ^ 64 % 4096)) (n - min n (4096 - va % 2 ^ 64 % 4096))
        split
        · next q2 => rw [q2] at hi; exact hi.trans ht
        · exact hi.trans ht

@[simp] theorem putFault_queues (s : State) (r : FaultRecord) : (putFault s r).queues = s.queues := by
  unfold putFault; simp

@[simp] theorem flushFaultsFrom_queues (s : State) (l : List FaultRecord) : (flushFaultsFrom s l).2.queues = s.queues := by
  induction l generalizing s with
  | nil => rfl
  | cons r l ih =>
    unfold flushFaultsFrom
    split
    · exact ih s
    · split
      · exact (ih _).trans (putFault_queues s r)
      · rfl

@[simp] theorem flushFaults_queues (s : State) : (flushFaults s).queues = s.queues := flushFaultsFrom_queues s s.faults

@[simp] theorem raiseFault_queues (s : State) (a : FaultAgent) (c : BitVec 6) (va : Nat) (k : AccKind) (r l e : Nat) :
    (raiseFault s a c va k r l e).2.queues = s.queues := by
  unfold raiseFault; simp only [nextEvent]; exact flushFaults_queues _

@[simp] theorem l2Fill_queues (s : State) (d : Bool) (pa : Nat) (cp : BitVec 2) : (l2Fill s d pa cp).queues = s.queues :=
  ite_queues rfl rfl

@[simp] theorem tileRead_queues (s : State) (d : Bool) (pa n : Nat) (cp : BitVec 2) :
    (tileRead s d pa n cp).2.queues = s.queues := by
  induction n generalizing s pa with
  | zero => rfl
  | succ k ih => simp [tileRead, ih]

@[simp] theorem addLine_queues (s : State) (c : CacheLine) : (addLine s c).queues = s.queues := rfl

@[simp] theorem scalarRead_queues (s : State) (c : BitVec 8) (pa n : Nat) (cp : BitVec 2) :
    (scalarRead s c pa n cp).2.queues = s.queues := by
  unfold scalarRead; split
  · split
    · rfl
    · simp
  · rfl

/-! ## The field `kernels` -/

theorem ite_kernels {c : Prop} [Decidable c] {a b : State} {x} (ha : a.kernels = x) (hb : b.kernels = x) :
    (if c then a else b).kernels = x := by
  by_cases h : c
  · rw [if_pos h]; exact ha
  · rw [if_neg h]; exact hb

@[simp] theorem homeWrite_kernels (s : State) (a : Agent) (pa : Nat) (bs : List Byte) : (homeWrite s a pa bs).kernels = s.kernels :=
  ite_kernels rfl rfl

@[simp] theorem extRequest_kernels (s : State) (a : ExtAgent) (pa : Nat) (op : ExtOp) : (extRequest s a pa op).kernels = s.kernels := by
  rw [extRequest_frame]

@[simp] theorem extWrite_kernels (s : State) (a : ExtAgent) (pa : Nat) (bs : List Byte) : (extWrite s a pa bs).kernels = s.kernels := by
  unfold extWrite; exact foldl_keeps State.kernels _ (fun s p => extRequest_kernels s a _ _) _ s

@[simp] theorem signal_kernels (s : State) (v : BitVec 11) : (signal s v).kernels = s.kernels := by rw [signal_frame]

@[simp] theorem errLog_kernels (s : State) (r : ErrRec) : (errLog s r).kernels = s.kernels := by
  refine ite_kernels rfl (ite_kernels ?_ ?_)
  · rw [signal_kernels, extWrite_kernels]; exact homeWrite_kernels _ _ _ _
  · rw [extWrite_kernels]; exact homeWrite_kernels _ _ _ _

@[simp] theorem ctxEvent_kernels (s : State) (c : BitVec 6) (code slot : Nat) (d0 d1 : Word) :
    (ctxEvent s c code slot d0 d1).kernels = s.kernels := by
  refine ite_kernels rfl (ite_kernels rfl (ite_kernels ?_ ?_))
  · rw [signal_kernels, setCtx_kernels, extWrite_kernels]; exact homeWrite_kernels _ _ _ _
  · rw [setCtx_kernels, extWrite_kernels]; exact homeWrite_kernels _ _ _ _

@[simp] theorem refusalEvent_kernels (s : State) (c : BitVec 6) (r d : Nat) : (refusalEvent s c r d).kernels = s.kernels :=
  ctxEvent_kernels _ _ _ _ _ _

@[simp] theorem dirtyLog_kernels (s : State) (c : BitVec 6) (vp sz : Nat) (e : Eng) : (dirtyLog s c vp sz e).kernels = s.kernels := by
  refine ite_kernels rfl (ite_kernels (ite_kernels rfl ?_) ?_)
  · rw [ctxEvent_kernels, setCtx_kernels]
  · exact homeWrite_kernels _ _ _ _

@[simp] theorem setAD_kernels (s : State) (t : TlbEntry) (k : AccKind) (e : Eng) : (setAD s t k e).kernels = s.kernels := by
  refine ite_kernels ?_ ?_
  · exact ite_kernels (dirtyLog_kernels _ _ _ _ _) rfl
  · rw [homeWrite_kernels]; exact ite_kernels (dirtyLog_kernels _ _ _ _ _) rfl

@[simp] theorem translate_kernels (s : State) (core : Option (BitVec 8)) (c : BitVec 6) (va : Nat) (k : AccKind) (e : Eng) :
    (Machine.translate s core c va k e).2.kernels = s.kernels := by
  unfold Machine.translate; simp only
  split
  · split
    · rfl
    · split <;> simp
  · split
    · rfl
    · split
      · rfl
      · split
        · rfl
        · split <;> simp

@[simp] theorem translateBy_kernels (s : State) (pins : List TlbEntry) (core : Option (BitVec 8)) (c : BitVec 6) (va : Nat)
    (k : AccKind) (e : Eng) : (translateBy pins s core c va k e).2.kernels = s.kernels := by
  unfold translateBy
  split
  · split
    · rfl
    · split <;> simp
  · simp

@[simp] theorem translateRange_kernels (s : State) (pins : List TlbEntry) (core : Option (BitVec 8)) (c : BitVec 6)
    (va n : Nat) (k : AccKind) (e : Eng) (fuel : Nat) :
    (translateRange pins s core c va n k e fuel).2.kernels = s.kernels := by
  induction fuel generalizing s va n with
  | zero => rfl
  | succ m ih =>
    unfold translateRange
    split
    · rfl
    · have ht := translateBy_kernels s pins core c (va % 2 ^ 64) k e
      simp only
      split
      · next s1 q => rw [q] at ht; exact ht
      · next s1 q => rw [q] at ht; exact ht
      · next t s1 q =>
        rw [q] at ht
        have hi := ih s1 (va % 2 ^ 64 + min n (4096 - va % 2 ^ 64 % 4096)) (n - min n (4096 - va % 2 ^ 64 % 4096))
        split
        · next q2 => rw [q2] at hi; exact hi.trans ht
        · exact hi.trans ht

@[simp] theorem putFault_kernels (s : State) (r : FaultRecord) : (putFault s r).kernels = s.kernels := by
  unfold putFault; simp

@[simp] theorem flushFaultsFrom_kernels (s : State) (l : List FaultRecord) : (flushFaultsFrom s l).2.kernels = s.kernels := by
  induction l generalizing s with
  | nil => rfl
  | cons r l ih =>
    unfold flushFaultsFrom
    split
    · exact ih s
    · split
      · exact (ih _).trans (putFault_kernels s r)
      · rfl

@[simp] theorem flushFaults_kernels (s : State) : (flushFaults s).kernels = s.kernels := flushFaultsFrom_kernels s s.faults

@[simp] theorem raiseFault_kernels (s : State) (a : FaultAgent) (c : BitVec 6) (va : Nat) (k : AccKind) (r l e : Nat) :
    (raiseFault s a c va k r l e).2.kernels = s.kernels := by
  unfold raiseFault; simp only [nextEvent]; exact flushFaults_kernels _

@[simp] theorem l2Fill_kernels (s : State) (d : Bool) (pa : Nat) (cp : BitVec 2) : (l2Fill s d pa cp).kernels = s.kernels :=
  ite_kernels rfl rfl

@[simp] theorem tileRead_kernels (s : State) (d : Bool) (pa n : Nat) (cp : BitVec 2) :
    (tileRead s d pa n cp).2.kernels = s.kernels := by
  induction n generalizing s pa with
  | zero => rfl
  | succ k ih => simp [tileRead, ih]

@[simp] theorem addLine_kernels (s : State) (c : CacheLine) : (addLine s c).kernels = s.kernels := rfl

@[simp] theorem scalarRead_kernels (s : State) (c : BitVec 8) (pa n : Nat) (cp : BitVec 2) :
    (scalarRead s c pa n cp).2.kernels = s.kernels := by
  unfold scalarRead; split
  · split
    · rfl
    · simp
  · rfl

/-! ## The field `banks` -/

theorem ite_banks {c : Prop} [Decidable c] {a b : State} {x} (ha : a.banks = x) (hb : b.banks = x) :
    (if c then a else b).banks = x := by
  by_cases h : c
  · rw [if_pos h]; exact ha
  · rw [if_neg h]; exact hb

@[simp] theorem homeWrite_banks (s : State) (a : Agent) (pa : Nat) (bs : List Byte) : (homeWrite s a pa bs).banks = s.banks :=
  ite_banks rfl rfl

@[simp] theorem extRequest_banks (s : State) (a : ExtAgent) (pa : Nat) (op : ExtOp) : (extRequest s a pa op).banks = s.banks := by
  rw [extRequest_frame]

@[simp] theorem extWrite_banks (s : State) (a : ExtAgent) (pa : Nat) (bs : List Byte) : (extWrite s a pa bs).banks = s.banks := by
  unfold extWrite; exact foldl_keeps State.banks _ (fun s p => extRequest_banks s a _ _) _ s

@[simp] theorem signal_banks (s : State) (v : BitVec 11) : (signal s v).banks = s.banks := by rw [signal_frame]

@[simp] theorem errLog_banks (s : State) (r : ErrRec) : (errLog s r).banks = s.banks := by
  refine ite_banks rfl (ite_banks ?_ ?_)
  · rw [signal_banks, extWrite_banks]; exact homeWrite_banks _ _ _ _
  · rw [extWrite_banks]; exact homeWrite_banks _ _ _ _

@[simp] theorem ctxEvent_banks (s : State) (c : BitVec 6) (code slot : Nat) (d0 d1 : Word) :
    (ctxEvent s c code slot d0 d1).banks = s.banks := by
  refine ite_banks rfl (ite_banks rfl (ite_banks ?_ ?_))
  · rw [signal_banks, setCtx_banks, extWrite_banks]; exact homeWrite_banks _ _ _ _
  · rw [setCtx_banks, extWrite_banks]; exact homeWrite_banks _ _ _ _

@[simp] theorem refusalEvent_banks (s : State) (c : BitVec 6) (r d : Nat) : (refusalEvent s c r d).banks = s.banks :=
  ctxEvent_banks _ _ _ _ _ _

@[simp] theorem dirtyLog_banks (s : State) (c : BitVec 6) (vp sz : Nat) (e : Eng) : (dirtyLog s c vp sz e).banks = s.banks := by
  refine ite_banks rfl (ite_banks (ite_banks rfl ?_) ?_)
  · rw [ctxEvent_banks, setCtx_banks]
  · exact homeWrite_banks _ _ _ _

@[simp] theorem setAD_banks (s : State) (t : TlbEntry) (k : AccKind) (e : Eng) : (setAD s t k e).banks = s.banks := by
  refine ite_banks ?_ ?_
  · exact ite_banks (dirtyLog_banks _ _ _ _ _) rfl
  · rw [homeWrite_banks]; exact ite_banks (dirtyLog_banks _ _ _ _ _) rfl

@[simp] theorem translate_banks (s : State) (core : Option (BitVec 8)) (c : BitVec 6) (va : Nat) (k : AccKind) (e : Eng) :
    (Machine.translate s core c va k e).2.banks = s.banks := by
  unfold Machine.translate; simp only
  split
  · split
    · rfl
    · split <;> simp
  · split
    · rfl
    · split
      · rfl
      · split
        · rfl
        · split <;> simp

@[simp] theorem translateBy_banks (s : State) (pins : List TlbEntry) (core : Option (BitVec 8)) (c : BitVec 6) (va : Nat)
    (k : AccKind) (e : Eng) : (translateBy pins s core c va k e).2.banks = s.banks := by
  unfold translateBy
  split
  · split
    · rfl
    · split <;> simp
  · simp

@[simp] theorem translateRange_banks (s : State) (pins : List TlbEntry) (core : Option (BitVec 8)) (c : BitVec 6)
    (va n : Nat) (k : AccKind) (e : Eng) (fuel : Nat) :
    (translateRange pins s core c va n k e fuel).2.banks = s.banks := by
  induction fuel generalizing s va n with
  | zero => rfl
  | succ m ih =>
    unfold translateRange
    split
    · rfl
    · have ht := translateBy_banks s pins core c (va % 2 ^ 64) k e
      simp only
      split
      · next s1 q => rw [q] at ht; exact ht
      · next s1 q => rw [q] at ht; exact ht
      · next t s1 q =>
        rw [q] at ht
        have hi := ih s1 (va % 2 ^ 64 + min n (4096 - va % 2 ^ 64 % 4096)) (n - min n (4096 - va % 2 ^ 64 % 4096))
        split
        · next q2 => rw [q2] at hi; exact hi.trans ht
        · exact hi.trans ht

@[simp] theorem putFault_banks (s : State) (r : FaultRecord) : (putFault s r).banks = s.banks := by
  unfold putFault; simp

@[simp] theorem flushFaultsFrom_banks (s : State) (l : List FaultRecord) : (flushFaultsFrom s l).2.banks = s.banks := by
  induction l generalizing s with
  | nil => rfl
  | cons r l ih =>
    unfold flushFaultsFrom
    split
    · exact ih s
    · split
      · exact (ih _).trans (putFault_banks s r)
      · rfl

@[simp] theorem flushFaults_banks (s : State) : (flushFaults s).banks = s.banks := flushFaultsFrom_banks s s.faults

@[simp] theorem raiseFault_banks (s : State) (a : FaultAgent) (c : BitVec 6) (va : Nat) (k : AccKind) (r l e : Nat) :
    (raiseFault s a c va k r l e).2.banks = s.banks := by
  unfold raiseFault; simp only [nextEvent]; exact flushFaults_banks _

@[simp] theorem l2Fill_banks (s : State) (d : Bool) (pa : Nat) (cp : BitVec 2) : (l2Fill s d pa cp).banks = s.banks :=
  ite_banks rfl rfl

@[simp] theorem tileRead_banks (s : State) (d : Bool) (pa n : Nat) (cp : BitVec 2) :
    (tileRead s d pa n cp).2.banks = s.banks := by
  induction n generalizing s pa with
  | zero => rfl
  | succ k ih => simp [tileRead, ih]

@[simp] theorem addLine_banks (s : State) (c : CacheLine) : (addLine s c).banks = s.banks := rfl

@[simp] theorem scalarRead_banks (s : State) (c : BitVec 8) (pa n : Nat) (cp : BitVec 2) :
    (scalarRead s c pa n cp).2.banks = s.banks := by
  unfold scalarRead; split
  · split
    · rfl
    · simp
  · rfl

end Sys2Proof.Laws
end

