-- ==== Sys2Proof/Laws/Ops.lean ====
section
/-!
SUPPORT. What the operations that every family shares can do: the issue of a tile instruction, parks, and the
completion of an instruction in flight.
-/
namespace Sys2Proof.Laws

open Sys2Proof Sys2Proof.Machine

/-- The flight as the issue completes it: its number, the live lane groups, and whether the handler issued it. -/
def issued (s : State) (f : Flight) : Flight :=
  { f with id := s.me.nextId, lgs := liveLgs s (slotCore s.me.slot), inHandler := s.me.inHandler }

/-- An issue that stays in flight adds the flight, marks its tag busy and moves the program counter on. -/
theorem launchFlight_defer (s : State) (f : Flight) (hd : s.defer = true) (hs : handlerStuck s (issued s f) = false) :
    launchFlight s f = advance { s with me := { s.me with
      flights := s.me.flights ++ [issued s f], nextId := s.me.nextId + 1
      tags := match f.tag with | some g => s.me.tags &&& ~~~(BitVec.twoPow 64 g.toNat) | none => s.me.tags } } := by
  unfold issued at hs
  simp only [launchFlight, hs, issued, advance_defer, hd]
  rfl

/-- A running block that cannot go on parks on the instruction at its program counter and changes nothing else. -/
theorem parkOn_running (s : State) (w : Wait) (h : s.me.st = .running) :
    parkOn s w = { s with me := { s.me with wait := w, st := .parked } } := by
  simp [parkOn, h, Block.park]

/-- A park in handler mode keeps the block's state name. -/
theorem parkOn_handler (s : State) (w : Wait) (h : s.me.st = .handler) :
    parkOn s w = { s with me := { s.me with wait := w } } := by
  simp [parkOn, h, Block.park]

/-- Without an AQ bit, performing the last element marks the flight performed and drops its fault records and its answers. -/
theorem flightDone_plain (s : State) (f : Flight) (h : Instr.aqBit f.ins = false) :
    flightDone s f = cancelFaults (setFlight (dropAsks s (some f.id)) { f with st := .performed, started := true, pins := [], early := [] })
      fun a => a == .flight s.me.slot f.id := by
  simp [flightDone, h]

/-- Advancing a block that is not parked moves its program counter and ends its wait for versions and for answers. -/
theorem advance_running (b : Block) (h : b.st ≠ .parked) :
    b.advance = { b with pc := b.pc + 8, wait := .none, renames := [], asks := b.asks.filter fun a => a.flight.isSome } := by
  simp [Block.advance, h]

/-- The block in its own slot is itself. -/
theorem getBlock_me (s : State) : getBlock s s.me.slot = some s.me := by simp [getBlock]

/-- A change of the block whose turn it is. -/
theorem modBlock_me (s : State) (f : Block → Block) : modBlock s s.me.slot f = { s with me := f s.me } := by
  simp [modBlock]

/-- Turning to the block whose turn it is changes nothing. -/
theorem switchTo_me (s : State) : switchTo s s.me.slot = s := by simp [switchTo]

end Sys2Proof.Laws
end

