-- ==== Sys2Proof/Laws/PerInstr.lean ====
section
/-!
SUPPORT. Decoding the word of a well-formed instruction gives it back (R56 to R75), one lemma per constructor. A system
event has no word.
-/
namespace Sys2Proof.Laws

set_option linter.unusedSimpArgs false
set_option Elab.async false

/-- What is proved of an instruction: if it is well formed, it has no word, or its word decodes to it. -/
def RoundTrip.Statement (i : Instr) : Prop :=
  i.wf = true → encode i = .event ∨ decode (encode i) = some i

theorem RoundTrip.of_seq (i : Instr) (x : BitVec 64) (h : encodeSeq i = some x) (hd : decodeSeq x = .ok i) :
    encode i = .event ∨ decode (encode i) = some i := by
  right
  simp [encode, h, decode, hd, Except.toOption]

theorem RoundTrip.of_lane (i : Instr) (x : BitVec 32) (h0 : encodeSeq i = none) (h : encodeLane i = some x)
    (hd : decodeLane x = .ok i) : encode i = .event ∨ decode (encode i) = some i := by
  right
  simp [encode, h0, h, decode, hd, Except.toOption]

theorem RoundTrip.add (f : S3) : RoundTrip.Statement (.add f) := by
  intro h
  refine RoundTrip.of_seq _ _ rfl ?_
  unfold decodeSeq
  rw [packS3_maj]
  change decodeAlu _ = _
  unfold decodeAlu
  rw [packS3_min]
  apply readS3_packS3

theorem RoundTrip.sub (f : S3) : RoundTrip.Statement (.sub f) := by
  intro h
  refine RoundTrip.of_seq _ _ rfl ?_
  unfold decodeSeq
  rw [packS3_maj]
  change decodeAlu _ = _
  unfold decodeAlu
  rw [packS3_min]
  apply readS3_packS3

theorem RoundTrip.mul (f : S3) : RoundTrip.Statement (.mul f) := by
  intro h
  refine RoundTrip.of_seq _ _ rfl ?_
  unfold decodeSeq
  rw [packS3_maj]
  change decodeAlu _ = _
  unfold decodeAlu
  rw [packS3_min]
  apply readS3_packS3

theorem RoundTrip.mulhs (f : S3) : RoundTrip.Statement (.mulhs f) := by
  intro h
  refine RoundTrip.of_seq _ _ rfl ?_
  unfold decodeSeq
  rw [packS3_maj]
  change decodeAlu _ = _
  unfold decodeAlu
  rw [packS3_min]
  apply readS3_packS3

theorem RoundTrip.mulhu (f : S3) : RoundTrip.Statement (.mulhu f) := by
  intro h
  refine RoundTrip.of_seq _ _ rfl ?_
  unfold decodeSeq
  rw [packS3_maj]
  change decodeAlu _ = _
  unfold decodeAlu
  rw [packS3_min]
  apply readS3_packS3

theorem RoundTrip.divs (f : S3) : RoundTrip.Statement (.divs f) := by
  intro h
  refine RoundTrip.of_seq _ _ rfl ?_
  unfold decodeSeq
  rw [packS3_maj]
  change decodeAlu _ = _
  unfold decodeAlu
  rw [packS3_min]
  apply readS3_packS3

theorem RoundTrip.divu (f : S3) : RoundTrip.Statement (.divu f) := by
  intro h
  refine RoundTrip.of_seq _ _ rfl ?_
  unfold decodeSeq
  rw [packS3_maj]
  change decodeAlu _ = _
  unfold decodeAlu
  rw [packS3_min]
  apply readS3_packS3

theorem RoundTrip.rems (f : S3) : RoundTrip.Statement (.rems f) := by
  intro h
  refine RoundTrip.of_seq _ _ rfl ?_
  unfold decodeSeq
  rw [packS3_maj]
  change decodeAlu _ = _
  unfold decodeAlu
  rw [packS3_min]
  apply readS3_packS3

theorem RoundTrip.remu (f : S3) : RoundTrip.Statement (.remu f) := by
  intro h
  refine RoundTrip.of_seq _ _ rfl ?_
  unfold decodeSeq
  rw [packS3_maj]
  change decodeAlu _ = _
  unfold decodeAlu
  rw [packS3_min]
  apply readS3_packS3

theorem RoundTrip.and (f : S3) : RoundTrip.Statement (.and f) := by
  intro h
  refine RoundTrip.of_seq _ _ rfl ?_
  unfold decodeSeq
  rw [packS3_maj]
  change decodeAlu _ = _
  unfold decodeAlu
  rw [packS3_min]
  apply readS3_packS3

theorem RoundTrip.or (f : S3) : RoundTrip.Statement (.or f) := by
  intro h
  refine RoundTrip.of_seq _ _ rfl ?_
  unfold decodeSeq
  rw [packS3_maj]
  change decodeAlu _ = _
  unfold decodeAlu
  rw [packS3_min]
  apply readS3_packS3

theorem RoundTrip.xor (f : S3) : RoundTrip.Statement (.xor f) := by
  intro h
  refine RoundTrip.of_seq _ _ rfl ?_
  unfold decodeSeq
  rw [packS3_maj]
  change decodeAlu _ = _
  unfold decodeAlu
  rw [packS3_min]
  apply readS3_packS3

theorem RoundTrip.andn (f : S3) : RoundTrip.Statement (.andn f) := by
  intro h
  refine RoundTrip.of_seq _ _ rfl ?_
  unfold decodeSeq
  rw [packS3_maj]
  change decodeAlu _ = _
  unfold decodeAlu
  rw [packS3_min]
  apply readS3_packS3

theorem RoundTrip.shl (f : S3) : RoundTrip.Statement (.shl f) := by
  intro h
  refine RoundTrip.of_seq _ _ rfl ?_
  unfold decodeSeq
  rw [packS3_maj]
  change decodeAlu _ = _
  unfold decodeAlu
  rw [packS3_min]
  apply readS3_packS3

theorem RoundTrip.shrl (f : S3) : RoundTrip.Statement (.shrl f) := by
  intro h
  refine RoundTrip.of_seq _ _ rfl ?_
  unfold decodeSeq
  rw [packS3_maj]
  change decodeAlu _ = _
  unfold decodeAlu
  rw [packS3_min]
  apply readS3_packS3

theorem RoundTrip.shra (f : S3) : RoundTrip.Statement (.shra f) := by
  intro h
  refine RoundTrip.of_seq _ _ rfl ?_
  unfold decodeSeq
  rw [packS3_maj]
  change decodeAlu _ = _
  unfold decodeAlu
  rw [packS3_min]
  apply readS3_packS3

theorem RoundTrip.min (f : S3) : RoundTrip.Statement (.min f) := by
  intro h
  refine RoundTrip.of_seq _ _ rfl ?_
  unfold decodeSeq
  rw [packS3_maj]
  change decodeAlu _ = _
  unfold decodeAlu
  rw [packS3_min]
  apply readS3_packS3

theorem RoundTrip.max (f : S3) : RoundTrip.Statement (.max f) := by
  intro h
  refine RoundTrip.of_seq _ _ rfl ?_
  unfold decodeSeq
  rw [packS3_maj]
  change decodeAlu _ = _
  unfold decodeAlu
  rw [packS3_min]
  apply readS3_packS3

theorem RoundTrip.minu (f : S3) : RoundTrip.Statement (.minu f) := by
  intro h
  refine RoundTrip.of_seq _ _ rfl ?_
  unfold decodeSeq
  rw [packS3_maj]
  change decodeAlu _ = _
  unfold decodeAlu
  rw [packS3_min]
  apply readS3_packS3

theorem RoundTrip.maxu (f : S3) : RoundTrip.Statement (.maxu f) := by
  intro h
  refine RoundTrip.of_seq _ _ rfl ?_
  unfold decodeSeq
  rw [packS3_maj]
  change decodeAlu _ = _
  unfold decodeAlu
  rw [packS3_min]
  apply readS3_packS3

theorem RoundTrip.slt (f : S3) : RoundTrip.Statement (.slt f) := by
  intro h
  refine RoundTrip.of_seq _ _ rfl ?_
  unfold decodeSeq
  rw [packS3_maj]
  change decodeAlu _ = _
  unfold decodeAlu
  rw [packS3_min]
  apply readS3_packS3

theorem RoundTrip.sltu (f : S3) : RoundTrip.Statement (.sltu f) := by
  intro h
  refine RoundTrip.of_seq _ _ rfl ?_
  unfold decodeSeq
  rw [packS3_maj]
  change decodeAlu _ = _
  unfold decodeAlu
  rw [packS3_min]
  apply readS3_packS3

theorem RoundTrip.sel (f : S3) : RoundTrip.Statement (.sel f) := by
  intro h
  refine RoundTrip.of_seq _ _ rfl ?_
  unfold decodeSeq
  rw [packS3_maj]
  change decodeAlu _ = _
  unfold decodeAlu
  rw [packS3_min]
  apply readS3_packS3

theorem RoundTrip.clz (f : S2) : RoundTrip.Statement (.clz f) := by
  intro h
  refine RoundTrip.of_seq _ _ rfl ?_
  unfold decodeSeq
  rw [packS2_maj]
  change decodeAlu _ = _
  unfold decodeAlu
  rw [packS2_min]
  apply readS2_packS2

theorem RoundTrip.ctz (f : S2) : RoundTrip.Statement (.ctz f) := by
  intro h
  refine RoundTrip.of_seq _ _ rfl ?_
  unfold decodeSeq
  rw [packS2_maj]
  change decodeAlu _ = _
  unfold decodeAlu
  rw [packS2_min]
  apply readS2_packS2

theorem RoundTrip.popc (f : S2) : RoundTrip.Statement (.popc f) := by
  intro h
  refine RoundTrip.of_seq _ _ rfl ?_
  unfold decodeSeq
  rw [packS2_maj]
  change decodeAlu _ = _
  unfold decodeAlu
  rw [packS2_min]
  apply readS2_packS2

theorem RoundTrip.addImm (f : SI) : RoundTrip.Statement (.addImm f) := by
  intro h
  refine RoundTrip.of_seq _ _ rfl ?_
  unfold decodeSeq
  rw [packSI_maj]
  change decodeAluImm _ = _
  unfold decodeAluImm
  rw [packSI_min]
  apply readSI_packSI

theorem RoundTrip.subImm (f : SI) : RoundTrip.Statement (.subImm f) := by
  intro h
  refine RoundTrip.of_seq _ _ rfl ?_
  unfold decodeSeq
  rw [packSI_maj]
  change decodeAluImm _ = _
  unfold decodeAluImm
  rw [packSI_min]
  apply readSI_packSI

theorem RoundTrip.mulImm (f : SI) : RoundTrip.Statement (.mulImm f) := by
  intro h
  refine RoundTrip.of_seq _ _ rfl ?_
  unfold decodeSeq
  rw [packSI_maj]
  change decodeAluImm _ = _
  unfold decodeAluImm
  rw [packSI_min]
  apply readSI_packSI

theorem RoundTrip.mulhsImm (f : SI) : RoundTrip.Statement (.mulhsImm f) := by
  intro h
  refine RoundTrip.of_seq _ _ rfl ?_
  unfold decodeSeq
  rw [packSI_maj]
  change decodeAluImm _ = _
  unfold decodeAluImm
  rw [packSI_min]
  apply readSI_packSI

theorem RoundTrip.mulhuImm (f : SI) : RoundTrip.Statement (.mulhuImm f) := by
  intro h
  refine RoundTrip.of_seq _ _ rfl ?_
  unfold decodeSeq
  rw [packSI_maj]
  change decodeAluImm _ = _
  unfold decodeAluImm
  rw [packSI_min]
  apply readSI_packSI

theorem RoundTrip.divsImm (f : SI) : RoundTrip.Statement (.divsImm f) := by
  intro h
  refine RoundTrip.of_seq _ _ rfl ?_
  unfold decodeSeq
  rw [packSI_maj]
  change decodeAluImm _ = _
  unfold decodeAluImm
  rw [packSI_min]
  apply readSI_packSI

theorem RoundTrip.divuImm (f : SI) : RoundTrip.Statement (.divuImm f) := by
  intro h
  refine RoundTrip.of_seq _ _ rfl ?_
  unfold decodeSeq
  rw [packSI_maj]
  change decodeAluImm _ = _
  unfold decodeAluImm
  rw [packSI_min]
  apply readSI_packSI

theorem RoundTrip.remsImm (f : SI) : RoundTrip.Statement (.remsImm f) := by
  intro h
  refine RoundTrip.of_seq _ _ rfl ?_
  unfold decodeSeq
  rw [packSI_maj]
  change decodeAluImm _ = _
  unfold decodeAluImm
  rw [packSI_min]
  apply readSI_packSI

theorem RoundTrip.remuImm (f : SI) : RoundTrip.Statement (.remuImm f) := by
  intro h
  refine RoundTrip.of_seq _ _ rfl ?_
  unfold decodeSeq
  rw [packSI_maj]
  change decodeAluImm _ = _
  unfold decodeAluImm
  rw [packSI_min]
  apply readSI_packSI

theorem RoundTrip.andImm (f : SI) : RoundTrip.Statement (.andImm f) := by
  intro h
  refine RoundTrip.of_seq _ _ rfl ?_
  unfold decodeSeq
  rw [packSI_maj]
  change decodeAluImm _ = _
  unfold decodeAluImm
  rw [packSI_min]
  apply readSI_packSI

theorem RoundTrip.orImm (f : SI) : RoundTrip.Statement (.orImm f) := by
  intro h
  refine RoundTrip.of_seq _ _ rfl ?_
  unfold decodeSeq
  rw [packSI_maj]
  change decodeAluImm _ = _
  unfold decodeAluImm
  rw [packSI_min]
  apply readSI_packSI

theorem RoundTrip.xorImm (f : SI) : RoundTrip.Statement (.xorImm f) := by
  intro h
  refine RoundTrip.of_seq _ _ rfl ?_
  unfold decodeSeq
  rw [packSI_maj]
  change decodeAluImm _ = _
  unfold decodeAluImm
  rw [packSI_min]
  apply readSI_packSI

theorem RoundTrip.andnImm (f : SI) : RoundTrip.Statement (.andnImm f) := by
  intro h
  refine RoundTrip.of_seq _ _ rfl ?_
  unfold decodeSeq
  rw [packSI_maj]
  change decodeAluImm _ = _
  unfold decodeAluImm
  rw [packSI_min]
  apply readSI_packSI

theorem RoundTrip.shlImm (f : SI) : RoundTrip.Statement (.shlImm f) := by
  intro h
  refine RoundTrip.of_seq _ _ rfl ?_
  unfold decodeSeq
  rw [packSI_maj]
  change decodeAluImm _ = _
  unfold decodeAluImm
  rw [packSI_min]
  apply readSI_packSI

theorem RoundTrip.shrlImm (f : SI) : RoundTrip.Statement (.shrlImm f) := by
  intro h
  refine RoundTrip.of_seq _ _ rfl ?_
  unfold decodeSeq
  rw [packSI_maj]
  change decodeAluImm _ = _
  unfold decodeAluImm
  rw [packSI_min]
  apply readSI_packSI

theorem RoundTrip.shraImm (f : SI) : RoundTrip.Statement (.shraImm f) := by
  intro h
  refine RoundTrip.of_seq _ _ rfl ?_
  unfold decodeSeq
  rw [packSI_maj]
  change decodeAluImm _ = _
  unfold decodeAluImm
  rw [packSI_min]
  apply readSI_packSI

theorem RoundTrip.minImm (f : SI) : RoundTrip.Statement (.minImm f) := by
  intro h
  refine RoundTrip.of_seq _ _ rfl ?_
  unfold decodeSeq
  rw [packSI_maj]
  change decodeAluImm _ = _
  unfold decodeAluImm
  rw [packSI_min]
  apply readSI_packSI

theorem RoundTrip.maxImm (f : SI) : RoundTrip.Statement (.maxImm f) := by
  intro h
  refine RoundTrip.of_seq _ _ rfl ?_
  unfold decodeSeq
  rw [packSI_maj]
  change decodeAluImm _ = _
  unfold decodeAluImm
  rw [packSI_min]
  apply readSI_packSI

theorem RoundTrip.minuImm (f : SI) : RoundTrip.Statement (.minuImm f) := by
  intro h
  refine RoundTrip.of_seq _ _ rfl ?_
  unfold decodeSeq
  rw [packSI_maj]
  change decodeAluImm _ = _
  unfold decodeAluImm
  rw [packSI_min]
  apply readSI_packSI

theorem RoundTrip.maxuImm (f : SI) : RoundTrip.Statement (.maxuImm f) := by
  intro h
  refine RoundTrip.of_seq _ _ rfl ?_
  unfold decodeSeq
  rw [packSI_maj]
  change decodeAluImm _ = _
  unfold decodeAluImm
  rw [packSI_min]
  apply readSI_packSI

theorem RoundTrip.sltImm (f : SI) : RoundTrip.Statement (.sltImm f) := by
  intro h
  refine RoundTrip.of_seq _ _ rfl ?_
  unfold decodeSeq
  rw [packSI_maj]
  change decodeAluImm _ = _
  unfold decodeAluImm
  rw [packSI_min]
  apply readSI_packSI

theorem RoundTrip.sltuImm (f : SI) : RoundTrip.Statement (.sltuImm f) := by
  intro h
  refine RoundTrip.of_seq _ _ rfl ?_
  unfold decodeSeq
  rw [packSI_maj]
  change decodeAluImm _ = _
  unfold decodeAluImm
  rw [packSI_min]
  apply readSI_packSI

theorem RoundTrip.selImm (f : SI) : RoundTrip.Statement (.selImm f) := by
  intro h
  refine RoundTrip.of_seq _ _ rfl ?_
  unfold decodeSeq
  rw [packSI_maj]
  change decodeAluImm _ = _
  unfold decodeAluImm
  rw [packSI_min]
  apply readSI_packSI

theorem RoundTrip.fadd (f : S3) : RoundTrip.Statement (.fadd f) := by
  intro h
  refine RoundTrip.of_seq _ _ rfl ?_
  unfold decodeSeq
  rw [packS3_maj]
  change decodeFp _ = _
  unfold decodeFp
  rw [packS3_min]
  apply readS3_packS3

theorem RoundTrip.fsub (f : S3) : RoundTrip.Statement (.fsub f) := by
  intro h
  refine RoundTrip.of_seq _ _ rfl ?_
  unfold decodeSeq
  rw [packS3_maj]
  change decodeFp _ = _
  unfold decodeFp
  rw [packS3_min]
  apply readS3_packS3

theorem RoundTrip.fmul (f : S3) : RoundTrip.Statement (.fmul f) := by
  intro h
  refine RoundTrip.of_seq _ _ rfl ?_
  unfold decodeSeq
  rw [packS3_maj]
  change decodeFp _ = _
  unfold decodeFp
  rw [packS3_min]
  apply readS3_packS3

theorem RoundTrip.fma (f : S3) : RoundTrip.Statement (.fma f) := by
  intro h
  refine RoundTrip.of_seq _ _ rfl ?_
  unfold decodeSeq
  rw [packS3_maj]
  change decodeFp _ = _
  unfold decodeFp
  rw [packS3_min]
  apply readS3_packS3

theorem RoundTrip.fmin (f : S3) : RoundTrip.Statement (.fmin f) := by
  intro h
  refine RoundTrip.of_seq _ _ rfl ?_
  unfold decodeSeq
  rw [packS3_maj]
  change decodeFp _ = _
  unfold decodeFp
  rw [packS3_min]
  apply readS3_packS3

theorem RoundTrip.fmax (f : S3) : RoundTrip.Statement (.fmax f) := by
  intro h
  refine RoundTrip.of_seq _ _ rfl ?_
  unfold decodeSeq
  rw [packS3_maj]
  change decodeFp _ = _
  unfold decodeFp
  rw [packS3_min]
  apply readS3_packS3

theorem RoundTrip.fcmpEq (f : S3) : RoundTrip.Statement (.fcmpEq f) := by
  intro h
  refine RoundTrip.of_seq _ _ rfl ?_
  unfold decodeSeq
  rw [packS3_maj]
  change decodeFp _ = _
  unfold decodeFp
  rw [packS3_min]
  apply readS3_packS3

theorem RoundTrip.fcmpLt (f : S3) : RoundTrip.Statement (.fcmpLt f) := by
  intro h
  refine RoundTrip.of_seq _ _ rfl ?_
  unfold decodeSeq
  rw [packS3_maj]
  change decodeFp _ = _
  unfold decodeFp
  rw [packS3_min]
  apply readS3_packS3

theorem RoundTrip.fcmpLe (f : S3) : RoundTrip.Statement (.fcmpLe f) := by
  intro h
  refine RoundTrip.of_seq _ _ rfl ?_
  unfold decodeSeq
  rw [packS3_maj]
  change decodeFp _ = _
  unfold decodeFp
  rw [packS3_min]
  apply readS3_packS3

theorem RoundTrip.fcmpUn (f : S3) : RoundTrip.Statement (.fcmpUn f) := by
  intro h
  refine RoundTrip.of_seq _ _ rfl ?_
  unfold decodeSeq
  rw [packS3_maj]
  change decodeFp _ = _
  unfold decodeFp
  rw [packS3_min]
  apply readS3_packS3

theorem RoundTrip.fcvtFi (f : S2) : RoundTrip.Statement (.fcvtFi f) := by
  intro h
  refine RoundTrip.of_seq _ _ rfl ?_
  unfold decodeSeq
  rw [packS2_maj]
  change decodeFp _ = _
  unfold decodeFp
  rw [packS2_min]
  apply readS2_packS2

theorem RoundTrip.fcvtFn (f : S2) : RoundTrip.Statement (.fcvtFn f) := by
  intro h
  refine RoundTrip.of_seq _ _ rfl ?_
  unfold decodeSeq
  rw [packS2_maj]
  change decodeFp _ = _
  unfold decodeFp
  rw [packS2_min]
  apply readS2_packS2

theorem RoundTrip.fcvtIf (f : S2) : RoundTrip.Statement (.fcvtIf f) := by
  intro h
  refine RoundTrip.of_seq _ _ rfl ?_
  unfold decodeSeq
  rw [packS2_maj]
  change decodeFp _ = _
  unfold decodeFp
  rw [packS2_min]
  apply readS2_packS2

theorem RoundTrip.fcvtNf (f : S2) : RoundTrip.Statement (.fcvtNf f) := by
  intro h
  refine RoundTrip.of_seq _ _ rfl ?_
  unfold decodeSeq
  rw [packS2_maj]
  change decodeFp _ = _
  unfold decodeFp
  rw [packS2_min]
  apply readS2_packS2

theorem RoundTrip.sld (f : SI) : RoundTrip.Statement (.sld f) := by
  intro h
  refine RoundTrip.of_seq _ _ rfl ?_
  unfold decodeSeq
  rw [packSI_maj]
  change decodeScalarMem _ = _
  unfold decodeScalarMem
  rw [packSI_min]
  apply readSI_packSI

theorem RoundTrip.sldZ (f : SI) : RoundTrip.Statement (.sldZ f) := by
  intro h
  refine RoundTrip.of_seq _ _ rfl ?_
  unfold decodeSeq
  rw [packSI_maj]
  change decodeScalarMem _ = _
  unfold decodeScalarMem
  rw [packSI_min]
  apply readSI_packSI

theorem RoundTrip.sst (f : SI) : RoundTrip.Statement (.sst f) := by
  intro h
  refine RoundTrip.of_seq _ _ rfl ?_
  unfold decodeSeq
  rw [packSI_maj]
  change decodeScalarMem _ = _
  unfold decodeScalarMem
  rw [packSI_min]
  apply readSI_packSI

theorem RoundTrip.samoAdd (f : SamoF) : RoundTrip.Statement (.samoAdd f) := by
  intro h
  refine RoundTrip.of_seq _ _ rfl ?_
  have hx : f.wf = true := by simpa [Instr.wf] using h
  unfold decodeSeq
  rw [packSamo_maj]
  change decodeSamo _ = _
  unfold decodeSamo
  rw [packSamo_min]
  apply readSamo_packSamo
  exact hx

theorem RoundTrip.samoSwap (f : SamoF) : RoundTrip.Statement (.samoSwap f) := by
  intro h
  refine RoundTrip.of_seq _ _ rfl ?_
  have hx : f.wf = true := by simpa [Instr.wf] using h
  unfold decodeSeq
  rw [packSamo_maj]
  change decodeSamo _ = _
  unfold decodeSamo
  rw [packSamo_min]
  apply readSamo_packSamo
  exact hx

theorem RoundTrip.samoCas (f : SamoF) : RoundTrip.Statement (.samoCas f) := by
  intro h
  refine RoundTrip.of_seq _ _ rfl ?_
  have hx : f.wf = true := by simpa [Instr.wf] using h
  unfold decodeSeq
  rw [packSamo_maj]
  change decodeSamo _ = _
  unfold decodeSamo
  rw [packSamo_min]
  apply readSamo_packSamo
  exact hx

theorem RoundTrip.samoMin (f : SamoF) : RoundTrip.Statement (.samoMin f) := by
  intro h
  refine RoundTrip.of_seq _ _ rfl ?_
  have hx : f.wf = true := by simpa [Instr.wf] using h
  unfold decodeSeq
  rw [packSamo_maj]
  change decodeSamo _ = _
  unfold decodeSamo
  rw [packSamo_min]
  apply readSamo_packSamo
  exact hx

theorem RoundTrip.samoMax (f : SamoF) : RoundTrip.Statement (.samoMax f) := by
  intro h
  refine RoundTrip.of_seq _ _ rfl ?_
  have hx : f.wf = true := by simpa [Instr.wf] using h
  unfold decodeSeq
  rw [packSamo_maj]
  change decodeSamo _ = _
  unfold decodeSamo
  rw [packSamo_min]
  apply readSamo_packSamo
  exact hx

theorem RoundTrip.samoAnd (f : SamoF) : RoundTrip.Statement (.samoAnd f) := by
  intro h
  refine RoundTrip.of_seq _ _ rfl ?_
  have hx : f.wf = true := by simpa [Instr.wf] using h
  unfold decodeSeq
  rw [packSamo_maj]
  change decodeSamo _ = _
  unfold decodeSamo
  rw [packSamo_min]
  apply readSamo_packSamo
  exact hx

theorem RoundTrip.samoOr (f : SamoF) : RoundTrip.Statement (.samoOr f) := by
  intro h
  refine RoundTrip.of_seq _ _ rfl ?_
  have hx : f.wf = true := by simpa [Instr.wf] using h
  unfold decodeSeq
  rw [packSamo_maj]
  change decodeSamo _ = _
  unfold decodeSamo
  rw [packSamo_min]
  apply readSamo_packSamo
  exact hx

theorem RoundTrip.samoXor (f : SamoF) : RoundTrip.Statement (.samoXor f) := by
  intro h
  refine RoundTrip.of_seq _ _ rfl ?_
  have hx : f.wf = true := by simpa [Instr.wf] using h
  unfold decodeSeq
  rw [packSamo_maj]
  change decodeSamo _ = _
  unfold decodeSamo
  rw [packSamo_min]
  apply readSamo_packSamo
  exact hx

theorem RoundTrip.samoMinu (f : SamoF) : RoundTrip.Statement (.samoMinu f) := by
  intro h
  refine RoundTrip.of_seq _ _ rfl ?_
  have hx : f.wf = true := by simpa [Instr.wf] using h
  unfold decodeSeq
  rw [packSamo_maj]
  change decodeSamo _ = _
  unfold decodeSamo
  rw [packSamo_min]
  apply readSamo_packSamo
  exact hx

theorem RoundTrip.samoMaxu (f : SamoF) : RoundTrip.Statement (.samoMaxu f) := by
  intro h
  refine RoundTrip.of_seq _ _ rfl ?_
  have hx : f.wf = true := by simpa [Instr.wf] using h
  unfold decodeSeq
  rw [packSamo_maj]
  change decodeSamo _ = _
  unfold decodeSamo
  rw [packSamo_min]
  apply readSamo_packSamo
  exact hx

theorem RoundTrip.bCond (f : BrF) : RoundTrip.Statement (.bCond f) := by
  intro h
  refine RoundTrip.of_seq _ _ rfl ?_
  unfold decodeSeq
  rw [packBr_maj]
  change decodeBranch _ = _
  unfold decodeBranch
  rw [packBr_min]
  apply readBr_packBr

theorem RoundTrip.j (off : BitVec 32) : RoundTrip.Statement (.j off) := by
  intro h
  refine RoundTrip.of_seq _ _ rfl ?_
  unfold decodeSeq
  rw [packOff_maj]
  change decodeJump _ = _
  unfold decodeJump
  rw [packOff_min]
  apply readOff_packOff

theorem RoundTrip.call (f : SaOff) : RoundTrip.Statement (.call f) := by
  intro h
  refine RoundTrip.of_seq _ _ rfl ?_
  unfold decodeSeq
  rw [packSaOff_maj]
  change decodeJump _ = _
  unfold decodeJump
  rw [packSaOff_min]
  apply readSaOff_packSaOff

theorem RoundTrip.ret (sa : BitVec 6) : RoundTrip.Statement (.ret sa) := by
  intro h
  refine RoundTrip.of_seq _ _ rfl ?_
  unfold decodeSeq
  rw [packBrSa_maj]
  change decodeJump _ = _
  unfold decodeJump
  rw [packBrSa_min]
  apply readBrSa_packBrSa

theorem RoundTrip.loop (f : SaOff) : RoundTrip.Statement (.loop f) := by
  intro h
  refine RoundTrip.of_seq _ _ rfl ?_
  unfold decodeSeq
  rw [packSaOff_maj]
  change decodeLoop _ = _
  unfold decodeLoop
  rw [packSaOff_min]
  apply readSaOff_packSaOff

theorem RoundTrip.endl (off : BitVec 32) : RoundTrip.Statement (.endl off) := by
  intro h
  refine RoundTrip.of_seq _ _ rfl ?_
  unfold decodeSeq
  rw [packOff_maj]
  change decodeLoop _ = _
  unfold decodeLoop
  rw [packOff_min]
  apply readOff_packOff

theorem RoundTrip.lbrk (lv : BitVec 3) (off : BitVec 32) : RoundTrip.Statement (.lbrk lv off) := by
  intro h
  refine RoundTrip.of_seq _ _ rfl ?_
  have hx : lv ≠ 0 ∧ lv ≠ 7 := by simpa [Instr.wf] using h
  unfold decodeSeq
  rw [packLbrk_maj]
  change decodeLoop _ = _
  unfold decodeLoop
  rw [packLbrk_min]
  apply readLbrk_packLbrk
  exact hx

theorem RoundTrip.movi (f : SdImm) : RoundTrip.Statement (.movi f) := by
  intro h
  refine RoundTrip.of_seq _ _ rfl ?_
  unfold decodeSeq
  rw [packSdImm_maj]
  change decodeMov _ = _
  unfold decodeMov
  rw [packSdImm_min]
  apply readSdImm_packSdImm

theorem RoundTrip.movhi (f : SdImm) : RoundTrip.Statement (.movhi f) := by
  intro h
  refine RoundTrip.of_seq _ _ rfl ?_
  unfold decodeSeq
  rw [packSdImm_maj]
  change decodeMov _ = _
  unfold decodeMov
  rw [packSdImm_min]
  apply readSdImm_packSdImm

theorem RoundTrip.nop : RoundTrip.Statement .nop := by
  intro h
  refine RoundTrip.of_seq _ _ rfl ?_
  unfold decodeSeq
  rw [packY0_maj]
  change decodeSys _ = _
  unfold decodeSys
  rw [packY0_min]
  apply readY0_packY0

theorem RoundTrip.sysrd (sd : BitVec 6) (r : SysReg) : RoundTrip.Statement (.sysrd sd r) := by
  intro h
  refine RoundTrip.of_seq _ _ rfl ?_
  unfold decodeSeq
  rw [packSysrd_maj]
  change decodeSys _ = _
  unfold decodeSys
  rw [packSysrd_min]
  apply readSysrd_packSysrd

theorem RoundTrip.syswr (sa : BitVec 6) : RoundTrip.Statement (.syswr sa) := by
  intro h
  refine RoundTrip.of_seq _ _ rfl ?_
  unfold decodeSeq
  rw [packSyswr_maj]
  change decodeSys _ = _
  unfold decodeSys
  rw [packSyswr_min]
  apply readSyswr_packSyswr

theorem RoundTrip.yield : RoundTrip.Statement .yield := by
  intro h
  refine RoundTrip.of_seq _ _ rfl ?_
  unfold decodeSeq
  rw [packY0_maj]
  change decodeSys _ = _
  unfold decodeSys
  rw [packY0_min]
  apply readY0_packY0

theorem RoundTrip.exit : RoundTrip.Statement .exit := by
  intro h
  refine RoundTrip.of_seq _ _ rfl ?_
  unfold decodeSeq
  rw [packY0_maj]
  change decodeSys _ = _
  unfold decodeSys
  rw [packY0_min]
  apply readY0_packY0

theorem RoundTrip.region (mask : BitVec 32) : RoundTrip.Statement (.region mask) := by
  intro h
  refine RoundTrip.of_seq _ _ rfl ?_
  unfold decodeSeq
  rw [packRegion_maj]
  change decodeRegion _ = _
  unfold decodeRegion
  rw [packRegion_min]
  apply readRegion_packRegion

theorem RoundTrip.regend : RoundTrip.Statement .regend := by
  intro h
  refine RoundTrip.of_seq _ _ rfl ?_
  unfold decodeSeq
  rw [packSi0_maj]
  change decodeRegion _ = _
  unfold decodeRegion
  rw [packSi0_min]
  apply readSi0_packSi0

theorem RoundTrip.trap (code : BitVec 16) : RoundTrip.Statement (.trap code) := by
  intro h
  refine RoundTrip.of_seq _ _ rfl ?_
  unfold decodeSeq
  rw [packTrap_maj]
  change decodeTrapOps _ = _
  unfold decodeTrapOps
  rw [packTrap_min]
  apply readTrap_packTrap

theorem RoundTrip.eret : RoundTrip.Statement .eret := by
  intro h
  refine RoundTrip.of_seq _ _ rfl ?_
  unfold decodeSeq
  rw [packY0_maj]
  change decodeTrapOps _ = _
  unfold decodeTrapOps
  rw [packY0_min]
  apply readY0_packY0

theorem RoundTrip.eretSkip : RoundTrip.Statement .eretSkip := by
  intro h
  refine RoundTrip.of_seq _ _ rfl ?_
  unfold decodeSeq
  rw [packY0_maj]
  change decodeTrapOps _ = _
  unfold decodeTrapOps
  rw [packY0_min]
  apply readY0_packY0

theorem RoundTrip.eretElem : RoundTrip.Statement .eretElem := by
  intro h
  refine RoundTrip.of_seq _ _ rfl ?_
  unfold decodeSeq
  rw [packY0_maj]
  change decodeTrapOps _ = _
  unfold decodeTrapOps
  rw [packY0_min]
  apply readY0_packY0

theorem RoundTrip.hset (f : HField) : RoundTrip.Statement (.hset f) := by
  intro h
  refine RoundTrip.of_seq _ _ rfl ?_
  unfold decodeSeq
  rw [packHField_maj]
  change decodeTileSetup _ = _
  unfold decodeTileSetup
  rw [packHField_min]
  apply readHField_packHField

theorem RoundTrip.hget (f : HField) : RoundTrip.Statement (.hget f) := by
  intro h
  refine RoundTrip.of_seq _ _ rfl ?_
  unfold decodeSeq
  rw [packHField_maj]
  change decodeTileSetup _ = _
  unfold decodeTileSetup
  rw [packHField_min]
  apply readHField_packHField

theorem RoundTrip.tbind (t : BitVec 5) (h : BitVec 4) : RoundTrip.Statement (.tbind t h) := by
  intro h
  refine RoundTrip.of_seq _ _ rfl ?_
  unfold decodeSeq
  rw [packTH_maj]
  change decodeTileSetup _ = _
  unfold decodeTileSetup
  rw [packTH_min]
  apply readTH_packTH

theorem RoundTrip.tdrop (t : BitVec 5) : RoundTrip.Statement (.tdrop t) := by
  intro h
  refine RoundTrip.of_seq _ _ rfl ?_
  unfold decodeSeq
  rw [packTxT_maj]
  change decodeTileSetup _ = _
  unfold decodeTileSetup
  rw [packTxT_min]
  apply readTxT_packTxT

theorem RoundTrip.tqry (sa : BitVec 6) (sel : QuerySel) : RoundTrip.Statement (.tqry sa sel) := by
  intro h
  refine RoundTrip.of_seq _ _ rfl ?_
  unfold decodeSeq
  rw [packTqry_maj]
  change decodeTileSetup _ = _
  unfold decodeTileSetup
  rw [packTqry_min]
  apply readTqry_packTqry

theorem RoundTrip.tld (f : TmF) : RoundTrip.Statement (.tld f) := by
  intro h
  refine RoundTrip.of_seq _ _ rfl ?_
  have hx : f.wf = true := by simpa [Instr.wf] using h
  unfold decodeSeq
  rw [packTm_maj]
  change decodeTld _ = _
  unfold decodeTld
  rw [packTm_min]
  apply readTm_packTm
  exact hx

theorem RoundTrip.tst (f : TmF) : RoundTrip.Statement (.tst f) := by
  intro h
  refine RoundTrip.of_seq _ _ rfl ?_
  have hx : f.wf = true := by simpa [Instr.wf] using h
  unfold decodeSeq
  rw [packTm_maj]
  change decodeTst _ = _
  unfold decodeTst
  rw [packTm_min]
  apply readTm_packTm
  exact hx

theorem RoundTrip.tldff (f : TmF) : RoundTrip.Statement (.tldff f) := by
  intro h
  refine RoundTrip.of_seq _ _ rfl ?_
  have hx : f.wf = true := by simpa [Instr.wf] using h
  unfold decodeSeq
  rw [packTm_maj]
  change decodeTldff _ = _
  unfold decodeTldff
  rw [packTm_min]
  apply readTm_packTm
  exact hx

theorem RoundTrip.tgth (f : TmIdxF) : RoundTrip.Statement (.tgth f) := by
  intro h
  refine RoundTrip.of_seq _ _ rfl ?_
  have hx : f.wf = true := by simpa [Instr.wf] using h
  unfold decodeSeq
  rw [packTmIdx_maj]
  change decodeTgth _ = _
  unfold decodeTgth
  rw [packTmIdx_min]
  apply readTmIdx_packTmIdx
  exact hx

theorem RoundTrip.tgthFull (f : TmIdxF) : RoundTrip.Statement (.tgthFull f) := by
  intro h
  refine RoundTrip.of_seq _ _ rfl ?_
  have hx : f.wf = true := by simpa [Instr.wf] using h
  unfold decodeSeq
  rw [packTmIdx_maj]
  change decodeTgth _ = _
  unfold decodeTgth
  rw [packTmIdx_min]
  apply readTmIdx_packTmIdx
  exact hx

theorem RoundTrip.tsct (f : TmIdxF) : RoundTrip.Statement (.tsct f) := by
  intro h
  refine RoundTrip.of_seq _ _ rfl ?_
  have hx : f.wf = true := by simpa [Instr.wf] using h
  unfold decodeSeq
  rw [packTmIdx_maj]
  change decodeTsct _ = _
  unfold decodeTsct
  rw [packTmIdx_min]
  apply readTmIdx_packTmIdx
  exact hx

theorem RoundTrip.wbind (f : WbindF) : RoundTrip.Statement (.wbind f) := by
  intro h
  refine RoundTrip.of_seq _ _ rfl ?_
  unfold decodeSeq
  rw [packWbind_maj]
  change decodeStream _ = _
  unfold decodeStream
  rw [packWbind_min]
  apply readWbind_packWbind

theorem RoundTrip.tldw (t : BitVec 5) (w : BitVec 3) : RoundTrip.Statement (.tldw t w) := by
  intro h
  refine RoundTrip.of_seq _ _ rfl ?_
  unfold decodeSeq
  rw [packTldw_maj]
  change decodeStream _ = _
  unfold decodeStream
  rw [packTldw_min]
  apply readTldw_packTldw

theorem RoundTrip.tcb (f : TcbF) : RoundTrip.Statement (.tcb f) := by
  intro h
  refine RoundTrip.of_seq _ _ rfl ?_
  have hx : f.wf = true := by simpa [Instr.wf] using h
  unfold decodeSeq
  rw [packTcb_maj]
  change decodeTcb _ = _
  unfold decodeTcb
  rw [packTcb_min]
  apply readTcb_packTcb
  exact hx

theorem RoundTrip.topt (f : TmF) : RoundTrip.Statement (.topt f) := by
  intro h
  refine RoundTrip.of_seq _ _ rfl ?_
  have hx : f.wf = true := by simpa [Instr.wf] using h
  unfold decodeSeq
  rw [packTm_maj]
  change decodeTopt _ = _
  unfold decodeTopt
  rw [packTm_min]
  apply readTm_packTm
  exact hx

theorem RoundTrip.bcopy (f : BcopyF) : RoundTrip.Statement (.bcopy f) := by
  intro h
  refine RoundTrip.of_seq _ _ rfl ?_
  have hx : f.wf = true := by simpa [Instr.wf] using h
  unfold decodeSeq
  rw [packBcopy_maj]
  change decodeBcopy _ = _
  unfold decodeBcopy
  rw [packBcopy_min]
  apply readBcopy_packBcopy
  exact hx

theorem RoundTrip.waitc (f : WaitcF) : RoundTrip.Statement (.waitc f) := by
  intro h
  refine RoundTrip.of_seq _ _ rfl ?_
  unfold decodeSeq
  rw [packWaitc_maj]
  change decodeWait _ = _
  unfold decodeWait
  rw [packWaitc_min]
  apply readWaitc_packWaitc

theorem RoundTrip.waittAll (sa : BitVec 6) : RoundTrip.Statement (.waittAll sa) := by
  intro h
  refine RoundTrip.of_seq _ _ rfl ?_
  unfold decodeSeq
  rw [packYSa_maj]
  change decodeWait _ = _
  unfold decodeWait
  rw [packYSa_min]
  apply readYSa_packYSa

theorem RoundTrip.waittAny (sa : BitVec 6) : RoundTrip.Statement (.waittAny sa) := by
  intro h
  refine RoundTrip.of_seq _ _ rfl ?_
  unfold decodeSeq
  rw [packYSa_maj]
  change decodeWait _ = _
  unfold decodeWait
  rw [packYSa_min]
  apply readYSa_packYSa

theorem RoundTrip.tagff (sd : BitVec 6) (sa : BitVec 6) : RoundTrip.Statement (.tagff sd sa) := by
  intro h
  refine RoundTrip.of_seq _ _ rfl ?_
  unfold decodeSeq
  rw [packYSdSa_maj]
  change decodeWait _ = _
  unfold decodeWait
  rw [packYSdSa_min]
  apply readYSdSa_packYSdSa

theorem RoundTrip.tagclr (sa : BitVec 6) : RoundTrip.Statement (.tagclr sa) := by
  intro h
  refine RoundTrip.of_seq _ _ rfl ?_
  unfold decodeSeq
  rw [packYSa_maj]
  change decodeWait _ = _
  unfold decodeWait
  rw [packYSa_min]
  apply readYSa_packYSa

theorem RoundTrip.mma (f : MmF) : RoundTrip.Statement (.mma f) := by
  intro h
  refine RoundTrip.of_seq _ _ rfl ?_
  unfold decodeSeq
  rw [packMm_maj]
  change decodeMma _ = _
  unfold decodeMma
  rw [packMm_min]
  apply readMm_packMm

theorem RoundTrip.mmv (f : MmF) : RoundTrip.Statement (.mmv f) := by
  intro h
  refine RoundTrip.of_seq _ _ rfl ?_
  unfold decodeSeq
  rw [packMm_maj]
  change decodeMmv _ = _
  unfold decodeMmv
  rw [packMm_min]
  apply readMm_packMm

theorem RoundTrip.map (f : MapF) : RoundTrip.Statement (.map f) := by
  intro h
  refine RoundTrip.of_seq _ _ rfl ?_
  have hx : f.wf = true := by simpa [Instr.wf] using h
  unfold decodeSeq
  rw [packMap_maj]
  change decodeMap _ = _
  unfold decodeMap
  rw [packMap_min]
  apply readMap_packMap
  exact hx

theorem RoundTrip.reduce (f : RedF) : RoundTrip.Statement (.reduce f) := by
  intro h
  refine RoundTrip.of_seq _ _ rfl ?_
  have hx : f.wf = true := by simpa [Instr.wf] using h
  unfold decodeSeq
  rw [packRed_maj]
  change decodeReduce _ = _
  unfold decodeReduce
  rw [packRed_min]
  apply readRed_packRed
  exact hx

theorem RoundTrip.tcvt (td : BitVec 5) (ta : BitVec 5) : RoundTrip.Statement (.tcvt td ta) := by
  intro h
  refine RoundTrip.of_seq _ _ rfl ?_
  unfold decodeSeq
  rw [packTdTa_maj]
  change decodeTileMisc _ = _
  unfold decodeTileMisc
  rw [packTdTa_min]
  apply readTdTa_packTdTa

theorem RoundTrip.tfill (td : BitVec 5) (imm : BitVec 24) : RoundTrip.Statement (.tfill td imm) := by
  intro h
  refine RoundTrip.of_seq _ _ rfl ?_
  unfold decodeSeq
  rw [packTfill_maj]
  change decodeTileMisc _ = _
  unfold decodeTileMisc
  rw [packTfill_min]
  apply readTfill_packTfill

theorem RoundTrip.tmov (td : BitVec 5) (ta : BitVec 5) : RoundTrip.Statement (.tmov td ta) := by
  intro h
  refine RoundTrip.of_seq _ _ rfl ?_
  unfold decodeSeq
  rw [packTdTa_maj]
  change decodeTileMisc _ = _
  unfold decodeTileMisc
  rw [packTdTa_min]
  apply readTdTa_packTdTa

theorem RoundTrip.tscan (f : ScanF) : RoundTrip.Statement (.tscan f) := by
  intro h
  refine RoundTrip.of_seq _ _ rfl ?_
  have hx : f.wf = true := by simpa [Instr.wf] using h
  unfold decodeSeq
  rw [packScan_maj]
  change decodeTileMisc _ = _
  unfold decodeTileMisc
  rw [packScan_min]
  apply readScan_packScan
  exact hx

theorem RoundTrip.mmas (f : MmF) : RoundTrip.Statement (.mmas f) := by
  intro h
  refine RoundTrip.of_seq _ _ rfl ?_
  unfold decodeSeq
  rw [packMm_maj]
  change decodeMmas _ = _
  unfold decodeMmas
  rw [packMm_min]
  apply readMm_packMm

theorem RoundTrip.mmss (f : MmF) : RoundTrip.Statement (.mmss f) := by
  intro h
  refine RoundTrip.of_seq _ _ rfl ?_
  unfold decodeSeq
  rw [packMm_maj]
  change decodeMmss _ = _
  unfold decodeMmss
  rw [packMm_min]
  apply readMm_packMm

theorem RoundTrip.tpat (sa : BitVec 6) : RoundTrip.Statement (.tpat sa) := by
  intro h
  refine RoundTrip.of_seq _ _ rfl ?_
  unfold decodeSeq
  rw [packTxSa_maj]
  change decodeTrail _ = _
  unfold decodeTrail
  rw [packTxSa_min]
  apply readTxSa_packTxSa

theorem RoundTrip.tinv (sa : BitVec 6) : RoundTrip.Statement (.tinv sa) := by
  intro h
  refine RoundTrip.of_seq _ _ rfl ?_
  unfold decodeSeq
  rw [packTxSa_maj]
  change decodeTrail _ = _
  unfold decodeTrail
  rw [packTxSa_min]
  apply readTxSa_packTxSa

theorem RoundTrip.tdens (t : BitVec 5) (sa : BitVec 6) : RoundTrip.Statement (.tdens t sa) := by
  intro h
  refine RoundTrip.of_seq _ _ rfl ?_
  unfold decodeSeq
  rw [packTxTSa_maj]
  change decodeTrail _ = _
  unfold decodeTrail
  rw [packTxTSa_min]
  apply readTxTSa_packTxTSa

theorem RoundTrip.acqX (sa : BitVec 6) : RoundTrip.Statement (.acqX sa) := by
  intro h
  refine RoundTrip.of_seq _ _ rfl ?_
  unfold decodeSeq
  rw [packYSa_maj]
  change decodeObject _ = _
  unfold decodeObject
  rw [packYSa_min]
  apply readYSa_packYSa

theorem RoundTrip.acqS (sa : BitVec 6) : RoundTrip.Statement (.acqS sa) := by
  intro h
  refine RoundTrip.of_seq _ _ rfl ?_
  unfold decodeSeq
  rw [packYSa_maj]
  change decodeObject _ = _
  unfold decodeObject
  rw [packYSa_min]
  apply readYSa_packYSa

theorem RoundTrip.rel (sa : BitVec 6) : RoundTrip.Statement (.rel sa) := by
  intro h
  refine RoundTrip.of_seq _ _ rfl ?_
  unfold decodeSeq
  rw [packYSa_maj]
  change decodeObject _ = _
  unfold decodeObject
  rw [packYSa_min]
  apply readYSa_packYSa

theorem RoundTrip.bind (f : BindF) : RoundTrip.Statement (.bind f) := by
  intro h
  refine RoundTrip.of_seq _ _ rfl ?_
  have hx : f.wf = true := by simpa [Instr.wf] using h
  unfold decodeSeq
  rw [packBind_maj]
  change decodeBind _ = _
  unfold decodeBind
  rw [packBind_min]
  apply readBind_packBind
  exact hx

theorem RoundTrip.unbind (sd : BitVec 6) (sa : BitVec 6) : RoundTrip.Statement (.unbind sd sa) := by
  intro h
  refine RoundTrip.of_seq _ _ rfl ?_
  unfold decodeSeq
  rw [packYSdSa_maj]
  change decodeBind _ = _
  unfold decodeBind
  rw [packYSdSa_min]
  apply readYSdSa_packYSdSa

theorem RoundTrip.fence (scope : Scope) : RoundTrip.Statement (.fence scope) := by
  intro h
  refine RoundTrip.of_seq _ _ rfl ?_
  unfold decodeSeq
  rw [packFence_maj]
  change decodeFence _ = _
  unfold decodeFence
  rw [packFence_min]
  apply readFence_packFence

theorem RoundTrip.tamoAdd (f : TmAmoF) : RoundTrip.Statement (.tamoAdd f) := by
  intro h
  refine RoundTrip.of_seq _ _ rfl ?_
  have hx : f.wf = true := by simpa [Instr.wf] using h
  unfold decodeSeq
  rw [packTmAmo_maj]
  change decodeTamo _ = _
  unfold decodeTamo
  rw [packTmAmo_min]
  apply readTmAmo_packTmAmo
  exact hx

theorem RoundTrip.tamoMin (f : TmAmoF) : RoundTrip.Statement (.tamoMin f) := by
  intro h
  refine RoundTrip.of_seq _ _ rfl ?_
  have hx : f.wf = true := by simpa [Instr.wf] using h
  unfold decodeSeq
  rw [packTmAmo_maj]
  change decodeTamo _ = _
  unfold decodeTamo
  rw [packTmAmo_min]
  apply readTmAmo_packTmAmo
  exact hx

theorem RoundTrip.tamoMax (f : TmAmoF) : RoundTrip.Statement (.tamoMax f) := by
  intro h
  refine RoundTrip.of_seq _ _ rfl ?_
  have hx : f.wf = true := by simpa [Instr.wf] using h
  unfold decodeSeq
  rw [packTmAmo_maj]
  change decodeTamo _ = _
  unfold decodeTamo
  rw [packTmAmo_min]
  apply readTmAmo_packTmAmo
  exact hx

theorem RoundTrip.tamoAnd (f : TmAmoF) : RoundTrip.Statement (.tamoAnd f) := by
  intro h
  refine RoundTrip.of_seq _ _ rfl ?_
  have hx : f.wf = true := by simpa [Instr.wf] using h
  unfold decodeSeq
  rw [packTmAmo_maj]
  change decodeTamo _ = _
  unfold decodeTamo
  rw [packTmAmo_min]
  apply readTmAmo_packTmAmo
  exact hx

theorem RoundTrip.tamoOr (f : TmAmoF) : RoundTrip.Statement (.tamoOr f) := by
  intro h
  refine RoundTrip.of_seq _ _ rfl ?_
  have hx : f.wf = true := by simpa [Instr.wf] using h
  unfold decodeSeq
  rw [packTmAmo_maj]
  change decodeTamo _ = _
  unfold decodeTamo
  rw [packTmAmo_min]
  apply readTmAmo_packTmAmo
  exact hx

theorem RoundTrip.tamoXor (f : TmAmoF) : RoundTrip.Statement (.tamoXor f) := by
  intro h
  refine RoundTrip.of_seq _ _ rfl ?_
  have hx : f.wf = true := by simpa [Instr.wf] using h
  unfold decodeSeq
  rw [packTmAmo_maj]
  change decodeTamo _ = _
  unfold decodeTamo
  rw [packTmAmo_min]
  apply readTmAmo_packTmAmo
  exact hx

theorem RoundTrip.tamoSwap (f : TmAmoF) : RoundTrip.Statement (.tamoSwap f) := by
  intro h
  refine RoundTrip.of_seq _ _ rfl ?_
  have hx : f.wf = true := by simpa [Instr.wf] using h
  unfold decodeSeq
  rw [packTmAmo_maj]
  change decodeTamo _ = _
  unfold decodeTamo
  rw [packTmAmo_min]
  apply readTmAmo_packTmAmo
  exact hx

theorem RoundTrip.tglk (f : TmAmoF) : RoundTrip.Statement (.tglk f) := by
  intro h
  refine RoundTrip.of_seq _ _ rfl ?_
  have hx : f.wf = true := by simpa [Instr.wf] using h
  unfold decodeSeq
  rw [packTmAmo_maj]
  change decodeLinked _ = _
  unfold decodeLinked
  rw [packTmAmo_min]
  apply readTmAmo_packTmAmo
  exact hx

theorem RoundTrip.tscc (f : TmAmoF) : RoundTrip.Statement (.tscc f) := by
  intro h
  refine RoundTrip.of_seq _ _ rfl ?_
  have hx : f.wf = true := by simpa [Instr.wf] using h
  unfold decodeSeq
  rw [packTmAmo_maj]
  change decodeLinked _ = _
  unfold decodeLinked
  rw [packTmAmo_min]
  apply readTmAmo_packTmAmo
  exact hx

theorem RoundTrip.twaitvEq (f : TmWaitF) : RoundTrip.Statement (.twaitvEq f) := by
  intro h
  refine RoundTrip.of_seq _ _ rfl ?_
  have hx : f.wf = true := by simpa [Instr.wf] using h
  unfold decodeSeq
  rw [packTmWait_maj]
  change decodeTwaitv _ = _
  unfold decodeTwaitv
  rw [packTmWait_min]
  apply readTmWait_packTmWait
  exact hx

theorem RoundTrip.twaitvNe (f : TmWaitF) : RoundTrip.Statement (.twaitvNe f) := by
  intro h
  refine RoundTrip.of_seq _ _ rfl ?_
  have hx : f.wf = true := by simpa [Instr.wf] using h
  unfold decodeSeq
  rw [packTmWait_maj]
  change decodeTwaitv _ = _
  unfold decodeTwaitv
  rw [packTmWait_min]
  apply readTmWait_packTmWait
  exact hx

theorem RoundTrip.twaitvLt (f : TmWaitF) : RoundTrip.Statement (.twaitvLt f) := by
  intro h
  refine RoundTrip.of_seq _ _ rfl ?_
  have hx : f.wf = true := by simpa [Instr.wf] using h
  unfold decodeSeq
  rw [packTmWait_maj]
  change decodeTwaitv _ = _
  unfold decodeTwaitv
  rw [packTmWait_min]
  apply readTmWait_packTmWait
  exact hx

theorem RoundTrip.twaitvGe (f : TmWaitF) : RoundTrip.Statement (.twaitvGe f) := by
  intro h
  refine RoundTrip.of_seq _ _ rfl ?_
  have hx : f.wf = true := by simpa [Instr.wf] using h
  unfold decodeSeq
  rw [packTmWait_maj]
  change decodeTwaitv _ = _
  unfold decodeTwaitv
  rw [packTmWait_min]
  apply readTmWait_packTmWait
  exact hx

theorem RoundTrip.twaitvLtu (f : TmWaitF) : RoundTrip.Statement (.twaitvLtu f) := by
  intro h
  refine RoundTrip.of_seq _ _ rfl ?_
  have hx : f.wf = true := by simpa [Instr.wf] using h
  unfold decodeSeq
  rw [packTmWait_maj]
  change decodeTwaitv _ = _
  unfold decodeTwaitv
  rw [packTmWait_min]
  apply readTmWait_packTmWait
  exact hx

theorem RoundTrip.twaitvGeu (f : TmWaitF) : RoundTrip.Statement (.twaitvGeu f) := by
  intro h
  refine RoundTrip.of_seq _ _ rfl ?_
  have hx : f.wf = true := by simpa [Instr.wf] using h
  unfold decodeSeq
  rw [packTmWait_maj]
  change decodeTwaitv _ = _
  unfold decodeTwaitv
  rw [packTmWait_min]
  apply readTmWait_packTmWait
  exact hx

theorem RoundTrip.bari (b : BitVec 5) (sa : BitVec 6) : RoundTrip.Statement (.bari b sa) := by
  intro h
  refine RoundTrip.of_seq _ _ rfl ?_
  have hx : b.toNat ≤ 19 := by simpa [Instr.wf] using h
  unfold decodeSeq
  rw [packBari_maj]
  change decodeBarrier _ = _
  unfold decodeBarrier
  rw [packBari_min]
  apply readBari_packBari
  exact hx

theorem RoundTrip.bara (f : BarF) : RoundTrip.Statement (.bara f) := by
  intro h
  refine RoundTrip.of_seq _ _ rfl ?_
  have hx : f.wf = true := by simpa [Instr.wf] using h
  unfold decodeSeq
  rw [packBar_maj]
  change decodeBarrier _ = _
  unfold decodeBarrier
  rw [packBar_min]
  apply readBar_packBar
  exact hx

theorem RoundTrip.barw (f : BarF) : RoundTrip.Statement (.barw f) := by
  intro h
  refine RoundTrip.of_seq _ _ rfl ?_
  have hx : f.wf = true := by simpa [Instr.wf] using h
  unfold decodeSeq
  rw [packBar_maj]
  change decodeBarrier _ = _
  unfold decodeBarrier
  rw [packBar_min]
  apply readBar_packBar
  exact hx

theorem RoundTrip.tsend (t : BitVec 5) (sa : BitVec 6) : RoundTrip.Statement (.tsend t sa) := by
  intro h
  refine RoundTrip.of_seq _ _ rfl ?_
  unfold decodeSeq
  rw [packTxTSa_maj]
  change decodeChannel _ = _
  unfold decodeChannel
  rw [packTxTSa_min]
  apply readTxTSa_packTxTSa

theorem RoundTrip.trecv (t : BitVec 5) (sa : BitVec 6) : RoundTrip.Statement (.trecv t sa) := by
  intro h
  refine RoundTrip.of_seq _ _ rfl ?_
  unfold decodeSeq
  rw [packTxTSa_maj]
  change decodeChannel _ = _
  unfold decodeChannel
  rw [packTxTSa_min]
  apply readTxTSa_packTxTSa

theorem RoundTrip.launch (sd : BitVec 6) (sa : BitVec 6) (sb : BitVec 6) : RoundTrip.Statement (.launch sd sa sb) := by
  intro h
  refine RoundTrip.of_seq _ _ rfl ?_
  unfold decodeSeq
  rw [packLaunch_maj]
  change decodeLaunch _ = _
  unfold decodeLaunch
  rw [packLaunch_min]
  apply readLaunch_packLaunch

theorem RoundTrip.qput (f : QringF) : RoundTrip.Statement (.qput f) := by
  intro h
  refine RoundTrip.of_seq _ _ rfl ?_
  have hx : f.wf = true := by simpa [Instr.wf] using h
  unfold decodeSeq
  rw [packQring_maj]
  change decodeRing _ = _
  unfold decodeRing
  rw [packQring_min]
  apply readQring_packQring
  exact hx

theorem RoundTrip.qget (f : QringF) : RoundTrip.Statement (.qget f) := by
  intro h
  refine RoundTrip.of_seq _ _ rfl ?_
  have hx : f.wf = true := by simpa [Instr.wf] using h
  unfold decodeSeq
  rw [packQring_maj]
  change decodeRing _ = _
  unfold decodeRing
  rw [packQring_min]
  apply readQring_packQring
  exact hx

theorem RoundTrip.vadd (f : L3) : RoundTrip.Statement (.vadd f) := by
  intro _
  refine RoundTrip.of_lane _ _ rfl rfl ?_
  unfold decodeLane
  rw [packL3_op]
  apply readL3_packL3

theorem RoundTrip.vsub (f : L3) : RoundTrip.Statement (.vsub f) := by
  intro _
  refine RoundTrip.of_lane _ _ rfl rfl ?_
  unfold decodeLane
  rw [packL3_op]
  apply readL3_packL3

theorem RoundTrip.vmul (f : L3) : RoundTrip.Statement (.vmul f) := by
  intro _
  refine RoundTrip.of_lane _ _ rfl rfl ?_
  unfold decodeLane
  rw [packL3_op]
  apply readL3_packL3

theorem RoundTrip.vmulh (f : L3) : RoundTrip.Statement (.vmulh f) := by
  intro _
  refine RoundTrip.of_lane _ _ rfl rfl ?_
  unfold decodeLane
  rw [packL3_op]
  apply readL3_packL3

theorem RoundTrip.vwmac (f : L3) : RoundTrip.Statement (.vwmac f) := by
  intro _
  refine RoundTrip.of_lane _ _ rfl rfl ?_
  unfold decodeLane
  rw [packL3_op]
  apply readL3_packL3

theorem RoundTrip.vmin (f : L3) : RoundTrip.Statement (.vmin f) := by
  intro _
  refine RoundTrip.of_lane _ _ rfl rfl ?_
  unfold decodeLane
  rw [packL3_op]
  apply readL3_packL3

theorem RoundTrip.vmax (f : L3) : RoundTrip.Statement (.vmax f) := by
  intro _
  refine RoundTrip.of_lane _ _ rfl rfl ?_
  unfold decodeLane
  rw [packL3_op]
  apply readL3_packL3

theorem RoundTrip.vand (f : L3) : RoundTrip.Statement (.vand f) := by
  intro _
  refine RoundTrip.of_lane _ _ rfl rfl ?_
  unfold decodeLane
  rw [packL3_op]
  apply readL3_packL3

theorem RoundTrip.vor (f : L3) : RoundTrip.Statement (.vor f) := by
  intro _
  refine RoundTrip.of_lane _ _ rfl rfl ?_
  unfold decodeLane
  rw [packL3_op]
  apply readL3_packL3

theorem RoundTrip.vxor (f : L3) : RoundTrip.Statement (.vxor f) := by
  intro _
  refine RoundTrip.of_lane _ _ rfl rfl ?_
  unfold decodeLane
  rw [packL3_op]
  apply readL3_packL3

theorem RoundTrip.vshl (f : L3) : RoundTrip.Statement (.vshl f) := by
  intro _
  refine RoundTrip.of_lane _ _ rfl rfl ?_
  unfold decodeLane
  rw [packL3_op]
  apply readL3_packL3

theorem RoundTrip.vshr (f : L3) : RoundTrip.Statement (.vshr f) := by
  intro _
  refine RoundTrip.of_lane _ _ rfl rfl ?_
  unfold decodeLane
  rw [packL3_op]
  apply readL3_packL3

theorem RoundTrip.vsra (f : L3) : RoundTrip.Statement (.vsra f) := by
  intro _
  refine RoundTrip.of_lane _ _ rfl rfl ?_
  unfold decodeLane
  rw [packL3_op]
  apply readL3_packL3

theorem RoundTrip.vnshr (f : L3) : RoundTrip.Statement (.vnshr f) := by
  intro _
  refine RoundTrip.of_lane _ _ rfl rfl ?_
  unfold decodeLane
  rw [packL3_op]
  apply readL3_packL3

theorem RoundTrip.vabs (f : L2) : RoundTrip.Statement (.vabs f) := by
  intro _
  refine RoundTrip.of_lane _ _ rfl rfl ?_
  unfold decodeLane
  rw [packL2_op]
  apply readL2_packL2

theorem RoundTrip.vfadd (f : L3) : RoundTrip.Statement (.vfadd f) := by
  intro _
  refine RoundTrip.of_lane _ _ rfl rfl ?_
  unfold decodeLane
  rw [packL3_op]
  apply readL3_packL3

theorem RoundTrip.vfsub (f : L3) : RoundTrip.Statement (.vfsub f) := by
  intro _
  refine RoundTrip.of_lane _ _ rfl rfl ?_
  unfold decodeLane
  rw [packL3_op]
  apply readL3_packL3

theorem RoundTrip.vfmul (f : L3) : RoundTrip.Statement (.vfmul f) := by
  intro _
  refine RoundTrip.of_lane _ _ rfl rfl ?_
  unfold decodeLane
  rw [packL3_op]
  apply readL3_packL3

theorem RoundTrip.vfma (f : L3) : RoundTrip.Statement (.vfma f) := by
  intro _
  refine RoundTrip.of_lane _ _ rfl rfl ?_
  unfold decodeLane
  rw [packL3_op]
  apply readL3_packL3

theorem RoundTrip.vfmin (f : L3) : RoundTrip.Statement (.vfmin f) := by
  intro _
  refine RoundTrip.of_lane _ _ rfl rfl ?_
  unfold decodeLane
  rw [packL3_op]
  apply readL3_packL3

theorem RoundTrip.vfmax (f : L3) : RoundTrip.Statement (.vfmax f) := by
  intro _
  refine RoundTrip.of_lane _ _ rfl rfl ?_
  unfold decodeLane
  rw [packL3_op]
  apply readL3_packL3

theorem RoundTrip.vrcp (f : L2) : RoundTrip.Statement (.vrcp f) := by
  intro _
  refine RoundTrip.of_lane _ _ rfl rfl ?_
  unfold decodeLane
  rw [packL2_op]
  apply readL2_packL2

theorem RoundTrip.vrsq (f : L2) : RoundTrip.Statement (.vrsq f) := by
  intro _
  refine RoundTrip.of_lane _ _ rfl rfl ?_
  unfold decodeLane
  rw [packL2_op]
  apply readL2_packL2

theorem RoundTrip.vexp2 (f : L2) : RoundTrip.Statement (.vexp2 f) := by
  intro _
  refine RoundTrip.of_lane _ _ rfl rfl ?_
  unfold decodeLane
  rw [packL2_op]
  apply readL2_packL2

theorem RoundTrip.vlog2 (f : L2) : RoundTrip.Statement (.vlog2 f) := by
  intro _
  refine RoundTrip.of_lane _ _ rfl rfl ?_
  unfold decodeLane
  rw [packL2_op]
  apply readL2_packL2

theorem RoundTrip.vfcls (f : L2) : RoundTrip.Statement (.vfcls f) := by
  intro _
  refine RoundTrip.of_lane _ _ rfl rfl ?_
  unfold decodeLane
  rw [packL2_op]
  apply readL2_packL2

theorem RoundTrip.vcvt (f : LcvtF) : RoundTrip.Statement (.vcvt f) := by
  intro _
  refine RoundTrip.of_lane _ _ rfl rfl ?_
  unfold decodeLane
  rw [packLcvt_op]
  apply readLcvt_packLcvt

theorem RoundTrip.vcmpEq (f : L3) : RoundTrip.Statement (.vcmpEq f) := by
  intro _
  refine RoundTrip.of_lane _ _ rfl rfl ?_
  unfold decodeLane
  rw [packL3_op]
  apply readL3_packL3

theorem RoundTrip.vcmpNe (f : L3) : RoundTrip.Statement (.vcmpNe f) := by
  intro _
  refine RoundTrip.of_lane _ _ rfl rfl ?_
  unfold decodeLane
  rw [packL3_op]
  apply readL3_packL3

theorem RoundTrip.vcmpLt (f : L3) : RoundTrip.Statement (.vcmpLt f) := by
  intro _
  refine RoundTrip.of_lane _ _ rfl rfl ?_
  unfold decodeLane
  rw [packL3_op]
  apply readL3_packL3

theorem RoundTrip.vcmpGe (f : L3) : RoundTrip.Statement (.vcmpGe f) := by
  intro _
  refine RoundTrip.of_lane _ _ rfl rfl ?_
  unfold decodeLane
  rw [packL3_op]
  apply readL3_packL3

theorem RoundTrip.vcmpLe (f : L3) : RoundTrip.Statement (.vcmpLe f) := by
  intro _
  refine RoundTrip.of_lane _ _ rfl rfl ?_
  unfold decodeLane
  rw [packL3_op]
  apply readL3_packL3

theorem RoundTrip.vcmpGt (f : L3) : RoundTrip.Statement (.vcmpGt f) := by
  intro _
  refine RoundTrip.of_lane _ _ rfl rfl ?_
  unfold decodeLane
  rw [packL3_op]
  apply readL3_packL3

theorem RoundTrip.pand (f : Lp3) : RoundTrip.Statement (.pand f) := by
  intro _
  refine RoundTrip.of_lane _ _ rfl rfl ?_
  unfold decodeLane
  rw [packLp3_op]
  apply readLp3_packLp3

theorem RoundTrip.por (f : Lp3) : RoundTrip.Statement (.por f) := by
  intro _
  refine RoundTrip.of_lane _ _ rfl rfl ?_
  unfold decodeLane
  rw [packLp3_op]
  apply readLp3_packLp3

theorem RoundTrip.pxor (f : Lp3) : RoundTrip.Statement (.pxor f) := by
  intro _
  refine RoundTrip.of_lane _ _ rfl rfl ?_
  unfold decodeLane
  rw [packLp3_op]
  apply readLp3_packLp3

theorem RoundTrip.pnot (f : L2) : RoundTrip.Statement (.pnot f) := by
  intro _
  refine RoundTrip.of_lane _ _ rfl rfl ?_
  unfold decodeLane
  rw [packL2_op]
  apply readL2_packL2

theorem RoundTrip.vsel (f : LselF) : RoundTrip.Statement (.vsel f) := by
  intro _
  refine RoundTrip.of_lane _ _ rfl rfl ?_
  unfold decodeLane
  rw [packLsel_op]
  apply readLsel_packLsel

theorem RoundTrip.vmov (f : LmovF) : RoundTrip.Statement (.vmov f) := by
  intro _
  refine RoundTrip.of_lane _ _ rfl rfl ?_
  unfold decodeLane
  rw [packLmov_op]
  apply readLmov_packLmov

theorem RoundTrip.vidx (vd : BitVec 5) (guard : Guard) : RoundTrip.Statement (.vidx vd guard) := by
  intro _
  refine RoundTrip.of_lane _ _ rfl rfl ?_
  unfold decodeLane
  rw [packLidx_op]
  apply readLidx_packLidx

theorem RoundTrip.vperm (f : LpermF) : RoundTrip.Statement (.vperm f) := by
  intro _
  refine RoundTrip.of_lane _ _ rfl rfl ?_
  unfold decodeLane
  rw [packLperm_op]
  apply readLperm_packLperm

theorem RoundTrip.vconf (f : L2) : RoundTrip.Statement (.vconf f) := by
  intro _
  refine RoundTrip.of_lane _ _ rfl rfl ?_
  unfold decodeLane
  rw [packL2_op]
  apply readL2_packL2

theorem RoundTrip.vcomp (f : LcompF) : RoundTrip.Statement (.vcomp f) := by
  intro _
  refine RoundTrip.of_lane _ _ rfl rfl ?_
  unfold decodeLane
  rw [packLcomp_op]
  apply readLcomp_packLcomp

theorem RoundTrip.vcfg (f : LcfgF) : RoundTrip.Statement (.vcfg f) := by
  intro _
  refine RoundTrip.of_lane _ _ rfl rfl ?_
  unfold decodeLane
  rw [packLcfg_op]
  apply readLcfg_packLcfg

theorem RoundTrip.vret (va : BitVec 5) : RoundTrip.Statement (.vret va) := by
  intro _
  refine RoundTrip.of_lane _ _ rfl rfl ?_
  unfold decodeLane
  rw [packLret_op]
  apply readLret_packLret

theorem RoundTrip.vnop : RoundTrip.Statement .vnop := by
  intro _
  refine RoundTrip.of_lane _ _ rfl rfl ?_
  unfold decodeLane
  rw [packLnop_op]
  apply readLnop_packLnop

theorem RoundTrip.emulatorPerform (slot : SlotNo) (writes : List EmuWrite) : RoundTrip.Statement (.emulatorPerform slot writes) := by
  intro _
  exact .inl rfl

theorem RoundTrip.emulatorDecline (slot : SlotNo) : RoundTrip.Statement (.emulatorDecline slot) := by
  intro _
  exact .inl rfl

theorem RoundTrip.rollbackRestoreComplete (slot : SlotNo) : RoundTrip.Statement (.rollbackRestoreComplete slot) := by
  intro _
  exact .inl rfl

theorem RoundTrip.gangStart (g : GroupId) : RoundTrip.Statement (.gangStart g) := by
  intro _
  exact .inl rfl

theorem RoundTrip.bindRecordArm (slot : SlotNo) (record : BitVec 256) : RoundTrip.Statement (.bindRecordArm slot record) := by
  intro _
  exact .inl rfl

theorem RoundTrip.bindRecordWithdraw (slot : SlotNo) : RoundTrip.Statement (.bindRecordWithdraw slot) := by
  intro _
  exact .inl rfl

theorem RoundTrip.gstop (word : BitVec 128) : RoundTrip.Statement (.gstop word) := by
  intro _
  exact .inl rfl

theorem RoundTrip.rangerStopRequest (word : BitVec 128) : RoundTrip.Statement (.rangerStopRequest word) := by
  intro _
  exact .inl rfl

theorem RoundTrip.gracePeriodExpiry (slot : SlotNo) : RoundTrip.Statement (.gracePeriodExpiry slot) := by
  intro _
  exact .inl rfl

theorem RoundTrip.nonYieldingReport (slot : SlotNo) : RoundTrip.Statement (.nonYieldingReport slot) := by
  intro _
  exact .inl rfl

theorem RoundTrip.blockDrainComplete (slot : SlotNo) : RoundTrip.Statement (.blockDrainComplete slot) := by
  intro _
  exact .inl rfl

theorem RoundTrip.tileVersionDone (slot : SlotNo) (flight : Nat) : RoundTrip.Statement (.tileVersionDone slot flight) := by
  intro _
  exact .inl rfl

theorem RoundTrip.storeComplete (slot : SlotNo) (flight : Nat) : RoundTrip.Statement (.storeComplete slot flight) := by
  intro _
  exact .inl rfl

theorem RoundTrip.stripBoundary : RoundTrip.Statement .stripBoundary := by
  intro _
  exact .inl rfl

theorem RoundTrip.codebookTableArrival (core : BitVec 8) : RoundTrip.Statement (.codebookTableArrival core) := by
  intro _
  exact .inl rfl

theorem RoundTrip.laneFunctionFetchComplete (core : BitVec 8) (kernel : BitVec 32) (offset : BitVec 24) (ok : Bool) : RoundTrip.Statement (.laneFunctionFetchComplete core kernel offset ok) := by
  intro _
  exact .inl rfl

theorem RoundTrip.icacheFill (core : BitVec 8) (kernel : BitVec 32) (handler : Bool) (offset : BitVec 32) (ok : Bool) : RoundTrip.Statement (.icacheFill core kernel handler offset ok) := by
  intro _
  exact .inl rfl

theorem RoundTrip.trailCompileComplete (cluster : BitVec 5) (ctx : BitVec 6) (desc : Word) (gen : Word) : RoundTrip.Statement (.trailCompileComplete cluster ctx desc gen) := by
  intro _
  exact .inl rfl

theorem RoundTrip.barrierArrivalCounted (slot : SlotNo) (b : BitVec 5) : RoundTrip.Statement (.barrierArrivalCounted slot b) := by
  intro _
  exact .inl rfl

theorem RoundTrip.twaitvPoll (slot : SlotNo) : RoundTrip.Statement (.twaitvPoll slot) := by
  intro _
  exact .inl rfl

theorem RoundTrip.twaitvLimitExpiry (slot : SlotNo) : RoundTrip.Statement (.twaitvLimitExpiry slot) := by
  intro _
  exact .inl rfl

theorem RoundTrip.qtimeout (slot : SlotNo) : RoundTrip.Statement (.qtimeout slot) := by
  intro _
  exact .inl rfl

theorem RoundTrip.lineHoldExpiry (line : BitVec 46) : RoundTrip.Statement (.lineHoldExpiry line) := by
  intro _
  exact .inl rfl

theorem RoundTrip.lrecWrite (who : Writer) (q : BitVec 10) (off : BitVec 12) (data : List Byte) : RoundTrip.Statement (.lrecWrite who q off data) := by
  intro _
  exact .inl rfl

theorem RoundTrip.launchAccept (q : BitVec 10) : RoundTrip.Statement (.launchAccept q) := by
  intro _
  exact .inl rfl

theorem RoundTrip.qcmdBind (q : BitVec 10) : RoundTrip.Statement (.qcmdBind q) := by
  intro _
  exact .inl rfl

theorem RoundTrip.qcmdHalt (q : BitVec 10) : RoundTrip.Statement (.qcmdHalt q) := by
  intro _
  exact .inl rfl

theorem RoundTrip.qcmdResume (q : BitVec 10) : RoundTrip.Statement (.qcmdResume q) := by
  intro _
  exact .inl rfl

theorem RoundTrip.qcmdDrain (q : BitVec 10) : RoundTrip.Statement (.qcmdDrain q) := by
  intro _
  exact .inl rfl

theorem RoundTrip.qcmdUnbind (q : BitVec 10) : RoundTrip.Statement (.qcmdUnbind q) := by
  intro _
  exact .inl rfl

theorem RoundTrip.launchEligible (q : BitVec 10) (seq : BitVec 54) : RoundTrip.Statement (.launchEligible q seq) := by
  intro _
  exact .inl rfl

theorem RoundTrip.launchOffer (q : BitVec 10) : RoundTrip.Statement (.launchOffer q) := by
  intro _
  exact .inl rfl

theorem RoundTrip.launchComplete (q : BitVec 10) (seq : BitVec 54) : RoundTrip.Statement (.launchComplete q seq) := by
  intro _
  exact .inl rfl

theorem RoundTrip.completionRecordWrite (q : BitVec 10) : RoundTrip.Statement (.completionRecordWrite q) := by
  intro _
  exact .inl rfl

theorem RoundTrip.cheadWrite (q : BitVec 10) (v : Word) : RoundTrip.Statement (.cheadWrite q v) := by
  intro _
  exact .inl rfl

theorem RoundTrip.kcmdLoad (f : KcmdF) : RoundTrip.Statement (.kcmdLoad f) := by
  intro _
  exact .inl rfl

theorem RoundTrip.kcmdPin (f : KcmdF) : RoundTrip.Statement (.kcmdPin f) := by
  intro _
  exact .inl rfl

theorem RoundTrip.kcmdUnpin (f : KcmdF) : RoundTrip.Statement (.kcmdUnpin f) := by
  intro _
  exact .inl rfl

theorem RoundTrip.kcmdUnload (f : KcmdF) : RoundTrip.Statement (.kcmdUnload f) := by
  intro _
  exact .inl rfl

theorem RoundTrip.kernelLoadComplete : RoundTrip.Statement .kernelLoadComplete := by
  intro _
  exact .inl rfl

theorem RoundTrip.kernelEvict (handle : BitVec 32) : RoundTrip.Statement (.kernelEvict handle) := by
  intro _
  exact .inl rfl

theorem RoundTrip.kernelReloadComplete (handle : BitVec 32) : RoundTrip.Statement (.kernelReloadComplete handle) := by
  intro _
  exact .inl rfl

theorem RoundTrip.ccmdCreate (who : Writer) (f : CcmdF) : RoundTrip.Statement (.ccmdCreate who f) := by
  intro _
  exact .inl rfl

theorem RoundTrip.ccmdActivate (who : Writer) (f : CcmdF) : RoundTrip.Statement (.ccmdActivate who f) := by
  intro _
  exact .inl rfl

theorem RoundTrip.ccmdSuspend (who : Writer) (f : CcmdF) : RoundTrip.Statement (.ccmdSuspend who f) := by
  intro _
  exact .inl rfl

theorem RoundTrip.ccmdRestore (who : Writer) (f : CcmdF) : RoundTrip.Statement (.ccmdRestore who f) := by
  intro _
  exact .inl rfl

theorem RoundTrip.ccmdMigrateOut (who : Writer) (f : CcmdF) : RoundTrip.Statement (.ccmdMigrateOut who f) := by
  intro _
  exact .inl rfl

theorem RoundTrip.ccmdMigrateIn (who : Writer) (f : CcmdF) : RoundTrip.Statement (.ccmdMigrateIn who f) := by
  intro _
  exact .inl rfl

theorem RoundTrip.ccmdStopmig (who : Writer) (f : CcmdF) : RoundTrip.Statement (.ccmdStopmig who f) := by
  intro _
  exact .inl rfl

theorem RoundTrip.ccmdDestroy (who : Writer) (f : CcmdF) : RoundTrip.Statement (.ccmdDestroy who f) := by
  intro _
  exact .inl rfl

theorem RoundTrip.ccmdFault (who : Writer) (f : CcmdF) : RoundTrip.Statement (.ccmdFault who f) := by
  intro _
  exact .inl rfl

theorem RoundTrip.suspendImageWritten (ctx : BitVec 6) (len : Word) : RoundTrip.Statement (.suspendImageWritten ctx len) := by
  intro _
  exact .inl rfl

theorem RoundTrip.restoreComplete (ctx : BitVec 6) : RoundTrip.Statement (.restoreComplete ctx) := by
  intro _
  exact .inl rfl

theorem RoundTrip.contextDrainComplete (ctx : BitVec 6) : RoundTrip.Statement (.contextDrainComplete ctx) := by
  intro _
  exact .inl rfl

theorem RoundTrip.precopyRoundEnd (ctx : BitVec 6) : RoundTrip.Statement (.precopyRoundEnd ctx) := by
  intro _
  exact .inl rfl

theorem RoundTrip.migrationStopTimeout (ctx : BitVec 6) : RoundTrip.Statement (.migrationStopTimeout ctx) := by
  intro _
  exact .inl rfl

theorem RoundTrip.targetEndAck (ctx : BitVec 6) : RoundTrip.Statement (.targetEndAck ctx) := by
  intro _
  exact .inl rfl

theorem RoundTrip.decampMessageReceive (ctx : BitVec 6) (counter : Word) (authentic : Bool) (frame : BitVec 40) (body : DecampBody) : RoundTrip.Statement (.decampMessageReceive ctx counter authentic frame body) := by
  intro _
  exact .inl rfl

theorem RoundTrip.keySlotWrite (who : Writer) (die : Bool) (slot : BitVec 4) (data : BitVec 512) : RoundTrip.Statement (.keySlotWrite who die slot data) := by
  intro _
  exact .inl rfl

theorem RoundTrip.pinv (word : BitVec 128) : RoundTrip.Statement (.pinv word) := by
  intro _
  exact .inl rfl

theorem RoundTrip.invalidationComplete : RoundTrip.Statement .invalidationComplete := by
  intro _
  exact .inl rfl

theorem RoundTrip.frespRetry (ftag : BitVec 16) (rsv : BitVec 46) : RoundTrip.Statement (.frespRetry ftag rsv) := by
  intro _
  exact .inl rfl

theorem RoundTrip.frespKill (ftag : BitVec 16) (rsv : BitVec 46) : RoundTrip.Statement (.frespKill ftag rsv) := by
  intro _
  exact .inl rfl

theorem RoundTrip.frcfgWrite (v : Word) : RoundTrip.Statement (.frcfgWrite v) := by
  intro _
  exact .inl rfl

theorem RoundTrip.frheadWrite (v : Word) : RoundTrip.Statement (.frheadWrite v) := by
  intro _
  exact .inl rfl

theorem RoundTrip.pmove (word : BitVec 256) : RoundTrip.Statement (.pmove word) := by
  intro _
  exact .inl rfl

theorem RoundTrip.pageMovePassEnd : RoundTrip.Statement .pageMovePassEnd := by
  intro _
  exact .inl rfl

theorem RoundTrip.pageMoveSwitch : RoundTrip.Statement .pageMoveSwitch := by
  intro _
  exact .inl rfl

theorem RoundTrip.frozenHoldTimeout (slot : SlotNo) : RoundTrip.Statement (.frozenHoldTimeout slot) := by
  intro _
  exact .inl rfl

theorem RoundTrip.correctableError (bank : BitVec 32) : RoundTrip.Statement (.correctableError bank) := by
  intro _
  exact .inl rfl

theorem RoundTrip.uncorrectableError (bank : BitVec 32) (site : UeSite) : RoundTrip.Statement (.uncorrectableError bank site) := by
  intro _
  exact .inl rfl

theorem RoundTrip.bankWindowEnd : RoundTrip.Statement .bankWindowEnd := by
  intro _
  exact .inl rfl

theorem RoundTrip.bankcfgWrite (v : Word) : RoundTrip.Statement (.bankcfgWrite v) := by
  intro _
  exact .inl rfl

theorem RoundTrip.bankcmdRetire (bank : BitVec 32) (rsv : BitVec 30) : RoundTrip.Statement (.bankcmdRetire bank rsv) := by
  intro _
  exact .inl rfl

theorem RoundTrip.bankcmdOffline (bank : BitVec 32) (rsv : BitVec 30) : RoundTrip.Statement (.bankcmdOffline bank rsv) := by
  intro _
  exact .inl rfl

theorem RoundTrip.targetBankTimeout (bank : BitVec 32) : RoundTrip.Statement (.targetBankTimeout bank) := by
  intro _
  exact .inl rfl

theorem RoundTrip.bankCopyLine (bank : BitVec 32) : RoundTrip.Statement (.bankCopyLine bank) := by
  intro _
  exact .inl rfl

theorem RoundTrip.sliceDrainLine (bank : BitVec 32) : RoundTrip.Statement (.sliceDrainLine bank) := by
  intro _
  exact .inl rfl

theorem RoundTrip.elcfgWrite (v : Word) : RoundTrip.Statement (.elcfgWrite v) := by
  intro _
  exact .inl rfl

theorem RoundTrip.lcmdTrain (port : BitVec 4) : RoundTrip.Statement (.lcmdTrain port) := by
  intro _
  exact .inl rfl

theorem RoundTrip.lcmdDown (port : BitVec 4) : RoundTrip.Statement (.lcmdDown port) := by
  intro _
  exact .inl rfl

theorem RoundTrip.lcmdRetire (port : BitVec 4) : RoundTrip.Statement (.lcmdRetire port) := by
  intro _
  exact .inl rfl

theorem RoundTrip.linkTrainingComplete (port : BitVec 4) (lanes : BitVec 4) (pnode : BitVec 9) : RoundTrip.Statement (.linkTrainingComplete port lanes pnode) := by
  intro _
  exact .inl rfl

theorem RoundTrip.linkTrainingTimeout (port : BitVec 4) : RoundTrip.Statement (.linkTrainingTimeout port) := by
  intro _
  exact .inl rfl

theorem RoundTrip.flitReceive (port : BitVec 4) (flit : Flit) : RoundTrip.Statement (.flitReceive port flit) := by
  intro _
  exact .inl rfl

theorem RoundTrip.replayTimeout (port : BitVec 4) : RoundTrip.Statement (.replayTimeout port) := by
  intro _
  exact .inl rfl

theorem RoundTrip.lervonRequestReceive (port : BitVec 4) (msg : LvMsg) : RoundTrip.Statement (.lervonRequestReceive port msg) := by
  intro _
  exact .inl rfl

theorem RoundTrip.lervonResponseReceive (port : BitVec 4) (msg : LvMsg) : RoundTrip.Statement (.lervonResponseReceive port msg) := by
  intro _
  exact .inl rfl

theorem RoundTrip.lervonResponseTimeout (tag : BitVec 16) : RoundTrip.Statement (.lervonResponseTimeout tag) := by
  intro _
  exact .inl rfl

theorem RoundTrip.nodeidWrite (who : Writer) (v : Word) : RoundTrip.Statement (.nodeidWrite who v) := by
  intro _
  exact .inl rfl

theorem RoundTrip.ownershipTableWrite (who : Writer) (table : OwnTable) (idx : BitVec 11) (v : Byte) : RoundTrip.Statement (.ownershipTableWrite who table idx v) := by
  intro _
  exact .inl rfl

theorem RoundTrip.peerTableWrite (who : Writer) (idx : BitVec 8) (v : BitVec 256) : RoundTrip.Statement (.peerTableWrite who idx v) := by
  intro _
  exact .inl rfl

theorem RoundTrip.uePacketReceive (port : Bool) (ctx : BitVec 6) (p : UePacket) : RoundTrip.Statement (.uePacketReceive port ctx p) := by
  intro _
  exact .inl rfl

theorem RoundTrip.hostApertureRead (who : Writer) (addr : Word) (len : Nat) : RoundTrip.Statement (.hostApertureRead who addr len) := by
  intro _
  exact .inl rfl

theorem RoundTrip.hostApertureWrite (who : Writer) (addr : Word) (data : List Byte) : RoundTrip.Statement (.hostApertureWrite who addr data) := by
  intro _
  exact .inl rfl

theorem RoundTrip.hostAtomicop (who : Writer) (op : HostAtomic) (bytes : BitVec 5) (addr : Word) (a : Word) (b : Word) : RoundTrip.Statement (.hostAtomicop who op bytes addr a b) := by
  intro _
  exact .inl rfl

theorem RoundTrip.pcieCompletionReceive (req : Nat) (status : PcieStatus) : RoundTrip.Statement (.pcieCompletionReceive req status) := by
  intro _
  exact .inl rfl

theorem RoundTrip.pcieCompletionTimeout (req : Nat) : RoundTrip.Statement (.pcieCompletionTimeout req) := by
  intro _
  exact .inl rfl

theorem RoundTrip.attreq (who : Writer) (data : BitVec 256) : RoundTrip.Statement (.attreq who data) := by
  intro _
  exact .inl rfl

theorem RoundTrip.attestReportComplete : RoundTrip.Statement .attestReportComplete := by
  intro _
  exact .inl rfl

theorem RoundTrip.clamplimWrite (who : Writer) (v : Word) : RoundTrip.Statement (.clamplimWrite who v) := by
  intro _
  exact .inl rfl

theorem RoundTrip.clampExcursion : RoundTrip.Statement .clampExcursion := by
  intro _
  exact .inl rfl

theorem RoundTrip.vfiWrite (island : BitVec 4) (v : Word) : RoundTrip.Statement (.vfiWrite island v) := by
  intro _
  exact .inl rfl

theorem RoundTrip.vfiChangeComplete (island : BitVec 4) : RoundTrip.Statement (.vfiChangeComplete island) := by
  intro _
  exact .inl rfl

theorem RoundTrip.controlRegisterWrite (who : Writer) (off : BitVec 23) (data : List Byte) : RoundTrip.Statement (.controlRegisterWrite who off data) := by
  intro _
  exact .inl rfl

theorem RoundTrip.reset : RoundTrip.Statement .reset := by
  intro _
  exact .inl rfl

theorem RoundTrip.bootVerifyComplete (framing : Bool) (ecdsa : Bool) (lms : Bool) (svn : BitVec 8) (fwver : BitVec 32) : RoundTrip.Statement (.bootVerifyComplete framing ecdsa lms svn fwver) := by
  intro _
  exact .inl rfl

theorem RoundTrip.hbmTrainingComplete (bad : BitVec 8) : RoundTrip.Statement (.hbmTrainingComplete bad) := by
  intro _
  exact .inl rfl

theorem RoundTrip.d2dTrainingComplete (ok : Bool) : RoundTrip.Statement (.d2dTrainingComplete ok) := by
  intro _
  exact .inl rfl

theorem RoundTrip.initComplete : RoundTrip.Statement .initComplete := by
  intro _
  exact .inl rfl

theorem RoundTrip.rangerHeartbeat : RoundTrip.Statement .rangerHeartbeat := by
  intro _
  exact .inl rfl

theorem RoundTrip.rangerTakeover (us : Word) : RoundTrip.Statement (.rangerTakeover us) := by
  intro _
  exact .inl rfl

theorem RoundTrip.currentBackWithinLimit : RoundTrip.Statement .currentBackWithinLimit := by
  intro _
  exact .inl rfl

theorem RoundTrip.thermalProtection (island : BitVec 4) (cur : BitVec 4) : RoundTrip.Statement (.thermalProtection island cur) := by
  intro _
  exact .inl rfl

theorem RoundTrip.linkLost (ctx : BitVec 6) : RoundTrip.Statement (.linkLost ctx) := by
  intro _
  exact .inl rfl

theorem RoundTrip.targetRefusal (ctx : BitVec 6) : RoundTrip.Statement (.targetRefusal ctx) := by
  intro _
  exact .inl rfl

end Sys2Proof.Laws
end

