-- ==== Sys2Proof/Tests/Slice0.lean ====
section
/-!
SUPPORT. Tests: ill-formed operands, a decoded word of every instruction, one step each on a small state, and for every
statement with hypotheses a state and operands that meet them. Expected results come from the spec's printed examples and
tables, or by hand from its rules; each test names its source.
-/
namespace Sys2Proof.Tests

open Sys2Proof Sys2Proof.Machine

/-! ## Ill-formed operands, each refused by its check -/

/-- R63: PC 6, a guarded mode without planes, a scope without AQ or RL, a tag without TE. -/
theorem test_wf_tile_memory : ([
    .tld ⟨1, 2, 5, 6, .trunc, false, false, .block, 0, false, 0⟩, .tst ⟨1, 2, 5, 0, .guarded, false, false, .block, 0, false, 0⟩,
    .tldff ⟨1, 2, 5, 0, .trunc, false, false, .group, 0, false, 0⟩, .topt ⟨1, 2, 5, 5, .trunc, false, false, .block, 1, false, 0⟩,
    .tgth ⟨1, 2, 5, 7, .trunc, false, false, .block, 0, false, 6, 0⟩, .tgthFull ⟨1, 2, 5, 0, .guarded, false, false, .block, 0, false, 6, 0⟩,
    .tsct ⟨1, 2, 5, 0, .trunc, false, false, .system, 0, false, 6, 0⟩, .tgth ⟨1, 2, 5, 0, .trunc, false, false, .block, 63, false, 6, 0⟩,
    .tamoAdd ⟨1, 2, 5, 6, false, false, .block, 6, 0⟩, .tglk ⟨1, 2, 5, 0, false, false, .die, 6, 0⟩,
    .twaitvEq ⟨1, 2, 5, false, .band, 24, 6, 0⟩, .twaitvNe ⟨1, 2, 5, false, .band, 0, 6, 0⟩,
    .twaitvLt ⟨1, 2, 5, false, .block, 25, 6, 0⟩] : List Instr).all (fun i => !i.wf) = true := by decide

/-- R71, R247: SAMO's scope; TCB with 0 or 5 tables or a bare tag; BCOPY with a bare tag; LBRK 0 and 7; unused sources of MAP,
REDUCE and TSCAN; MAP without inputs; a pre-function offset without PF; BIND of length 0; barrier 20; PH 7; a limit above
16,777,216. -/
theorem test_wf_other_operands : ([
    .samoAdd ⟨1, 2, 3, .device, false, false, false⟩, .tcb ⟨1, 0, false, 0⟩, .tcb ⟨1, 5, false, 0⟩, .tcb ⟨1, 1, false, 2⟩,
    .bcopy ⟨1, 2, 3, false, 4⟩, .lbrk 0 1, .lbrk 7 1, .map ⟨1, 2, 0, 0, 0, false, 0, 0⟩, .map ⟨1, 2, 3, 0, 1, false, 0, 0⟩,
    .map ⟨1, 2, 3, 4, 2, false, 0, 0⟩, .reduce ⟨1, 2, 3, .add, false, false, 0⟩, .reduce ⟨1, 2, 0, .add, false, false, 1⟩,
    .tscan ⟨1, 2, 3, .add, false⟩, .bind ⟨1, 2, 3, 0⟩, .bari 20 1, .bara ⟨20, 0⟩, .barw ⟨3, 7⟩,
    .qput ⟨1, 2, 3, 16777217⟩] : List Instr).all (fun i => !i.wf) = true := by decide

/-- R57 to R59: the words of those forms are refused by name. -/
theorem test_refused_words :
    decodeSeq 0x1580000000000001 = .error .illegal ∧ decodeSeq 0xCA00000000000000 = .error .undefFuture ∧
    decodeSeq 0 = .error .illegal ∧ decodeSeq 0x1400000000000001 = .error .reservedField ∧
    decodeSeq 0x1020000000000004 = .error .illegal ∧ decodeSeq 0x2200_90B8_0000_0000 = .error .reservedField ∧
    decodeLane 0x260C22F8 = .error 0x21 :=
  ⟨rfl, rfl, rfl, rfl, rfl, rfl, rfl⟩

/-! ## Decoding: a word of every instruction, written out from the spec's encoding of it

Where a chapter prints the word, that word stands here; the others are laid out by the formats R60 to R66 and R74 with the
majors, minors and opcodes of R68, R70 and R75. -/

/-- R60, R70: S3, MAJ 0x01, the minors of R70; ADD and MULHU as printed in R60 and R90. -/
theorem test_decode_scalar_registers : ∀ p ∈ ([
    (0x0200C41400000000, .add ⟨3, 4, 5, .w64⟩),
    (0x021095A500000000, .sub ⟨2, 21, 41, .w32⟩),
    (0x0220D6AA00000000, .mul ⟨3, 22, 42, .w16⟩),
    (0x023117AF00000000, .mulhs ⟨4, 23, 43, .w8⟩),
    (0x0241C22400000000, .mulhu ⟨7, 2, 9, .w64⟩),
    (0x025199B500000000, .divs ⟨6, 25, 45, .w32⟩),
    (0x0261DABA00000000, .divu ⟨7, 26, 46, .w16⟩),
    (0x02721BBF00000000, .rems ⟨8, 27, 47, .w8⟩),
    (0x02825CC000000000, .remu ⟨9, 28, 48, .w64⟩),
    (0x02929DC500000000, .and ⟨10, 29, 49, .w32⟩),
    (0x02A2DECA00000000, .or ⟨11, 30, 50, .w16⟩),
    (0x02B31FCF00000000, .xor ⟨12, 31, 51, .w8⟩),
    (0x02C360D000000000, .andn ⟨13, 32, 52, .w64⟩),
    (0x02D3A1D500000000, .shl ⟨14, 33, 53, .w32⟩),
    (0x02E3E2DA00000000, .shrl ⟨15, 34, 54, .w16⟩),
    (0x02F423DF00000000, .shra ⟨16, 35, 55, .w8⟩),
    (0x030464E000000000, .min ⟨17, 36, 56, .w64⟩),
    (0x0314A5E500000000, .max ⟨18, 37, 57, .w32⟩),
    (0x0324E6EA00000000, .minu ⟨19, 38, 58, .w16⟩),
    (0x033527EF00000000, .maxu ⟨20, 39, 59, .w8⟩),
    (0x034568F000000000, .slt ⟨21, 40, 60, .w64⟩),
    (0x0355A9F500000000, .sltu ⟨22, 41, 61, .w32⟩),
    (0x0365EAFA00000000, .sel ⟨23, 42, 62, .w16⟩),
    (0x03727F0000000000, .clz ⟨9, 63, .w64⟩),
    (0x03827F0100000000, .ctz ⟨9, 63, .w32⟩),
    (0x03927F0200000000, .popc ⟨9, 63, .w16⟩)] : List (Nat × Instr)), decodeTableWord 64 p.1 = some p.2 := by decide

/-- R61, R70: SI, MAJ 0x02; ADD.w and SHRA.w as printed in R61 and R90. -/
theorem test_decode_scalar_immediates : ∀ p ∈ ([
    (0x0400C401FFFFFFF0, .addImm ⟨3, 4, .w32, 0xFFFFFFF0⟩),
    (0x0410950180000001, .subImm ⟨2, 21, .w32, 0x80000001⟩),
    (0x0420D60280000002, .mulImm ⟨3, 22, .w16, 0x80000002⟩),
    (0x0431170380000003, .mulhsImm ⟨4, 23, .w8, 0x80000003⟩),
    (0x0441580080000004, .mulhuImm ⟨5, 24, .w64, 0x80000004⟩),
    (0x0451990180000005, .divsImm ⟨6, 25, .w32, 0x80000005⟩),
    (0x0461DA0280000006, .divuImm ⟨7, 26, .w16, 0x80000006⟩),
    (0x04721B0380000007, .remsImm ⟨8, 27, .w8, 0x80000007⟩),
    (0x04825C0080000008, .remuImm ⟨9, 28, .w64, 0x80000008⟩),
    (0x04929D0180000009, .andImm ⟨10, 29, .w32, 0x80000009⟩),
    (0x04A2DE028000000A, .orImm ⟨11, 30, .w16, 0x8000000a⟩),
    (0x04B31F038000000B, .xorImm ⟨12, 31, .w8, 0x8000000b⟩),
    (0x04C360008000000C, .andnImm ⟨13, 32, .w64, 0x8000000c⟩),
    (0x04D3A1018000000D, .shlImm ⟨14, 33, .w32, 0x8000000d⟩),
    (0x04E3E2028000000E, .shrlImm ⟨15, 34, .w16, 0x8000000e⟩),
    (0x04F1860100000003, .shraImm ⟨6, 6, .w32, 3⟩),
    (0x0504640080000010, .minImm ⟨17, 36, .w64, 0x80000010⟩),
    (0x0514A50180000011, .maxImm ⟨18, 37, .w32, 0x80000011⟩),
    (0x0524E60280000012, .minuImm ⟨19, 38, .w16, 0x80000012⟩),
    (0x0535270380000013, .maxuImm ⟨20, 39, .w8, 0x80000013⟩),
    (0x0545680080000014, .sltImm ⟨21, 40, .w64, 0x80000014⟩),
    (0x0555A90180000015, .sltuImm ⟨22, 41, .w32, 0x80000015⟩),
    (0x0565EA0280000016, .selImm ⟨23, 42, .w16, 0x80000016⟩)] : List (Nat × Instr)), decodeTableWord 64 p.1 = some p.2 := by decide

/-- R60, R68: S3, MAJ 0x03; FMA and FCVT.FI.w as printed in R91 and R92. -/
theorem test_decode_scalar_fp : ∀ p ∈ ([
    (0x0602947900000000, .fadd ⟨10, 20, 30, .w32⟩),
    (0x0612D57D00000000, .fsub ⟨11, 21, 31, .w32⟩),
    (0x0623168100000000, .fmul ⟨12, 22, 32, .w32⟩),
    (0x0631051900000000, .fma ⟨4, 5, 6, .w32⟩),
    (0x0643988900000000, .fmin ⟨14, 24, 34, .w32⟩),
    (0x0653D98D00000000, .fmax ⟨15, 25, 35, .w32⟩),
    (0x06641A9100000000, .fcmpEq ⟨16, 26, 36, .w32⟩),
    (0x06745B9500000000, .fcmpLt ⟨17, 27, 37, .w32⟩),
    (0x06849C9900000000, .fcmpLe ⟨18, 28, 38, .w32⟩),
    (0x0694DD9D00000000, .fcmpUn ⟨19, 29, 39, .w32⟩),
    (0x06A0C40100000000, .fcvtFi ⟨3, 4, .w32⟩),
    (0x06B17C0100000000, .fcvtFn ⟨5, 60, .w32⟩),
    (0x06C17C0200000000, .fcvtIf ⟨5, 60, .w16⟩),
    (0x06D17C0300000000, .fcvtNf ⟨5, 60, .w8⟩)] : List (Nat × Instr)), decodeTableWord 64 p.1 = some p.2 := by decide

/-- R61, R66, R68: SLD and SST as printed in R93, SAMO (MAJ 0x05) as printed in 09_sync.md. -/
theorem test_decode_scalar_memory : ∀ p ∈ ([
    (0x0802020100000010, .sld ⟨8, 2, .w32, 16⟩),
    (0x08107F03FFFFFFFF, .sldZ ⟨1, 63, .w8, 0xFFFFFFFF⟩),
    (0x0822020000000010, .sst ⟨8, 2, .w64, 16⟩),
    (0x0A00C41540000001, .samoAdd ⟨3, 4, 5, .band, true, false, true⟩),
    (0x0A1068C8A0000001, .samoSwap ⟨1, 40, 50, .group, false, true, true⟩),
    (0x0A20C41400000000, .samoCas ⟨3, 4, 5, .block, false, false, false⟩),
    (0x0A30E8C9A0000001, .samoMin ⟨3, 40, 50, .die, false, true, true⟩),
    (0x0A4128CA20000000, .samoMax ⟨4, 40, 50, .device, false, true, false⟩),
    (0x0A5168CAA0000001, .samoAnd ⟨5, 40, 50, .system, false, true, true⟩),
    (0x0A61A8C820000000, .samoOr ⟨6, 40, 50, .block, false, true, false⟩),
    (0x0A71E8C8A0000001, .samoXor ⟨7, 40, 50, .group, false, true, true⟩),
    (0x0A8228C920000000, .samoMinu ⟨8, 40, 50, .band, false, true, false⟩),
    (0x0A9268C9A0000001, .samoMaxu ⟨9, 40, 50, .die, false, true, true⟩)] : List (Nat × Instr)), decodeTableWord 64 p.1 = some p.2 := by decide

/-- R62, R68: BR; B.NE, J, CALL, RET, LOOP, ENDL and LBRK as printed in R62, R95 and R97; MOVI and MOVHI as in R90. -/
theorem test_decode_control : ∀ p ∈ ([
    (0x0C004210FFFFFFFD, .bCond ⟨.ne, 1, 2, false, 0xFFFFFFFD⟩),
    (0x0E00000000000002, .j 2),
    (0x0E1F00000000000A, .call ⟨60, 10⟩),
    (0x0E2F000000000000, .ret 60),
    (0x1000400000000007, .loop ⟨1, 7⟩),
    (0x10100000FFFFFFFB, .endl 0xFFFFFFFB),
    (0x1020000200000004, .lbrk 2 4),
    (0x12028000FFFFFFFE, .movi ⟨10, 0xFFFFFFFE⟩),
    (0x1212800000001234, .movhi ⟨10, 0x1234⟩),
    (0x1400000000000000, .nop),
    (0x1411400000000041, .sysrd 5 .capa),
    (0x1420060000000030, .syswr 6),
    (0x1430000000000000, .yield),
    (0x1440000000000000, .exit),
    (0x1600000000000006, .region 6),
    (0x1610000000000000, .regend),
    (0x1800000000000001, .trap 1),
    (0x1810000000000000, .eret),
    (0x1820000000000000, .eretSkip),
    (0x1830000000000000, .eretElem)] : List (Nat × Instr)), decodeTableWord 64 p.1 = some p.2 := by decide

/-- The words printed in 05_tile.md. -/
theorem test_decode_tile_memory : ∀ p ∈ ([
    (0x200010A000000000, .hset ⟨2, 5, .rows⟩),
    (0x201010E00000000A, .hget ⟨2, 7, .fill⟩),
    (0x2020900000000000, .tbind 1 2),
    (0x2030800000000000, .tdrop 1),
    (0x204000A000000006, .tqry 5 .reservation),
    (0x220090AD00000000, .tld ⟨1, 2, 5, 3, .guarded, false, false, .block, 0, false, 0⟩),
    (0x2401A0C048000000, .tst ⟨3, 4, 6, 0, .trunc, false, true, .group, 0, false, 0⟩),
    (0x260090A000000000, .tldff ⟨1, 2, 5, 0, .trunc, false, false, .block, 0, false, 0⟩),
    (0x2802908000030000, .tgth ⟨5, 2, 4, 0, .trunc, false, false, .block, 0, false, 6, 0⟩),
    (0x2812908000030000, .tgthFull ⟨5, 2, 4, 0, .trunc, false, false, .block, 0, false, 6, 0⟩),
    (0x2A01A0C000038000, .tsct ⟨3, 4, 6, 0, .trunc, false, false, .block, 0, false, 7, 0⟩),
    (0x2C00994580000022, .wbind ⟨1, 3, 10, 11, 4, 2⟩),
    (0x2C11000000000001, .tldw 2 1),
    (0x2E0000E00000005A, .tcb ⟨7, 2, true, 5⟩),
    (0x3003291450000000, .topt ⟨6, 5, 8, 5, .trunc, false, true, .band, 0, false, 0⟩),
    (0x3200008280080043, .bcopy ⟨4, 5, 4096, true, 3⟩),
    (0x340000000003FFFF, .waitc ⟨0, 63, 63, 63⟩),
    (0x3410040000000000, .waittAll 4),
    (0x3420040000000000, .waittAny 4),
    (0x3430C40000000000, .tagff 3 4),
    (0x3440040000000000, .tagclr 4)] : List (Nat × Instr)), decodeTableWord 64 p.1 = some p.2 := by decide

/-- The words printed in 06_tile_compute.md and 08_trail.md. -/
theorem test_decode_tile_compute : ∀ p ∈ ([
    (0x4002044001000000, .mma ⟨4, 1, 2, true⟩),
    (0x4203092000000000, .mmv ⟨6, 2, 9, false⟩),
    (0x4402844706000010, .map ⟨5, 1, 2, 7, 2, true, 0, 16⟩),
    (0x4401040011000000, .map ⟨2, 1, 0, 0, 1, false, 2, 0⟩),
    (0x46040C0912000000, .reduce ⟨8, 3, 9, .max, true, false, 0⟩),
    (0x4802080000000000, .tcvt 4 2),
    (0x48120000003FC000, .tfill 4 0x3FC000),
    (0x4822900000000000, .tmov 5 4),
    (0x48330C0000000000, .tscan ⟨6, 3, 0, .add, false⟩),
    (0x50020C4001000000, .mmas ⟨4, 3, 2, true⟩),
    (0x52030CA000000000, .mmss ⟨6, 3, 5, false⟩),
    (0x5400010000000000, .tpat 8),
    (0x5410010000000000, .tinv 8),
    (0x5421812000000000, .tdens 3 9)] : List (Nat × Instr)), decodeTableWord 64 p.1 = some p.2 := by decide

/-- The words printed in 09_sync.md, and the other minors of MAJ 0x33 and 0x35 (R63, R68). -/
theorem test_decode_synchronisation : ∀ p ∈ ([
    (0x6000040000000000, .acqX 4),
    (0x6010040000000000, .acqS 4),
    (0x6020040000000000, .rel 4),
    (0x6200C41400000010, .bind ⟨3, 4, 5, 16⟩),
    (0x6210C40000000000, .unbind 3 4),
    (0x6400000200000000, .fence .device),
    (0x6602908000030000, .tamoAdd ⟨5, 2, 4, 0, false, false, .block, 6, 0⟩),
    (0x661FFFE0C80F7FFF, .tamoMin ⟨31, 15, 63, 0, true, true, .group, 30, 0x7FFF⟩),
    (0x662FFFE0D00F7FFF, .tamoMax ⟨31, 15, 63, 0, true, true, .band, 30, 0x7FFF⟩),
    (0x663FFFE0D80F7FFF, .tamoAnd ⟨31, 15, 63, 0, true, true, .die, 30, 0x7FFF⟩),
    (0x664FFFE0E00F7FFF, .tamoOr ⟨31, 15, 63, 0, true, true, .device, 30, 0x7FFF⟩),
    (0x665FFFE0E80F7FFF, .tamoXor ⟨31, 15, 63, 0, true, true, .system, 30, 0x7FFF⟩),
    (0x666FFFE0C00F7FFF, .tamoSwap ⟨31, 15, 63, 0, true, true, .block, 30, 0x7FFF⟩),
    (0x6802908000030000, .tglk ⟨5, 2, 4, 0, false, false, .block, 6, 0⟩),
    (0x6812908000030000, .tscc ⟨5, 2, 4, 0, false, false, .block, 6, 0⟩),
    (0x6A329080A2830000, .twaitvGe ⟨5, 2, 4, true, .device, 20, 6, 0⟩),
    (0x6A00906003020000, .twaitvEq ⟨1, 2, 3, false, .block, 24, 4, 0⟩),
    (0x6A10906002E20001, .twaitvNe ⟨1, 2, 3, false, .block, 23, 4, 1⟩),
    (0x6A20906002C20002, .twaitvLt ⟨1, 2, 3, false, .block, 22, 4, 2⟩),
    (0x6A40906002820004, .twaitvLtu ⟨1, 2, 3, false, .block, 20, 4, 4⟩),
    (0x6A50906002620005, .twaitvGeu ⟨1, 2, 3, false, .block, 19, 4, 5⟩)] : List (Nat × Instr)), decodeTableWord 64 p.1 = some p.2 := by decide

/-- The words printed in 10_barrier.md, 11_group.md and 12_queue.md. -/
theorem test_decode_barriers_channels_queues : ∀ p ∈ ([
    (0x7000070000000003, .bari 3 7),
    (0x7010000000000071, .bara ⟨17, 3⟩),
    (0x7020000000000023, .barw ⟨3, 1⟩),
    (0x7202012000000000, .tsend 4 9),
    (0x7212812000000000, .trecv 5 9),
    (0x7800C41400000000, .launch 3 4 5),
    (0x7A00C414000007D0, .qput ⟨3, 4, 5, 2000⟩),
    (0x7A10C41800000000, .qget ⟨3, 4, 6, 0⟩)] : List (Nat × Instr)), decodeTableWord 64 p.1 = some p.2 := by decide

/-- R74, R75: OP 0x01 to 0x0F; VADD, VSUB, VMULH, VSRA, VABS, VWMAC and VNSHR as printed in 07_lane.md. -/
theorem test_decode_lane_integer : ∀ p ∈ ([
    (0x020C22F8, .vadd ⟨3, 1, .vec 2, none⟩),
    (0x049043F8, .vsub ⟨4, 2, .const 3, none⟩),
    (0x07778210, .vmul ⟨29, 28, .imm 2, some 2⟩),
    (0x08142208, .vmulh ⟨5, 1, .vec 2, some 1⟩),
    (0x0A8800F8, .vwmac ⟨2, 0, .const 0, none⟩),
    (0x0D6B2528, .vmin ⟨26, 25, .imm 5, some 5⟩),
    (0x0E670630, .vmax ⟨25, 24, .vec 6, some 6⟩),
    (0x10E2E738, .vand ⟨24, 23, .const 7, some 7⟩),
    (0x135EC840, .vor ⟨23, 22, .imm 8, some 8⟩),
    (0x145AA948, .vxor ⟨22, 21, .vec 9, some 9⟩),
    (0x16D68A50, .vshl ⟨21, 20, .const 10, some 10⟩),
    (0x19526B58, .vshr ⟨20, 19, .imm 11, some 11⟩),
    (0x1B085FF8, .vsra ⟨2, 2, .imm 31, none⟩),
    (0x1D0C48F8, .vnshr ⟨3, 2, .imm 8, none⟩),
    (0x1E0400F8, .vabs ⟨1, 0, none⟩)] : List (Nat × Instr)), decodeTableWord 32 p.1 = some p.2 := by decide

/-- R74, R75: OP 0x20 to 0x2B; VFMA, VRCP, VEXP2, VFCLS and VCVT as printed in 07_lane.md. -/
theorem test_decode_lane_fp : ∀ p ∈ ([
    (0x407FC000, .vfadd ⟨31, 30, .vec 0, some 0⟩),
    (0x42FBA108, .vfsub ⟨30, 29, .const 1, some 1⟩),
    (0x45778210, .vfmul ⟨29, 28, .imm 2, some 2⟩),
    (0x460C22FD, .vfma ⟨3, 1, .rep 2 .r4, none⟩),
    (0x48EF4420, .vfmin ⟨27, 26, .const 4, some 4⟩),
    (0x4B6B2528, .vfmax ⟨26, 25, .imm 5, some 5⟩),
    (0x4C0820F8, .vrcp ⟨2, 1, none⟩),
    (0x4E50E0B8, .vrsq ⟨20, 7, some 23⟩),
    (0x500400F8, .vexp2 ⟨1, 0, none⟩),
    (0x5250E0B8, .vlog2 ⟨20, 7, some 23⟩),
    (0x541420F8, .vfcls ⟨5, 1, none⟩),
    (0x570828F8, .vcvt ⟨2, 1, 8, none⟩)] : List (Nat × Instr)), decodeTableWord 32 p.1 = some p.2 := by decide

/-- R74, R75: OP 0x40 to 0x52; the words printed in 07_lane.md. -/
theorem test_decode_lane_predicates_and_moves : ∀ p ∈ ([
    (0x805FC000, .vcmpEq ⟨23, 30, .vec 0, some 0⟩),
    (0x82DFA108, .vcmpNe ⟨23, 29, .const 1, some 1⟩),
    (0x850820F8, .vcmpLt ⟨2, 1, .imm 0, none⟩),
    (0x868441F8, .vcmpGe ⟨1, 2, .const 1, none⟩),
    (0x88DF4420, .vcmpLe ⟨23, 26, .const 4, some 4⟩),
    (0x8B5F2528, .vcmpGt ⟨23, 25, .imm 5, some 5⟩),
    (0x8C0C01F8, .pand ⟨3, 0, 1, none⟩),
    (0x8E5ED538, .por ⟨23, 22, 21, some 7⟩),
    (0x905ED540, .pxor ⟨23, 22, 21, some 8⟩),
    (0x921060F8, .pnot ⟨4, 3, none⟩),
    (0x94082000, .vsel ⟨2, 1, .vec 0, 0⟩),
    (0x970407F8, .vmov ⟨1, .imm 7, none⟩),
    (0x980C00F8, .vidx 3 none),
    (0x9A1022F8, .vperm ⟨4, 1, 2, none, none⟩),
    (0x9C0800F8, .vconf ⟨2, 0, none⟩),
    (0x9E0C0008, .vcomp ⟨3, 0, 1⟩),
    (0xA01840F8, .vcfg ⟨6, false, false, 1⟩),
    (0xA20040F8, .vret 2),
    (0xA40000F8, .vnop)] : List (Nat × Instr)), decodeTableWord 32 p.1 = some p.2 := by decide
/-! ## One step each, on small states -/

/-- A kernel with the given tile code at 0x1000 and handler at 0x2000. -/
def kern (code handler : List Word) : Kernel :=
  { handle := 7, ctx := 0, st := .resident, obj := 0, data := 0x9000, dlen := 0, len := 0, digest := 0, tileBase := 0x1000
    handlerBase := 0x2000, tile := code, handler := handler, lanes := [], shapes := [], streams := [], regions := []
    tiers := [], lgneed := 0 }

/-- A running block in slot 0 at the start of that kernel's code, reservations for every store. -/
def blk : Block :=
  { Block.empty 0 with st := .running, kernel := 7, pc := 0x1000, region := .exposed
                       rsv := BitVec.ofNat 64 (65536 + 65536 * 2 ^ 18 + 65536 * 2 ^ 37) }

/-- A cached translation of the page at virtual address 0x4000 to itself, accessed and dirty; CP 1 is WC. -/
def page (cp : BitVec 2) : TlbEntry :=
  { home := .core 0, ctx := 0, size := 0, vpage := 4, frame := 4, w := true, ns := false, ul := false, cp := cp, x := false
    a := true, d := true, stride := false, entry := 0 }

/-- The device with that block, kernel and page; a context 0 that is ACTIVE. -/
def base : State :=
  { State.reset with
    me := blk, kernels := [kern [0x1400000000000000, 0x1400000000000000, 0x1440000000000000] [0x1810000000000000]]
    tlb := [page 1], contexts := [(0, { st := .active })], defer := true }

def regs (l : List (BitVec 6 × Word)) (s : State) : State := l.foldl (fun s p => setS s p.1 p.2) s

/-- The outcome is a next state of which `p` holds. -/
def after (o : Host.Outcome State Fault Refusal) (p : State → Bool) : Bool := match o with | .next t => p t | _ => false

/-- The worked table after R88. -/
theorem test_add_b : after (exec (.add ⟨3, 4, 5, .w8⟩) (regs [(4, 0x7F), (5, 1)] base)) (fun t =>
    getS t 3 == 0xFFFFFFFFFFFFFF80 && t.me.pc == 0x1008) = true := by decide
theorem test_add_h : after (exec (.add ⟨3, 4, 5, .w16⟩) (regs [(4, 0x7F), (5, 1)] base)) (fun t => getS t 3 == 0x80) = true := by
  decide
theorem test_shrl_b : after (exec (.shrlImm ⟨3, 3, .w8, 9⟩) (regs [(3, 0xFFFFFFFFFFFFFF80)] base)) (fun t => getS t 3 == 0x40) = true := by
  decide
theorem test_divu_zero : after (exec (.divu ⟨3, 4, 5, .w32⟩) (regs [(4, 7)] base)) (fun t => getS t 3 == 0xFFFFFFFFFFFFFFFF) = true := by
  decide
/-- The constant of R90. -/
theorem test_movhi : after (exec (.movhi ⟨10, 0x1234⟩) (regs [(10, 0xFFFFFFFFFFFFFFFE)] base)) (fun t =>
    getS t 10 == 0x00001234FFFFFFFE) = true := by decide
theorem test_movi : after (exec (.movi ⟨10, 0xFFFFFFFE⟩) base) (fun t => getS t 10 == 0xFFFFFFFFFFFFFFFE) = true := by decide
/-- R73: a write to s0 is discarded; in handler mode s63 is hs15. -/
theorem test_write_s0 : after (exec (.addImm ⟨0, 4, .w64, 1⟩) base) (fun t => getS t 0 == 0 && t.me.pc == 0x1008) = true := by decide
theorem test_handler_register : after (exec (.movi ⟨63, 5⟩) { base with me := { blk with inHandler := true, st := .handler } })
    (fun t => t.me.hregs[15] == 5 && t.me.sregs[63] == 0) = true := by decide
/-- R88: MULHU of the two largest words, and the widest counts. -/
theorem test_mulhu : after (exec (.mulhu ⟨3, 4, 5, .w64⟩) (regs [(4, 0xFFFFFFFFFFFFFFFF), (5, 0xFFFFFFFFFFFFFFFF)] base))
    (fun t => getS t 3 == 0xFFFFFFFFFFFFFFFE) = true := by decide
theorem test_rems_sign : after (exec (.rems ⟨3, 4, 5, .w8⟩) (regs [(4, 0xF9), (5, 2)] base)) (fun t => getS t 3 == 0xFFFFFFFFFFFFFFFF) = true := by
  decide
theorem test_divs_overflow : after (exec (.divs ⟨3, 4, 5, .w16⟩) (regs [(4, 0x8000), (5, 0xFFFF)] base))
    (fun t => getS t 3 == 0xFFFFFFFFFFFF8000) = true := by decide
theorem test_sel_old_sd : after (exec (.sel ⟨3, 4, 5, .w8⟩) (regs [(3, 0x100), (4, 1), (5, 2)] base)) (fun t => getS t 3 == 1) = true := by
  decide
theorem test_clz_zero : after (exec (.clz ⟨3, 4, .w16⟩) (regs [(4, 0xFFFF0000)] base)) (fun t => getS t 3 == 16) = true := by decide
/-- The examples of R92: 2.5 and 3.0 × 10^9. -/
theorem test_fcvt_fi : after (exec (.fcvtFi ⟨3, 4, .w32⟩) (regs [(4, 0x40200000)] base)) (fun t => getS t 3 == 2) = true := by decide
theorem test_fcvt_fn : after (exec (.fcvtFn ⟨3, 4, .w32⟩) (regs [(4, 0x4F32D05E)] base)) (fun t => getS t 3 == 0xFFFFFFFFB2D05E00) = true := by
  decide
/-- R91: 1.5 + 2.25 = 3.75; 2 + 1.5 × 1.5 = 4.25; a NaN gives the canonical NaN. -/
theorem test_fadd : after (exec (.fadd ⟨3, 4, 5, .w32⟩) (regs [(4, 0x3FC00000), (5, 0x40100000)] base)) (fun t => getS t 3 == 0x40700000) = true := by
  decide
theorem test_fma : after (exec (.fma ⟨3, 4, 5, .w32⟩) (regs [(3, 0x40000000), (4, 0x3FC00000), (5, 0x3FC00000)] base))
    (fun t => getS t 3 == 0x40880000) = true := by decide
theorem test_fmul_nan : after (exec (.fmul ⟨3, 4, 5, .w32⟩) (regs [(4, 0xFFC12345), (5, 0x3FC00000)] base)) (fun t => getS t 3 == 0x7FC00000) = true := by
  decide
/-- R93: little-endian bytes, sign and zero extension, a store of the low byte. -/
def mem2 : State := { base with defer := false, mem := [(0x4000, 0x34), (0x4001, 0x92)] }
theorem test_sld_h : after (exec (.sld ⟨3, 4, .w16, 0⟩) (regs [(4, 0x4000)] mem2)) (fun t => getS t 3 == 0xFFFFFFFFFFFF9234) = true := by
  decide
theorem test_sldz_h : after (exec (.sldZ ⟨3, 4, .w16, 0xFFFFFFFE⟩) (regs [(4, 0x4002)] mem2)) (fun t => getS t 3 == 0x9234) = true := by decide
theorem test_sst_b : after (exec (.sst ⟨3, 4, .w8, 1⟩) (regs [(3, 0x55AA), (4, 0x4000)] mem2)) (fun t =>
    t.mem == [(0x4000, 0x34), (0x4001, 0xAA)]) = true := by decide
/-- R247: the sum wraps, the old value is sign-extended. -/
theorem test_samo_add_w : after (exec (.samoAdd ⟨3, 4, 5, .block, false, false, true⟩)
    (regs [(4, 0x4000), (5, 1)] { base with defer := false, mem := [(0x4000, 0xFF), (0x4001, 0xFF), (0x4002, 0xFF), (0x4003, 0xFF)] })) (fun t =>
    t.mem == [] && getS t 3 == 0xFFFFFFFFFFFFFFFF) = true := by decide
theorem test_samo_cas_fails : after (exec (.samoCas ⟨3, 4, 5, .block, false, false, true⟩) (regs [(3, 1), (4, 0x4000), (5, 9)] mem2)) (fun t =>
    t.mem == mem2.mem && getS t 3 == 0x9234) = true := by decide
/-- R95 and R97: B.NE −1 leaves the section from its first word and traps ILLEGAL (code 1) with the target in TVAL; J +2. -/
theorem test_branch_out : after (exec (.bCond ⟨.ne, 1, 0, false, 0xFFFFFFFF⟩) (regs [(1, 1)] base)) (fun t =>
    t.me.trapRec.tcause == 1 && t.me.trapRec.tval == 0xFF8 && t.me.pc == 0x2000 && t.me.inHandler) = true := by decide
theorem test_j : after (exec (.j 2) base) (fun t => t.me.pc == 0x1010) = true := by decide
theorem test_call : after (exec (.call ⟨60, 1⟩) base) (fun t => t.me.pc == 0x1008 && getS t 60 == 0x1008) = true := by decide
theorem test_loop : after (exec (.loop ⟨1, 2⟩) (regs [(1, 3)] base)) (fun t => t.me.loops == [⟨0x1008, 3, 0⟩]) = true := by decide
theorem test_endl_back : after (exec (.endl 0xFFFFFFFF) { base with me := { blk with pc := 0x1008, loops := [⟨0x1000, 2, 0⟩] } }) (fun t =>
    t.me.pc == 0x1000 && t.me.loops == [⟨0x1000, 2, 1⟩]) = true := by decide
theorem test_endl_last : after (exec (.endl 0xFFFFFFFF) { base with me := { blk with pc := 0x1008, loops := [⟨0x1000, 2, 1⟩] } }) (fun t =>
    t.me.pc == 0x1010 && t.me.loops == []) = true := by decide
theorem test_lbrk : after (exec (.lbrk 1 1) { base with me := { blk with loops := [⟨0, 2, 1⟩, ⟨8, 3, 0⟩] } }) (fun t =>
    t.me.pc == 0x1008 && t.me.loops == [⟨8, 3, 0⟩]) = true := by decide
/-- R384, R380: TRAP 5 (code 9), and ERET back to the trapping word. -/
theorem test_trap : after (exec (.trap 5) base) (fun t =>
    t.me.trapRec.tcause == 9 && t.me.trapRec.tval == 5 && t.me.trapRec.tinsn == 0x1800000000000005 && t.me.savedPc == 0x1000) = true := by
  decide
theorem test_eret_skip : after (exec .eretSkip { base with me := { blk with inHandler := true, st := .handler, pc := 0x2000, savedPc := 0x1000 } })
    (fun t => t.me.pc == 0x1008 && t.me.st == .running && !t.me.inHandler) = true := by decide
/-- R100: LSTAT is cleared by ones. -/
theorem test_syswr : after (exec (.syswr 6) (regs [(6, 5)] { base with me := { blk with lstat := 0x3F } })) (fun t => t.me.lstat == 0x3A) = true := by
  decide
/-- R112: MROW is signed 40 bits. -/
theorem test_hset_mrow : after (exec (.hset ⟨2, 5, .mrow⟩) (regs [(5, 0xFFFFFFFFFFFFFFC0)] base)) (fun t =>
    (shapeOf t.me 2).mrow == 0xFFFFFFFFC0) = true := by decide
theorem test_hget_mrow : after (exec (.hget ⟨2, 5, .mrow⟩) { base with me := setShape blk 2 { mrow := 0xFFFFFFFFC0 } }) (fun t =>
    getS t 5 == 0xFFFFFFFFFFFFFFC0) = true := by decide
/-- R151: the lowest set tag of the mask, and −1. -/
theorem test_tagff : after (exec (.tagff 3 4) (regs [(4, 0xF0)] { base with me := { blk with tags := 0xC3 } })) (fun t => getS t 3 == 6) = true := by
  decide
theorem test_tagff_none : after (exec (.tagff 3 4) (regs [(4, 0x30)] { base with me := { blk with tags := 0xC3 } })) (fun t =>
    getS t 3 == 0xFFFFFFFFFFFFFFFF) = true := by decide

/-- A strip of four positions of the given type. -/
def strip (ty : BitVec 5) (a b : List Half) : State :=
  let st := emptyStrip 4 { type := ty, fzi := false, fzo := false, xrm := 0 } [0xA40000F8]
  { base with lane := some {
      slot := 0, flight := 0, header := 0, code := [], inputs := [], active := [], bad := [], consts := Vector.replicate 16 0
      todo := [], out := []
      strip := { setVreg (setVreg st 1 a) 2 b with elems := (List.range 4).map some, active := List.replicate 4 true } } }

/-- The register `r` of the strip after an instruction. -/
def lanes (o : Host.Outcome State Fault Refusal) (r : BitVec 5) : List Half :=
  match o with | .next t => (match t.lane with | some j => vreg j.strip r | none => []) | _ => []

/-- The worked cases after R192: −5 and 5 shifted right by 31 under I32; 100 + 100 under I8. -/
theorem test_vsra : lanes (exec (.vsra ⟨2, 1, .imm 31, none⟩) (strip 5 [0xFFFFFFFB, 5, 0, 0x80000000] [0, 0, 0, 0])) 2 =
    [0xFFFFFFFF, 0, 0, 0xFFFFFFFF] := by decide
theorem test_vadd_i8 : lanes (exec (.vadd ⟨3, 1, .vec 2, none⟩) (strip 1 [100, 1, 0, 0xFFFFFFFF] [100, 2, 0, 1])) 3 =
    [0xFFFFFFC8, 3, 0, 0] := by decide
/-- R203: VIDX gives the element's index. -/
theorem test_vidx : lanes (exec (.vidx 3 none) (strip 5 [0, 0, 0, 0] [])) 3 = [0, 1, 2, 3] := by decide
/-- R195: 1.5 × 2.0 under FP32. -/
theorem test_vfmul : lanes (exec (.vfmul ⟨3, 1, .vec 2, none⟩) (strip 10 [0x3FC00000, 0, 0x7F800000, 0] [0x40000000, 0, 0, 0])) 3 =
    [0x40400000, 0, 0x7FC00000, 0] := by decide
/-- R183: an FP instruction under an integer type is what the loader keeps out. -/
theorem test_lane_type : (match exec (.vfadd ⟨3, 1, .vec 2, none⟩) (strip 5 [] []) with | .refused .laneType => true | _ => false) = true := by
  decide

/-! ## The hypotheses of each statement can be met together

One theorem for each statement with hypotheses, and within it a state and operands for each of its clauses. -/

def handlerBlk : Block := { blk with inHandler := true, st := .handler, pc := 0x2000, savedPc := 0x1000 }
def inHandler : State := { base with me := handlerBlk }

theorem witness_DecodeOfEncode : ∃ i : Instr, i.wf = true ∧ encode i ≠ .event := ⟨.bari 19 63, by decide⟩

theorem witness_EncodeOfDecode : (∃ x i, decodeSeq x = .ok i) ∧ ∃ x i, decodeLane x = .ok i :=
  ⟨⟨0x1400000000000000, .nop, rfl⟩, ⟨0xA40000F8, .vnop, rfl⟩⟩

theorem witness_EncodeOfDecode_majors : ∃ x y z : BitVec 64,
    (0x60 ≤ (majOf x).toNat ∧ (majOf x).toNat ≤ 0x7E) ∧ (majOf y).toNat = 0x3E ∧ (majOf z).toNat = 0x5F :=
  ⟨0xC000000000000000, 0x7C00000000000000, 0xBE00000000000000, by decide⟩

/-- The block of `base` at a code of one given word, its turn next on the schedule. -/
def turnAt (w : Word) : State := { base with kernels := [kern [w] []], agenda := [.issue 0 true] }

theorem turnAt_canIssue (w : Word) : canIssue (turnAt w) := by
  refine ⟨rfl, rfl, rfl, rfl, rfl, rfl, nofun, ?_⟩
  intro _ _ _ _ _ h
  exact Wait.noConfusion h

/-- A load into s3 on its way. -/
def onItsWay : Posted := { va := 0x4000, pa := 0x4000, n := 8, cp := 1, op := .load 3 true, handler := false, mark := 0 }

def waitsForLoad : State := { turnAt 0x0200C41400000000 with me := { blk with posted := [onItsWay] } }

theorem witness_StepRunsDecoded : ∃ (s t : State) (d : Bool) (rest : List Turn) (w : Word) (i : Instr),
    s.agenda = .issue s.me.slot d :: rest ∧ canIssue s ∧ wordAt s s.me.pc = some w ∧ decodeSeq w = .ok i ∧ awaitsLoad s.me i = false ∧
    t.agenda = .issue t.me.slot d :: rest ∧ canIssue t ∧ wordAt t t.me.pc = some 0x0200C41400000000 ∧
    decodeSeq 0x0200C41400000000 = .ok (.add ⟨3, 4, 5, .w64⟩) ∧ awaitsLoad t.me (.add ⟨3, 4, 5, .w64⟩) = true :=
  ⟨turnAt 0x4002044001000000, waitsForLoad, true, [], 0x4002044001000000, .mma ⟨4, 1, 2, true⟩,
    rfl, turnAt_canIssue _, rfl, rfl, rfl, rfl, ⟨rfl, rfl, rfl, rfl, rfl, rfl, nofun, fun _ _ _ _ _ h => Wait.noConfusion h⟩, rfl, rfl,
    by decide⟩

/-- A state in which the lane engine runs VNOP next, and one in which its strip has ended. -/
def laneNext : State := { strip 5 [0, 0, 0, 0] [0, 0, 0, 0] with agenda := [.lane 0] }

theorem witness_StepTakesOtherTurns :
    (canIssue (turnAt 0) ∧ decodeSeq 0 = .error .illegal) ∧ decodeSeq 0x1400000000000001 = .error .reservedField ∧
    decodeSeq 0xC000000000000000 = .error .undefFuture ∧ wordAt { turnAt 0 with me := { blk with pc := 0x1008 } } 0x1008 = none ∧
    (∃ j code i, laneOf laneNext 0 = some j ∧ j.strip.ret = none ∧ j.strip.code = 0xA40000F8 :: code ∧ decodeLane 0xA40000F8 = .ok i ∧
      j.strip.bad = [] ∧ laneNext.ctl.stage ≠ .failed) ∧
    (∃ (s : State) (j : LaneJob), s.agenda = [.lane 0] ∧ laneOf s 0 = some j ∧ j.strip.ret.isSome = true) ∧
    encode .reset = .event ∧ ∃ (s : State) (t : Turn), s.agenda = [t] ∧ s.ctl.stage = .failed ∧ t.inFailed = false := by
  refine ⟨⟨turnAt_canIssue 0, rfl⟩, rfl, rfl, rfl, ⟨_, [], .vnop, rfl, rfl, rfl, rfl, rfl, by decide⟩, ?_, rfl, ?_⟩
  · exact ⟨{ laneNext with lane := laneNext.lane.map fun j => { j with strip := { j.strip with ret := some 2 } } }, _, rfl, rfl, rfl⟩
  · exact ⟨{ laneNext with ctl := { laneNext.ctl with stage := .failed } }, .lane 0, rfl, rfl, rfl⟩

theorem witness_RegisterFile :
    (∃ r q : BitVec 6, r ≠ 0 ∧ q ≠ r ∧ base.me.inHandler = false ∧ r = 63) ∧
    (∃ r : BitVec 6, r ≠ 0 ∧ inHandler.me.inHandler = true ∧ r.toNat = 47) ∧
    (∃ (r : BitVec 6) (k : Fin 16), inHandler.me.inHandler = true ∧ r.toNat = 48 + k.val ∧ k.val = 0) ∧
    ∃ (r : BitVec 6) (k : Fin 16), inHandler.me.inHandler = true ∧ r.toNat = 48 + k.val ∧ k.val = 15 :=
  ⟨⟨63, 1, by decide⟩, ⟨47, by decide⟩, ⟨48, 0, by decide⟩, ⟨63, 15, by decide⟩⟩

theorem witness_ScalarCountsAndMoves :
    (∃ (f : SdImm) (c : Word), f.sd ≠ 0 ∧ f.imm = c.extractLsb' 0 32) ∧
    ∃ (s : State) (x : Word), majOf x = 9 ∧ minOf x = 1 ∧ x.extractLsb' 40 6 ≠ 0 ∧ s.agenda = [.issue s.me.slot true] ∧ canIssue s ∧
      wordAt s s.me.pc = some x :=
  ⟨⟨⟨63, 0xFFFFFFFF⟩, 0xFFFFFFFFFFFFFFFF, by decide⟩,
    ⟨turnAt 0x12128100_00001234, 0x1212810000001234, by decide, by decide, by decide, rfl, turnAt_canIssue _, rfl⟩⟩

theorem witness_FpPatternsRoundToThemselves :
    (∃ f x, f ∈ [fp32, fp16, bf16] ∧ x < 2 ^ f.width ∧ (fpRead f false x).isNaN = false) ∧
    ∃ f x, f ∈ [fp32, fp16, bf16] ∧ x < 2 ^ f.width ∧ (fpRead f false x).isNaN = true :=
  ⟨⟨fp16, 0x7C00, by decide⟩, ⟨bf16, 0xFFFF, by decide⟩⟩

theorem witness_ScalarFpOperations : ∃ (s t u : State) (f g : S3),
    f.w = .w32 ∧ g.w ≠ .w32 ∧ (fpRead fp32 false ((getS s f.sa).toNat % 2 ^ 32)).isNaN = true ∧
    (fpRead fp32 false ((getS t f.sb).toNat % 2 ^ 32)).isNaN = true ∧ (fpRead fp32 false ((getS t f.sa).toNat % 2 ^ 32)).isNaN = false ∧
    (fpRead fp32 false ((getS u f.sa).toNat % 2 ^ 32)).isZero = true ∧ (fpRead fp32 false ((getS u f.sb).toNat % 2 ^ 32)).isZero = true :=
  ⟨regs [(4, 0x7FC00000)] base, regs [(5, 0x7F800001)] base, regs [(4, 0x80000000)] base, ⟨3, 4, 5, .w32⟩, ⟨3, 4, 5, .w64⟩, by decide⟩

theorem witness_ScalarFpOperations_converts : ∃ s t u v : State,
    (fpRead fp32 false ((getS s 4).toNat % 2 ^ 32)).isNaN = true ∧ fpRead fp32 false ((getS t 4).toNat % 2 ^ 32) = .inf true ∧
    fpRead fp32 false ((getS u 4).toNat % 2 ^ 32) = .fin false 0x800000 (-23) ∧
    (fpRead fp32 false ((getS v 4).toNat % 2 ^ 32)).isZero = true ∧ (0xFF000000 : Nat) < 2 ^ 32 :=
  ⟨regs [(4, 0x7FC00000)] base, regs [(4, 0xFF800000)] base, regs [(4, 0x3F800000)] base, regs [(4, 0x80000000)] base, by decide⟩

theorem witness_MisalignedScalarTraps : ∃ (s : State) (f : SI) (g : SamoF),
    (memAddr s f).toNat % (Width.bits f.w / 8) ≠ 0 ∧ (getS s g.sa).toNat % (if g.w32 then 4 else 8) ≠ 0 :=
  ⟨regs [(4, 0x4002)] base, ⟨3, 4, .w16, 1⟩, ⟨3, 4, 5, .block, false, false, true⟩, by decide⟩

set_option maxRecDepth 20000 in
/-- An access through the held translation leaves the state as it is. -/
theorem base_translates : Machine.translate (regs [(4, 0x4000)] base) (some 0) 0 0x4000 .atomic .scalar =
    (.ok (page 1), regs [(4, 0x4000)] base) := rfl

/-- The same with a WB page and a line in the scalar cache. -/
def cached : State := { regs [(4, 0x4000)] base with defer := false, tlb := [page 0], cache := [⟨0, 0x100, List.replicate 64 0xAB, false, false⟩] }
/-- Peer memory at 0x4000: a route to node 1 over port 0. -/
def farPage : State := { regs [(4, 0x4000)] base with tlb := [{ page 1 with frame := BitVec.ofNat 40 (2 ^ 37 + 2 ^ 27 + 4) }], routes := [(1, 1)]
                                                      ports := Vector.ofFn fun i => if i = 0 then { st := .up, pnode := 1 } else {} }

set_option maxRecDepth 20000 in
theorem witness_ScalarAccessesComplete : ∃ (s : State) (f : SI) (t : TlbEntry),
    (memAddr s f).toNat % (Width.bits f.w / 8) = 0 ∧ acquirePending s.me = false ∧
    Machine.translate s (some (slotCore s.me.slot)) s.me.ctx (memAddr s f).toNat .read .scalar = (.ok t, s) ∧
    Machine.translate s (some (slotCore s.me.slot)) s.me.ctx (memAddr s f).toNat .write .scalar = (.ok t, s) ∧
    lineHeld s (some s.me.slot) (t.pa (memAddr s f).toNat) 8 = false ∧ poisonedAt s (t.pa (memAddr s f).toNat) 8 = false ∧
    (∀ c ∈ s.cache, c.data.length = 64) ∧ (∀ g ∈ s.guests, g.data.length = 64) ∧ memWf s.mem = true ∧ t.cp = 0 ∧
    regionOf (t.pa (memAddr s f).toNat) = .hbm ∧ s.me.posted = [] ∧ s.defer = false ∧
    (s.cache.find? fun c => c.core == slotCore s.me.slot && c.line == lineOf (t.pa (memAddr s f).toNat)).isSome = true :=
  ⟨cached, ⟨3, 4, .w64, 56⟩, page 0, by decide, rfl, rfl, rfl, by decide, by decide, by decide, by decide, rfl, rfl, by decide, rfl, rfl,
    by decide⟩

set_option maxRecDepth 20000 in
/-- A turn that defers work, and a page of a peer. -/
theorem witness_ScalarAccessesComplete_deferred :
    Machine.translate (regs [(4, 0x4000)] base) (some 0) 0 0x4000 .read .scalar = (.ok (page 1), regs [(4, 0x4000)] base) ∧
    (regs [(4, 0x4000)] base).defer = true ∧ base.me.posted = [] ∧
    ∃ t, Machine.translate farPage (some 0) 0 0x4000 .read .scalar = (.ok t, farPage) ∧ regionOf (t.pa 0x4000) = .peer ∧
      lineHeld farPage (some 0) (t.pa 0x4000) 8 = false :=
  ⟨rfl, rfl, rfl, _, rfl, by decide, by decide⟩

/-- A store on its way, and a load from a peer that has been answered. -/
theorem witness_ScalarAccessesComplete_posted : ∃ (s t : State) (p q : Posted) (data : List Byte) (sd : BitVec 6) (sg : Bool),
    s.me.posted = [p] ∧ postedFree s s.me.slot p = true ∧ p.op = .store data ∧ p.answer = [] ∧ regionOf p.pa = .hbm ∧ memWf s.mem = true ∧
    t.me.posted = [q] ∧ postedFree t t.me.slot q = true ∧ q.op = .load sd sg ∧ q.req.isSome = true ∧ regionOf q.pa ≠ .hbm ∧
    q.answer.length = q.n ∧ q.handler = t.me.inHandler ∧ poisonedAt t q.pa q.n = false ∧ memWf t.mem = true :=
  let p : Posted := { onItsWay with op := .store [1], n := 1 }
  let q : Posted := { onItsWay with pa := 2 ^ 49 + 2 ^ 39 + 0x4000, req := some 5, answer := [1, 2, 3, 4, 5, 6, 7, 8] }
  ⟨{ base with me := { blk with posted := [p] } }, { base with me := { blk with posted := [q] } }, p, q, [1], 3, true,
    rfl, by decide, rfl, rfl, by decide, rfl, rfl, by decide, rfl, rfl, by decide, rfl, rfl, by decide, rfl⟩

theorem witness_SamoCompletes : ∃ (s : State) (f : SamoF) (t : TlbEntry),
    f.aq = false ∧ f.rl = true ∧ releaseDone s s.me f.scope = true ∧ (getS s f.sa).toNat % 8 = 0 ∧ acquirePending s.me = false ∧
    Machine.translate s (some (slotCore s.me.slot)) s.me.ctx (getS s f.sa).toNat .atomic .scalar = (.ok t, s) ∧
    lineHeld s (some s.me.slot) (t.pa (getS s f.sa).toNat) 8 = false ∧ poisonedAt s (t.pa (getS s f.sa).toNat) 8 = false ∧
    regionOf (t.pa (getS s f.sa).toNat) = .hbm ∧ memWf s.mem = true ∧ s.me.posted = [] ∧ s.defer = true :=
  ⟨regs [(4, 0x4000)] base, ⟨3, 4, 5, .block, false, true, false⟩, page 1, rfl, rfl, rfl, by decide, rfl, base_translates,
    by decide, by decide, by decide, rfl, rfl, rfl⟩

set_option maxRecDepth 20000 in
/-- A turn that performs at once, a page of a peer, and an answered SAMO on its way. -/
theorem witness_SamoCompletes_others : cached.defer = false ∧
    (∃ t, Machine.translate farPage (some 0) 0 0x4000 .atomic .scalar = (.ok t, farPage) ∧ regionOf (t.pa 0x4000) = .peer) ∧
    ∃ (s : State) (f : SamoF) (p : Posted) (b d : Nat), s.me.posted = [p] ∧ postedFree s s.me.slot p = true ∧ p.req.isSome = true ∧
      p.n = 8 ∧ f.w32 = false ∧ p.answer.length = p.n ∧ p.handler = s.me.inHandler ∧ poisonedAt s p.pa p.n = false ∧ memWf s.mem = true ∧
      f.aq = false ∧ p.op = .amo (.samoAdd f) b d :=
  let f : SamoF := ⟨3, 4, 5, .block, false, true, false⟩
  let p : Posted := { onItsWay with pa := 2 ^ 49 + 2 ^ 39 + 0x4000, op := .amo (.samoAdd f) 1 2, req := some 5, answer := [1, 2, 3, 4, 5, 6, 7, 8] }
  ⟨rfl, ⟨_, rfl, by decide⟩, { base with me := { blk with posted := [p] } }, f, p, 1, 2, rfl, by decide, rfl, rfl, rfl, rfl, rfl, by decide, rfl, rfl, rfl⟩

theorem witness_BranchesTransfer : ∃ s : State,
    (wordAt s 0x1000).isSome = true ∧ (wordAt s 0x1010).isSome = true ∧ wordAt s 0x1018 = none ∧ wordAt s 0x1004 = none ∧
    getS s 1 = 0x1010 ∧ (getS s 2).toNat % 8 ≠ 0 ∧ getS s 1 ≠ getS s 2 :=
  ⟨regs [(1, 0x1010), (2, 0x1004)] base, by decide⟩

theorem witness_LoopsFollowTheStack : ∃ s t u v w : State, s.me.st ≠ .stopping ∧
    (getS s 1).toInt ≤ 0 ∧ (wordAt s (s.me.pc + 8)).isSome = true ∧ wordAt s (s.me.pc + 0x100) = none ∧ (0 < (getS s 2).toInt ∧ s.me.loops = []) ∧
    (0 < (getS t 2).toInt ∧ 6 ≤ t.me.loops.length) ∧
    (∃ e, u.me.loops = [e] ∧ u.me.pc = e.start ∧ (e.index + 1).toNat < e.count.toNat ∧ (wordAt u u.me.pc).isSome = true) ∧
    (∃ e, v.me.loops = [e] ∧ v.me.pc = e.start ∧ e.count.toNat ≤ (e.index + 1).toNat) ∧
    (∃ e, w.me.loops = [e] ∧ w.me.pc = e.start ∧ (e.index + 1).toNat < e.count.toNat ∧ wordAt w w.me.pc = none) ∧
    (7 : BitVec 3).toNat > t.me.loops.length :=
  ⟨regs [(1, -1), (2, 1)] base, regs [(2, 1)] { base with me := { blk with loops := List.replicate 6 ⟨0x1000, 2, 0⟩ } },
    { base with me := { blk with loops := [⟨0x1000, 2, 0⟩] } }, { base with me := { blk with loops := [⟨0x1000, 2, 1⟩] } },
    { base with me := { blk with pc := 0x3000, loops := [⟨0x3000, 2, 0⟩] } },
    by decide, by decide, by decide, by decide, by decide, by decide, ⟨_, rfl, by decide⟩, ⟨_, rfl, by decide⟩, ⟨_, rfl, by decide⟩, by decide⟩

/-- A STOPPING block at an ENDL that goes back, with nothing in flight and with a store in flight. -/
theorem witness_LoopsFollowTheStack_stopping :
    let s : State := { base with me := { blk with st := .stopping, loops := [⟨0x1000, 2, 0⟩] } }
    s.me.st = .stopping ∧ (∃ e, s.me.loops = [e] ∧ s.me.pc + (0 : BitVec 32).signExtend 64 * 8 = e.start) ∧ (wordAt s s.me.pc).isSome = true ∧
    (∀ l ∈ s.icache, l.bad = none) ∧ drained s s.me = true ∧ drained s { s.me with posted := [onItsWay] } = false :=
  ⟨rfl, ⟨_, rfl, by decide⟩, by decide, by decide, by decide, by decide⟩

/-- A MAP in flight: lane work that LSTAT and VTYPE wait for. -/
def mapFlying : State := { base with me := { blk with flights := [{ id := 0, insn := 0, ins := .map ⟨2, 1, 0, 0, 1, false, 0, 0⟩ }] } }
/-- A load in flight that can still fault. -/
def loadFlying : State :=
  { base with me := { blk with flights := [{ id := 0, insn := 0, ins := .tld ⟨1, 2, 5, 0, .trunc, false, false, .block, 0, false, 0⟩, kind := .ldq, addr := 0x4000,
                                              shape := { rows := 1, cols := 1, type := 5, store := 2 }, lgs := [0] }] } }

/-- A load that has trapped at element 3. -/
def trapAt : TrapInfo := { cause := .bound, elem := some ⟨0, 3, 1, 0, 3⟩ }
def trappedLoad : Flight :=
  { id := 0, insn := 0, ins := .tld ⟨1, 2, 5, 0, .trunc, false, false, .block, 0, false, 0⟩, kind := .ldq, st := .trapped trapAt }

theorem witness_SystemRegisters : base.me.st ≠ .stopping ∧ laneWork base.me = false ∧ laneWork mapFlying.me = true ∧
    drained base { blk with st := .stopping } = true ∧ drained base { blk with st := .stopping, posted := [onItsWay] } = false := by decide

theorem witness_RegionsAndExit : exitWaits loadFlying = true ∧ exitWaits base = false ∧ base.me.inHandler = false ∧
    regionWaits loadFlying = true ∧ regionWaits base = false ∧ base.me.st ≠ .stopping ∧ (getCtx base base.me.ctx).finalStop = false := by decide

/-- A handler's EXIT that abandons a trapped load, and a STOPPING block's REGION with and without a store on its way. -/
theorem witness_RegionsAndExit_others :
    let s : State := { base with me := { handlerBlk with trapped := some 0, flights := [trappedLoad] } }
    let t : State := { base with me := { blk with st := .stopping } }
    let u : State := { base with me := { t.me with posted := [onItsWay] } }
    (exitWaits s = false ∧ s.me.inHandler = true ∧ s.me.flights.Pairwise (fun f g => f.id ≠ g.id) ∧ trappedLoad.isTrapped = true ∧ 0 ∈ abandoned s) ∧
    (regionWaits t = false ∧ drained t t.me = true) ∧ regionWaits u = false ∧ drained u u.me = false := by decide

theorem witness_TrapsTaken :
    (base.me.inHandler = false ∧ ∃ k, getKernel base base.me.kernel = some k ∧ k.handler ≠ []) ∧
    (∃ k, getKernel (turnAt 0) (turnAt 0).me.kernel = some k ∧ k.handler = []) ∧ inHandler.me.inHandler = true ∧
    Cause.illegal ∈ [Cause.illegal, .reservedField, .undefFuture] ∧
    Cause.trap ∉ [Cause.illegal, .reservedField, .undefFuture, .doubleUndef] :=
  ⟨⟨rfl, _, rfl, by decide⟩, ⟨_, rfl, rfl⟩, rfl, by decide, by decide⟩

theorem witness_EretReturns : base.me.inHandler = false ∧
    (inHandler.me.inHandler = true ∧ checksOpen inHandler Flight.inHandler = false ∧
      inHandler.me.preempt = false ∧ inHandler.me.trapped = none ∧ inHandler.me.trapRec.tcause.getLsbD 8 = false ∧
      ∀ f ∈ inHandler.me.flights, ∀ t, f.st ≠ .trapped t) ∧
    ∃ s : State, s.me.inHandler = true ∧ checksOpen s Flight.inHandler = false ∧ s.me.preempt = false ∧
      ∃ f t e, s.me.trapped = some f.id ∧ s.me.flights = [f] ∧ f.st = .trapped t ∧ t.elem = some e ∧
        s.me.trapRec.tcause.getLsbD 8 = true ∧ f.inPlace = false :=
  ⟨rfl, ⟨rfl, rfl, rfl, rfl, rfl, fun _ h => nomatch h⟩,
    { base with me := { handlerBlk with trapped := some 0, trapRec := { tcause := 0x1106 }, flights := [trappedLoad] } },
    rfl, rfl, rfl, trappedLoad, trapAt, _, rfl, rfl, rfl, rfl, by decide, rfl⟩

/-! ### Tiles -/

/-- A 2 × 2 I32 record, an FP32 one in the C-store, an FP16 and a BF16 one as operands, and further small geometries. -/
def gI : ShapeRec := { rows := 2, cols := 2, type := 5, store := 2, mrow := 8, mcol := 4, limit := 64 }
def gC : ShapeRec := { rows := 2, cols := 2, type := 10, store := 3, mrow := 8, mcol := 4, limit := 64 }
def gA : ShapeRec := { rows := 2, cols := 2, type := 8, store := 2 }
def gW : ShapeRec := { rows := 2, cols := 2, type := 9, store := 1 }
def gN : ShapeRec := { rows := 2, cols := 2, type := 6, store := 2 }
def gM : ShapeRec := { rows := 2, cols := 2, type := 15, store := 2 }
def gH : ShapeRec := { rows := 1, cols := 2, type := 6, store := 2 }
/-- The delta of a TOPT: layered BF16 with five planes (FMT 0xB0). -/
def gO : ShapeRec := { rows := 1, cols := 1, type := 10, store := 3, fmt := 0xB0 }
/-- A one-row destination, its operand, and an understory record of one 512-byte line at 0x4000. -/
def gV : ShapeRec := { rows := 1, cols := 2, type := 10, store := 3 }
def gB : ShapeRec := { rows := 1, cols := 2, type := 8, store := 2 }
def gU : ShapeRec := { rows := 2, cols := 2, type := 9, store := 0, mrow := 512, scale := 0x4000 }

def ver (id : Nat) (name : BitVec 5) (g : ShapeRec) : Version :=
  { id := id, name := name, geom := g, elems := List.replicate g.count 0, done := true }

def bound (b : Block) (l : List (BitVec 5 × BitVec 4 × Option Nat)) : Block :=
  l.foldl (fun b x => setName b x.1 (some { record := x.2.1, cur := x.2.2 })) b

/-- Names t1 to t12 over records h1 to h12, most with a version. -/
def tileBlk : Block :=
  let recs : List (BitVec 4 × ShapeRec) := [(1, gI), (2, gC), (3, gA), (4, gW), (5, gN), (6, gM), (7, gH), (8, gO), (9, gV), (10, gB), (11, gU)]
  let b := recs.foldl (fun b x => setShape b x.1 x.2) { blk with nextId := 20 }
  let b := setStream b 1 { base := 0x4000, stride := 16, count := 1, copy := gI, source := 1 }
  bound { b with versions := [ver 1 1 gI, ver 2 2 gC, ver 3 3 gA, ver 4 4 gW, ver 5 5 gN, ver 6 6 gM, ver 7 7 gH, ver 8 8 gO, ver 10 10 gB] }
    [(1, 1, some 1), (2, 2, some 2), (3, 3, some 3), (4, 4, some 4), (5, 5, some 5), (6, 6, some 6), (7, 7, some 7), (8, 8, some 8),
     (9, 9, none), (10, 10, some 10), (11, 11, none)]

/-- That block; s4 holds 0x4000, s5 a misaligned address; the kernel has the lane function of the worked example of R80. -/
def tiles : State :=
  regs [(4, 0x4000), (5, 0x4001)] { base with
    me := tileBlk, kernels := [{ kern [] [] with lanes := [0x0288E002, 0x028400F8, 0xA20020F8] }] }

theorem witness_RecordsNamesStreams :
    (∃ f x : ShapeField, x ≠ f) ∧ (∃ f : HField, f.field = .fill ∧ fillPending { blk with fillWait := [(0, 2, true)] } f.h = true ∧ blk.inHandler = false) ∧
    fillPending tiles.me 2 = false ∧ ∃ v ∈ tiles.me.versions, isCurrent tiles.me v = true ∧ v.name ≠ 2 :=
  ⟨⟨.mrow, .fill, by decide⟩, ⟨⟨2, 7, .fill⟩, by decide⟩, by decide, ver 1 1 gI, by decide⟩

theorem witness_CountersAndTags : ∃ s : State, s.me.st = .running ∧
    ¬((0 : BitVec 6) = 63 ∨ (s.me.flights.filter fun f => f.kind == .ldq).length ≤ (0 : BitVec 6).toNat) ∧
    ((1 : BitVec 6) = 63 ∨ (s.me.flights.filter fun f => f.kind == .ldq).length ≤ (1 : BitVec 6).toNat) ∧
    (∃ g : BitVec 6, (getS s 1).getLsbD g.toNat = true ∧ (s.me.flights.any fun f => f.tag == some g) = true ∧
      getS s 1 &&& s.me.tags = 0) ∧
    getS s 2 &&& s.me.tags ≠ 0 ∧ (getS s 2 &&& s.me.tags).getLsbD 6 = true ∧ ∀ k < 6, (getS s 2 &&& s.me.tags).getLsbD k = false :=
  ⟨regs [(1, 8), (2, 0x40)] { base with me := { blk with tags := 0x40, flights := [{ id := 0, insn := 0, ins := .nop, kind := .ldq, tag := some 3 }] } },
    rfl, by decide, by decide, ⟨3, by decide⟩, by decide, by decide, by decide⟩

theorem witness_RenameGivesAPendingVersion :
    (∃ id c, rename tiles tiles.me 1 gI [] = .ok id c) ∧ (∃ id c, rename tiles tiles.me 1 gI [1] = .ok id c) ∧
    nameOf tiles.me 1 = some ⟨1, some 1⟩ ∧ nameOf tiles.me 12 = none :=
  ⟨⟨_, _, rfl⟩, ⟨_, _, rfl⟩, by decide, by decide⟩

theorem witness_RenameGivesAPendingVersion_operands : ∃ g : ShapeRec, g.ok = true ∧ g.fmt = 0 ∧ g.type.toNat ∈ [1, 2, 3, 4, 5, 6, 8, 9, 10] ∧
    ((0x4000 : Word).toNat % (typeBits g.type / 8) = 0 ∧ g.mrow.toInt % 4 = 0 ∧ g.mcol.toInt % 4 = 0) ∧
    (0x4001 : Word).toNat % (typeBits g.type / 8) ≠ 0 := ⟨gI, by decide⟩

def ldAt (t : BitVec 5) (h : BitVec 4) (s : BitVec 6) : TmF := ⟨t, h, s, 0, .trunc, false, false, .block, 0, false, 0⟩
def idxAt (t : BitVec 5) (h : BitVec 4) (s : BitVec 6) (t2 : BitVec 5) : TmIdxF := ⟨t, h, s, 0, .trunc, false, false, .block, 0, false, t2, 0⟩

/-- A block of CB3 groups, for which `tiles` holds no table in the ring, and a state that holds one. -/
def gK : ShapeRec := { rows := 1, cols := 2, type := 9, store := 2, fmt := 12, mrow := 2, mcol := 1 }
def codebook : State := { tiles with cbs := [⟨0, 3, some (Vector.replicate 8 0), true, none⟩] }

theorem witness_TileLoadsIssue : issuesTile tiles ∧
    (checkOperands gI 1 0x4000 0 false false gI.type true = none ∧ checkTables tiles gI 1 = none ∧ ∃ id b, renameFor tiles 1 1 gI [] = .ok id b) ∧
    (checkOperands gK 1 0x4000 0 false false gK.type true = none ∧ checkTables codebook gK 1 = none ∧
      ∃ id b, renameFor codebook 1 1 gK [] = .ok id b) ∧
    (∃ t, checkOperands gI 1 0x4001 0 false false gI.type true = some t) ∧ (∃ t, checkTables tiles gK 1 = some t) ∧
    (checkIndexed tiles.me (idxAt 1 1 4 5) gI 0x4000 = none ∧ ∃ id b, renameFor tiles 1 1 gI [5] = .ok id b) ∧
    (∃ t, checkIndexed tiles.me (idxAt 1 1 5 5) gI 0x4001 = some t) ∧
    (checkIndexed tiles.me (idxAt 1 1 4 5) { gI with mcol := 8 } 0x4000 = none ∧ (8 : BitVec 40).toInt ≠ (typeBits gI.memType / 8 : Nat)) ∧
    (gI.mcol.toInt = (typeBits gI.memType / 8 : Nat) ∧ ∃ id b id2 b2, renameFor tiles 1 1 gI [6, 5, 1] = .ok id b ∧
      renameFor { tiles with me := b } 6 1 { rows := gI.rows, cols := gI.cols, type := 15, store := 2 } [6, 5, 1] = .ok id2 b2) :=
  ⟨⟨rfl, fun k => by cases k <;> rfl, rfl, rfl⟩, ⟨by decide, by decide, _, _, rfl⟩, ⟨by decide, by decide, _, _, rfl⟩, ⟨_, rfl⟩, ⟨_, rfl⟩,
    ⟨by decide, _, _, rfl⟩, ⟨_, rfl⟩, ⟨by decide, by decide⟩, ⟨by decide, _, _, _, _, rfl, rfl⟩⟩

theorem witness_TileLoadsIssue_streams :
    (streamOf tiles.me 0).consumed = (streamOf tiles.me 0).count.toNat ∧
    (let x := streamOf tiles.me 1
     x.consumed ≠ x.count.toNat ∧ checkOperands x.copy x.source.toNat 0x4000 0 false false x.copy.type true = none ∧
       checkTables tiles x.copy x.source.toNat = none ∧ ∃ id b, renameFor tiles 2 x.source x.copy [] = .ok id b) ∧
    (let x : Stream := { base := 0x4001, stride := 16, count := 1, copy := gI, source := 1 }
     x.consumed ≠ x.count.toNat ∧ ∃ t, checkOperands x.copy x.source.toNat 0x4001 0 false false x.copy.type true = some t) ∧
    checkOperands gK 1 0x4000 0 false false gK.type true = none ∧ (checkTables tiles gK 1).isSome = true ∧ checkTables codebook gK 1 = none :=
  ⟨by decide, ⟨by decide, by decide, by decide, _, _, rfl⟩, ⟨by decide, _, rfl⟩, by decide, by decide, by decide⟩

theorem witness_TileStoresIssue :
    (checkOperands gI 1 0x4000 0 false true gI.type true = none ∧ tileMatches tiles.me 1 gI 1 = none) ∧
    (∃ t, checkOperands gI 1 0x4001 0 false true gI.type true = some t) ∧ (∃ t, tileMatches tiles.me 2 gI 1 = some t) ∧
    checkTopt tiles.me ⟨8, 8, 4, 5, .trunc, false, false, .block, 0, false, 0⟩ gO 0x4000 = none ∧
    (∃ t, checkTopt tiles.me ⟨8, 8, 4, 0, .trunc, false, false, .block, 0, false, 0⟩ gO 0x4000 = some t) ∧
    checkIndexed tiles.me (idxAt 1 1 4 5) gI 0x4000 true = none ∧ (∃ t, checkIndexed tiles.me (idxAt 1 1 5 5) gI 0x4001 true = some t) ∧
    ringTaken tiles = false ∧ (getS tiles 4).toNat % 16 = 0 ∧ (getS tiles 5).toNat % 16 ≠ 0 ∧ copiesInFlight tiles < 256 ∧ tagCount tiles.me 63 = 0 :=
  ⟨by decide, ⟨_, rfl⟩, ⟨_, rfl⟩, by decide, ⟨_, rfl⟩, by decide, ⟨_, rfl⟩, by decide, by decide, by decide, by decide, by decide⟩

/-- A ring of four tables of the block, none of which a load in flight frees, and one of which two are freed. -/
theorem witness_TileStoresIssue_ring :
    let t : CbTable := ⟨0, 3, some (Vector.replicate 8 0), true, none⟩
    let held := List.replicate 4 t
    let freed := List.replicate 2 t ++ List.replicate 2 { t with by_ := some 9 }
    (4 - held.length + (held.filter fun t => t.by_.isSome).length < 1) ∧
    (2 ≤ 4 - freed.length + (freed.filter fun t => t.by_.isSome).length ∧ 4 < 2 + freed.length ∧ freed.length ≤ 4) := by decide

/-- A load and a store of one element in flight on the held page. -/
def g1 : ShapeRec := { rows := 1, cols := 1, type := 5, store := 2, limit := 64 }
def loading : Flight := { flight (.tld (ldAt 1 1 4)) 0x4000 g1 1 .ldq with dst := some 1, lgs := [0] }
def storing : Flight := { flight (.tst (ldAt 1 1 4)) 0x4000 g1 1 .stq with ta := some 1, lgs := [0] }
def performing (f : Flight) : State := { base with me := { blk with versions := [ver 1 1 g1], flights := [f] } }

/-- The one piece of the held page at an address, and a load of a plain record that reads it, whatever the load has pinned. -/
def piece (va n : Nat) : Seg := ⟨va, va, n, 1, false, false, false, page 1⟩
/-- The same load with an index tile t2, whose elements are all 0, that sets FILL. -/
def gathering : Flight :=
  { flight (.tgthFull (idxAt 1 1 4 2)) 0x4000 g1 1 .ldq with dst := some 1, tb := some 2, lgs := [0] }
def gatherState : State :=
  { base with me := { blk with versions := [ver 1 1 g1, ver 2 2 { gN with rows := 1, cols := 1 }], flights := [gathering], fillWait := [(0, 1, true)] } }

set_option maxRecDepth 20000 in
/-- Reading that piece through the held page, whatever pins of it the load has. -/
theorem performing_reads (s : State) (f : Flight) (h : s = performing loading ∨ s = gatherState) :
    plainReads s f 4 [0] (fun _ => 0x4000) (fun _ => piece 0x4000 4) := by
  intro e _
  have read : ∀ ps : List (Nat × TlbEntry), (∀ p ∈ ps, p.2 = page 1) →
      accessPages s s.me [(0x4000, 4)] .read .tile (some { f with pins := ps }) = (.ok [piece 0x4000 4], s) := by
    intro ps hp
    cases ps with
    | nil => rcases h with rfl | rfl <;> rfl
    | cons p ps =>
      obtain ⟨k, u⟩ := p
      obtain rfl : u = page 1 := hp _ List.mem_cons_self
      simp only [accessPages, List.map_cons]
      rcases h with rfl | rfl <;> rfl
  have free : lineHeld s (some s.me.slot) 0x4000 4 = false ∧ poisonedAt s 0x4000 4 = false := by rcases h with rfl | rfl <;> decide
  exact ⟨(by decide : 0x4000 + 4 ≤ 2 ^ 64), rfl, rfl, (by decide : regionOf 0x4000 = .hbm), fun i _ => rfl, free.1, free.2, fun ps hp =>
    read ps fun p m => (hp p m).elim fun _ x => x.2⟩

theorem witness_LoadFillsElements : ∀ p ∈ [(performing loading, loading), (gatherState, gathering)], ∃ v : Version,
    let (s, f) := p
    let l := layoutOf s.me f []
    Instr.aqBit f.ins = false ∧ findFlight s.me f.id = some f ∧ f.dst = some v.id ∧ findVersion s.me v.id = some v ∧
    (∀ x ∈ s.me.versions, x.poison = []) ∧ f.shape.memType.toNat ∈ [1, 2, 3, 4, 5, 6, 8, 9, 10] ∧ f.shape.type ≠ 11 ∧
    (∀ e ∈ List.range f.shape.count, l.outOfBounds e = false ∧ l.addr e = 0x4000) ∧ f.elg = Vector.replicate 8 0 ∧ f.skips = [] ∧ f.first = none ∧
    f.pins = [] ∧ (∀ w ∈ s.me.streams.toList, w.prefetched = []) ∧ v.elems.length = f.shape.count ∧ s.cbs = [] ∧ s.faults = [] ∧ s.held = [] ∧
    (∀ x ∈ f.lgs, x < 8) ∧ f.lgs.Nodup ∧ f.lgs ≠ [] ∧ typeBits f.shape.memType / 8 = 4 ∧ List.range f.shape.count = [0] := by
  intro p hp
  refine ⟨ver 1 1 g1, ?_⟩
  revert p
  decide
theorem witness_LoadFillsElements_fill : (gathering.id, gathering.record.extractLsb' 0 4, true) ∈ gatherState.me.fillWait := by decide

/-- The same store as a scatter through the index tile t2. -/
def scattering : Flight :=
  { flight (.tsct (idxAt 1 1 4 2)) 0x4000 g1 1 .stq with ta := some 1, tb := some 2, lgs := [0] }
def scatterState : State :=
  { base with me := { blk with versions := [ver 1 1 g1, ver 2 2 { gN with rows := 1, cols := 1 }], flights := [scattering] } }

set_option maxRecDepth 20000 in
theorem witness_StoreWritesItsBytes : (∀ p ∈ [(performing storing, storing), (scatterState, scattering)], ∃ v : Version,
    let (s, f) := p
    let l := layoutOf s.me f []
    Instr.aqBit f.ins = false ∧ s.me.flights = [f] ∧ f.ta = some v.id ∧ findVersion s.me v.id = some v ∧
    (∀ x ∈ s.me.versions, x.poison = []) ∧ f.shape.rows = 1 ∧ f.shape.cols = 1 ∧ f.shape.memType.toNat ∈ [1, 2, 3, 4, 5, 6, 8, 9, 10] ∧
    l.outOfBounds 0 = false ∧ f.elg = Vector.replicate 8 0 ∧ f.skips = [] ∧ f.started = false ∧ f.lgs = [0] ∧ f.pins = [] ∧ l.addr 0 = 0x4000 ∧
    s.faults = [] ∧ s.held = [] ∧ typeBits f.shape.memType / 8 = 4 ∧ lineHeld s (some s.me.slot) (piece 0x4000 4).pa 4 = false ∧
    memWf s.mem = true) ∧
    accessPages (performing storing) (performing storing).me [(0x4000, 4)] .write .tile (some storing) = (.ok [piece 0x4000 4], performing storing) ∧
    accessPages scatterState scatterState.me [(0x4000, 4)] .write .tile (some scattering) = (.ok [piece 0x4000 4], scatterState) := by
  refine ⟨fun p hp => ⟨ver 1 1 g1, ?_⟩, rfl, rfl⟩
  revert p
  decide

/-! A gather with a companion, a TOPT of five planes, a TCB and a BCOPY, each alone in flight on the held page. -/

def alone (f : Flight) (vs : List Version) : State := { base with me := { blk with versions := vs, flights := [f] } }
def gather : Flight := { flight (.tgth (idxAt 1 1 4 2)) 0x4000 g1 1 .ldq with dst := some 1, dst2 := some 3, tb := some 2, lgs := [0] }
def gathers : State :=
  let s := alone gather [ver 1 1 g1, ver 2 2 { gN with rows := 1, cols := 1 }, ver 3 3 { gM with rows := 1, cols := 1 }]
  { s with me := { s.me with fillWait := [(0, 1, true)] } }
def fivePlanes : List Plane := (List.range 5).map fun k => ⟨0x4000 + 64 * k, 0, 0⟩
def opting : Flight :=
  { flight (.topt ⟨8, 8, 4, 5, .trunc, false, false, .block, 0, false, 0⟩) 0x4400 gO 8 .stq with
    ta := some 8, lgs := [0], planes := some fivePlanes }
def opts : State := alone opting [{ ver 8 8 gO with elems := [0x3F800000] }]
def copying : Flight := { flight (.bcopy ⟨5, 4, 8, false, 0⟩) 0x4100 {} 0 .cpq with addr2 := 0x4000 }
def copies : State := alone copying []
def tabling : Flight := flight (.tcb ⟨4, 2, false, 0⟩) 0x4000 {} 0 .cpq
def tables : State := { alone tabling [] with cbs := List.replicate 2 ⟨0, 0, none, false, none⟩ }

/-- The field of each plane of that TOPT's element. -/
def fiveFields : List (Nat × Nat) := [(0x4000, 1), (0x4040, 1), (0x4080, 1), (0x40C0, 1), (0x4100, 2)]

set_option maxRecDepth 30000 in
theorem witness_TileMemoryMoves :
    (∀ p ∈ [(gathers, gather), (opts, opting), (copies, copying), (tables, tabling)], p.1.me.flights = [p.2] ∧ p.1.faults = [] ∧ p.1.held = [] ∧
      p.2.pins = [] ∧ p.2.skips = [] ∧ Instr.aqBit p.2.ins = false ∧ memWf p.1.mem = true ∧ ∀ x ∈ p.1.me.versions, x.poison = []) ∧
    (gather.shape.type ≠ 11 ∧ gather.shape.memType.toNat ∈ [1, 2, 3, 4, 5, 6, 8, 9, 10] ∧
      (gather.id, gather.record.extractLsb' 0 4, true) ∈ gathers.me.fillWait ∧ outstanding gathers gather = [0] ∧
      (layoutOf gathers.me gather []).outOfBounds 0 = false ∧ (layoutOf gathers.me gather []).addr 0 = 0x4000) ∧
    (opting.shape.memType = 16 ∧ opting.shape.rows = 1 ∧ opting.shape.cols = 1 ∧ opting.lgs = [0] ∧
      (layoutOf opts.me opting fivePlanes).ranges 5 0 = fiveFields) ∧
    (copying.elg = Vector.replicate 8 0 ∧ ringTaken tables = false ∧
      (tables.cbs.filter fun t => t.slot == tables.me.slot && t.tcb == tabling.id).length = 2) := by decide

set_option maxRecDepth 30000 in
/-- Their accesses: each one piece of the held page, in memory that is not held, not poisoned and not a guest. -/
theorem witness_TileMemoryMoves_accesses :
    accessPages gathers gathers.me [(0x4000, 4)] .read .tile (some gather) = (.ok [piece 0x4000 4], gathers) ∧
    accessPages opts opts.me fiveFields .read .tile (some opting) = (.ok (fiveFields.map fun r => piece r.1 r.2), opts) ∧
    accessRanges tables [(0x4000, 32)] .read .copy true (some tabling) = (.ok [piece 0x4000 32], tables) ∧
    accessRanges copies [(0x4000, 8)] .read .copy false (some copying) = (.ok [piece 0x4000 8], copies) ∧
    accessRanges copies [(0x4100, 8)] .write .copy false (some copying) = (.ok [piece 0x4100 8], copies) ∧
    segsStop opts opts.me (fiveFields.map fun r => piece r.1 r.2) true (some opting) = none := by
  refine ⟨rfl, rfl, rfl, rfl, rfl, by decide⟩

theorem witness_TileMemoryMoves_bytes : viaBytes copies [piece 0x4000 8] 0x4000 8 0x4000 := by
  intro i hi
  refine ⟨1, ?_, rfl⟩
  revert i
  decide

/-! ### Tile compute and sparse tiles -/

/-- The page homed in an understory: UL, and NS off. -/
def ulTiles : State := { tiles with tlb := [{ page 0 with ul := true }] }

set_option maxRecDepth 20000 in
theorem witness_MatrixInstructionsIssue :
    (∃ a w v, current tiles.me 3 = some a ∧ current tiles.me 4 = some w ∧ current tiles.me 2 = some v ∧ sameTile v.geom (destGeom tiles.me 2) = true ∧
      (nameOf tiles.me 2).isSome = true ∧ (destGeom tiles.me 2).ok = true ∧ (destGeom tiles.me 2).store = 3 ∧ (destGeom tiles.me 2).type = 10 ∧
      a.geom.store = 2 ∧ a.geom.type.toNat ∈ [8, 9] ∧ a.geom.rows = (destGeom tiles.me 2).rows ∧ w.geom.store = 1 ∧
      w.geom.type.toNat ∈ [8, 9, 11] ∧ w.geom.rows = a.geom.cols ∧ w.geom.cols = (destGeom tiles.me 2).cols ∧ accInPlace tiles 2 v = true) ∧
    (∃ a, current tiles.me 7 = some a ∧ isHandle a.geom = true) ∧ (destGeom tiles.me 9).rows = 1 ∧ (destGeom tiles.me 9).ok = true ∧
    (∃ a, current tiles.me 10 = some a ∧ isUnderstory tiles.me 11 = true ∧ a.geom.rows = 1 ∧
      checkRegionRec (shapeOf tiles.me (recordOf tiles.me 11)) (recordOf tiles.me 11) a.geom.cols.toNat (destGeom tiles.me 9).cols.toNat = none) ∧
    (∃ l k, regionCheck ulTiles gU = (.ok l k, ulTiles)) ∧ issuesTile ulTiles ∧
    (∃ va k r l e s1, regionCheck { tiles with tlb := [] } gU = (.stop (.fault va k r l e), s1)) ∧ (∃ t s1, regionCheck tiles gU = (.trap t, s1)) ∧ current tiles.me 11 = none :=
  ⟨⟨ver 3 3 gA, ver 4 4 gW, ver 2 2 gC, by decide⟩, ⟨ver 7 7 gH, by decide⟩, by decide, by decide, ⟨ver 10 10 gB, by decide⟩,
    ⟨_, _, rfl⟩, ⟨rfl, fun k => by cases k <;> rfl, rfl, rfl⟩,
    ⟨_, _, _, _, _, _, rfl⟩, ⟨_, _, rfl⟩, by decide⟩

set_option maxRecDepth 20000 in
/-- The understory form where the region's page faults: Rename finds room, and the instruction is the last in flight. -/
theorem witness_MatrixInstructionsIssue_fault : ∃ (w : StopWhy) (s1 : State) (id : Nat) (b : Block) (x : Flight),
    let fl := { cflight (.mmv ⟨9, 10, 11, false⟩) with ta := some 10, shape := gU, record := 11 }
    regionCheck { tiles with tlb := [] } gU = (.stop w, s1) ∧ s1.me = tiles.me ∧ s1.held = [] ∧ issuesTile s1 ∧
    rename s1 s1.me 9 (destGeom tiles.me 9) fl.reads = .ok id b ∧ (inFlight s1 b { fl with dst := some id }).me.flights.getLast? = some x :=
  ⟨_, _, _, _, _, rfl, rfl, rfl, ⟨rfl, fun k => by cases k <;> rfl, rfl, rfl⟩, rfl, rfl⟩

def redAt (pf : Bool) : RedF := ⟨1, 5, 0, .add, false, pf, 0⟩

/-- Names whose records suit REDUCE and MAP: t1 is 2 × 1 N32, t5 the 2 × 2 N32 source. -/
def reducing : State := { tiles with me := setShape tiles.me 1 { rows := 2, cols := 1, type := 6, store := 2 } }

theorem witness_VectorInstructionsIssue :
    (nameOf tiles.me 1).isSome = true ∧ (destGeom tiles.me 1).ok = true ∧ ((destGeom tiles.me 1).type ≠ 11) ∧
    (∃ a, current tiles.me 5 = some a ∧ inAC (destGeom tiles.me 1) = true ∧ inAC a.geom = true ∧ a.geom.count = (destGeom tiles.me 1).count ∧
      (numOf a.geom.type).isSome = true ∧ (numOf (destGeom tiles.me 1).type).isSome = true) ∧
    (∃ a m, current tiles.me 1 = some a ∧ opAllowed a.geom.type .add = true ∧ accType a.geom.type = some (destGeom tiles.me 1).type ∧
      a.geom.rows = (destGeom tiles.me 1).rows ∧ current tiles.me 6 = some m ∧ m.geom.type = 15 ∧ m.geom.count = a.geom.count) ∧
    checkReduce reducing.me (redAt false) (geomOf reducing.me 5).type = none ∧
    (∃ h code, fnAt reducing 0 = some (h, code) ∧ typeAfter (laneType h).type code = 5 ∧ laneFits reducing 0 h = true ∧
      checkMap tiles.me ⟨1, 5, 0, 0, 1, false, 0, 0⟩ h code = none ∧
      laneFits { tiles with banks := [(bankId 3 0 0, { st := .offline, offline := true }), (bankId 3 0 1, { st := .offline, offline := true })] } 0 h = false) ∧
    fnAt tiles 1 = none ∧ current tiles.me 11 = none :=
  ⟨by decide, by decide, by decide, ⟨ver 5 5 gN, by decide⟩, ⟨ver 1 1 gI, ver 6 6 gM, by decide⟩, by decide, ⟨_, _, rfl, by decide, by decide, by decide, by decide⟩,
    by decide, by decide⟩

/-- A flight over versions that exist. -/
def computing (i : Instr) (ta : Option Nat) (g : ShapeRec) : Flight × State :=
  let f : Flight := { cflight i with dst := some 30, ta := ta }
  (f, { tiles with me := { tiles.me with versions := { ver 30 12 g with done := false } :: tiles.me.versions, flights := [f] } })

def gS : ShapeRec := { rows := 2, cols := 2, type := 11, store := 1 }

theorem witness_FillMoveConvert :
    (∀ g ∈ [gI, gN, gC, gM, gA, gW, gS, { gI with type := 1 }, { gI with type := 2 }, { gI with type := 3 }, { gI with type := 4 }],
      let p := computing (.tfill 12 5) none g
      findFlight p.2.me p.1.id = some p.1 ∧ p.1.dst = some 30 ∧ (findVersion p.2.me 30).isSome = true ∧ p.2.faults = [] ∧ p.2.held = []) ∧
    (∀ p ∈ [computing (.tmov 12 1) (some 1) gI, computing (.tcvt 12 5) (some 5) gI],
      findFlight p.2.me p.1.id = some p.1 ∧ p.1.dst = some 30 ∧ (findVersion p.2.me 30).isSome = true ∧ p.2.faults = [] ∧ p.2.held = []) ∧
    findVersion (computing (.tmov 12 1) (some 1) gI).2.me 1 = some (ver 1 1 gI) ∧ (ver 1 1 gI).poison = [] ∧
    findVersion (computing (.tcvt 12 5) (some 5) gI).2.me 5 = some (ver 5 5 gN) ∧ (ver 5 5 gN).poison = [] := by decide

/-- Matrix instructions alone in flight: dense, on an understory region, and on structures that are already read. -/
def multiplying : Flight := { cflight (.mma ⟨12, 3, 4, false⟩) with dst := some 30, ta := some 3, tb := some 4 }
def multiplies : State := alone multiplying [ver 3 3 gA, ver 4 4 gW, { ver 30 12 gC with done := false }]
def rowing : Flight := { cflight (.mmv ⟨9, 10, 11, false⟩) with dst := some 30, ta := some 10, shape := gU, record := 11 }
def rows : State := { alone rowing [ver 10 10 gB, { ver 30 9 gV with done := false }] with tlb := [{ page 0 with ul := true }] }
def read1 : SparseRead := { rows := 2, cols := 2, entries := [(0, 0, 1)], base := 0x4000, valt := 9, vpc := 0, vpm := false, count := 1 }
def sparsing : Flight := { cflight (.mmas ⟨12, 7, 4, false⟩) with dst := some 30, ta := some 7, tb := some 4, structs := [read1] }
def sparses : State := alone sparsing [ver 4 4 gW, { ver 30 12 gC with done := false }]
def pairing : Flight := { cflight (.mmss ⟨12, 7, 7, false⟩) with dst := some 30, ta := some 7, tb := some 7, structs := [read1, read1] }
def pairs : State := alone pairing [{ ver 30 12 gC with done := false }]

theorem witness_MatrixInstructionsWrite :
    (∀ p ∈ [(multiplies, multiplying), (rows, rowing), (sparses, sparsing), (pairs, pairing)], p.1.me.flights = [p.2] ∧ p.2.dst = some 30 ∧
      (findVersion p.1.me 30).isSome = true ∧ p.1.faults = [] ∧ p.1.held = [] ∧ p.1.poison = [] ∧ ∀ x ∈ p.1.me.versions, x.poison = []) ∧
    (findVersion multiplies.me 3 = some (ver 3 3 gA) ∧ findVersion multiplies.me 4 = some (ver 4 4 gW) ∧ gA.type.toNat ∈ [8, 9] ∧
      gA.rows = gC.rows ∧ gW.rows = gA.cols ∧ gW.cols = gC.cols ∧ (ver 3 3 gA).elems.length = gA.count ∧
      (ver 4 4 gW).elems.length = gW.count ∧ 1 ≤ gC.rows.toNat ∧ 1 ≤ gC.cols.toNat ∧ 1 ≤ gA.cols.toNat) ∧
    (rowing.tb = none ∧ findVersion rows.me 10 = some (ver 10 10 gB) ∧ gB.type.toNat ∈ [8, 9] ∧ gV.rows.toNat = 1 ∧ gU.cols = gV.cols ∧
      (ver 10 10 gB).elems.length = gU.rows.toNat) ∧
    (sparsing.trail = none ∧ findVersion sparses.me 4 = some (ver 4 4 gW) ∧ read1.rows = gC.rows.toNat ∧ read1.cols = gW.rows.toNat ∧
      (∀ e ∈ read1.entries, e.2.1 < read1.rows ∧ e.2.2 < read1.cols) ∧
      pathOf { sparses.me with flights := [{ sparsing with dense := 0 }] } read1.rows read1.cols read1.entries ≠ .dense) := by decide

set_option maxRecDepth 20000 in
theorem witness_MatrixInstructionsWrite_reads :
    (∃ region scale, regionCheck rows gU (some rowing) = (.ok region scale, rows)) ∧
    (∀ z ∈ [0, denseSize read1.rows read1.cols], ∃ v,
      let u : State := { sparses with me := { sparses.me with flights := [{ sparsing with dense := z }] } }
      readValues u { sparsing with dense := z } read1.src read1.count [0] = (.ok v, u) ∧ v.length = 1) ∧
    ∃ v, readValues pairs pairing read1.src read1.count [0] = (.ok v, pairs) ∧ v.length = 1 := by
  refine ⟨⟨_, _, rfl⟩, fun z hz => ?_, ⟨_, rfl, rfl⟩⟩
  simp only [List.mem_cons, List.not_mem_nil, or_false] at hz
  rcases hz with rfl | rfl
  · exact ⟨_, rfl, rfl⟩
  · exact ⟨_, rfl, rfl⟩

/-- TSCAN, REDUCE and MAP with their source, and the MAP at the end of its last strip. -/
def scanning : Flight × State := computing (.tscan ⟨12, 5, 0, .add, false⟩) (some 5) gN
def reduces : Flight × State := computing (.reduce ⟨12, 5, 0, .add, false, false, 0⟩) (some 5) { gN with cols := 1 }
def starting : Flight × State :=
  let p := computing (.map ⟨12, 5, 0, 0, 1, false, 0, 0⟩) (some 5) gI
  (p.1, { p.2 with laneFns := [⟨0, 7, 0, true⟩] })
def ending : State :=
  { starting.2 with lane := (strip 5 [0, 0, 0, 0] [0, 0, 0, 0]).lane.map fun j => { j with strip := { j.strip with ret := some 2 } } }

theorem witness_VectorInstructionsWrite :
    (∀ p ∈ [scanning, reduces, starting, (starting.1, ending)], findFlight p.2.me p.1.id = some p.1 ∧ p.1.dst = some 30 ∧
      (findVersion p.2.me 30).isSome = true ∧ p.2.faults = [] ∧ p.2.held = [] ∧ p.2.poison = [] ∧ ∀ x ∈ p.2.me.versions, x.poison = []) ∧
    (findVersion scanning.2.me 5 = some (ver 5 5 gN) ∧ findVersion reduces.2.me 5 = some (ver 5 5 gN) ∧
      (ver 5 5 gN).elems.length = gN.count ∧ (maskOf scanning.2.me none gN.count).length = gN.count ∧ 1 ≤ gN.cols.toNat) ∧
    (laneOf starting.2 0 = none ∧ lanePresent starting.2 0 7 0 = true ∧
      ∃ h code, (getKernel starting.2 7).bind (fun k => laneFn k 0) = some (h, code) ∧ laneFits starting.2 0 h = true) ∧
    ∃ j, ending.lane = some j ∧ j.slot = ending.me.slot ∧ j.flight = starting.1.id ∧ j.strip.ret.isSome = true ∧ j.todo = [] ∧ j.bad = [] :=
  ⟨by decide, by decide, ⟨by decide, by decide, _, _, rfl, by decide⟩, _, rfl, by decide⟩

/-- The clauses of MAP with SEG: a MAP of two inputs per output. -/
theorem witness_VectorInstructionsWrite_seg : ∃ (c : MapF) (v : Version), c.seg ≠ 0 ∧ (0 : Nat) ≤ c.seg.toNat ∧ v ∈ starting.2.me.versions :=
  ⟨⟨12, 5, 0, 0, 1, false, 1, 0⟩, ver 5 5 gN, by decide⟩

theorem witness_TrailInstructions : (getS tiles 4).toNat % 64 = 0 ∧ (getS tiles 5).toNat % 64 ≠ 0 ∧ (getS tiles 5).toNat % 16 ≠ 0 ∧
    (∃ v, current tiles.me 7 = some v ∧ isHandle v.geom = true) ∧ (∃ v, current tiles.me 1 = some v ∧ isHandle v.geom = false) :=
  ⟨by decide, by decide, by decide, ⟨ver 7 7 gH, by decide⟩, ⟨ver 1 1 gI, by decide⟩⟩

/-! TPAT: on a page that is not there, on a descriptor of zeros, which fails the checks, and on one of one row and one entry whose pointers
and columns stand in the same page. -/
def patting : Flight := { cflight (.tpat 4) with addr := 0x4000 }
def pats : State := alone patting []
/-- A descriptor at 0x4000: ptr at 0x4080, idx at 0x40C0, val at 0x4100, 1 row, 256 * c columns, FP16 values, generation 1. -/
def patsOne (c : Byte) : State := { pats with mem :=
  [(0x4000, 1), (0x4008, 0x80), (0x4009, 0x40), (0x4010, 0xC0), (0x4011, 0x40), (0x4018, 0x00), (0x4019, 0x41),
   (0x4020, 1), (0x4023, c), (0x4024, 8), (0x4084, 1)] }

set_option maxRecDepth 40000 in
theorem witness_TrailInstructions_pattern :
    patMeets { pats with tlb := [] } patting 0x4000 64 = .ends ∧
    (∃ g l, accessRanges pats [(0x4000, 64)] .read .tile true (some patting) = (.ok (g :: l), pats) ∧ (g :: l).any Seg.ns = false ∧
      (descOf 0x4000 (homeNat pats g.pa 64)).valt ≠ 16) ∧
    (match readDesc pats 0x4000 patting with | (.error _, _) => true | (.ok _, _) => false) = true ∧
    ∀ p ∈ [((4 : Byte), SparsePath.outer), (1, .trail)],
      match readDesc (patsOne p.1) 0x4000 patting with
      | (.error _, _) => False
      | (.ok d, s1) => (lookupTrail s1 0 0 d).isSome = false ∧ patMeets s1 patting d.ptr (4 * (d.rows + 1)) = .clear ∧
        match readX false s1 patting d.ptr (4 * (d.rows + 1)) with
        | (.error _, _) => False
        | (.ok pb, _) => patMeets s1 patting d.idx (2 * entryCount ⟨0, 0, []⟩ (intsOf 4 (d.rows + 1) pb)) = .clear ∧
          match readRaw true s1 patting d ⟨0, 0, []⟩ with
          | (.error _, _) => False
          | (.ok raw, s3) =>
            match entriesOf s3 d ⟨0, 0, []⟩ raw with
            | (.error _, _) => False
            | (.ok es, s4) => pathOf s4.me d.rows d.cols es = p.2 := by
  refine ⟨rfl, ⟨_, _, rfl, rfl, by decide⟩, by decide, fun p hp => ?_⟩
  simp only [List.mem_cons, List.not_mem_nil, or_false] at hp
  rcases hp with rfl | rfl
  · exact ⟨rfl, rfl, rfl, rfl⟩
  · exact ⟨rfl, rfl, rfl, rfl⟩

/-- Pointers that start at 0 and never fall, with a column below COLS, and pointers that start at 1. -/
theorem witness_TrailInstructions_entries : ∃ (d : Desc) (r q : RawStructure), d.cols = 4 ∧ r.ptr.length = d.rows + 1 ∧ q.ptr.length = d.rows + 1 ∧
    (r.ptr.getD 0 0 = 0 ∧ (∀ m < d.rows, r.ptr.getD m 0 ≤ r.ptr.getD (m + 1) 0) ∧
      ∀ k < (r.ptr.getD d.rows 0).toNat, 0 ≤ r.idx.getD k 0 ∧ r.idx.getD k 0 < d.cols) ∧ q.ptr.getD 0 0 ≠ 0 :=
  ⟨{ descOf 0 0 with rows := 1, cols := 4 }, ⟨[0, 1], [3], 1, 1⟩, ⟨[1, 1], [], 1, 1⟩, by decide⟩

def amoAt (t : BitVec 5) (h : BitVec 4) (s : BitVec 6) : TmAmoF := ⟨t, h, s, 0, false, false, .block, 5, 0⟩

theorem witness_TileAtomicsIssue :
    (checkAmoTile tiles.me (amoAt 1 1 4) gI true = none ∧ checkAmoOperands tiles.me (amoAt 1 1 4) gI 0x4000 true = none ∧
      checkAmoOperands tiles.me (amoAt 1 1 4) gI 0x4000 false = none ∧ ∃ id b, renameFor tiles 1 1 gI [1, 5] = .ok id b) ∧
    (∃ t, checkAmoTile tiles.me (amoAt 11 1 4) gI false = some t) ∧ (∃ t, checkAmoOperands tiles.me (amoAt 1 1 5) gI 0x4001 true = some t) ∧
    (∃ v, current tiles.me 2 = some v ∧ v.geom.type = 10) ∧ (gI.store = 2 ∨ gI.store = 3) ∧ gI.type = gI.memType ∧
    (checkAmoOperands tiles.me (amoAt 1 1 4) { gI with fmt := 6 } 0x4000 true = none ∧ ({ gI with fmt := 6 } : ShapeRec).memType ≠ gI.type) ∧
    ∃ id b, renameFor tiles 6 1 { rows := gI.rows, cols := gI.cols, type := 15, store := 2 } [1, 5] = .ok id b :=
  ⟨⟨by decide, by decide, by decide, _, _, rfl⟩, ⟨_, rfl⟩, ⟨_, rfl⟩, ⟨ver 2 2 gC, by decide⟩, by decide, by decide, by decide, _, _, rfl⟩

/-- Records that no new version of t can have, and failing checks of TSCC. -/
theorem witness_TileAtomicsIssue_traps :
    (let g : ShapeRec := { gI with store := 1 }
     checkAmoOperands tiles.me (amoAt 1 1 4) g 0x4000 true = none ∧ ¬((g.store = 2 ∨ g.store = 3) ∧ g.type = g.memType)) ∧
    (∃ t, checkAmoTile tiles.me (amoAt 11 1 4) gI true = some t) ∧
    (∃ t, checkAmoOperands tiles.me (amoAt 1 1 5) gI 0x4001 false = some t) ∧ checkAmoTile tiles.me (amoAt 1 1 4) gI false = none :=
  ⟨by decide, ⟨_, rfl⟩, ⟨_, rfl⟩, by decide⟩

def adding : Flight := { flight (.tamoAdd (amoAt 1 1 4)) 0x4000 g1 1 .opq with ta := some 1, tb := some 2, dst := some 3, lgs := [0] }
def amoState : State := { base with me := { blk with
  flights := [adding], versions := [ver 1 1 g1, ver 2 5 { gN with rows := 1, cols := 1 }, { ver 3 1 g1 with done := false }] } }

set_option maxRecDepth 20000 in
theorem witness_TamoOneElement : ∃ (s s1 : State) (f : Flight) (m : TmAmoF) (src dst idx : Version) (sg : Seg),
    s.me.flights = [f] ∧ m.aq = false ∧ f.ta = some src.id ∧ f.tb = some idx.id ∧ f.dst = some dst.id ∧
    s.me.versions = [src, idx, dst] ∧ src.id ≠ dst.id ∧ idx.id ≠ dst.id ∧ idx.id ≠ src.id ∧ src.poison = [] ∧
    f.shape.rows = 1 ∧ f.shape.cols = 1 ∧ f.shape.fmt = 0 ∧ f.shape.type = 5 ∧ 0 < f.shape.limit.toNat ∧
    idx.elems = [0] ∧ dst.elems.length = 1 ∧ f.elg = Vector.replicate 8 0 ∧ f.skips = [] ∧ f.lgs = [0] ∧
    f.addr.toNat + 4 ≤ 2 ^ 64 ∧ memWf s1.mem = true ∧ s1.me = s.me ∧ s1.faults = [] ∧ s1.held = [] ∧
    sg.va = f.addr.toNat ∧ sg.len = 4 ∧ regionOf sg.pa = .hbm ∧
    accessPages s s.me [(f.addr.toNat, 4)] .atomic .tile (some f) = (.ok [sg], s1) ∧
    (∀ l, lineHeld s1 (some s.me.slot) sg.pa l = false) ∧ poisonedAt s1 sg.pa 4 = false ∧ f.ins = .tamoAdd m :=
  ⟨amoState, amoState, adding, amoAt 1 1 4, ver 1 1 g1, { ver 3 1 g1 with done := false }, ver 2 5 { gN with rows := 1, cols := 1 },
    ⟨0x4000, 0x4000, 4, 1, false, false, false, page 1⟩, rfl, rfl, rfl, rfl, rfl, rfl, by decide, by decide, by decide, rfl, rfl, rfl, rfl, rfl,
    by decide, rfl, rfl, rfl, rfl, rfl, by decide, rfl, rfl, rfl, rfl, rfl, rfl, by decide, rfl, fun _ => rfl, by decide, rfl⟩

/-- t1's load of two rows of I32 at 0x4000, 64 bytes apart, waiting. -/
def twoLines : State :=
  let g : ShapeRec := { gI with mrow := 64 }
  { tiles with
    mem := [(0x4000, 1), (0x4004, 2), (0x4040, 3), (0x4044, 4)]
    me := { tileBlk with
      flights := [{ id := 9, insn := 0, ins := .tld ⟨1, 1, 4, 0, .trunc, false, false, .block, 0, false, 0⟩, kind := .ldq, dst := some 1
                    addr := 0x4000, shape := g, record := 1, lgs := List.range 8 }]
      versions := [{ ver 1 1 gI with done := false }] } }
/-- R124, R136: where the second line has to wait, the first row alone is performed; R127: with it, all of the tile is. -/
theorem test_partial_load : after (runTurn twoLines (.performPart 0 9 0x101)) (fun t =>
    t.me.flights.all (fun f => f.st == .waiting && f.elg[0] == 2) && t.me.versions.all (fun v => v.elems == [1, 2, 0, 0]) && t.holds == []) = true := by
  decide
theorem test_whole_load : after (runTurn twoLines (.perform 0 9)) (fun t =>
    t.me.flights.all (fun f => f.st == .performed) && t.me.versions.all (fun v => v.elems == [1, 2, 3, 4])) = true := by decide

/-! ### Objects, fences, waits, barriers, channels, queues -/

/-- A page table at 0x10000 that maps the first GiB to itself, accessed and dirty. -/
def mapping : List Host.Cell := [(0x10000, 1), (0x10001, 0x10), (0x10002, 1), (0x11000, 0x1B), (0x11001, 8)]

/-- An object word at 0x4000: FREE, SHARED with the given count, or EXCLUSIVE. -/
def objState (mem : List Host.Cell) (held : List Word) : State :=
  regs [(4, 0x4000), (5, 0x4001)] { base with
    mem := mem ++ mapping, contexts := [(0, { st := .active, ptroot := 0x10000 })], me := { blk with holding := held } }

def objReady (s : State) : Prop :=
  (getS s 4).toNat % 16 = 0 ∧ acquirePending s.me = false ∧
  Machine.translate s (some (slotCore s.me.slot)) s.me.ctx (getS s 4).toNat .atomic .scalar = (.ok (page 1), s) ∧
  lineHeld s (some s.me.slot) ((page 1).pa (getS s 4).toNat) 16 = false ∧ postedMeets s.me ((page 1).pa (getS s 4).toNat) 16 = false ∧
  poisonedAt s ((page 1).pa (getS s 4).toNat) 16 = false ∧ regionOf ((page 1).pa (getS s 4).toNat) = .hbm ∧
  memWf s.mem = true ∧ (∀ w ∈ s.objWaits, w.pa ≠ (page 1).pa (getS s 4).toNat) ∧ (objRead s ((page 1).pa (getS s 4).toNat)).rsv = 0

/-- The state in which an ACQ has joined the object's queue: the grant finds no page of its own to mark. -/
def objAsked (s : State) (excl : Bool) : State :=
  { dropGuests (dropCache (expose s) (slotCore s.me.slot) fun l => l == lineOf 0x4000) (slotDie s.me.slot) (fun l => l == lineOf 0x4000) with
    objWaits := s.objWaits ++ [⟨0x4000, excl, .block s.me.slot, 0x4000⟩] }

/-- The device whose block holds the object, with a binding of it that a load in flight meets. -/
def relWaiting : State :=
  let s := objState [(0x4000, 5), (0x4007, 0x80)] [0x4000]
  { s with
    contexts := [(0, { st := .active, ptroot := 0x10000, bindings := [⟨0x4000, 0x4000, 1⟩] })]
    me := { s.me with posted := [{ onItsWay with va := 0x4020, pa := 0x4020, n := 1, op := .store [1] }] } }

/-- The device whose block holds the object and whose REL has taken its bindings. -/
def releasing (mem : List Host.Cell) : State :=
  let s := objState mem [0x4000]
  { s with me := { s.me with relBound := some (relBindings s 0x4000) } }

set_option maxRecDepth 20000 in
theorem witness_ObjectsAcquiredAndReleased :
    (∀ held ∈ [[], [0x4000]], ∀ p ∈ [([], 0, 0), ([(0x4004, 1), (0x4007, 0x40)], 1, 1), ([(0x4004, 2), (0x4007, 0x40)], 1, 2), ([(0x4000, 5), (0x4007, 0x80)], 2, 0),
        ([(0x4007, 0xC0)], 3, 0), ([(0x4004, 0xFF), (0x4005, 0xFF), (0x4007, 0x40)], 1, 65535), ([(0x4007, 0x40)], 1, 0)],
      (objRead (objState p.1 held) 0x4000).mode = p.2.1 ∧ (objRead (objState p.1 held) 0x4000).count = p.2.2) ∧
    objReady (releasing [(0x4004, 2), (0x4007, 0x40)]) ∧ objReady (objState [] []) ∧ objReady (objState [(0x4000, 5), (0x4007, 0x80)] []) ∧
    objReady (objState [(0x4007, 0xC0)] []) ∧ objReady (objState [(0x4004, 0xFF), (0x4005, 0xFF), (0x4007, 0x40)] []) ∧
    (∀ e, objAccess (objAsked (objState [] []) e) 0 0x4000 = (.ok 0x4000, objAsked (objState [] []) e)) ∧
    (objState [] []).me.holding.length < 16 ∧ (objState [] [0x4000]).me.holding.contains 0x4000 = true ∧
    relWaits (objState [] [0x4000]) (relBindings (objState [] [0x4000]) 0x4000) = false ∧
    relWaits relWaiting (relBindings relWaiting 0x4000) = true ∧ (objState [] []).me.st = .running ∧
    ((objRead (objState [(0x4007, 0x80)] [0x4000]) 0x4000).owner = (objState [] []).me.token.toNat ∧
      (objRead (objState [(0x4000, 5), (0x4007, 0x80)] [0x4000]) 0x4000).owner ≠ (objState [] []).me.token.toNat) ∧
    (getS (objState [] []) 5).toNat % 16 ≠ 0 ∧ 16 ≤ (objState [] (List.replicate 16 16)).me.holding.length :=
  ⟨by decide, ⟨by decide, rfl, rfl, by decide, by decide, by decide, by decide, rfl, by decide, by decide⟩,
    ⟨by decide, rfl, rfl, by decide, by decide, by decide, by decide, rfl, by decide, by decide⟩,
    ⟨by decide, rfl, rfl, by decide, by decide, by decide, by decide, rfl, by decide, by decide⟩,
    ⟨by decide, rfl, rfl, by decide, by decide, by decide, by decide, rfl, by decide, by decide⟩,
    ⟨by decide, rfl, rfl, by decide, by decide, by decide, by decide, rfl, by decide, by decide⟩, fun e => by cases e <;> rfl, by decide, by decide,
    by decide, by decide, rfl, by decide, by decide, by decide⟩

/-- A context whose object at 0x4000 guards the line at 0x4100. -/
def bindState (mem : List Host.Cell) : State :=
  regs [(4, 0x4000), (5, 0x4100), (6, 0x4120), (7, 0x4140)] { base with mem := mem, contexts := [(0, { st := .active, bindings := [⟨0x4000, 0x4100, 1⟩] })] }

set_option maxRecDepth 20000 in
theorem witness_BindUnbindFence :
    (getS (bindState []) 6).toNat % 64 ≠ 0 ∧ (⟨0x4000, 0x4100, 1⟩ : Binding) ∈ (getCtx (bindState []) 0).bindings ∧
    (⟨0x4010, 0x4100, 2⟩ : Binding) ∉ (getCtx (bindState []) 0).bindings ∧ ((0x4100 : Word).toNat < (0x4100 : Word).toNat + 64 * 1) ∧
    (∀ y ∈ (getCtx (bindState []) 0).bindings, ¬((0x4140 : Word).toNat < y.base.toNat + 64 * y.length ∧ y.base.toNat < (0x4140 : Word).toNat + 64)) ∧
    256 ≤ (List.replicate 256 (⟨0x4000, 0x4100, 1⟩ : Binding)).length ∧ (∀ r ∈ (getCtx (bindState []) 0).bindings, r.object ≠ 0x4010) ∧
    (acquirePending (bindState []).me = false ∧ Machine.translate (bindState []) (some 0) 0 0x4000 .read .scalar = (.ok (page 1), bindState []) ∧
      (objRead (bindState []) 0x4000).mode = 0) ∧
    (Machine.translate (bindState [(0x4007, 0x80)]) (some 0) 0 0x4000 .read .scalar = (.ok (page 1), bindState [(0x4007, 0x80)]) ∧
      (objRead (bindState [(0x4007, 0x80)]) 0x4000).mode ≠ 0) ∧
    (lineHeld (bindState []) (some 0) ((page 1).pa 0x4000) 16 = false ∧ postedMeets (bindState []).me ((page 1).pa 0x4000) 16 = false ∧
      poisonedAt (bindState []) ((page 1).pa 0x4000) 16 = false) ∧
    releaseDone loadFlying loadFlying.me .block = false ∧ releaseDone base base.me .system = true :=
  ⟨by decide, by decide, by decide, by decide, by decide, by decide, by decide, ⟨rfl, rfl, by decide⟩, ⟨rfl, by decide⟩, by decide, by decide, by decide⟩

def waitFor : TmWaitF := ⟨1, 1, 4, false, .block, 24, 6, 0⟩
/-- t6 watches elements 0 and 3 of the operand at 0x4000, which holds 0; t1 holds 0 and 7 there. -/
def waiting : State := { tiles with me := { tiles.me with versions :=
  [{ ver 1 1 gI with elems := [0, 1, 2, 7] }, { ver 6 6 gM with elems := [1, 0, 0, 1] }] } }

set_option maxRecDepth 20000 in
theorem witness_TileWaits : ∃ (s : State) (f : TmWaitF) (m x : Version) (segs : List Seg) (id : Nat) (b : Block),
    checkWait s.me f (shapeOf s.me f.h) (tmAddr s f.s f.off) = none ∧ current s.me f.t2 = some m ∧ m.done = true ∧
    current s.me f.t = some x ∧ versionDone s.me (curId s.me f.t) = true ∧ releaseDone s s.me .device = true ∧
    acquirePending s.me = false ∧ rename s s.me f.t2 m.geom [] = .ok id b ∧
    accessRanges s (((List.range m.geom.count).filter fun e => (m.elems.getD e 0).getLsbD 0).flatMap ((waitLayout s f).ranges 0))
      .read .tile true = (.ok segs, s) ∧ s.me.inHandler = false ∧ s.me.asks = [] ∧ m.poison = [] ∧ x.poison = [] ∧ f.aq = false ∧ s.me.st = .running ∧
    ((List.range m.geom.count).filter fun e => (m.elems.getD e 0).getLsbD 0) = [0, 3] ∧ x.elems.getD 0 0 = 0 ∧ x.elems.getD 3 0 = 7 ∧ s.mem = [] :=
  ⟨waiting, waitFor, _, _, _, _, _, rfl, rfl, rfl, rfl, rfl, rfl, rfl, rfl, rfl, rfl, rfl, rfl, rfl, rfl, rfl, rfl, rfl, rfl, rfl⟩

/-- A group of two blocks, its barrier 3 as given; block 1 sits in slot 2. -/
def grp (v : Barrier) : Group :=
  { id := ⟨0, 0, 0, 0⟩, st := .running, gsize := 1, bpos := 0, bsize := 0, band := 0, kernel := 7, tier := 0
    barriers := (Vector.replicate 16 {}).set 3 v, started := true, heldTier := 0, startOrder := 0, finished := [], overcap := false, byHost := false, image := 0 }
def grouped (v : Barrier) : State :=
  regs [(1, 0x10003), (2, 0x10001), (3, 0x50001)] { base with groups := [grp v], others := [{ blk with slot := 2, bid := 1 }] }
def pendingBar (a p : BitVec 32) : Barrier := { mode := .pending, config := 0x10003, members := [⟨0, 0, a, p⟩, ⟨0, 1, 0, 0⟩], c := 0 }

theorem witness_BarriersCount :
    (∃ g, findGroup (grouped {}) blk.gid = some g ∧ barWordBad (getS (grouped {}) 3) (barLimit g 3) = true ∧
      barWordBad (getS (grouped {}) 1) (barLimit g 3) = false ∧ (getBar (grouped {}) g 3).mode = .idle) ∧
    (∃ g, findGroup (grouped (pendingBar 0 0)) blk.gid = some g ∧ (getBar (grouped (pendingBar 0 0)) g 3).mode = .pending ∧
      (getBar (grouped (pendingBar 0 0)) g 3).config = getS (grouped (pendingBar 0 0)) 1 ∧ getS (grouped (pendingBar 0 0)) 1 ≠ getS (grouped (pendingBar 0 0)) 2 ∧
      (∃ m, barSelf (getBar (grouped (pendingBar 0 0)) g 3) blk = some m ∧ (m.a - 0).toNat < (barDist 0x10003).toNat ∧ m.a.toNat ≤ (0 : BitVec 32).toNat)) ∧
    (∃ m, barSelf (pendingBar 1 1) blk = some m ∧ (barDist 0x10003).toNat ≤ (m.a - (pendingBar 1 1).c).toNat ∧ (pendingBar 1 1).c.toNat < m.a.toNat) ∧
    ((getBar (grouped { mode := .broken }) (grp { mode := .broken }) 3).mode = .broken) ∧
    (∃ m, barSelf (pendingBar 1 1) blk = some m ∧ m.a.toNat < (phaseIndex { blk with loops := [⟨0, 9, 5⟩] } 1).toNat) ∧
    (∃ (s : State) (a : Arrival), s.me.st = .running ∧ (s.arrivals.find? fun a => a.slot == s.me.slot && a.b == 3) = some a ∧
      arrivalReady s s.me a = true ∧ (getBar s (grp (pendingBar 1 0)) 3).mode = .pending ∧
      barWaiters { s with arrivals := s.arrivals.erase a } (grp (pendingBar 1 0)) 3
        (modMember (getBar s (grp (pendingBar 1 0)) 3) s.me.peer fun m => { m with p := m.p + 1 }).settle.c = []) ∧
    ((pendingBar 1 0).members ≠ [] ∧ (∃ m ∈ (pendingBar 1 0).members, m.p.toNat ≤ (pendingBar 1 0).c.toNat)) ∧
    (∃ v : Barrier, v.members ≠ [] ∧ (∀ m ∈ v.members, v.c.toNat < m.p.toNat) ∧ ∃ c, (∀ m ∈ v.members, c.toNat ≤ m.p.toNat) ∧ (∃ m ∈ v.members, c = m.p) ∧
      ∃ m ∈ v.members, m.a ≠ c) ∧
    (∃ v : Barrier, v.members ≠ [] ∧ (∀ m ∈ v.members, v.c.toNat < m.p.toNat) ∧ ∃ c, (∀ m ∈ v.members, c.toNat ≤ m.p.toNat) ∧ (∃ m ∈ v.members, c = m.p) ∧
      ∀ m ∈ v.members, m.a = c) :=
  ⟨⟨_, rfl, by decide, by decide, by decide⟩, ⟨_, rfl, by decide, by decide, by decide, _, rfl, by decide, by decide⟩,
    ⟨⟨0, 0, 1, 1⟩, by decide⟩, by decide, ⟨⟨0, 0, 1, 1⟩, by decide⟩,
    ⟨{ grouped (pendingBar 1 0) with arrivals := [⟨0, 3, 0⟩] }, ⟨0, 3, 0⟩, by decide⟩, by decide,
    ⟨{ mode := .pending, config := 0x10003, members := [⟨0, 0, 2, 1⟩, ⟨0, 1, 1, 1⟩], c := 0 }, by decide, by decide, 1, by decide⟩,
    ⟨{ mode := .pending, config := 0x10003, members := [⟨0, 0, 1, 1⟩, ⟨0, 1, 1, 1⟩], c := 0 }, by decide, by decide, 1, by decide⟩⟩

def message (g : ShapeRec) (content : Option Version) : Message := { version := 9, geom := g, content := content }
/-- The two blocks with tiles; block 0 has the given untaken messages from block 1. -/
def talking (l : List Message) (fin : List (BitVec 4)) : State :=
  regs [(1, 1), (2, 0x10)] { base with
    me := { tileBlk with channels := [{ sender := ⟨0, 1⟩, slot := 2, untaken := l, held := [], readPos := 0 }] }
    groups := [{ grp {} with finished := fin }]
    others := [{ blk with slot := 2, bid := 1, channels := [{ sender := ⟨0, 0⟩, slot := 0, untaken := l, held := [], readPos := 0 }] }] }

theorem witness_ChannelsPassTiles :
    partnerOf (talking [] []) tileBlk (getS (talking [] []) 2) = none ∧
    (∃ g p x r v, partnerOf (talking [] []) tileBlk (getS (talking [] []) 1) = some (g, p) ∧ partnerGone g p = false ∧
      slotOfPeer (talking [] []) g p = some x ∧ x ≠ 0 ∧ getBlock (talking [] []) x = some r ∧ r.slot = x ∧ current tileBlk 1 = some v ∧
      (channelFrom r tileBlk.peer).untaken.length < 4 ∧ heldAt (talking [] []).me (channelFrom (talking [] []).me p) = none ∧
      (channelFrom (talking [] []).me p).untaken = [] ∧ (talking [] []).me.st = .running) ∧
    current tileBlk 11 = none ∧ 4 ≤ (channelFrom (talking (List.replicate 4 (message gI none)) []).me ⟨0, 1⟩).untaken.length ∧
    (∃ g p, partnerOf (talking [] [1]) tileBlk 1 = some (g, p) ∧ partnerGone g p = true) ∧
    (∃ n, nameOf tileBlk 1 = some n ∧ (destGeom tileBlk 1).ok = true ∧ (message gI none).geom.type = (destGeom tileBlk 1).type ∧
      (message gC none).geom.type ≠ (destGeom tileBlk 1).type ∧ (message gI none).content = none ∧
      (message gI (some (ver 9 1 gI))).content = some (ver 9 1 gI) ∧
      heldAt (talking [message gI (some (ver 9 1 gI))] []).me (channelFrom (talking [message gI (some (ver 9 1 gI))] []).me ⟨0, 1⟩) = none ∧
      (∃ id b, rename (talking [] []) tileBlk 1 (destGeom tileBlk 1) [] = .ok id b) ∧
      slotOfPeer (talking [] []) (grp {}) ⟨0, 1⟩ ≠ some (talking [] []).me.slot) :=
  ⟨by decide, ⟨_, _, _, _, _, rfl, by decide, rfl, by decide, rfl, rfl, rfl, by decide, by decide, by decide, rfl⟩, by decide, by decide,
    ⟨_, _, rfl, by decide⟩, ⟨_, rfl, by decide, by decide, by decide, rfl, rfl, by decide, ⟨_, _, rfl⟩, by decide⟩⟩

/-- Block 0 holds the message of block 1 at its read position, as version 1. -/
def holding : State :=
  { talking [] [] with me := { (talking [] []).me with channels := [{ sender := ⟨0, 1⟩, slot := 2, untaken := [], held := [⟨1, 1⟩], readPos := 0 }] } }

theorem witness_ChannelsPassTiles_held :
    (∃ g p m v, partnerOf holding holding.me (getS holding 1) = some (g, p) ∧ heldAt holding.me (channelFrom holding.me p) = some m ∧
      findVersion holding.me m.version = some v ∧ v.geom.rows = (heldGeom holding.me 1 m).rows ∧ v.geom.cols = (heldGeom holding.me 1 m).cols ∧
      v.geom.type = (heldGeom holding.me 1 m).type) ∧
    ∃ (s : State) (z : Nat), (destGeom s.me 9).ok = true ∧ rename s s.me 9 (destGeom s.me 9) [] = .never z :=
  ⟨⟨_, _, ⟨1, 1⟩, ver 1 1 gI, rfl, rfl, rfl, by decide, by decide, by decide⟩, { talking [] [] with me := { tileBlk with rsv := 0 } }, _, by decide, rfl⟩

/-- A block that sends to itself. -/
theorem witness_ChannelsPassTiles_self : ∃ g p r v, partnerOf (talking [] []) tileBlk (getS (talking [] []) 0) = some (g, p) ∧
    slotOfPeer (talking [] []) g p = some (talking [] []).me.slot ∧ getBlock (talking [] []) (talking [] []).me.slot = some r ∧
    partnerGone g p = false ∧ current tileBlk 1 = some v ∧ (channelFrom tileBlk tileBlk.peer).untaken.length < 4 :=
  ⟨_, _, _, _, rfl, rfl, rfl, by decide, rfl, by decide⟩

/-- A ring of two slots: its header at 0x4000 with the given HEAD and TAIL, its slots at 0x4100, the caller's entry at 0x4080. -/
def ringMem (head tail log : Byte) : List Host.Cell :=
  [(0x4000, head), (0x4008, tail), (0x4010, 0x00), (0x4011, 0x41), (0x4016, log)].filter fun c => c.2 != 0
def ringState (m : List Host.Cell) (st : QueueSt) : State :=
  regs [(3, 0), (4, 0x4000), (5, 0x4080), (6, 0x4001), (7, 0)] { base with mem := m, queues := [(0, { st := st })] }

set_option maxRecDepth 20000 in
theorem witness_LaunchAndRings :
    (getS (ringState [] .opened) 6).toNat % 64 ≠ 0 ∧ (getS (ringState [] .opened) 5).toNat % 64 = 0 ∧
    (getQueue (ringState [] .unbound) 0).st = .unbound ∧ (getQueue (ringState [] .opened) 0).st ≠ .unbound ∧
    (getQueue (ringState [] .opened) 0).ctx = 0 ∧ streamBusy (ringState [] .opened).me = false ∧
    (getQueue (afterArrivals (ringState [] .draining) 0) 0).accepting = false ∧ (getQueue (afterArrivals (ringState [] .opened) 0) 0).accepting = true ∧
    releaseDone loadFlying loadFlying.me .device = false ∧
    (∃ pa cp s1, seqAddr (acquireAt (ringState [] .opened) 0 .device) 0x4080 .read = .ok pa cp s1 ∧ cp ≠ 0 ∧ regionOf pa = .hbm ∧
      lineHeld s1 (some 0) pa 64 = false ∧ poisonedAt s1 pa 64 = false) ∧
    (∀ m ∈ [ringMem 0 0 1, ringMem 0 1 1, ringMem 0 2 1, ringMem 0 0 21], memWf m = true) ∧
    (ringAt (ringState (ringMem 0 0 21) .opened) 0x4000).bad = true ∧
    ((ringAt (ringState (ringMem 0 2 1) .opened) 0x4000).bad = false ∧ (ringAt (ringState (ringMem 0 2 1) .opened) 0x4000).fill = 2) ∧
    (ringAt (ringState (ringMem 0 0 1) .opened) 0x4000).fill = 0 ∧
    (seqAddr (ringState (ringMem 0 1 1) .opened) 0x4000 .atomic = .ok 0x4000 1 (ringState (ringMem 0 1 1) .opened) ∧
      seqAddr (ringState (ringMem 0 1 1) .opened) 0x4080 .read = .ok 0x4080 1 (ringState (ringMem 0 1 1) .opened) ∧
      seqAddr (ringState (ringMem 0 1 1) .opened) 0x4080 .write = .ok 0x4080 1 (ringState (ringMem 0 1 1) .opened) ∧
      (ringAt (ringState (ringMem 0 1 1) .opened) 0x4000).slotVa 1 = 0x4140 ∧ (ringAt (ringState (ringMem 0 1 1) .opened) 0x4000).slotVa 0 = 0x4100 ∧
      seqAddr (ringState (ringMem 0 1 1) .opened) 0x4140 .write = .ok 0x4140 1 (ringState (ringMem 0 1 1) .opened) ∧
      seqAddr (ringState (ringMem 0 1 1) .opened) 0x4100 .read = .ok 0x4100 1 (ringState (ringMem 0 1 1) .opened)) :=
  ⟨by decide, by decide, by decide, by decide, by decide, by decide, by decide, by decide, by decide,
    ⟨_, _, _, rfl, by decide, by decide, by decide, by decide⟩, by decide, by decide +kernel, by decide +kernel, by decide,
    ⟨rfl, rfl, rfl, by decide, by decide, rfl, rfl⟩⟩

/-! ### Lane instructions -/

/-- Every register and predicate of those strips has an entry per position. -/
theorem strip_wf (ty : BitVec 5) : ∀ j, (strip ty [1, 2, 3, 4] [5, 6, 7, 8]).lane = some j → stripWf j.strip := by
  intro j h
  obtain rfl : _ = j := Option.some.inj h
  exact ⟨fun r => by revert r; decide +revert, by decide +revert⟩

theorem witness_LaneIntegers : ∃ (s t : State) (j k : LaneJob), s.lane = some j ∧ stripWf j.strip ∧
    numOf j.strip.vt.type = some (.int true 8) ∧ t.lane = some k ∧ stripWf k.strip ∧ numOf k.strip.vt.type = some (.fp fp32) :=
  ⟨strip 1 [1, 2, 3, 4] [5, 6, 7, 8], strip 10 [1, 2, 3, 4] [5, 6, 7, 8], _, _, rfl, strip_wf 1 _ rfl, by decide, rfl, strip_wf 10 _ rfl, by decide⟩

theorem witness_LaneFloats : ∃ (s : State) (j : LaneJob) (f : LcvtF), s.lane = some j ∧ stripWf j.strip ∧
    numOf j.strip.vt.type = some (.fp fp16) ∧ numOf f.ty = some (.int false 32) ∧ numOf (8 : BitVec 5) = some (.fp fp16) ∧
    numOf (6 : BitVec 5) = some (.int false 32) ∧ j.strip.vt.fzi = false ∧ j.strip.vt.fzo = false :=
  ⟨strip 8 [1, 2, 3, 4] [5, 6, 7, 8], _, ⟨2, 1, 6, none⟩, rfl, strip_wf 8 _ rfl, by decide⟩

theorem witness_LanePredicatesAndMoves : ∃ (s t : State) (j k : LaneJob), s.lane = some j ∧ stripWf j.strip ∧
    numOf j.strip.vt.type = some (.int false 32) ∧ t.lane = some k ∧ stripWf k.strip ∧ numOf k.strip.vt.type = some (.fp bf16) :=
  ⟨strip 6 [1, 2, 3, 4] [5, 6, 7, 8], strip 9 [1, 2, 3, 4] [5, 6, 7, 8], _, _, rfl, strip_wf 6 _ rfl, by decide, rfl, strip_wf 9 _ rfl, by decide⟩

theorem witness_FloatsAndPermutesComplete : ∃ (s t : State) (j k : LaneJob) (m : FpFmt) (sg : Bool), s.lane = some j ∧
    numOf j.strip.vt.type = some (.fp m) ∧ t.lane = some k ∧ numOf k.strip.vt.type = some (.int sg 32) ∧
    numOf (8 : BitVec 5) = some (.fp fp16) :=
  ⟨strip 10 [1, 2, 3, 4] [5, 6, 7, 8], strip 5 [1, 2, 3, 4] [5, 6, 7, 8], _, _, fp32, true, rfl, rfl, rfl, rfl, rfl⟩

theorem witness_LanePermuteAndReturn : ∃ (s : State) (j : LaneJob), s.lane = some j ∧ stripWf j.strip ∧
    numOf j.strip.vt.type = some (.int true 32) ∧ j.strip.elems.length = j.strip.active.length :=
  ⟨strip 5 [1, 2, 3, 4] [5, 6, 7, 8], _, rfl, strip_wf 5 _ rfl, by decide⟩

/-! ### Events -/

/-- The kernel with one tier, and a launch of it with one unit, offered. -/
def tiered : Kernel := { kern [0x1400000000000000] [0x1810000000000000] with tiers := [0] }
def launched : Launch :=
  { q := 0, seq := 1, ctx := 0, record := BitVec.ofNat 512 0x700000000000000000000000000000001, token := 0, requested := 4, eligible := true
    units := 1, offered := 1 }
/-- The READY device with that launch. -/
def up : State :=
  { base with ctl := { base.ctl with stage := .ready }, kernels := [tiered], launches := [launched], queues := [(0, { st := .opened })] }
/-- The group of that launch in a state, and its block. -/
def gangOf (st : GroupSt) : Group := { grp {} with id := ⟨0, 0, 1, 0⟩, gsize := 0, st := st, started := st != .placing }
def member (st : BlockSt) : Block := { blk with slot := 2, gid := ⟨0, 0, 1, 0⟩, st := st }
/-- Slot 2 with that block and its record. -/
def withMember (g : GroupSt) (b : Block) : State :=
  { up with groups := [gangOf g], others := [b], slots := [(2, BitVec.twoPow 256 255 + 7 * BitVec.twoPow 256 64 + BitVec.twoPow 256 96)] }

theorem witness_BlockEvents :
    (up.isReady = true ∧ recReason up 2 (bindRec (7 * BitVec.twoPow 256 64 + BitVec.twoPow 256 96 ||| BitVec.twoPow 256 255)) = none) ∧
    recReason up 0 (bindRec (7 * BitVec.twoPow 256 64 + BitVec.twoPow 256 96 ||| BitVec.twoPow 256 255)) = some 2 ∧
    (∃ b, occupant (withMember .placing (member .bound)) 2 = some b ∧ b.st = .bound) ∧
    (∃ b, occupant (withMember .running (member .running)) 2 = some b ∧ b.st ≠ .bound) ∧
    (stopTarget (withMember .running (member .running)) (BitVec.twoPow 128 64) = some (gangOf .running) ∧ (gangOf .running).st = .running ∧
      (BitVec.twoPow 128 64).extractLsb' 38 25 = 0) ∧
    stopTarget (withMember .running (member .running)) 0 = none ∧
    (findGroup (withMember .placing (member .bound)) ⟨0, 0, 1, 0⟩ = some (gangOf .placing) ∧ (gangOf .placing).st = .placing ∧
      canStart (withMember .placing (member .bound)) (gangOf .placing) = true ∧
      (bindRec (slotRecord (withMember .placing (member .bound)) 2)).kind = 0 ∧ getKernel up 7 = some tiered ∧
      findLaunch up 0 1 = some launched) ∧
    (∃ b, getBlock (withMember .stopping { member .stopping with preempt := true, region := .clean }) 2 = some b ∧ b.preempt = true ∧
      b.graceOver = false ∧ b.st = .stopping ∧ b.atPoint = false ∧ b.region = .clean) ∧
    (∃ b, getBlock (withMember .running (member .exiting)) 2 = some b ∧ b.st = .exiting ∧
      exitDrained (withMember .running (member .exiting)) b = true) ∧
    (∃ b, getBlock (withMember .running { member .rollback with roll := .error .sdc none }) 2 = some b ∧ b.st = .rollback ∧
      rollDrained (withMember .running { member .rollback with roll := .error .sdc none }) b = true ∧ b.roll = .error .sdc none ∧ b.preempt = false) ∧
    (∃ b, getBlock (withMember .running { member .running with wait := .emulator 0x7C00000000000000 }) 2 = some b ∧
      b.wait = .emulator 0x7C00000000000000) :=
  ⟨by decide +kernel, by decide, ⟨_, rfl, by decide⟩, ⟨_, rfl, by decide⟩, by decide, by decide, by decide +kernel, ⟨_, rfl, by decide⟩, ⟨_, rfl, by decide⟩,
    ⟨_, rfl, by decide⟩, ⟨_, rfl, by decide⟩⟩

/-- t1's load is performed, its version not yet DONE. -/
def endedLoad : Flight :=
  { id := 9, insn := 0, ins := .tld ⟨1, 1, 4, 0, .trunc, false, false, .block, 3, true, 0⟩, kind := .ldq, st := .performed, dst := some 1
    tag := some 3 }
def flightEnding : State := { tiles with me := { tileBlk with
    flights := [endedLoad]
    versions := [{ ver 1 1 gI with done := false }] } }
/-- A MAP into t1 on the lane engine whose strip has come to its VRET. -/
def mapDone (todo : List Nat) : State :=
  { tiles with
    me := { tileBlk with flights := [{ id := 9, insn := 0, ins := .map ⟨1, 2, 0, 0, 1, false, 0, 0⟩, dst := some 1 }] }
    lane := some {
      slot := 0, flight := 9, header := 0x0288E002, code := [0xA40000F8], inputs := [[1, 2, 3, 4]], active := List.replicate 4 true
      bad := [], consts := Vector.replicate 16 0, todo := todo, out := []
      strip := { emptyStrip 2 { type := 5, fzi := false, fzo := false, xrm := 0 } [] with
        elems := [some 0, some 1], active := [true, true], ret := some 1 } } }
def table (tcb : Nat) : CbTable := { slot := 0, tcb := tcb, data := some (Vector.replicate 8 0), arrived := false, by_ := none }
/-- The ring of core 0 held by block 0, its TCB read, one table still under way. -/
def cbLoading : State :=
  { base with cbs := [table 9], me := { blk with cbClaim := some 9, flights := [
      { id := 9, insn := 0, ins := .tcb ⟨7, 0, true, 5⟩, st := .performed }] } }
def trailOf (st : TrailSt) : Trail :=
  { cluster := 0, ctx := 0, desc := 0x4000, gen := 1, st := st, rows := 0, cols := 0, entries := [], valBase := 0, valt := 0, vpc := 0
    vpm := false, line := 256, no := 3 }
def ringWaiting (put : Bool) : State :=
  let s := ringState (ringMem 0 0 1) .opened
  { s with me := { s.me with wait := .ring 0x4000 put ⟨3, 4, 5, 7⟩ [] false }, ringWaits := [(0x4000, 0, put)] }
def twaiting : State := { waiting with me := { waiting.me with wait := .values waitFor .ne [0, 3] } }

set_option maxRecDepth 20000 in
theorem witness_EngineEvents :
    (∀ s ∈ [flightEnding, mapDone [], mapDone [2, 3], cbLoading, base, twaiting, ringWaiting false], ∀ p ∈ s.banks, p.2.st ≠ .evacuating) ∧
    (∃ v, findFlight flightEnding.me 9 = some endedLoad ∧ endedLoad.st = .performed ∧ flightEnding.me.st = .running ∧
      (∀ g ∈ flightEnding.me.flights, g.st ≠ .waiting) ∧ Instr.isTcb endedLoad.ins = false ∧ endedLoad.dst = some 1 ∧
      findVersion flightEnding.me 1 = some v ∧ curId flightEnding.me v.name = some 1 ∧ otherWriter flightEnding.me endedLoad 1 = false ∧
      endedLoad.tag = some 3) ∧
    (∃ j, (mapDone [2, 3]).lane = some j ∧ j.strip.ret.isSome = true ∧ (getBlock (mapDone [2, 3]) j.slot).isSome = true ∧
      (∀ e ∈ stripActive j.strip, e ∉ j.bad) ∧ j.todo ≠ [] ∧ laneFits (mapDone [2, 3]) (slotCore j.slot) j.header = true) ∧
    (∃ j b f m v, (mapDone []).lane = some j ∧ j.strip.ret.isSome = true ∧ getBlock (mapDone []) j.slot = some b ∧
      j.todo = [] ∧ findFlight b j.flight = some f ∧ f.ins = .map m ∧ f.dst = some 1 ∧ findVersion b 1 = some v) ∧
    (ringHolder { base with cbs := [table 9] } 0 = none ∧ (table 9).arrived = false ∧ (table 9).data.isSome = true) ∧
    (ringHolder { cbLoading with cbs := [table 9, table 9] } 0 = some cbLoading.me ∧ (∀ f ∈ cbLoading.me.flights, f.st ≠ .waiting) ∧
      tcbDone (switchTo { cbLoading with cbs := [{ table 9 with arrived := true }, table 9] } 0) = none) ∧
    (∃ f, ringHolder cbLoading 0 = some cbLoading.me ∧ cbLoading.me.st = .running ∧
      tcbDone (switchTo { cbLoading with cbs := [{ table 9 with arrived := true }] } 0) = some f) ∧
    (∃ e : LaneFnEntry, e.is 0 7 8 = true ∧ e.present = false ∧ laneFnWaiters { base with laneFns := [e] } 0 7 8 = []) ∧
    (∃ k, getKernel base 7 = some k ∧ k.st = .resident ∧ (16 : BitVec 32).toNat < 8 * k.tile.length ∧
      (0 : BitVec 32).toNat < 8 * k.handler.length ∧ base.icache = []) ∧
    (trailOf .compiling ∈ [trailOf .compiling] ∧ cacheBytes [trailOf .compiling] 0 ≤ 524288 ∧
      trailWaiters { base with trails := [trailOf .compiling] } 3 = [] ∧ (trailOf .compiling).st = .compiling ∧ (trailOf .doomed).st = .doomed) ∧
    (∃ m x segs id b, twaiting.me.wait = .values waitFor .ne [0, 3] ∧ current twaiting.me waitFor.t2 = some m ∧
      rename twaiting twaiting.me waitFor.t2 m.geom [] = .ok id b ∧ current twaiting.me waitFor.t = some x ∧
      accessRanges twaiting (([0, 3] : List Nat).flatMap ((waitLayout twaiting waitFor).ranges 0)) .read .tile true = (.ok segs, twaiting) ∧
      stillPending twaiting .ne (waitLayout twaiting waitFor) segs x.elems [0, 3] = [0] ∧
      stillPending twaiting .ne (waitLayout twaiting waitFor) segs x.elems [3] = [] ∧
      (∀ e ∈ [0, 3], e ∉ x.poison) ∧ poisonOf twaiting.me (curId twaiting.me waitFor.t2) = []) ∧
    (∃ f, (ringWaiting false).me.wait = .ring 0x4000 false f [] false ∧ servable (ringWaiting false) 0x4000 = none) :=
  ⟨by decide, ⟨_, rfl, rfl, rfl, by decide, rfl, rfl, rfl, rfl, rfl, rfl⟩, ⟨_, rfl, by decide⟩, ⟨_, _, _, _, _, rfl, rfl, rfl, rfl, rfl, rfl, rfl, rfl⟩,
    by decide, by decide, ⟨_, rfl, rfl, rfl⟩, ⟨⟨0, 7, 8, false⟩, by decide⟩, ⟨_, rfl, rfl, by decide, by decide, rfl⟩, by decide,
    ⟨_, _, _, _, _, rfl, rfl, rfl, rfl, rfl, by decide, by decide, by decide, by decide⟩, ⟨_, rfl, by decide +kernel⟩⟩

/-- Page tables from 0x10000: level 3, 2 and 1 entries, and the leaf of virtual page 4, frame 4, with the given first two bytes. -/
def tree (lo hi : Byte) : List Host.Cell :=
  [(0x10000, 0x01), (0x10001, 0x10), (0x10002, 0x01), (0x11000, 0x01), (0x11001, 0x20), (0x11002, 0x01), (0x12000, 0x01), (0x12001, 0x30),
   (0x12002, 0x01)] ++ [(0x1301C, lo), (0x1301D, hi), (0x1301E, (4 : Byte))].filter fun c => c.2 != 0
def walked (lo hi : Byte) : State :=
  { up with mem := tree lo hi, tlb := [], contexts := [(0, { st := .active, ptroot := 0x10000 })] }
/-- The READY device with queue 0 in a state (completion ring at 0x4000, CLOG 4), its launches and records handed in. -/
def queued (st : QueueSt) (l : List Launch) (r : List (BitVec 10 × BitVec 512)) : State :=
  { walked 0x5B 0 with
    queues := [(0, { st := st, qcfg := 0x200000000, cfg := 0x200000000, next := 1, qcplb := 0x4000 })]
    launches := l, submitted := r }
/-- A record whose dependency 0 is launch 1 of queue 5. -/
def dependent : Launch :=
  { launched with record := BitVec.ofNat 512 0x1400000000000010000000000000000000100000000000700000000000000000000000000000001, eligible := false, requested := 0 }

set_option exponentiation.threshold 600 in
set_option maxRecDepth 20000 in
theorem witness_QueueEvents :
    (∀ st, (queued st [] []).isReady = true ∧ ownsQueue (queued st [] []) .pf 0 = true ∧ ownsQueue (queued st [] []) (.vf 1) 0 = false ∧
      (queued st [] []).submitted = [] ∧ (getQueue (queued st [] []) 0).st = st) ∧
    ((List.replicate 64 (0 : Byte)).length = 64 ∧ (getQueue (queued .opened [] []) 0).accepting = true ∧
      (getQueue (queued .closed [] []) 0).accepting = false) ∧
    (∀ r,
      (queued .opened [] [(0, r)]).submitted.find? (fun y => y.1 == 0) = some (0, r) ∧ (queued .opened [] [(0, r)]).launches = []) ∧
    launchReason (queued .opened [] []) { launched with record := capPrio launched.record 0, eligible := false, requested := 0, units := 0, offered := 0 } = none ∧
    launchReason (queued .opened [] []) { launched with record := capPrio 0 0 } = some .badrec ∧
    (bindOk (queued .unbound [] []) (getQueue (queued .unbound [] []) 0) = true ∧ bindOk up { qcplb := 1 } = false) ∧
    (∃ l, findLaunch (queued .opened [{ launched with eligible := false, requested := 0, units := 0 }] []) 0 1 = some l ∧ l.ended = false ∧ l.eligible = false ∧
      launchBusy (queued .opened [l] []) l = false ∧ l.failed = none ∧ (getCtx (queued .opened [l] []) l.ctx).st = .active ∧
      l.field 176 4 = (0 : BitVec 4) ∧ l.ind = false ∧ bitsOf l.cnt.toNat 0 32 ≠ 0) ∧
    (findLaunch (queued .opened [dependent] []) 0 1 = some dependent ∧ depState (queued .opened [dependent] []) dependent 0 = .failed ∧
      dependent.ended = false ∧ dependent.eligible = false) ∧
    (∃ l : Launch, l.ended = false ∧ l.canEnd = true ∧ findLaunch (queued .opened [l] []) 0 1 = some l) ∧
    (∃ l, (queueLaunches (queued .opened [{ launched with offered := 0 }] []) 0).find? (fun y => !y.ended && !(y.eligible && decide (y.offered = y.units))) = some l ∧
      l.eligible = true ∧ l.failed = none ∧ l.gkilled = 0 ∧ l.offered = 0 ∧ itsTurn (queued .opened [l] []) l = true ∧
      (∀ k ∈ (queued .opened [l] []).kernels, k.handle = l.kernel → k.st ≠ .evicted)) ∧
    (∃ s t r, s.pendingRecords.find? (fun y => y.q == 0) = some r ∧ (getQueue s 0).dead = false ∧ s.faults = [] ∧ s.held = [] ∧
      memWf s.mem = true ∧ (getQueue s 0).completions - (getQueue s 0).chead.toNat ≠ 16 ∧ (getQueue s 0).clog = 4 ∧
      (getQueue s 0).qcplb.toNat + 32 * ((getQueue s 0).completions % 16) = 0x4000 ∧
      Machine.translate s none (getQueue s 0).ctx 0x4000 .write .link = (.ok t, s)) :=
  ⟨fun st => by cases st <;> exact ⟨rfl, rfl, by decide, rfl, rfl⟩, by decide, fun _ => ⟨rfl, rfl⟩, by decide +kernel, by decide +kernel, by decide +kernel,
    ⟨_, rfl, by decide +kernel⟩, by decide +kernel, ⟨{ launched with started := 1, gdone := 1 }, by decide +kernel⟩, ⟨_, rfl, by decide +kernel⟩,
    { queued .opened [launched] [] with pendingRecords := [⟨0, 1, 0⟩] }, _, _, rfl, rfl, rfl, rfl, by decide, by decide, by decide, by decide, rfl⟩

/-- The bytes of the smallest object (R297, R298): a header, one section entry and an EXIT. -/
def objectBytes : List Byte :=
  [0x52, 0x4C, 0x4B, 0x32, 2, 0, 0, 1, 88, 0, 0, 0, 0, 0, 0, 0, 1, 1] ++ List.replicate 46 0 ++
  [1, 0, 0, 0, 8, 0, 0, 0, 80, 0, 0, 0, 0, 0, 0, 0] ++ [0, 0, 0, 0, 0, 0, 0x40, 0x14]
/-- The device with that object at 0x4000, executable, its MAGIC's first byte as given, and a load of it. -/
def loadCmd : KcmdF := { ctx := 0, handle := 7, dlen := 0, data := 0x5000, obj := 0x4000 }
def loader (magic : Byte) (st : KernelSt) : State :=
  { walked 0x5F 0 with
    mem := (((objectBytes.set 0 magic).zipIdx.map fun p => (0x4000 + p.2, p.1)).filter fun c => c.2 != 0) ++ tree 0x5F 0
    kernels := [{ tiered with st := st, obj := 0x4000, len := if st = .loading then 0 else 8 }]
    ctl := { up.ctl with kcmd := some loadCmd, kres := { st := .busy } } }
def crowded : State :=
  { up with kernels := (List.range 1024).map fun i => { tiered with handle := handleOf 0 i 1 } }

theorem handles_distinct : ∀ i < 1024, (kernelCtx (handleOf 0 i 1) == 0 && kernelIndex (handleOf 0 i 1) == i) = true := by decide +kernel

theorem crowded_full : freeIndex crowded 0 = none := by
  simp only [freeIndex, crowded, List.find?_eq_none, List.mem_range, List.any_map, Bool.not_eq_true, Bool.not_eq_false', List.any_eq_true]
  intro i h
  exact ⟨i, h, handles_distinct i h⟩

/-- A kernel whose object has not changed since it was loaded. -/
def reloading : Kernel := { tiered with st := .reloading, obj := 0x4000, len := 8, digest := Config.sha384 (objectBytes.take 8) }
def reloader : State := { loader 0x52 .reloading with kernels := [reloading], ctl := up.ctl }

set_option maxRecDepth 20000 in
theorem reread_same : rereadObject (unhold reloader (.loader 0 7)) (some []) reloading = (.same, reloader) := by
  have h : loaderRead reloader (some []) 0 0x4000 8 = (.ok (objectBytes.take 8), reloader) := rfl
  unfold rereadObject
  rw [show unhold reloader (.loader 0 7) = reloader from rfl, show loaderRead reloader (some []) reloading.ctx reloading.obj.toNat reloading.len.toNat = _ from h]
  simp [reloading]

set_option maxRecDepth 20000 in
theorem witness_KernelEvents :
    ((loader 0x52 .loading).isReady = true ∧ (loader 0x52 .loading).ctl.kres.st = .busy) ∧
    (up.ctl.kres.st ≠ .busy ∧ (getCtx up 0).st = .active ∧ (getCtx { up with contexts := [] } 0).st ≠ .active) ∧
    freeIndex crowded 0 = none ∧ (∃ i, freeIndex up 0 = some i) ∧
    (∃ k, getKernel up loadCmd.handle = some k ∧ k.ctx = loadCmd.ctx ∧ k.st = .resident ∧ kernelLaunches { up with launches := [] } 7 = [] ∧
      kernelLaunches up 7 ≠ [] ∧ getKernel { up with kernels := [{ k with st := .pinned }] } 7 = some { k with st := .pinned } ∧
      getKernel { up with kernels := [] } 7 = none) ∧
    (∃ k, (loader 0x52 .loading).ctl.kcmd = some loadCmd ∧
      (loader 0x52 .loading).kernels.find? (fun y => y.ctx == loadCmd.ctx && y.st == .loading) = some k ∧ (loader 0x52 .loading).requests = [] ∧
      k.len = 0 ∧ k.asked = [] ∧ k.handle = 7) ∧
    (match loadObject (unhold (loader 0 .loading) (.loader 0 7)) (some []) loadCmd with | (.failed n, s1) => n == 1 && s1.ctl.ccmd == none | _ => false) = true ∧
    (match loadObject (unhold (loader 0x52 .loading) (.loader 0 7)) (some []) loadCmd with
      | (.ok x _, s1) =>
        (match copyData s1 7 loadCmd (dataPlaces x) with
          | (.done, s2) => s2.ctl.ccmd == none && (getKernel s2 7).isSome
          | _ => false)
      | _ => false) = true ∧
    (∃ k, getKernel { up with launches := [] } 7 = some k ∧ k.st = .resident) ∧
    (getKernel reloader 7 = some reloading ∧ reloading.st = .reloading ∧ reloader.requests = [] ∧
      rereadObject (unhold reloader (.loader 0 7)) (some []) reloading = (.same, reloader)) :=
  ⟨by decide, by decide, crowded_full, ⟨_, rfl⟩, ⟨_, rfl, by decide +kernel⟩, ⟨_, rfl, rfl, rfl, rfl, rfl, rfl⟩, by decide +kernel, by decide +kernel, ⟨_, rfl, rfl⟩,
    ⟨rfl, rfl, rfl, reread_same⟩⟩

/-- A load whose writes beyond the package await their acknowledgement. -/
theorem witness_KernelEvents_acknowledged : ∃ (s : State) (k : Kernel), s.ctl.kcmd = some loadCmd ∧ k.len ≠ 0 ∧ s.ctl.ccmd = none ∧
    s.kernels.find? (fun y => y.ctx == loadCmd.ctx && y.st == .loading) = some k ∧ getKernel s k.handle = some k ∧ s.requests = [] :=
  ⟨{ loader 0x52 .loading with kernels := [{ tiered with st := .loading, len := 8 }] }, _, rfl, by decide, rfl, rfl, rfl, rfl⟩

def recordFor (a : FaultAgent) : FaultRecord := { ftag := 5, agent := a, body := 0, host := false, written := true }
/-- A fault record outstanding, whose sequencer waits. -/
def faulted (a : FaultAgent) : State :=
  { withMember .running { member .running with wait := .fault 5 } with faults := [recordFor a] }
/-- A move of page 4 to page 5, and the PMOVE word that asks for it. -/
def moveOf (st : MoveSt) (marked : List Nat) : PageMove :=
  { ctx := 0, va := 0x4000, entry := 0x1301C, src := 4, dst := 5, st := st, pass := 0, todo := [], copied := [], marked := marked, raw := 0x40005B }
def moving (st : MoveSt) (marked : List Nat) : State := { walked 0x5B 0 with move := some (moveOf st marked) }
def moveWord : BitVec 256 := BitVec.ofNat 256 0x50000000000004000
def heldPage : HeldAccess := { agent := .sequencer 2, ctx := 0, va := 0x4000, kind := 0 }
def holdState (hi : Byte) : State :=
  { walked 0x5B hi with others := [member .running], groups := [gangOf .running], held := [heldPage] }

set_option maxRecDepth 20000 in
theorem witness_PageEvents :
    (up.isReady = true ∧ up.ctl.pinvs ≠ .busy ∧ pinvBad (BitVec.twoPow 128 121) = false ∧ pinvBad 0 = true ∧
      ∃ s : State, s.isReady = true ∧ s.ctl.pinvs = .busy ∧ s.ctl.pinv = some (BitVec.twoPow 128 121)) ∧
    ((moving .switched []).ctl.pinv = none ∧ (moving .switched []).move = some (moveOf .switched []) ∧ (moveOf .switched []).st = .switched ∧
      (moving .switched []).ctl.ccmd = none) ∧
    (findFault up 5 = none ∧ (1 : BitVec 48) ≠ 0) ∧
    ((faulted (.sequencer 2)).isReady = true ∧ findFault (faulted (.sequencer 2)) 5 = some (recordFor (.sequencer 2)) ∧
      (∃ b g, getBlock (faulted (.sequencer 2)) 2 = some b ∧ b.wait = .fault 5 ∧ findGroup (faulted (.sequencer 2)) b.gid = some g ∧
        g.started = true ∧ g.st ≠ .done ∧ g.st ≠ .killed)) ∧
    (findFault (faulted (.object 0 1)) 5 = some (recordFor (.object 0 1)) ∧ findLaunch (faulted (.object 0 1)) 0 1 = some launched ∧
      launched.ended = false ∧ launched.failed = none) ∧
    (∃ v : Word, 4 ≤ (v.extractLsb' 52 4).toNat ∧ v.extractLsb' 56 8 = 0 ∧ v.extractLsb' 0 12 = 0 ∧ up.ctl.frtail = up.ctl.frhead) ∧
    ((loader 0x52 .resident).ctl.pmres.st ≠ .busy ∧ memWf (loader 0x52 .resident).mem = true ∧ up.ctl.fnmode.getLsbD 1 = false ∧
      ∃ s l, s = { walked 0x5B 0 with ctl := { up.ctl with fnmode := 2 } } ∧ s.ctl.fnmode.getLsbD 1 = true ∧ memWf s.mem = true ∧
        s.isReady = true ∧ moveLeaf s moveWord = .ok l ∧ moveLeaf s 0 = .error 0x40) ∧
    (∃ s : State, s.isReady = true ∧ s.ctl.pmres.st = .busy ∧ memWf s.mem = true) ∧
    ((moving .copying (List.range 8)).move = some (moveOf .copying (List.range 8)) ∧ memWf (moving .copying (List.range 8)).mem = true ∧
      8 ≤ (moveOf .copying (List.range 8)).marked.length ∧ (moveOf .copying (List.range 8)).pass < 4 ∧
      (moveOf .copying (List.range 7)).marked.length < 8) ∧
    ((moving .frozen []).move = some (moveOf .frozen []) ∧ (moveOf .frozen []).st = .frozen ∧ memWf (moving .frozen []).mem = true) ∧
    ((holdState 0).held = [heldPage] ∧ heldPage.agent = .sequencer 2 ∧
      (∃ t, (Machine.translate (holdState 0) none heldPage.ctx heldPage.va.toNat (kindOf heldPage.kind) .link).1 = .ok t) ∧
      (Machine.translate (holdState 4) none heldPage.ctx heldPage.va.toNat (kindOf heldPage.kind) .link).1 = .hold ∧
      (getBlock (holdState 4) 2).isSome = true) :=
  ⟨⟨by decide, by decide, by decide, by decide, { up with ctl := { up.ctl with pinvs := .busy, pinv := some (BitVec.twoPow 128 121) } }, by decide⟩,
    by decide +kernel, by decide, ⟨by decide, rfl, _, _, rfl, rfl, rfl, by decide⟩, ⟨rfl, rfl, rfl, rfl⟩, ⟨0x40000000000000, by decide⟩,
    ⟨by decide, by decide, by decide, _, _, rfl, by decide, by decide, by decide, rfl, rfl⟩,
    ⟨{ up with ctl := { up.ctl with pmres := { st := .busy } } }, by decide⟩, by decide +kernel, by decide +kernel,
    ⟨rfl, rfl, ⟨_, rfl⟩, rfl, by decide⟩⟩

def ctxCmd : CcmdF := { ctx := 0, kdie := false, kslot := 0, len := 0, img := 0, desc := 0x4000 }
/-- Context 0 in a state, with no launch or group. -/
def ctxIn (x : Context) : State := { up with contexts := [(0, x)], launches := [], kernels := [], queues := [] }
/-- The same with a descriptor of protection key 1 and a ring of 16 at 0x4000, and with key slot 0 for node 3. -/
def described (x : Context) : State :=
  { ctxIn x with mem := [(0x4010, 4), (0x4014, 1)], keySlots := [(0, { peer := 3, v := true })], peers := [(3, BitVec.twoPow 256 255)] }
/-- The smallest image (R318, R319): IMAGE, CONTEXT, BINDINGS and END, of no body, with the digest of what follows the first. -/
def imageBody : Image :=
  { no := 0, cairnForm := false, stepping := 0, isa := 0, count := 4, digest := 0
    headers := [1, 2, 3, 0xFF].map fun t => { type := t, length := 0, fwver := 0 }
    reserved := false, mappings := [], grace := 0, evring := 0, evlog := 4, evvec := 0, evirq := false, dlogn := 0, bindings := []
    kernels := [], queues := [], launches := [], groups := [], records := [], bars := [], pending := [] }
def image : Image := { imageBody with digest := Config.sha384 (imageBody.bytes.drop 16) }
/-- Context 0 with a running group of its own. -/
def ctxBusy (x : Context) : State := { withMember .running (member .running) with contexts := [(0, x)] }
/-- A device that has made that image, and has it in a save area of 64 bytes at 0x8000. -/
def imaged (x : Context) : State :=
  { ctxIn { x with savea := 0x8000, savelen := 64 } with
    images := [image], mem := [(0x8000, 1), (0x8002, 1), (0x8010, 2), (0x8012, 1), (0x8020, 3), (0x8022, 1), (0x8030, 0xFF), (0x8032, 1)] }
def restoring : State := imaged { st := .restoring, fromSaved := true }
def arriving (bs : List Byte) : State := imaged { st := .migratingIn, arrived := bs }

def reloadOk (r : Reload) : Bool := match r with | .ok _ => true | _ => false
def reloadFails (r : Reload) : Bool := match r with | .failed _ _ => true | _ => false

theorem image_accepted (x : Context) : imageRefused (imaged x) image image.bytes = none := by
  have h : image.digest = Config.sha384 (image.bytes.drop ((image.headers.head?.map RecordHeader.span).getD 0)) := rfl
  unfold imageRefused
  rw [if_neg fun n => n h]
  rfl

theorem image_restores (x : Context) : reloadOk (restoreImage (imaged x) 0 image.bytes) = true := by
  have h : readImage (imaged x) image.bytes = some (image, image.bytes) := rfl
  have n : ¬(getCtx (imaged x) 0).savelen.toNat < image.bytes.length := Nat.lt_irrefl 64
  simp only [restoreImage, h, if_neg n, image_accepted]
  rfl

/-- An image of a context with nothing in it spans its four records. -/
theorem span_bounds : 16 ≤ spanOf (makeImage (ctxIn { st := .suspending }) 0 false).1.headers ∧
    spanOf (makeImage (ctxIn { st := .suspending }) 0 false).1.headers < 2 ^ 64 := by
  have h : (makeImage (ctxIn { st := .suspending }) 0 false).1.headers = headersOf 0 0 0 [1, 2, 3, 0xFF] := rfl
  rw [h]
  have a := (Config.bodyLength 0 0).isLt
  have b := (Config.bodyLength 0 1).isLt
  have c := (Config.bodyLength 0 2).isLt
  simp [headersOf, spanOf, natSum, RecordHeader.span, roundUp]
  omega

set_option maxRecDepth 20000 in
theorem witness_ContextEvents :
    (∀ st ∈ [CtxSt.free, .created, .active, .suspending, .saved, .restoring, .migratingOut, .migratingIn, .faulted, .destroyed],
      (described { st := st }).isReady = true ∧ (described { st := st }).ctl.cres.st ≠ .busy ∧ ccmdWaits (described { st := st }) 0 = false ∧
      (getCtx (described { st := st }) ctxCmd.ctx).st = st) ∧
    (ctxCmd.desc.toNat % 64 = 0 ∧ regionOf ctxCmd.desc.toNat ≠ .hole ∧ descriptorBad (homeNat (described {}) ctxCmd.desc.toNat 64) = false ∧
      keyHeld (described {}) (BitVec.ofNat 16 (bitsOf (homeNat (described {}) ctxCmd.desc.toNat 64) 160 16)) = false) ∧
    slotUsable (described { st := .active }) ctxCmd = true ∧ slotUsable (ctxIn { st := .active }) ctxCmd = false ∧
    (Writer.vf 1 ≠ .pf ∧ (loader 0x52 .resident).isReady = true ∧ (loader 0x52 .resident).ctl.cres.st ≠ .busy ∧
      ccmdWaits (loader 0x52 .resident) 0 = true ∧ ∃ s : State, s.isReady = true ∧ s.ctl.cres.st = .busy) ∧
    (ctxStopped (ctxIn { st := .suspending }) 0 = true ∧ (getCtx (ctxIn { st := .suspending }) 0).savelen.toNat <
        spanOf (makeImage (ctxIn { st := .suspending }) 0 false).1.headers ∧
      (∃ len : Word, len.toNat = spanOf (makeImage (ctxIn { st := .suspending }) 0 false).1.headers) ∧
      (makeImage (ctxIn { st := .suspending, savelen := 0xFFFFFFFFFFFFFFFF }) 0 false).1.headers =
        (makeImage (ctxIn { st := .suspending }) 0 false).1.headers ∧
      spanOf (makeImage (ctxIn { st := .suspending }) 0 false).1.headers ≤ (0xFFFFFFFFFFFFFFFF : Word).toNat) ∧
    ((getCtx restoring 0).st = .restoring ∧ (getCtx restoring 0).fromSaved = true ∧
      homeRead restoring (restoreSource restoring 0).1 (restoreSource restoring 0).2 = image.bytes ∧
      reloadOk (restoreImage restoring 0 image.bytes) = true ∧ reloadFails (restoreImage restoring 0 []) = true ∧
      readImage restoring (homeRead (ctxIn { st := .restoring, fromSaved := true }) 0 0) = none) ∧
    (ctxDrained (ctxIn { st := .destroyed }) 0 = false ∧
      ctxDrained { ctxIn { st := .destroyed } with me := { blk with st := .free } } 0 = true) ∧
    ((getCtx (ctxBusy { st := .migratingOut }) 0).finalStop = false ∧ (getCtx (ctxBusy { st := .migratingOut, finalStop := true }) 0).finalStop = true ∧
      ctxStopped (ctxBusy { st := .migratingOut, finalStop := true }) 0 = false ∧
      (getCtx (ctxBusy { st := .migratingOut, round0 := true }) 0).round0 = true ∧ mappedPages (ctxBusy { st := .migratingOut }) 0 = [] ∧
      mappedPages (ctxBusy { st := .migratingOut, round0 := true }) 0 = [] ∧ roundPages (ctxBusy { st := .migratingOut }) 0 = [] ∧
      ∃ im ∈ (imaged { st := .migratingOut, endSent := some 0 }).images, (getCtx (imaged { st := .migratingOut, endSent := some 0 }) 0).endSent = some im.no) ∧
    ((getCtx (arriving image.bytes) 0).st = .migratingIn ∧ (getCtx (arriving image.bytes) 0).arrived = image.bytes ∧
      (7 : Word) ≠ (getCtx (arriving image.bytes) 0).msgCount ∧ reloadOk (restoreImage (arriving image.bytes) 0 image.bytes) = true ∧
      reloadFails (restoreImage (arriving []) 0 (getCtx (arriving []) 0).arrived) = true) :=
  ⟨by decide, by decide +kernel, by decide +kernel, by decide +kernel, ⟨by decide, by decide, by decide, by decide,
      { up with ctl := { up.ctl with cres := { st := .busy } } }, by decide⟩,
    ⟨by decide, Nat.lt_of_lt_of_le (by decide) span_bounds.1, ⟨BitVec.ofNat 64 _, Nat.mod_eq_of_lt span_bounds.2⟩, rfl,
      Nat.le_of_lt_succ span_bounds.2⟩,
    ⟨rfl, rfl, rfl, image_restores _, rfl, rfl⟩, by decide,
    ⟨by decide, by decide, by decide, rfl, by decide +kernel, by decide +kernel, by decide +kernel, image, List.mem_singleton.mpr rfl, rfl⟩,
    ⟨rfl, rfl, by decide, image_restores _, rfl⟩⟩

/-- The READY device with one bank as given, and bank errors handled by the hardware or the host. -/
def banked (id : Nat) (b : Bank) (host : Bool) : State :=
  { up with banks := [(id, b)], ctl := { up.ctl with fnmode := if host then 8 else 0 } }
def evacuation (id : Nat) (t : Option Nat) (cp : Nat) : State :=
  { banked id { st := .evacuating, cause := 4 } false with
    evacuations := [{ bank := id, target := t, cp := cp }]
    me := { tileBlk with gid := ⟨0, 0, 1, 0⟩ }, groups := [gangOf .running] }

/-- How many lines of a version a bank holds is a free value (log entry 18): where version 4 of slot 0 has lines in bank 1, the bank is
live, with that one group. -/
def weighted : State := { base with me := { blk with versions := [ver 4 4 gW] } }
theorem live_lines : liveLines weighted weighted.me 1 = 0 + (0 + Config.linesIn 1 0 4 + 0 + 0) := rfl
theorem bank_live (h : Config.linesIn 1 0 4 ≠ 0) : bankLive weighted 1 = true ∧ groupsIn weighted 1 = [blk.gid] := by
  have l : liveLines weighted weighted.me 1 ≠ 0 := by rw [live_lines]; omega
  have e : liesAmong 0 (ver 4 4 gW) [1] = true := by
    rw [show liesAmong 0 (ver 4 4 gW) [1] = ((Config.linesIn 1 0 4 != 0) || false) from rfl]; simpa using h
  refine ⟨?_, ?_⟩
  · rw [show bankLive weighted 1 = (0 + liveLines weighted weighted.me 1 != 0) from rfl]; simpa using l
  · rw [show groupsIn weighted 1 = ([weighted.me].filter fun _ => liesAmong 0 (ver 4 4 gW) [1] || false).map Block.gid from rfl, e]
    rfl

theorem witness_BankEvents :
    (isBank 1 = true ∧ bankKind 1 ≠ 4 ∧ bankKind 1 ≠ 5 ∧ bankUp up 1 = true ∧ (getBank up 1).st = .online ∧ (getBank up 1).req = false) ∧
    ((banked 1 { cew := 7 } false).ctl.t1.toNat ≤ (satInc (getBank (banked 1 { cew := 7 } false) 1).cew).toNat ∧
      (satInc (getBank (banked 1 { cew := 6 } false) 1).cew).toNat < (banked 1 { cew := 6 } false).ctl.t1.toNat) ∧
    (∀ h ∈ [false, true], bankUp (banked 1 { st := .watched, cew := 63 } h) 1 = true ∧ (banked 1 {} h).ctl.fnmode.getLsbD 3 = h ∧
      (banked 1 {} h).ctl.t2.toNat ≤ (satInc (63 : BitVec 16)).toNat) ∧
    (isBank 0xFFFFFFFF = false ∧ tableOwners (errLog (poisonMemLine base 0x100) { class_ := 0x02, addr := 0x4000, bank := 0xFFFFFFFF }) 0x4000 = []) ∧
    (∃ v : Word, 0 < (v.extractLsb' 20 20).toNat ∧ (v.extractLsb' 20 20).toNat < (v.extractLsb' 0 20).toNat ∧ v.extractLsb' 40 16 ≠ 0) ∧
    (∃ v : Word, 4 ≤ bitsOf v.toNat 52 4 ∧ bitsOf v.toNat 56 6 = 0 ∧ bitsOf v.toNat 11 1 = 0) ∧
    (up.isReady = true ∧ up.ctl.bankres.st ≠ .busy ∧ bankUp (banked 1 { st := .retired } false) 1 = false) ∧
    (∀ cp ∈ [0, 254, 255], findEvacuation (evacuation 1 (some 2) cp) 1 = some { bank := 1, target := some 2, cp := cp } ∧
      (evacuation 1 (some 2) cp).evacuations.filter (fun y => y.bank == 1) = [{ bank := 1, target := some 2, cp := cp }]) ∧
    (groupsIn { evacuation 1 (some 2) 0 with me := blk } 2 = [] ∧ bankLive { evacuation 1 (some 2) 0 with me := blk } 2 = false ∧
      bankLive { evacuation 1 none 0 with me := blk } 1 = false) ∧
    (isBank 0x50000000 = true ∧ bankKind 0x50000000 = 5 ∧ ∀ cp ∈ [4094, 4095],
      findEvacuation (evacuation 0x50000000 none cp) 0x50000000 = some { bank := 0x50000000, target := none, cp := cp }) :=
  ⟨by decide, by decide, by decide, by decide +kernel, ⟨0x10000100002, by decide⟩, ⟨0x40000000000000, by decide⟩, by decide, by decide,
    by decide, by decide⟩

/-- The READY device of node 1 with port 0 in a state. -/
def ported (x : Port) : State :=
  { walked 0x5B 0 with ports := (Vector.replicate 12 {}).set 0 x, ctl := { up.ctl with nodeid := 1 } }
/-- A flit with the CRC over its bytes. -/
def flitOf (kind : BitVec 8) : Flit :=
  let f : Flit := { seq := 0, ack := 0, kind := kind, credits := 1, reserved := 0, slots := List.replicate 240 0, crc := 0 }
  { f with crc := crc64 (flitBytes f) }
/-- A request of node 2 for 8 bytes at 0x4000, under key 9, which context 0 holds in `keyed`. -/
def request (op aop : BitVec 4) : LvMsg :=
  { op := op, aop := aop, pkey := 9, src := 2, dst := 1, tag := 4, len := 7, sz := false, addr := 0x4000, data := List.replicate 8 1 }
def keyed (hi : Byte) : State :=
  { ported { st := .up } with mem := tree 0x5B hi, contexts := [(0, { st := .active, ptroot := 0x10000, pkey := 9 })] }
def keyedSeg : Seg := { va := 0x4000, pa := 0x4000, len := 8, cp := 1, ns := false, ul := false, x := false, t := { page 1 with home := .die false, entry := 0x1301C } }
/-- A request of slot 2's group to a peer and to the host, tag 4. -/
def outstanding (agent : ExtAgent) (pa : Nat) (port : Option (BitVec 4)) : State :=
  { withMember .running (member .running) with
    ports := (Vector.replicate 12 {}).set 0 { st := .up }, requests := [{ tag := 4, agent := agent, pa := pa, op := .read 8, port := port, pkey := 0, fn := 0 }] }

set_option maxRecDepth 20000 in
theorem witness_PortEvents :
    (∀ st ∈ [PortSt.down, .training, .up, .degraded, .fenced, .retired], (ported { st := st }).isReady = true ∧
      (getPort (ported { st := st }) 0).st = st) ∧
    ((1 : BitVec 9) = (ported {}).ctl.nodeid ∧ (2 : BitVec 9) ≠ (ported {}).ctl.nodeid) ∧
    (∀ k ∈ [(0 : BitVec 8), 1, 2, 3], flitOk (flitOf k) = true ∧ (flitOf k).kind = k ∧
      (flitOf k).seq = (getPort (ported { st := .up }) 0).expected) ∧ 3 < (flitOf 4).kind.toNat ∧
    flitOk { flitOf 0 with crc := crc64 (flitBytes (flitOf 0)) + 1 } = false ∧
    ((getPort (ported { st := .up, replay := [flitOf 0], replayCount := 15 }) 0).replay ≠ [] ∧ (getPort (ported { st := .up }) 0).replay = []) ∧
    (3 ≤ (request 3 0).op.toNat ∧ 13 ≤ (request 2 13).aop.toNat) ∧
    (keyContext (ported { st := .up }) 9 = none ∧ keyContext (keyed 0) 9 = some 0) ∧
    (∀ op ∈ [(0 : BitVec 4), 1, 2], msgExtent (request op 0) = keyedSeg.len ∧ (request op 0).data.length = msgExtent (request op 0) ∧
      op.toNat < 3) ∧
    (∀ k, translateRange [] (keyed 0) none 0 0x4000 8 k .link 2 = (.ok [keyedSeg], keyed 0)) ∧
    (memWf (keyed 0).mem = true ∧ poisonedAt (keyed 0) 0x4000 8 = false ∧ poisonedAt { keyed 0 with poison := [0x100] } 0x4000 8 = true) ∧
    (∃ a r l e, translateRange [] (keyed 0) none 0 0x8000 8 .read .link 2 = (.fault a r l e, keyed 0)) ∧
    (∃ a, translateRange [] (keyed 4) none 0 0x4000 8 .read .link 2 = (.hold a, keyed 4)) ∧
    (∃ r g h, (outstanding (.group ⟨0, 0, 1, 0⟩ 2 (some 3)) 0x2000000000000 (some 0)).requests.find? (fun q => q.port == some 0 && regionOf q.pa == .peer &&
        q.tag % 65536 == (request 3 0).tag.toNat) = some r ∧ r.agent = .group g 2 (some 3) ∧
      findGroup (outstanding (.group ⟨0, 0, 1, 0⟩ 2 (some 3)) 0x2000000000000 (some 0)) g = some h ∧ h.started = true ∧ h.st ≠ .done ∧ h.st ≠ .killed ∧
      r.port = some 0 ∧ (∀ a ∈ [(0 : BitVec 4), 1, 2, 3, 4, 5], (request 3 a).op = 3 ∧ (request 3 a).aop = a)) :=
  ⟨by decide, by decide, by decide +kernel, by decide, by decide +kernel, by decide +kernel, by decide, by decide, by decide, fun k => by cases k <;> rfl,
    by decide +kernel, ⟨_, _, _, _, rfl⟩, ⟨_, rfl⟩, ⟨_, _, _, rfl, rfl, rfl, by decide⟩⟩

/-- The READY device with node 1's port as given, queue 3 and context 3 free. -/
def hosted (q : QueueSt) : State := { walked 0x5B 0 with queues := [(3, { st := q })] }

set_option maxRecDepth 20000 in
theorem witness_OutsideEvents :
    (∀ n ∈ [1, 8, 0x7FFFFFC000], apertureOk (hosted .unbound) .pf 0x4000 n = true) ∧ apertureOk (hosted .unbound) .pf 0x4000 0x7FFFFFC001 = false ∧
    apertureOk (hosted .unbound) (.vf 1) 0x4000 8 = false ∧ memWf (hosted .unbound).mem = true ∧
    ((0x4008 : Word).toNat % (8 : BitVec 5).toNat = 0 ∧ (0x4004 : Word).toNat % (8 : BitVec 5).toNat ≠ 0) ∧
    ((∀ x ∈ (hosted .unbound).ports.toList, x.st = .down ∨ x.st = .retired) ∧ (∃ x ∈ (ported { st := .up }).ports.toList, x.st ≠ .down ∧ x.st ≠ .retired) ∧
      (hosted .unbound).isReady = true) ∧
    (∀ t ∈ [OwnTable.qown, .vown, .ctxown], ownRefused (hosted .unbound) t 3 16 = false ∧ ownRefused (hosted .opened) t 3 17 = true) ∧
    ownRefused (hosted .opened) .qown 3 1 = true ∧ ownRefused (hosted .opened) .ctxown 0 1 = true ∧
    (∀ k, translateRange [] (hosted .unbound) none 0 (0x4000 : Word).toNat 8 k .link 2 = (.ok [keyedSeg], hosted .unbound)) ∧
    (∃ a r l e, translateRange [] (hosted .unbound) none 0 (0x8000 : Word).toNat 8 .read .link 2 = (.fault a r l e, hosted .unbound)) ∧
    (∃ r g h, findRequest (outstanding (.group ⟨0, 0, 1, 0⟩ 2 (some 3)) 0x1000000000000 none) 4 = some r ∧ regionOf r.pa = .host ∧ r.agent = .group g 2 (some 3) ∧
      findGroup (outstanding (.group ⟨0, 0, 1, 0⟩ 2 (some 3)) 0x1000000000000 none) g = some h ∧ h.started = true ∧ h.st ≠ .done ∧ h.st ≠ .killed) ∧
    (∃ r, findRequest (outstanding .errorLog 0x1000000000000 none) 4 = some r ∧ regionOf r.pa = .host ∧ r.agent = .errorLog) :=
  ⟨by decide, by decide, by decide, by decide, by decide, by decide, by decide, by decide, by decide, fun k => by cases k <;> rfl,
    ⟨_, _, _, _, rfl⟩, ⟨_, _, _, rfl, rfl, rfl, rfl, rfl, by decide, by decide⟩, ⟨_, rfl, rfl, rfl⟩⟩

/-- The device at a boot stage, a limit of SVN 2. -/
def booting (st : Stage) : State := { base with ctl := { base.ctl with stage := st, minSvn := 2, remain := 1 } }
/-- The READY device with every command in progress, one leaf left. -/
def commanded : State :=
  { moving .copying [] with ctl := { up.ctl with
      kcmd := some loadCmd, ccmd := some (0, ctxCmd), bankcmd := some 1, attreq := some 0, attst := { st := .busy }, remain := 1 } }

theorem witness_PlatformEvents :
    (∀ st ∈ [Stage.verify, .hbm, .d2d, .init], (booting st).ctl.stage = st ∧ memWf (booting st).mem = true) ∧
    ((1 : BitVec 8).toNat < (booting .verify).ctl.minSvn.toNat ∧ (booting .verify).ctl.minSvn.toNat ≤ (2 : BitVec 8).toNat) ∧
    (∀ p : BitVec 4, getPort (booting .init) p = {}) ∧
    ((999 : Word).toNat < 1000 ∧ 1000 ≤ (1000 : Word).toNat ∧ commanded.ctl.twinTaken = false ∧ commanded.ctl.kcmd.isSome = true ∧
      commanded.ctl.ccmd.isSome = true ∧ commanded.move.isSome = true ∧ commanded.ctl.bankcmd = some 1) ∧
    (up.isReady = true ∧ commanded.isReady = true ∧ commanded.ctl.attst.st = .busy ∧ commanded.ctl.attreq = some 0 ∧ memWf commanded.mem = true) ∧
    ((setAtt commanded {}).ctl.attst.st ≠ .busy ∧ (setAtt commanded {}).ctl.remain ≠ 0 ∧
      (BitVec.twoPow 256 128).extractLsb' 128 6 ≠ 0 ∧ (0 : BitVec 256).extractLsb' 192 64 = 0) ∧
    (∃ s : State, s.isReady = true ∧ s.ctl.remain = 0 ∧ s.ctl.attst.st ≠ .busy) ∧
    ((clampAmps 1300).toNat < up.ctl.clamp.toNat ∧ up.ctl.clamp.toNat ≤ (clampAmps 0xFFF).toNat ∧
      1200 ≤ ((1200 : Word).extractLsb' 0 12).toNat ∧ ((1200 : Word).extractLsb' 0 12).toNat ≤ 3600) ∧
    (12 ≤ ((12 : Word).extractLsb' 0 4).toNat ∧ ((11 : Word).extractLsb' 0 4).toNat < 12) ∧
    ((base.islands[0]'(by decide)).req.toNat ≤ (11 : BitVec 4).toNat) ∧ base.isReady = false ∧
    (∀ n ∈ [8, 16, 32], (List.replicate n (0 : Byte)).length = n) ∧ up.staging = [] ∧ ownsQueue up .pf 5 = true ∧ 1033 % 8 = 1 :=
  ⟨by decide, by decide, by decide, by decide, by decide, by decide, ⟨{ up with ctl := { up.ctl with remain := 0 } }, by decide⟩, by decide,
    by decide, by decide, by decide, by decide, by decide, by decide, by decide⟩

theorem witness_StepKeepsMemoryForm : ∃ s t : State, memWf s.mem = true ∧ step s = .next t :=
  ⟨turnAt 0x1400000000000000, _, by decide, rfl⟩

/-! ### Further clauses of the statements about events -/

/-- The READY device in which the host schedules. -/
def hostMode : State := { up with ctl := { up.ctl with fnmode := 1 } }
def armed : BindRec := bindRec (7 * BitVec.twoPow 256 64 + BitVec.twoPow 256 96 ||| BitVec.twoPow 256 255)

theorem witness_BlockEvents_modes :
    (hostMode.isReady = true ∧ hostMode.ctl.fnmode.getLsbD 0 = true) ∧
    (up.ctl.fnmode.getLsbD 0 = false ∧ rangerPlaces up 2 armed = true ∧ recReason up 2 armed = none ∧
      rangerPlaces { up with groups := [{ gangOf .placing with overcap := true, tier := 1 }] } 2 armed = false) ∧
    (∃ b, getBlock (withMember .stopping { member .stopping with preempt := true }) 2 = some b ∧ b.preempt = true ∧ b.st.live = true ∧
      b.st ≠ .stopped ∧ b.wait.emulated = false) ∧
    (∀ p ∈ (withMember .running (member .rollback)).banks, p.2.st ≠ .evacuating) :=
  ⟨by decide, by decide +kernel, ⟨_, rfl, by decide⟩, by decide⟩

theorem witness_EngineEvents_answered : unanswered flightEnding 0 endedLoad = false ∧ slotCore (table 9).slot = 0 ∧
    current twaiting.me waitFor.t2 ≠ none := by decide

/-- Page 4 mapped to a page of the host's memory, and of a peer's. -/
def farRing (top : Byte) : State :=
  { queued .opened [launched] [] with mem := tree 0x5B 0 ++ [(0x13022, top)], pendingRecords := [⟨0, 1, 0⟩] }

set_option maxRecDepth 20000 in
theorem witness_QueueEvents_far : (∃ t, Machine.translate (farRing 0x10) none 0 0x4000 .write .link = (.ok t, farRing 0x10) ∧
    regionOf (t.pa 0x4000) = .host) ∧ (farRing 0x10).requests = [] ∧ hostMode.ctl.fnmode.getLsbD 0 = true :=
  ⟨⟨_, rfl, by decide⟩, rfl, by decide⟩

/-- A page invalidation while a store on its way holds the page. -/
def invalidating (p : List Posted) : State :=
  { up with me := { blk with posted := p }, ctl := { up.ctl with pinvs := .busy, pinv := some (BitVec.twoPow 128 121) } }

theorem witness_PageEvents_waits : pinvWaits (invalidating [onItsWay]) (BitVec.twoPow 128 121) = true ∧
    pinvWaits (invalidating []) (BitVec.twoPow 128 121) = false ∧ (∀ b ∈ allBlocks (moving .copying []), b.posted = []) ∧
    (pinHeld (moving .frozen []) 0 false 4 1 = false ∧ storeHeld (moving .frozen []) 0 false 4 1 = false ∧
      (moving .frozen []).heldObjs = [] ∧ (moving .frozen []).objWaits = [] ∧ (moveOf .frozen []).marked = []) ∧
    storeHeld { moving .frozen [] with me := { blk with posted := [{ onItsWay with op := .store [1], n := 1 }] } } 0 false 4 1 = true ∧
    (holdState 0).heldObjs = [] := by decide +kernel

theorem witness_BankEvents_slices : upSlices up false ≠ [] ∧ isBank 0x60000001 = true ∧ bankKind 0x60000001 = 6 := by decide +kernel

/-- Node 2 is reached by port 1; the request `r` is outstanding. -/
def routed (r : List ExtRequest) : State :=
  { up with ports := (Vector.replicate 12 {}).set 1 { st := .up }, routes := [(2, 2)], requests := r }

/-- An access to the first page of node 2 that left on port 0 when port 1 was not up. -/
def formerPath : ExtRequest :=
  { tag := 0, agent := .errorLog, pa := 2 * 2 ^ 48 + 2 * 2 ^ 39, op := .write [0], port := some 0, pkey := 0, fn := 0 }

theorem witness_QueueEvents_path : pathMoved (routed [formerPath]) formerPath.pa = true ∧
    pathMoved (routed [{ formerPath with port := some 1 }]) formerPath.pa = false := by decide +kernel

theorem test_correctable_slot :
    (match exec (.correctableError 0x60000001) (banked 0x60000001 { st := .watched, cew := 63 } false) with
      | .next u => (getBank u 0x60000001).st | _ => .online) = .watched := by decide +kernel

theorem witness_OutsideEvents_frozen : frozenAt (moving .frozen []) 0x4000 8 = true ∧ apertureOk (moving .frozen []) .pf 0x4000 8 = true ∧
    frozenAt (hosted .unbound) 0x4000 8 = false ∧ memWf (moving .frozen []).mem = true := by decide +kernel

/-- A context whose command is in progress, one that the twin goes on with, and a final stop that has not come to its cairns. -/
theorem witness_ContextEvents_commands :
    (let s := { ctxIn { st := .suspending } with ctl := { up.ctl with ccmd := some (2, ctxCmd) } }
     Machine.performing s 0 = true ∧ (getCtx s 0).st = .suspending ∧ ctxStopped s 0 = true) ∧
    (let s := { restoring with ctl := { up.ctl with ccmd := some (3, ctxCmd) } }
     Machine.performing s 0 = true ∧ restoreBusy s 0 = false ∧ (getCtx s 0).fromSaved = true) ∧
    (let s := { ctxIn { st := .suspending } with ctl := { up.ctl with twinTaken := true } }
     s.ctl.twinTaken = true ∧ (getCtx s 0).st = .suspending ∧ s.ctl.cres.st ≠ .busy ∧ ccmdWaits s 0 = false) ∧
    atCairns (ctxBusy { st := .migratingOut, finalStop := true }) 0 = false ∧ restoreBusy (arriving image.bytes) 0 = false := by decide +kernel

/-- A slice that holds a guest copy and a home line, and one that holds nothing. -/
def slices : State :=
  { evacuation 0x50000000 none 0 with guests := [{ die := false, line := 8, slice := 0, data := List.replicate 64 1 }]
                                      homeLines := [{ die := false, line := 9, slice := 0 }] }

theorem witness_BankEvents_drains : (slicesLines slices false 0).length = 2 ∧
    firstHeld { slices with guests := [] } false 0 = some (9, false) ∧ firstHeld { slices with homeLines := [] } false 0 = some (8, true) ∧
    slicesLines (evacuation 0x50000000 none 0) false 0 = [] ∧
    (evacuation 0x50000000 none 0).evacuations.filter (fun y => y.bank == 0x50000000) = [{ bank := 0x50000000, target := none, cp := 0 }] := by
  decide +kernel

/-- The device of `keyed` with the line of the request held for a block, and with the request's slots received on port 0. -/
def keyedHeld : State := { keyed 0 with holds := [⟨0x100, 2⟩] }
def slotted (l : List Byte) : State := { keyed 0 with ports := (Vector.replicate 12 {}).set 0 { st := .up, received := l } }

theorem witness_PortEvents_slots :
    (requestHeld keyedHeld (request 0 0) = true ∧ requestHeld (keyed 0) (request 0 0) = false) ∧
    (getPort (slotted (List.replicate 8 0)) 0).received.length < 16 ∧ (getPort (slotted (List.replicate 16 0 ++ [1])) 0).received = List.replicate 16 0 ++ [1] ∧
    (∀ m ∈ [request 1 0, request 2 2], (if m.op = 2 then 16 else 8) = (if m.op = 1 then m.len.toNat + 1 else (if m.aop = 2 then 2 else 1) * msgExtent m)) ∧
    (let m := { request 0 0 with data := [] }
     (getPort (slotted (msgSlots m ++ [])) 0).received = msgSlots m ++ [] ∧ msgHeader m ≠ 0 ∧ m.op.toNat < 3 ∧ requestHeld (slotted (msgSlots m)) m = false ∧
       m.data.length = 0) ∧
    ∃ b, getBlock (outstanding (.group ⟨0, 0, 1, 0⟩ 2 (some 3)) 0x2000000000000 (some 0)) 2 = some b ∧ b.st ≠ .stopping ∧
      ∀ pa a c d e, b.wait ≠ .ring pa a c d e :=
  ⟨by decide +kernel, by decide +kernel, by decide +kernel, by decide +kernel, by decide +kernel, _, rfl, nofun, nofun⟩

theorem witness_OutsideEvents_held : hostWaits keyedHeld 0x4000 8 = true ∧ hostWaits (keyed 0) 0x4000 8 = false ∧
    hostWaits (moving .frozen []) 0x4000 8 = true ∧ lineHeld keyedHeld none 0x4000 8 = true ∧ lineHeld (keyed 0) none 0x4000 8 = false ∧
    apertureOk keyedHeld .pf 0x4000 8 = true := by decide +kernel

theorem witness_PlatformEvents_more :
    (let s := { up with ctl := { up.ctl with stage := .failed } }; s.ctl.stage = .failed ∧ s.isReady = false) ∧
    (commanded.ctl.stage ≠ .failed ∧ commanded.ctl.twinTaken = false ∧ (faulted (.sequencer 2)).faults ≠ []) ∧
    (∃ (off : BitVec 23) (n : Nat), off.toNat % 2 ^ 22 < 16 ∧ n = 4 ∧ off.toNat % 2 ^ 22 % n = 0 ∧ off.getLsbD 22 = false) ∧
    ∃ off : BitVec 23, ¬off.toNat % 2 ^ 22 < 16 ∧ off.getLsbD 22 = false :=
  ⟨by decide, by decide, ⟨4, 4, by decide⟩, 0x100, by decide⟩

theorem witness_BlockEvents_reserved : (BitVec.twoPow 128 40).extractLsb' 38 25 ≠ 0 ∧ up.ctl.fnmode.getLsbD 0 = false := by decide +kernel

end Sys2Proof.Tests
end

/-!
PROOFS. Memory keeps its canonical form (the statement StepKeepsMemoryForm). The lemmas follow the definitions of the model
in their order: `f_mem` says that an operation leaves every cell as it is, `f_memWf` that it keeps the form, `f_keeps` that the
next state of an outcome has the form.
-/
namespace Sys2Proof.Proofs

open Sys2Proof Sys2Proof.Machine Sys2Proof.Laws
open Host (Outcome)

/-! ## Outcomes and pairs -/

/-- The next state that an outcome gives, where it gives one, has its memory in canonical form. -/
def KeepsForm (o : Outcome State Fault Refusal) : Prop :=
  match o with
  | .next t => memWf t.mem = true
  | _ => True

theorem KeepsForm.next {t : State} (h : memWf t.mem = true) : KeepsForm (.next t) := h

theorem KeepsForm.refused {r : Refusal} : KeepsForm (.refused r) := trivial

theorem KeepsForm.fault {r : Fault} : KeepsForm (.fault r) := trivial

theorem KeepsForm.ite {c : Prop} [Decidable c] {a b : Outcome State Fault Refusal} (ha : KeepsForm a) (hb : KeepsForm b) :
    KeepsForm (if c then a else b) := by
  split
  · exact ha
  · exact hb

theorem unsupported_memWf {s : State} (h : memWf s.mem = true) : memWf (unsupported s).mem = true := h

theorem whenReady_keeps {s : State} {o : Outcome State Fault Refusal} (h : memWf s.mem = true) (ho : KeepsForm o) :
    KeepsForm (whenReady s o) := KeepsForm.ite ho (KeepsForm.next h)

theorem onlyReady_keeps {s : State} {o : Outcome State Fault Refusal} (h : memWf s.mem = true) (ho : KeepsForm o) :
    KeepsForm (onlyReady s o) := KeepsForm.ite ho (KeepsForm.next h)

theorem outState_memWf {s : State} {o : Outcome State Fault Refusal} (ho : KeepsForm o) (h : memWf s.mem = true) :
    memWf (outState o s).mem = true := by
  unfold outState
  split
  · exact ho
  · exact h

/-- The state half of a known pair. -/
theorem memWf_of_eq {α : Type} {p : α × State} {a : α} {t : State} (q : p = (a, t)) (h : memWf p.2.mem = true) :
    memWf t.mem = true := by rw [q] at h; exact h

/-- The state of a known triple. -/
theorem memWf_of_eq2 {α β : Type} {p : α × β × State} {a : α} {b : β} {t : State} (q : p = (a, b, t))
    (h : memWf p.2.2.mem = true) : memWf t.mem = true := by rw [q] at h; exact h

/-- A choice between two pairs. -/
theorem memWf_ite_snd {α : Type} {c : Prop} [Decidable c] {a b : α × State} (ha : memWf a.2.mem = true)
    (hb : memWf b.2.mem = true) : memWf (if c then a else b).2.mem = true := by
  split
  · exact ha
  · exact hb

/-- The state in which a sequencer access goes on. -/
theorem seqAddr_ok_memWf {s t : State} {va : Word} {k : AccKind} {pa : Nat} {cp : BitVec 2} (q : seqAddr s va k = .ok pa cp t)
    (h : memWf s.mem = true) : memWf t.mem = true := by
  have hs := seqAddr_memWf va k h
  rw [q] at hs; exact hs

/-- The state in which a sequencer access stops. -/
theorem seqAddr_stop_memWf {s t : State} {va : Word} {k : AccKind} (q : seqAddr s va k = .stop t) (h : memWf s.mem = true) :
    memWf t.mem = true := by
  have hs := seqAddr_memWf va k h
  rw [q] at hs; exact hs

/-! ## The operations of Machine/Flit.lean -/

@[simp] theorem setPort_mem (s : State) (p : BitVec 4) (x : Port) : (setPort s p x).mem = s.mem := by
  unfold setPort; split <;> rfl

@[simp] theorem modPort_mem (s : State) (p : BitVec 4) (f : Port → Port) : (modPort s p f).mem = s.mem := by simp [modPort]

@[simp] theorem sendMessage_mem (s : State) (p : BitVec 4) (m : LvMsg) : (sendMessage s p m).mem = s.mem := by
  simp [sendMessage]

/-! ## The operations of Machine/Beyond.lean -/

@[simp] theorem sendRequest_mem (s : State) (r : ExtRequest) : (sendRequest s r).mem = s.mem := by
  unfold sendRequest; split <;> simp

@[simp] theorem extRead_mem (s : State) (agent : ExtAgent) (pa n : Nat) : (extRead s agent pa n).mem = s.mem := by
  simp [extRead, foldl_mem]

@[simp] theorem nextEvent_mem (s : State) : (nextEvent s).2.mem = s.mem := rfl

@[simp] theorem sendSignal_mem (s : State) (fn : Nat) (vec : BitVec 11) : (sendSignal s fn vec).mem = s.mem := rfl

/-! ## The operations of Machine/Page.lean -/

@[simp] theorem unhold_mem (s : State) (agent : FaultAgent) : (unhold s agent).mem = s.mem := rfl

/-! ## The operations of Machine/Block.lean -/

@[simp] theorem lowerCapl_mem (s : State) (core : BitVec 8) : (lowerCapl s core).mem = s.mem := rfl

@[simp] theorem awaitRename_mem (s : State) (t : BitVec 5) : (awaitRename s t).mem = s.mem := by
  unfold awaitRename; split <;> rfl

@[simp] theorem bindLines_mem (s : State) (ctx : BitVec 6) (r : Binding) : (bindLines s ctx r).mem = s.mem := rfl

@[simp] theorem dropCopies_mem (s : State) (x : SlotNo) : (dropCopies s x).mem = s.mem := rfl

/-! ## The operations of Machine/Life.lean -/

@[simp] theorem bringLane_mem (s : State) (core : BitVec 8) : (bringLane s core).mem = s.mem := rfl

@[simp] theorem setRecord_mem (s : State) (x : SlotNo) (r : BitVec 256) : (setRecord s x r).mem = s.mem := rfl

/-! ## The operations of Machine/Ops.lean -/

@[simp] theorem modKernel_mem (s : State) (h' : BitVec 32) (f : Kernel → Kernel) : (modKernel s h' f).mem = s.mem := rfl

theorem logLatent_memWf {s : State} (l : IcacheLine) (h : memWf s.mem = true) :
    memWf (logLatent s l).mem = true := memWf_ite (errLog_memWf _ h) h

theorem leaveLines_memWf {s : State} (t : Option Word) (h : memWf s.mem = true) :
    memWf (leaveLines s t).mem = true := foldl_memWf _ (fun _ _ hs => logLatent_memWf _ hs) _ _ h

/-! ## The operations of Machine/Operands.lean -/

@[simp] theorem readVia_mem (s : State) (die : Bool) (l : List Seg) (va n : Nat) :
    (readVia s die l va n).2.mem = s.mem := by
  induction n generalizing s va with
  | zero => rfl
  | succ k ih =>
    simp only [readVia, ih]
    split <;> simp

theorem writeVia_memWf {s : State} (who : Agent) (l : List Seg) (va : Nat) (bs : List Byte) (skip : Nat → Bool)
    (h : memWf s.mem = true) : memWf (writeVia s who l va bs skip).mem = true := by
  induction bs generalizing s va with
  | nil => exact h
  | cons b r ih =>
    refine ih _ ?_
    split
    · exact memWf_ite h (homeWrite_memWf _ _ _ h)
    · exact h

@[simp] theorem readField_mem (s : State) (die : Bool) (l : List Seg) (f : Machine.Field) :
    (readField s die l f).2.mem = s.mem := by simp [readField]

theorem writeField_memWf {s : State} (who : Agent) (l : List Seg) (f : Machine.Field) (v : Nat) (h : memWf s.mem = true) :
    memWf (writeField s who l f v).mem = true := writeVia_memWf _ _ _ _ _ h

@[simp] theorem readPlaneField_mem (s : State) (die : Bool) (l : Layout) (segs : List Seg) (p : Int) (k : Nat) :
    (readPlaneField s die l segs p k).2.mem = s.mem := by
  unfold readPlaneField; dsimp only; split <;> simp

@[simp] theorem readPlanes_mem (s : State) (die : Bool) (l : Layout) (segs : List Seg) (p : Int) (n k acc : Nat) :
    (readPlanes s die l segs p n k acc).2.mem = s.mem := by
  induction n generalizing s k acc with
  | zero => rfl
  | succ m ih => simp [readPlanes, ih]

@[simp] theorem readLp_mem (s : State) (die : Bool) (l : Layout) (segs : List Seg) (e : Nat) :
    (readLp s die l segs e).2.mem = s.mem := by
  unfold readLp; split <;> simp

@[simp] theorem loadElem_mem (s : State) (die : Bool) (l : Layout) (segs : List Seg) (e : Nat) :
    (loadElem s die l segs e).2.mem = s.mem := by
  unfold loadElem
  split
  · simp
  · split
    · simp
    · split <;> simp

theorem writePlanes_memWf {s : State} (who : Agent) (l : Layout) (segs : List Seg) (p : Int) (pat : Nat) (old : Option Nat)
    (n k shift : Nat) (h : memWf s.mem = true) : memWf (writePlanes s who l segs p pat old n k shift).mem = true := by
  induction n generalizing s k shift with
  | zero => exact h
  | succ m ih => exact ih _ _ (memWf_ite h (writeField_memWf _ _ _ _ h))

theorem storeElem_memWf {s : State} (who : Agent) (l : Layout) (segs : List Seg) (e x : Nat) (skip : Nat → Bool)
    (h : memWf s.mem = true) :
    memWf (storeElem s who l segs e x skip).mem = true :=
  memWf_ite (memWf_ite (writeField_memWf _ _ _ _ (writeField_memWf _ _ _ _ h)) (writeField_memWf _ _ _ _ h))
    (memWf_ite (writePlanes_memWf _ _ _ _ _ _ _ _ _ h) (writeVia_memWf _ _ _ _ _ h))

/-! ## The operations of Machine/Tile.lean -/

theorem accessPages_memWf {s : State} (b : Block) (rs : List (Nat × Nat)) (kind : AccKind) (eng : Eng) (f : Option Flight)
    (h : memWf s.mem = true) : memWf (accessPages s b rs kind eng f).2.mem = true := by
  induction rs generalizing s with
  | nil => exact h
  | cons r rest ih =>
    unfold accessPages
    split
    · next q => exact memWf_of_eq q (translateRange_memWf _ _ _ _ _ _ _ _ h)
    · next q => exact memWf_of_eq q (translateRange_memWf _ _ _ _ _ _ _ _ h)
    · next q =>
      have hr := ih (memWf_of_eq q (translateRange_memWf _ _ _ _ _ _ _ _ h))
      split
      · next q1 => exact memWf_of_eq q1 hr
      · exact hr

theorem accessSegs_memWf {s : State} (segs : List Seg) (kind : AccKind) (reads : Bool) (f : Option Flight)
    (h : memWf s.mem = true) :
    memWf (accessSegs s segs kind reads f).2.mem = true := by
  unfold accessSegs
  split
  · exact h
  · split
    · exact h
    · split <;> (next q => exact memWf_of_eq q (readFar_memWf _ _ h))

@[simp] theorem sendSegs_mem (s : State) (f : Flight) (segs : List Seg) : (sendSegs s f segs).mem = s.mem := by
  simp [sendSegs, foldl_mem]

theorem accessRanges_memWf {s : State} (rs : List (Nat × Nat)) (kind : AccKind) (eng : Eng) (reads : Bool)
    (f : Option Flight) (h : memWf s.mem = true) :
    memWf (accessRanges s rs kind eng reads f).2.mem = true := by
  unfold accessRanges
  split
  · next q => exact memWf_of_eq q (accessPages_memWf _ _ _ _ _ h)
  · next q => exact accessSegs_memWf _ _ _ _ (memWf_of_eq q (accessPages_memWf _ _ _ _ _ h))

theorem stopFlight_memWf {s : State} (f : Flight) (e : Nat) (w : StopWhy) (h : memWf s.mem = true) :
    memWf (stopFlight s f e w).mem = true := by
  unfold stopFlight
  dsimp only
  split
  · simpa using h
  · simpa using h
  · simp only [setFlight_mem]; exact raiseFault_memWf _ _ _ _ _ _ _ (by simpa using h)
  · simpa using h
  · exact consumePoison_memWf _ _ _ _ (by simpa using h)
  · simpa using h

/-- What an instruction does to an element keeps the form. -/
def ElemOps.Keeps (o : ElemOps) : Prop := ∀ s segs e, memWf s.mem = true → memWf (o.act s segs e).2.mem = true

theorem performElem_memWf {o : ElemOps} (ho : ElemOps.Keeps o) (f : Flight) {p : Perf} (e : Nat) (h : memWf p.s.mem = true) :
    memWf (performElem o f p e).s.mem = true := by
  unfold performElem
  dsimp only
  split
  · exact h
  split
  · exact h
  split
  · exact h
  split
  · exact h
  split
  · exact h
  split
  · next q => exact memWf_of_eq q (accessPages_memWf _ _ _ _ _ h)
  · next segs s1 q =>
    have h1 : memWf s1.mem = true := memWf_of_eq q (accessPages_memWf _ _ _ _ _ h)
    split
    · exact h1
    split
    · next q2 => exact memWf_of_eq q2 (accessSegs_memWf _ _ _ _ h1)
    · next q2 =>
      have h3 := ho _ segs e (memWf_of_eq q2 (accessSegs_memWf _ _ _ _ h1))
      split
      · next q3 => exact memWf_of_eq q3 h3
      · next q3 =>
        have h4 := memWf_of_eq q3 h3
        exact memWf_ite h4 (by simpa using h4)

theorem performElems_memWf {s : State} {o : ElemOps} (ho : ElemOps.Keeps o) (f : Flight) (es : List Nat)
    (h : memWf s.mem = true) : memWf (performElems o f s es).s.mem = true := by
  exact List.foldlRecOn (motive := fun p : Perf => memWf p.s.mem = true) es _ h
    fun _ hp e _ => performElem_memWf ho f e hp

theorem endRun_memWf {p : Perf} (f : Flight) {done : State → Flight → State}
    (hdone : ∀ u g, memWf u.mem = true → memWf (done u g).mem = true) (h : memWf p.s.mem = true) :
    memWf (endRun p f done).mem = true := by
  have h1 : ∀ g, memWf (setVersion p.s f.dst g).mem = true := fun g => by simpa using h
  unfold endRun
  dsimp only
  split
  · exact stopFlight_memWf _ _ _ (h1 _)
  · split
    · simpa using hdone _ _ (h1 _)
    · simpa using h

theorem fetchPlanes_memWf {s : State} (f : Flight) (h : memWf s.mem = true) : memWf (fetchPlanes s f).2.mem = true := by
  unfold fetchPlanes
  split
  · split
    · exact h
    · split
      · next q => exact memWf_of_eq q (accessRanges_memWf _ _ _ _ _ h)
      · next q =>
        have h1 := memWf_of_eq q (accessRanges_memWf _ _ _ _ _ h)
        split
        · next q =>
          have h2 := memWf_of_eq q (by simpa using h1)
          split <;> exact h2
  · exact h

theorem withLayout_memWf {s : State} (f : Flight) (k : State → Flight → Layout → State)
    (hk : ∀ u y2 y5, memWf u.mem = true → memWf (k u y2 y5).mem = true) (h : memWf s.mem = true) :
    memWf (withLayout s f k).mem = true := by
  unfold withLayout
  split
  · next q => exact stopFlight_memWf _ _ _ (memWf_of_eq q (fetchPlanes_memWf _ h))
  · next q => simp only [setFlight_mem]; exact memWf_of_eq q (fetchPlanes_memWf _ h)
  · next q => exact hk _ _ _ (memWf_of_eq q (fetchPlanes_memWf _ h))

@[simp] theorem loadAct_mem (die : Bool) (l : Layout) (s : State) (segs : List Seg) (e : Nat) :
    (loadAct die l s segs e).2.mem = s.mem := by simp [loadAct]

@[simp] theorem refetch_mem (s : State) (rs : List (Nat × Nat)) : (refetch s rs).mem = s.mem := rfl

theorem loadScales_memWf {s : State} (f : Flight) (k : State → State)
    (hk : ∀ u, memWf u.mem = true → memWf (k u).mem = true) (h : memWf s.mem = true) :
    memWf (loadScales s f k).mem = true := by
  unfold loadScales
  split
  · dsimp only
    split
    · next q => exact stopFlight_memWf _ _ _ (memWf_of_eq q (accessRanges_memWf _ _ _ _ _ h))
    · next q => exact hk _ (by simp only [setVersion_mem, readVia_mem]; exact memWf_of_eq q (accessRanges_memWf _ _ _ _ _ h))
  · exact hk _ h

theorem loadOps_keeps (die : Bool) (l : Layout) (bad : List Nat) : ElemOps.Keeps (loadOps die l bad) :=
  fun s segs e h => by simpa [loadOps] using h

theorem runLoad_memWf {s : State} (f : Flight) (limit : State → Layout → Nat) {done : State → Flight → State}
    (hdone : ∀ u g, memWf u.mem = true → memWf (done u g).mem = true) (h : memWf s.mem = true) :
    memWf (runLoad s f limit done).mem = true := by
  unfold runLoad
  refine withLayout_memWf _ _ (fun _ _ _ hs => loadScales_memWf _ _ (fun _ hs1 => ?_) hs) h
  exact endRun_memWf _ (fun u g hu => hdone _ _ (by simpa using hu)) (performElems_memWf (loadOps_keeps _ _ _) _ _ hs1)

@[simp] theorem endWindow_mem (s : State) (f : Flight) (got : List (Nat × Nat)) : (endWindow s f got).mem = s.mem := by
  simp [endWindow]

@[simp] theorem readWindow_mem (s : State) (l : Layout) (segs : List Seg) (es : List Nat) :
    (readWindow s l segs es).2.mem = s.mem :=
  List.foldlRecOn (motive := fun p : List (Nat × Nat) × State => p.2.mem = s.mem) es _ rfl
    fun _ hp _ _ => (loadElem_mem _ _ _ _ _).trans hp

theorem runWindow_memWf {s : State} (f : Flight) (h : memWf s.mem = true) : memWf (runWindow s f).mem = true := by
  unfold runWindow
  dsimp only
  split
  · exact stopFlight_memWf _ _ _ h
  · refine loadScales_memWf _ _ (fun _ hs => ?_) h
    split
    · split
      · exact stopFlight_memWf _ _ _ hs
      · simpa using hs
    · split
      · next q => exact stopFlight_memWf _ _ _ (memWf_of_eq q (accessPages_memWf _ _ _ _ _ hs))
      · next q =>
        have h2 := memWf_of_eq q (accessPages_memWf _ _ _ _ _ hs)
        split
        · exact stopFlight_memWf _ _ _ h2
        · split
          · next q => exact stopFlight_memWf _ _ _ (memWf_of_eq q (accessSegs_memWf _ _ _ _ h2))
          · next q => simp only [endWindow_mem, readWindow_mem]; exact memWf_of_eq q (accessSegs_memWf _ _ _ _ h2)

theorem storeOps_keeps (who : Agent) (l : Layout) (f : Flight) (vals : List Half) (bad : List Nat) :
    ElemOps.Keeps (storeOps who l f vals bad) :=
  fun _ _ _ h => memWf_ite_snd h (storeElem_memWf _ _ _ _ _ _ h)

theorem runStore_memWf {s : State} (f : Flight) (h : memWf s.mem = true) : memWf (runStore s f).mem = true :=
  withLayout_memWf _ _ (fun _ _ _ hs => endRun_memWf _ (fun _ _ hu => hu)
    (performElems_memWf (storeOps_keeps _ _ _ _ _) _ _ hs)) h

theorem toptElem_memWf {s : State} (f : Flight) (l : Layout) (segs : List Seg) (e delta : Nat) (bad : Bool)
    (h : memWf s.mem = true) :
    memWf (toptElem s f l segs e delta bad).2.mem = true := by
  unfold toptElem
  dsimp only
  split
  · next q => exact memWf_of_eq q (accessPages_memWf _ _ _ _ _ (by simpa using h))
  · next q =>
    have h1 := memWf_of_eq q (accessPages_memWf _ _ _ _ _ (by simpa using h))
    split
    · exact h1
    · split
      · exact h1
      · split
        · next q => exact memWf_of_eq q (accessSegs_memWf _ _ _ _ h1)
        · next q =>
            simp only [refetch_mem, sendSegs_mem]
            exact writePlanes_memWf _ _ _ _ _ _ _ _ _ (memWf_of_eq q (accessSegs_memWf _ _ _ _ h1))

theorem runTopt_memWf {s : State} (f : Flight) (h : memWf s.mem = true) : memWf (runTopt s f).mem = true :=
  withLayout_memWf _ _ (fun _ _ _ hs => endRun_memWf _ (fun _ _ hu => hu)
    (performElems_memWf (fun _ _ _ ha => toptElem_memWf _ _ _ _ _ _ ha) _ _ hs)) h

@[simp] theorem claimRing_mem (s : State) : (claimRing s).mem = s.mem := by
  unfold claimRing; split <;> rfl

theorem runTcb_memWf {s : State} (f : Flight) (n : Nat) (h : memWf s.mem = true) : memWf (runTcb s f n).mem = true := by
  unfold runTcb
  split
  · exact h
  · split
    · next q => exact stopFlight_memWf _ _ _ (memWf_of_eq q (accessRanges_memWf _ _ _ _ _ h))
    · next q => simp only [setFlight_mem, claimRing_mem, readVia_mem]; exact memWf_of_eq q (accessRanges_memWf _ _ _ _ _ h)

@[simp] theorem copyPoison_mem (s : State) (segs : List Seg) : (copyPoison s segs).mem = s.mem := rfl

theorem putPieces_memWf (who : Agent) (segs : List Seg) (acc : List Byte × State) (h : memWf acc.2.mem = true) :
    memWf (segs.foldl (fun (a : List Byte × State) g =>
      (a.1.drop g.len, homeWrite a.2 who g.pa (a.1.take g.len))) acc).2.mem = true := by
  exact List.foldlRecOn (motive := fun a : List Byte × State => memWf a.2.mem = true) segs _ h
    fun _ ha _ _ => homeWrite_memWf _ _ _ ha

theorem copyUnit_memWf {s : State} (f : Flight) (dst src n : Nat) (h : memWf s.mem = true) :
    memWf (copyUnit s f dst src n).2.mem = true := by
  unfold copyUnit
  split
  · next q => exact memWf_of_eq q (accessRanges_memWf _ _ _ _ _ h)
  · next rsegs _ q =>
    have h1 := memWf_of_eq q (accessRanges_memWf _ _ _ _ _ h)
    split
    · next q1 => exact memWf_of_eq q1 (accessRanges_memWf _ _ _ _ _ h1)
    · next wsegs s2 q1 =>
      have h2 : memWf s2.mem = true := memWf_of_eq q1 (accessRanges_memWf _ _ _ _ _ h1)
      have h4 := putPieces_memWf (.block s.me.slot) wsegs (readVia s2 (slotDie s.me.slot) rsegs (src % 2 ^ 64) n)
        (by rw [readVia_mem]; exact h2)
      exact memWf_ite (by simpa using h4) (by simpa using h4)

theorem copyUnits_memWf {s : State} (f : Flight) (dst src len total : Nat) (down : Bool) (fuel done : Nat)
    (h : memWf s.mem = true) : memWf (copyUnits s f dst src len total down fuel done).2.2.mem = true := by
  induction fuel generalizing s done with
  | zero => exact h
  | succ k ih =>
    unfold copyUnits
    dsimp only
    split
    · next q => exact memWf_of_eq q (copyUnit_memWf _ _ _ _ h)
    · next q => exact ih _ (memWf_of_eq q (copyUnit_memWf _ _ _ _ h))

theorem runBcopy_memWf {s : State} (f : Flight) (len : Nat) (h : memWf s.mem = true) :
    memWf (runBcopy s f len).mem = true := by
  unfold runBcopy
  dsimp only
  split
  · next q => exact stopFlight_memWf _ _ _ (memWf_of_eq2 q (copyUnits_memWf _ _ _ _ _ _ _ _ h))
  · next q => simpa using memWf_of_eq2 q (copyUnits_memWf _ _ _ _ _ _ _ _ h)

/-! ## The operations of Machine/Compute.lean -/

theorem computeDone_memWf {s : State} (f : Flight) (bad : Option Nat) (elems : List Half) (scales : List (BitVec 16))
    (h : memWf s.mem = true) :
    memWf (computeDone s f bad elems scales).mem = true := by
  unfold computeDone
  split
  · exact consumePoison_memWf _ _ _ _ (by simpa using h)
  · simpa using h

theorem runMatrix_memWf {s : State} (f : Flight) (h : memWf s.mem = true) : memWf (runMatrix s f).mem = true := by
  unfold runMatrix
  split
  · exact computeDone_memWf _ _ _ _ h
  · exact h

theorem regionCheck_memWf {s : State} (g : ShapeRec) (f : Option Flight) (h : memWf s.mem = true) :
    memWf (regionCheck s g f).2.mem = true := by
  unfold regionCheck
  split
  · next q => exact memWf_of_eq q (accessPages_memWf _ _ _ _ _ h)
  · next q =>
    have h1 := memWf_of_eq q (accessPages_memWf _ _ _ _ _ h)
    split
    · exact h1
    · dsimp only
      split
      · exact h1
      · split <;> (next q => exact memWf_of_eq q (memWf_ite_snd (accessPages_memWf _ _ _ _ _ h1) h1))

theorem runUnderstory_memWf {s : State} (f : Flight) (h : memWf s.mem = true) : memWf (runUnderstory s f).mem = true := by
  unfold runUnderstory
  split
  · next q => exact stopFlight_memWf _ _ _ (memWf_of_eq q (regionCheck_memWf _ _ h))
  · next q => simp only [setFlight_mem]; exact memWf_of_eq q (regionCheck_memWf _ _ h)
  · next q =>
    have h1 := memWf_of_eq q (regionCheck_memWf _ _ h)
    split
    · exact computeDone_memWf _ _ _ _ h1
    · exact h1

theorem runReduce_memWf {s : State} (f : Flight) (op : RedOp) (vt : BitVec 5) (vals : List Half) (h : memWf s.mem = true) :
    memWf (runReduce s f op vt vals).mem = true := by
  unfold runReduce
  split
  · exact computeDone_memWf _ _ _ _ h
  · exact h

theorem runScan_memWf {s : State} (f : Flight) (op : RedOp) (h : memWf s.mem = true) : memWf (runScan s f op).mem = true := by
  unfold runScan
  split
  · exact computeDone_memWf _ _ _ _ h
  · exact h

theorem runTcvt_memWf {s : State} (f : Flight) (h : memWf s.mem = true) : memWf (runTcvt s f).mem = true := by
  unfold runTcvt
  split
  · exact computeDone_memWf _ _ _ _ h
  · exact h

theorem runTfill_memWf {s : State} (f : Flight) (imm : BitVec 24) (h : memWf s.mem = true) :
    memWf (runTfill s f imm).mem = true := by
  unfold runTfill
  split
  · exact computeDone_memWf _ _ _ _ h
  · exact h

theorem runTmov_memWf {s : State} (f : Flight) (h : memWf s.mem = true) : memWf (runTmov s f).mem = true := by
  unfold runTmov
  split
  · exact computeDone_memWf _ _ _ _ h
  · exact h

/-! ## The operations of Machine/Lane.lean -/

theorem laneAny_keeps (s : State) (k : LaneJob → Strip) (h : memWf s.mem = true) : KeepsForm (laneAny s k) := by
  unfold laneAny
  split
  · exact .fault
  · exact .next h

theorem laneTyped_keeps (s : State) (k : LaneJob → Machine.Num → Option Strip) (h : memWf s.mem = true) :
    KeepsForm (laneTyped s k) := by
  unfold laneTyped
  split
  · exact .fault
  · split
    · exact .refused
    · exact .next h

theorem laneInt_keeps (s : State) (f : L3) (op : Bool → Nat → Int → Int → Int) (h : memWf s.mem = true) :
    KeepsForm (laneInt s f op) := laneTyped_keeps _ _ h

theorem laneShift_keeps (s : State) (f : L3) (op : Nat → Nat → Nat → Nat) (h : memWf s.mem = true) :
    KeepsForm (laneShift s f op) := laneTyped_keeps _ _ h

theorem laneBits_keeps (s : State) (f : L3) (op : Nat → Nat → Nat) (h : memWf s.mem = true) :
    KeepsForm (laneBits s f op) := laneTyped_keeps _ _ h

theorem laneFp_keeps (s : State) (f : L3) (op : FpFmt → Bool → Fp → Fp → Fp → FRes) (h : memWf s.mem = true) :
    KeepsForm (laneFp s f op) := laneTyped_keeps _ _ h

theorem laneFp1_keeps (s : State) (f : L2) (op : FpFmt → Bool → Nat → Half → Fp → FRes) (h : memWf s.mem = true) :
    KeepsForm (laneFp1 s f op) := laneTyped_keeps _ _ h

theorem laneCmp_keeps (s : State) (f : L3) (c : CmpOp) (h : memWf s.mem = true) :
    KeepsForm (laneCmp s f c) := laneTyped_keeps _ _ h

theorem lanePred_keeps (s : State) (vd va vb : BitVec 5) (g : Guard) (op : Bool → Bool → Bool) (h : memWf s.mem = true) :
    KeepsForm (Machine.lanePred s vd va vb g op) := laneAny_keeps _ _ h

theorem laneMove_keeps (s : State) (vd : BitVec 5) (g : Guard) (x : LaneJob → Machine.Num → Nat → Nat)
    (h : memWf s.mem = true) :
    KeepsForm (laneMove s vd g x) := laneTyped_keeps _ _ h

theorem overcapSelf_memWf {s : State} (x : SlotNo) (h : memWf s.mem = true) : memWf (overcapSelf s x).mem = true := by
  unfold overcapSelf
  split
  · exact overcapBand_memWf _ h
  · exact h

theorem overcapAt_memWf {s : State} (x : SlotNo) (flight : Nat) (h : memWf s.mem = true) :
    memWf (overcapAt s x flight).mem = true := by
  unfold overcapAt
  split
  · exact memWf_ite (killGroup_memWf _ _ _ h) (overcapSelf_memWf _ h)
  · exact h

theorem startLane_memWf {s : State} (f : Flight) (h' : BitVec 32) (code : List (BitVec 32)) (e g : Nat)
    (ins : List Version) (mask : List Bool) (h : memWf s.mem = true) :
    memWf (startLane s f h' code e g ins mask).mem = true := memWf_ite (by simpa using h) (overcapAt_memWf _ _ h)

theorem endLane_memWf {s : State} (j : LaneJob) (h : memWf s.mem = true) : memWf (endLane s j).mem = true := by
  unfold endLane
  split
  · exact h
  · dsimp only
    split
    · exact runReduce_memWf _ _ _ _ (memWf_ite h h)
    · simp only [setVersion_mem]; exact computeDone_memWf _ _ _ _ (memWf_ite h h)

theorem stripBoundary_memWf {s : State} (h : memWf s.mem = true) : memWf (stripBoundary s).mem = true := by
  unfold stripBoundary
  split
  · exact h
  · exact memWf_ite h (memWf_ite (consumePoison_memWf _ _ _ _ (by simpa using h))
        (memWf_ite (endLane_memWf _ (by simpa using h))
          (memWf_ite (by simpa using h) (overcapAt_memWf _ _ (by simpa using h)))))

theorem laneEvict_mem {s t : State} {core : BitVec 8} {need fuel : Nat} (q : laneEvict s core need fuel = some t) :
    t.mem = s.mem := by
  induction fuel generalizing s with
  | zero =>
    simp only [laneEvict, Option.ite_none_right_eq_some, Option.some.injEq] at q
    rw [q.2]
  | succ k ih =>
    unfold laneEvict at q
    dsimp only at q
    split at q
    · rw [Option.some.inj q]
    · split at q
      · cases q
      · exact (ih q :)

@[simp] theorem laneName_mem (s : State) (core : BitVec 8) (k : BitVec 32) (off : Nat) :
    (laneName s core k off).mem = s.mem := by
  unfold laneName
  split
  · rfl
  · dsimp only
    split
    · next q => exact (laneEvict_mem q :)
    · rfl

theorem runLane_memWf {s : State} (f : Flight) (off e g : Nat) (ins : List Version) (mask : List Bool)
    (h : memWf s.mem = true) :
    memWf (runLane s f off e g ins mask).mem = true := by
  unfold runLane
  dsimp only
  split
  · exact h
  · split
    · simpa using h
    · split
      · exact startLane_memWf _ _ _ _ _ _ _ h
      · exact h

theorem runMap_memWf {s : State} (f : Flight) (m : MapF) (h : memWf s.mem = true) : memWf (runMap s f m).mem = true := by
  unfold runMap
  dsimp only
  split
  · split
    · exact consumePoison_memWf _ _ _ _ (by simpa using h)
    · exact runLane_memWf _ _ _ _ _ _ h
  · exact h

theorem runRed_memWf {s : State} (f : Flight) (r : RedF) (h : memWf s.mem = true) : memWf (runRed s f r).mem = true := by
  unfold runRed
  split
  · exact memWf_ite (runLane_memWf _ _ _ _ _ _ h) (runReduce_memWf _ _ _ _ h)
  · exact h

/-! ## The operations of Machine/SyncTile.lean -/

theorem chunkAtomics_memWf {s : State} (op : Option RedOp) (l : Layout) (segs : List Seg) (vals : List Half) (es : List Nat)
    (h : memWf s.mem = true) : memWf (chunkAtomics s op l segs vals es).1.mem = true := by
  unfold chunkAtomics
  refine List.foldlRecOn (motive := fun a : State × List (Nat × Nat) => memWf a.1.mem = true) _ _ h fun a ha _ _ => ?_
  dsimp only
  split
  · exact ha
  · exact homeWrite_memWf _ _ _ ha

theorem askAtomics_memWf {s : State} (f : Flight) (l : List (Nat × ExtOp)) (h : memWf s.mem = true) :
    memWf (askAtomics s f l).2.mem = true := by
  unfold askAtomics
  refine memWf_ite_snd ?_ ?_
  · exact foldl_memWf _ (fun _ x hs => useAnswer_memWf (some f.id) (x.1, 4) hs) l s h
  · exact foldl_memWf _ (fun s x hs => by simpa using hs) l s h

theorem tamoChunk_memWf (op : Option RedOp) (l : Layout) (vals : List Half) (bad : List Nat) (f : Flight) {p : Perf} (k : Nat)
    (h : memWf p.s.mem = true) : memWf (tamoChunk op l vals bad f p k).s.mem = true := by
  unfold tamoChunk
  dsimp only
  split
  · exact h
  split
  · exact h
  split
  · next q => exact memWf_of_eq q (accessRanges_memWf _ _ _ _ _ h)
  · next q =>
    have h1 := memWf_of_eq q (accessRanges_memWf _ _ _ _ _ h)
    split
    · next q1 => exact memWf_of_eq q1 (askAtomics_memWf _ _ h1)
    · next q1 =>
      have h2 := memWf_of_eq q1 (askAtomics_memWf _ _ h1)
      split <;>
        · simp only [Perf.stop, refetch_mem]
          exact chunkAtomics_memWf _ _ _ _ _ h2

theorem tamoChunks_memWf (op : Option RedOp) (l : Layout) (vals : List Half) (bad : List Nat) (f : Flight) (ks : List Nat)
    {p : Perf} (h : memWf p.s.mem = true) :
    memWf (ks.foldl (tamoChunk op l vals bad f) p).s.mem = true := by
  induction ks generalizing p with
  | nil => exact h
  | cons k _ ih => exact ih (tamoChunk_memWf op l vals bad f k h)

theorem runTamo_memWf {s : State} (f : Flight) (op : Option RedOp) (h : memWf s.mem = true) :
    memWf (runTamo s f op).mem = true := by
  unfold runTamo
  refine endRun_memWf _ (fun _ _ hu => hu) ?_
  dsimp only
  exact tamoChunks_memWf _ _ _ _ _ _ h

@[simp] theorem takeLink_mem (s : State) (x : SlotNo) (line : Nat) : (takeLink s x line).mem = s.mem := rfl

@[simp] theorem clearLinks_mem (s : State) (x : SlotNo) : (clearLinks s x).mem = s.mem := rfl

theorem runTglk_memWf {s : State} (f : Flight) (h : memWf s.mem = true) : memWf (runTglk s f).mem = true := by
  unfold runTglk
  refine endRun_memWf _ (fun _ _ hu => by simpa using hu) (performElems_memWf (fun s1 segs e hs => ?_) _ _ (memWf_ite h h))
  dsimp only
  split
  · exact memWf_ite_snd hs (memWf_ite (by simpa using hs) (by simpa using hs))
  · simpa using hs

theorem runTscc_memWf {s : State} (f : Flight) (h : memWf s.mem = true) : memWf (runTscc s f).mem = true := by
  unfold runTscc
  refine endRun_memWf _ (fun _ _ hu => hu) (performElems_memWf (fun s1 segs e hs => ?_) _ _ h)
  dsimp only
  split
  · exact hs
  · exact memWf_ite_snd hs (memWf_ite_snd (storeElem_memWf _ _ _ _ _ _ hs) hs)

/-! ## The operations of Machine/Trail.lean -/

theorem andThen_memWf {α β : Type} {r : Reading α} {k : α → State → Reading β} (hk : ∀ a u, memWf u.mem = true →
    memWf (k a u).2.mem = true) (h : memWf r.2.mem = true) : memWf (andThen r k).2.mem = true := by
  unfold andThen
  split
  · exact h
  · exact hk _ _ h

@[simp] theorem pinSegs_mem (s : State) (f : Flight) (segs : List Seg) : (pinSegs s f segs).mem = s.mem := rfl

theorem accessPinned_memWf {s : State} (f : Flight) (va n : Nat) (reads : Bool) (h : memWf s.mem = true) :
    memWf (accessPinned s f va n reads).2.mem = true := by
  unfold accessPinned
  split
  · next q => exact memWf_of_eq q (accessPages_memWf _ _ _ _ _ h)
  · next q =>
    have h1 := memWf_of_eq q (accessPages_memWf _ _ _ _ _ h)
    split <;> (next q => exact memWf_of_eq q (accessSegs_memWf _ _ _ _ (by simpa using h1)))

theorem readX_memWf (fresh : Bool) {s : State} (f : Flight) (va n : Nat) (h : memWf s.mem = true) :
    memWf (readX fresh s f va n).2.mem = true :=
  andThen_memWf (fun _ _ hs => by simp only [readVia_mem]; exact memWf_ite (by simpa using hs) hs)
    (accessPinned_memWf _ _ _ _ h)

@[simp] theorem trapX_mem {α : Type} (s : State) (c : Cause) (tval : Nat) :
    (trapX s c tval : Reading α).2.mem = s.mem := rfl

theorem readTable_memWf {s : State} (f : Flight) (d : Desc) (h : memWf s.mem = true) :
    memWf (readTable s f d).2.mem = true := by
  unfold readTable
  refine andThen_memWf (fun _ _ hs => ?_) (readX_memWf _ _ _ _ h)
  split <;> exact hs

theorem readDesc_memWf {s : State} (a : Nat) (f : Flight) (h : memWf s.mem = true) :
    memWf (readDesc s a f).2.mem = true := by
  unfold readDesc
  split
  · exact h
  refine andThen_memWf (fun _ u hs => ?_) (accessPinned_memWf _ _ _ _ h)
  dsimp only
  generalize hu : dropGuests u _ _ = v
  have hv : memWf v.mem = true := by rw [← hu]; exact hs
  exact memWf_ite_snd hv (memWf_ite_snd hv (memWf_ite_snd hv (memWf_ite_snd hv (memWf_ite_snd hv
    (memWf_ite_snd (andThen_memWf (fun _ _ h1 => h1) (readTable_memWf _ _ hv)) hv)))))

@[simp] theorem badStructure_mem {α : Type} (s : State) (o : Operand) (elem row : Nat) (col v : Int) :
    (badStructure s o elem row col v : Reading α).2.mem = s.mem := rfl

theorem readRaw_memWf (fresh : Bool) {s : State} (f : Flight) (d : Desc) (o : Operand) (h : memWf s.mem = true) :
    memWf (readRaw fresh s f d o).2.mem = true :=
  andThen_memWf (fun _ _ hs => andThen_memWf (fun _ _ hs1 => hs1) (readX_memWf _ _ _ _ hs)) (readX_memWf _ _ _ _ h)

@[simp] theorem entriesOf_mem (s : State) (d : Desc) (o : Operand) (r : RawStructure) :
    (entriesOf s d o r).2.mem = s.mem := by
  unfold entriesOf
  dsimp only
  split
  · exact badStructure_mem _ _ _ _ _ _
  · split
    · exact badStructure_mem _ _ _ _ _ _
    · split
      · exact badStructure_mem _ _ _ _ _ _
      · rfl

@[simp] theorem lpValue_mem (s : State) (die : Bool) (segs : List Seg) (l : Layout) (q : Nat) :
    (lpValue s die segs l q).2.mem = s.mem := by
  unfold lpValue; dsimp only; split <;> simp

theorem valuePlanes_memWf {s : State} (f : Flight) (v : ValueSrc) (h : memWf s.mem = true) :
    memWf (valuePlanes s f v).2.mem = true := memWf_ite_snd (readTable_memWf _ _ h) h

theorem locateValues_memWf {s : State} (f : Flight) (v : ValueSrc) (n : Nat) (h : memWf s.mem = true) :
    memWf (locateValues s f v n).2.mem = true := by
  unfold locateValues
  refine andThen_memWf (fun _ _ hs => ?_) (valuePlanes_memWf _ _ h)
  split
  · next q => exact memWf_of_eq q (accessPages_memWf _ _ _ _ _ hs)
  · next q => simp only [pinSegs_mem]; exact memWf_of_eq q (accessPages_memWf _ _ _ _ _ hs)

theorem readValues_memWf {s : State} (f : Flight) (v : ValueSrc) (n : Nat) (qs : List Nat) (h : memWf s.mem = true) :
    memWf (readValues s f v n qs).2.mem = true := by
  unfold readValues
  refine andThen_memWf (fun pl _ hs => ?_) (valuePlanes_memWf _ _ h)
  dsimp only
  split
  · next q => exact memWf_of_eq q (accessRanges_memWf _ _ _ _ _ hs)
  · next q =>
    have h1 := memWf_of_eq q (accessRanges_memWf _ _ _ _ _ hs)
    refine List.foldlRecOn (motive := fun a : List (Nat × Fp) × State => memWf a.2.mem = true) qs _ h1 fun a ha _ _ => ?_
    exact memWf_ite_snd (by simpa using ha) (by simpa using ha)

theorem haltFlight_memWf {s : State} (f : Flight) (h' : Halt) (h : memWf s.mem = true) :
    memWf (haltFlight s f h').mem = true := by
  unfold haltFlight
  split
  · exact stopFlight_memWf _ _ _ h
  · simpa using h

theorem replay_memWf {s : State} (f : Flight) (r : SparseRead) (h : memWf s.mem = true) :
    memWf (replay s f r).mem = true := by
  unfold replay
  split
  · next q => exact haltFlight_memWf _ _ (memWf_of_eq q (readValues_memWf _ _ _ _ h))
  · next q =>
    have h1 := memWf_of_eq q (readValues_memWf _ _ _ _ h)
    split
    · exact computeDone_memWf _ _ _ _ h1
    · exact h1

@[simp] theorem startCompile_mem (s : State) (d : Desc) (es : List (Nat × Nat × Nat)) :
    (startCompile s d es).2.mem = s.mem := rfl

theorem replayTrail_memWf {s : State} (f : Flight) (t : Trail) (h : memWf s.mem = true) :
    memWf (replayTrail s f t).mem = true := replay_memWf _ _ h

theorem replayOwn_memWf {s : State} (f : Flight) (r : SparseRead) (h : memWf s.mem = true) :
    memWf (replayOwn s f r).mem = true := by
  unfold replayOwn
  dsimp only
  split
  · exact memWf_ite (replay_memWf _ _ (by simpa using h)) (by simpa using h)
  · exact replay_memWf _ _ (by simpa using h)

theorem missMmas_memWf {s : State} (f : Flight) (ta : BitVec 5) (d : Desc) (h : memWf s.mem = true) :
    memWf (missMmas s f ta d).mem = true := by
  unfold missMmas
  dsimp only
  split
  · next q =>
      exact haltFlight_memWf _ _ (memWf_of_eq q (andThen_memWf (fun _ _ hs =>
              andThen_memWf (fun _ _ hs1 => andThen_memWf (fun _ _ hs2 => hs2) (by simpa using hs1))
                (locateValues_memWf _ _ _ hs)) (readRaw_memWf _ _ _ _ h)))
  · next q =>
      exact memWf_ite (by
          simp only [setFlight_mem, startCompile_mem]
          exact memWf_of_eq q (andThen_memWf (fun _ _ hs =>
                andThen_memWf (fun _ _ hs1 => andThen_memWf (fun _ _ hs2 => hs2) (by simpa using hs1))
                  (locateValues_memWf _ _ _ hs)) (readRaw_memWf _ _ _ _ h)))
        (replayOwn_memWf _ _ (memWf_of_eq q (andThen_memWf (fun _ _ hs =>
                andThen_memWf (fun _ _ hs1 => andThen_memWf (fun _ _ hs2 => hs2) (by simpa using hs1))
                  (locateValues_memWf _ _ _ hs)) (readRaw_memWf _ _ _ _ h))))

theorem hitMmas_memWf {s : State} (f : Flight) (t : Trail) (h : memWf s.mem = true) : memWf (hitMmas s f t).mem = true := by
  unfold hitMmas
  split
  · next q => exact haltFlight_memWf _ _ (memWf_of_eq q (locateValues_memWf _ _ _ h))
  · next q =>
      exact memWf_ite (replayTrail_memWf _ _ (memWf_of_eq q (locateValues_memWf _ _ _ h)))
        (by simp only [setFlight_mem]; exact memWf_of_eq q (locateValues_memWf _ _ _ h))

theorem runMmas_memWf {s : State} (f : Flight) (ta : BitVec 5) (h : memWf s.mem = true) :
    memWf (runMmas s f ta).mem = true := by
  unfold runMmas
  split
  · exact h
  · split
    · exact replayOwn_memWf _ _ h
    · dsimp only
      split
      · next q => exact haltFlight_memWf _ _ (memWf_of_eq q (readDesc_memWf _ _ (by simpa using h)))
      · next q =>
        have h1 := memWf_of_eq q (readDesc_memWf _ _ (by simpa using h))
        split
        · exact haltFlight_memWf _ _ h1
        · split
          · exact hitMmas_memWf _ _ h1
          · exact missMmas_memWf _ _ _ h1

theorem compileDone_memWf {s : State} (t : Trail) (h : memWf s.mem = true) : memWf (compileDone s t).mem = true := by
  unfold compileDone
  refine memWf_ite h (foldl_memWf _ (fun u w hs => ?_) _ _ (memWf_ite h h))
  dsimp only
  split
  · exact replayTrail_memWf _ _ (by simpa using hs)
  · simpa using hs

/-- The state in which a TPAT waits. -/
theorem patMeets_memWf {s t : State} {f : Flight} {va n : Nat} {w : StopWhy} (q : patMeets s f va n = .waits w t)
    (h : memWf s.mem = true) : memWf t.mem = true := by
  have ha := accessRanges_memWf [(va, n)] .read .tile true (some f) h
  unfold patMeets at q
  split at q
  · split at q <;> cases q
  · next e => cases q; exact memWf_of_eq e ha
  · next e => cases q; exact memWf_of_eq e ha
  · cases q

theorem patAfter_memWf {s0 s k : State} (f : Flight) (va n : Nat) (hk : memWf k.mem = true) (h0 : memWf s0.mem = true)
    (h : memWf s.mem = true) : memWf (patAfter s0 s f va n k).mem = true := by
  unfold patAfter
  split
  · exact hk
  · simpa using h0
  · next q => exact stopFlight_memWf _ _ _ (patMeets_memWf q h)

theorem runTpatDesc_memWf {s0 s : State} (f : Flight) (d : Desc) (hs : memWf s.mem = true) (h : memWf s0.mem = true) :
    memWf (runTpatDesc s0 s f d).mem = true := by
  unfold runTpatDesc
  dsimp only
  split
  · simpa using hs
  · split
    · exact patAfter_memWf _ _ _ (by simpa using h) h hs
    · next q =>
      have h2 := memWf_of_eq q (readX_memWf _ _ _ _ hs)
      split
      · exact patAfter_memWf _ _ _ (patAfter_memWf _ _ _ (by simpa using h) h hs) h hs
      · next q =>
          exact patAfter_memWf _ _ _ (patAfter_memWf _ _ _ (by
                simp only [flightDone_mem]
                exact memWf_ite (by
                    simp only [startCompile_mem]
                    exact memWf_of_eq q (andThen_memWf (fun _ _ hs1 => by simpa using hs1) (readRaw_memWf _ _ _ _ hs)))
                  (memWf_of_eq q (andThen_memWf (fun _ _ hs1 => by simpa using hs1) (readRaw_memWf _ _ _ _ hs)))) h hs) h hs

theorem runTpat_memWf {s : State} (f : Flight) (h : memWf s.mem = true) : memWf (runTpat s f).mem = true := by
  unfold runTpat
  dsimp only
  split
  · next q =>
    have h1 := memWf_of_eq q (accessRanges_memWf _ _ _ _ _ h)
    split
    · split
      · exact patAfter_memWf _ _ _ (patAfter_memWf _ _ _ (by simpa using h) h h) h h
      · next q =>
          exact patAfter_memWf _ _ _
            (patAfter_memWf _ _ _ (runTpatDesc_memWf _ _ (memWf_of_eq q (readDesc_memWf _ _ h)) h) h h) h h
    · split
      · exact patAfter_memWf _ _ _ (patAfter_memWf _ _ _ (by simpa using h) h h) h h
      · next q =>
          exact patAfter_memWf _ _ _
            (patAfter_memWf _ _ _ (runTpatDesc_memWf _ _ (memWf_of_eq q (readDesc_memWf _ _ h)) h) h h) h h
  · split
    · split
      · exact patAfter_memWf _ _ _ (patAfter_memWf _ _ _ (by simpa using h) h h) h h
      · next q =>
          exact patAfter_memWf _ _ _
            (patAfter_memWf _ _ _ (runTpatDesc_memWf _ _ (memWf_of_eq q (readDesc_memWf _ _ h)) h) h h) h h
    · split
      · exact patAfter_memWf _ _ _ (patAfter_memWf _ _ _ (by simpa using h) h h) h h
      · next q =>
          exact patAfter_memWf _ _ _
            (patAfter_memWf _ _ _ (runTpatDesc_memWf _ _ (memWf_of_eq q (readDesc_memWf _ _ h)) h) h h) h h

theorem runTdens_memWf {s : State} (f : Flight) (t : BitVec 5) (h : memWf s.mem = true) :
    memWf (runTdens s f t).mem = true := by
  unfold runTdens
  dsimp only
  split
  · next q =>
      exact haltFlight_memWf _ _ (memWf_of_eq q (andThen_memWf (fun _ _ hs =>
              andThen_memWf (fun _ _ hs1 => andThen_memWf (fun _ _ hs2 => hs2) (by simpa using hs1))
                (readRaw_memWf _ _ _ _ hs)) (readDesc_memWf _ _ h)))
  · next q =>
    have h1 := memWf_of_eq q (andThen_memWf
      (fun _ _ hs => andThen_memWf (fun _ _ hs1 => andThen_memWf (fun _ _ hs2 => hs2) (by simpa using hs1))
        (readRaw_memWf _ _ _ _ hs))
      (readDesc_memWf _ _ h))
    split
    · next q => exact haltFlight_memWf _ _ (memWf_of_eq q (accessRanges_memWf _ _ _ _ _ h1))
    · next q =>
        simp only [flightDone_mem, refetch_mem, sendSegs_mem]
        exact homeWrite_memWf _ _ _ (memWf_of_eq q (accessRanges_memWf _ _ _ _ _ h1))

theorem locateOperand_memWf {s : State} (f : Flight) (d : Desc) (o : Operand) (h : memWf s.mem = true) :
    memWf (locateOperand s f d o).2.mem = true :=
  andThen_memWf (fun _ _ hs => andThen_memWf (fun _ _ hs1 => hs1) (locateValues_memWf _ _ _ hs)) (readRaw_memWf _ _ _ _ h)

theorem operandRows_memWf {s : State} (f : Flight) (r : SparseRead) (h : memWf s.mem = true) :
    memWf (operandRows s f r).2.mem = true := andThen_memWf (fun _ _ hs => hs) (readValues_memWf _ _ _ _ h)

theorem readBoth_memWf {s : State} (f : Flight) (ta tb : BitVec 5) (g : ShapeRec) (h : memWf s.mem = true) :
    memWf (readBoth s f ta tb g).2.mem = true := by
  unfold readBoth
  refine andThen_memWf (fun _ _ hs => andThen_memWf (fun _ _ hs1 => ?_) (readDesc_memWf _ _ hs)) (readDesc_memWf _ _ h)
  split
  · simpa using hs1
  · exact andThen_memWf (fun _ _ hs2 =>
        andThen_memWf (fun _ _ hs3 =>
            andThen_memWf (fun _ _ hs3 => andThen_memWf (fun _ _ hs3 => hs3) (by simpa using hs3)) (by simpa using hs3))
          (locateOperand_memWf _ _ _ hs2)) (locateOperand_memWf _ _ _ hs1)

theorem multiplyBoth_memWf {s : State} (f : Flight) (g : ShapeRec) (a b : SparseRead) (h : memWf s.mem = true) :
    memWf (multiplyBoth s f g a b).mem = true := by
  unfold multiplyBoth
  split
  · next q =>
      exact haltFlight_memWf _ _ (memWf_of_eq q (andThen_memWf
            (fun _ _ hs => andThen_memWf (fun _ _ hs1 => hs1) (operandRows_memWf _ _ hs)) (operandRows_memWf _ _ h)))
  · next q =>
      exact computeDone_memWf _ _ _ _ (memWf_of_eq q (andThen_memWf
            (fun _ _ hs => andThen_memWf (fun _ _ hs1 => hs1) (operandRows_memWf _ _ hs)) (operandRows_memWf _ _ h)))

theorem runMmss_memWf {s : State} (f : Flight) (ta tb : BitVec 5) (h : memWf s.mem = true) :
    memWf (runMmss s f ta tb).mem = true := by
  unfold runMmss
  split
  · exact multiplyBoth_memWf _ _ _ _ h
  · split
    · next q => exact haltFlight_memWf _ _ (memWf_of_eq q (readBoth_memWf _ _ _ _ h))
    · next q => exact multiplyBoth_memWf _ _ _ _ (memWf_of_eq q (readBoth_memWf _ _ _ _ h))
  · exact h

/-! ## The operations of Machine/Perform.lean -/

theorem runTld_memWf {s : State} (f : Flight) (h : memWf s.mem = true) :
    memWf (runTld s f).mem = true := runLoad_memWf _ _ (fun _ _ hs => hs) h

theorem runTldff_memWf {s : State} (f : Flight) (h : memWf s.mem = true) :
    memWf (runTldff s f).mem = true := runLoad_memWf _ _ (fun _ _ hs => by simpa using hs) h

theorem runTldw_memWf {s : State} (f : Flight) (w : BitVec 3) (h : memWf s.mem = true) :
    memWf (runTldw s f w).mem = true := by
  unfold runTldw
  dsimp only
  split
  · simpa using h
  · exact runTld_memWf _ h

theorem performFlight_memWf {s : State} (f : Flight) (h : memWf s.mem = true) : memWf (performFlight s f).mem = true := by
  unfold performFlight
  split
  · exact runTld_memWf _ h
  · exact runTldff_memWf _ h
  · exact runStore_memWf _ h
  · exact runStore_memWf _ h
  · exact runWindow_memWf _ h
  · exact runLoad_memWf _ _ (fun _ _ hs => by simpa using hs) h
  · exact runTldw_memWf _ _ h
  · exact runTcb_memWf _ _ h
  · exact runTopt_memWf _ h
  · exact runBcopy_memWf _ _ h
  · exact runMatrix_memWf _ h
  · exact memWf_ite (runMatrix_memWf _ h) (runUnderstory_memWf _ h)
  · exact runMap_memWf _ _ h
  · exact runRed_memWf _ _ h
  · exact runTcvt_memWf _ h
  · exact runTfill_memWf _ _ h
  · exact runTmov_memWf _ h
  · exact runScan_memWf _ _ h
  · exact runMmas_memWf _ _ h
  · exact runMmss_memWf _ _ _ h
  · exact runTpat_memWf _ h
  · exact runTdens_memWf _ _ h
  · exact runTglk_memWf _ h
  · exact runTscc_memWf _ h
  · split
    · exact runTamo_memWf _ _ h
    · exact h

@[simp] theorem dropSilent_mem (s : State) : (dropSilent s).mem = s.mem := rfl

theorem tryPerform_memWf {s : State} (id : Nat) (h : memWf s.mem = true) : memWf (tryPerform s id).mem = true := by
  unfold tryPerform
  split
  · exact memWf_ite (by simp only [dropSilent_mem]; exact performFlight_memWf _ h) h
  · exact h

theorem drain_memWf {s : State} (h : memWf s.mem = true) :
    memWf (drain s).mem = true := foldl_memWf _ (fun _ _ hs => tryPerform_memWf _ hs) _ _ h

@[simp] theorem fillMessages_mem (s : State) (x : Block) (v : Version) : (fillMessages s x v).mem = s.mem := rfl

@[simp] theorem publish_mem (s : State) : (publish s).mem = s.mem :=
  foldl_mem _ (fun u v => fillMessages_mem u u.me v) _ s

theorem completeFlight_memWf {s : State} (f : Flight) (h : memWf s.mem = true) : memWf (completeFlight s f).mem = true :=
  settleStop_memWf _ (memWf_ite (by simpa using h) (drain_memWf (by simpa using h)))

theorem launchFlight_memWf {s : State} (f : Flight) (h : memWf s.mem = true) : memWf (launchFlight s f).mem = true :=
  memWf_ite (doubleTrap_memWf _ h) (memWf_ite (by simpa using h) (drain_memWf (by simpa using h)))

/-! ## The operations of Machine/Scalar.lean -/

@[simp] theorem writeBack_mem (s : State) (sd : BitVec 6) (v : Word) : (writeBack s sd v).mem = s.mem := by simp [writeBack]

theorem runS3_keeps (op : AluOp) (f : S3) (s : State) (h : memWf s.mem = true) :
    KeepsForm (runS3 op f s) := .next (by simpa using h)

theorem runSI_keeps (op : AluOp) (f : SI) (s : State) (h : memWf s.mem = true) :
    KeepsForm (runSI op f s) := .next (by simpa using h)

theorem runS2_keeps (g : Nat → Nat → Nat) (f : S2) (s : State) (h : memWf s.mem = true) :
    KeepsForm (runS2 g f s) := .next (by simpa using h)

theorem execMovi_keeps (f : SdImm) (s : State) (h : memWf s.mem = true) : KeepsForm (execMovi f s) := .next (by simpa using h)

theorem execMovhi_keeps (f : SdImm) (s : State) (h : memWf s.mem = true) : KeepsForm (execMovhi f s) :=
  .next (by simpa using h)

/-! ## The operations of Machine/TileSetup.lean -/

theorem execHset_keeps (f : HField) (s : State) (h : memWf s.mem = true) : KeepsForm (execHset f s) :=
  .next (by simpa using h)

theorem execHget_keeps (f : HField) {s : State} (h : memWf s.mem = true) :
    KeepsForm (execHget f s) := .ite (.ite (.next (doubleTrap_memWf _ h)) (.next h)) (.next (by simpa using h))

theorem execTbind_keeps (t : BitVec 5) (h' : BitVec 4) (s : State) (h : memWf s.mem = true) :
    KeepsForm (execTbind t h' s) := .next (by simpa using h)

theorem execTdrop_keeps (t : BitVec 5) (s : State) (h : memWf s.mem = true) :
    KeepsForm (execTdrop t s) := .next (by simpa using h)

theorem execTqry_keeps (sa : BitVec 6) (q : QuerySel) (s : State) (h : memWf s.mem = true) :
    KeepsForm (execTqry sa q s) := .next (by simpa using h)

theorem execWbind_keeps (f : WbindF) (s : State) (h : memWf s.mem = true) :
    KeepsForm (execWbind f s) := .next (by simpa using h)

theorem parkUnless_memWf {s : State} (c : Bool) (h : memWf s.mem = true) :
    memWf (parkUnless s c).mem = true := memWf_ite (by simpa using h) (parkOn_memWf _ h)

theorem execWaitc_keeps (f : WaitcF) {s : State} (h : memWf s.mem = true) :
    KeepsForm (execWaitc f s) := .next (parkUnless_memWf _ h)

theorem execWaittAll_keeps (sa : BitVec 6) {s : State} (h : memWf s.mem = true) :
    KeepsForm (execWaittAll sa s) := .next (parkUnless_memWf _ h)

theorem execWaittAny_keeps (sa : BitVec 6) {s : State} (h : memWf s.mem = true) :
    KeepsForm (execWaittAny sa s) := .next (parkUnless_memWf _ h)

theorem execTagff_keeps (sd sa : BitVec 6) (s : State) (h : memWf s.mem = true) :
    KeepsForm (execTagff sd sa s) := .next (by simpa using h)

theorem execTagclr_keeps (sa : BitVec 6) (s : State) (h : memWf s.mem = true) :
    KeepsForm (execTagclr sa s) := .next (by simpa using h)

/-! ## The operations of Machine/TileMem.lean -/

theorem enterWindow_keeps (s : State) (kind : CounterKind) (k : State → State)
    (hk : ∀ u, memWf u.mem = true → memWf (k u).mem = true) (h : memWf s.mem = true) :
    KeepsForm (enterWindow s kind k) := .next (memWf_ite h (hk _ h))

theorem checked_memWf {s : State} (insn : Word) (c : Option TrapInfo) (k : State → State)
    (hk : ∀ u, memWf u.mem = true → memWf (k u).mem = true) (h : memWf s.mem = true) :
    memWf (checked s insn c k).mem = true := by
  unfold checked
  split
  · exact seqTrap_memWf _ _ h
  · exact hk _ h

theorem renamed_memWf {s0 s : State} (insn : Word) (t : BitVec 5) (g : ShapeRec) (rd : List Nat) (k : Nat → State → State)
    (hs : memWf s.mem = true) (hk : ∀ y0 u, memWf u.mem = true → memWf (k y0 u).mem = true) (h : memWf s0.mem = true) :
    memWf (renamed s0 s insn t g rd k).mem = true := by
  unfold renamed
  split
  · exact hk _ _ hs
  · simpa using h
  · exact trapType_memWf _ _ h

theorem renamedBind_memWf {s0 s : State} (insn : Word) (t : BitVec 5) (h' : BitVec 4) (g : ShapeRec) (rd : List Nat)
    (k : Nat → State → State) (hs : memWf s.mem = true) (hk : ∀ y0 u, memWf u.mem = true → memWf (k y0 u).mem = true)
    (h : memWf s0.mem = true) :
    memWf (renamedBind s0 s insn t h' g rd k).mem = true := renamed_memWf _ _ _ _ _ hs (fun _ _ hs1 => hk _ _ hs1) h

theorem issueLoad_memWf {s : State} (f : Flight) (h : memWf s.mem = true) :
    memWf (issueLoad s f).mem = true := launchFlight_memWf _ h

theorem loadTile_memWf {s : State} (i : Instr) (f : TmF) (extra : State → State)
    (hextra : ∀ u, memWf u.mem = true → memWf (extra u).mem = true) (h : memWf s.mem = true) :
    memWf (loadTile s i f extra).mem = true :=
  checked_memWf _ _ _ (fun _ hs => renamedBind_memWf _ _ _ _ _ _ hs (fun _ _ hs1 => issueLoad_memWf _ (hextra _ hs1)) hs) h

theorem execTld_keeps (f : TmF) {s : State} (h : memWf s.mem = true) :
    KeepsForm (execTld f s) := enterWindow_keeps _ _ _ (fun _ hs => loadTile_memWf _ _ _ (fun _ hs1 => hs1) hs) h

@[simp] theorem addFillWait_mem (h' : BitVec 4) (s : State) : (addFillWait h' s).mem = s.mem := rfl

theorem execTldff_keeps (f : TmF) {s : State} (h : memWf s.mem = true) : KeepsForm (execTldff f s) :=
  enterWindow_keeps _ _ _ (fun _ hs => loadTile_memWf _ _ _ (fun _ hs1 => by simpa using hs1) hs) h

theorem execTst_keeps (f : TmF) {s : State} (h : memWf s.mem = true) : KeepsForm (execTst f s) :=
  enterWindow_keeps _ _ _ (fun _ hs => checked_memWf _ _ _ (fun _ hs1 => launchFlight_memWf _ hs1) hs) h

theorem execTopt_keeps (f : TmF) {s : State} (h : memWf s.mem = true) : KeepsForm (execTopt f s) :=
  enterWindow_keeps _ _ _ (fun _ hs => checked_memWf _ _ _ (fun _ hs1 => launchFlight_memWf _ hs1) hs) h

theorem execTgth_keeps (f : TmIdxF) {s : State} (h : memWf s.mem = true) : KeepsForm (execTgth f s) :=
  enterWindow_keeps _ _ _ (fun _ hs =>
      checked_memWf _ _ _ (fun _ hs1 =>
          renamedBind_memWf _ _ _ _ _ _ hs1 (fun _ _ hs2 =>
              renamedBind_memWf _ _ _ _ _ _ hs2 (fun _ _ hs3 => launchFlight_memWf _ (by simpa using hs3))
                (memWf_ite (by simpa using hs1) hs1)) hs1) hs) h

theorem execTgthFull_keeps (f : TmIdxF) {s : State} (h : memWf s.mem = true) : KeepsForm (execTgthFull f s) :=
  enterWindow_keeps _ _ _ (fun _ hs =>
      checked_memWf _ _ _
        (fun _ hs1 => renamedBind_memWf _ _ _ _ _ _ hs1 (fun _ _ hs2 => launchFlight_memWf _ (by simpa using hs2)) hs1) hs) h

theorem execTsct_keeps (f : TmIdxF) {s : State} (h : memWf s.mem = true) : KeepsForm (execTsct f s) :=
  enterWindow_keeps _ _ _ (fun _ hs => checked_memWf _ _ _ (fun _ hs1 => launchFlight_memWf _ hs1) hs) h

theorem execTldw_keeps (t : BitVec 5) (w : BitVec 3) {s : State} (h : memWf s.mem = true) : KeepsForm (execTldw t w s) :=
  enterWindow_keeps _ _ _ (fun _ hs =>
      checked_memWf _ _ _ (fun _ hs1 => renamedBind_memWf _ _ _ _ _ _ hs1 (fun _ _ hs2 => issueLoad_memWf _ hs2) hs1) hs) h

theorem execTcb_keeps (f : TcbF) {s : State} (h : memWf s.mem = true) : KeepsForm (execTcb f s) :=
  enterWindow_keeps _ _ _ (fun _ hs =>
      checked_memWf _ _ _ (fun _ hs1 => memWf_ite hs1 (launchFlight_memWf _ (memWf_ite hs1 (by simpa using hs1)))) hs) h

theorem execBcopy_keeps (f : BcopyF) {s : State} (h : memWf s.mem = true) : KeepsForm (execBcopy f s) :=
  enterWindow_keeps _ _ _ (fun _ hs => memWf_ite (by simpa using hs) (memWf_ite hs (launchFlight_memWf _ hs))) h

theorem runTamoIssue_keeps (i : Instr) (f : TmAmoF) (bits : Bool) {s : State} (h : memWf s.mem = true) :
    KeepsForm (runTamoIssue i f bits s) :=
  enterWindow_keeps _ _ _ (fun _ hs =>
      checked_memWf _ _ _
        (fun _ hs1 => renamedBind_memWf _ _ _ _ _ _ hs1 (fun _ _ hs2 => launchFlight_memWf _ (by simpa using hs2)) hs1) hs) h

theorem execTglk_keeps (f : TmAmoF) {s : State} (h : memWf s.mem = true) : KeepsForm (execTglk f s) :=
  enterWindow_keeps _ _ _ (fun _ hs =>
      checked_memWf _ _ _
        (fun _ hs1 => renamedBind_memWf _ _ _ _ _ _ hs1 (fun _ _ hs2 => launchFlight_memWf _ (by simpa using hs2)) hs1) hs) h

theorem execTscc_keeps (f : TmAmoF) {s : State} (h : memWf s.mem = true) : KeepsForm (execTscc f s) :=
  enterWindow_keeps _ _ _ (fun _ hs =>
      checked_memWf _ _ _
        (fun _ hs1 => renamedBind_memWf _ _ _ _ _ _ hs1 (fun _ _ hs2 => launchFlight_memWf _ (by simpa using hs2)) hs1) hs) h

/-! ## The operations of Machine/TileCompute.lean -/

theorem issueCompute_memWf {s0 s : State} (td : BitVec 5) (f : Flight) (hs : memWf s.mem = true) (h : memWf s0.mem = true) :
    memWf (issueCompute s0 s td f).mem = true := renamed_memWf _ _ _ _ _ hs (fun _ _ hs1 => launchFlight_memWf _ hs1) h

theorem issueMatrix_memWf {s : State} (td : BitVec 5) (acc : Bool) (f : Flight) (h : memWf s.mem = true) :
    memWf (issueMatrix s td acc f).mem = true := by
  unfold issueMatrix
  split
  · exact issueCompute_memWf _ _ h h
  · exact memWf_ite (launchFlight_memWf _ h) (issueCompute_memWf _ _ h h)

theorem execMma_keeps (f : MmF) {s : State} (h : memWf s.mem = true) : KeepsForm (execMma f s) :=
  enterWindow_keeps _ _ _ (fun _ hs => checked_memWf _ _ _ (fun _ hs1 => issueMatrix_memWf _ _ _ hs1) hs) h

theorem stopIssued_memWf (s0 : State) {s : State} (w : StopWhy) (hs : memWf s.mem = true) :
    memWf (stopIssued s0 s w).mem = true := by
  unfold stopIssued
  split
  · exact memWf_ite (stopFlight_memWf _ _ _ hs) hs
  · exact hs

theorem issueUnderstory_memWf {s : State} (f : MmF) (h : memWf s.mem = true) : memWf (issueUnderstory s f).mem = true := by
  unfold issueUnderstory
  dsimp only
  split
  · next q => exact trapType_memWf _ _ (memWf_of_eq q (regionCheck_memWf _ _ h))
  · next q =>
      have hm := memWf_of_eq q (regionCheck_memWf _ _ h)
      exact stopIssued_memWf _ _ (issueMatrix_memWf _ _ _ hm)
  · next q => exact issueMatrix_memWf _ _ _ (memWf_of_eq q (regionCheck_memWf _ _ h))

theorem execMmv_keeps (f : MmF) {s : State} (h : memWf s.mem = true) : KeepsForm (execMmv f s) :=
  enterWindow_keeps _ _ _
    (fun _ hs => checked_memWf _ _ _ (fun _ hs1 => memWf_ite (issueUnderstory_memWf _ hs1) (issueMatrix_memWf _ _ _ hs1)) hs)
    h

theorem execMap_keeps (f : MapF) {s : State} (h : memWf s.mem = true) : KeepsForm (execMap f s) := by
  unfold execMap
  refine enterWindow_keeps _ _ _ (fun _ hs => ?_) h
  dsimp only
  split
  · exact seqTrap_memWf _ _ hs
  · exact checked_memWf _ _ _
      (fun _ hs1 => memWf_ite (issueCompute_memWf _ _ (by simpa using hs1) hs1) (overcapSelf_memWf _ hs1)) hs

theorem execReduce_keeps (f : RedF) {s : State} (h : memWf s.mem = true) : KeepsForm (execReduce f s) := by
  unfold execReduce
  refine enterWindow_keeps _ _ _ (fun _ hs => ?_) h
  dsimp only
  split
  · split
    · exact seqTrap_memWf _ _ hs
    · exact checked_memWf _ _ _
        (fun _ hs1 => memWf_ite (issueCompute_memWf _ _ (by simpa using hs1) hs1) (overcapSelf_memWf _ hs1)) hs
  · exact checked_memWf _ _ _ (fun _ hs1 => issueCompute_memWf _ _ hs1 hs1) hs

theorem execTscan_keeps (f : ScanF) {s : State} (h : memWf s.mem = true) : KeepsForm (execTscan f s) :=
  enterWindow_keeps _ _ _ (fun _ hs => checked_memWf _ _ _ (fun _ hs1 => issueCompute_memWf _ _ hs1 hs1) hs) h

theorem execTcvt_keeps (td ta : BitVec 5) {s : State} (h : memWf s.mem = true) : KeepsForm (execTcvt td ta s) :=
  enterWindow_keeps _ _ _ (fun _ hs => checked_memWf _ _ _ (fun _ hs1 => issueCompute_memWf _ _ hs1 hs1) hs) h

theorem execTfill_keeps (td : BitVec 5) (imm : BitVec 24) {s : State} (h : memWf s.mem = true) :
    KeepsForm (execTfill td imm s) :=
  enterWindow_keeps _ _ _ (fun _ hs => checked_memWf _ _ _ (fun _ hs1 => issueCompute_memWf _ _ hs1 hs1) hs) h

theorem execTmov_keeps (td ta : BitVec 5) {s : State} (h : memWf s.mem = true) : KeepsForm (execTmov td ta s) :=
  enterWindow_keeps _ _ _ (fun _ hs => checked_memWf _ _ _ (fun _ hs1 => issueCompute_memWf _ _ hs1 hs1) hs) h

theorem execMmas_keeps (f : MmF) {s : State} (h : memWf s.mem = true) : KeepsForm (execMmas f s) :=
  enterWindow_keeps _ _ _ (fun _ hs => checked_memWf _ _ _ (fun _ hs1 => issueMatrix_memWf _ _ _ hs1) hs) h

theorem execMmss_keeps (f : MmF) {s : State} (h : memWf s.mem = true) : KeepsForm (execMmss f s) :=
  enterWindow_keeps _ _ _ (fun _ hs => checked_memWf _ _ _ (fun _ hs1 => issueMatrix_memWf _ _ _ hs1) hs) h

theorem execTpat_keeps (sa : BitVec 6) {s : State} (h : memWf s.mem = true) : KeepsForm (execTpat sa s) :=
  enterWindow_keeps _ _ _ (fun _ hs => checked_memWf _ _ _ (fun _ hs1 => launchFlight_memWf _ hs1) hs) h

theorem execTinv_keeps (sa : BitVec 6) {s : State} (h : memWf s.mem = true) :
    KeepsForm (execTinv sa s) := .ite (.next (by simpa using h)) (.next (seqTrap_memWf _ _ h))

theorem execTdens_keeps (t : BitVec 5) (sa : BitVec 6) {s : State} (h : memWf s.mem = true) :
    KeepsForm (execTdens t sa s) :=
  enterWindow_keeps _ _ _ (fun _ hs => checked_memWf _ _ _ (fun _ hs1 => launchFlight_memWf _ hs1) hs) h

/-! ## The operations of Machine/Channel.lean -/

@[simp] theorem enqueueMessage_mem (s : State) (x : SlotNo) (b : Block) (v : Version) :
    (enqueueMessage s x b v).mem = s.mem := by simp [enqueueMessage]

theorem execTsend_keeps (t : BitVec 5) (sa : BitVec 6) {s : State} (h : memWf s.mem = true) :
    KeepsForm (execTsend t sa s) := by
  have ht : ∀ n, KeepsForm (.next (trapType s (wordOf (.tsend t sa)) n)) := fun n => .next (trapType_memWf _ _ h)
  unfold execTsend
  dsimp only
  split
  · exact ht _
  · split
    · split
      · exact .ite (.next h) (.next (by simpa using h))
      · exact ht _
      · exact .next h
    · exact ht _

@[simp] theorem sweep_mem (s : State) (x : Option SlotNo) : (sweep s x).mem = s.mem := by
  unfold sweep; split <;> simp

@[simp] theorem takeMessage_mem (s : State) (c : Channel) (t : BitVec 5) (v : Nat) (m : Version) (x : Option SlotNo) :
    (takeMessage s c t v m x).mem = s.mem := by simp [takeMessage]

theorem execTrecv_keeps (t : BitVec 5) (sa : BitVec 6) {s : State} (h : memWf s.mem = true) :
    KeepsForm (execTrecv t sa s) := by
  unfold execTrecv
  dsimp only
  split
  · exact .next (trapType_memWf _ _ h)
  · split
    · exact .ite (.next (trapType_memWf _ _ h)) (.next (by simpa using h))
    · split
      · exact .ite (.next (trapType_memWf _ _ h)) (.next (parkOn_memWf _ h))
      · refine .ite (.next (trapType_memWf _ _ h))
          (.next (checked_memWf _ _ _ (fun _ hs => renamed_memWf _ _ _ _ _ hs (fun _ _ hs1 => ?_) hs) h))
        split
        · exact hs
        · simpa using hs1

/-! ## The operations of Machine/Place.lean -/

theorem bindRefuse_memWf {s : State} (x : SlotNo) (reason : Nat) (ctx : BitVec 6) (off : Nat) (h : memWf s.mem = true) :
    memWf (bindRefuse s x reason ctx off).mem = true := ctxEvent_memWf _ _ _ _ _ h

@[simp] theorem placeGroup_mem (s : State) (r : BindRec) : (placeGroup s r).mem = s.mem := by
  unfold placeGroup; split <;> rfl

@[simp] theorem storeRecord_mem (s : State) (x : SlotNo) (record : BitVec 256) : (storeRecord s x record).mem = s.mem := rfl

theorem armRecord_memWf (who : Writer) (x : SlotNo) (record : BitVec 256) {s : State} (h : memWf s.mem = true) :
    memWf (armRecord who x record s).mem = true := by
  unfold armRecord
  dsimp only
  split
  · exact h
  · split
    · exact bindRefuse_memWf _ _ _ _ (memWf_ite (by simpa using h) h)
    · simpa using h

theorem withdrawRecord_memWf (who : Writer) (x : SlotNo) (record : BitVec 256) {s : State} (h : memWf s.mem = true) :
    memWf (withdrawRecord who x record s).mem = true := by
  unfold withdrawRecord
  split
  · exact h
  · split
    · exact memWf_ite (by simpa using h) (bindRefuse_memWf _ _ _ _ h)
    · simpa using h

theorem execBindRecordArm_keeps (x : SlotNo) (record : BitVec 256) {s : State} (h : memWf s.mem = true) :
    KeepsForm (execBindRecordArm x record s) := whenReady_keeps h (.next (armRecord_memWf _ _ _ h))

theorem execBindRecordWithdraw_keeps (x : SlotNo) {s : State} (h : memWf s.mem = true) :
    KeepsForm (execBindRecordWithdraw x s) := whenReady_keeps h (.next (withdrawRecord_memWf _ _ _ h))

@[simp] theorem startBlock_mem (s : State) (x : SlotNo) : (startBlock s x).mem = s.mem := by
  unfold startBlock
  split
  · rfl
  · dsimp only
    split
    · split <;> simp
    · split <;> simp

@[simp] theorem startGroup_mem (s : State) (g : Machine.Group) : (startGroup s g).mem = s.mem := by
  unfold startGroup; split <;> simp [foldl_mem]

theorem execGangStart_keeps (id : GroupId) (s : State) (h : memWf s.mem = true) : KeepsForm (execGangStart id s) := by
  unfold execGangStart
  split
  · exact .next h
  · exact .ite (.next (foldl_memWf _ (fun _ g hs => by simpa using hs) _ _ h)) (.next h)

@[simp] theorem markHost_mem (s : State) (g : Machine.Group) : (markHost s g).mem = s.mem :=
  foldl_mem _ (fun u x => by split <;> rfl) _ s

theorem runStop_keeps (host : Bool) (w : BitVec 128) {s : State} (h : memWf s.mem = true) : KeepsForm (runStop host w s) := by
  unfold runStop
  split
  · exact .ite (.next (bindRefuse_memWf _ _ _ _ h)) (.next (requestStop_memWf _ (memWf_ite (by simpa using h) h)))
  · exact .next (bindRefuse_memWf _ _ _ _ h)

theorem execGstop_keeps (w : BitVec 128) {s : State} (h : memWf s.mem = true) :
    KeepsForm (execGstop w s) := whenReady_keeps h (runStop_keeps _ _ h)

theorem execRangerStopRequest_keeps (w : BitVec 128) {s : State} (h : memWf s.mem = true) :
    KeepsForm (execRangerStopRequest w s) := .ite (.next h) (runStop_keeps _ _ h)

theorem execGracePeriodExpiry_keeps (x : SlotNo) (s : State) (h : memWf s.mem = true) :
    KeepsForm (execGracePeriodExpiry x s) := by
  unfold execGracePeriodExpiry
  split
  · exact .next h
  · exact .ite (.next h) (.ite (.next (by simpa using h)) (.next (by simpa using h)))

theorem execNonYieldingReport_keeps (x : SlotNo) {s : State} (h : memWf s.mem = true) :
    KeepsForm (execNonYieldingReport x s) := by
  unfold execNonYieldingReport
  split
  · exact .next h
  · exact .ite (.next (ctxEvent_memWf _ _ _ _ _ h)) (.next h)

theorem blockDone_memWf {s : State} (b : Block) (h : memWf s.mem = true) : memWf (blockDone s b).mem = true := by
  unfold blockDone
  dsimp only
  split
  · simp only [sweepBand_mem, clearRecord_mem, modBlock_mem, dropLinks_mem, dropCbClaim_mem]
    exact freeChannels_memWf _ (foldl_memWf _ (fun _ _ hs => releaseAtExit_memWf _ _ hs) _ _ h)
  · exact settleBand_memWf _ (foldl_memWf _ (fun _ n hs => by simpa using hs) _ _
        (by
          simp only [modGroup_mem, sweepBand_mem, clearRecord_mem, modBlock_mem, dropLinks_mem, dropCbClaim_mem]
          exact freeChannels_memWf _ (foldl_memWf _ (fun _ _ hs => releaseAtExit_memWf _ _ hs) _ _ h)))

/-! ## The operations of Machine/Loader.lean -/

theorem loaderRead_memWf {s : State} (asked : Option (List Nat)) (ctx : BitVec 6) (va n : Nat) (h : memWf s.mem = true) :
    memWf (loaderRead s asked ctx va n).2.mem = true := by
  unfold loaderRead
  split
  · next q => exact memWf_of_eq q (translateRange_memWf _ _ _ _ _ _ _ _ h)
  · next q => exact memWf_of_eq q (translateRange_memWf _ _ _ _ _ _ _ _ h)
  · next q =>
      have hm := memWf_of_eq q (translateRange_memWf _ _ _ _ _ _ _ _ h)
      exact memWf_ite_snd hm (memWf_ite_snd hm hm)

@[simp] theorem askPages_mem (s : State) (ctx : BitVec 6) (h' : BitVec 32) (pages : List Nat) :
    (askPages s ctx h' pages).mem = s.mem := by simp [askPages, foldl_mem]

theorem loadObject_memWf {s : State} (asked : Option (List Nat)) (f : KcmdF) (h : memWf s.mem = true) :
    memWf (loadObject s asked f).2.mem = true := by
  unfold loadObject
  split
  · next q =>
    have h1 := memWf_of_eq q (loaderRead_memWf _ _ _ _ h)
    dsimp only
    split
    · exact h1
    · split
      · next q =>
        have h2 := memWf_of_eq q (loaderRead_memWf _ _ _ _ h1)
        split
        · exact h2
        · split
          · exact h2
          · split
            · exact h2
            · split
              · exact h2
              · split
                · next q =>
                  have h3 := memWf_of_eq q (loaderRead_memWf _ _ _ _ h2)
                  split <;> exact h3
                · next q =>
                  have h3 := memWf_of_eq q (loaderRead_memWf _ _ _ _ h2)
                  split
                  · exact memWf_ite_snd h3 h3
                  · exact h3
      · next q => exact memWf_of_eq q (loaderRead_memWf _ _ _ _ h1)
  · next q => exact memWf_of_eq q (loaderRead_memWf _ _ _ _ h)

theorem writeSegs_memWf {s : State} (who : ExtAgent) (segs : List Seg) (bs : List Byte) (h : memWf s.mem = true) :
    memWf (writeSegs s who segs bs).mem = true := by
  induction segs generalizing s bs with
  | nil => exact h
  | cons g r ih => exact ih _ (by simpa using homeWrite_memWf _ _ _ h)

theorem copyData_memWf {s : State} (k : BitVec 32) (f : KcmdF) (l : List (Nat × List Byte)) (h : memWf s.mem = true) :
    memWf (copyData s k f l).2.mem = true := by
  induction l generalizing s with
  | nil => exact h
  | cons d r ih =>
    unfold copyData
    split
    · next q => exact ih (writeSegs_memWf _ _ _ (memWf_of_eq q (translateRange_memWf _ _ _ _ _ _ _ _ h)))
    · next q => exact memWf_of_eq q (translateRange_memWf _ _ _ _ _ _ _ _ h)
    · next q => exact memWf_of_eq q (translateRange_memWf _ _ _ _ _ _ _ _ h)

/-! ## The operations of Machine/Queue.lean -/

@[simp] theorem modQueue_mem (s : State) (q : BitVec 10) (f : Queue → Queue) : (modQueue s q f).mem = s.mem := rfl

theorem queueRefuse_memWf {s : State} (q : BitVec 10) (reason off : Nat) (h : memWf s.mem = true) :
    memWf (queueRefuse s q reason off).mem = true :=
  memWf_ite (by simpa using h) (refusalEvent_memWf _ _ _ (by simpa using h))

@[simp] theorem settleQueue_mem (s : State) (q : BitVec 10) : (settleQueue s q).mem = s.mem := by
  unfold settleQueue; dsimp only; split <;> simp

theorem releaseGranted_memWf {s : State} (l : Launch) (va : Word) (h : memWf s.mem = true) :
    memWf (releaseGranted s l va).mem = true := objDo_memWf _ h

theorem endLaunch_memWf {s : State} (q : BitVec 10) (seq : BitVec 54) (h : memWf s.mem = true) :
    memWf (endLaunch s q seq).mem = true := by
  unfold endLaunch
  split
  · exact h
  · next l _ =>
    have hg : ∀ u : State, memWf u.mem = true → memWf (l.granted.foldl (fun s g => releaseGranted s l g.1) u).mem = true :=
      fun u hu => foldl_memWf _ (fun _ g hs => releaseGranted_memWf l g.1 hs) _ u hu
    refine memWf_ite h ?_
    dsimp only
    generalize hs4 : (nextEvent (withdrawLaunch (l.granted.foldl _ _) q seq)).2 = s4
    have h4 : memWf s4.mem = true := by rw [← hs4]; simpa using hg _ (by simpa using h)
    rw [settleQueue_mem]
    exact memWf_ite (memWf_ite h4 h4) (memWf_ite h4 h4)

theorem failLaunch_memWf {s : State} (q : BitVec 10) (seq : BitVec 54) (f : LaunchStatus) (h : memWf s.mem = true) :
    memWf (failLaunch s q seq f).mem = true := endLaunch_memWf _ _ (by simpa using h)

theorem execLaunchComplete_keeps (q : BitVec 10) (seq : BitVec 54) {s : State} (h : memWf s.mem = true) :
    KeepsForm (execLaunchComplete q seq s) := by
  unfold execLaunchComplete
  split
  · exact .ite (.next (endLaunch_memWf _ _ h)) (.next h)
  · exact .next h

theorem acceptRecord_memWf {s : State} (q : BitVec 10) (rec_ : BitVec 512) (h : memWf s.mem = true) :
    memWf (acceptRecord s q rec_).2.mem = true := by
  unfold acceptRecord
  dsimp only
  split
  · exact failLaunch_memWf _ _ _ (by simpa using h)
  · simpa using h

theorem execLrecWrite_keeps (who : Writer) (q : BitVec 10) (off : BitVec 12) (data : List Byte) {s : State}
    (h : memWf s.mem = true) :
    KeepsForm (execLrecWrite who q off data s) :=
  onlyReady_keeps h
    (.ite (.next h) (.ite (.next (queueRefuse_memWf _ _ _ h)) (.ite (.next (queueRefuse_memWf _ _ _ h)) (.next h))))

theorem acceptArrived_memWf {s : State} (q : BitVec 10) (fuel : Nat) (h : memWf s.mem = true) :
    memWf (acceptArrived s q fuel).mem = true := by
  induction fuel generalizing s with
  | zero => exact h
  | succ k ih =>
    unfold acceptArrived
    split
    · exact ih (acceptRecord_memWf _ _ h)
    · exact h

theorem execLaunchAccept_keeps (q : BitVec 10) {s : State} (h : memWf s.mem = true) :
    KeepsForm (execLaunchAccept q s) := .next (acceptArrived_memWf _ _ h)

theorem afterArrivals_memWf {s : State} (q : BitVec 10) (h : memWf s.mem = true) :
    memWf (afterArrivals s q).mem = true := acceptArrived_memWf _ _ h

theorem closeQueue_memWf {s : State} (q : BitVec 10) (h : memWf s.mem = true) : memWf (closeQueue s q).mem = true :=
  foldl_memWf _
    (fun _ l hs => endLaunch_memWf _ _ (foldl_memWf _ (fun _ _ hs => killGroup_memWf _ _ _ hs) _ _ (by simpa using hs))) _ _
    (by simp only [modQueue_mem]; exact memWf_ite (afterArrivals_memWf _ h) h)

theorem closeForRecord_memWf {s : State} (q : BitVec 10) (reason : Nat) (h : memWf s.mem = true) :
    memWf (closeForRecord s q reason).mem = true :=
  closeQueue_memWf _ (by simp only [modQueue_mem]; exact queueRefuse_memWf _ _ _ h)

theorem commandRefused_keeps {s : State} (q : BitVec 10) (h : memWf s.mem = true) :
    KeepsForm (commandRefused s q) := .next (queueRefuse_memWf _ _ _ h)

@[simp] theorem forgetQueue_mem (s : State) (q : BitVec 10) : (forgetQueue s q).mem = s.mem := rfl

theorem execQcmdBind_keeps (q : BitVec 10) {s : State} (h : memWf s.mem = true) : KeepsForm (execQcmdBind q s) :=
  onlyReady_keeps h (.ite (commandRefused_keeps _ (afterArrivals_memWf _ h))
      (.ite (.next (queueRefuse_memWf _ _ _ h)) (.next (by simpa using h))))

theorem execQcmdHalt_keeps (q : BitVec 10) {s : State} (h : memWf s.mem = true) : KeepsForm (execQcmdHalt q s) :=
  onlyReady_keeps h (.ite (.next (by simp only [setQueue_mem]; exact afterArrivals_memWf _ h))
      (commandRefused_keeps _ (afterArrivals_memWf _ h)))

theorem execQcmdResume_keeps (q : BitVec 10) {s : State} (h : memWf s.mem = true) : KeepsForm (execQcmdResume q s) :=
  onlyReady_keeps h (.ite (.next (by simp only [setQueue_mem]; exact afterArrivals_memWf _ h))
      (commandRefused_keeps _ (afterArrivals_memWf _ h)))

theorem execQcmdDrain_keeps (q : BitVec 10) {s : State} (h : memWf s.mem = true) : KeepsForm (execQcmdDrain q s) :=
  onlyReady_keeps h (.ite (.next (by simp only [settleQueue_mem, setQueue_mem]; exact afterArrivals_memWf _ h))
      (commandRefused_keeps _ (afterArrivals_memWf _ h)))

theorem execQcmdUnbind_keeps (q : BitVec 10) {s : State} (h : memWf s.mem = true) : KeepsForm (execQcmdUnbind q s) :=
  onlyReady_keeps h (.ite (.next (by simpa using h)) (commandRefused_keeps _ (afterArrivals_memWf _ h)))

theorem requestFor_memWf {s : State} (l : Launch) (j : Nat) (h : memWf s.mem = true) :
    memWf (requestFor s l j).mem = true := by
  unfold requestFor
  dsimp only
  split
  · next q => exact raiseFault_memWf _ _ _ _ _ _ _ (memWf_of_eq q (translate_memWf _ _ _ _ _ h))
  · next q => simp only [holdOn_mem]; exact memWf_of_eq q (translate_memWf _ _ _ _ _ h)
  · next q =>
      exact memWf_ite (by simp only [modLaunch_mem]; exact memWf_of_eq q (translate_memWf _ _ _ _ _ h))
        (memWf_ite (by simp only [modLaunch_mem]; exact memWf_of_eq q (translate_memWf _ _ _ _ _ h))
          (grants_memWf _ (by simp only [modLaunch_mem]; exact memWf_of_eq q (translate_memWf _ _ _ _ _ h))))

theorem requestObjects_memWf {s : State} (q : BitVec 10) (seq : BitVec 54) (fuel : Nat) (h : memWf s.mem = true) :
    memWf (requestObjects s q seq fuel).mem = true := by
  induction fuel generalizing s with
  | zero => exact h
  | succ k ih =>
    unfold requestObjects
    split
    · exact h
    · refine memWf_ite h ?_
      split
      · simpa using h
      · exact ih (requestFor_memWf _ _ h)

theorem setCount_memWf {s : State} (l : Launch) (n : Nat) (h : memWf s.mem = true) : memWf (setCount s l n).mem = true :=
  memWf_ite (failLaunch_memWf _ _ _ h) (memWf_ite (endLaunch_memWf _ _ (by simpa using h)) (by simpa using h))

theorem readCount_memWf {s : State} (l : Launch) (h : memWf s.mem = true) : memWf (readCount s l).mem = true := by
  unfold readCount
  split
  · next q => exact raiseFault_memWf _ _ _ _ _ _ _ (memWf_of_eq q (translate_memWf _ _ _ _ _ h))
  · next q => simp only [holdOn_mem]; exact memWf_of_eq q (translate_memWf _ _ _ _ _ h)
  · next q =>
      have hm := memWf_of_eq q (translate_memWf _ _ _ _ _ h)
      exact memWf_ite h (memWf_ite (by simp only [extRead_mem]; exact memWf_of_eq q (translate_memWf _ _ _ _ _ h))
          (memWf_ite (failLaunch_memWf _ _ _ hm) (setCount_memWf _ _ hm)))

theorem finishEligible_memWf {s : State} (l : Launch) (h : memWf s.mem = true) : memWf (finishEligible s l).mem = true :=
  memWf_ite (readCount_memWf _ h) (memWf_ite (memWf_ite (endLaunch_memWf _ _ (by simpa using h)) h) (by simpa using h))

theorem execLaunchEligible_keeps (q : BitVec 10) (seq : BitVec 54) {s : State} (h : memWf s.mem = true) :
    KeepsForm (execLaunchEligible q seq s) := by
  unfold execLaunchEligible
  split
  · exact .next h
  · split
    · exact .next h
    · split
      · exact .next (failLaunch_memWf _ _ _ h)
      · split
        · exact .next h
        · dsimp only
          split
          · exact .next (requestObjects_memWf _ _ _ h)
          · exact .ite (.next (endLaunch_memWf _ _ (requestObjects_memWf _ _ _ h)))
              (.ite (.next (requestObjects_memWf _ _ _ h)) (.next (finishEligible_memWf _ (requestObjects_memWf _ _ _ h))))

theorem loaderRequest_memWf {s : State} (c : BitVec 6) (h' : BitVec 32) (obj : Word) (n : Nat) (h : memWf s.mem = true) :
    memWf (loaderRequest s c h' obj n).mem = true := by
  unfold loaderRequest
  split
  · next q => simp only [askPages_mem]; exact memWf_of_eq q (loaderRead_memWf _ _ _ _ h)
  · exact h

theorem firstOffer_memWf {s : State} (l : Launch) (h : memWf s.mem = true) : memWf (firstOffer s l).mem = true := by
  unfold firstOffer
  dsimp only
  split
  · exact loaderRequest_memWf _ _ _ _ (memWf_ite h h)
  · exact memWf_ite h h

theorem execLaunchOffer_keeps (q : BitVec 10) {s : State} (h : memWf s.mem = true) : KeepsForm (execLaunchOffer q s) := by
  unfold execLaunchOffer
  dsimp only
  split
  · exact .next h
  · exact .ite (.next (memWf_ite (firstOffer_memWf _ (by simpa using h)) (by simpa using h))) (.next h)

@[simp] theorem advanceLow_mem (s : State) (q : BitVec 10) (fuel : Nat) : (advanceLow s q fuel).mem = s.mem := by
  induction fuel generalizing s with
  | zero => rfl
  | succ k ih =>
    unfold advanceLow
    dsimp only
    split
    · split
      · exact ih _
      · rfl
    · rfl

@[simp] theorem recordWritten_mem (s : State) (r : PendingRecord) : (recordWritten s r).mem = s.mem := by
  unfold recordWritten; dsimp only; split <;> simp

@[simp] theorem recordAcked_mem (s : State) (q : BitVec 10) : (recordAcked s q).mem = s.mem := by
  unfold recordAcked; split <;> simp

theorem execCompletionRecordWrite_keeps (q : BitVec 10) {s : State} (h : memWf s.mem = true) :
    KeepsForm (execCompletionRecordWrite q s) := by
  unfold execCompletionRecordWrite
  dsimp only
  split
  · exact .next h
  · split
    · exact .next h
    · split
      · next q => exact .next (raiseFault_memWf _ _ _ _ _ _ _ (memWf_of_eq q (translate_memWf _ _ _ _ _ h)))
      · next q => exact .next (by simp only [holdOn_mem]; exact memWf_of_eq q (translate_memWf _ _ _ _ _ h))
      · next q =>
          have hm := memWf_of_eq q (translate_memWf _ _ _ _ _ h)
          exact .ite (.next h) (.next (memWf_ite (by simp only [extWrite_mem]; exact homeWrite_memWf _ _ _ hm)
                (by simp only [recordWritten_mem, extWrite_mem]; exact homeWrite_memWf _ _ _ hm)))

theorem execCheadWrite_keeps (q : BitVec 10) (v : Word) (s : State) (h : memWf s.mem = true) :
    KeepsForm (execCheadWrite q v s) := onlyReady_keeps h (.next (by simpa using h))

theorem launchRead_memWf (sd sb : BitVec 6) (q : BitVec 10) {s : State} (h : memWf s.mem = true) :
    memWf (launchRead sd sb q s).mem = true := by
  unfold launchRead
  split
  · next q => exact seqAddr_stop_memWf q h
  · next q =>
    have h1 := seqAddr_ok_memWf q h
    split
    · exact h
    · split
      · exact consumePoison_memWf _ _ _ _ h1
      · split
        · next q => exact memWf_of_eq q (readFar_memWf _ _ h1)
        · next q =>
          have h2 := memWf_of_eq q (readFar_memWf _ _ h1)
          split
          · next q =>
            have h3 := memWf_of_eq q (by simpa using h2)
            dsimp only
            exact memWf_ite (by simp only [writeBack_mem]; exact queueRefuse_memWf _ _ _ (afterArrivals_memWf _ h3))
              (by simp only [writeBack_mem]; exact acceptRecord_memWf _ _ (afterArrivals_memWf _ h3))

theorem execLaunch_keeps (sd sa sb : BitVec 6) {s : State} (h : memWf s.mem = true) : KeepsForm (execLaunch sd sa sb s) :=
  .ite (.next (seqTrap_memWf _ _ h))
    (.ite (.next (by simpa using h)) (.ite (.next (by simpa using h)) (.next (launchRead_memWf _ _ _ (by simpa using h)))))

/-! ## The operations of Machine/Arena.lean -/

theorem dropCode_memWf {s : State} (h' : BitVec 32) (h : memWf s.mem = true) :
    memWf (dropCode s h').mem = true := foldl_memWf _ (fun _ _ hs => logLatent_memWf _ hs) _ _ h

theorem dropKernel_memWf {s : State} (h' : BitVec 32) (h : memWf s.mem = true) :
    memWf (dropKernel s h').mem = true := dropCode_memWf _ h

theorem loseKernel_memWf {s : State} (h' : BitVec 32) (h : memWf s.mem = true) :
    memWf (loseKernel s h').mem = true := foldl_memWf _ (fun _ _ hs => failLaunch_memWf _ _ _ hs) _ _ (dropKernel_memWf _ h)

theorem rereadObject_memWf {s : State} (asked : Option (List Nat)) (k : Kernel) (h : memWf s.mem = true) :
    memWf (rereadObject s asked k).2.mem = true := by
  unfold rereadObject
  split <;> (next q => exact memWf_of_eq q (loaderRead_memWf _ _ _ _ h))

theorem endKcmd_memWf {s : State} (ctx : BitVec 6) (h' : BitVec 32) (reason : Option Nat) (h : memWf s.mem = true) :
    memWf (endKcmd s ctx h' reason).mem = true := by
  unfold endKcmd
  dsimp only
  split
  · exact ctxEvent_memWf _ _ _ _ _ h
  · exact refusalEvent_memWf _ _ _ h

/-! ## The operations of Machine/Bank.lean -/

theorem withdrawArmed_memWf {s : State} (core : BitVec 8) (h : memWf s.mem = true) :
    memWf (withdrawArmed s core).mem = true :=
  foldl_memWf _ (fun _ b hs => memWf_ite (bindRefuse_memWf _ _ _ _ (by simpa using hs)) hs) _ _ h

theorem raiseOvercap_memWf {s : State} (core : BitVec 8) (gone : List SlotNo) (fuel : Nat) (h : memWf s.mem = true) :
    memWf (raiseOvercap s core gone fuel).mem = true := by
  induction fuel generalizing s gone with
  | zero => exact h
  | succ k ih =>
    unfold raiseOvercap
    refine memWf_ite h ?_
    split
    · exact h
    · split
      · exact h
      · exact ih _ (overcapBand_memWf _ h)

theorem judgeCapacity_memWf {s : State} (h : memWf s.mem = true) :
    memWf (judgeCapacity s).mem = true := foldl_memWf _ (fun _ _ hs => memWf_ite hs (killGroup_memWf _ _ _ hs)) _ _ h

theorem checkCapacity_memWf {s : State} (core : BitVec 8) (h : memWf s.mem = true) :
    memWf (checkCapacity s core).mem = true :=
  judgeCapacity_memWf (memWf_ite (raiseOvercap_memWf _ _ _ (withdrawArmed_memWf _ h)) h)

theorem finishBank_memWf {s : State} (id : Nat) (h : memWf s.mem = true) :
    memWf (finishBank s id).mem = true := memWf_ite (errLog_memWf _ (by simpa using h)) (errLog_memWf _ (by simpa using h))

theorem settleBanks_memWf {s : State} (h : memWf s.mem = true) :
    memWf (settleBanks s).mem = true := foldl_memWf _ (fun _ _ hs => memWf_ite (finishBank_memWf _ hs) hs) _ _ h

@[simp] theorem dropStorePrefetch_mem (s : State) (target : Nat) : (dropStorePrefetch s target).mem = s.mem := by
  simp [dropStorePrefetch, foldl_mem]

@[simp] theorem startEvacuation_mem (s : State) (id : Nat) : (startEvacuation s id).mem = s.mem := by
  have ht : ∀ o : Option Nat, (match o with | some n => dropStorePrefetch s n | none => s).mem = s.mem := by
    rintro (_ | n) <;> simp
  unfold startEvacuation
  split
  · exact ht _
  · exact ht _
  · exact ht _
  · rfl
  · rfl

@[simp] theorem mapSwap_mem (s : State) (id target : Nat) : (mapSwap s id target).mem = s.mem := rfl

theorem enterEvacuating_memWf {s : State} (id : Nat) (cause : BitVec 4) (offline : Bool) (h : memWf s.mem = true) :
    memWf (enterEvacuating s id cause offline).mem = true :=
  settleBanks_memWf (memWf_ite (by simpa using h) (checkCapacity_memWf _ (by simpa using h)))

theorem evacuate_memWf {s : State} (id : Nat) (cause : BitVec 4) (offline : Bool) (h : memWf s.mem = true) :
    memWf (evacuate s id cause offline).mem = true :=
  memWf_ite h (memWf_ite (by
        simp only [lowerCapl_mem]
        exact memWf_ite (enterEvacuating_memWf _ _ _ (enterEvacuating_memWf _ _ _ h)) (enterEvacuating_memWf _ _ _ h))
      (memWf_ite (enterEvacuating_memWf _ _ _ (enterEvacuating_memWf _ _ _ h)) (enterEvacuating_memWf _ _ _ h)))

theorem decideRetire_memWf {s : State} (id : Nat) (cause : BitVec 4) (h : memWf s.mem = true) :
    memWf (decideRetire s id cause).mem = true :=
  memWf_ite h (memWf_ite (memWf_ite h (errLog_memWf _ (by simpa using h))) (evacuate_memWf _ _ _ h))

/-! ## The operations of Machine/Sync.lean -/

theorem wordAccess_memWf {s : State} (insn va : Word) (n : Nat) (kind : AccKind) (reads : Bool) (leave : State → State)
    (k : Nat → State → State) (hleave : ∀ u, memWf u.mem = true → memWf (leave u).mem = true)
    (hk : ∀ y0 u, memWf u.mem = true → memWf (k y0 u).mem = true) (h : memWf s.mem = true) :
    memWf (wordAccess s insn va n kind reads leave k).mem = true := by
  unfold wordAccess
  split
  · exact h
  · split
    · next q => exact seqAddr_stop_memWf q h
    · next q =>
      have h1 := seqAddr_ok_memWf q h
      split
      · exact h
      · split
        · exact seqTrap_memWf _ _ h1
        · split
          · exact consumePoison_memWf _ _ _ _ (hleave _ h1)
          · split
            · next q => exact memWf_of_eq q (readFar_memWf _ _ h1)
            · next q =>
                exact hk _ _
                  (by simp only [dropGuests_mem, dropCache_mem]; exact hleave _ (memWf_of_eq q (readFar_memWf _ _ h1)))

theorem requestObject_memWf {s : State} (pa : Nat) (excl : Bool) (va : Word) (h : memWf s.mem = true) :
    memWf (requestObject s pa excl va).mem = true :=
  memWf_ite (parkOn_memWf _ (memWf_ite h (grants_memWf _ h))) (memWf_ite h (grants_memWf _ h))

theorem runAcq_keeps (i : Instr) (sa : BitVec 6) (excl : Bool) {s : State} (h : memWf s.mem = true) :
    KeepsForm (runAcq i sa excl s) :=
  .ite (.next (seqTrap_memWf _ _ h)) (.ite (.next (trapType_memWf _ _ h))
      (.next (wordAccess_memWf _ _ _ _ _ _ _ (fun _ hs => by simpa using hs)
          (fun _ _ hs => memWf_ite (trapType_memWf _ _ hs) (requestObject_memWf _ _ _ hs)) h)))

@[simp] theorem endRel_mem (s : State) : (endRel s).mem = s.mem := rfl

theorem execRel_keeps (sa : BitVec 6) {s : State} (h : memWf s.mem = true) : KeepsForm (execRel sa s) :=
  .ite (.next (seqTrap_memWf _ _ h)) (.ite (.next (trapType_memWf _ _ h))
      (.ite (.next h) (.next (wordAccess_memWf _ _ _ _ _ _ _ (fun _ hs => by simpa using hs)
            (fun _ _ hs => memWf_ite (trapType_memWf _ _ hs) (by simp only [advance_mem]; exact releaseObject_memWf _ _ _ hs))
            h))))

theorem execBind_keeps (f : BindF) (s : State) (h : memWf s.mem = true) :
    KeepsForm (execBind f s) := .next (by simp only [writeBack_mem]; exact memWf_ite (by simpa using h) h)

theorem execUnbind_keeps (sd sa : BitVec 6) {s : State} (h : memWf s.mem = true) : KeepsForm (execUnbind sd sa s) :=
  .ite (.next (by simpa using h)) (.ite (.next (by simpa using h)) (.next
        (wordAccess_memWf _ _ _ _ _ _ _ (fun _ hs => hs) (fun _ _ hs => memWf_ite (by simpa using hs) (by simpa using hs)) h)))

theorem execFence_keeps (scope : Scope) (s : State) (h : memWf s.mem = true) :
    KeepsForm (execFence scope s) := .ite (.next h) (.next (by simpa using h))

theorem waitRead_memWf {s : State} (f : TmWaitF) (c : Cond) (pending : List Nat) (k : List Nat → State → State)
    (hk : ∀ y0 u, memWf u.mem = true → memWf (k y0 u).mem = true) (h : memWf s.mem = true) :
    memWf (waitRead s f c pending k).mem = true := by
  unfold waitRead
  dsimp only
  split
  · next q => exact seqFault_memWf _ _ _ _ _ (memWf_of_eq q (accessRanges_memWf _ _ _ _ _ h))
  · next q => simp only [holdOn_mem]; exact memWf_of_eq q (accessRanges_memWf _ _ _ _ _ h)
  · next q => exact consumePoison_memWf _ _ _ _ (memWf_of_eq q (accessRanges_memWf _ _ _ _ _ h))
  · next q => exact memWf_of_eq q (accessRanges_memWf _ _ _ _ _ h)
  · next q =>
    have h1 := memWf_of_eq q (accessRanges_memWf _ _ _ _ _ h)
    split
    · split
      · exact consumePoison_memWf _ _ _ _ (by simpa using h1)
      · exact hk _ _ (by simpa using h1)
    · simpa using h1

@[simp] theorem waitDone_mem (s : State) (f : TmWaitF) (pending : List Nat) : (waitDone s f pending).mem = s.mem := by
  unfold waitDone; (repeat' split) <;> simp

theorem waitRound_memWf {s : State} (f : TmWaitF) (c : Cond) (pending : List Nat) (h : memWf s.mem = true) :
    memWf (waitRound s f c pending).mem = true := waitRead_memWf _ _ _ _ (fun _ _ hs => memWf_ite (by simpa using hs) hs) h

theorem runTwaitv_keeps (i : Instr) (c : Cond) (f : TmWaitF) {s : State} (h : memWf s.mem = true) :
    KeepsForm (runTwaitv i c f s) := by
  unfold runTwaitv
  split
  · exact .next (seqTrap_memWf _ _ h)
  · refine .ite (.next (doubleTrap_memWf _ h)) ?_
    cases current s.me f.t2 with
    | none => exact .next h
    | some m =>
      cases versionDone s.me (curId s.me f.t)
      · exact .next h
      · cases releaseDone s s.me .device && !acquirePending s.me
        · exact .next h
        · refine .ite (.next h) ?_
          split
          · exact .next (trapType_memWf _ _ h)
          · exact .next (by simpa using h)
          · exact .next (waitRound_memWf _ _ _ h)

theorem execTwaitvPoll_keeps (x : SlotNo) {s : State} (h : memWf s.mem = true) : KeepsForm (execTwaitvPoll x s) := by
  unfold execTwaitvPoll
  dsimp only
  split
  · exact .next (waitRound_memWf _ _ _ (by simpa using h))
  · exact .next h

theorem execTwaitvLimitExpiry_keeps (x : SlotNo) (s : State) (h : memWf s.mem = true) :
    KeepsForm (execTwaitvLimitExpiry x s) := by
  unfold execTwaitvLimitExpiry
  dsimp only
  split
  · exact .next (by simpa using h)
  · exact .next h

/-! ## The operations of Machine/Context.lean -/

@[simp] theorem dropTrails_mem (s : State) (c : BitVec 6) : (dropTrails s c).mem = s.mem := rfl

theorem moveCtx_memWf {s : State} (c : BitVec 6) (st : CtxSt) (h : memWf s.mem = true) :
    memWf (moveCtx s c st).mem = true :=
  ctxEvent_memWf _ _ _ _ _ (by simp only [modCtx_mem]; exact memWf_ite (by simpa using h) h)

theorem endCcmd_memWf {s : State} (c : BitVec 6) (reason : Option (Nat × Nat × Nat)) (h : memWf s.mem = true) :
    memWf (endCcmd s c reason).mem = true := by
  unfold endCcmd
  dsimp only
  split
  · exact ctxEvent_memWf _ _ _ _ _ h
  · exact refusalEvent_memWf _ _ _ h

theorem lateFailure_memWf {s : State} (c : BitVec 6) (e : Nat × Nat × Nat) (h : memWf s.mem = true) :
    memWf (lateFailure s c e).mem = true := memWf_ite (refusalEvent_memWf _ _ _ h) (endCcmd_memWf _ _ h)

theorem tearDown_memWf {s : State} (c : BitVec 6) (h : memWf s.mem = true) : memWf (tearDown s c).mem = true := by
  unfold tearDown
  simp only [dropTrails_mem]
  exact foldl_memWf _ (fun _ h hs => dropKernel_memWf _ hs) _ _
    (foldl_memWf _ (fun _ _ hs => killGroup_memWf _ _ _ hs) _ _ (foldl_memWf _ (fun _ _ hs => closeQueue_memWf _ hs) _ _ h))

@[simp] theorem endSession_mem (s : State) (c : BitVec 6) : (endSession s c).mem = s.mem := by
  unfold endSession; split <;> rfl

theorem faultCtx_memWf {s : State} (c : BitVec 6) (h : memWf s.mem = true) : memWf (faultCtx s c).mem = true := by
  unfold faultCtx
  simp only [modCtx_mem]; exact moveCtx_memWf _ _ (tearDown_memWf _ (by simpa using h))

theorem destroyCtx_memWf {s : State} (c : BitVec 6) (h : memWf s.mem = true) : memWf (destroyCtx s c).mem = true := by
  unfold destroyCtx
  simp only [modCtx_mem]; exact moveCtx_memWf _ _ (tearDown_memWf _ (by simpa using h))

@[simp] theorem leaveDevice_mem (s : State) (c : BitVec 6) : (leaveDevice s c).mem = s.mem := by simp [leaveDevice]

theorem saveCtx_memWf {s : State} (c : BitVec 6) (im : Image) (h : memWf s.mem = true) :
    memWf (saveCtx s c im).mem = true :=
  moveCtx_memWf _ _ (by simp only [modCtx_mem]; exact homeWrite_memWf _ _ _ (by simpa using h))

@[simp] theorem passGen_mem (s : State) (h' : BitVec 32) : (passGen s h').mem = s.mem := rfl

theorem enterDevice_memWf {s : State} (c : BitVec 6) (im : Image) (bs : List Byte) (h : memWf s.mem = true) :
    memWf (enterDevice s c im bs).mem = true := by
  unfold enterDevice
  simp only [modCtx_mem]; exact foldl_memWf _ (fun _ _ hs => by simpa using hs) _ _ (homeWrite_memWf _ _ _ h)

theorem judgeRestored_memWf {s : State} (c : BitVec 6) (h : memWf s.mem = true) :
    memWf (judgeRestored s c).mem = true := judgeCapacity_memWf h

@[simp] theorem restoreWaits_mem (s : State) (c : BitVec 6) (x : Reload) : (restoreWaits s c x).mem = s.mem := by
  unfold restoreWaits; split <;> simp [foldl_mem]

@[simp] theorem restoreOver_mem (s : State) (c : BitVec 6) : (restoreOver s c).mem = s.mem := rfl

/-! ## The operations of Machine/BankEvents.lean -/

theorem execCorrectableError_keeps (bank : BitVec 32) {s : State} (h : memWf s.mem = true) :
    KeepsForm (execCorrectableError bank s) :=
  .ite (.next h) (.ite
      (.next (decideRetire_memWf _ _ (errLog_memWf _ (memWf_ite (errLog_memWf _ (by simpa using h)) (by simpa using h)))))
      (.next (memWf_ite (errLog_memWf _ (by simpa using h)) (by simpa using h))))

theorem faultByError_memWf {s : State} (c : BitVec 6) (h : memWf s.mem = true) : memWf (faultByError s c).mem = true := by
  unfold faultByError
  dsimp only
  split
  · exact faultCtx_memWf _ (memWf_ite (endCcmd_memWf _ _ h) h)
  · exact faultCtx_memWf _ h

@[simp] theorem poisonMemLine_mem (s : State) (line : Nat) : (poisonMemLine s line).mem = s.mem := by
  unfold poisonMemLine; split <;> rfl

theorem rebuildArena_memWf {s : State} (h' : BitVec 32) (h : memWf s.mem = true) : memWf (rebuildArena s h').mem = true := by
  unfold rebuildArena
  split
  · exact h
  · split
    · next q =>
        exact foldl_memWf _ (fun _ _ hs => killGroup_memWf _ _ _ hs) _ _
          (loseKernel_memWf _ (memWf_of_eq q (rereadObject_memWf _ _ h)))
    · next q => simp only [modKernel_mem]; exact memWf_of_eq q (rereadObject_memWf _ _ h)
    · next q => exact memWf_of_eq q (rereadObject_memWf _ _ h)
    · next q => exact memWf_of_eq q (rereadObject_memWf _ _ h)

@[simp] theorem poisonLane_mem (s : State) (x : SlotNo) (r : BitVec 5) (line : Nat) :
    (poisonLane s x r line).mem = s.mem := rfl

theorem errorAt_memWf {s : State} (id : Nat) (site : UeSite) (h : memWf s.mem = true) :
    memWf (errorAt s id site).mem = true := by
  unfold errorAt
  split
  · exact foldl_memWf _ (fun _ _ hs => faultByError_memWf _ hs) _ _ (errLog_memWf _ (by simpa using h))
  · exact errLog_memWf _ (by simpa using h)
  · exact errLog_memWf _ (by simpa using h)
  · exact errLog_memWf _ (by simpa using h)
  · exact errorEvent_memWf _ _ _ _ h
  · exact memWf_ite (foldl_memWf _ (fun _ _ hs => errorEvent_memWf _ _ _ _ hs) _ _ h) h

theorem execUncorrectableError_keeps (bank : BitVec 32) (site : UeSite) {s : State} (h : memWf s.mem = true) :
    KeepsForm (execUncorrectableError bank site s) :=
  .next (memWf_ite (evacuate_memWf _ _ _ (errorAt_memWf _ _ h)) (errorAt_memWf _ _ h))

theorem execBankWindowEnd_keeps (s : State) (h : memWf s.mem = true) : KeepsForm (execBankWindowEnd s) := .next h

theorem diverge_memWf {s : State} (x : SlotNo) (flight e : Nat) (y : Fp) (bank : BitVec 32) (h : memWf s.mem = true) :
    memWf (diverge s x flight e y bank).mem = true := by
  unfold diverge
  split
  · exact h
  · exact memWf_ite h (memWf_ite (consumePoison_memWf _ _ _ _ h) (memWf_ite
          (decideRetire_memWf _ _ (errLog_memWf _ (by simp only [setBank_mem]; exact errorEvent_memWf _ _ _ _ h)))
          (errLog_memWf _ (by simp only [setBank_mem]; exact errorEvent_memWf _ _ _ _ h))))

theorem execBankcfgWrite_keeps (v : Word) {s : State} (h : memWf s.mem = true) :
    KeepsForm (execBankcfgWrite v s) := whenReady_keeps h (.ite (.next (errLog_memWf _ h)) (.next h))

theorem execElcfgWrite_keeps (v : Word) {s : State} (h : memWf s.mem = true) :
    KeepsForm (execElcfgWrite v s) := whenReady_keeps h (.ite (.next (errLog_memWf _ h)) (.next h))

@[simp] theorem bankFail_mem (s : State) (bank : BitVec 32) (reason : BitVec 8) : (bankFail s bank reason).mem = s.mem := rfl

theorem runBankcmd_memWf {s : State} (action : Nat) (bank : BitVec 32) (rsv : BitVec 30) (h : memWf s.mem = true) :
    memWf (runBankcmd s action bank rsv).mem = true :=
  memWf_ite (errLog_memWf _ h) (memWf_ite (by simpa using h) (memWf_ite (by simpa using h) (evacuate_memWf _ _ _ h)))

theorem execBankcmdRetire_keeps (bank : BitVec 32) (rsv : BitVec 30) {s : State} (h : memWf s.mem = true) :
    KeepsForm (execBankcmdRetire bank rsv s) := whenReady_keeps h (.next (runBankcmd_memWf _ _ _ h))

theorem execBankcmdOffline_keeps (bank : BitVec 32) (rsv : BitVec 30) {s : State} (h : memWf s.mem = true) :
    KeepsForm (execBankcmdOffline bank rsv s) := whenReady_keeps h (.next (runBankcmd_memWf _ _ _ h))

@[simp] theorem modEvacuation_mem (s : State) (id : Nat) (f : Evacuation → Evacuation) :
    (modEvacuation s id f).mem = s.mem := rfl

theorem execTargetBankTimeout_keeps (bank : BitVec 32) {s : State} (h : memWf s.mem = true) :
    KeepsForm (execTargetBankTimeout bank s) := by
  unfold execTargetBankTimeout
  split
  · refine .next (foldl_memWf _ (fun _ _ hs => ?_) _ _ h)
    split
    · exact overcapBand_memWf _ hs
    · exact hs
  · exact .next h

theorem execBankCopyLine_keeps (bank : BitVec 32) {s : State} (h : memWf s.mem = true) :
    KeepsForm (execBankCopyLine bank s) := by
  unfold execBankCopyLine
  split
  · exact .next h
  · split
    · exact .next h
    · split
      · exact .ite (.next h) (.next (finishBank_memWf _ h))
      · exact .ite (.next h) (.ite (.next (by simpa using h)) (.next (finishBank_memWf _ (by simpa using h))))

@[simp] theorem fillHome_mem (s : State) (line : Nat) : (fillHome s line).mem = s.mem := by
  unfold fillHome; dsimp only; split <;> simp

@[simp] theorem evictHome_mem (s : State) (line : Nat) : (evictHome s line).mem = s.mem := rfl

@[simp] theorem drainLine_mem (s : State) (die : Bool) (p : Nat × Bool) : (drainLine s die p).mem = s.mem := by
  unfold drainLine
  split
  · split <;> simp
  · rfl

theorem execSliceDrainLine_keeps (bank : BitVec 32) {s : State} (h : memWf s.mem = true) :
    KeepsForm (execSliceDrainLine bank s) := by
  unfold execSliceDrainLine
  split
  · exact .next h
  · split
    · exact .next h
    · dsimp only
      split
      · exact .ite (.next (finishBank_memWf _ (by simpa using h))) (.next (by simpa using h))
      · exact .ite (.next (finishBank_memWf _ h)) (.next h)

/-! ## The operations of Machine/Barrier.lean -/

@[simp] theorem loadBar_mem (s : State) (g : Machine.Group) (b : BitVec 5) (w : Word) : (loadBar s g b w).mem = s.mem := by
  simp [loadBar]

theorem execBari_keeps (b : BitVec 5) (sa : BitVec 6) {s : State} (h : memWf s.mem = true) : KeepsForm (execBari b sa s) := by
  unfold execBari
  dsimp only
  split
  · exact .next (trapType_memWf _ _ h)
  · exact .ite (.next (trapType_memWf _ _ h)) (.ite (.next (trapType_memWf _ _ h))
        (.ite (.next (by simpa using h)) (.ite (.next (trapType_memWf _ _ h)) (.next (by simpa using h)))))

theorem execBara_keeps (f : BarF) {s : State} (h : memWf s.mem = true) : KeepsForm (execBara f s) := by
  unfold execBara
  dsimp only
  split
  · exact .next (trapType_memWf _ _ h)
  · exact .ite (.next (trapType_memWf _ _ h)) (.ite (.next h) (.next (by simpa using h)))

theorem execBarw_keeps (f : BarF) {s : State} (h : memWf s.mem = true) : KeepsForm (execBarw f s) := by
  unfold execBarw
  dsimp only
  split
  · exact .next (trapType_memWf _ _ h)
  · exact .ite (.next (trapType_memWf _ _ h)) (.ite (.next (by simpa using h)) (.next (parkOn_memWf _ h)))

@[simp] theorem countArrival_mem (s : State) (x : Block) (b : BitVec 5) : (countArrival s x b).mem = s.mem := by
  unfold countArrival
  split
  · rfl
  · dsimp only
    split <;> simp

theorem execBarrierArrivalCounted_keeps (x : SlotNo) (b : BitVec 5) {s : State} (h : memWf s.mem = true) :
    KeepsForm (execBarrierArrivalCounted x b s) := by
  unfold execBarrierArrivalCounted
  split
  · exact .ite (.next (settleStop_memWf _ (by simpa using h))) (.next h)
  · exact .next h

/-! ## The operations of Machine/BlockEvents.lean -/

theorem execBlockDrainComplete_keeps (x : SlotNo) {s : State} (h : memWf s.mem = true) :
    KeepsForm (execBlockDrainComplete x s) := by
  unfold execBlockDrainComplete
  split
  · exact .ite (.next (settleBanks_memWf (blockDone_memWf _ h))) (.next h)
  · exact .next h

theorem execRollbackRestoreComplete_keeps (x : SlotNo) {s : State} (h : memWf s.mem = true) :
    KeepsForm (execRollbackRestoreComplete x s) := by
  unfold execRollbackRestoreComplete
  split
  · exact .next h
  · split
    · dsimp only
      split
      · exact .ite (.next (settleBanks_memWf (by simpa using h)))
          (.ite (.next (settleBanks_memWf (by simpa using h))) (.next (settleBanks_memWf (by simpa using h))))
      · split
        · exact .next (by simpa using h)
        · split
          · exact .next (settleBanks_memWf (judgeCapacity_memWf (settleBand_memWf _ (by simpa using h))))
          · exact .next (by simpa using h)
    · exact .next h

/-! ## The operations of Machine/Migrate.lean -/

@[simp] theorem sendMsg_mem (s : State) (c : BitVec 6) (body : DecampBody) : (sendMsg s c body).mem = s.mem := rfl

theorem sendPage_memWf {s : State} (c : BitVec 6) (va : Nat) (l : Leaf) (h : memWf s.mem = true) :
    memWf (sendPage s c va l).mem = true := by
  unfold sendPage
  simp only [sendMsg_mem, invalidate_mem]; exact homeWrite_memWf _ _ _ h

theorem sendAll_memWf {s : State} (c : BitVec 6) (l : List (Nat × Leaf)) (h : memWf s.mem = true) :
    memWf (sendAll s c l).mem = true := foldl_memWf _ (fun _ _ hs => sendPage_memWf _ _ _ hs) _ _ h

theorem sendRound_memWf {s : State} (c : BitVec 6) (h : memWf s.mem = true) :
    memWf (sendRound s c).mem = true := sendAll_memWf _ _ (by simpa using h)

@[simp] theorem startPrecopy_mem (s : State) (c : BitVec 6) (slot : Nat) : (startPrecopy s c slot).mem = s.mem := rfl

theorem endRound0_memWf {s : State} (c : BitVec 6) (h : memWf s.mem = true) :
    memWf (endRound0 s c).mem = true := sendAll_memWf _ _ (by simpa using h)

@[simp] theorem finalStopBlock_mem (s : State) (b : Block) : (finalStopBlock s b).mem = s.mem := by
  unfold finalStopBlock; split <;> simp

@[simp] theorem finalStop_mem (s : State) (c : BitVec 6) : (finalStop s c).mem = s.mem := by
  unfold finalStop
  dsimp only
  rw [foldl_mem _ (fun u b => finalStopBlock_mem u b), foldl_mem _ (fun u g => modGroup_mem u _ _)]
  rfl

theorem endRound_memWf {s : State} (c : BitVec 6) (h : memWf s.mem = true) : memWf (endRound s c).mem = true :=
  memWf_ite
    (by simp only [finalStop_mem]; exact ctxEvent_memWf _ _ _ _ _ (by simp only [modCtx_mem]; exact sendRound_memWf _ h))
    (ctxEvent_memWf _ _ _ _ _ (by simp only [modCtx_mem]; exact sendRound_memWf _ h))

theorem finalSend_memWf {s : State} (c : BitVec 6) (h : memWf s.mem = true) : memWf (finalSend s c).mem = true :=
  memWf_ite h (by
      simp only [modCtx_mem, sendMsg_mem]
      exact foldl_memWf _ (fun _ _ hs => by simpa using hs) _ _
        (foldl_memWf _ (fun _ _ hs => acceptArrived_memWf _ _ hs) _ _ (sendRound_memWf _ h)))

@[simp] theorem resumeStopping_mem (s : State) (g : Machine.Group) : (resumeStopping s g).mem = s.mem := by
  simp [resumeStopping, foldl_mem]

theorem abandonOut_memWf {s : State} (c : BitVec 6) (reason : Nat) (h : memWf s.mem = true) :
    memWf (abandonOut s c reason).mem = true :=
  lateFailure_memWf _ _ (moveCtx_memWf _ _ (foldl_memWf _ (fun _ g hs => by simpa using hs) _ _ (by simpa using h)))

theorem abandonIn_memWf {s : State} (c : BitVec 6) (e : Nat × Nat × Nat) (h : memWf s.mem = true) :
    memWf (abandonIn s c e).mem = true := lateFailure_memWf _ _ (moveCtx_memWf _ _ (by simpa using h))

theorem mapPage_memWf {s : State} (va size frame flags level a : Nat) (tables : List (BitVec 40)) (h : memWf s.mem = true) :
    memWf (mapPage s va size frame flags level a tables).mem = true := by
  induction level generalizing s a tables with
  | zero => exact homeWrite_memWf _ _ _ h
  | succ k ih =>
    unfold mapPage
    refine memWf_ite (homeWrite_memWf _ _ _ h) (memWf_ite (ih _ _ h) ?_)
    cases tables with
    | nil => exact h
    | cons t r => exact ih _ _ (homeWrite_memWf _ _ _ (homeWrite_memWf _ _ _ h))

theorem receivePage_memWf {s : State} (c : BitVec 6) (va : BitVec 48) (size : BitVec 2) (flags : BitVec 11)
    (tables : List (BitVec 40)) (frame : BitVec 40) (data : List Byte) (h : memWf s.mem = true) :
    memWf (receivePage s c va size flags tables frame data).mem = true :=
  mapPage_memWf _ _ _ _ _ _ _ (homeWrite_memWf _ _ _ h)

/-- The state that a kernel which loads again leaves. -/
theorem reloadOne_memWf {s t : State} {c : BitVec 6} {k : Kernel} (q : reloadOne s c k = .ok t) (h : memWf s.mem = true) :
    memWf t.mem = true := by
  unfold reloadOne at q
  dsimp only at q
  split at q
  · cases q
  · split at q
    · cases q
    · cases q
    · cases q
    · next e =>
      split at q
      · cases q
      · rw [← Reload.ok.inj q]; exact (memWf_of_eq e (loadObject_memWf _ _ h) :)

theorem reloadAll_memWf {s t : State} {c : BitVec 6} {l : List Kernel} (q : reloadAll s c l = .ok t)
    (h : memWf s.mem = true) :
    memWf t.mem = true := by
  induction l generalizing s with
  | nil => rw [← Reload.ok.inj q]; exact h
  | cons k r ih =>
    unfold reloadAll at q
    split at q
    · next e => exact ih q (reloadOne_memWf e h)
    · next hn => exact absurd q (hn t)

theorem restoreImage_ok_memWf {s t : State} {c : BitVec 6} {bytes : List Byte} (q : restoreImage s c bytes = .ok t)
    (h : memWf s.mem = true) : memWf t.mem = true := by
  unfold restoreImage at q
  split at q
  · cases q
  · split at q
    · cases q
    · split at q
      · cases q
      · dsimp only at q
        split at q
        · next e =>
          rw [← Reload.ok.inj q]
          exact enterDevice_memWf _ _ _ (reloadAll_memWf e (foldl_memWf _ (fun _ k hs => dropKernel_memWf k hs) _ _ h))
        · cases q
        · cases q
        · cases q

/-- A refused image leaves the state in which it was read. -/
theorem restoreImage_failed_memWf {s t : State} {c : BitVec 6} {bytes : List Byte} {e : Nat × Nat × Nat}
    (q : restoreImage s c bytes = .failed e t) (h : memWf s.mem = true) : memWf t.mem = true := by
  have hs : s = t := by
    unfold restoreImage at q
    split at q
    · exact (Reload.failed.inj q).2
    · split at q
      · exact (Reload.failed.inj q).2
      · split at q
        · exact (Reload.failed.inj q).2
        · dsimp only at q
          split at q
          · cases q
          · exact (Reload.failed.inj q).2
          · cases q
          · cases q
  rw [← hs]; exact h

theorem receiveEnd_memWf {s : State} (c : BitVec 6) (h : memWf s.mem = true) : memWf (receiveEnd s c).mem = true := by
  unfold receiveEnd
  refine memWf_ite h ?_
  split
  · next q => exact judgeRestored_memWf _ (moveCtx_memWf _ _ (by simpa using restoreImage_ok_memWf q h))
  · next q => exact abandonIn_memWf _ _ (restoreImage_failed_memWf q h)
  · simpa using h

theorem execDecampMessageReceive_keeps (c : BitVec 6) (counter : Word) (authentic : Bool) (frame : BitVec 40)
    (body : DecampBody) {s : State} (h : memWf s.mem = true) :
    KeepsForm (execDecampMessageReceive c counter authentic frame body s) := by
  unfold execDecampMessageReceive
  dsimp only
  split
  · exact .ite (.next h) (.next (abandonOut_memWf _ _ h))
  · split
    · exact .next (abandonIn_memWf _ _ h)
    · split
      · exact .next (receivePage_memWf _ _ _ _ _ _ _ (by simpa using h))
      · exact .next (by simpa using h)
      · exact .next (receiveEnd_memWf _ h)
  · exact .next h

/-! ## The operations of Machine/ContextEvents.lean -/

theorem runCreate_memWf {s : State} (f : CcmdF) (h : memWf s.mem = true) : memWf (runCreate s f).mem = true :=
  memWf_ite (endCcmd_memWf _ _ h) (memWf_ite (endCcmd_memWf _ _ h) (endCcmd_memWf _ _ (moveCtx_memWf _ _ (by simpa using h))))

theorem runActivate_memWf {s : State} (f : CcmdF) (h : memWf s.mem = true) :
    memWf (runActivate s f).mem = true := memWf_ite (endCcmd_memWf _ _ (moveCtx_memWf _ _ h)) (endCcmd_memWf _ _ h)

@[simp] theorem busyCcmd_mem (s : State) (n : Nat) (f : CcmdF) : (busyCcmd s n f).mem = s.mem := rfl

theorem runSuspend_memWf {s : State} (f : CcmdF) (h : memWf s.mem = true) : memWf (runSuspend s f).mem = true :=
  memWf_ite (foldl_memWf _ (fun _ _ hs => requestStop_memWf _ hs) _ _ (moveCtx_memWf _ _ (by simpa using h)))
    (endCcmd_memWf _ _ h)

theorem runRestore_memWf {s : State} (f : CcmdF) (h : memWf s.mem = true) :
    memWf (runRestore s f).mem = true := memWf_ite (moveCtx_memWf _ _ (by simpa using h)) (endCcmd_memWf _ _ h)

theorem runMigrateOut_memWf {s : State} (f : CcmdF) (h : memWf s.mem = true) : memWf (runMigrateOut s f).mem = true :=
  memWf_ite (endCcmd_memWf _ _ h)
    (memWf_ite (endCcmd_memWf _ _ h) (endCcmd_memWf _ _ (by simp only [startPrecopy_mem]; exact moveCtx_memWf _ _ h)))

theorem runMigrateIn_memWf {s : State} (f : CcmdF) (h : memWf s.mem = true) : memWf (runMigrateIn s f).mem = true :=
  memWf_ite (endCcmd_memWf _ _ h)
    (memWf_ite (endCcmd_memWf _ _ h) (endCcmd_memWf _ _ (by simp only [modCtx_mem]; exact moveCtx_memWf _ _ h)))

theorem runStopmig_memWf {s : State} (f : CcmdF) (h : memWf s.mem = true) :
    memWf (runStopmig s f).mem = true := memWf_ite (endCcmd_memWf _ _ (by simpa using h)) (endCcmd_memWf _ _ h)

theorem runDestroy_memWf {s : State} (f : CcmdF) (h : memWf s.mem = true) : memWf (runDestroy s f).mem = true := by
  unfold runDestroy
  split
  · exact endCcmd_memWf _ _ h
  · exact endCcmd_memWf _ _ h
  · exact endCcmd_memWf _ _ (destroyCtx_memWf _ h)

theorem runFault_memWf {s : State} (f : CcmdF) (h : memWf s.mem = true) : memWf (runFault s f).mem = true := by
  unfold runFault
  split
  · exact endCcmd_memWf _ _ h
  · exact endCcmd_memWf _ _ h
  · exact endCcmd_memWf _ _ h
  · exact endCcmd_memWf _ _ (faultCtx_memWf _ h)

theorem runCcmd_memWf {s : State} (n : Nat) (f : CcmdF) (h : memWf s.mem = true) : memWf (runCcmd s n f).mem = true := by
  unfold runCcmd
  split
  · exact runCreate_memWf _ h
  · exact runActivate_memWf _ h
  · exact runSuspend_memWf _ h
  · exact runRestore_memWf _ h
  · exact runMigrateOut_memWf _ h
  · exact runMigrateIn_memWf _ h
  · exact runStopmig_memWf _ h
  · exact runDestroy_memWf _ h
  · exact runFault_memWf _ h
  · exact endCcmd_memWf _ _ h

theorem takeCcmd_keeps (who : Writer) (n : Nat) (f : CcmdF) {s : State} (h : memWf s.mem = true) :
    KeepsForm (takeCcmd who n f s) :=
  .ite (.next h) (.ite (.next (refusalEvent_memWf _ _ _ h)) (.ite (.next (by simpa using h)) (.next (runCcmd_memWf _ _ h))))

theorem startWaiting_memWf {s : State} (h : memWf s.mem = true) : memWf (startWaiting s).mem = true := by
  unfold startWaiting
  split
  · exact h
  · exact memWf_ite h (runCcmd_memWf _ _ h)

theorem execCcmdCreate_keeps (who : Writer) (f : CcmdF) {s : State} (h : memWf s.mem = true) :
    KeepsForm (execCcmdCreate who f s) := whenReady_keeps h (takeCcmd_keeps _ _ _ h)

theorem execCcmdActivate_keeps (who : Writer) (f : CcmdF) {s : State} (h : memWf s.mem = true) :
    KeepsForm (execCcmdActivate who f s) := whenReady_keeps h (takeCcmd_keeps _ _ _ h)

theorem execCcmdSuspend_keeps (who : Writer) (f : CcmdF) {s : State} (h : memWf s.mem = true) :
    KeepsForm (execCcmdSuspend who f s) := whenReady_keeps h (takeCcmd_keeps _ _ _ h)

theorem execCcmdRestore_keeps (who : Writer) (f : CcmdF) {s : State} (h : memWf s.mem = true) :
    KeepsForm (execCcmdRestore who f s) := whenReady_keeps h (takeCcmd_keeps _ _ _ h)

theorem execCcmdMigrateOut_keeps (who : Writer) (f : CcmdF) {s : State} (h : memWf s.mem = true) :
    KeepsForm (execCcmdMigrateOut who f s) := whenReady_keeps h (takeCcmd_keeps _ _ _ h)

theorem execCcmdMigrateIn_keeps (who : Writer) (f : CcmdF) {s : State} (h : memWf s.mem = true) :
    KeepsForm (execCcmdMigrateIn who f s) := whenReady_keeps h (takeCcmd_keeps _ _ _ h)

theorem execCcmdStopmig_keeps (who : Writer) (f : CcmdF) {s : State} (h : memWf s.mem = true) :
    KeepsForm (execCcmdStopmig who f s) := whenReady_keeps h (takeCcmd_keeps _ _ _ h)

theorem execCcmdDestroy_keeps (who : Writer) (f : CcmdF) {s : State} (h : memWf s.mem = true) :
    KeepsForm (execCcmdDestroy who f s) := whenReady_keeps h (takeCcmd_keeps _ _ _ h)

theorem execCcmdFault_keeps (who : Writer) (f : CcmdF) {s : State} (h : memWf s.mem = true) :
    KeepsForm (execCcmdFault who f s) := whenReady_keeps h (takeCcmd_keeps _ _ _ h)

theorem execSuspendImageWritten_keeps (c : BitVec 6) (len : Word) {s : State} (h : memWf s.mem = true) :
    KeepsForm (execSuspendImageWritten c len s) :=
  .ite (.next h) (.ite (.next (endCcmd_memWf _ _ (moveCtx_memWf _ _ h)))
      (.next (endCcmd_memWf _ _ (saveCtx_memWf _ _ (foldl_memWf _ (fun _ _ hs => acceptArrived_memWf _ _ hs) _ _ h)))))

theorem endRestore_memWf {s : State} (c : BitVec 6) (e : Option (Nat × Nat × Nat)) (h : memWf s.mem = true) :
    memWf (endRestore s c e).mem = true := endCcmd_memWf _ _ (by simp only [restoreOver_mem]; exact moveCtx_memWf _ _ h)

theorem execRestoreComplete_keeps (c : BitVec 6) {s : State} (h : memWf s.mem = true) :
    KeepsForm (execRestoreComplete c s) := by
  unfold execRestoreComplete
  dsimp only
  split
  · exact .next h
  · split
    · exact .next (endRestore_memWf _ _ h)
    · split
      · next q => exact .next (judgeRestored_memWf _ (endRestore_memWf _ _ (restoreImage_ok_memWf q h)))
      · next q => exact .next (endRestore_memWf _ _ (restoreImage_failed_memWf q h))
      · exact .next (by simpa using h)

theorem execContextDrainComplete_keeps (c : BitVec 6) {s : State} (h : memWf s.mem = true) :
    KeepsForm (execContextDrainComplete c s) :=
  .ite (.next (by simp only [setCtx_mem, invalidate_mem]; exact moveCtx_memWf _ _ h)) (.next h)

theorem execPrecopyRoundEnd_keeps (c : BitVec 6) {s : State} (h : memWf s.mem = true) :
    KeepsForm (execPrecopyRoundEnd c s) :=
  .ite (.next h) (.ite (.next h) (.next (memWf_ite (endRound0_memWf _ h) (endRound_memWf _ h))))

theorem execMigrationStopTimeout_keeps (c : BitVec 6) {s : State} (h : memWf s.mem = true) :
    KeepsForm (execMigrationStopTimeout c s) := .ite (.next (abandonOut_memWf _ _ h)) (.next h)

theorem execTargetEndAck_keeps (c : BitVec 6) {s : State} (h : memWf s.mem = true) : KeepsForm (execTargetEndAck c s) := by
  unfold execTargetEndAck
  dsimp only
  split
  · exact .ite (.next (saveCtx_memWf _ _ (by simpa using h))) (.next h)
  · exact .next h

theorem execLinkLost_keeps (c : BitVec 6) {s : State} (h : memWf s.mem = true) : KeepsForm (execLinkLost c s) := by
  unfold execLinkLost
  split
  · exact .next (abandonOut_memWf _ _ h)
  · exact .next (abandonIn_memWf _ _ h)
  · exact .next h

theorem execTargetRefusal_keeps (c : BitVec 6) {s : State} (h : memWf s.mem = true) :
    KeepsForm (execTargetRefusal c s) := .ite (.next (abandonOut_memWf _ _ h)) (.next h)

theorem execKeySlotWrite_keeps (who : Writer) (die : Bool) (slot : BitVec 4) (data : BitVec 512) (s : State)
    (h : memWf s.mem = true) :
    KeepsForm (execKeySlotWrite who die slot data s) := whenReady_keeps h (.ite (.next h) (.next h))

/-! ## The operations of Machine/Control.lean -/

theorem jumpTo_memWf {s : State} (insn t : Word) (k : State → State)
    (hk : ∀ u, memWf u.mem = true → memWf (k u).mem = true) (h : memWf s.mem = true) :
    memWf (jumpTo s insn t k).mem = true :=
  memWf_ite (hk _ (by simp only [setPc_mem]; exact leaveLines_memWf _ h)) (seqTrap_memWf _ _ h)

theorem execBCond_keeps (f : BrF) {s : State} (h : memWf s.mem = true) :
    KeepsForm (execBCond f s) := .ite (.next (jumpTo_memWf _ _ _ (fun _ hs => hs) h)) (.next (by simpa using h))

theorem execJ_keeps (off : BitVec 32) {s : State} (h : memWf s.mem = true) :
    KeepsForm (execJ off s) := .next (jumpTo_memWf _ _ _ (fun _ hs => hs) h)

theorem execCall_keeps (f : SaOff) {s : State} (h : memWf s.mem = true) :
    KeepsForm (execCall f s) := .next (jumpTo_memWf _ _ _ (fun _ hs => by simpa using hs) h)

theorem execRet_keeps (sa : BitVec 6) {s : State} (h : memWf s.mem = true) :
    KeepsForm (execRet sa s) := .next (jumpTo_memWf _ _ _ (fun _ hs => hs) h)

@[simp] theorem setLoops_mem (s : State) (l : List LoopEntry) : (setLoops s l).mem = s.mem := rfl

theorem trapLoop_memWf {s : State} (insn : Word) (n : Nat) (h : memWf s.mem = true) :
    memWf (trapLoop s insn n).mem = true := seqTrap_memWf _ _ h

theorem execLoop_keeps (f : SaOff) {s : State} (h : memWf s.mem = true) : KeepsForm (execLoop f s) :=
  .ite (.next (jumpTo_memWf _ _ _ (fun _ hs => hs) h)) (.ite (.next (trapLoop_memWf _ _ h)) (.next (by simpa using h)))

theorem execEndl_keeps (off : BitVec 32) {s : State} (h : memWf s.mem = true) : KeepsForm (execEndl off s) := by
  unfold execEndl
  split
  · exact .next (trapLoop_memWf _ _ h)
  · exact .ite (.next (seqTrap_memWf _ _ h)) (.ite
        (.next (jumpTo_memWf _ _ _ (fun _ hs => resumable_memWf _ (by simpa using hs)) h))
        (.next (resumable_memWf _ (by simpa using h))))

theorem execLbrk_keeps (lv : BitVec 3) (off : BitVec 32) {s : State} (h : memWf s.mem = true) :
    KeepsForm (execLbrk lv off s) :=
  .ite (.next (trapLoop_memWf _ _ h)) (.next (jumpTo_memWf _ _ _ (fun _ hs => by simpa using hs) h))

/-! ## The operations of Machine/Kernels.lean -/

theorem takeKcmd_keeps (f : KcmdF) {s : State} (run : State → State)
    (hrun : ∀ u, memWf u.mem = true → memWf (run u).mem = true) (h : memWf s.mem = true) :
    KeepsForm (takeKcmd f s run) := .ite (.next (refusalEvent_memWf _ _ _ h)) (.next (hrun _ h))

theorem startLoad_memWf (f : KcmdF) {s : State} (h : memWf s.mem = true) : memWf (startLoad f s).mem = true := by
  unfold startLoad
  refine memWf_ite (endKcmd_memWf _ _ _ h) ?_
  split
  · exact endKcmd_memWf _ _ _ h
  · exact loaderRequest_memWf _ _ _ _ h

theorem execKcmdLoad_keeps (f : KcmdF) {s : State} (h : memWf s.mem = true) :
    KeepsForm (execKcmdLoad f s) := whenReady_keeps h (takeKcmd_keeps _ _ (fun _ hs => startLoad_memWf _ hs) h)

theorem onKernel_memWf (f : KcmdF) (allowed : State → Kernel → Bool) (run : State → Kernel → State) {s : State}
    (hrun : ∀ u y2, memWf u.mem = true → memWf (run u y2).mem = true) (h : memWf s.mem = true) :
    memWf (onKernel f allowed run s).mem = true := by
  unfold onKernel
  split
  · exact endKcmd_memWf _ _ _ h
  · split
    · exact memWf_ite (endKcmd_memWf _ _ _ (hrun _ _ h)) (endKcmd_memWf _ _ _ h)
    · exact endKcmd_memWf _ _ _ h

@[simp] theorem setKernelSt_mem (st : KernelSt) (s : State) (k : Kernel) : (setKernelSt st s k).mem = s.mem := rfl

theorem execKcmdPin_keeps (f : KcmdF) {s : State} (h : memWf s.mem = true) : KeepsForm (execKcmdPin f s) :=
  whenReady_keeps h (takeKcmd_keeps _ _ (fun _ hs => onKernel_memWf _ _ _ (fun _ _ hs1 => by simpa using hs1) hs) h)

theorem execKcmdUnpin_keeps (f : KcmdF) {s : State} (h : memWf s.mem = true) : KeepsForm (execKcmdUnpin f s) :=
  whenReady_keeps h (takeKcmd_keeps _ _ (fun _ hs => onKernel_memWf _ _ _ (fun _ _ hs1 => by simpa using hs1) hs) h)

theorem execKcmdUnload_keeps (f : KcmdF) {s : State} (h : memWf s.mem = true) : KeepsForm (execKcmdUnload f s) :=
  whenReady_keeps h (takeKcmd_keeps _ _ (fun _ hs => onKernel_memWf _ _ _ (fun _ _ hs1 => dropKernel_memWf _ hs1) hs) h)

theorem finishLoad_memWf {s : State} (c : BitVec 6) (h' : BitVec 32) (reason : Option Nat) (h : memWf s.mem = true) :
    memWf (finishLoad s c h' reason).mem = true := startWaiting_memWf (endKcmd_memWf _ _ _ h)

theorem loadFails_memWf {s : State} (c : BitVec 6) (h' : BitVec 32) (reason : Nat) (h : memWf s.mem = true) :
    memWf (loadFails s c h' reason).mem = true := finishLoad_memWf _ _ _ (dropKernel_memWf _ h)

theorem goOnLoad_memWf {s : State} (f : KcmdF) (k : Kernel) (h : memWf s.mem = true) : memWf (goOnLoad s f k).mem = true := by
  unfold goOnLoad
  dsimp only
  split
  · exact finishLoad_memWf _ _ _ (by simpa using h)
  · split
    · next q => simp only [holdOn_mem]; exact memWf_of_eq q (loadObject_memWf _ _ h)
    · next q => simp only [askPages_mem]; exact memWf_of_eq q (loadObject_memWf _ _ h)
    · next q => exact loadFails_memWf _ _ _ (memWf_of_eq q (loadObject_memWf _ _ h))
    · next q =>
      have h1 := memWf_of_eq q (loadObject_memWf _ _ h)
      split
      · next q => exact loadFails_memWf _ _ _ (memWf_of_eq q (copyData_memWf _ _ _ h1))
      · next q => simp only [holdOn_mem]; exact memWf_of_eq q (copyData_memWf _ _ _ h1)
      · next q =>
          exact memWf_ite (by simp only [modKernel_mem]; exact memWf_of_eq q (copyData_memWf _ _ _ h1))
            (finishLoad_memWf _ _ _ (by simp only [modKernel_mem]; exact memWf_of_eq q (copyData_memWf _ _ _ h1)))

theorem execKernelLoadComplete_keeps {s : State} (h : memWf s.mem = true) : KeepsForm (execKernelLoadComplete s) := by
  unfold execKernelLoadComplete
  split
  · exact .next h
  · split
    · exact .next (finishLoad_memWf _ _ _ h)
    · exact .ite (.next h) (.next (goOnLoad_memWf _ _ (by simpa using h)))

theorem execKernelEvict_keeps (h' : BitVec 32) {s : State} (h : memWf s.mem = true) : KeepsForm (execKernelEvict h' s) := by
  unfold execKernelEvict
  split
  · exact .ite (.next (dropCode_memWf _ (by simpa using h))) (.next h)
  · exact .next h

theorem execKernelReloadComplete_keeps (h' : BitVec 32) {s : State} (h : memWf s.mem = true) :
    KeepsForm (execKernelReloadComplete h' s) := by
  unfold execKernelReloadComplete
  split
  · split
    · exact .next h
    · split
      · next q => exact .next (by simp only [modKernel_mem]; exact memWf_of_eq q (rereadObject_memWf _ _ (by simpa using h)))
      · next q => exact .next (loseKernel_memWf _ (memWf_of_eq q (rereadObject_memWf _ _ (by simpa using h))))
      · next q => exact .next (by simp only [holdOn_mem]; exact memWf_of_eq q (rereadObject_memWf _ _ (by simpa using h)))
      · next q => exact .next (by simp only [askPages_mem]; exact memWf_of_eq q (rereadObject_memWf _ _ (by simpa using h)))
  · exact .next h

theorem loaderFails_memWf {s : State} (c : BitVec 6) (h' : BitVec 32) (h : memWf s.mem = true) :
    memWf (loaderFails s c h').mem = true := by
  unfold loaderFails
  split
  · exact endRestore_memWf _ _ h
  · exact abandonIn_memWf _ _ h
  · split
    · exact memWf_ite (loadFails_memWf _ _ _ h) (memWf_ite (loseKernel_memWf _ h) h)
    · exact h

theorem icacheRoom_memWf {s : State} (core : BitVec 8) (h : memWf s.mem = true) : memWf (icacheRoom s core).mem = true := by
  unfold icacheRoom
  split
  · exact h
  · split
    · exact logLatent_memWf _ h
    · exact h

theorem execIcacheFill_keeps (core : BitVec 8) (h' : BitVec 32) (handler : Bool) (off : BitVec 32) (ok : Bool) {s : State}
    (h : memWf s.mem = true) :
    KeepsForm (execIcacheFill core h' handler off ok s) := by
  unfold execIcacheFill
  split
  · exact .ite (.next (icacheRoom_memWf _ h)) (.next h)
  · exact .next h

theorem execLaneFunctionFetchComplete_keeps (core : BitVec 8) (h' : BitVec 32) (off : BitVec 24) (ok : Bool) {s : State}
    (h : memWf s.mem = true) :
    KeepsForm (execLaneFunctionFetchComplete core h' off ok s) :=
  .ite (.next h) (.ite (.next h) (.next (foldl_memWf _ (fun _ _ hs => errorEvent_memWf _ _ _ _ hs) _ _ h)))

theorem emuWrite_memWf {s : State} (w : EmuWrite) (h : memWf s.mem = true) : memWf (emuWrite s w).mem = true := by
  unfold emuWrite
  split
  · simpa using h
  · exact h
  · exact h
  · exact h
  · exact h
  · split <;> exact h
  · split <;> exact h
  · exact h
  · split <;> exact h
  · exact h
  · exact h
  · exact h
  · exact h
  · exact homeWrite_memWf _ _ _ h

theorem execEmulatorPerform_keeps (x : SlotNo) (writes : List EmuWrite) {s : State} (h : memWf s.mem = true) :
    KeepsForm (execEmulatorPerform x writes s) := by
  unfold execEmulatorPerform
  split
  · exact .next
      (by simp only [advance_mem, expose_mem]; exact foldl_memWf _ (fun _ _ hs => emuWrite_memWf _ hs) _ _ (by simpa using h))
  · exact .next h

theorem declineWord_memWf {s : State} (w : Word) (h : memWf s.mem = true) :
    memWf (declineWord s w).mem = true := seqTrap_memWf _ _ h

theorem execEmulatorDecline_keeps (x : SlotNo) {s : State} (h : memWf s.mem = true) :
    KeepsForm (execEmulatorDecline x s) := by
  unfold execEmulatorDecline
  split
  · exact .next (declineWord_memWf _ (by simpa using h))
  · exact .next h

theorem offerEmulator_memWf {s : State} (w : Word) (h : memWf s.mem = true) :
    memWf (offerEmulator s w).mem = true := memWf_ite (declineWord_memWf _ h) h

/-! ## The operations of Machine/LaneOps.lean -/

theorem execVret_keeps (va : BitVec 5) (s : State) (h : memWf s.mem = true) : KeepsForm (execVret va s) := by
  unfold execVret
  split
  · exact .fault
  · exact .next h

/-! ## The operations of Machine/ScalarMem.lean -/

@[simp] theorem setIn_mem (s : State) (handler : Bool) (r : BitVec 6) (v : Word) : (setIn s handler r v).mem = s.mem := by
  simp [setIn]

theorem performAmo_memWf {s : State} (p : Posted) (op : AmoOp) (f : SamoF) (b d : Nat) (h : memWf s.mem = true) :
    memWf (performAmo s p op f b d).mem = true := by
  unfold performAmo
  simp only [setIn_mem]
  exact memWf_ite (by simp only [acquireAt_mem, dropCache_mem]; exact homeWrite_memWf _ _ _ h)
    (by simp only [dropCache_mem]; exact homeWrite_memWf _ _ _ h)

theorem performScalar_memWf {s : State} (p : Posted) (h : memWf s.mem = true) : memWf (performScalar s p).mem = true := by
  unfold performScalar
  split
  · simp only [blockWrite_mem]; exact homeWrite_memWf _ _ _ h
  · split; next q => simp only [setIn_mem]; exact memWf_of_eq q (by simpa using h)
  · split
    · exact performAmo_memWf _ _ _ _ _ h
    · exact h

theorem takeScalar_memWf {s : State} (p : Posted) (h : memWf s.mem = true) :
    memWf (takeScalar s p).mem = true := memWf_ite (consumePoison_memWf _ _ _ _ h) (performScalar_memWf _ (memWf_store _ _ h))

@[simp] theorem askScalar_mem (s : State) (p : Posted) : (askScalar s p).2.mem = s.mem := by simp [askScalar]

theorem performPosted_memWf {s : State} (h : memWf s.mem = true) : memWf (performPosted s).mem = true := by
  unfold performPosted
  split
  · exact h
  · exact memWf_ite h (memWf_ite (by simpa using h) (takeScalar_memWf _ h))

theorem leaveScalar_memWf {s : State} (p : Posted) (h : memWf s.mem = true) : memWf (leaveScalar s p).mem = true :=
  memWf_ite (by simpa using h) (memWf_ite (by simpa using h) (by simp only [advance_mem]; exact takeScalar_memWf _ h))

theorem scalarAccess_keeps {s : State} (insn va : Word) (n : Nat) (kind : AccKind) (op : PostedOp) (leave : State → State)
    (host : Bool) (hleave : ∀ u, memWf u.mem = true → memWf (leave u).mem = true) (h : memWf s.mem = true) :
    KeepsForm (scalarAccess s insn va n kind op leave host) := by
  unfold scalarAccess
  split
  · exact .next (seqTrap_memWf _ _ h)
  · split
    · exact .next h
    · split
      · next q => exact .next (seqAddr_stop_memWf q h)
      · next q =>
          exact .ite (.next h) (.ite (.next (seqTrap_memWf _ _ (seqAddr_ok_memWf q h)))
              (.next (leaveScalar_memWf _ (hleave _ (seqAddr_ok_memWf q h)))))

theorem execSld_keeps (f : SI) {s : State} (h : memWf s.mem = true) :
    KeepsForm (execSld f s) := scalarAccess_keeps _ _ _ _ _ _ _ (fun _ hs => hs) h

theorem execSldZ_keeps (f : SI) {s : State} (h : memWf s.mem = true) :
    KeepsForm (execSldZ f s) := scalarAccess_keeps _ _ _ _ _ _ _ (fun _ hs => hs) h

theorem execSst_keeps (f : SI) {s : State} (h : memWf s.mem = true) :
    KeepsForm (execSst f s) := scalarAccess_keeps _ _ _ _ _ _ _ (fun _ hs => hs) h

theorem runSamo_keeps (op : AmoOp) (i : Instr) (f : SamoF) {s : State} (h : memWf s.mem = true) :
    KeepsForm (runSamo op i f s) :=
  .ite (.next (seqTrap_memWf _ _ h)) (.ite (.next h) (scalarAccess_keeps _ _ _ _ _ _ _ (fun _ hs => by simpa using hs) h))

/-! ## The operations of Machine/PageEvents.lean -/

theorem execPinv_keeps (w : BitVec 128) {s : State} (h : memWf s.mem = true) :
    KeepsForm (execPinv w s) := whenReady_keeps h (.ite (.next (refusalEvent_memWf _ _ _ h)) (.next h))

@[simp] theorem runPinv_mem (s : State) (w : BitVec 128) : (runPinv s w).mem = s.mem := rfl

theorem endMove_memWf {s : State} (m : PageMove) (h : memWf s.mem = true) :
    memWf (endMove s m).mem = true := startWaiting_memWf (by simpa using h)

theorem execInvalidationComplete_keeps {s : State} (h : memWf s.mem = true) : KeepsForm (execInvalidationComplete s) := by
  unfold execInvalidationComplete
  split
  · exact .ite (.next h) (.next (by simpa using h))
  · split
    · exact .ite (.next (endMove_memWf _ h)) (.next h)
    · exact .next h

theorem dropFault_memWf {s : State} (f : FaultRecord) (h : memWf s.mem = true) :
    memWf (dropFault s f).mem = true := flushFaults_memWf h

theorem retryFault_memWf {s : State} (f : FaultRecord) (h : memWf s.mem = true) : memWf (retryFault s f).mem = true := by
  unfold retryFault
  dsimp only
  split
  · simp only [modBlock_mem]; exact dropFault_memWf _ h
  · exact settleStop_memWf _ (memWf_ite (by simp only [switchTo_mem, modBlock_mem]; exact dropFault_memWf _ h)
        (drain_memWf (by simp only [switchTo_mem, modBlock_mem]; exact dropFault_memWf _ h)))
  · exact dropFault_memWf _ h

theorem killFault_memWf {s : State} (f : FaultRecord) (h : memWf s.mem = true) : memWf (killFault s f).mem = true := by
  have h1 : memWf (dropFault s f).mem = true := dropFault_memWf f h
  have hk : ∀ x : SlotNo, memWf (match getBlock (dropFault s f) x with
      | some b => killGroup (dropFault s f) b.gid (faultCause f).code .killed
      | none => dropFault s f).mem = true := by
    intro x
    split
    · exact killGroup_memWf _ _ _ h1
    · exact h1
  unfold killFault
  dsimp only
  split
  · exact hk _
  · exact hk _
  · exact failLaunch_memWf _ _ _ h1
  · exact failLaunch_memWf _ _ _ h1
  · exact closeForRecord_memWf _ _ h1
  · exact loaderFails_memWf _ _ h1

theorem execFrespRetry_keeps (tag : BitVec 16) (rsv : BitVec 46) {s : State} (h : memWf s.mem = true) :
    KeepsForm (execFrespRetry tag rsv s) := by
  unfold execFrespRetry
  split
  · exact whenReady_keeps h (.ite (.next (retryFault_memWf _ h)) (.next h))
  · exact whenReady_keeps h (.next h)

theorem execFrespKill_keeps (tag : BitVec 16) (rsv : BitVec 46) {s : State} (h : memWf s.mem = true) :
    KeepsForm (execFrespKill tag rsv s) := by
  unfold execFrespKill
  split
  · exact whenReady_keeps h (.ite (.next (killFault_memWf _ h)) (.next h))
  · exact whenReady_keeps h (.next h)

theorem execFrcfgWrite_keeps (v : Word) {s : State} (h : memWf s.mem = true) :
    KeepsForm (execFrcfgWrite v s) := whenReady_keeps h (.ite (.next (errLog_memWf _ h)) (.next (flushFaults_memWf h)))

theorem execFrheadWrite_keeps (v : Word) {s : State} (h : memWf s.mem = true) :
    KeepsForm (execFrheadWrite v s) := whenReady_keeps h (.next (flushFaults_memWf h))

theorem heldFails_memWf {s : State} (h' : HeldAccess) (reason level entry : Nat) (h : memWf s.mem = true) :
    memWf (heldFails s h' reason level entry).mem = true := by
  unfold heldFails
  split
  · exact loaderFails_memWf _ _ h
  · split
    · exact settleStop_memWf _ (by simpa using h)
    · split
      · next q =>
        have h1 := memWf_of_eq q (raiseFault_memWf _ _ _ _ _ _ _ h)
        split
        · simpa using h1
        · simpa using h1
        · exact h1

theorem timeoutHeld_memWf {s : State} (h' : HeldAccess) (h : memWf s.mem = true) : memWf (timeoutHeld s h').mem = true := by
  unfold timeoutHeld
  dsimp only
  split
  · exact h
  · exact heldFails_memWf _ _ _ _ h
  · exact heldFails_memWf _ _ _ _ h

theorem execFrozenHoldTimeout_keeps (x : SlotNo) {s : State} (h : memWf s.mem = true) :
    KeepsForm (execFrozenHoldTimeout x s) :=
  .next (memWf_ite (replayObjects_memWf (foldl_memWf _ (fun _ _ hs => timeoutHeld_memWf _ hs) _ _ h))
      (foldl_memWf _ (fun _ _ hs => timeoutHeld_memWf _ hs) _ _ h))

theorem setMig_memWf {s : State} (entry mig : Nat) (h : memWf s.mem = true) :
    memWf (setMig s entry mig).mem = true := homeWrite_memWf _ _ _ h

theorem startMove_memWf {s : State} (w : BitVec 256) (h : memWf s.mem = true) : memWf (startMove s w).mem = true := by
  unfold startMove
  split
  · exact h
  · exact setMig_memWf _ _ h

theorem execPmove_keeps (w : BitVec 256) {s : State} (h : memWf s.mem = true) : KeepsForm (execPmove w s) :=
  whenReady_keeps h
    (.ite (.next (refusalEvent_memWf _ _ _ h)) (.ite (.next (refusalEvent_memWf _ _ _ h)) (.next (startMove_memWf _ h))))

theorem moveLine_memWf {s : State} (m : PageMove) (i : Nat) (h : memWf s.mem = true) : memWf (moveLine s m i).mem = true := by
  unfold moveLine
  dsimp only
  split
  · dsimp only; exact homeWrite_memWf _ _ _ h
  · exact homeWrite_memWf _ _ _ h

theorem copyNext_memWf {s : State} (h : memWf s.mem = true) : memWf (copyNext s).mem = true := by
  unfold copyNext
  split
  · split
    · exact moveLine_memWf _ _ h
    · exact h
  · exact h

theorem copyLines_memWf {s : State} (m : PageMove) (l : List Nat) (h : memWf s.mem = true) :
    memWf (copyLines s m l).mem = true := foldl_memWf _ (fun _ _ hs => moveLine_memWf _ _ hs) _ _ h

theorem freezePage_memWf {s : State} (m : PageMove) (h : memWf s.mem = true) : memWf (freezePage s m).mem = true := by
  unfold freezePage
  simp only [invalidate_mem]; exact setMig_memWf _ _ h

theorem flushStores_memWf {s : State} (h : memWf s.mem = true) : memWf (flushStores s).mem = true := by
  unfold flushStores
  split
  · exact h
  · exact memWf_ite h (foldl_memWf _
        (fun _ b hs => settleStop_memWf _ (foldl_memWf _ (fun _ _ hs => performPosted_memWf hs) _ _ (by simpa using hs))) _ _
        h)

theorem execPageMovePassEnd_keeps {s0 : State} (h : memWf s0.mem = true) : KeepsForm (execPageMovePassEnd s0) := by
  unfold execPageMovePassEnd
  dsimp only
  split
  · exact .next (flushStores_memWf h)
  · exact .ite (.next (flushStores_memWf h)) (.ite (.next (copyLines_memWf _ _ (flushStores_memWf h)))
        (.next (freezePage_memWf _ (copyLines_memWf _ _ (flushStores_memWf h)))))

@[simp] theorem retag_mem (s : State) (m : PageMove) : (retag s m).mem = s.mem := rfl

theorem execPageMoveSwitch_keeps {s : State} (h : memWf s.mem = true) : KeepsForm (execPageMoveSwitch s) := by
  unfold execPageMoveSwitch
  split
  · exact .next h
  · exact .ite (.next h) (.next (foldl_memWf _ (fun _ _ hs => grants_memWf _ hs) _ _
          (replayObjects_memWf (homeWrite_memWf _ _ _ (by simp only [retag_mem]; exact copyLines_memWf _ _ h)))))

/-! ## The operations of Machine/TaskQueue.lean -/

@[simp] theorem poisonLine_mem (s : State) (pa : Nat) (bad : Bool) : (poisonLine s pa bad).mem = s.mem := by
  unfold poisonLine; split <;> rfl

@[simp] theorem dropLines_mem (s : State) (pas : List Nat) : (dropLines s pas).mem = s.mem := rfl

@[simp] theorem ringStop_mem (s : State) : (ringStop s).mem = s.mem := by
  unfold ringStop; split <;> rfl

theorem putEntry_memWf {s : State} (pa : Nat) (o : RingOp) (r : Machine.Ring) (h : memWf s.mem = true) :
    memWf (putEntry s pa o r).mem = true := by
  unfold putEntry
  split
  · next q => simp only [ringStop_mem]; exact seqAddr_stop_memWf q h
  · next q =>
      exact memWf_ite h (by
          simp only [writeBack_mem, dropLines_mem, leaveQueues_mem]
          exact homeWrite_memWf _ _ _
            (by simp only [blockWrite_mem, poisonLine_mem]; exact homeWrite_memWf _ _ _ (seqAddr_ok_memWf q h)))

theorem getEntry_memWf {s : State} (pa : Nat) (o : RingOp) (r : Machine.Ring) (h : memWf s.mem = true) :
    memWf (getEntry s pa o r).mem = true := by
  unfold getEntry
  split
  · next q => simp only [ringStop_mem]; exact seqAddr_stop_memWf q h
  · next q =>
    have h1 := seqAddr_ok_memWf q h
    split
    · next q => simp only [ringStop_mem]; exact seqAddr_stop_memWf q h1
    · next q =>
      have h2 := seqAddr_ok_memWf q h1
      split
      · exact h
      · split
        · exact consumePoison_memWf _ _ _ _ h2
        · split
          · next q => exact memWf_of_eq q (readFar_memWf _ _ h2)
          · next q =>
              simp only [writeBack_mem, dropLines_mem, leaveQueues_mem]
              exact homeWrite_memWf _ _ _
                (by simp only [blockWrite_mem]; exact homeWrite_memWf _ _ _ (memWf_of_eq q (readFar_memWf _ _ h2)))

theorem transfer_memWf {s : State} (pa : Nat) (o : RingOp) (r : Machine.Ring) (h : memWf s.mem = true) :
    memWf (transfer s pa o r).mem = true := by
  unfold transfer
  split
  · next q => simp only [ringStop_mem]; exact seqAddr_stop_memWf q h
  · next q =>
      exact memWf_ite (by simp only [leaveQueues_mem]; exact seqAddr_ok_memWf q h)
        (memWf_ite (putEntry_memWf _ _ _ (seqAddr_ok_memWf q h)) (getEntry_memWf _ _ _ (seqAddr_ok_memWf q h)))

theorem serveRing_memWf {s : State} (pa fuel : Nat) (h : memWf s.mem = true) : memWf (serveRing s pa fuel).mem = true := by
  induction fuel generalizing s with
  | zero => exact h
  | succ k ih =>
    unfold serveRing
    split
    · exact h
    · next x o _ =>
      have h2 := memWf_ite (c := (ringAt s pa).bad = true)
        (a := writeBack (dropLines (leaveQueues (switchTo s x) x) [pa]) o.f.sd (-2)) (by simpa using h)
        (transfer_memWf pa o (ringAt s pa) (s := switchTo s x) (by simpa using h))
      exact memWf_ite h2 (ih h2)

theorem serveAll_memWf {s : State} (pa : Nat) (h : memWf s.mem = true) : memWf (serveAll s pa).mem = true := by
  unfold serveAll
  simp only [switchTo_mem]; exact serveRing_memWf _ _ h

theorem ringRequest_memWf {s0 : State} (pa : Nat) (o : RingOp) (h : memWf s0.mem = true) :
    memWf (ringRequest s0 pa o).mem = true :=
  memWf_ite (by simp only [writeBack_mem, dropLines_mem]; exact serveAll_memWf _ h)
    (memWf_ite (serveAll_memWf _ (transfer_memWf _ _ _ (serveAll_memWf _ h)))
      (memWf_ite (by simp only [writeBack_mem, dropLines_mem]; exact serveAll_memWf _ h) (parkOn_memWf _ (serveAll_memWf _ h))))

theorem ringAccess_memWf {s : State} (o : RingOp) (h : memWf s.mem = true) : memWf (ringAccess s o).mem = true := by
  unfold ringAccess
  split
  · next q => exact seqAddr_stop_memWf q h
  · next q =>
      exact memWf_ite h (memWf_ite (seqTrap_memWf _ _ (seqAddr_ok_memWf q h))
          (memWf_ite (consumePoison_memWf _ _ _ _ (by simp only [expose_mem]; exact seqAddr_ok_memWf q h))
            (ringRequest_memWf _ _ (by simp only [expose_mem]; exact seqAddr_ok_memWf q h))))

theorem execQput_keeps (f : QringF) {s : State} (h : memWf s.mem = true) : KeepsForm (execQput f s) := by
  unfold execQput
  split
  · exact .next (seqTrap_memWf _ _ h)
  · split
    · exact .next h
    · split
      · next q => exact .next (seqAddr_stop_memWf q h)
      · next q =>
        have h1 := seqAddr_ok_memWf q h
        split
        · exact .next h
        · split
          · next q => exact .next (memWf_of_eq q (readFar_memWf _ _ h1))
          · next q =>
            have h2 := memWf_of_eq q (readFar_memWf _ _ h1)
            split; next q => exact .next (ringAccess_memWf _ (memWf_of_eq q (by simpa using h2)))

theorem execQget_keeps (f : QringF) {s : State} (h : memWf s.mem = true) : KeepsForm (execQget f s) := by
  unfold execQget
  split
  · exact .next (seqTrap_memWf _ _ h)
  · exact .ite (.next h) (.next (ringAccess_memWf _ h))

theorem execQtimeout_keeps (x : SlotNo) {s : State} (h : memWf s.mem = true) : KeepsForm (execQtimeout x s) := by
  unfold execQtimeout
  split
  · dsimp only
    split
    · exact .next (seqTrap_memWf _ _ (by simp only [dropLines_mem, switchTo_mem]; exact serveAll_memWf _ h))
    · exact .next (by simp only [switchTo_mem]; exact serveAll_memWf _ h)
  · exact .next h

/-! ## The operations of Machine/Link.lean -/

theorem agentFails_memWf {s : State} (a : ExtAgent) (h : memWf s.mem = true) : memWf (agentFails s a).mem = true := by
  unfold agentFails
  split
  · exact killGroup_memWf _ _ _ h
  · exact closeForRecord_memWf _ _ h
  · simpa using h
  · split
    · exact killFault_memWf _ h
    · exact h
  · exact h
  · exact h
  · exact failLaunch_memWf _ _ _ h
  · exact loaderFails_memWf _ _ h

@[simp] theorem dropRequest_mem (s : State) (r : ExtRequest) : (dropRequest s r).mem = s.mem := rfl

theorem serveAnswered_memWf {s : State} (x : SlotNo) (h : memWf s.mem = true) : memWf (serveAnswered s x).mem = true := by
  unfold serveAnswered
  split
  · exact serveAll_memWf _ h
  · exact h

theorem requestEnds_memWf {s : State} (r : ExtRequest) (data : List Byte) (h : memWf s.mem = true) :
    memWf (requestEnds s r data).mem = true := by
  unfold requestEnds
  dsimp only
  split
  · exact serveAnswered_memWf _ (settleStop_memWf _ (by simpa using h))
  · simpa using h
  · split
    · exact memWf_ite (memWf_store _ _ (by simpa using h)) (setCount_memWf _ _ (memWf_store _ _ (by simpa using h)))
    · exact memWf_store _ _ (by simpa using h)
  · exact memWf_store _ _ (by simpa using h)

theorem hostFails_memWf {s : State} (r : ExtRequest) (detail : Nat) (h : memWf s.mem = true) :
    memWf (hostFails s r detail).mem = true := by
  unfold hostFails
  dsimp only
  split
  · exact agentFails_memWf _ (errLog_memWf _ (by simpa using h))
  · exact agentFails_memWf _ (by simpa using h)

theorem peerFails_memWf {s : State} (r : ExtRequest) (h : memWf s.mem = true) :
    memWf (peerFails s r).mem = true := agentFails_memWf _ (by simpa using h)

theorem execPcieCompletionReceive_keeps (req : Nat) (status : PcieStatus) {s : State} (h : memWf s.mem = true) :
    KeepsForm (execPcieCompletionReceive req status s) := by
  unfold execPcieCompletionReceive
  split
  · split
    · exact .next h
    · split
      · exact .next (requestEnds_memWf _ _ h)
      · exact .next (hostFails_memWf _ _ h)
      · exact .next (hostFails_memWf _ _ h)
  · exact .next h

theorem execPcieCompletionTimeout_keeps (req : Nat) {s : State} (h : memWf s.mem = true) :
    KeepsForm (execPcieCompletionTimeout req s) := by
  unfold execPcieCompletionTimeout
  split
  · exact .ite (.next (hostFails_memWf _ _ h)) (.next h)
  · exact .next h

theorem fenceRequests_memWf {s : State} (p : BitVec 4) (h : memWf s.mem = true) :
    memWf (fenceRequests s p).mem = true := foldl_memWf _ (fun _ _ hs => peerFails_memWf _ hs) _ _ h

@[simp] theorem trainPort_mem (s : State) (p : BitVec 4) : (trainPort s p).mem = s.mem := by simp [trainPort]

theorem downPort_memWf {s : State} (p : BitVec 4) (h : memWf s.mem = true) :
    memWf (downPort s p).mem = true := memWf_ite (fenceRequests_memWf _ (by simpa using h)) h

theorem retirePort_memWf {s : State} (p : BitVec 4) (h : memWf s.mem = true) :
    memWf (retirePort s p).mem = true := fenceRequests_memWf _ (by simpa using h)

theorem execLcmdTrain_keeps (p : BitVec 4) (s : State) (h : memWf s.mem = true) :
    KeepsForm (execLcmdTrain p s) := whenReady_keeps h (.next (by simpa using h))

theorem execLcmdDown_keeps (p : BitVec 4) {s : State} (h : memWf s.mem = true) :
    KeepsForm (execLcmdDown p s) := whenReady_keeps h (.next (downPort_memWf _ h))

theorem execLcmdRetire_keeps (p : BitVec 4) {s : State} (h : memWf s.mem = true) :
    KeepsForm (execLcmdRetire p s) := whenReady_keeps h (.next (retirePort_memWf _ h))

theorem trainFails_memWf {s : State} (p : BitVec 4) (err : BitVec 8) (h : memWf s.mem = true) :
    memWf (trainFails s p err).mem = true :=
  memWf_ite (retirePort_memWf _ (by simpa using h)) (fenceRequests_memWf _ (by simpa using h))

theorem execLinkTrainingComplete_keeps (p lanes : BitVec 4) (pnode : BitVec 9) {s : State} (h : memWf s.mem = true) :
    KeepsForm (execLinkTrainingComplete p lanes pnode s) :=
  .ite (.next h) (.ite (.next (trainFails_memWf _ _ h)) (.ite (.next (trainFails_memWf _ _ h)) (.next (by simpa using h))))

theorem execLinkTrainingTimeout_keeps (p : BitVec 4) {s : State} (h : memWf s.mem = true) :
    KeepsForm (execLinkTrainingTimeout p s) := .ite (.next (trainFails_memWf _ _ h)) (.next h)

theorem execNodeidWrite_keeps (who : Writer) (v : Word) (s : State) (h : memWf s.mem = true) :
    KeepsForm (execNodeidWrite who v s) := whenReady_keeps h (.ite (.next h) (.next h))

theorem execReplayTimeout_keeps (p : BitVec 4) (s : State) (h : memWf s.mem = true) :
    KeepsForm (execReplayTimeout p s) := .ite (.next (by simpa using h)) (.next h)

@[simp] theorem badMessage_mem (s : State) (p : BitVec 4) : (badMessage s p).mem = s.mem := by simp [badMessage]

@[simp] theorem respond_mem (s : State) (p : BitVec 4) (m : LvMsg) (status : Nat) (data : List Byte) :
    (respond s p m status data).mem = s.mem := by simp [respond]

theorem linkWrite_memWf {s : State} (segs : List Seg) (bs : List Byte) (h : memWf s.mem = true) :
    memWf (linkWrite s segs bs).mem = true := by
  induction segs generalizing s bs with
  | nil => exact h
  | cons g r ih => exact ih _ (homeWrite_memWf _ _ _ h)

theorem servePeer_memWf {s : State} (p : BitVec 4) (m : LvMsg) (segs : List Seg) (h : memWf s.mem = true) :
    memWf (servePeer s p m segs).mem = true :=
  memWf_ite (by simpa using h) (memWf_ite (by simpa using h) (memWf_ite
        (by simp only [respond_mem]; exact linkWrite_memWf _ _ h) (by simp only [respond_mem]; exact linkWrite_memWf _ _ h)))

theorem takeRequest_memWf {s : State} (p : BitVec 4) (m : LvMsg) (h : memWf s.mem = true) :
    memWf (takeRequest s p m).mem = true := by
  unfold takeRequest
  split
  · simpa using h
  · split
    · simpa using h
    · split
      · simpa using h
      · simpa using h
      · next q => exact servePeer_memWf _ _ _ (memWf_of_eq q (translateRange_memWf _ _ _ _ _ _ _ _ h))

theorem execLervonRequestReceive_keeps (p : BitVec 4) (m : LvMsg) {s : State} (h : memWf s.mem = true) :
    KeepsForm (execLervonRequestReceive p m s) := .ite (.next h) (.next (takeRequest_memWf _ _ h))

theorem peerPoison_memWf {s : State} (r : ExtRequest) (h : memWf s.mem = true) : memWf (peerPoison s r).mem = true := by
  unfold peerPoison
  dsimp only
  split
  · exact consumePoison_memWf _ _ _ _ (by simpa using h)
  · exact agentFails_memWf _ (by simpa using h)

theorem takeResponse_memWf {s : State} (p : BitVec 4) (m : LvMsg) (h : memWf s.mem = true) :
    memWf (takeResponse s p m).mem = true := by
  unfold takeResponse
  split
  · exact h
  · split
    · exact requestEnds_memWf _ _ h
    · exact peerFails_memWf _ h
    · exact peerFails_memWf _ h
    · exact peerFails_memWf _ h
    · simpa using h
    · exact peerPoison_memWf _ h
    · exact h

theorem execLervonResponseReceive_keeps (p : BitVec 4) (m : LvMsg) {s : State} (h : memWf s.mem = true) :
    KeepsForm (execLervonResponseReceive p m s) :=
  .ite (.next h) (.ite (.next (by simpa using h)) (.next (takeResponse_memWf _ _ h)))

theorem takeSlots_memWf {s : State} (p : BitVec 4) (fuel : Nat) (h : memWf s.mem = true) :
    memWf (takeSlots s p fuel).mem = true := by
  induction fuel generalizing s with
  | zero => exact h
  | succ k ih =>
    have hr : ∀ g, memWf (modPort s p g).mem = true := fun g => by simpa using h
    exact memWf_ite h (memWf_ite (ih (hr _)) (memWf_ite h (memWf_ite (ih (takeResponse_memWf _ _ (hr _)))
      (memWf_ite h (ih (takeRequest_memWf _ _ (hr _)))))))

theorem acceptFlit_memWf {s : State} (p : BitVec 4) (f : Flit) (h : memWf s.mem = true) :
    memWf (acceptFlit s p f).mem = true := by
  unfold acceptFlit
  dsimp only
  split
  · exact takeSlots_memWf _ _ (by simpa using h)
  · exact takeSlots_memWf _ _ (by simpa using h)
  · exact memWf_ite (fenceRequests_memWf _ (by simpa using h)) (takeSlots_memWf _ _ (by simpa using h))
  · exact takeSlots_memWf _ _ (by simpa using h)

theorem execFlitReceive_keeps (p : BitVec 4) (f : Flit) {s : State} (h : memWf s.mem = true) :
    KeepsForm (execFlitReceive p f s) :=
  .ite (.next h) (.ite (.next (by simpa using h)) (.ite (.next (by simpa using h)) (.next (acceptFlit_memWf _ _ h))))

theorem execLervonResponseTimeout_keeps (tag : BitVec 16) {s : State} (h : memWf s.mem = true) :
    KeepsForm (execLervonResponseTimeout tag s) := by
  unfold execLervonResponseTimeout
  split
  · exact .next h
  · dsimp only
    split
    · exact .next (by simp only [modPort_mem]; exact peerFails_memWf _ h)
    · exact .next (peerFails_memWf _ h)

theorem execHostApertureRead_keeps (who : Writer) (addr : Word) (len : Nat) (s : State) (h : memWf s.mem = true) :
    KeepsForm (execHostApertureRead who addr len s) := .ite (.next (unsupported_memWf h)) (.ite (.next h) (.next h))

theorem execHostApertureWrite_keeps (who : Writer) (addr : Word) (data : List Byte) {s : State} (h : memWf s.mem = true) :
    KeepsForm (execHostApertureWrite who addr data s) :=
  .ite (.next (unsupported_memWf h)) (.ite (.next h) (.next (homeWrite_memWf _ _ _ h)))

theorem execHostAtomicop_keeps (who : Writer) (op : HostAtomic) (bytes : BitVec 5) (addr a b : Word) {s : State}
    (h : memWf s.mem = true) :
    KeepsForm (execHostAtomicop who op bytes addr a b s) :=
  .ite (.next h) (.ite (.next (homeWrite_memWf _ _ _ h)) (.next (unsupported_memWf h)))

theorem worldWrite_memWf {s : State} (pa : BitVec 52) (b : Byte) (h : memWf s.mem = true) :
    memWf (worldWrite s pa b).mem = true := by
  unfold worldWrite
  split
  · exact homeWrite_memWf _ _ _ h
  · exact homeWrite_memWf _ _ _ h
  · exact h

theorem rangerWrite_memWf {s : State} (addr : Word) (data : List Byte) (h : memWf s.mem = true) :
    memWf (rangerWrite s addr data).mem = true := memWf_ite h (memWf_ite (homeWrite_memWf _ _ _ h) (errLog_memWf _ h))

theorem execOwnershipTableWrite_keeps (who : Writer) (table : OwnTable) (idx : BitVec 11) (v : Byte) {s : State}
    (h : memWf s.mem = true) :
    KeepsForm (execOwnershipTableWrite who table idx v s) := by
  unfold execOwnershipTableWrite
  split <;> exact whenReady_keeps h (.ite (.next h) (.ite (.next (refusalEvent_memWf _ _ _ h)) (.next h)))

theorem execPeerTableWrite_keeps (who : Writer) (idx : BitVec 8) (v : BitVec 256) (s : State) (h : memWf s.mem = true) :
    KeepsForm (execPeerTableWrite who idx v s) := whenReady_keeps h (.ite (.next h) (.next h))

@[simp] theorem dropPacket_mem (s : State) (port : Bool) : (dropPacket s port).mem = s.mem := by
  unfold dropPacket; split <;> rfl

theorem execUePacketReceive_keeps (port : Bool) (c : BitVec 6) (p : UePacket) {s : State} (h : memWf s.mem = true) :
    KeepsForm (execUePacketReceive port c p s) := by
  refine onlyReady_keeps h ?_
  cases p with
  | unsupported => exact .next (by simpa using h)
  | send j d => exact .next h
  | rmaWrite j va data =>
    dsimp only
    split
    · next q => exact .ite (.next h) (.next (linkWrite_memWf _ _ (memWf_of_eq q (translateRange_memWf _ _ _ _ _ _ _ _ h))))
    · exact .next h
    · exact .next h
  | rmaRead j va len =>
    dsimp only
    split
    · next q => exact .ite (.next h) (.next (memWf_of_eq q (translateRange_memWf _ _ _ _ _ _ _ _ h) :))
    · exact .next h
    · exact .next h

/-! ## The operations of Machine/Platform.lean -/

theorem afterReset_memWf {s : State} (h : memWf s.mem = true) : memWf (afterReset s).mem = true := memWf_filter _ h

theorem execReset_keeps {s : State} (h : memWf s.mem = true) : KeepsForm (execReset s) := .next (afterReset_memWf h)

@[simp] theorem bootFails_mem (s : State) (err : BitVec 8) : (bootFails s err).mem = s.mem := rfl

theorem execBootVerifyComplete_keeps (framing ecdsa lms : Bool) (svn : BitVec 8) (fwver : BitVec 32) (s : State)
    (h : memWf s.mem = true) :
    KeepsForm (execBootVerifyComplete framing ecdsa lms svn fwver s) :=
  .ite (.next h) (.ite (.next (by simpa using h))
      (.ite (.next (by simpa using h)) (.ite (.next (by simpa using h)) (.ite (.next (by simpa using h)) (.next h)))))

theorem execHbmTrainingComplete_keeps (bad : BitVec 8) (s : State) (h : memWf s.mem = true) :
    KeepsForm (execHbmTrainingComplete bad s) := .ite (.next h) (.ite (.next (by simpa using h)) (.next h))

theorem execD2dTrainingComplete_keeps (ok : Bool) (s : State) (h : memWf s.mem = true) :
    KeepsForm (execD2dTrainingComplete ok s) := .ite (.next h) (.ite (.next h) (.next (by simpa using h)))

theorem execInitComplete_keeps {s : State} (h : memWf s.mem = true) : KeepsForm (execInitComplete s) :=
  .ite (.next h) (.next (foldl_memWf _ (fun _ p hs => by simpa using hs) _ _ (memWf_filter _ h)))

theorem execRangerHeartbeat_keeps (s : State) (h : memWf s.mem = true) :
    KeepsForm (execRangerHeartbeat s) := .ite (.next h) (.next h)

theorem dropKcmd_memWf {s : State} (h : memWf s.mem = true) : memWf (dropKcmd s).mem = true := by
  unfold dropKcmd
  split
  · split
    · exact endKcmd_memWf _ _ _ (dropKernel_memWf _ h)
    · exact endKcmd_memWf _ _ _ h
  · exact h

theorem dropCcmd_memWf {s : State} (h : memWf s.mem = true) : memWf (dropCcmd s).mem = true := by
  unfold dropCcmd
  split
  · exact endCcmd_memWf _ _ h
  · exact h

theorem dropPmove_memWf {s : State} (h : memWf s.mem = true) : memWf (dropPmove s).mem = true := by
  unfold dropPmove
  split
  · exact memWf_ite (by simpa using h) (setMig_memWf _ _ h)
  · exact h

@[simp] theorem dropBankcmd_mem (s : State) : (dropBankcmd s).mem = s.mem := by
  unfold dropBankcmd; split <;> rfl

theorem offerAgain_memWf {s : State} (h : memWf s.mem = true) : memWf (offerAgain s).mem = true := flushFaults_memWf h

theorem execRangerTakeover_keeps (us : Word) {s : State} (h : memWf s.mem = true) : KeepsForm (execRangerTakeover us s) :=
  .ite (.next h) (.next (errLog_memWf _
        (offerAgain_memWf (by simp only [dropBankcmd_mem]; exact dropPmove_memWf (dropCcmd_memWf (dropKcmd_memWf h))))))

@[simp] theorem setAtt_mem (s : State) (r : CmdRes) : (setAtt s r).mem = s.mem := rfl

theorem execAttreq_keeps (who : Writer) (data : BitVec 256) (s : State) (h : memWf s.mem = true) :
    KeepsForm (execAttreq who data s) :=
  whenReady_keeps h (.ite (.next h) (.ite (.next (by simpa using h))
        (.ite (.next (by simpa using h)) (.ite (.next (by simpa using h)) (.next (by simpa using h))))))

theorem execAttestReportComplete_keeps {s : State} (h : memWf s.mem = true) : KeepsForm (execAttestReportComplete s) := by
  unfold execAttestReportComplete
  split
  · exact .next h
  · exact .next (by simp only [extWrite_mem]; exact homeWrite_memWf _ _ _ h)

theorem execClamplimWrite_keeps (who : Writer) (v : Word) (s : State) (h : memWf s.mem = true) :
    KeepsForm (execClamplimWrite who v s) := by
  unfold execClamplimWrite
  split
  · exact whenReady_keeps h (.next h)
  · exact whenReady_keeps h (.ite (.next h) (.next h))
  · exact whenReady_keeps h (.next h)

theorem execClampExcursion_keeps (s : State) (h : memWf s.mem = true) : KeepsForm (execClampExcursion s) := .next h

theorem execCurrentBackWithinLimit_keeps (s : State) (h : memWf s.mem = true) :
    KeepsForm (execCurrentBackWithinLimit s) := .next h

@[simp] theorem modIsland_mem (s : State) (i : BitVec 4) (f : Island → Island) : (modIsland s i f).mem = s.mem := rfl

theorem execVfiWrite_keeps (i : BitVec 4) (v : Word) (s : State) (h : memWf s.mem = true) :
    KeepsForm (execVfiWrite i v s) := whenReady_keeps h (.ite (.next h) (.next (by simpa using h)))

theorem execVfiChangeComplete_keeps (i : BitVec 4) (s : State) (h : memWf s.mem = true) :
    KeepsForm (execVfiChangeComplete i s) := .next (by simpa using h)

theorem execThermalProtection_keeps (i cur : BitVec 4) (s : State) (h : memWf s.mem = true) :
    KeepsForm (execThermalProtection i cur s) := .next (by simpa using h)

/-! ## The operations of Machine/Registers.lean -/

@[simp] theorem stage_mem (s : State) (off : Nat) (data : List Byte) : (stage s off data).mem = s.mem := by
  induction data generalizing s off with
  | nil => rfl
  | cons b r ih => exact ih _ _

@[simp] theorem unstage_mem (s : State) (off n : Nat) : (unstage s off n).mem = s.mem := rfl

theorem writeKcmd_memWf (x : BitVec 256) {s : State} (h : memWf s.mem = true) : memWf (writeKcmd x s).mem = true := by
  unfold writeKcmd
  dsimp only
  split
  · exact outState_memWf (execKcmdLoad_keeps _ h) h
  · exact outState_memWf (execKcmdPin_keeps _ h) h
  · exact outState_memWf (execKcmdUnpin_keeps _ h) h
  · exact outState_memWf (execKcmdUnload_keeps _ h) h

theorem writeCcmd_memWf (who : Writer) (x : BitVec 256) {s : State} (h : memWf s.mem = true) :
    memWf (writeCcmd who x s).mem = true := outState_memWf (takeCcmd_keeps _ _ _ h) h

theorem writePmove_memWf (who : Writer) (x : BitVec 256) {s : State} (h : memWf s.mem = true) :
    memWf (writePmove who x s).mem = true :=
  memWf_ite (memWf_ite (refusalEvent_memWf _ _ _ h) (startMove_memWf _ h)) (outState_memWf (execPmove_keeps _ h) h)

theorem commitStaged_memWf (who : Writer) (off x : Nat) {s : State} (h : memWf s.mem = true) :
    memWf (commitStaged who off x s).mem = true := by
  unfold commitStaged
  dsimp only
  split
  · exact outState_memWf (execAttreq_keeps _ _ _ h) h
  · split
    · exact outState_memWf (execRangerStopRequest_keeps _ h) h
    · exact outState_memWf (execGstop_keeps _ h) h
  · exact writeKcmd_memWf _ h
  · exact writeCcmd_memWf _ _ h
  · exact outState_memWf (execPinv_keeps _ h) h
  · exact writePmove_memWf _ _ h
  · exact runBankcmd_memWf _ _ _ h
  · exact memWf_ite (outState_memWf (execKeySlotWrite_keeps _ _ _ _ _ h) h)
      (outState_memWf (execPeerTableWrite_keeps _ _ _ _ h) h)

theorem writeStaged_memWf (who : Writer) (r : Nat × Nat) (off : Nat) (data : List Byte) {s : State}
    (h : memWf s.mem = true) :
    memWf (writeStaged who r off data s).mem = true :=
  memWf_ite h (memWf_ite (commitStaged_memWf _ _ _ (by simpa using h)) (by simpa using h))

theorem writeRecord_memWf (who : Writer) (off : Nat) (data : List Byte) {s : State} (h : memWf s.mem = true) :
    memWf (writeRecord who off data s).mem = true :=
  memWf_ite (memWf_ite (armRecord_memWf _ _ _ h) (withdrawRecord_memWf _ _ _ h))
    (memWf_ite h (memWf_ite h (by simpa using h)))

theorem writeLcmd_memWf (off : Nat) (data : List Byte) {s : State} (h : memWf s.mem = true) :
    memWf (writeLcmd off data s).mem = true := by
  unfold writeLcmd
  dsimp only
  split
  · simpa using h
  · exact downPort_memWf _ h
  · exact retirePort_memWf _ h
  · exact h

@[simp] theorem modWindow_mem (s : State) (i : Nat) (f : EventWindow → EventWindow) : (modWindow s i f).mem = s.mem := by
  unfold modWindow; split <;> rfl

theorem writeFresp_memWf (w : Word) {s : State} (h : memWf s.mem = true) : memWf (writeFresp w s).mem = true := by
  unfold writeFresp
  split
  · exact outState_memWf (execFrespRetry_keeps _ _ h) h
  · exact outState_memWf (execFrespKill_keeps _ _ h) h
  · exact h

theorem writeLow_memWf (who : Writer) (off : Nat) (v ones : Word) {s : State} (h : memWf s.mem = true) :
    memWf (writeLow who off v ones s).mem = true := by
  unfold writeLow
  split
  · exact outState_memWf (execClamplimWrite_keeps _ _ _ h) h
  · exact memWf_ite h h
  · exact memWf_ite h h
  · exact outState_memWf (execFrcfgWrite_keeps _ h) h
  · exact outState_memWf (execFrheadWrite_keeps _ h) h
  · exact writeFresp_memWf _ h
  · exact outState_memWf (execBankcfgWrite_keeps _ h) h
  · exact memWf_ite (outState_memWf (execElcfgWrite_keeps _ h) h) h
  · exact memWf_ite h h
  · exact outState_memWf (execNodeidWrite_keeps _ _ _ h) h
  · exact memWf_ite (outState_memWf (execVfiWrite_keeps _ _ _ h) h)
      (memWf_ite (memWf_ite h (memWf_ite (by simpa using h) (by simpa using h))) (memWf_ite h h))

theorem writeOwn_memWf (who : Writer) (table : OwnTable) (i : Nat) (data : List Byte) {s : State} (h : memWf s.mem = true) :
    memWf (writeOwn who table i data s).mem = true := by
  induction data generalizing s i with
  | nil => exact h
  | cons b r ih => exact ih _ (outState_memWf (execOwnershipTableWrite_keeps _ _ _ _ h) h)

@[simp] theorem writeMsix_mem (fn off : Nat) (data : List Byte) (s : State) : (writeMsix fn off data s).mem = s.mem := by
  unfold writeMsix
  dsimp only
  split
  · rfl
  · split <;> rfl

theorem writePlain_memWf (who : Writer) (off : Nat) (data : List Byte) {s : State} (h : memWf s.mem = true) :
    memWf (writePlain who off data s).mem = true :=
  memWf_ite (writeLcmd_memWf _ _ h) (memWf_ite (writeLow_memWf _ _ _ _ h)
      (memWf_ite (memWf_ite (by simpa using h) h) (memWf_ite (writeOwn_memWf _ _ _ _ h)
          (memWf_ite (writeOwn_memWf _ _ _ _ h) (memWf_ite (writeOwn_memWf _ _ _ _ h) (memWf_ite (by simpa using h) h))))))

theorem writeControl_memWf (who : Writer) (off : Nat) (data : List Byte) {s : State} (h : memWf s.mem = true) :
    memWf (writeControl who off data s).mem = true := by
  unfold writeControl
  dsimp only
  split
  · exact memWf_ite (writeStaged_memWf _ _ _ _ h) (unsupported_memWf h)
  · exact memWf_ite (memWf_ite (writeRecord_memWf _ _ _ h) (unsupported_memWf h))
      (memWf_ite (writePlain_memWf _ _ _ h) (unsupported_memWf h))

theorem writeQueue_memWf (who : Writer) (q : BitVec 10) (off : Nat) (data : List Byte) {s : State} (h : memWf s.mem = true) :
    memWf (writeQueue who q off data s).mem = true := by
  unfold writeQueue
  dsimp only
  split
  · simpa using h
  · split
    · exact h
    · split
      · exact outState_memWf (execQcmdBind_keeps _ h) h
      · exact outState_memWf (execQcmdHalt_keeps _ h) h
      · exact outState_memWf (execQcmdResume_keeps _ h) h
      · exact outState_memWf (execQcmdDrain_keeps _ h) h
      · exact outState_memWf (execQcmdUnbind_keeps _ h) h
      · exact outState_memWf (commandRefused_keeps _ (afterArrivals_memWf _ h)) h
  · simpa using h
  · exact outState_memWf (execCheadWrite_keeps _ _ _ h) h
  · exact memWf_ite (by simpa using h) h
  · exact memWf_ite (outState_memWf (execLrecWrite_keeps _ _ _ _ h) h) h

theorem writeQueueWindow_memWf (who : Writer) (off : Nat) (data : List Byte) {s : State} (h : memWf s.mem = true) :
    memWf (writeQueueWindow who off data s).mem = true :=
  memWf_ite h (memWf_ite (writeQueue_memWf _ _ _ _ h) (unsupported_memWf h))

theorem execControlRegisterWrite_keeps (who : Writer) (off : BitVec 23) (data : List Byte) {s : State}
    (h : memWf s.mem = true) :
    KeepsForm (execControlRegisterWrite who off data s) := by
  unfold execControlRegisterWrite
  dsimp only
  split
  · exact .next (memWf_ite h (unsupported_memWf h))
  · split
    · exact .next (writeQueueWindow_memWf _ _ _ h)
    · split
      · exact .ite (.next (by simpa using h)) (.next (unsupported_memWf h))
      · exact .ite (.next (writeControl_memWf _ _ _ h)) (.next (unsupported_memWf h))

/-! ## The operations of Machine/ScalarFp.lean -/

theorem fpGuard_keeps (insn : Word) (w : Width) {s : State} (v : Word) (sd : BitVec 6) (h : memWf s.mem = true) :
    KeepsForm (fpGuard insn w s v sd) := .ite (.next (by simpa using h)) (.next (trapType_memWf _ _ h))

theorem execFcvtFi_keeps (f : S2) (s : State) (h : memWf s.mem = true) : KeepsForm (execFcvtFi f s) :=
  .next (by simpa using h)

theorem execFcvtFn_keeps (f : S2) (s : State) (h : memWf s.mem = true) : KeepsForm (execFcvtFn f s) :=
  .next (by simpa using h)

theorem execFcvtIf_keeps (f : S2) (s : State) (h : memWf s.mem = true) : KeepsForm (execFcvtIf f s) :=
  .next (by simpa using h)

theorem execFcvtNf_keeps (f : S2) (s : State) (h : memWf s.mem = true) : KeepsForm (execFcvtNf f s) :=
  .next (by simpa using h)

/-! ## The operations of Machine/System.lean -/

theorem execNop_keeps (s : State) (h : memWf s.mem = true) : KeepsForm (execNop s) := .next (by simpa using h)

theorem execYield_keeps {s : State} (h : memWf s.mem = true) :
    KeepsForm (execYield s) := .next (resumable_memWf _ (by simpa using h))

theorem execExit_keeps {s : State} (h : memWf s.mem = true) :
    KeepsForm (execExit s) := .ite (.next h) (.next (leaveLines_memWf _ h))

theorem execSysrd_keeps (sd : BitVec 6) (r : SysReg) (s : State) (h : memWf s.mem = true) :
    KeepsForm (execSysrd sd r s) := .ite (.next h) (.next (by simpa using h))

theorem execSyswr_keeps (sa : BitVec 6) (s : State) (h : memWf s.mem = true) :
    KeepsForm (execSyswr sa s) := .ite (.next h) (.next (by simpa using h))

theorem execRegion_keeps (mask : BitVec 32) {s : State} (h : memWf s.mem = true) : KeepsForm (execRegion mask s) :=
  .ite (.next h) (.ite (.next (by simpa using h)) (.next (resumable_memWf _ (by simpa using h))))

theorem execRegend_keeps {s : State} (h : memWf s.mem = true) :
    KeepsForm (execRegend s) := .ite (.next h) (.next (by simpa using h))

theorem execTrap_keeps (code : BitVec 16) {s : State} (h : memWf s.mem = true) :
    KeepsForm (execTrap code s) := .next (seqTrap_memWf _ _ h)

theorem runEret_keeps (i : Instr) (form : EretForm) {s : State} (h : memWf s.mem = true) :
    KeepsForm (runEret i form s) := .ite (.next (returnFromTrap_memWf _ h)) (.next (seqTrap_memWf _ _ h))

/-! ## The operations of Machine/TileEvents.lean -/

theorem execTileVersionDone_keeps (x : SlotNo) (id : Nat) {s : State} (h : memWf s.mem = true) :
    KeepsForm (execTileVersionDone x id s) := by
  unfold execTileVersionDone
  split
  · exact .ite (.next (settleBanks_memWf (completeFlight_memWf _ (by simpa using h)))) (.next h)
  · exact .next h

theorem execStoreComplete_keeps (x : SlotNo) (id : Nat) {s : State} (h : memWf s.mem = true) :
    KeepsForm (execStoreComplete x id s) := by
  unfold execStoreComplete
  split
  · exact .ite (.next (settleBanks_memWf (completeFlight_memWf _ (by simpa using h)))) (.next h)
  · exact .next h

theorem execStripBoundary_keeps {s : State} (h : memWf s.mem = true) :
    KeepsForm (execStripBoundary s) := .next (settleBanks_memWf (stripBoundary_memWf (settleBanks_memWf h)))

theorem execTrailCompileComplete_keeps (cluster : BitVec 5) (ctx : BitVec 6) (desc g : Word) {s : State}
    (h : memWf s.mem = true) :
    KeepsForm (execTrailCompileComplete cluster ctx desc g s) := by
  unfold execTrailCompileComplete
  split
  · exact .next (foldl_memWf _ (fun _ w hs => settleStop_memWf w.1 hs) _ _ (compileDone_memWf _ h))
  · exact .next h

theorem execLineHoldExpiry_keeps (line : BitVec 46) (s : State) (h : memWf s.mem = true) :
    KeepsForm (execLineHoldExpiry line s) := .next h

theorem execCodebookTableArrival_keeps (core : BitVec 8) {s : State} (h : memWf s.mem = true) :
    KeepsForm (execCodebookTableArrival core s) := by
  unfold execCodebookTableArrival
  dsimp only
  split
  · split
    · exact .next (settleBanks_memWf (completeFlight_memWf _ (by simpa using h)))
    · exact .next (drain_memWf (by simpa using h))
  · exact .next h

theorem quietAccess_memWf {s t : State} {rs : List (Nat × Nat)} {segs : List Seg} (q : quietAccess s rs = some (segs, t))
    (h : memWf s.mem = true) : memWf t.mem = true := by
  unfold quietAccess at q
  split at q
  · next e =>
    split at q
    · cases q
    · cases q; exact memWf_of_eq e (accessPages_memWf _ _ _ _ _ h)
  · cases q

theorem quietScales_memWf {s t : State} {g : ShapeRec} {sc : List (BitVec 16)} (q : quietScales s g = some (sc, t))
    (h : memWf s.mem = true) : memWf t.mem = true := by
  unfold quietScales at q
  split at q
  · dsimp only at q
    split at q
    · next e =>
      have h1 := quietAccess_memWf e h
      cases q; simpa using h1
    · cases q
  · cases q; exact h

theorem quietElems_memWf {s t : State} {l : Layout} {es : List Half} (q : quietElems s l = some (es, t))
    (h : memWf s.mem = true) : memWf t.mem = true := by
  unfold quietElems at q
  split at q
  · next segs s1 e =>
    have h1 := quietAccess_memWf e h
    have hf := List.foldlRecOn (motive := fun p : List Half × State => memWf p.2.mem = true) (List.range l.g.count)
      (fun p e => (p.1 ++ [BitVec.ofNat 32 (loadElem p.2 (slotDie s.me.slot) l segs e).1],
        (loadElem p.2 (slotDie s.me.slot) l segs e).2)) (b := ([], s1)) h1 (fun p hp _ _ => by simpa using hp)
    rw [Option.some.inj q] at hf
    exact hf
  · cases q

theorem prefetchTile_memWf {s : State} (w : BitVec 3) (h : memWf s.mem = true) : memWf (prefetchTile s w).mem = true := by
  unfold prefetchTile
  dsimp only
  split
  · exact h
  · refine memWf_ite h ?_
    split
    · exact h
    · next q =>
      split
      · exact h
      · next q1 => exact (quietElems_memWf q1 (quietScales_memWf q h) :)

theorem pinNext_memWf {s : State} (id lg : Nat) (h : memWf s.mem = true) : memWf (pinNext s id lg).mem = true := by
  unfold pinNext
  split
  · exact h
  · split
    · exact h
    · split
      · exact h
      · split
        · next q => simp only [setFlight_mem]; exact memWf_of_eq q (translate_memWf _ _ _ _ _ h)
        · exact h

theorem readTableAhead_memWf {s : State} (id : Nat) (h : memWf s.mem = true) : memWf (readTableAhead s id).mem = true := by
  unfold readTableAhead
  split
  · exact h
  · split
    · split
      · next q => simp only [setFlight_mem]; exact memWf_of_eq q (fetchPlanes_memWf _ h)
      · exact h
    · exact h

theorem readAhead_memWf {s : State} (f : Flight) (l : Layout) (lg : Nat) (x : Machine.Field) (h : memWf s.mem = true) :
    memWf (readAhead s f l lg x).mem = true := by
  unfold readAhead
  split
  · next q =>
    have h1 := memWf_of_eq q (accessPages_memWf _ _ _ _ _ h)
    refine memWf_ite h ?_
    dsimp only
    split
    · next q1 => exact memWf_of_eq q1 (accessSegs_memWf _ _ _ _ (by simpa using h1))
    · exact h
    · next q1 =>
      have h2 := memWf_of_eq q1 (accessSegs_memWf _ _ _ _ (by simpa using h1))
      exact memWf_ite (by simpa using h2) (by simpa using h2)
  · exact h

theorem readPlaneAhead_memWf {s : State} (id : Nat) (second : Bool) (e k : Nat) (h : memWf s.mem = true) :
    memWf (readPlaneAhead s id second e k).mem = true := by
  unfold readPlaneAhead
  split
  · exact h
  · split
    · exact h
    · exact memWf_ite (readAhead_memWf _ _ _ _ h) h

@[simp] theorem holdLine_mem (s : State) (x : SlotNo) (line : Nat) : (holdLine s x line).mem = s.mem := by
  unfold holdLine
  split
  · split <;> rfl
  · rfl

/-! ## Every instruction and event -/

/-- The meaning of every instruction and event keeps the form. -/
theorem exec_keeps (i : Instr) {s : State} (h : memWf s.mem = true) : KeepsForm (exec i s) := by
  cases i with
  | add | sub | mul | mulhs | mulhu | divs | divu | rems | remu | and | or | xor | andn | shl | shrl | shra | min | max | minu
    | maxu | slt | sltu | sel =>
    exact runS3_keeps _ _ _ h
  | clz | ctz | popc => exact runS2_keeps _ _ _ h
  | addImm | subImm | mulImm | mulhsImm | mulhuImm | divsImm | divuImm | remsImm | remuImm | andImm | orImm | xorImm | andnImm
    | shlImm | shrlImm | shraImm | minImm | maxImm | minuImm | maxuImm | sltImm | sltuImm | selImm =>
    exact runSI_keeps _ _ _ h
  | fadd | fsub | fmul | fma | fmin | fmax | fcmpEq | fcmpLt | fcmpLe | fcmpUn => exact fpGuard_keeps _ _ _ _ h
  | fcvtFi => exact execFcvtFi_keeps _ _ h
  | fcvtFn => exact execFcvtFn_keeps _ _ h
  | fcvtIf => exact execFcvtIf_keeps _ _ h
  | fcvtNf => exact execFcvtNf_keeps _ _ h
  | sld => exact execSld_keeps _ h
  | sldZ => exact execSldZ_keeps _ h
  | sst => exact execSst_keeps _ h
  | samoAdd | samoSwap | samoCas | samoMin | samoMax | samoAnd | samoOr | samoXor | samoMinu | samoMaxu =>
    exact runSamo_keeps _ _ _ h
  | bCond => exact execBCond_keeps _ h
  | j => exact execJ_keeps _ h
  | call => exact execCall_keeps _ h
  | ret => exact execRet_keeps _ h
  | loop => exact execLoop_keeps _ h
  | endl => exact execEndl_keeps _ h
  | lbrk => exact execLbrk_keeps _ _ h
  | movi => exact execMovi_keeps _ _ h
  | movhi => exact execMovhi_keeps _ _ h
  | nop => exact execNop_keeps _ h
  | sysrd => exact execSysrd_keeps _ _ _ h
  | syswr => exact execSyswr_keeps _ _ h
  | yield => exact execYield_keeps h
  | exit => exact execExit_keeps h
  | region => exact execRegion_keeps _ h
  | regend => exact execRegend_keeps h
  | trap => exact execTrap_keeps _ h
  | eret | eretSkip | eretElem => exact runEret_keeps _ _ h
  | hset => exact execHset_keeps _ _ h
  | hget => exact execHget_keeps _ h
  | tbind => exact execTbind_keeps _ _ _ h
  | tdrop => exact execTdrop_keeps _ _ h
  | tqry => exact execTqry_keeps _ _ _ h
  | tld => exact execTld_keeps _ h
  | tst => exact execTst_keeps _ h
  | tldff => exact execTldff_keeps _ h
  | tgth => exact execTgth_keeps _ h
  | tgthFull => exact execTgthFull_keeps _ h
  | tsct => exact execTsct_keeps _ h
  | wbind => exact execWbind_keeps _ _ h
  | tldw => exact execTldw_keeps _ _ h
  | tcb => exact execTcb_keeps _ h
  | topt => exact execTopt_keeps _ h
  | bcopy => exact execBcopy_keeps _ h
  | waitc => exact execWaitc_keeps _ h
  | waittAll => exact execWaittAll_keeps _ h
  | waittAny => exact execWaittAny_keeps _ h
  | tagff => exact execTagff_keeps _ _ _ h
  | tagclr => exact execTagclr_keeps _ _ h
  | mma => exact execMma_keeps _ h
  | mmv => exact execMmv_keeps _ h
  | map => exact execMap_keeps _ h
  | reduce => exact execReduce_keeps _ h
  | tcvt => exact execTcvt_keeps _ _ h
  | tfill => exact execTfill_keeps _ _ h
  | tmov => exact execTmov_keeps _ _ h
  | tscan => exact execTscan_keeps _ h
  | mmas => exact execMmas_keeps _ h
  | mmss => exact execMmss_keeps _ h
  | tpat => exact execTpat_keeps _ h
  | tinv => exact execTinv_keeps _ h
  | tdens => exact execTdens_keeps _ _ h
  | acqX | acqS => exact runAcq_keeps _ _ _ h
  | rel => exact execRel_keeps _ h
  | bind => exact execBind_keeps _ _ h
  | unbind => exact execUnbind_keeps _ _ h
  | fence => exact execFence_keeps _ _ h
  | tamoAdd | tamoMin | tamoMax | tamoAnd | tamoOr | tamoXor | tamoSwap => exact runTamoIssue_keeps _ _ _ h
  | tglk => exact execTglk_keeps _ h
  | tscc => exact execTscc_keeps _ h
  | twaitvEq | twaitvNe | twaitvLt | twaitvGe | twaitvLtu | twaitvGeu => exact runTwaitv_keeps _ _ _ h
  | bari => exact execBari_keeps _ _ h
  | bara => exact execBara_keeps _ h
  | barw => exact execBarw_keeps _ h
  | tsend => exact execTsend_keeps _ _ h
  | trecv => exact execTrecv_keeps _ _ h
  | launch => exact execLaunch_keeps _ _ _ h
  | qput => exact execQput_keeps _ h
  | qget => exact execQget_keeps _ h
  | vadd | vsub | vmul | vmulh | vmin | vmax =>
    unfold exec
    exact laneInt_keeps _ _ _ h
  | vwmac | vnshr | vabs | vfcls | vcvt | vidx | vconf | vcomp => exact laneTyped_keeps _ _ h
  | vand | vor | vxor => exact laneBits_keeps _ _ _ h
  | vshl | vshr | vsra =>
    unfold exec
    exact laneShift_keeps _ _ _ h
  | vfadd | vfsub | vfmul | vfma | vfmin | vfmax =>
    unfold exec
    exact laneFp_keeps _ _ _ h
  | vrcp | vrsq | vexp2 | vlog2 =>
    unfold exec
    exact laneFp1_keeps _ _ _ h
  | vcmpEq | vcmpNe | vcmpLt | vcmpGe | vcmpLe | vcmpGt => exact laneCmp_keeps _ _ _ h
  | pand | por | pxor | pnot =>
    unfold exec
    exact lanePred_keeps _ _ _ _ _ _ h
  | vsel | vmov | vperm =>
    unfold exec
    exact laneMove_keeps _ _ _ _ h
  | vcfg | vnop => exact laneAny_keeps _ _ h
  | vret => exact execVret_keeps _ _ h
  | emulatorPerform => exact execEmulatorPerform_keeps _ _ h
  | emulatorDecline => exact execEmulatorDecline_keeps _ h
  | rollbackRestoreComplete => exact execRollbackRestoreComplete_keeps _ h
  | gangStart => exact execGangStart_keeps _ _ h
  | bindRecordArm => exact execBindRecordArm_keeps _ _ h
  | bindRecordWithdraw => exact execBindRecordWithdraw_keeps _ h
  | gstop => exact execGstop_keeps _ h
  | rangerStopRequest => exact execRangerStopRequest_keeps _ h
  | gracePeriodExpiry => exact execGracePeriodExpiry_keeps _ _ h
  | nonYieldingReport => exact execNonYieldingReport_keeps _ h
  | blockDrainComplete => exact execBlockDrainComplete_keeps _ h
  | tileVersionDone => exact execTileVersionDone_keeps _ _ h
  | storeComplete => exact execStoreComplete_keeps _ _ h
  | stripBoundary => exact execStripBoundary_keeps h
  | codebookTableArrival => exact execCodebookTableArrival_keeps _ h
  | laneFunctionFetchComplete => exact execLaneFunctionFetchComplete_keeps _ _ _ _ h
  | icacheFill => exact execIcacheFill_keeps _ _ _ _ _ h
  | trailCompileComplete => exact execTrailCompileComplete_keeps _ _ _ _ h
  | barrierArrivalCounted => exact execBarrierArrivalCounted_keeps _ _ h
  | twaitvPoll => exact execTwaitvPoll_keeps _ h
  | twaitvLimitExpiry => exact execTwaitvLimitExpiry_keeps _ _ h
  | qtimeout => exact execQtimeout_keeps _ h
  | lineHoldExpiry => exact execLineHoldExpiry_keeps _ _ h
  | lrecWrite => exact execLrecWrite_keeps _ _ _ _ h
  | launchAccept => exact execLaunchAccept_keeps _ h
  | qcmdBind => exact execQcmdBind_keeps _ h
  | qcmdHalt => exact execQcmdHalt_keeps _ h
  | qcmdResume => exact execQcmdResume_keeps _ h
  | qcmdDrain => exact execQcmdDrain_keeps _ h
  | qcmdUnbind => exact execQcmdUnbind_keeps _ h
  | launchEligible => exact execLaunchEligible_keeps _ _ h
  | launchOffer => exact execLaunchOffer_keeps _ h
  | launchComplete => exact execLaunchComplete_keeps _ _ h
  | completionRecordWrite => exact execCompletionRecordWrite_keeps _ h
  | cheadWrite => exact execCheadWrite_keeps _ _ _ h
  | kcmdLoad => exact execKcmdLoad_keeps _ h
  | kcmdPin => exact execKcmdPin_keeps _ h
  | kcmdUnpin => exact execKcmdUnpin_keeps _ h
  | kcmdUnload => exact execKcmdUnload_keeps _ h
  | kernelLoadComplete => exact execKernelLoadComplete_keeps h
  | kernelEvict => exact execKernelEvict_keeps _ h
  | kernelReloadComplete => exact execKernelReloadComplete_keeps _ h
  | ccmdCreate => exact execCcmdCreate_keeps _ _ h
  | ccmdActivate => exact execCcmdActivate_keeps _ _ h
  | ccmdSuspend => exact execCcmdSuspend_keeps _ _ h
  | ccmdRestore => exact execCcmdRestore_keeps _ _ h
  | ccmdMigrateOut => exact execCcmdMigrateOut_keeps _ _ h
  | ccmdMigrateIn => exact execCcmdMigrateIn_keeps _ _ h
  | ccmdStopmig => exact execCcmdStopmig_keeps _ _ h
  | ccmdDestroy => exact execCcmdDestroy_keeps _ _ h
  | ccmdFault => exact execCcmdFault_keeps _ _ h
  | suspendImageWritten => exact execSuspendImageWritten_keeps _ _ h
  | restoreComplete => exact execRestoreComplete_keeps _ h
  | contextDrainComplete => exact execContextDrainComplete_keeps _ h
  | precopyRoundEnd => exact execPrecopyRoundEnd_keeps _ h
  | migrationStopTimeout => exact execMigrationStopTimeout_keeps _ h
  | targetEndAck => exact execTargetEndAck_keeps _ h
  | decampMessageReceive => exact execDecampMessageReceive_keeps _ _ _ _ _ h
  | keySlotWrite => exact execKeySlotWrite_keeps _ _ _ _ _ h
  | pinv => exact execPinv_keeps _ h
  | invalidationComplete => exact execInvalidationComplete_keeps h
  | frespRetry => exact execFrespRetry_keeps _ _ h
  | frespKill => exact execFrespKill_keeps _ _ h
  | frcfgWrite => exact execFrcfgWrite_keeps _ h
  | frheadWrite => exact execFrheadWrite_keeps _ h
  | pmove => exact execPmove_keeps _ h
  | pageMovePassEnd => exact execPageMovePassEnd_keeps h
  | pageMoveSwitch => exact execPageMoveSwitch_keeps h
  | frozenHoldTimeout => exact execFrozenHoldTimeout_keeps _ h
  | correctableError => exact execCorrectableError_keeps _ h
  | uncorrectableError => exact execUncorrectableError_keeps _ _ h
  | bankWindowEnd => exact execBankWindowEnd_keeps _ h
  | bankcfgWrite => exact execBankcfgWrite_keeps _ h
  | bankcmdRetire => exact execBankcmdRetire_keeps _ _ h
  | bankcmdOffline => exact execBankcmdOffline_keeps _ _ h
  | targetBankTimeout => exact execTargetBankTimeout_keeps _ h
  | bankCopyLine => exact execBankCopyLine_keeps _ h
  | sliceDrainLine => exact execSliceDrainLine_keeps _ h
  | elcfgWrite => exact execElcfgWrite_keeps _ h
  | lcmdTrain => exact execLcmdTrain_keeps _ _ h
  | lcmdDown => exact execLcmdDown_keeps _ h
  | lcmdRetire => exact execLcmdRetire_keeps _ h
  | linkTrainingComplete => exact execLinkTrainingComplete_keeps _ _ _ h
  | linkTrainingTimeout => exact execLinkTrainingTimeout_keeps _ h
  | flitReceive => exact execFlitReceive_keeps _ _ h
  | replayTimeout => exact execReplayTimeout_keeps _ _ h
  | lervonRequestReceive => exact execLervonRequestReceive_keeps _ _ h
  | lervonResponseReceive => exact execLervonResponseReceive_keeps _ _ h
  | lervonResponseTimeout => exact execLervonResponseTimeout_keeps _ h
  | nodeidWrite => exact execNodeidWrite_keeps _ _ _ h
  | ownershipTableWrite => exact execOwnershipTableWrite_keeps _ _ _ _ h
  | peerTableWrite => exact execPeerTableWrite_keeps _ _ _ _ h
  | uePacketReceive => exact execUePacketReceive_keeps _ _ _ h
  | hostApertureRead => exact execHostApertureRead_keeps _ _ _ _ h
  | hostApertureWrite => exact execHostApertureWrite_keeps _ _ _ h
  | hostAtomicop => exact execHostAtomicop_keeps _ _ _ _ _ _ h
  | pcieCompletionReceive => exact execPcieCompletionReceive_keeps _ _ h
  | pcieCompletionTimeout => exact execPcieCompletionTimeout_keeps _ h
  | attreq => exact execAttreq_keeps _ _ _ h
  | attestReportComplete => exact execAttestReportComplete_keeps h
  | clamplimWrite => exact execClamplimWrite_keeps _ _ _ h
  | clampExcursion => exact execClampExcursion_keeps _ h
  | vfiWrite => exact execVfiWrite_keeps _ _ _ h
  | vfiChangeComplete => exact execVfiChangeComplete_keeps _ _ h
  | controlRegisterWrite => exact execControlRegisterWrite_keeps _ _ _ h
  | reset => exact execReset_keeps h
  | bootVerifyComplete => exact execBootVerifyComplete_keeps _ _ _ _ _ _ h
  | hbmTrainingComplete => exact execHbmTrainingComplete_keeps _ _ h
  | d2dTrainingComplete => exact execD2dTrainingComplete_keeps _ _ h
  | initComplete => exact execInitComplete_keeps h
  | rangerHeartbeat => exact execRangerHeartbeat_keeps _ h
  | rangerTakeover => exact execRangerTakeover_keeps _ h
  | currentBackWithinLimit => exact execCurrentBackWithinLimit_keeps _ h
  | thermalProtection => exact execThermalProtection_keeps _ _ _ h
  | linkLost => exact execLinkLost_keeps _ h
  | targetRefusal => exact execTargetRefusal_keeps _ h

/-! ## The operations of Machine/Schedule.lean -/

theorem codeError_memWf {s : State} (h : memWf s.mem = true) :
    memWf (codeError s).mem = true := errorEvent_memWf _ _ _ _ (memWf_ite (rebuildArena_memWf _ h) h)

theorem fetchStep_keeps {s : State} (h : memWf s.mem = true) : KeepsForm (fetchStep s) := by
  unfold fetchStep
  split
  · exact .next (codeError_memWf h)
  · split
    · exact .next (seqTrap_memWf _ _ h)
    · split
      · exact .ite (.next h) (exec_keeps _ h)
      · exact .next (seqTrap_memWf _ _ h)
      · exact .next (seqTrap_memWf _ _ h)
      · exact .next (offerEmulator_memWf _ h)

theorem issueTurn_keeps {s : State} (h : memWf s.mem = true) : KeepsForm (issueTurn s) := by
  unfold issueTurn
  split
  · exact .next (seqTrap_memWf _ _ h)
  · split
    · exact .next (takeTrap_memWf h)
    · split
      · exact .next h
      · split
        · exact .next (serveAll_memWf _ h)
        · exact .ite (.next h) (fetchStep_keeps h)

theorem laneTurn_keeps {s : State} (h : memWf s.mem = true) : KeepsForm (laneTurn s) := by
  unfold laneTurn
  split
  · exact .next h
  · next j _ =>
    refine .ite (exec_keeps _ h) ?_
    split
    · exact .next h
    · split
      · next i _ =>
        have hi := exec_keeps i (s := { s with lane := some (laneHurt j i) }) h
        split
        · next q => rw [q] at hi; exact hi
        · exact hi
      · exact .next h

theorem performPart_memWf {s : State} (id line : Nat) (h : memWf s.mem = true) :
    memWf (performPart s id line).mem = true := tryPerform_memWf _ h

theorem runTurn_keeps {s : State} (t : Turn) (h : memWf s.mem = true) : KeepsForm (runTurn s t) := by
  unfold runTurn
  split
  · exact issueTurn_keeps (by simpa using h)
  · exact .next (settleStop_memWf _ (tryPerform_memWf _ (by simpa using h)))
  · exact .next (settleStop_memWf _ (performPart_memWf _ _ (by simpa using h)))
  · exact laneTurn_keeps (by simpa using h)
  · exact .next (settleBanks_memWf h)
  · exact .next (grants_memWf _ h)
  · exact .next (settleStop_memWf _ (performPosted_memWf (by simpa using h)))
  · exact .ite (exec_keeps _ h) (.next h)
  · exact .next (by simpa using h)
  · exact .next (by simpa using h)
  · exact .next (by simpa using h)
  · exact .next (by simpa using h)
  · exact .next h
  · exact .next (pinNext_memWf _ _ (by simpa using h))
  · exact .next (readTableAhead_memWf _ (by simpa using h))
  · exact .next (readPlaneAhead_memWf _ _ _ _ (by simpa using h))
  · exact .next (copyNext_memWf h)
  · exact .next (prefetchTile_memWf _ (by simpa using h))
  · exact .next (by simpa using h)
  · exact .next (diverge_memWf _ _ _ _ _ h)
  · exact .next (finalSend_memWf _ h)
  · exact .next (worldWrite_memWf _ _ h)
  · exact .next (rangerWrite_memWf _ _ h)

theorem takeTurn_keeps {s : State} (t : Turn) (h : memWf s.mem = true) :
    KeepsForm (takeTurn s t) := .ite (.next h) (runTurn_keeps _ h)

/-! ## The step -/

theorem machineStep_keeps {s : State} (h : memWf s.mem = true) : KeepsForm (machineStep s) := by
  unfold machineStep
  split
  · exact takeTurn_keeps _ h
  · split
    · exact takeTurn_keeps _ h
    · exact .next h

/-- Settles O59: an operation changes memory only by storing bytes or by dropping cells, and both keep the form. -/
theorem stepKeepsMemoryForm : Obligations.StepKeepsMemoryForm := by
  intro s t h hstep
  have hk : KeepsForm (step s) := machineStep_keeps h
  rw [hstep] at hk
  exact hk

end Sys2Proof.Proofs

/-!
PROOFS. Synchronisation objects (the statement ObjectsAcquiredAndReleased): the object's word as it is read back, the access of
ACQ and REL to it, the request and its grant, and the release.
-/
namespace Sys2Proof.Proofs

open Sys2Proof Sys2Proof.Machine Sys2Proof.Laws
open Host (Outcome)

/-! ## The object's word -/

theorem memBytes_append (m : List Host.Cell) (a n k : Nat) : memBytes m a (n + k) = memBytes m a n ++ memBytes m (a + n) k := by
  induction n generalizing a with
  | zero => simp [memBytes]
  | succ j ih => rw [Nat.add_right_comm, memBytes, ih, memBytes, List.cons_append, Nat.add_right_comm a 1 j, Nat.add_assoc a j 1]

/-- Of two strings stored one after the other, each is read back. -/
theorem memBytes_store_append {m : List Host.Cell} (h : memWf m = true) (a : Nat) (xs ys : List Byte) :
    memBytes (memStore m a (xs ++ ys)) a xs.length = xs ∧ memBytes (memStore m a (xs ++ ys)) (a + xs.length) ys.length = ys := by
  have hb := memBytes_store_same h a (xs ++ ys)
  rw [List.length_append, memBytes_append] at hb
  exact List.append_inj hb (memBytes_length _ _ _)

theorem leNat_lt (bs : List Byte) : leNat bs < 256 ^ bs.length := by
  induction bs with
  | nil => simp [leNat]
  | cons b r ih => have := b.isLt; simp only [leNat, List.length_cons, Nat.pow_succ]; omega

theorem homeNat_lt (s : State) (pa n : Nat) : homeNat s pa n < 256 ^ n := by
  have h := leNat_lt (memBytes s.mem pa n)
  rwa [memBytes_length] at h

theorem objRead_of_mem {s u : State} (h : u.mem = s.mem) (pa : Nat) : objRead u pa = objRead s pa := by
  simp [objRead, homeNat, homeRead, h]

/-- The fields of a word that fit their bits, none of them reserved. -/
def ObjWord.Fits (o : ObjWord) : Prop :=
  o.version < 2 ^ 64 ∧ o.mode < 4 ∧ o.rsv = 0 ∧ o.count < 65536 ∧ o.owner < 2 ^ 32

theorem objRead_fits {s : State} {pa : Nat} (h : (objRead s pa).rsv = 0) : ObjWord.Fits (objRead s pa) :=
  ⟨homeNat_lt s (pa + 8) 8, Nat.mod_lt _ (by decide), h, Nat.mod_lt _ (by decide), Nat.mod_lt _ (by decide)⟩

theorem objWrite_mem (s : State) (who : Agent) (pa : Nat) (o : ObjWord) : (objWrite s who pa o).mem = memStore s.mem pa
    (leBytes 8 (o.owner + o.count * 2 ^ 32 + o.rsv * 2 ^ 48 + o.mode * 2 ^ 62) ++ leBytes 8 (o.version % 2 ^ 64)) := by
  simp [objWrite, homeWrite, leBytes_length]

/-- A word that fits is read back as it was written, but for the version's carry. -/
theorem objRead_objWrite {s : State} (h : memWf s.mem = true) (who : Agent) (pa : Nat) (o : ObjWord) (hm : o.mode < 4)
    (hr : o.rsv = 0) (hc : o.count < 65536) (ho : o.owner < 2 ^ 32) :
    objRead (objWrite s who pa o) pa = { o with version := o.version % 2 ^ 64 } := by
  have hb := memBytes_store_append h pa
    (leBytes 8 (o.owner + o.count * 2 ^ 32 + o.rsv * 2 ^ 48 + o.mode * 2 ^ 62)) (leBytes 8 (o.version % 2 ^ 64))
  simp only [leBytes_length] at hb
  simp only [objRead, homeNat, homeRead, objWrite_mem, hb.1, hb.2, leNat_leBytes]
  obtain ⟨v, m, r, c, w⟩ := o
  simp only [bitsOf] at *
  subst hr
  congr 1 <;> omega

theorem objWrite_outside {s : State} (h : memWf s.mem = true) (who : Agent) (pa : Nat) (o : ObjWord) (a : Nat)
    (ha : a < pa ∨ pa + 16 ≤ a) : memRead (objWrite s who pa o).mem a = memRead s.mem a := by
  rw [objWrite_mem]
  exact memRead_store_other h _ _ _ (by simpa [leBytes_length] using ha)

theorem objWrite_me (s : State) (who : Agent) (pa : Nat) (o : ObjWord) : (objWrite s who pa o).me = s.me := by simp [objWrite]

theorem objWrite_objWaits (s : State) (who : Agent) (pa : Nat) (o : ObjWord) :
    (objWrite s who pa o).objWaits = s.objWaits := by
  unfold objWrite homeWrite
  dsimp only
  split <;> rfl

/-! ## The access of ACQ and REL (R94, R231, R241) -/

theorem expose_objWaits (s : State) : (expose s).objWaits = s.objWaits := by unfold expose; split <;> rfl

theorem expose_me (s : State) :
    (expose s).me = { s.me with region := if s.me.region = .clean then .exposed else s.me.region } := by
  unfold expose
  split
  · rfl
  · rfl

/-- The copies of the line of `pa` in the core and the die of the block are dropped. -/
def dropLineCopies (s : State) (pa : Nat) : State :=
  dropGuests (dropCache s (slotCore s.me.slot) fun l => l == lineOf pa) (slotDie s.me.slot) fun l => l == lineOf pa

@[simp] theorem dropLineCopies_mem (s : State) (pa : Nat) : (dropLineCopies s pa).mem = s.mem := rfl

@[simp] theorem dropLineCopies_me (s : State) (pa : Nat) : (dropLineCopies s pa).me = s.me := rfl

@[simp] theorem dropLineCopies_objWaits (s : State) (pa : Nat) : (dropLineCopies s pa).objWaits = s.objWaits := rfl

/-- The state `s` reaches the object at `va` with nothing in its way; `s1` is the state after the translation. -/
structure ReachesObject (s s1 : State) (va : Word) (t : TlbEntry) : Prop where
  aligned : va.toNat % 16 = 0
  quiet : acquirePending s.me = false
  found : translate s (some (slotCore s.me.slot)) s.me.ctx va.toNat .atomic .scalar = (.ok t, s1)
  unheld : lineHeld s1 (some s1.me.slot) (t.pa va.toNat) 16 = false
  unmet : postedMeets s1.me (t.pa va.toNat) 16 = false
  sound : poisonedAt s1 (t.pa va.toNat) 16 = false
  near : regionOf (t.pa va.toNat) = .hbm

theorem ReachesObject.wordAccess_eq {s s1 : State} {va : Word} {t : TlbEntry} (h : ReachesObject s s1 va t) (insn : Word)
    (reads : Bool) {leave : State → State} (hslot : (leave s1).me.slot = s1.me.slot) (k : Nat → State → State) :
    wordAccess s insn va 16 .atomic reads leave k = k (t.pa va.toNat) (dropLineCopies (leave s1) (t.pa va.toNat)) := by
  simp [wordAccess, seqAddr, h.quiet, h.found, h.unheld, h.unmet, h.sound, h.near, readFar, farPieces, dropLineCopies, dropCache,
    hslot]

/-! ## The request and its grant (R241, R242) -/

/-- The request of the block whose turn it is. -/
def ownRequest (s : State) (pa : Nat) (excl : Bool) (va : Word) : ObjWait := ⟨pa, excl, .block s.me.slot, va⟩

/-- The state with the request queued. -/
def queued (s : State) (pa : Nat) (excl : Bool) (va : Word) : State :=
  { s with objWaits := s.objWaits ++ [ownRequest s pa excl va] }

/-- The state with the request granted, the object's word being `o` then. -/
def granted (s : State) (pa : Nat) (excl : Bool) (va : Word) (o : ObjWord) : State :=
  completeGrant (objWrite (queued s pa excl va) (.sync s.me.slot) pa o) (ownRequest s pa excl va)

/-- No request is queued at the object at `pa`. -/
def NoneQueued (s : State) (pa : Nat) : Prop := ∀ w ∈ s.objWaits, w.pa ≠ pa

theorem NoneQueued.any {s : State} {pa : Nat} (h : NoneQueued s pa) : (s.objWaits.any fun w => w.pa == pa) = false := by
  simpa using fun w hw => h w hw

theorem NoneQueued.find {s : State} {pa : Nat} (h : NoneQueued s pa) : (s.objWaits.find? fun w => w.pa == pa) = none := by
  simpa using fun w hw => h w hw

theorem NoneQueued.find_queued {s : State} {pa : Nat} (h : NoneQueued s pa) (excl : Bool) (va : Word) :
    ((queued s pa excl va).objWaits.find? fun w => w.pa == pa) = some (ownRequest s pa excl va) := by
  simp [queued, List.find?_append, h.find, ownRequest]

/-- Taking the request out leaves the queue as it was before. -/
theorem NoneQueued.filter_queued {s : State} {pa : Nat} (h : NoneQueued s pa) (excl : Bool) (va : Word) :
    ((queued s pa excl va).objWaits.filter fun w => w != ownRequest s pa excl va) = s.objWaits := by
  have hother : ∀ w ∈ s.objWaits, (w != ownRequest s pa excl va) = true := fun w hw => by
    simp only [bne_iff_ne, ne_eq]
    rintro rfl
    exact h _ hw rfl
  simp only [queued, List.filter_append, List.filter_eq_self.2 hother]
  simp

theorem modBlock_self {s : State} {x : SlotNo} (h : s.me.slot = x) (f : Block → Block) :
    modBlock s x f = { s with me := f s.me } := by
  simp [modBlock, h]

theorem dropBound_self {s : State} {x : SlotNo} (h : s.me.slot = x) (c : BitVec 6) (va : Word) :
    (dropBound s x c va).me = dropPrefetch s.me ∧ (dropBound s x c va).objWaits = s.objWaits := by
  simp only [dropBound, modBlock_self h]
  exact ⟨rfl, rfl⟩

/-- The grant of the block's own request completes its ACQ and takes the request out of the queue. -/
theorem completeGrant_self {s : State} {w : ObjWait} (h : w.who = .block s.me.slot) :
    (completeGrant s w).me = { (dropPrefetch s.me).advance with holding := s.me.holding ++ [w.va] } ∧
    (completeGrant s w).objWaits = s.objWaits.filter fun x => x != w := by
  let s1 : State := { s with objWaits := s.objWaits.filter fun x => x != w }
  obtain ⟨hme, hq⟩ := dropBound_self (s := s1) (x := s.me.slot) rfl s.me.ctx w.va
  have hg : completeGrant s w = modBlock (dropBound s1 s.me.slot s.me.ctx w.va) s.me.slot
      fun b => { b.advance with holding := b.holding ++ [w.va] } := by
    simp [completeGrant, h, getBlock, s1]
  rw [hg, modBlock_self (by rw [hme]; rfl)]
  exact ⟨by rw [hme]; rfl, hq⟩

theorem granted_mem (s : State) (pa : Nat) (excl : Bool) (va : Word) (o : ObjWord) :
    (granted s pa excl va o).mem = (objWrite s (.sync s.me.slot) pa o).mem := by
  simp [granted, objWrite_mem, queued]

theorem granted_me (s : State) (pa : Nat) (excl : Bool) (va : Word) (o : ObjWord) : (granted s pa excl va o).me =
    { (dropPrefetch s.me).advance with holding := s.me.holding ++ [va] } := by
  have h := (completeGrant_self (s := objWrite (queued s pa excl va) (.sync s.me.slot) pa o) (w := ownRequest s pa excl va)
    (by rw [objWrite_me]; rfl)).1
  rw [objWrite_me] at h
  exact h

theorem NoneQueued.granted_objWaits {s : State} {pa : Nat} (h : NoneQueued s pa) (excl : Bool) (va : Word) (o : ObjWord) :
    (granted s pa excl va o).objWaits = s.objWaits := by
  rw [granted, (completeGrant_self (by rw [objWrite_me]; rfl)).2, objWrite_objWaits, h.filter_queued]

/-- The device's own access to the object finds it, and changes nothing (R349). -/
def GrantFinds (s : State) (pa : Nat) (excl : Bool) (va : Word) : Prop :=
  objAccess (queued s pa excl va) s.me.ctx va = (.ok pa, queued s pa excl va)

theorem GrantFinds.grantWrite_eq {s : State} {pa : Nat} {excl : Bool} {va : Word} (h : GrantFinds s pa excl va) (o : ObjWord) :
    grantWrite (queued s pa excl va) (ownRequest s pa excl va) o = granted s pa excl va o := by
  have hc : holderCtx (queued s pa excl va) (.block s.me.slot) = s.me.ctx := by simp [holderCtx, getBlock, queued]
  simp only [grantWrite, ownRequest, hc]
  rw [h]
  rfl

/-- A grant that leaves nothing queued at the object is the last. -/
theorem NoneQueued.grantHead_eq {s : State} {pa : Nat} (h : NoneQueued s pa) (fuel : Nat) : grantHead s pa fuel = s := by
  cases fuel with
  | zero => rfl
  | succ k => simp [grantHead, h.find]

theorem NoneQueued.granted {s : State} {pa : Nat} (h : NoneQueued s pa) (excl : Bool) (va : Word) (o : ObjWord) :
    NoneQueued (granted s pa excl va o) pa := by
  unfold NoneQueued; rw [h.granted_objWaits]; exact h

theorem NoneQueued.not_contains {s : State} {pa : Nat} (h : NoneQueued s pa) (x : State) (excl : Bool) (va : Word) :
    s.objWaits.contains (ownRequest x pa excl va) = false := by
  simpa using fun hw => h _ hw rfl

theorem holderTokenOf_self (s : State) (pa : Nat) (excl : Bool) (va : Word) :
    holderTokenOf (queued s pa excl va) (.block s.me.slot) = s.me.token := by simp [holderTokenOf, getBlock, queued]

/-- A request on an empty queue: the head of the queue is tried, and the request waits where it stays in the queue. -/
theorem NoneQueued.requestObject_eq {s : State} {pa : Nat} (h : NoneQueued s pa) (excl : Bool) (va : Word) :
    requestObject s pa excl va =
      if (grants (queued s pa excl va) pa).objWaits.contains (ownRequest s pa excl va) then
        parkOn (grants (queued s pa excl va) pa) (.object pa excl) else grants (queued s pa excl va) pa := by
  simp only [requestObject, h.any]
  rfl

/-- ACQ.X of a FREE word. -/
theorem requestObject_exclusive {s : State} {pa : Nat} {va : Word} (h : NoneQueued s pa) (hf : GrantFinds s pa true va)
    (hr : (objRead s pa).rsv = 0) (hm : (objRead s pa).mode = 0) : requestObject s pa true va =
      granted s pa true va { objRead s pa with mode := 2, owner := s.me.token.toNat } := by
  have hg : grants (queued s pa true va) pa = granted s pa true va { objRead s pa with mode := 2, owner := s.me.token.toNat } := by
    have ho : objRead (queued s pa true va) pa = objRead s pa := objRead_of_mem rfl pa
    rw [← hf.grantWrite_eq, grants, grantHead, h.find_queued]
    simp only [ho, hr, hm]
    simp [ownRequest, holderTokenOf_self]
  rw [h.requestObject_eq, hg, (h.granted _ _ _).not_contains]
  rfl

/-- ACQ.S of a FREE word, or of a SHARED one below the highest count. -/
theorem requestObject_shared {s : State} {pa : Nat} {va : Word} (h : NoneQueued s pa) (hf : GrantFinds s pa false va)
    (hr : (objRead s pa).rsv = 0)
    (hm : (objRead s pa).mode = 0 ∨ ((objRead s pa).mode = 1 ∧ (objRead s pa).count < 65535)) :
    requestObject s pa false va = granted s pa false va
      { objRead s pa with mode := 1, count := if (objRead s pa).mode = 0 then 1 else (objRead s pa).count + 1 } := by
  have hg : grants (queued s pa false va) pa = granted s pa false va
      { objRead s pa with mode := 1, count := if (objRead s pa).mode = 0 then 1 else (objRead s pa).count + 1 } := by
    have ho : objRead (queued s pa false va) pa = objRead s pa := objRead_of_mem rfl pa
    have h3 : (objRead s pa).mode ≠ 3 := by omega
    rw [grants, grantHead, h.find_queued]
    simp only [ho, hr]
    rw [if_neg (by simpa using h3), if_neg (by simp [ownRequest]), if_pos ⟨by simp [ownRequest], hm⟩, hf.grantWrite_eq,
      (h.granted _ _ _).grantHead_eq]
  rw [h.requestObject_eq, hg, (h.granted _ _ _).not_contains]
  rfl

/-- A word that is held: the request waits. -/
theorem requestObject_held {s : State} {pa : Nat} {excl : Bool} {va : Word} (h : NoneQueued s pa)
    (hr : (objRead s pa).rsv = 0) (hm : (objRead s pa).mode = 2 ∨ ((objRead s pa).mode = 1 ∧ excl = true)) :
    requestObject s pa excl va = parkOn (queued s pa excl va) (.object pa excl) := by
  have hg : grants (queued s pa excl va) pa = queued s pa excl va := by
    have ho : objRead (queued s pa excl va) pa = objRead s pa := objRead_of_mem rfl pa
    rw [grants, grantHead, h.find_queued]
    simp only [ho, hr]
    rw [if_neg (by simp; omega), if_neg (by omega), if_neg]
    rintro ⟨hx, hmode⟩
    rcases hm with hm | ⟨-, rfl⟩
    · omega
    · simp [ownRequest] at hx
  rw [h.requestObject_eq, hg]
  exact if_pos (by simp [queued])

/-! ## ACQ (R242) -/

/-- The object's home slice as ACQ finds it: the block exposed, its copies of the line dropped. -/
def atHome (s1 : State) (pa : Nat) : State := dropLineCopies (expose s1) pa

theorem atHome_me (s1 : State) (pa : Nat) : (atHome s1 pa).me =
    { s1.me with region := if s1.me.region = .clean then .exposed else s1.me.region } := expose_me s1

theorem atHome_mem (s1 : State) (pa : Nat) : (atHome s1 pa).mem = s1.mem := expose_mem s1

theorem atHome_objWaits (s1 : State) (pa : Nat) : (atHome s1 pa).objWaits = s1.objWaits := expose_objWaits s1

theorem NoneQueued.atHome {s1 : State} {pa : Nat} (h : NoneQueued s1 pa) : NoneQueued (atHome s1 pa) pa := by
  unfold NoneQueued; rw [atHome_objWaits]; exact h

theorem objRead_atHome (s1 : State) (pa : Nat) : objRead (atHome s1 pa) pa = objRead s1 pa := objRead_of_mem (atHome_mem s1 pa) pa

/-- What a completed ACQ or REL leaves: the block holds `held`, is exposed where it was clean, and has moved on; no byte outside the
object's 16 is changed. -/
def MovedOn (s s1 u : State) (pa : Nat) (held : List Word) : Prop :=
  u.me.holding = held ∧ u.me.pc = s.me.pc + 8 ∧ u.me.sregs = s.me.sregs ∧
  u.me.region = (if s.me.region = .clean then .exposed else s.me.region) ∧
  ∀ a, (a < pa ∨ pa + 16 ≤ a) → memRead u.mem a = memRead s1.mem a

theorem granted_movedOn {s s1 : State} (hme : s1.me = s.me) (hwf : memWf s1.mem = true) (pa : Nat) (excl : Bool) (va : Word)
    (o : ObjWord) : MovedOn s s1 (granted (atHome s1 pa) pa excl va o) pa (s.me.holding ++ [va]) := by
  have hm := granted_me (atHome s1 pa) pa excl va o
  rw [atHome_me, hme] at hm
  refine ⟨by rw [hm], by rw [hm]; rfl, by rw [hm]; rfl, by rw [hm]; rfl, fun a ha => ?_⟩
  rw [granted_mem, objWrite_outside (by rw [atHome_mem]; exact hwf) _ _ _ _ ha, atHome_mem]

/-- The word that a grant leaves. -/
theorem objRead_granted {s1 : State} (hwf : memWf s1.mem = true) (pa : Nat) (excl : Bool) (va : Word) {o : ObjWord}
    (ho : ObjWord.Fits o) : objRead (granted (atHome s1 pa) pa excl va o) pa = o := by
  obtain ⟨hv, hm, hr, hc, hw⟩ := ho
  rw [objRead_of_mem (granted_mem _ _ _ _ _), objRead_objWrite (by rw [atHome_mem]; exact hwf) _ _ _ hm hr hc hw,
    Nat.mod_eq_of_lt hv]

theorem runAcq_eq {s s1 : State} {sa : BitVec 6} {t : TlbEntry} (h : ReachesObject s s1 (getS s sa) t)
    (hfree : s.me.holding.contains (getS s sa) = false) (hroom : s.me.holding.length < 16) (i : Instr) (excl : Bool) :
    let a := atHome s1 (t.pa (getS s sa).toNat)
    runAcq i sa excl s = .next (if objRefuses a (t.pa (getS s sa).toNat) excl then trapType a (wordOf i) (getS s sa).toNat
      else requestObject a (t.pa (getS s sa).toNat) excl (getS s sa)) := by
  have hslot : (expose s1).me.slot = s1.me.slot := by rw [expose_me]
  simp only [runAcq, hfree]
  rw [if_neg (by simp [h.aligned]), if_neg (by simp; omega), h.wordAccess_eq _ _ hslot]
  rfl

theorem runAcq_accepts {s s1 : State} {sa : BitVec 6} {t : TlbEntry} (h : ReachesObject s s1 (getS s sa) t)
    (hfree : s.me.holding.contains (getS s sa) = false) (hroom : s.me.holding.length < 16) (i : Instr) (excl : Bool)
    (ho : objRefuses (atHome s1 (t.pa (getS s sa).toNat)) (t.pa (getS s sa).toNat) excl = false) :
    runAcq i sa excl s =
      .next (requestObject (atHome s1 (t.pa (getS s sa).toNat)) (t.pa (getS s sa).toNat) excl (getS s sa)) := by
  rw [runAcq_eq h hfree hroom, ho]
  rfl

theorem runAcq_refused {s s1 : State} {sa : BitVec 6} {t : TlbEntry} (h : ReachesObject s s1 (getS s sa) t)
    (hfree : s.me.holding.contains (getS s sa) = false) (hroom : s.me.holding.length < 16) (i : Instr) (excl : Bool)
    (ho : objRefuses (atHome s1 (t.pa (getS s sa).toNat)) (t.pa (getS s sa).toNat) excl = true) :
    runAcq i sa excl s = .next (seqTrap (atHome s1 (t.pa (getS s sa).toNat)) (wordOf i)
      { cause := .type, tval := getS s sa }) := by
  rw [runAcq_eq h hfree hroom, ho]
  simp [trapType]

/-- Which words the home slice refuses where none is queued. -/
theorem objRefuses_eq {s1 : State} {pa : Nat} (h : NoneQueued s1 pa) (hr : (objRead s1 pa).rsv = 0) (excl : Bool) :
    objRefuses (atHome s1 pa) pa excl =
      ((objRead s1 pa).mode == 3 || (!excl && (objRead s1 pa).mode == 1 && (objRead s1 pa).count == 65535)) := by
  have hn := h.atHome.any
  simp only [objRefuses, objRead_atHome, hr, hn]
  simp

/-- ACQ of a held word parks a running block. -/
theorem parkOn_queued {s s1 : State} (hme : s1.me = s.me) (hst : s.me.st = .running) (pa : Nat) (excl : Bool) (va : Word) :
    let u := parkOn (queued (atHome s1 pa) pa excl va) (.object pa excl)
    u.mem = s1.mem ∧ u.me.st = .parked ∧ u.me.wait = .object pa excl ∧ u.me.pc = s.me.pc ∧
      u.objWaits = s1.objWaits ++ [⟨pa, excl, .block s.me.slot, va⟩] := by
  have hm : (queued (atHome s1 pa) pa excl va).me = (atHome s1 pa).me := rfl
  have hu : parkOn (queued (atHome s1 pa) pa excl va) (.object pa excl) =
      { queued (atHome s1 pa) pa excl va with me := (atHome s1 pa).me.park (.object pa excl) } := by
    rw [parkOn, if_neg (by rw [hm, atHome_me, hme, hst]; simp), hm]
  intro u
  simp only [u, hu, atHome_me, hme]
  refine ⟨atHome_mem s1 pa, by simp [Block.park, hst], rfl, rfl, ?_⟩
  simp only [queued, ownRequest, atHome_objWaits, atHome_me, hme]

/-! ## REL (R243) -/

/-- The home slice as REL finds it. -/
def relHome (s1 : State) (pa : Nat) : State := atHome (endRel s1) pa

/-- REL completes with the object's word `o`. -/
def relDone (s1 : State) (pa : Nat) (va : Word) (o : ObjWord) : State :=
  let a := relHome s1 pa
  advance { objWrite a (.sync a.me.slot) pa o with me := { a.me with holding := a.me.holding.erase va } }

theorem relHome_me (s1 : State) (pa : Nat) : (relHome s1 pa).me =
    { s1.me with relBound := none, region := if s1.me.region = .clean then .exposed else s1.me.region } :=
  atHome_me (endRel s1) pa

theorem relHome_mem (s1 : State) (pa : Nat) : (relHome s1 pa).mem = s1.mem := atHome_mem (endRel s1) pa

theorem objRead_relHome (s1 : State) (pa : Nat) : objRead (relHome s1 pa) pa = objRead s1 pa := objRead_of_mem (relHome_mem s1 pa) pa

theorem NoneQueued.relHome {s1 : State} {pa : Nat} (h : NoneQueued s1 pa) : NoneQueued (relHome s1 pa) pa :=
  NoneQueued.atHome (s1 := endRel s1) h

/-- The state in which a REL has named the bindings that it waits for. -/
def relIssued (s : State) (va : Word) : State := { s with me := { s.me with relBound := some (relBindings s va) } }

theorem relDone_movedOn {s s1 : State} {va : Word} (hme : s1.me = (relIssued s va).me) (hwf : memWf s1.mem = true) (pa : Nat)
    (o : ObjWord) : MovedOn s s1 (relDone s1 pa va o) pa (s.me.holding.erase va) := by
  refine ⟨?_, ?_, ?_, ?_, fun a ha => ?_⟩
  · simp [relDone, relHome_me, hme, relIssued]
  · simp [relDone, relHome_me, hme, relIssued]
  · simp [relDone, relHome_me, hme, relIssued]
  · simp [relDone, relHome_me, hme, relIssued]
  · simp only [relDone, advance_mem]
    rw [objWrite_outside (by rw [relHome_mem]; exact hwf) _ _ _ _ ha, relHome_mem]

theorem objRead_relDone {s1 : State} (hwf : memWf s1.mem = true) (pa : Nat) (va : Word) {o : ObjWord} (hm : o.mode < 4)
    (hr : o.rsv = 0) (hc : o.count < 65536) (hw : o.owner < 2 ^ 32) :
    objRead (relDone s1 pa va o) pa = { o with version := o.version % 2 ^ 64 } := by
  have hmem : (relDone s1 pa va o).mem = (objWrite (relHome s1 pa) (.sync (relHome s1 pa).me.slot) pa o).mem := by
    simp only [relDone, advance_mem]
  rw [objRead_of_mem hmem, objRead_objWrite (by rw [relHome_mem]; exact hwf) _ _ _ hm hr hc hw]

theorem NoneQueued.objWrite {s : State} {pa : Nat} (h : NoneQueued s pa) (who : Agent) (o : ObjWord) :
    NoneQueued (objWrite s who pa o) pa := by
  unfold NoneQueued; rw [objWrite_objWaits]; exact h

/-- The word that a REL leaves (R241). -/
def releasedWord (o : ObjWord) : ObjWord :=
  if o.mode = 1 then if 1 < o.count then { o with count := o.count - 1 } else { o with mode := 0, count := 0 }
  else { o with mode := 0, owner := 0, version := o.version + 1 }

theorem NoneQueued.releaseObject_eq {s : State} {pa : Nat} (h : NoneQueued s pa) (who : Agent) {token : BitVec 32}
    (hm : mayRelease s pa token = true) :
    releaseObject s who pa token = Machine.objWrite s who pa (releasedWord (objRead s pa)) := by
  simp only [releaseObject, hm, releasedWord, grants]
  by_cases h1 : (objRead s pa).mode = 1
  · by_cases hc : 1 < (objRead s pa).count
    · simp [h1, hc]
    · simp [h1, hc, (h.objWrite _ _).grantHead_eq]
  · simp [h1, (h.objWrite _ _).grantHead_eq]

theorem execRel_eq {s s1 : State} {sa : BitVec 6} {t : TlbEntry} (h : ReachesObject (relIssued s (getS s sa)) s1 (getS s sa) t)
    (hheld : s.me.holding.contains (getS s sa) = true) (hw : relWaits s (relBindings s (getS s sa)) = false) :
    let pa := t.pa (getS s sa).toNat
    let a := relHome s1 pa
    execRel sa s = .next (if !mayRelease a pa a.me.token then trapType a (wordOf (.rel sa)) (getS s sa).toNat
      else
        let s2 := releaseObject a (.sync a.me.slot) pa a.me.token
        advance { s2 with me := { s2.me with holding := s2.me.holding.erase (getS s sa) } }) := by
  have hslot : (expose (endRel s1)).me.slot = s1.me.slot := by rw [expose_me]; rfl
  have hleave := h.wordAccess_eq (wordOf (.rel sa)) false (leave := fun s => expose (endRel s)) hslot
  simp only [execRel, hheld, hw]
  rw [if_neg (by simp [h.aligned])]
  simp only [Bool.not_true, Bool.false_eq_true, if_false]
  exact congrArg Outcome.next (hleave _)

theorem execRel_done {s s1 : State} {sa : BitVec 6} {t : TlbEntry} (h : ReachesObject (relIssued s (getS s sa)) s1 (getS s sa) t)
    (hheld : s.me.holding.contains (getS s sa) = true) (hw : relWaits s (relBindings s (getS s sa)) = false)
    (hn : NoneQueued s1 (t.pa (getS s sa).toNat))
    (hm : mayRelease (relHome s1 (t.pa (getS s sa).toNat)) (t.pa (getS s sa).toNat) (relHome s1 (t.pa (getS s sa).toNat)).me.token
      = true) :
    execRel sa s = .next (relDone s1 (t.pa (getS s sa).toNat) (getS s sa)
      (releasedWord (objRead s1 (t.pa (getS s sa).toNat)))) := by
  rw [execRel_eq h hheld hw]
  dsimp only
  rw [hm, hn.relHome.releaseObject_eq _ hm, objRead_relHome, objWrite_me]
  rfl

theorem execRel_refused {s s1 : State} {sa : BitVec 6} {t : TlbEntry}
    (h : ReachesObject (relIssued s (getS s sa)) s1 (getS s sa) t)
    (hheld : s.me.holding.contains (getS s sa) = true) (hw : relWaits s (relBindings s (getS s sa)) = false)
    (hm : mayRelease (relHome s1 (t.pa (getS s sa).toNat)) (t.pa (getS s sa).toNat) (relHome s1 (t.pa (getS s sa).toNat)).me.token
      = false) :
    execRel sa s = .next (seqTrap (relHome s1 (t.pa (getS s sa).toNat)) (wordOf (.rel sa))
      { cause := .type, tval := getS s sa }) := by
  rw [execRel_eq h hheld hw]
  dsimp only
  rw [hm]
  simp [trapType]

/-- Whether the home slice takes the REL, by the word's mode. -/
theorem mayRelease_relHome {s s1 : State} {va : Word} (hme : s1.me = (relIssued s va).me) {pa : Nat} (hr : (objRead s1 pa).rsv = 0) :
    mayRelease (relHome s1 pa) pa (relHome s1 pa).me.token =
      (((objRead s1 pa).mode == 1 && (objRead s1 pa).count != 0) ||
        ((objRead s1 pa).mode == 2 && (objRead s1 pa).owner == s.me.token.toNat)) := by
  have htoken : (relHome s1 pa).me.token = s.me.token := by rw [relHome_me, hme]; rfl
  simp [mayRelease, objRead_relHome, hr, htoken]

/-- The state in which a request of `s` is queued, its parts written out. -/
theorem queued_atHome {s s1 : State} (hme : s1.me = s.me) (pa : Nat) (excl : Bool) (va : Word) :
    queued (atHome s1 pa) pa excl va =
      { dropGuests (dropCache (expose s1) (slotCore s.me.slot) fun l => l == lineOf pa) (slotDie s.me.slot)
          (fun l => l == lineOf pa) with
        objWaits := s1.objWaits ++ [⟨pa, excl, .block s.me.slot, va⟩] } := by
  have hslot : (expose s1).me.slot = s.me.slot := by rw [expose_me, hme]
  rw [← expose_objWaits s1, ← hslot]
  rfl

/-- An ACQ whose request is granted. -/
theorem runAcq_granted {s s1 : State} {sa : BitVec 6} {t : TlbEntry} (h : ReachesObject s s1 (getS s sa) t) (hme : s1.me = s.me)
    (hwf : memWf s1.mem = true) (hfree : s.me.holding.contains (getS s sa) = false) (hroom : s.me.holding.length < 16) (i : Instr)
    {excl : Bool} {w : ObjWord} (hw : ObjWord.Fits w)
    (ho : objRefuses (atHome s1 (t.pa (getS s sa).toNat)) (t.pa (getS s sa).toNat) excl = false)
    (hg : requestObject (atHome s1 (t.pa (getS s sa).toNat)) (t.pa (getS s sa).toNat) excl (getS s sa) =
      granted (atHome s1 (t.pa (getS s sa).toNat)) (t.pa (getS s sa).toNat) excl (getS s sa) w) :
    ∃ u, runAcq i sa excl s = .next u ∧ MovedOn s s1 u (t.pa (getS s sa).toNat) (s.me.holding ++ [getS s sa]) ∧
      objRead u (t.pa (getS s sa).toNat) = w :=
  ⟨_, hg ▸ runAcq_accepts h hfree hroom i excl ho, granted_movedOn hme hwf _ _ _ _, objRead_granted hwf _ _ _ hw⟩

/-- The word of a REL as it is read back: the version wraps. -/
def leftByRel (o : ObjWord) : ObjWord := { releasedWord o with version := (releasedWord o).version % 2 ^ 64 }

theorem leftByRel_exclusive {o : ObjWord} (h : o.mode = 2) :
    leftByRel o = { o with mode := 0, owner := 0, version := (o.version + 1) % 2 ^ 64 } := by
  simp [leftByRel, releasedWord, h]

theorem leftByRel_shared {o : ObjWord} (hv : o.version < 2 ^ 64) (h : o.mode = 1) (hc : 1 < o.count) :
    leftByRel o = { o with count := o.count - 1 } := by
  simpa [leftByRel, releasedWord, h, hc] using hv

theorem leftByRel_last {o : ObjWord} (hv : o.version < 2 ^ 64) (h : o.mode = 1) (hc : o.count = 1) :
    leftByRel o = { o with mode := 0, count := 0 } := by
  simpa [leftByRel, releasedWord, h, hc] using hv

/-- A REL that the home slice takes. -/
theorem execRel_released {s s1 : State} {sa : BitVec 6} {t : TlbEntry}
    (h : ReachesObject (relIssued s (getS s sa)) s1 (getS s sa) t) (hme : s1.me = (relIssued s (getS s sa)).me)
    (hwf : memWf s1.mem = true) (hheld : s.me.holding.contains (getS s sa) = true)
    (hw : relWaits s (relBindings s (getS s sa)) = false) (hn : NoneQueued s1 (t.pa (getS s sa).toNat))
    (hr : (objRead s1 (t.pa (getS s sa).toNat)).rsv = 0)
    (hm : mayRelease (relHome s1 (t.pa (getS s sa).toNat)) (t.pa (getS s sa).toNat)
      (relHome s1 (t.pa (getS s sa).toNat)).me.token = true) :
    ∃ u, execRel sa s = .next u ∧ MovedOn s s1 u (t.pa (getS s sa).toNat) (s.me.holding.erase (getS s sa)) ∧
      objRead u (t.pa (getS s sa).toNat) = leftByRel (objRead s1 (t.pa (getS s sa).toNat)) := by
  obtain ⟨-, hmo, -, hco, how⟩ := objRead_fits hr
  refine ⟨_, execRel_done h hheld hw hn hm, relDone_movedOn hme hwf _ _, objRead_relDone hwf _ _ ?_ ?_ ?_ ?_⟩ <;>
    · simp only [releasedWord]
      split
      · split <;> simp only <;> omega
      · simp only; omega

/-! ## The traps before the access, and a REL that waits -/

theorem runAcq_misaligned {s : State} {sa : BitVec 6} (i : Instr) (excl : Bool) (h : (getS s sa).toNat % 16 ≠ 0) :
    runAcq i sa excl s = .next (seqTrap s (wordOf i) { cause := .strideAlign, tval := getS s sa }) := by
  simp only [runAcq]
  rw [if_pos h]

theorem runAcq_full {s : State} {sa : BitVec 6} (i : Instr) (excl : Bool) (h : (getS s sa).toNat % 16 = 0)
    (hf : s.me.holding.contains (getS s sa) = true ∨ 16 ≤ s.me.holding.length) :
    runAcq i sa excl s = .next (seqTrap s (wordOf i) { cause := .type, tval := getS s sa }) := by
  simp only [runAcq]
  rw [if_neg (by simpa using h), if_pos hf]
  simp [trapType]

theorem execRel_misaligned {s : State} {sa : BitVec 6} (h : (getS s sa).toNat % 16 ≠ 0) :
    execRel sa s = .next (seqTrap s (wordOf (.rel sa)) { cause := .strideAlign, tval := getS s sa }) := by
  simp only [execRel]
  rw [if_pos h]

theorem execRel_unheld {s : State} {sa : BitVec 6} (h : (getS s sa).toNat % 16 = 0)
    (hn : s.me.holding.contains (getS s sa) = false) :
    execRel sa s = .next (seqTrap s (wordOf (.rel sa)) { cause := .type, tval := getS s sa }) := by
  simp only [execRel, hn]
  rw [if_neg (by simpa using h)]
  simp [trapType]

theorem execRel_waits {s : State} {sa : BitVec 6} (h : (getS s sa).toNat % 16 = 0)
    (hheld : s.me.holding.contains (getS s sa) = true) (hw : relWaits s (relBindings s (getS s sa)) = true) :
    execRel sa s = .next (relIssued s (getS s sa)) := by
  simp only [execRel, hheld, hw]
  rw [if_neg (by simpa using h)]
  rfl

/-- Settles O39. ACQ and REL reach the object's home slice by one access (`ReachesObject.wordAccess_eq`); there the request is granted,
queued or refused by the word's mode (`requestObject_exclusive`, `requestObject_shared`, `requestObject_held`), and the release
writes `releasedWord`. -/
theorem objectsAcquiredAndReleased : Obligations.ObjectsAcquiredAndReleased := by
  intro s s1 sa t va pa o outside bare moved line asked waiting refused
  refine ⟨?acq, ?rel, ?waits, ?misaligned, ?holds, ?unheld⟩
  case acq =>
    rintro ⟨hal, hquiet, hfound, hme, hline, hmeet, hsound, hnear, hwf, hnone, hrsv⟩ hacc hfree hroom
    have hreach : ReachesObject s s1 va t := ⟨hal, hquiet, hfound, hline, by rw [hme]; exact hmeet, hsound, hnear⟩
    have hq : NoneQueued s1 pa := hnone
    have hword : objRead (atHome s1 pa) pa = o := objRead_atHome s1 pa
    have hrsv' : (objRead (atHome s1 pa) pa).rsv = 0 := by rw [hword]; exact hrsv
    have htoken : (atHome s1 pa).me.token = s.me.token := by rw [atHome_me, hme]
    obtain ⟨hv, hmo, -, hco, how⟩ : ObjWord.Fits o := objRead_fits hrsv
    have hrefuses : ∀ e, objRefuses (atHome s1 pa) pa e = (o.mode == 3 || (!e && o.mode == 1 && o.count == 65535)) :=
      objRefuses_eq hq hrsv
    have hfind : ∀ e, GrantFinds (atHome s1 pa) pa e va := fun e => by
      rw [GrantFinds, atHome_me, hme, queued_atHome hme]
      exact hacc e
    have hshared : (o.mode = 0 ∨ (o.mode = 1 ∧ o.count < 65535)) → ∃ u, exec (.acqS sa) s = .next u ∧
        moved u (s.me.holding ++ [va]) ∧
        objRead u pa = { o with mode := 1, count := if o.mode = 0 then 1 else o.count + 1 } := fun h => by
      refine runAcq_granted hreach hme hwf hfree hroom (.acqS sa) (excl := false) ⟨hv, by simp, hrsv, ?_, how⟩ ?_ ?_
      · dsimp only; split <;> omega
      · rw [hrefuses]; simp; omega
      · have hg := requestObject_shared hq.atHome (hfind false) hrsv' (by rw [hword]; exact h)
        rwa [hword] at hg
    have hrefused : ∀ p ∈ [(Instr.acqX sa, true), (.acqS sa, false)],
        (o.mode == 3 || (!p.2 && o.mode == 1 && o.count == 65535)) = true → refused p.1 := fun p hp ho => by
      refine ⟨atHome s1 pa, ?_, atHome_mem s1 pa, by rw [atHome_me, hme]⟩
      fin_cases hp
      · exact runAcq_refused hreach hfree hroom (.acqX sa) true ((hrefuses true).trans ho)
      · exact runAcq_refused hreach hfree hroom (.acqS sa) false ((hrefuses false).trans ho)
    refine ⟨fun h0 => ?_, fun h0 => ?_, fun h1 hlt => ?_, fun hst p hp hheld => ?_, fun h3 => ⟨?_, ?_⟩, fun h1 hmax => ?_⟩
    · refine runAcq_granted hreach hme hwf hfree hroom (.acqX sa) (excl := true)
        ⟨hv, by simp, hrsv, hco, s.me.token.isLt⟩ (by rw [hrefuses]; simp [h0]) ?_
      have hg := requestObject_exclusive hq.atHome (hfind true) hrsv' (by rw [hword]; exact h0)
      rwa [hword, htoken] at hg
    · simpa [h0] using hshared (.inl h0)
    · simpa [h1] using hshared (.inr ⟨h1, hlt⟩)
    · have hnot : objRefuses (atHome s1 pa) pa p.2 = false := by
        rw [hrefuses]
        rcases hheld with h2 | ⟨h1, he⟩
        · simp [h2]
        · simp [h1, he]
      have hpark := requestObject_held (excl := p.2) (va := va) hq.atHome hrsv' (by rw [hword]; exact hheld)
      have hexec : exec p.1 s = .next (requestObject (atHome s1 pa) pa p.2 va) := by
        fin_cases hp
        · exact runAcq_accepts hreach hfree hroom (.acqX sa) true hnot
        · exact runAcq_accepts hreach hfree hroom (.acqS sa) false hnot
      exact ⟨_, hpark ▸ hexec, parkOn_queued hme hst pa p.2 va⟩
    · exact hrefused (.acqX sa, true) (by simp) (by simp [h3])
    · exact hrefused (.acqS sa, false) (by simp) (by simp [h3])
    · exact hrefused (.acqS sa, false) (by simp) (by simp [h1, hmax])
  case rel =>
    rintro ⟨hal, hquiet, hfound, hme, hline, hmeet, hsound, hnear, hwf, hnone, hrsv⟩ hheld hw
    have hreach : ReachesObject (relIssued s va) s1 va t :=
      ⟨hal, hquiet, hfound, hline, by rw [hme]; exact hmeet, hsound, hnear⟩
    have hmay : mayRelease (relHome s1 pa) pa (relHome s1 pa).me.token =
        ((o.mode == 1 && o.count != 0) || (o.mode == 2 && o.owner == s.me.token.toNat)) := mayRelease_relHome hme hrsv
    have hv : o.version < 2 ^ 64 := (objRead_fits hrsv).1
    have hdone := fun hm => execRel_released hreach hme hwf hheld hw hnone hrsv (hmay.trans hm)
    refine ⟨fun h2 howner => ?_, fun h1 hc => ?_, fun h1 hc => ?_, fun hbad => ?_⟩
    · rw [← leftByRel_exclusive h2]
      exact hdone (by simp [h2, howner])
    · rw [← leftByRel_shared hv h1 hc]
      exact hdone (by simp [h1]; omega)
    · rw [← leftByRel_last hv h1 hc]
      exact hdone (by simp [h1, hc])
    · refine ⟨relHome s1 pa, execRel_refused hreach hheld hw (hmay.trans ?_), relHome_mem s1 pa, by rw [relHome_me, hme]⟩
      rcases hbad with h | h | ⟨h, hc⟩ | ⟨h, hc⟩ <;> simp [*]
  case waits => exact fun hal hheld hw => execRel_waits hal hheld hw
  case misaligned =>
    intro hal
    simp only [List.forall_mem_cons, List.not_mem_nil, false_imp_iff, implies_true, and_true]
    exact ⟨runAcq_misaligned (.acqX sa) true hal, runAcq_misaligned (.acqS sa) false hal, execRel_misaligned hal⟩
  case holds =>
    intro hal hfull
    simp only [List.forall_mem_cons, List.not_mem_nil, false_imp_iff, implies_true, and_true]
    exact ⟨runAcq_full (.acqX sa) true hal hfull, runAcq_full (.acqS sa) false hal hfull⟩
  case unheld => exact fun hal hnot => execRel_unheld hal hnot

end Sys2Proof.Proofs

/-!
PROOFS. The platform (the statement PlatformEvents): the reset and the boot stages, Ranger's twin, attestation, power, and writes of
the control window.
-/
namespace Sys2Proof.Proofs

open Sys2Proof Sys2Proof.Machine Sys2Proof.Laws
open Host (Outcome)

/-! ## Memory that a reset clears -/

theorem memRead_far_of_sorted {m : List Host.Cell} {lo : Nat} (h : memSorted lo m = true) (a : Nat) :
    memRead (m.filter fun c => decide (2 ^ 48 ≤ c.1)) a = if a < 2 ^ 48 then memDefault else memRead m a := by
  induction m generalizing lo with
  | nil => simp [memRead]
  | cons c r ih =>
    obtain ⟨k, v⟩ := c
    simp only [memSorted, Bool.and_eq_true, decide_eq_true_eq] at h
    have hr := ih h.2
    by_cases hk : 2 ^ 48 ≤ k
    · rw [List.filter_cons_of_pos (by simpa using hk)]
      simp only [memRead, hr]
      split
      · next e => rw [if_neg (by omega)]
      · split
        · split <;> rfl
        · rfl
    · rw [List.filter_cons_of_neg (by simpa using hk), hr]
      by_cases ha : a < 2 ^ 48
      · rw [if_pos ha, if_pos ha]
      · rw [if_neg ha, if_neg ha, memRead, if_neg (by omega), if_neg (by omega)]

/-- Without the cells of device memory, device memory reads as zero and the rest as before. -/
theorem memRead_far {m : List Host.Cell} (h : memWf m = true) (a : Nat) :
    memRead (m.filter fun c => decide (2 ^ 48 ≤ c.1)) a = if a < 2 ^ 48 then memDefault else memRead m a :=
  memRead_far_of_sorted h a

/-! ## Ports that INIT trains (R410) -/

theorem trainPort_eq (s : State) (p : BitVec 4) : trainPort s p = { s with ports := (trainPort s p).ports } := by
  unfold trainPort modPort setPort
  split <;> rfl

theorem getPort_setPort_same {s : State} {p : BitVec 4} (h : p.toNat < 12) (x : Port) : getPort (setPort s p x) p = x := by
  simp [getPort, setPort, h]

theorem getPort_setPort_other {s : State} {p q : BitVec 4} (h : q ≠ p) (x : Port) : getPort (setPort s q x) p = getPort s p := by
  have hne : q.toNat ≠ p.toNat := fun e => h (BitVec.eq_of_toNat_eq e)
  unfold setPort
  split
  · simp [getPort, hne]
  · rfl

/-- A port that has been trained once stays in TRAINING, and an untouched one is trained when its turn comes. -/
theorem getPort_trainPort {s : State} {p q : BitVec 4} (hp : p.toNat < 12)
    (h : getPort s p = {} ∨ getPort s p = { st := .training }) :
    getPort (trainPort s q) p = if q = p then { st := .training } else getPort s p := by
  by_cases hq : q = p
  · subst hq
    rw [if_pos rfl, trainPort, modPort, getPort_setPort_same hp]
    rcases h with h | h <;> simp [h]
  · rw [if_neg hq, trainPort, modPort, getPort_setPort_other hq]

theorem getPort_trainPorts {s : State} {p : BitVec 4} (hp : p.toNat < 12) (l : List (BitVec 4))
    (h : getPort s p = {} ∨ getPort s p = { st := .training }) :
    getPort (l.foldl trainPort s) p = if p ∈ l then { st := .training } else getPort s p := by
  induction l generalizing s with
  | nil => simp
  | cons q r ih =>
    have hq := getPort_trainPort (q := q) hp h
    have hnext : getPort (trainPort s q) p = {} ∨ getPort (trainPort s q) p = { st := .training } := by
      rw [hq]
      split
      · exact .inr rfl
      · exact h
    rw [List.foldl_cons, ih hnext, hq]
    by_cases e : q = p
    · simp [e]
    · simp [e, Ne.symm e]

theorem mem_allPorts {p : BitVec 4} (hp : p.toNat < 12) : p ∈ allPorts :=
  List.mem_map.2 ⟨p.toNat, List.mem_range.2 hp, by simp⟩

theorem trainPorts_keep {β : Type} (g : State → β) (hg : ∀ (s : State) ports, g { s with ports := ports } = g s)
    (l : List (BitVec 4)) (s : State) : g (l.foldl trainPort s) = g s :=
  foldl_keeps g trainPort (fun s p => by rw [trainPort_eq]; exact hg s _) l s

/-! ## Power-up (R410 to R413) -/

theorem execReset_clears {s : State} (h : memWf s.mem = true) : ∃ u, exec .reset s = .next u ∧ u.ctl.stage = .verify ∧
    u.ctl.remain = s.ctl.remain ∧ u.ctl.minSvn = s.ctl.minSvn ∧ u.me = Block.empty 0 ∧ u.others = [] ∧ u.kernels = [] ∧
    u.contexts = [] ∧ u.queues = [] ∧ u.groups = [] ∧ u.tlb = [] ∧ u.banks = [] ∧
    ∀ a, memRead u.mem a = if a < 2 ^ 48 then memDefault else memRead s.mem a :=
  ⟨afterReset s, rfl, rfl, rfl, rfl, rfl, rfl, rfl, rfl, rfl, rfl, rfl, rfl, memRead_far h⟩

theorem execInitComplete_ready {s : State} (hst : s.ctl.stage = .init) (h : memWf s.mem = true) :
    ∃ u, exec .initComplete s = .next u ∧ u.ctl.stage = .ready ∧ u.ctl.emuset = Config.emulatedMajors ∧ u.banks = [] ∧
      u.poison = [] ∧ (∀ p : BitVec 4, p.toNat < 12 → getPort s p = {} → getPort u p = { st := .training }) ∧
      ∀ a, memRead u.mem a = if a < 2 ^ 48 then memDefault else memRead s.mem a := by
  let s1 : State := { s with
    banks := [], poison := [], mem := s.mem.filter fun c => decide (2 ^ 48 ≤ c.1)
    ctl := { s.ctl with stage := .ready, emuset := Config.emulatedMajors } }
  have hexec : exec .initComplete s = .next (allPorts.foldl trainPort s1) := if_neg (by simpa using hst)
  have hctl : (allPorts.foldl trainPort s1).ctl = s1.ctl := trainPorts_keep State.ctl (fun _ _ => rfl) _ _
  have hbanks : (allPorts.foldl trainPort s1).banks = s1.banks := trainPorts_keep State.banks (fun _ _ => rfl) _ _
  have hpoison : (allPorts.foldl trainPort s1).poison = s1.poison := trainPorts_keep State.poison (fun _ _ => rfl) _ _
  have hmem : (allPorts.foldl trainPort s1).mem = s1.mem := trainPorts_keep State.mem (fun _ _ => rfl) _ _
  refine ⟨_, hexec, by rw [hctl], by rw [hctl], hbanks, hpoison, fun p hp hdown => ?_, fun a => ?_⟩
  · have hdown1 : getPort s1 p = {} := hdown
    rw [getPort_trainPorts hp _ (.inl hdown1), if_pos (mem_allPorts hp)]
  · rw [hmem]
    exact memRead_far h a

/-! ## Attestation (R417) -/

theorem extWrite_ctl (s : State) (agent : ExtAgent) (pa : Nat) (bs : List Byte) : (extWrite s agent pa bs).ctl = s.ctl :=
  foldl_keeps State.ctl _ (fun s x => by rw [extRequest_frame]) _ s

theorem homeWrite_ctl (s : State) (who : Agent) (pa : Nat) (bs : List Byte) : (homeWrite s who pa bs).ctl = s.ctl := by
  obtain ⟨-, -, -, h, -⟩ := homeWrite_frame s who pa bs
  exact h

theorem execAttestReportComplete_writes {s : State} {data : BitVec 256} (hreq : s.ctl.attreq = some data)
    (h : memWf s.mem = true) : ∃ u, exec .attestReportComplete s = .next u ∧ u.ctl.remain = s.ctl.remain - 1 ∧
      u.ctl.attreq = none ∧ u.ctl.attst.st = .done ∧
      memBytes u.mem (hostByte (data.extractLsb' 128 64).toNat) (reportBytes s data).length = reportBytes s data ∧
      ∀ b, b < hostByte (data.extractLsb' 128 64).toNat ∨
        hostByte (data.extractLsb' 128 64).toNat + (reportBytes s data).length ≤ b → memRead u.mem b = memRead s.mem b := by
  have hexec : exec .attestReportComplete s = execAttestReportComplete s := rfl
  rw [hexec, execAttestReportComplete, hreq]
  refine ⟨_, rfl, ?_, rfl, rfl, ?_, fun b hb => ?_⟩
  · simp only [extWrite_ctl, homeWrite_ctl]
  · simp only [extWrite_mem, (homeWrite_frame s _ _ _).1]
    exact memBytes_store_same h _ _
  · simp only [extWrite_mem, (homeWrite_frame s _ _ _).1]
    exact memRead_store_other h _ _ _ hb

/-! ## Power (R418) -/

theorem clampAmps_bounds (v : Word) : 1200 ≤ (clampAmps v).toNat ∧ (clampAmps v).toNat ≤ 3600 := by
  have hlt := (v.extractLsb' 0 12).isLt
  unfold clampAmps
  dsimp only
  split
  · decide
  · split
    · decide
    · simp only [BitVec.toNat_ofNat, Nat.mod_eq_of_lt hlt]; omega

theorem clampAmps_within {v : Word} (hlo : 1200 ≤ (v.extractLsb' 0 12).toNat) (hhi : (v.extractLsb' 0 12).toNat ≤ 3600) :
    clampAmps v = v.extractLsb' 0 12 := by
  unfold clampAmps
  rw [if_neg (by omega), if_neg (by omega), BitVec.ofNat_toNat, BitVec.setWidth_eq]

/-! ## Ranger's twin (R416): what a takeover looks at -/

/-- The commands in progress with their results, the states of the contexts, and the tags of the outstanding fault records. -/
structure TakeoverView where
  kcmd : Option KcmdF
  kres : CmdRes
  ccmd : Option (Nat × CcmdF)
  cres : CmdRes
  moving : Bool
  pmres : CmdRes
  bankcmd : Option (BitVec 32)
  bankres : CmdRes
  twinTaken : Bool
  ctxSt : BitVec 6 → CtxSt
  ftags : List (BitVec 16)

def takeoverView (s : State) : TakeoverView :=
  { kcmd := s.ctl.kcmd, kres := s.ctl.kres, ccmd := s.ctl.ccmd, cres := s.ctl.cres, moving := s.move.isSome
    pmres := s.ctl.pmres, bankcmd := s.ctl.bankcmd, bankres := s.ctl.bankres, twinTaken := s.ctl.twinTaken
    ctxSt := fun c => (getCtx s c).st, ftags := s.faults.map FaultRecord.ftag }

theorem markMove_isSome (mv : Option PageMove) (pa n : Nat) : (markMove mv pa n).isSome = mv.isSome := by
  cases mv with
  | none => rfl
  | some m => unfold markMove; dsimp only; split <;> rfl

theorem homeWrite_view (s : State) (who : Agent) (pa : Nat) (bs : List Byte) :
    takeoverView (homeWrite s who pa bs) = takeoverView s := by
  unfold homeWrite
  dsimp only
  split
  · rfl
  · simp only [takeoverView, markMove_isSome]
    rfl

theorem extWrite_view (s : State) (agent : ExtAgent) (pa : Nat) (bs : List Byte) :
    takeoverView (extWrite s agent pa bs) = takeoverView s :=
  foldl_keeps takeoverView _ (fun s x => by rw [extRequest_frame]; rfl) _ s

theorem signal_view (s : State) (v : BitVec 11) : takeoverView (signal s v) = takeoverView s := by rw [signal_frame]; rfl

theorem errLog_view (s : State) (r : ErrRec) : takeoverView (errLog s r) = takeoverView s := by
  unfold errLog
  dsimp only
  split
  · rfl
  · split
    · rw [signal_view]
      exact (extWrite_view _ _ _ _).trans (homeWrite_view _ _ _ _)
    · exact (extWrite_view _ _ _ _).trans (homeWrite_view _ _ _ _)

theorem setCtx_view {s : State} {c : BitVec 6} {x : Context} (h : x.st = (getCtx s c).st) :
    takeoverView (setCtx s c x) = takeoverView s := by
  have hst : ∀ d, (getCtx (setCtx s c x) d).st = (getCtx s d).st := fun d => by
    by_cases hd : d = c
    · rw [hd, getCtx_setCtx_same, h]
    · rw [getCtx_setCtx_other s c d x hd]
  simp only [takeoverView, hst]
  rfl

/-- A write of the device's own to memory or beyond. -/
theorem deviceWrite_view (s : State) (who : Agent) (agent : ExtAgent) (pa : Nat) (bs : List Byte) :
    takeoverView (extWrite (homeWrite s who pa bs) agent pa bs) = takeoverView s :=
  (extWrite_view _ _ _ _).trans (homeWrite_view _ _ _ _)

/-- The write of an event record and of its context, whose state stays as it is. -/
theorem eventWrite_view (s : State) (who : Agent) (agent : ExtAgent) (pa : Nat) (bs : List Byte) {c : BitVec 6} {x : Context}
    (h : x.st = (getCtx s c).st) :
    takeoverView (setCtx (extWrite (homeWrite s who pa bs) agent pa bs) c x) = takeoverView s := by
  have hw := deviceWrite_view s who agent pa bs
  have hst : (getCtx (extWrite (homeWrite s who pa bs) agent pa bs) c).st = (getCtx s c).st :=
    congrFun (congrArg TakeoverView.ctxSt hw) c
  rw [setCtx_view (h.trans hst.symm), hw]

theorem ctxEvent_view (s : State) (c : BitVec 6) (code slot : Nat) (d0 d1 : Word) :
    takeoverView (ctxEvent s c code slot d0 d1) = takeoverView s := by
  unfold ctxEvent
  dsimp only
  split
  · rfl
  split
  · exact setCtx_view rfl
  split
  · rw [signal_view]
    exact eventWrite_view _ _ _ _ _ rfl
  · exact eventWrite_view _ _ _ _ _ rfl

theorem dropKernel_view (s : State) (h : BitVec 32) : takeoverView (dropKernel s h) = takeoverView s := by
  have hlog : ∀ t l, takeoverView (logLatent t l) = takeoverView t := fun t l => by
    unfold logLatent
    split
    · exact errLog_view _ _
    · rfl
  exact foldl_keeps takeoverView logLatent hlog _ _

theorem putFault_view (s : State) (f : FaultRecord) : takeoverView (putFault s f) = takeoverView s :=
  deviceWrite_view _ _ _ _ _

/-- Writing the waiting records keeps their tags. -/
theorem flushFaultsFrom_view (s : State) (l : List FaultRecord) :
    takeoverView (flushFaultsFrom s l).2 = takeoverView s ∧
      (flushFaultsFrom s l).1.map FaultRecord.ftag = l.map FaultRecord.ftag := by
  induction l generalizing s with
  | nil => exact ⟨rfl, rfl⟩
  | cons f r ih =>
    unfold flushFaultsFrom
    split
    · exact ⟨(ih s).1, congrArg (f.ftag :: ·) (ih s).2⟩
    · split
      · exact ⟨(ih _).1.trans (putFault_view s f), congrArg (f.ftag :: ·) (ih _).2⟩
      · exact ⟨rfl, rfl⟩

theorem flushFaults_view (s : State) : takeoverView (flushFaults s) = takeoverView s := by
  obtain ⟨hview, htags⟩ := flushFaultsFrom_view s s.faults
  have h : takeoverView (flushFaults s) =
      { takeoverView (flushFaultsFrom s s.faults).2 with ftags := (flushFaultsFrom s s.faults).1.map FaultRecord.ftag } := rfl
  rw [h, hview, htags]
  rfl

/-! ### The steps of a takeover -/

/-- A command in progress that ends FAILED with 0xF0. -/
def takenOver (v : BitVec 32) : CmdRes := { st := .failed, reason := 0xF0, value := v }

namespace TakeoverView

def failKcmd (v : TakeoverView) : TakeoverView :=
  { v with kcmd := none, kres := if v.kcmd.isSome then takenOver 0 else v.kres }

def failCcmd (v : TakeoverView) : TakeoverView :=
  { v with ccmd := none, cres := match v.ccmd with | some (_, f) => takenOver (f.ctx.setWidth 32) | none => v.cres }

def failMove (v : TakeoverView) : TakeoverView :=
  { v with moving := false, pmres := if v.moving then takenOver 0 else v.pmres }

def failBankcmd (v : TakeoverView) : TakeoverView :=
  { v with bankcmd := none, bankres := match v.bankcmd with | some b => takenOver b | none => v.bankres }

end TakeoverView

theorem endKcmd_view (s : State) (c : BitVec 6) : takeoverView (endKcmd s c 0 (some 0xF0)) =
    { takeoverView s with kcmd := none, kres := takenOver 0 } := ctxEvent_view _ _ _ _ _ _

theorem dropKcmd_view (s : State) : takeoverView (dropKcmd s) = (takeoverView s).failKcmd := by
  unfold dropKcmd
  split
  · next hk =>
    split
    · rw [endKcmd_view, dropKernel_view]
      simp [TakeoverView.failKcmd, takeoverView, hk]
    · rw [endKcmd_view]
      simp [TakeoverView.failKcmd, takeoverView, hk]
  · next hk => simp [TakeoverView.failKcmd, takeoverView, hk]

theorem endCcmd_view (s : State) (c : BitVec 6) : takeoverView (endCcmd s c (why 0xF0)) =
    { takeoverView s with ccmd := none, cres := takenOver (c.setWidth 32) } := ctxEvent_view _ _ _ _ _ _

theorem dropCcmd_view (s : State) : takeoverView (dropCcmd s) = (takeoverView s).failCcmd := by
  unfold dropCcmd
  split
  · next hc => rw [endCcmd_view]; simp [TakeoverView.failCcmd, takeoverView, hc]
  · next hc => simp [TakeoverView.failCcmd, takeoverView, hc]

theorem setMig_view (s : State) (entry mig : Nat) : takeoverView (setMig s entry mig) = takeoverView s := homeWrite_view _ _ _ _

theorem dropPmove_view (s : State) : takeoverView (dropPmove s) = (takeoverView s).failMove := by
  unfold dropPmove
  split
  · next m hm =>
    have hs : takeoverView (if m.st = .switched then invalidate s m.ctx false (m.va.toNat / 4096) 1 else setMig s m.entry 0) =
        takeoverView s := by
      split
      · rfl
      · exact setMig_view _ _ _
    have hmoving : (takeoverView s).moving = true := by simp [takeoverView, hm]
    rw [TakeoverView.failMove, hmoving, ← hs]
    rfl
  · next hm => simp [TakeoverView.failMove, takeoverView, hm]

theorem dropBankcmd_view (s : State) : takeoverView (dropBankcmd s) = (takeoverView s).failBankcmd := by
  unfold dropBankcmd
  split
  · next hb =>
    simp only [TakeoverView.failBankcmd, takeoverView, hb]
    rfl
  · next hb => simp [TakeoverView.failBankcmd, takeoverView, hb]

theorem offerAgain_view (s : State) : takeoverView (offerAgain s) = takeoverView s := by
  have htags : (s.faults.map fun f => if f.host then { f with written := false } else f).map FaultRecord.ftag =
      s.faults.map FaultRecord.ftag := by
    rw [List.map_map]
    refine List.map_congr_left fun f _ => ?_
    simp only [Function.comp]
    split <;> rfl
  unfold offerAgain
  rw [flushFaults_view]
  simp only [takeoverView, htags]
  rfl

/-- The state after a takeover. -/
theorem execRangerTakeover_view {s : State} {us : Word} (hus : 1000 ≤ us.toNat) (htw : s.ctl.twinTaken = false)
    (hst : s.ctl.stage ≠ .failed) : ∃ u, exec (.rangerTakeover us) s = .next u ∧
      takeoverView u = { (takeoverView s).failKcmd.failCcmd.failMove.failBankcmd with twinTaken := true } := by
  have hexec : exec (.rangerTakeover us) s = execRangerTakeover us s := rfl
  have hview : takeoverView (offerAgain (dropBankcmd (dropPmove (dropCcmd (dropKcmd s))))) =
      (takeoverView s).failKcmd.failCcmd.failMove.failBankcmd := by
    rw [offerAgain_view, dropBankcmd_view, dropPmove_view, dropCcmd_view, dropKcmd_view]
  rw [hexec, execRangerTakeover, if_neg (by simp [htw, hst]; omega), ← hview]
  exact ⟨_, rfl, errLog_view _ _⟩

/-- What a takeover leaves of the commands in progress, the contexts and the fault records. -/
theorem execRangerTakeover_takes {s : State} {us : Word} (hus : 1000 ≤ us.toNat) (htw : s.ctl.twinTaken = false)
    (hst : s.ctl.stage ≠ .failed) : ∃ u, exec (.rangerTakeover us) s = .next u ∧ u.ctl.twinTaken = true ∧
      (∀ c, (getCtx u c).st = (getCtx s c).st) ∧ (∀ f ∈ s.faults, ∃ g ∈ u.faults, g.ftag = f.ftag) ∧
      (s.ctl.kcmd.isSome = true → u.ctl.kcmd = none ∧ u.ctl.kres.st = .failed ∧ u.ctl.kres.reason = 0xF0) ∧
      (s.ctl.ccmd.isSome = true → u.ctl.ccmd = none ∧ u.ctl.cres.st = .failed ∧ u.ctl.cres.reason = 0xF0) ∧
      (s.move.isSome = true → u.move = none ∧ u.ctl.pmres = { st := .failed, reason := 0xF0 }) ∧
      (∀ b, s.ctl.bankcmd = some b → u.ctl.bankcmd = none ∧
        u.ctl.bankres = { st := .failed, reason := 0xF0, value := b }) := by
  obtain ⟨u, hexec, hu⟩ := execRangerTakeover_view hus htw hst
  have hmove : u.move.isSome = false := congrArg TakeoverView.moving hu
  have htags : u.faults.map FaultRecord.ftag = s.faults.map FaultRecord.ftag := congrArg TakeoverView.ftags hu
  have hkres : u.ctl.kres = if s.ctl.kcmd.isSome then takenOver 0 else s.ctl.kres := congrArg TakeoverView.kres hu
  have hcres : u.ctl.cres = match s.ctl.ccmd with | some (_, f) => takenOver (f.ctx.setWidth 32) | none => s.ctl.cres :=
    congrArg TakeoverView.cres hu
  have hpmres : u.ctl.pmres = if s.move.isSome then takenOver 0 else s.ctl.pmres := congrArg TakeoverView.pmres hu
  have hbankres : u.ctl.bankres = match s.ctl.bankcmd with | some b => takenOver b | none => s.ctl.bankres :=
    congrArg TakeoverView.bankres hu
  refine ⟨u, hexec, congrArg TakeoverView.twinTaken hu, congrFun (congrArg TakeoverView.ctxSt hu), fun f hf => ?_, fun hk => ?_,
    fun hc => ?_, fun hm => ?_, fun b hb => ?_⟩
  · have hin : f.ftag ∈ u.faults.map FaultRecord.ftag := htags ▸ List.mem_map_of_mem hf
    exact List.mem_map.1 hin
  · rw [hkres, if_pos hk]
    exact ⟨congrArg TakeoverView.kcmd hu, rfl, rfl⟩
  · obtain ⟨c, hc⟩ := Option.isSome_iff_exists.1 hc
    rw [hcres, hc]
    exact ⟨congrArg TakeoverView.ccmd hu, rfl, rfl⟩
  · rw [hpmres, if_pos hm]
    exact ⟨by simpa using hmove, rfl⟩
  · rw [hbankres, hb]
    exact ⟨congrArg TakeoverView.bankcmd hu, rfl⟩

/-! ## Outcomes that are a next state -/

/-- The outcome is a next state. -/
def Steps (o : Outcome State Fault Refusal) : Prop := ∃ t, o = .next t

theorem Steps.next (t : State) : Steps (.next t) := ⟨t, rfl⟩

theorem Steps.ite {c : Prop} [Decidable c] {a b : Outcome State Fault Refusal} (ha : Steps a) (hb : Steps b) :
    Steps (if c then a else b) := by
  split
  · exact ha
  · exact hb

theorem Steps.outState_eq {o : Outcome State Fault Refusal} (h : Steps o) (s : State) : Outcome.next (outState o s) = o := by
  obtain ⟨t, rfl⟩ := h
  rfl

theorem Steps.whenReady {s : State} {o : Outcome State Fault Refusal} (h : Steps o) : Steps (whenReady s o) :=
  Steps.ite h (Steps.next _)

theorem Steps.onlyReady {s : State} {o : Outcome State Fault Refusal} (h : Steps o) : Steps (onlyReady s o) :=
  Steps.ite h (Steps.next _)

theorem execClamplimWrite_steps (who : Writer) (v : Word) (s : State) : Steps (execClamplimWrite who v s) := by
  refine Steps.whenReady ?_
  cases who with
  | pf => exact .next _
  | ranger => exact .ite (.next _) (.next _)
  | vf n => exact .next _

theorem execFrcfgWrite_steps (v : Word) (s : State) : Steps (execFrcfgWrite v s) := .whenReady (.ite (.next _) (.next _))

theorem execFrheadWrite_steps (v : Word) (s : State) : Steps (execFrheadWrite v s) := .whenReady (.next _)

theorem execBankcfgWrite_steps (v : Word) (s : State) : Steps (execBankcfgWrite v s) := .whenReady (.ite (.next _) (.next _))

theorem execElcfgWrite_steps (v : Word) (s : State) : Steps (execElcfgWrite v s) := .whenReady (.ite (.next _) (.next _))

theorem execNodeidWrite_steps (who : Writer) (v : Word) (s : State) : Steps (execNodeidWrite who v s) :=
  .whenReady (.ite (.next _) (.next _))

theorem execGstop_steps (w : BitVec 128) (s : State) : Steps (execGstop w s) := by
  refine Steps.whenReady ?_
  unfold runStop
  split
  · exact .ite (.next _) (.next _)
  · exact .next _

theorem execPinv_steps (w : BitVec 128) (s : State) : Steps (execPinv w s) := .whenReady (.ite (.next _) (.next _))

theorem execPmove_steps (w : BitVec 256) (s : State) : Steps (execPmove w s) :=
  .whenReady (.ite (.next _) (.ite (.next _) (.next _)))

theorem execAttreq_steps (who : Writer) (data : BitVec 256) (s : State) : Steps (execAttreq who data s) :=
  .whenReady (.ite (.next _) (.ite (.next _) (.ite (.next _) (.ite (.next _) (.next _)))))

theorem commandRefused_steps (s : State) (q : BitVec 10) : Steps (commandRefused s q) := .next _

theorem execQcmdBind_steps (q : BitVec 10) (s : State) : Steps (execQcmdBind q s) :=
  .onlyReady (.ite (commandRefused_steps _ _) (.ite (.next _) (.next _)))

theorem execQcmdHalt_steps (q : BitVec 10) (s : State) : Steps (execQcmdHalt q s) :=
  .onlyReady (.ite (.next _) (commandRefused_steps _ _))

theorem execQcmdResume_steps (q : BitVec 10) (s : State) : Steps (execQcmdResume q s) :=
  .onlyReady (.ite (.next _) (commandRefused_steps _ _))

theorem execQcmdDrain_steps (q : BitVec 10) (s : State) : Steps (execQcmdDrain q s) :=
  .onlyReady (.ite (.next _) (commandRefused_steps _ _))

theorem execQcmdUnbind_steps (q : BitVec 10) (s : State) : Steps (execQcmdUnbind q s) :=
  .onlyReady (.ite (.next _) (commandRefused_steps _ _))

/-! ## The whole of a register is written -/

theorem setBytes_append (pre l bs : List Byte) (h : l.length = bs.length) : setBytes (pre ++ l) pre.length bs = pre ++ bs := by
  induction bs generalizing pre l with
  | nil => simp [List.length_eq_zero_iff.1 h, setBytes]
  | cons b r ih =>
    obtain ⟨x, xs, rfl⟩ := List.exists_cons_of_length_eq_add_one h
    have hxs : xs.length = r.length := by simpa using h
    have hstep := ih (pre ++ [b]) xs hxs
    simp only [List.length_append, List.length_cons, List.length_nil, List.append_assoc, List.singleton_append] at hstep
    simpa [setBytes] using hstep

/-- An aligned write of 8 bytes gives the register its value. -/
theorem mergeWord_whole {data : List Byte} (hd : data.length = 8) (old : Nat) {off : Nat} (ho : off % 8 = 0) :
    mergeWord old off data = BitVec.ofNat 64 (leNat data) := by
  have h := setBytes_append [] (leBytes 8 old) data (by rw [leBytes_length, hd])
  simp only [List.nil_append, List.length_nil] at h
  rw [mergeWord, ho, h]

/-! ### Staged registers -/

theorem stage_eq (s : State) (off : Nat) (data : List Byte) : stage s off data = { s with staging := (stage s off data).staging } := by
  induction data generalizing s off with
  | nil => rfl
  | cons b r ih => rw [stage, ih]

theorem tabGet_stage_below (s : State) (off : Nat) (data : List Byte) (i : Nat) (d : Byte) (h : i < off) :
    tabGet (stage s off data).staging i d = tabGet s.staging i d := by
  induction data generalizing s off with
  | nil => rfl
  | cons b r ih =>
    rw [stage, ih _ _ (by omega)]
    exact tabGet_tabSet_other _ _ _ _ _ (by omega)

theorem tabGet_stage (s : State) (off : Nat) (data : List Byte) (i : Nat) (d : Byte) (h : i < data.length) :
    tabGet (stage s off data).staging (off + i) d = data[i] := by
  induction data generalizing s off i with
  | nil => simp at h
  | cons b r ih =>
    rw [stage]
    cases i with
    | zero =>
      exact (tabGet_stage_below _ _ _ _ _ (Nat.lt_succ_self off)).trans (tabGet_tabSet_same _ _ _ _)
    | succ j =>
      have hj := ih { s with staging := tabSet s.staging off b } (off + 1) j (by simpa using h)
      rwa [Nat.add_assoc, Nat.add_comm 1 j] at hj

/-- All its bytes written, a staged register holds them. -/
theorem stagedNat_stage (s : State) (off : Nat) (data : List Byte) (old : Nat) :
    stagedNat (stage s off data) off data.length old = leNat data := by
  unfold stagedNat
  congr 1
  refine List.ext_getElem (by simp) fun i hi _ => ?_
  simp only [List.length_map, List.length_range] at hi
  simp only [List.getElem_map, List.getElem_range]
  exact tabGet_stage s off data i _ hi

theorem mem_tabSet {α : Type} {t : List (Nat × α)} {k : Nat} {v : α} {p : Nat × α} (h : p ∈ tabSet t k v) : p ∈ t ∨ p.1 = k := by
  induction t with
  | nil => simp only [tabSet, List.mem_singleton] at h; exact .inr (by rw [h])
  | cons x r ih =>
    obtain ⟨j, w⟩ := x
    simp only [tabSet] at h
    split at h
    · rcases List.mem_cons.1 h with rfl | h
      · exact .inr rfl
      · exact .inl (List.mem_cons_of_mem _ h)
    · split at h
      · rcases List.mem_cons.1 h with rfl | h
        · exact .inr rfl
        · exact .inl h
      · rcases List.mem_cons.1 h with rfl | h
        · exact .inl List.mem_cons_self
        · exact (ih h).imp_left (List.mem_cons_of_mem _)

theorem mem_stage {s : State} {off : Nat} {data : List Byte} {p : Nat × Byte} (h : p ∈ (stage s off data).staging) :
    p ∈ s.staging ∨ (off ≤ p.1 ∧ p.1 < off + data.length) := by
  induction data generalizing s off with
  | nil => exact .inl h
  | cons b r ih =>
    simp only [List.length_cons]
    rcases ih h with h | h
    · rcases mem_tabSet h with h | h
      · exact .inl h
      · exact .inr (by omega)
    · exact .inr (by omega)

theorem unstage_stage {s : State} (h : s.staging = []) (off : Nat) (data : List Byte) :
    unstage (stage s off data) off data.length = s := by
  have hnone : (stage s off data).staging.filter
      (fun p => !(decide (off ≤ p.1) && decide (p.1 < off + data.length))) = [] := by
    refine List.filter_eq_nil_iff.2 fun p hp => ?_
    rcases mem_stage hp with hp | ⟨hlo, hhi⟩
    · rw [h] at hp; simp at hp
    · simp [hlo, hhi]
  rw [unstage, hnone, stage_eq, ← h]

/-- A staged register that the physical function writes whole, none being half written, acts at once. -/
theorem writeStaged_whole {s : State} (h : s.staging = []) (off : Nat) (data : List Byte) :
    writeStaged .pf (off, data.length) off data s = commitStaged .pf off (leNat data) s := by
  simp only [writeStaged, stagedNat_stage, unstage_stage h]
  simp

/-! ### The control window -/

theorem controlRegisterWrite_pf {s : State} (hr : s.isReady = true) {off : BitVec 23} (ho : off.toNat < 2 ^ 20)
    (data : List Byte) : exec (.controlRegisterWrite .pf off data) s = .next (writeControl .pf off.toNat data s) := by
  have hbit : off.getLsbD 22 = false := Nat.testBit_lt_two_pow (Nat.lt_trans ho (by decide))
  have hexec : exec (.controlRegisterWrite .pf off data) s = execControlRegisterWrite .pf off data s := rfl
  have hmod : off.toNat % 2 ^ 22 = off.toNat := Nat.mod_eq_of_lt (Nat.lt_trans ho (by decide))
  simp only [hexec, execControlRegisterWrite, hr, hbit, hmod]
  exact if_pos ho

/-- The write of a whole 8-byte register below 0x400. -/
theorem writeControl_low {off : Nat} {data : List Byte} (s : State) (hd : data.length = 8) (hst : stagedAt off = none)
    (hoff : off < 0x400) (hal : off % 8 = 0) : writeControl .pf off data s =
      writeLow .pf off (BitVec.ofNat 64 (leNat data)) (BitVec.ofNat 64 (leNat data)) s := by
  simp only [writeControl, hst]
  rw [if_neg (by omega), if_pos (by simp [plainAccess, hd, hal]), writePlain, if_neg (by omega), if_pos (by omega), writtenOnes,
    mergeWord_whole hd _ hal, mergeWord_whole hd _ hal, Nat.div_mul_cancel (Nat.dvd_of_mod_eq_zero hal)]

theorem writeControl_nodeid {data : List Byte} (s : State) (hd : data.length = 8) : writeControl .pf 0x708 data s =
      outState (execNodeidWrite .pf (BitVec.ofNat 64 (leNat data)) s) s := by
  have hst : stagedAt 0x708 = none := rfl
  simp only [writeControl, hst]
  rw [if_neg (by decide), if_pos (by simp [plainAccess, hd]), writePlain, if_neg (by decide), if_pos (by decide),
    mergeWord_whole hd _ (by decide)]
  rfl

/-- The write of a whole register of several words. -/
theorem writeControl_staged {off : Nat} {data : List Byte} {s : State} (h : s.staging = [])
    (hst : stagedAt off = some (off, data.length)) : writeControl .pf off data s = commitStaged .pf off (leNat data) s := by
  simp only [writeControl, hst]
  rw [if_pos (by simp [wideAccess]), writeStaged_whole h]

/-- What the write of a register does is what an event does, where the event's outcome is a next state. -/
theorem controlRegisterWrite_eq {s : State} (hr : s.isReady = true) {off : BitVec 23} (ho : off.toNat < 2 ^ 20)
    {data : List Byte} {o : Outcome State Fault Refusal} (hs : Steps o)
    (hw : writeControl .pf off.toNat data s = outState o s) : exec (.controlRegisterWrite .pf off data) s = o := by
  rw [controlRegisterWrite_pf hr ho, hw, hs.outState_eq]

/-! ### The queue window -/

/-- The event of a queue command's code. -/
def queueCommand (q : BitVec 10) (n : Nat) (s : State) : Outcome State Fault Refusal :=
  match n with
  | 1 => execQcmdBind q s
  | 2 => execQcmdHalt q s
  | 3 => execQcmdResume q s
  | 4 => execQcmdDrain q s
  | 5 => execQcmdUnbind q s
  | _ => commandRefused (afterArrivals s q) q

theorem queueCommand_steps (q : BitVec 10) (n : Nat) (s : State) : Steps (queueCommand q n s) := by
  unfold queueCommand
  split
  · exact execQcmdBind_steps q s
  · exact execQcmdHalt_steps q s
  · exact execQcmdResume_steps q s
  · exact execQcmdDrain_steps q s
  · exact execQcmdUnbind_steps q s
  · exact commandRefused_steps _ q

theorem writeQueue_command {data : List Byte} (hd : data.length = 8) (q : BitVec 10) (s : State) :
    writeQueue .pf q 0x808 data s = outState (queueCommand q (leNat data % 8) s) s := by
  have hv : ((mergeWord (queueWord (getQueue s q) (0x808 / 8 * 8)) 0x808 data).extractLsb' 0 3).toNat = leNat data % 8 := by
    rw [mergeWord_whole hd _ (by decide)]
    simp
  simp only [writeQueue, hv]
  rw [if_neg (by decide)]
  generalize leNat data % 8 = n
  match n with
  | 0 | 1 | 2 | 3 | 4 | 5 => rfl
  | n + 6 => rfl

theorem controlRegisterWrite_queue {s : State} (hr : s.isReady = true) {data : List Byte} (hd : data.length = 8) {q : BitVec 10}
    (hq : ownsQueue s .pf q = true) :
    exec (.controlRegisterWrite .pf (BitVec.ofNat 23 (2 ^ 22 + q.toNat * 4096 + 0x808)) data) s =
      queueCommand q (leNat data % 8) s := by
  have hlt : q.toNat * 4096 + 0x808 < 2 ^ 22 := by have := q.isLt; omega
  have hto : (BitVec.ofNat 23 (2 ^ 22 + q.toNat * 4096 + 0x808)).toNat = 2 ^ 22 + (q.toNat * 4096 + 0x808) := by
    rw [BitVec.toNat_ofNat, Nat.mod_eq_of_lt (by omega), Nat.add_assoc]
  have hbit : (BitVec.ofNat 23 (2 ^ 22 + q.toNat * 4096 + 0x808)).getLsbD 22 = true := by
    rw [BitVec.getLsbD, hto, Nat.testBit_two_pow_add_eq, Nat.testBit_lt_two_pow hlt]
    rfl
  have hmod : (BitVec.ofNat 23 (2 ^ 22 + q.toNat * 4096 + 0x808)).toNat % 2 ^ 22 = q.toNat * 4096 + 0x808 := by
    rw [hto, Nat.add_mod_left, Nat.mod_eq_of_lt hlt]
  have hno : BitVec.ofNat 10 ((q.toNat * 4096 + 0x808) / 4096) = q := by
    rw [show (q.toNat * 4096 + 0x808) / 4096 = q.toNat by omega, BitVec.ofNat_toNat, BitVec.setWidth_eq]
  have hexec : ∀ off, exec (.controlRegisterWrite .pf off data) s = execControlRegisterWrite .pf off data s := fun _ => rfl
  have hwin : writeQueueWindow .pf (q.toNat * 4096 + 0x808) data s = outState (queueCommand q (leNat data % 8) s) s := by
    simp only [writeQueueWindow, hno, hq, show (q.toNat * 4096 + 0x808) % 4096 = 0x808 by omega, writeQueue_command hd]
    simp [plainAccess, hd]
  rw [← (queueCommand_steps q _ s).outState_eq s, ← hwin, hexec]
  simp only [execControlRegisterWrite, hr, hbit, hmod]
  rfl

/-- Before READY a write of the queue window is dropped; of the control window BOOTST and ATTST alone answer (R411). -/
theorem controlRegisterWrite_unready {s : State} (hr : s.isReady = false) (who : Writer) (off : BitVec 23) (data : List Byte) :
    exec (.controlRegisterWrite who off data) s = .next
      (if off.getLsbD 22 = true ∨ ((who = .pf ∨ who = .ranger) ∧ off.toNat % 2 ^ 22 < 16 ∧
          (data.length = 4 ∨ data.length = 8) ∧ off.toNat % 2 ^ 22 % data.length = 0) then s else unsupported s) := by
  have hexec : exec (.controlRegisterWrite who off data) s = execControlRegisterWrite who off data s := rfl
  simp only [hexec, execControlRegisterWrite, hr]
  rw [if_pos (by decide)]
  refine congrArg Outcome.next (if_congr ?_ rfl rfl)
  cases who with
  | pf => simp [plainAccess]
  | ranger => simp [plainAccess]
  | vf n => simp

/-! ### The registers of the statement -/

theorem controlRegisterWrite_words {s : State} (hr : s.isReady = true) {data : List Byte} (hd : data.length = 8) :
    ∀ p ∈ [((0x10 : BitVec 23), Instr.clamplimWrite .pf (BitVec.ofNat 64 (leNat data))),
        (0x100, .frcfgWrite (BitVec.ofNat 64 (leNat data))), (0x110, .frheadWrite (BitVec.ofNat 64 (leNat data))),
        (0x1D0, .bankcfgWrite (BitVec.ofNat 64 (leNat data))), (0x200, .elcfgWrite (BitVec.ofNat 64 (leNat data))),
        (0x708, .nodeidWrite .pf (BitVec.ofNat 64 (leNat data)))],
      exec (.controlRegisterWrite .pf p.1 data) s = exec p.2 s := by
  have hlow : ∀ (off : BitVec 23) (o : Outcome State Fault Refusal), off.toNat < 0x400 → stagedAt off.toNat = none →
      off.toNat % 8 = 0 → Steps o →
      writeLow .pf off.toNat (BitVec.ofNat 64 (leNat data)) (BitVec.ofNat 64 (leNat data)) s = outState o s →
      exec (.controlRegisterWrite .pf off data) s = o := fun off o hoff hst hal hs hw =>
    controlRegisterWrite_eq hr (by omega) hs ((writeControl_low s hd hst hoff hal).trans hw)
  simp only [List.forall_mem_cons, List.not_mem_nil, false_imp_iff, implies_true, and_true]
  exact ⟨hlow 0x10 _ (by decide) rfl rfl (execClamplimWrite_steps .pf _ s) rfl,
    hlow 0x100 _ (by decide) rfl rfl (execFrcfgWrite_steps _ _) rfl,
    hlow 0x110 _ (by decide) rfl rfl (execFrheadWrite_steps _ _) rfl,
    hlow 0x1D0 _ (by decide) rfl rfl (execBankcfgWrite_steps _ _) rfl,
    hlow 0x200 _ (by decide) rfl rfl (execElcfgWrite_steps _ _) rfl,
    controlRegisterWrite_eq hr (by decide) (execNodeidWrite_steps .pf _ s) (writeControl_nodeid s hd)⟩

theorem controlRegisterWrite_fnmode {s : State} (hr : s.isReady = true) {data : List Byte} (hd : data.length = 8) :
    exec (.controlRegisterWrite .pf 0x40 data) s =
      .next { s with ctl := { s.ctl with fnmode := BitVec.ofNat 5 (leNat data) } } := by
  have hw : writeControl .pf 0x40 data s = { s with ctl := { s.ctl with fnmode := (BitVec.ofNat 64 (leNat data)).setWidth 5 } } :=
    writeControl_low s hd rfl (by decide) rfl
  have hv : (BitVec.ofNat 64 (leNat data)).setWidth 5 = BitVec.ofNat 5 (leNat data) := by
    apply BitVec.eq_of_toNat_eq
    simp
  rw [hv] at hw
  exact (controlRegisterWrite_pf hr (by decide) data).trans (congrArg Outcome.next hw)

theorem controlRegisterWrite_queueCommands {s : State} (hr : s.isReady = true) {data : List Byte} (hd : data.length = 8)
    {q : BitVec 10} (hq : ownsQueue s .pf q = true) :
    ∀ p ∈ [(1, Instr.qcmdBind q), (2, .qcmdHalt q), (3, .qcmdResume q), (4, .qcmdDrain q), (5, .qcmdUnbind q)],
      leNat data % 8 = p.1 →
        exec (.controlRegisterWrite .pf (BitVec.ofNat 23 (2 ^ 22 + q.toNat * 4096 + 0x808)) data) s = exec p.2 s := by
  rw [controlRegisterWrite_queue hr hd hq]
  simp only [List.forall_mem_cons, List.not_mem_nil, false_imp_iff, implies_true, and_true]
  refine ⟨fun h => ?_, fun h => ?_, fun h => ?_, fun h => ?_, fun h => ?_⟩ <;>
    · rw [h]
      rfl

theorem controlRegisterWrite_staged16 {s : State} (hr : s.isReady = true) (hs : s.staging = []) {data : List Byte}
    (hd : data.length = 16) :
    ∀ p ∈ [((0x50 : BitVec 23), Instr.gstop (BitVec.ofNat 128 (leNat data))), (0x140, .pinv (BitVec.ofNat 128 (leNat data)))],
      exec (.controlRegisterWrite .pf p.1 data) s = exec p.2 s := by
  simp only [List.forall_mem_cons, List.not_mem_nil, false_imp_iff, implies_true, and_true]
  exact ⟨controlRegisterWrite_eq hr (by decide) (execGstop_steps _ _) (writeControl_staged hs (by rw [hd]; rfl)),
    controlRegisterWrite_eq hr (by decide) (execPinv_steps _ _) (writeControl_staged hs (by rw [hd]; rfl))⟩

theorem controlRegisterWrite_staged32 {s : State} (hr : s.isReady = true) (hs : s.staging = []) {data : List Byte}
    (hd : data.length = 32) :
    ∀ p ∈ [((0x20 : BitVec 23), Instr.attreq .pf (BitVec.ofNat 256 (leNat data))), (0x160, .pmove (BitVec.ofNat 256 (leNat data)))],
      exec (.controlRegisterWrite .pf p.1 data) s = exec p.2 s := by
  simp only [List.forall_mem_cons, List.not_mem_nil, false_imp_iff, implies_true, and_true]
  exact ⟨controlRegisterWrite_eq hr (by decide) (execAttreq_steps _ _ _) (writeControl_staged hs (by rw [hd]; rfl)),
    controlRegisterWrite_eq hr (by decide) (execPmove_steps _ _) (writeControl_staged hs (by rw [hd]; rfl))⟩

/-! ## The boot stages, requests and power -/

/-- The step ends in FAILED with a code. -/
def FailsWith (i : Instr) (s : State) (e : BitVec 8) : Prop := ∃ u, exec i s = .next u ∧ u.ctl.stage = .failed ∧ u.ctl.err = e

theorem bootVerifyComplete_idle {s : State} (h : s.ctl.stage ≠ .verify) (fr ec lm : Bool) (svn : BitVec 8) (fw : BitVec 32) :
    exec (.bootVerifyComplete fr ec lm svn fw) s = .next s := if_pos h

/-- The verification in its order: framing, ECDSA, LMS, SVN (R413). -/
theorem bootVerifyComplete_eq {s : State} (h : s.ctl.stage = .verify) (fr ec lm : Bool) (svn : BitVec 8) (fw : BitVec 32) :
    exec (.bootVerifyComplete fr ec lm svn fw) s =
      if fr = false then .next (bootFails s 0x83) else if ec = false then .next (bootFails s 0x80)
      else if lm = false then .next (bootFails s 0x81) else if svn.toNat < s.ctl.minSvn.toNat then .next (bootFails s 0x82)
      else .next { s with ctl := { s.ctl with stage := .hbm, svn := svn, fwver := fw, minSvn := svn } } := by
  have hexec : exec (.bootVerifyComplete fr ec lm svn fw) s = execBootVerifyComplete fr ec lm svn fw s := rfl
  rw [hexec, execBootVerifyComplete, if_neg (by simpa using h)]
  simp only [Bool.not_eq_true']

theorem bootVerifyComplete_clauses {s : State} (h : s.ctl.stage = .verify) (fr ec lm : Bool) (svn : BitVec 8) (fw : BitVec 32) :
    let i := Instr.bootVerifyComplete fr ec lm svn fw
    (fr = false → FailsWith i s 0x83) ∧ (fr = true → ec = false → FailsWith i s 0x80) ∧
    (fr = true → ec = true → lm = false → FailsWith i s 0x81) ∧
    (fr = true → ec = true → lm = true → svn.toNat < s.ctl.minSvn.toNat → FailsWith i s 0x82) ∧
    (fr = true → ec = true → lm = true → s.ctl.minSvn.toNat ≤ svn.toNat → exec i s = .next { s with ctl :=
      { s.ctl with stage := .hbm, svn := svn, fwver := fw, minSvn := svn } }) := by
  intro i
  have hi : exec i s = _ := bootVerifyComplete_eq h fr ec lm svn fw
  refine ⟨?_, ?_, ?_, ?_, ?_⟩
  · rintro rfl
    exact ⟨_, hi, rfl, rfl⟩
  · rintro rfl rfl
    exact ⟨_, hi, rfl, rfl⟩
  · rintro rfl rfl rfl
    exact ⟨_, hi, rfl, rfl⟩
  · rintro rfl rfl rfl hlt
    exact ⟨_, hi.trans (if_pos hlt), rfl, rfl⟩
  · rintro rfl rfl rfl hle
    exact hi.trans (if_neg (Nat.not_lt.2 hle))

theorem hbmTrainingComplete_eq {s : State} (h : s.ctl.stage = .hbm) (bad : BitVec 8) :
    exec (.hbmTrainingComplete bad) s = if bad ≠ 0 then .next (bootFails { s with ctl := { s.ctl with sbad := bad } } 0x84)
      else .next { s with ctl := { s.ctl with stage := .d2d } } := if_neg (by simpa using h)

theorem d2dTrainingComplete_eq {s : State} (h : s.ctl.stage = .d2d) (ok : Bool) :
    exec (.d2dTrainingComplete ok) s = if ok then .next { s with ctl := { s.ctl with stage := .init } }
      else .next (bootFails s 0x85) := if_neg (by simpa using h)

theorem rangerTakeover_idle {s : State} {us : Word} (h : us.toNat < 1000 ∨ s.ctl.twinTaken = true ∨ s.ctl.stage = .failed) :
    exec (.rangerTakeover us) s = .next s := if_pos h

/-- ATTREQ once the device is READY (R417). -/
theorem attreq_eq {s : State} (h : s.isReady = true) (who : Writer) (data : BitVec 256) : exec (.attreq who data) s =
      if who ≠ .pf then .next s
      else if s.ctl.attst.st = .busy then .next (setAtt s { s.ctl.attst with reason := 0x91 })
      else if s.ctl.remain = 0 then .next (setAtt s { st := .failed, reason := 0x90 })
      else if (data.extractLsb' 128 6 != 0) || (data.extractLsb' 192 64 != 0) then
        .next (setAtt s { st := .failed, reason := 0x92 })
      else .next { s with ctl := { s.ctl with attreq := some data, attst := { st := .busy } } } := if_pos h

theorem attreq_clauses {s : State} (h : s.isReady = true) (who : Writer) (data : BitVec 256) :
    (who ≠ .pf → exec (.attreq who data) s = .next s) ∧
    (s.ctl.attst.st = .busy → exec (.attreq .pf data) s = .next (setAtt s { s.ctl.attst with reason := 0x91 })) ∧
    (s.ctl.attst.st ≠ .busy →
      (s.ctl.remain = 0 → exec (.attreq .pf data) s = .next (setAtt s { st := .failed, reason := 0x90 })) ∧
      (s.ctl.remain ≠ 0 → data.extractLsb' 128 6 ≠ 0 ∨ data.extractLsb' 192 64 ≠ 0 →
        exec (.attreq .pf data) s = .next (setAtt s { st := .failed, reason := 0x92 })) ∧
      (s.ctl.remain ≠ 0 → data.extractLsb' 128 6 = 0 → data.extractLsb' 192 64 = 0 → exec (.attreq .pf data) s =
        .next { s with ctl := { s.ctl with attreq := some data, attst := { st := .busy } } })) := by
  have hpf : ¬(Writer.pf ≠ Writer.pf) := fun h => h rfl
  refine ⟨fun hw => ?_, fun hb => ?_, fun hb => ⟨fun hr => ?_, fun hr hbad => ?_, fun hr h1 h2 => ?_⟩⟩
  · rw [attreq_eq h, if_pos hw]
  · rw [attreq_eq h, if_neg hpf, if_pos hb]
  · rw [attreq_eq h, if_neg hpf, if_neg hb, if_pos hr]
  · rw [attreq_eq h, if_neg hpf, if_neg hb, if_neg hr, if_pos (by simpa using hbad)]
  · rw [attreq_eq h, if_neg hpf, if_neg hb, if_neg hr, if_neg (by simp [h1, h2])]

theorem clamplimWrite_clauses {s : State} (h : s.isReady = true) (v : Word) : let n := clampAmps v
    exec (.clamplimWrite .pf v) s = .next { s with ctl := { s.ctl with clamp := n } } ∧
    (n.toNat < s.ctl.clamp.toNat → exec (.clamplimWrite .ranger v) s = .next { s with ctl := { s.ctl with clamp := n } }) ∧
    (s.ctl.clamp.toNat ≤ n.toNat → exec (.clamplimWrite .ranger v) s = .next s) ∧
    ∀ k, exec (.clamplimWrite (.vf k) v) s = .next s := by
  intro n
  have hr : exec (.clamplimWrite .ranger v) s =
      if n.toNat < s.ctl.clamp.toNat then .next { s with ctl := { s.ctl with clamp := n } } else .next s := if_pos h
  exact ⟨if_pos h, fun hlt => hr.trans (if_pos hlt), fun hle => hr.trans (if_neg (Nat.not_lt.2 hle)), fun k => if_pos h⟩

theorem vfiWrite_eq {s : State} (h : s.isReady = true) (i : BitVec 4) (v : Word) : exec (.vfiWrite i v) s =
    if 12 ≤ (v.extractLsb' 0 4).toNat then .next s else .next (modIsland s i fun x => { x with req := v.extractLsb' 0 4 }) :=
  if_pos h

theorem thermalProtection_slower {s : State} {i cur : BitVec 4} (hreq : (s.islands[i.toNat]'(i.isLt)).req.toNat ≤ cur.toNat)
    (hcur : cur.toNat < 12) : exec (.thermalProtection i cur) s = .next (modIsland s i fun x => { x with cur := cur }) := by
  have hexec : exec (.thermalProtection i cur) s = execThermalProtection i cur s := rfl
  simp only [hexec, execThermalProtection, modIsland]
  rw [if_pos ⟨hreq, hcur⟩]

/-- Settles O58, clause by clause: the boot stages, the takeover (`execRangerTakeover_takes`), attestation, power, and the
writes of the control window (`controlRegisterWrite_eq`, `controlRegisterWrite_queue`). -/
theorem platformEvents : Obligations.PlatformEvents := by
  intro s failed stage
  refine ⟨execReset_clears, fun fr ec lm svn fw => ⟨fun h => bootVerifyComplete_idle h fr ec lm svn fw,
    fun h => bootVerifyComplete_clauses h fr ec lm svn fw⟩, fun bad h => ⟨fun hb => ?_, fun hb => ?_⟩, fun h => ⟨?_, ?_⟩,
    fun h hwf => execInitComplete_ready h hwf, fun h => if_neg h, fun h us => ⟨if_pos h, rangerTakeover_idle (.inr (.inr h))⟩,
    fun us => ⟨fun h => rangerTakeover_idle (h.imp_right .inl), execRangerTakeover_takes⟩, attreq_clauses,
    fun data h hwf => execAttestReportComplete_writes h hwf, fun h v => ?power, ⟨rfl, rfl⟩,
    fun i => ⟨rfl, fun cur hreq hcur => thermalProtection_slower hreq hcur⟩, fun h who off data => ?unready, fun h data => ?ready⟩
  · exact ⟨_, (hbmTrainingComplete_eq h bad).trans (if_neg (not_not_intro hb)), rfl⟩
  · exact ⟨_, (hbmTrainingComplete_eq h bad).trans (if_pos hb), rfl, rfl⟩
  · exact ⟨_, d2dTrainingComplete_eq h true, rfl⟩
  · exact ⟨_, d2dTrainingComplete_eq h false, rfl, rfl⟩
  case power =>
    obtain ⟨hpf, hlower, hraise, hvf⟩ := clamplimWrite_clauses h v
    exact ⟨(clampAmps_bounds v).1, (clampAmps_bounds v).2, clampAmps_within, hpf, hlower, hraise, hvf, fun i =>
      ⟨fun hge => (vfiWrite_eq h i v).trans (if_pos hge), fun hlt => (vfiWrite_eq h i v).trans (if_neg (Nat.not_le.2 hlt))⟩⟩
  case unready =>
    refine ⟨fun ha => ?_, fun hq hn => ?_⟩
    · rw [controlRegisterWrite_unready h, if_pos ha]
    · rw [controlRegisterWrite_unready h, if_neg (not_or.2 ⟨Bool.eq_false_iff.1 hq, hn⟩)]
  case ready =>
    exact ⟨fun hd => ⟨controlRegisterWrite_words h hd, controlRegisterWrite_fnmode h hd,
      fun q hq => controlRegisterWrite_queueCommands h hd hq⟩,
      fun hs => ⟨controlRegisterWrite_staged16 h hs, controlRegisterWrite_staged32 h hs⟩⟩

end Sys2Proof.Proofs

/-!
PROOFS. The state after reset (the statement ResetState): what the capacity registers hold where every bank is up (R25, R362), and
the state of banks, queues, contexts and ports in tables that hold no entry.
-/
namespace Sys2Proof.Proofs

open Sys2Proof Sys2Proof.Machine Sys2Proof.Laws

/-! ## Capacity where every bank is up -/

@[simp] theorem length_coreBanks (kind : Nat) (core : BitVec 8) :
    (coreBanks kind core).length = if kind = 2 ∨ kind = 4 then 8 else if kind = 6 then 2 else 16 := by
  simp [coreBanks]

section AllUp
variable {s : State} (h : ∀ id, bankUp s id = true)
include h

theorem countUp_of_allUp (ids : List Nat) : countUp s ids = ids.length := by
  rw [countUp, List.filter_eq_self.2 fun id _ => h id]

theorem capStore_of_allUp (core : BitVec 8) (kind : Nat) : capStore s core kind = 16384 * (coreBanks kind core).length := by
  rw [capStore, countUp_of_allUp h]

theorem liveLgs_of_allUp (core : BitVec 8) : liveLgs s core = List.range 8 :=
  List.filter_eq_self.2 fun _ _ => h _

theorem capLg_of_allUp (core : BitVec 8) : capLg s core = 8 := by
  rw [capLg, liveLgs_of_allUp h, List.length_range]

/-- Every lane group gives 1,024 words for each of its two lane-register banks. -/
theorem caplNow_of_allUp (core : BitVec 8) : caplNow s core = 2048 := by
  simp only [caplNow, liveLgs_of_allUp h, countUp_of_allUp h, List.length_cons, List.length_nil]
  rfl

end AllUp

/-! ## Tables without an entry -/

theorem getBank_of_noBanks {s : State} (h : s.banks = []) (id : Nat) : getBank s id = {} := by rw [getBank, h]; rfl

theorem getQueue_of_noQueues {s : State} (h : s.queues = []) (q : BitVec 10) : getQueue s q = {} := by rw [getQueue, h]; rfl

theorem getCtx_of_noContexts {s : State} (h : s.contexts = []) (c : BitVec 6) : getCtx s c = {} := by rw [getCtx, h]; rfl

theorem bankUp_of_noBanks {s : State} (h : s.banks = []) (id : Nat) : bankUp s id = true := by
  simp only [bankUp, getBank_of_noBanks h]; rfl

theorem capL2_of_noBanks {s : State} (h : s.banks = []) (die : Bool) : capL2 s die = 262144 * 384 := by rw [capL2, h]; rfl

theorem capL_of_noBanks {s : State} (hb : s.banks = []) (hc : s.capls = []) (core : BitVec 8) : capL s core = 2048 := by
  rw [capL, caplNow_of_allUp (bankUp_of_noBanks hb), hc]; rfl

/-! ## Reset -/

/-- The twelve ports hold the default, which is also what `getPort` gives for a number past them. -/
theorem getPort_reset (p : BitVec 4) : getPort State.reset p = {} := by
  have hports : State.reset.ports = Vector.replicate 12 {} := rfl
  rw [getPort, hports, Vector.getElem?_replicate]
  split <;> rfl

theorem capStore_reset (core : BitVec 8) (kind : Nat) : capStore State.reset core kind = 16384 * (coreBanks kind core).length :=
  capStore_of_allUp (bankUp_of_noBanks rfl) core kind

/-- Settles O60: the fields and the words of the control window are those that `State.reset` names; the capacity registers are
those of a device whose banks are all up; and a table without an entry reads as its default. -/
theorem resetState : Obligations.ResetState := by
  refine ⟨memWf_reset, rfl, rfl, rfl, rfl, rfl, rfl, fun core => ?capacity, fun die => capL2_of_noBanks rfl die, fun id => ?bank,
    fun q => ?queue, fun c => ?context, fun p => ?port, rfl⟩
  case capacity =>
    refine ⟨?_, ?_, ?_, capL_of_noBanks rfl rfl core, capLg_of_allUp (bankUp_of_noBanks rfl) core⟩ <;>
      simp [capStore_reset]
  case bank => rw [getBank_of_noBanks rfl]
  case queue => rw [getQueue_of_noQueues rfl]
  case context => rw [getCtx_of_noContexts rfl]
  case port => rw [getPort_reset]

end Sys2Proof.Proofs

/-!
PROOFS. Tile compute instructions that write a whole version (the statement FillMoveConvert): what ends the performing of an
instruction, and what TFILL, TMOV and TCVT write (R154, R178 to R180).
-/
namespace Sys2Proof.Proofs

open Sys2Proof Sys2Proof.Machine Sys2Proof.Laws

/-! ## Lookups of versions and flights after an update -/

theorem findVersion_modVersion (b : Block) (i : Nat) {g : Version → Version} (hg : ∀ v, (g v).id = v.id) (k : Nat) :
    findVersion (modVersion b i g) k = (findVersion b k).map fun v => if v.id = i then g v else v := by
  have hid : ((fun v : Version => v.id == k) ∘ fun v => if v.id = i then g v else v) = fun v => v.id == k := by
    funext v
    by_cases hv : v.id = i <;> simp [hv, hg]
  rw [findVersion, modVersion, List.find?_map, hid, findVersion]

theorem findVersion_id {b : Block} {i : Nat} {v : Version} (h : findVersion b i = some v) : v.id = i := by
  simpa using List.find?_some h

theorem findVersion_mem {b : Block} {i : Nat} {v : Version} (h : findVersion b i = some v) : v ∈ b.versions :=
  List.mem_of_find?_eq_some h

theorem findVersion_modVersion_same {b : Block} {i : Nat} {v : Version} (h : findVersion b i = some v) {g : Version → Version}
    (hg : ∀ v, (g v).id = v.id) : findVersion (modVersion b i g) i = some (g v) := by
  simp [findVersion_modVersion b i hg, h, findVersion_id h]

theorem findVersion_modVersion_other (b : Block) {i k : Nat} (hk : k ≠ i) {g : Version → Version} (hg : ∀ v, (g v).id = v.id) :
    findVersion (modVersion b i g) k = findVersion b k := by
  rw [findVersion_modVersion b i hg]
  cases hv : findVersion b k with
  | none => rfl
  | some v => simp [findVersion_id hv, hk]

theorem findFlight_modFlight_same {b : Block} {f g : Flight} (h : findFlight b f.id = some g) :
    findFlight (modFlight b f.id fun _ => f) f.id = some f := by
  have hid : ((fun x : Flight => x.id == f.id) ∘ fun x => if x.id = f.id then f else x) = fun x => x.id == f.id := by
    funext x
    by_cases hx : x.id = f.id <;> simp [hx]
  have hg : g.id = f.id := by simpa using List.find?_some h
  rw [findFlight, modFlight, List.find?_map, hid, ← findFlight, h, Option.map_some, if_pos hg]

@[simp] theorem getVersion_none (b : Block) : getVersion b none = none := rfl

@[simp] theorem getVersion_some (b : Block) (i : Nat) : getVersion b (some i) = findVersion b i := rfl

/-! ## The end of an instruction without an AQ bit -/

section FlightDone
variable {s : State} {f : Flight} (h : Instr.aqBit f.ins = false)
include h

theorem flightDone_versions : (flightDone s f).me.versions = s.me.versions := by simp [flightDone_plain s f h, cancelFaults, setFlight, dropAsks]

theorem flightDone_findVersion (i : Nat) : findVersion (flightDone s f).me i = findVersion s.me i := by
  simp [findVersion, flightDone_versions h]

theorem flightDone_others : (flightDone s f).others = s.others := by simp [flightDone_plain s f h, cancelFaults, setFlight, dropAsks]

theorem flightDone_sregs : (flightDone s f).me.sregs = s.me.sregs := by simp [flightDone_plain s f h, cancelFaults, setFlight, dropAsks]

theorem flightDone_names : (flightDone s f).me.names = s.me.names := by simp [flightDone_plain s f h, cancelFaults, setFlight, dropAsks]

theorem flightDone_lstat : (flightDone s f).me.lstat = s.me.lstat := by simp [flightDone_plain s f h, cancelFaults, setFlight, dropAsks]

/-- The instruction stands in the tile dependency table as performed. -/
theorem flightDone_performed {g : Flight} (hf : findFlight s.me f.id = some g) :
    ∃ k, findFlight (flightDone s f).me f.id = some k ∧ k.st = .performed := by
  let done : Flight := { f with st := .performed, started := true, pins := [], early := [] }
  have hd : findFlight (dropAsks s (some f.id)).me done.id = some g := hf
  refine ⟨done, ?_, rfl⟩
  rw [flightDone_plain s f h]
  exact findFlight_modFlight_same hd

end FlightDone

/-! ## A whole version is written (R154) -/

/-- A version with its elements and its scale vector written. -/
def withContents (elems : List Half) (scales : List (BitVec 16)) (v : Version) : Version := { v with elems := elems, scales := scales }

/-- A compute instruction whose sources hold no poison writes its version and nothing else. -/
theorem computeDone_performedWith {s : State} {f g : Flight} {d : Version} (haq : Instr.aqBit f.ins = false)
    (hf : findFlight s.me f.id = some g) (hdst : f.dst = some d.id) (hd : findVersion s.me d.id = some d)
    (elems : List Half) (scales : List (BitVec 16)) :
    performedWith s (computeDone s f none elems scales) f d elems scales := by
  have hdone : computeDone s f none elems scales =
      flightDone { s with me := modVersion s.me d.id (withContents elems scales) } f := by
    rw [computeDone, hdst]; rfl
  rw [hdone]
  refine ⟨flightDone_performed haq hf, ?_, fun i hi => ?_, flightDone_mem _ _, flightDone_others haq, flightDone_sregs haq,
    flightDone_names haq, flightDone_lstat haq⟩
  · rw [flightDone_findVersion haq, findVersion_modVersion_same hd (g := withContents elems scales) fun _ => rfl]; rfl
  · rw [flightDone_findVersion haq, findVersion_modVersion_other _ hi (g := withContents elems scales) fun _ => rfl]

theorem badOf_of_unpoisoned {b : Block} {o : Option Nat} (h : ∀ v, getVersion b o = some v → v.poison = []) (f : Flight) :
    badOf b f o = [] := by
  unfold badOf poisonOf
  split
  · next =>
    split
    · next v hv => exact h v hv
    · rfl
  · rfl

theorem poisonOut_of_unpoisoned {b : Block} {out : List (Option Nat × (Nat → Nat))}
    (h : ∀ p ∈ out, ∀ v, getVersion b p.1 = some v → v.poison = []) (f : Flight) : poisonOut b f out = none := by
  have hnil : (out.flatMap fun p => (badOf b f p.1).map p.2) = [] := by
    rw [List.flatMap_eq_nil_iff]
    intro p hp
    rw [badOf_of_unpoisoned (h p hp), List.map_nil]
  rw [poisonOut, hnil]
  rfl

theorem poisonOut_one {b : Block} {o : Option Nat} {v : Version} (hv : getVersion b o = some v) (hp : v.poison = [])
    (f : Flight) (out : Nat → Nat) : poisonOut b f [(o, out)] = none := by
  refine poisonOut_of_unpoisoned (fun p hmem w hw => ?_) f
  obtain rfl := List.mem_singleton.1 hmem
  obtain rfl : v = w := Option.some.inj (hv.symm.trans hw)
  exact hp

/-! ## The value that TFILL writes (R179) -/

theorem clampInt_eq {lo hi : Int} (h : lo ≤ hi) (v : Int) : clampInt lo hi v = max lo (min hi v) := by
  unfold clampInt
  split
  · omega
  · split <;> omega

theorem intMin_le_intMax (sg : Bool) (n : Nat) : intMin sg n ≤ intMax sg n := by
  have hhalf : (1 : Int) ≤ 2 ^ (n - 1) := one_le_pow₀ (by decide)
  have hfull : (1 : Int) ≤ 2 ^ n := one_le_pow₀ (by decide)
  cases sg <;> simp only [intMin, intMax, if_true, Bool.false_eq_true, if_false] <;> omega

/-- Taking an integer modulo 2^n keeps the low n bits of its pattern. -/
theorem wrapInt_pattern {n : Nat} (hn : n ≤ 32) (x : Int) :
    BitVec.ofNat 32 (wrapInt n x) = BitVec.ofInt 32 x &&& BitVec.ofNat 32 (2 ^ n - 1) := by
  apply BitVec.eq_of_toNat_eq
  have hpow : 2 ^ n ≤ 2 ^ 32 := Nat.pow_le_pow_right (by omega) hn
  have hmod : (2 ^ n - 1) % 2 ^ 32 = 2 ^ n - 1 := Nat.mod_eq_of_lt (by have := Nat.two_pow_pos n; omega)
  have hdvd : ((2 ^ n : Nat) : Int) ∣ ((2 ^ 32 : Nat) : Int) := Int.natCast_dvd_natCast.2 (Nat.pow_dvd_pow 2 hn)
  have hpos : (0 : Int) < ((2 ^ n : Nat) : Int) := by exact_mod_cast Nat.two_pow_pos n
  rw [BitVec.toNat_and, BitVec.toNat_ofNat, BitVec.toNat_ofNat, BitVec.toNat_ofInt, hmod, Nat.and_two_pow_sub_one_eq_mod, wrapInt]
  have hlt : (x % ((2 ^ n : Nat) : Int)).toNat < 2 ^ n := by
    have := Int.emod_lt_of_pos x hpos
    omega
  rw [Nat.mod_eq_of_lt (by omega)]
  have hcast : (((x % ((2 ^ 32 : Nat) : Int)).toNat % 2 ^ n : Nat) : Int) = x % ((2 ^ n : Nat) : Int) := by
    push_cast
    rw [Int.toNat_of_nonneg (Int.emod_nonneg _ (by decide))]
    exact_mod_cast Int.emod_emod_of_dvd x hdvd
  omega

theorem numOf_bits_le {t : BitVec 5} {sg : Bool} {n : Nat} (h : numOf t = some (.int sg n)) : n ≤ 32 := by
  unfold numOf at h
  split at h <;> simp_all <;> omega

/-- An integer fill is clamped to the range of its type. -/
theorem fillValue_int {t : BitVec 5} {sg : Bool} {n : Nat} (h : numOf t = some (.int sg n)) (imm : BitVec 24) :
    fillValue t imm = BitVec.ofInt 32 (if sg then max (-(2 ^ (n - 1) : Nat)) (min (2 ^ (n - 1) - 1 : Nat) imm.toInt)
      else max 0 (min (2 ^ n - 1 : Nat) imm.toInt)) &&& BitVec.ofNat 32 (2 ^ n - 1) := by
  have ht : t ≠ 10 := by rintro rfl; simp [numOf] at h
  have hclamp : clampInt (intMin sg n) (intMax sg n) imm.toInt =
      (if sg then max (-(2 ^ (n - 1) : Nat)) (min (2 ^ (n - 1) - 1 : Nat) imm.toInt) else max 0 (min (2 ^ n - 1 : Nat) imm.toInt) : Int) := by
    rw [clampInt_eq (intMin_le_intMax sg n)]
    cases sg <;> simp [intMin, intMax, Nat.one_le_two_pow]
  rw [← hclamp, ← wrapInt_pattern (numOf_bits_le h)]
  simp only [fillValue, ht, if_false, h]

theorem fillValue_fp32 (imm : BitVec 24) : fillValue 10 imm = BitVec.ofNat 32 (imm.toNat * 256) := by
  apply BitVec.eq_of_toNat_eq
  have := imm.isLt
  simp [fillValue, Nat.shiftLeft_eq]

theorem fillValue_fp {t : BitVec 5} {m : FpFmt} (h : (t = 8 ∧ m = fp16) ∨ (t = 9 ∧ m = bf16)) (imm : BitVec 24) :
    fillValue t imm = BitVec.ofNat 32 (fpPut m false (fpRead fp32 false (imm.toNat * 256))).bits := by
  rcases h with ⟨rfl, rfl⟩ | ⟨rfl, rfl⟩ <;> rfl

/-! ## Performing TFILL, TMOV and TCVT -/

/-- Settles O33: the three write one list of elements into their version, by the equation of each. -/
theorem fillMoveConvert : Obligations.FillMoveConvert := by
  intro s f d _ _ hf hdst hd
  have hgd : getVersion s.me f.dst = some d := by rw [hdst]; exact hd
  refine ⟨fun td imm hins => ?fill, fun td ta a hins hta ha hp => ?move, fun td ta a hins hta ha hp => ?convert⟩
  case fill =>
    have haq : Instr.aqBit f.ins = false := by rw [hins]; rfl
    refine ⟨fillValue d.geom.type imm, if d.geom.type = 11 then (List.range d.geom.cols.toNat).map (Config.fillScale s.free) else [],
      ?_, fun h => if_neg h, fun sg n h => fillValue_int h imm, fun h => ?_, fun m h => fillValue_fp h imm, fun h => ?_, fun h => ?_⟩
    · have hrun : performFlight s f = computeDone { s with free := s.free + 1 } f none
          (List.replicate d.geom.count (fillValue d.geom.type imm))
          (if d.geom.type = 11 then (List.range d.geom.cols.toNat).map (Config.fillScale s.free) else []) := by
        simp only [performFlight, hins, runTfill, hgd]
      rw [hrun]
      exact computeDone_performedWith (s := { s with free := s.free + 1 }) haq hf hdst hd _ _
    · rw [h]; exact fillValue_fp32 imm
    · rw [h]; rfl
    · rw [h]; rfl
  case move =>
    have haq : Instr.aqBit f.ins = false := by rw [hins]; rfl
    have hga : getVersion s.me f.ta = some a := by rw [hta]; exact ha
    have hrun : performFlight s f = computeDone s f none a.elems a.scales := by
      simp only [performFlight, hins, runTmov, hga, poisonOut_one hga hp]
    rw [hrun]
    exact computeDone_performedWith haq hf hdst hd _ _
  case convert =>
    have haq : Instr.aqBit f.ins = false := by rw [hins]; rfl
    have hga : getVersion s.me f.ta = some a := by rw [hta]; exact ha
    have hrun : performFlight s f = computeDone s f none (a.elems.map fun x => BitVec.ofNat 32 (convPat a.geom.type d.geom.type x.toNat)) [] := by
      simp only [performFlight, hins, runTcvt, hga, hgd, poisonOut_one hga hp]
    rw [hrun]
    exact computeDone_performedWith haq hf hdst hd _ _

end Sys2Proof.Proofs

/-!
PROOFS. Floating-point patterns (the statement FpPatternsRoundToThemselves): a pattern is its sign, its exponent field and its
fraction (R32), and rounding a value that stands on the last place of its binade loses nothing (R33, R35).
-/
namespace Sys2Proof.Proofs

open Sys2Proof Sys2Proof.Machine Sys2Proof.Laws

/-! ## The fields of a pattern -/

/-- The exponent field of a pattern. -/
def expField (f : FpFmt) (x : Nat) : Nat := x / 2 ^ f.fbits % 2 ^ f.ebits

/-- The fraction of a pattern. -/
def fraction (f : FpFmt) (x : Nat) : Nat := x % 2 ^ f.fbits

/-- Whether the sign bit of a pattern is set. -/
def negative (f : FpFmt) (x : Nat) : Bool := decide (x / 2 ^ (f.ebits + f.fbits) = 1)

theorem fraction_lt (f : FpFmt) (x : Nat) : fraction f x < 2 ^ f.fbits := Nat.mod_lt _ (Nat.two_pow_pos _)

theorem expField_le (f : FpFmt) (x : Nat) : expField f x ≤ f.expOnes :=
  Nat.le_sub_one_of_lt (Nat.mod_lt _ (Nat.two_pow_pos _))

theorem sign_expField_fraction {f : FpFmt} {x : Nat} (h : x < 2 ^ f.width) :
    fpSign f (negative f x) + (fraction f x + expField f x * 2 ^ f.fbits) = x := by
  have hsign : fpSign f (negative f x) = x / 2 ^ (f.ebits + f.fbits) * 2 ^ (f.ebits + f.fbits) := by
    have hlt : x / 2 ^ (f.ebits + f.fbits) < 2 := by
      rw [Nat.div_lt_iff_lt_mul (Nat.two_pow_pos _), ← Nat.pow_succ']
      rwa [FpFmt.width, Nat.add_assoc, Nat.add_comm] at h
    obtain h0 | h1 := Nat.le_one_iff_eq_zero_or_eq_one.1 (Nat.le_of_lt_succ hlt)
    · simp [fpSign, negative, h0]
    · simp [fpSign, negative, h1]
  have hdiv : x / 2 ^ (f.ebits + f.fbits) = x / 2 ^ f.fbits / 2 ^ f.ebits := by
    rw [Nat.div_div_eq_div_mul, ← Nat.pow_add, Nat.add_comm]
  have hexp := Nat.div_add_mod (x / 2 ^ f.fbits) (2 ^ f.ebits)
  have hfrac := Nat.div_add_mod x (2 ^ f.fbits)
  rw [hsign, hdiv, expField, fraction, Nat.pow_add, Nat.mul_comm (2 ^ f.ebits), ← Nat.mul_assoc]
  calc x / 2 ^ f.fbits / 2 ^ f.ebits * 2 ^ f.fbits * 2 ^ f.ebits + (x % 2 ^ f.fbits + x / 2 ^ f.fbits % 2 ^ f.ebits * 2 ^ f.fbits)
      = 2 ^ f.fbits * (2 ^ f.ebits * (x / 2 ^ f.fbits / 2 ^ f.ebits) + x / 2 ^ f.fbits % 2 ^ f.ebits) + x % 2 ^ f.fbits := by ring
    _ = x := by rw [hexp, hfrac]

/-- What a pattern of a format reads as, by its fields. -/
theorem fpRead_eq {f : FpFmt} {x : Nat} (h : x < 2 ^ f.width) : fpRead f false x =
    if expField f x = f.expOnes then
      if fraction f x = 0 then .inf (negative f x) else .nan (decide (fraction f x < 2 ^ (f.fbits - 1)))
    else if expField f x = 0 then
      if fraction f x = 0 then .zero (negative f x) else .fin (negative f x) (fraction f x) (1 - f.bias - f.fbits)
    else .fin (negative f x) (2 ^ f.fbits + fraction f x) (expField f x - f.bias - f.fbits) := by
  simp only [fpRead, Nat.mod_eq_of_lt h, Bool.false_eq_true, or_false]
  rfl

/-! ## Rounding a value that stands on its last place -/

/-- A value whose unit is the last place of its result is placed as it is. -/
theorem fpRound_of_ulp {f : FpFmt} {m : Nat} {e : Int} (h : ulpExp f (leadExp m e) = e) (fzo neg : Bool) :
    fpRound f fzo neg m e false = fpDeliver f fzo neg (fpPlace f m e) false := by
  simp [fpRound, h, shiftRne]

/-- An exact magnitude below the infinity's is delivered without a flag. -/
theorem fpDeliver_exact {f : FpFmt} {mag : Nat} (h : mag < f.expOnes * 2 ^ f.fbits) (neg : Bool) :
    fpDeliver f false neg mag false = ⟨fpSign f neg + mag, 0⟩ := by
  simp [fpDeliver, Nat.not_le.2 h]

/-- A subnormal pattern stands on the format's smallest place. -/
theorem ulpExp_subnormal {f : FpFmt} {fr : Nat} (h : fr < 2 ^ f.fbits) (h0 : fr ≠ 0) :
    ulpExp f (leadExp fr (1 - f.bias - f.fbits)) = 1 - f.bias - f.fbits := by
  have hlog : Nat.log2 fr < f.fbits := (Nat.log2_lt h0).2 h
  rw [ulpExp, leadExp]
  omega

/-- A normal pattern has its leading bit above its fraction. -/
theorem ulpExp_normal {f : FpFmt} {fr ex : Nat} (h : fr < 2 ^ f.fbits) (hex : ex ≠ 0) :
    ulpExp f (leadExp (2 ^ f.fbits + fr) (ex - f.bias - f.fbits)) = ex - f.bias - f.fbits := by
  have hlog : Nat.log2 (2 ^ f.fbits + fr) = f.fbits :=
    (Nat.log2_eq_iff (by omega)).2 ⟨by omega, by rw [Nat.pow_succ]; omega⟩
  rw [ulpExp, leadExp, hlog]
  omega

theorem fpPlace_subnormal (f : FpFmt) (fr : Nat) : fpPlace f fr (1 - f.bias - f.fbits) = fr := by
  have hexp : (1 - f.bias - f.fbits + f.fbits + f.bias - 1 : Int) = 0 := by ring
  rw [fpPlace, hexp, Int.toNat_zero, Nat.zero_mul, Nat.add_zero]

/-- The leading bit carries one into the exponent field. -/
theorem fpPlace_normal (f : FpFmt) (fr : Nat) {ex : Nat} (hex : ex ≠ 0) :
    fpPlace f (2 ^ f.fbits + fr) (ex - f.bias - f.fbits) = fr + ex * 2 ^ f.fbits := by
  have hexp : (ex - f.bias - f.fbits + f.fbits + f.bias - 1 : Int).toNat = ex - 1 := by omega
  obtain ⟨k, rfl⟩ := Nat.exists_eq_succ_of_ne_zero hex
  rw [fpPlace, hexp, Nat.succ_sub_one, Nat.succ_mul]
  omega

/-- A number's pattern is its own rounding. -/
theorem fpPut_fpRead {f : FpFmt} {x : Nat} (hx : x < 2 ^ f.width) (h : (fpRead f false x).isNaN = false) :
    fpPut f false (fpRead f false x) = ⟨x, 0⟩ := by
  have hsplit := sign_expField_fraction hx
  have hfr := fraction_lt f x
  rw [fpRead_eq hx] at h ⊢
  by_cases hones : expField f x = f.expOnes
  · -- infinities: a fraction would make it a NaN
    rw [if_pos hones] at h ⊢
    by_cases h0 : fraction f x = 0
    · rw [if_pos h0, fpPut, fpInf, ← hones]
      rw [h0, Nat.zero_add] at hsplit
      rw [hsplit]
    · rw [if_neg h0] at h
      cases h
  · rw [if_neg hones]
    by_cases hzero : expField f x = 0
    · rw [if_pos hzero]
      rw [hzero, Nat.zero_mul, Nat.add_zero] at hsplit
      by_cases h0 : fraction f x = 0
      · rw [if_pos h0, fpPut]
        rw [h0, Nat.add_zero] at hsplit
        rw [hsplit]
      · have hlt : fraction f x < f.expOnes * 2 ^ f.fbits := by
          have hpos : 1 ≤ f.expOnes := by omega
          exact lt_of_lt_of_le hfr (Nat.le_mul_of_pos_left _ hpos)
        rw [if_neg h0, fpPut, fpRound_of_ulp (ulpExp_subnormal hfr h0), fpPlace_subnormal, fpDeliver_exact hlt, hsplit]
    · have hlt : fraction f x + expField f x * 2 ^ f.fbits < f.expOnes * 2 ^ f.fbits := by
        have hle : expField f x + 1 ≤ f.expOnes := by have := expField_le f x; omega
        have := Nat.mul_le_mul_right (2 ^ f.fbits) hle
        rw [Nat.succ_mul] at this
        omega
      rw [if_neg hzero, fpPut, fpRound_of_ulp (ulpExp_normal hfr hzero), fpPlace_normal f _ hzero, fpDeliver_exact hlt, hsplit]

/-- A NaN is delivered canonical. -/
theorem fpPut_isNaN {v : Fp} (h : v.isNaN = true) (f : FpFmt) (fzo : Bool) : (fpPut f fzo v).bits = fpNaN f := by
  cases v with
  | nan _ => rfl
  | inf _ => cases h
  | zero _ => cases h
  | fin _ _ _ => cases h

/-- Settles O11: in every format, a number's pattern is its own rounding and a NaN is delivered canonical. -/
theorem fpPatternsRoundToThemselves : Obligations.FpPatternsRoundToThemselves :=
  fun f _ _ hx => ⟨fpPut_fpRead hx, fun h => fpPut_isNaN h f false⟩

end Sys2Proof.Proofs

/-!
PROOFS. The floating-point lane instructions (the statement LaneFloats): what a write of vd at the executed positions leaves in a
strip (R187), what an instruction under an FP type gives, and the copy that VCVT makes under its own type (R199).
-/
namespace Sys2Proof.Proofs

open Sys2Proof Sys2Proof.Machine Sys2Proof.Laws

/-! ## Registers of a strip -/

theorem vreg_setVreg_same (st : Strip) (r : BitVec 5) (l : List Half) : vreg (setVreg st r l) r = l := by
  simp [vreg, setVreg]

theorem vreg_setVreg_other (st : Strip) {q r : BitVec 5} (h : q ≠ r) (l : List Half) : vreg (setVreg st r l) q = vreg st q := by
  have hne : r.toNat ≠ q.toNat := fun e => h (BitVec.eq_of_toNat_eq e).symm
  simp [vreg, setVreg, Vector.getElem_set_ne _ _ hne]

theorem length_executed {st : Strip} (h : stripWf st) (g : Guard) : (executed st g).length = st.active.length := by
  cases g with
  | none => rfl
  | some k => simp [executed, h.2 k]

theorem length_blend {α : Type} {ex : List Bool} {old : List α} (h : ex.length = old.length) (new : Nat → α) :
    (blend ex new old).length = old.length := by
  simp [blend, h]

theorem getElem?_blend {α : Type} {ex : List Bool} {old : List α} {p : Nat} (h : ex.length = old.length) (hp : p < old.length)
    (new : Nat → α) : (blend ex new old)[p]? = if ex.getD p false then some (new p) else old[p]? := by
  have hex : p < ex.length := by omega
  simp only [blend, List.getElem?_map, List.zip, List.getElem?_zipWith, List.getElem?_range hp, List.getElem?_eq_getElem hex,
    List.getElem?_eq_getElem hp, List.getD_eq_getElem?_getD, Option.map_some, Option.getD_some]
  split <;> rfl

/-! ## Flags -/

/-- A flag joined over a list stands where it stood before or some member raises it. -/
theorem getLsbD_foldl_or {α : Type} (l : List α) (fl : α → Flags) (a : Flags) (b : Nat) :
    (l.foldl (fun a x => a ||| fl x) a).getLsbD b = true ↔ a.getLsbD b = true ∨ ∃ x ∈ l, (fl x).getLsbD b = true := by
  induction l generalizing a with
  | nil => simp
  | cons x r ih => simp [ih, or_assoc]

/-- The flags of the executed positions (R187). -/
theorem getLsbD_flagsOf (ex : List Bool) (fl : Nat → Flags) (b : Nat) :
    (flagsOf ex fl).getLsbD b = true ↔ ∃ p < ex.length, ex.getD p false = true ∧ (fl p).getLsbD b = true := by
  rw [flagsOf, getLsbD_foldl_or (fl := fun x : Bool × Nat => fl x.2)]
  constructor
  · rintro (h | ⟨⟨on, q⟩, hmem, hfl⟩)
    · simp at h
    · obtain ⟨hzip, hon⟩ := List.mem_filter.1 hmem
      obtain ⟨k, hk, hget⟩ := List.getElem_of_mem hzip
      obtain ⟨rfl, rfl⟩ : ex[k]'(by simp at hk; omega) = on ∧ k = q := by simpa using hget
      have hlt : k < ex.length := by simp at hk; omega
      exact ⟨k, hlt, by simpa [List.getElem?_eq_getElem hlt] using hon, hfl⟩
  · rintro ⟨p, hp, hon, hfl⟩
    refine .inr ⟨(true, p), List.mem_filter.2 ⟨?_, rfl⟩, hfl⟩
    have hget : (List.zip ex (List.range ex.length))[p]'(by simpa using hp) = (true, p) := by
      simpa [List.getElem?_eq_getElem hp] using hon
    exact hget ▸ List.getElem_mem _

/-! ## What a lane instruction gives -/

/-- An instruction that writes vd and its flags completes, whatever it says of the FP result that a shadow follows (R391). -/
theorem laneGives_laneSet {j : LaneJob} (hwf : stripWf j.strip) (s : State) (vd : BitVec 5) (g : Guard) (val : Nat → Half)
    (fl : Nat → Flags) (x : Option FpResult) :
    laneGives s j vd g val fl (.next { s with lane := some (j.next { laneSet j.strip vd g val fl with fp := x }) }) := by
  have hlen : (executed j.strip g).length = (vreg j.strip vd).length := by rw [length_executed hwf, hwf.1]
  have hvd : vreg (laneSet j.strip vd g val fl) vd = blend (executed j.strip g) val (vreg j.strip vd) := vreg_setVreg_same _ _ _
  refine ⟨_, rfl, rfl, fun r hr => vreg_setVreg_other _ hr _, ?_, fun p hp => ?_, fun b => ?_⟩
  · exact (congrArg List.length hvd).trans ((length_blend hlen val).trans (hwf.1 vd))
  · have hget : (vreg (laneSet j.strip vd g val fl) vd)[p]? =
        if (executed j.strip g).getD p false then some (val p) else (vreg j.strip vd)[p]? := by
      rw [hvd, getElem?_blend hlen (by rw [hwf.1]; exact hp)]
    exact ⟨fun hex => hget.trans (if_pos hex), fun hex => hget.trans (if_neg hex)⟩
  · have hflags := getLsbD_flagsOf (executed j.strip g) fl b
    rw [length_executed hwf] at hflags
    have hor : (j.strip.flags ||| flagsOf (executed j.strip g) fl).getLsbD b = true ↔
        j.strip.flags.getLsbD b = true ∨ (flagsOf (executed j.strip g) fl).getLsbD b = true := by
      rw [BitVec.getLsbD_or, Bool.or_eq_true]
    exact hor.trans (or_congr_right hflags)

/-- An instruction under a type that it admits leaves the strip that it makes. -/
theorem laneTyped_some {s : State} {j : LaneJob} {t : Machine.Num} {k : LaneJob → Machine.Num → Option Strip} {st : Strip}
    (hlane : s.lane = some j) (ht : numOf j.strip.vt.type = some t) (hk : k j t = some st) :
    laneTyped s k = .next { s with lane := some (j.next st) } := by
  simp [laneTyped, hlane, ht, hk]

/-- An instruction under a type that it does not take is refused (R183). -/
theorem laneTyped_none {s : State} {j : LaneJob} {t : Machine.Num} {k : LaneJob → Machine.Num → Option Strip}
    (hlane : s.lane = some j) (ht : numOf j.strip.vt.type = some t) (hk : k j t = none) : laneTyped s k = .refused .laneType := by
  simp [laneTyped, hlane, ht, hk]

section OneStrip
variable {s : State} {j : LaneJob} (hlane : s.lane = some j)

section Fp
variable (hwf : stripWf j.strip) {m : FpFmt} (ht : numOf j.strip.vt.type = some (.fp m))
include hlane hwf ht

theorem laneFp_gives (f : L3) (op : FpFmt → Bool → Fp → Fp → Fp → FRes) :
    let vt := j.strip.vt
    let r := fun p => op m vt.fzo (fpRead m vt.fzi (at_ j.strip f.vd p)) (fpRead m vt.fzi (at_ j.strip f.va p))
      (fpRead m vt.fzi (srcAt j (.fp m) f.vb p))
    laneGives s j f.vd f.guard (fun p => BitVec.ofNat 32 ((r p).bits % 2 ^ m.width)) (fun p => (r p).flags) (laneFp s f op) := by
  intro vt r
  rw [laneFp, laneTyped_some hlane ht rfl]
  exact laneGives_laneSet hwf s f.vd f.guard _ _ _

theorem laneFp1_gives (f : L2) (op : FpFmt → Bool → Nat → Half → Fp → FRes) :
    let vt := j.strip.vt
    let r := fun p => op m vt.fzo p ((vreg j.strip f.va).getD p 0) (fpRead m vt.fzi (at_ j.strip f.va p))
    laneGives s j f.vd f.guard (fun p => BitVec.ofNat 32 ((r p).bits % 2 ^ m.width)) (fun p => (r p).flags) (laneFp1 s f op) := by
  intro vt r
  rw [laneFp1, laneTyped_some hlane ht rfl]
  exact laneGives_laneSet hwf s f.vd f.guard _ _ _

theorem execVfcls_gives (f : L2) :
    laneGives s j f.vd f.guard (fun p => BitVec.ofNat 32 (fpClass m (fpRead m j.strip.vt.fzi (at_ j.strip f.va p)))) (fun _ => 0)
      (execVfcls f s) := by
  rw [execVfcls, laneTyped_some hlane ht rfl]
  exact laneGives_laneSet hwf s f.vd f.guard _ _ _

end Fp

section Integer
variable {sg : Bool} {n : Nat} (ht : numOf j.strip.vt.type = some (.int sg n))
include hlane ht

theorem laneFp_integer (f : L3) (op : FpFmt → Bool → Fp → Fp → Fp → FRes) : laneFp s f op = .refused .laneType :=
  laneTyped_none hlane ht rfl

theorem laneFp1_integer (f : L2) (op : FpFmt → Bool → Nat → Half → Fp → FRes) : laneFp1 s f op = .refused .laneType :=
  laneTyped_none hlane ht rfl

theorem execVfcls_integer (f : L2) : execVfcls f s = .refused .laneType := laneTyped_none hlane ht rfl

end Integer

/-! ## VCVT (R199) -/

/-- What VCVT gives for a container under type `t` and named type `u`. -/
def cvtResult (t u : Machine.Num) (vt : VType) (x : Nat) : FRes :=
  if u = t then (match t with | .fp m => flushSame m vt x | .int _ n => ⟨x % 2 ^ n, 0⟩) else convNum t u vt.fzi vt.fzo x

include hlane in
theorem execVcvt_gives (hwf : stripWf j.strip) {t u : Machine.Num} (ht : numOf j.strip.vt.type = some t) {f : LcvtF}
    (hu : numOf f.ty = some u) :
    laneGives s j f.vd f.guard (fun p => canonical u (cvtResult t u j.strip.vt (at_ j.strip f.va p)).bits)
      (fun p => (cvtResult t u j.strip.vt (at_ j.strip f.va p)).flags) (execVcvt f s) := by
  let st := laneSet j.strip f.vd f.guard (fun p => canonical u (cvtResult t u j.strip.vt (at_ j.strip f.va p)).bits)
    fun p => (cvtResult t u j.strip.vt (at_ j.strip f.va p)).flags
  have hrun : execVcvt f s = .next { s with lane := some (j.next
      { st with fp := if isFpNum u then some ⟨f.vd, f.ty, executed j.strip f.guard⟩ else st.fp }) } := by
    rw [execVcvt, laneTyped_some hlane ht (by rw [hu])]
    cases u <;> rfl
  rw [hrun]
  exact laneGives_laneSet hwf s f.vd f.guard _ _ _

end OneStrip

theorem readInt_mod (sg : Bool) (n x : Nat) : readInt sg n (x % 2 ^ n) = readInt sg n x := by
  simp [readInt]

theorem numOf_bits_pos {t : BitVec 5} {sg : Bool} {n : Nat} (h : numOf t = some (.int sg n)) : 1 ≤ n := by
  unfold numOf at h
  split at h <;> simp_all <;> omega

theorem readInt_unsigned (n x : Nat) : readInt false n x = ((BitVec.ofNat n x).toNat : Int) := by
  simp [readInt]

theorem readInt_signed {n : Nat} (hn : 1 ≤ n) (x : Nat) : readInt true n x = (BitVec.ofNat n x).toInt := by
  have hhalf : 2 * 2 ^ (n - 1) = 2 ^ n := by rw [← Nat.pow_succ']; congr 1; omega
  rw [BitVec.toInt_eq_toNat_cond, BitVec.toNat_ofNat]
  by_cases h : 2 ^ (n - 1) ≤ x % 2 ^ n
  · rw [if_neg (by omega)]
    simp [readInt, h]
  · rw [if_pos (by omega)]
    simp [readInt, h]

/-- A value of an integer type is what its own n-bit pattern reads as. -/
theorem ofInt_readInt {n : Nat} (hn : 1 ≤ n) (sg : Bool) (x : Nat) : BitVec.ofInt n (readInt sg n x) = BitVec.ofNat n x := by
  cases sg with
  | false => rw [readInt_unsigned, BitVec.ofInt_natCast, BitVec.ofNat_toNat, BitVec.setWidth_eq]
  | true => rw [readInt_signed hn, BitVec.ofInt_toInt]

theorem ofNat_wrapInt (n : Nat) (v : Int) : BitVec.ofNat n (wrapInt n v) = BitVec.ofInt n v := by
  apply BitVec.eq_of_toNat_eq
  have hpos : (0 : Int) < ((2 ^ n : Nat) : Int) := by exact_mod_cast Nat.two_pow_pos n
  have hlt := Int.emod_lt_of_pos v hpos
  rw [BitVec.toNat_ofNat, BitVec.toNat_ofInt, wrapInt, Nat.mod_eq_of_lt (by omega)]

/-- The container of an integer read from its pattern (R185). -/
theorem canonical_int {n : Nat} (hn : 1 ≤ n) (sg : Bool) (x : Nat) :
    canonical (.int sg n) (x % 2 ^ n) = laneInteger sg n (readInt sg n x) := by
  rw [canonical, readInt_mod, ofNat_wrapInt, laneInteger, ofInt_readInt hn]
  cases sg with
  | false => rw [readInt_unsigned]; rfl
  | true => rw [readInt_signed hn]; rfl

/-- Whether a value is below the normal numbers of a format. -/
def isSubnormal (m : FpFmt) (v : Fp) : Bool := match v with | .fin _ sig e => decide (leadExp sig e < 1 - m.bias) | _ => false

/-- Whether a value is finite, not zero and negative. -/
def isNegFin (v : Fp) : Bool := match v with | .fin neg _ _ => neg | _ => false

/-- The copy of an FP pattern: a subnormal is flushed where FZI or FZO is set, and a signalling NaN sets NV (R34, R35). -/
theorem flushSame_eq (m : FpFmt) (vt : VType) (x : Nat) :
    flushSame m vt x = ⟨if isSubnormal m (fpRead m false x) && (vt.fzi || vt.fzo) then fpSign m (isNegFin (fpRead m false x))
        else x % 2 ^ m.width,
      if isSubnormal m (fpRead m false x) && !vt.fzi && vt.fzo then flagUF ||| flagNX
        else if fpRead m false x = .nan true then flagNV else 0⟩ := by
  unfold flushSame
  cases hv : fpRead m false x with
  | inf neg => simp [isSubnormal]
  | zero neg => simp [isSubnormal]
  | nan signalling => cases signalling <;> simp [isSubnormal]
  | fin neg sig e =>
    by_cases hsub : leadExp sig e < 1 - m.bias
    · cases vt.fzi <;> cases vt.fzo <;> simp [isSubnormal, isNegFin, hsub]
    · simp [isSubnormal, hsub]

theorem fpSign_lt (m : FpFmt) (neg : Bool) : fpSign m neg < 2 ^ m.width := by
  have hlt : 2 ^ (m.ebits + m.fbits) < 2 ^ m.width := Nat.pow_lt_pow_right (by decide) (by rw [FpFmt.width]; omega)
  cases neg with
  | false => exact Nat.two_pow_pos _
  | true => exact hlt

/-- The container that a copied FP pattern leaves. -/
theorem canonical_flushSame (m : FpFmt) (vt : VType) (x : Nat) :
    canonical (.fp m) (flushSame m vt x).bits = BitVec.ofNat 32
      (if isSubnormal m (fpRead m false x) && (vt.fzi || vt.fzo) then fpSign m (isNegFin (fpRead m false x)) else x % 2 ^ m.width) := by
  rw [canonical, flushSame_eq, Nat.mod_eq_of_lt]
  dsimp only
  split
  · exact fpSign_lt _ _
  · exact Nat.mod_lt _ (Nat.two_pow_pos _)

/-! ## The statement -/

/-- Settles O46: each instruction writes at the executed positions what its operation delivers there; VEXP2 and VLOG2 with the free
choice of the machine. -/
theorem laneFloats : Obligations.LaneFloats := by
  intro s j hlane hwf vt
  refine ⟨fun m ht => ⟨fun f => ?three, fun f => ?two⟩, fun t u f ht hu => ?convert, fun sg n ht f h => ?refused⟩
  case three =>
    simp only [List.forall_mem_cons, List.not_mem_nil, false_imp_iff, implies_true, and_true]
    exact ⟨laneFp_gives hlane hwf ht f fun m z _ a b => fpAdd m z a b, laneFp_gives hlane hwf ht f fun m z _ a b => fpAdd m z a b.neg,
      laneFp_gives hlane hwf ht f fun m z _ a b => fpMul m z a b, laneFp_gives hlane hwf ht f fun m z d a b => fpFma m z d a b,
      laneFp_gives hlane hwf ht f fun m z _ a b => fpMinMax m z false a b,
      laneFp_gives hlane hwf ht f fun m z _ a b => fpMinMax m z true a b⟩
  case two =>
    let up := fun p => Config.faithfulUp s.free p ((vreg j.strip f.va).getD p 0)
    exact ⟨laneFp1_gives hlane hwf ht f fun m z _ _ a => fpRecip m z a, laneFp1_gives hlane hwf ht f fun m z _ _ a => fpRsqrt m z a,
      ⟨up, laneFp1_gives (s := { s with free := s.free + 1 }) hlane hwf ht f fun m z p x a => fpExp2 m z (Config.faithfulUp s.free p x) a⟩,
      ⟨up, laneFp1_gives (s := { s with free := s.free + 1 }) hlane hwf ht f fun m z p x a => fpLog2 m z (Config.faithfulUp s.free p x) a⟩,
      execVfcls_gives hlane hwf ht f⟩
  case convert =>
    have hgives := execVcvt_gives hlane hwf ht hu
    refine ⟨fun hne => ?other, fun sg n htn hun => ?integer, fun m htm hum => ?float⟩
    case other =>
      simp only [cvtResult, if_neg (Ne.symm hne)] at hgives
      exact hgives
    case integer =>
      subst htn hun
      simp only [cvtResult, if_true, canonical_int (numOf_bits_pos ht)] at hgives
      exact hgives
    case float =>
      subst htm hum
      simp only [cvtResult, if_true, canonical_flushSame] at hgives
      simp only [flushSame_eq] at hgives
      exact hgives
  case refused =>
    simp only [List.forall_mem_cons, List.not_mem_nil, false_imp_iff, implies_true, and_true]
    have hthree := fun op => laneFp_integer hlane ht f op
    have htwo := fun op => laneFp1_integer hlane ht h op
    have hfree := fun op => laneFp1_integer (s := { s with free := s.free + 1 }) hlane ht h op
    exact ⟨(hthree _ : execVfadd f s = _), (hthree _ : execVfsub f s = _), (hthree _ : execVfmul f s = _),
      (hthree _ : execVfma f s = _), (hthree _ : execVfmin f s = _), (hthree _ : execVfmax f s = _),
      (htwo _ : execVrcp h s = _), (htwo _ : execVrsq h s = _), (hfree _ : execVexp2 h s = _), (hfree _ : execVlog2 h s = _),
      execVfcls_integer hlane ht h⟩

end Sys2Proof.Proofs

/-!
PROOFS. Reductions, scans and lane functions over a tile (the statement VectorInstructionsWrite): the rows of a tile as lists, the
running result of a row (R177), the start of the lane engine (R168, R169) and the end of its last strip (R170).
-/
namespace Sys2Proof.Proofs

open Sys2Proof Sys2Proof.Machine Sys2Proof.Laws

/-! ## Lists in rows -/

theorem piecesOf_map_range {α : Type} {n : Nat} (hn : 1 ≤ n) (m : Nat) (x : Nat → α) :
    piecesOf n ((List.range (m * n)).map x) m = (List.range m).map fun i => (List.range n).map fun c => x (i * n + c) := by
  induction m generalizing x with
  | zero => rfl
  | succ m ih =>
    have hsplit : (List.range ((m + 1) * n)).map x = (List.range n).map x ++ (List.range (m * n)).map fun k => x (n + k) := by
      rw [Nat.succ_mul, Nat.add_comm, List.range_add, List.map_append, List.map_map]
      rfl
    have hne : ((List.range n).map x ++ (List.range (m * n)).map fun k => x (n + k)).isEmpty = false := by
      obtain ⟨k, rfl⟩ := Nat.exists_eq_add_of_le hn
      simp [List.range_add]
    rw [hsplit, piecesOf, hne, if_neg (by decide), List.take_left' (by simp), List.drop_left' (by simp), ih, List.range_succ_eq_map,
      List.map_cons, List.map_map]
    simp only [Function.comp_def, Nat.zero_mul, Nat.zero_add, Nat.succ_mul, List.cons.injEq, true_and]
    exact List.map_congr_left fun i _ => List.map_congr_left fun c _ => congrArg x (by omega)

theorem rowsOf_map_range {α : Type} {g : ShapeRec} (hn : 1 ≤ g.cols.toNat) (x : Nat → α) :
    rowsOf g ((List.range g.count).map x) =
      (List.range g.rows.toNat).map fun i => (List.range g.cols.toNat).map fun c => x (i * g.cols.toNat + c) :=
  piecesOf_map_range hn _ x

/-- Rows one behind the other are the elements in element order. -/
theorem flatMap_rows {α : Type} {n : Nat} (m : Nat) (g : Nat → Nat → α) :
    ((List.range m).flatMap fun i => (List.range n).map (g i)) = (List.range (m * n)).map fun e => g (e / n) (e % n) := by
  induction m with
  | zero => simp
  | succ m ih =>
    rw [List.range_succ, List.flatMap_append, ih, Nat.succ_mul, List.range_add, List.map_append, List.map_map]
    congr 1
    simp only [List.flatMap_cons, List.flatMap_nil, List.append_nil]
    refine List.map_congr_left fun c hc => ?_
    have hlt := List.mem_range.1 hc
    have hdiv : (m * n + c) / n = m := by rw [Nat.mul_comm, Nat.mul_add_div (by omega), Nat.div_eq_of_lt hlt, Nat.add_zero]
    have hmod : (m * n + c) % n = c := by rw [Nat.mul_comm, Nat.mul_add_mod, Nat.mod_eq_of_lt hlt]
    rw [Function.comp_apply, hdiv, hmod]

theorem zip_map_eq_map_range {α β γ : Type} {N : Nat} {a : List α} {b : List γ} (ha : a.length = N) (hb : b.length = N) (w : α → β)
    (x : α) (y : γ) : List.zip (a.map w) b = (List.range N).map fun i => (w (a.getD i x), b.getD i y) := by
  apply List.ext_getElem
  · simp [ha, hb]
  · intro i hi _
    have hia : i < a.length := by simp at hi; omega
    have hib : i < b.length := by simp at hi; omega
    simp [List.getElem?_eq_getElem hia, List.getElem?_eq_getElem hib]

/-! ## TSCAN and REDUCE (R175 to R177) -/

/-- The scan of a row is, at each position, the running result of the selected values up to it. -/
theorem scanRow_map_range (op : RedOp) (t : BitVec 5) (n : Nat) (run : Half) (y : Nat → Half × Bool) :
    scanRow op t run ((List.range n).map y) = (List.range n).map fun c =>
      ((List.range (c + 1)).filter fun k => (y k).2).foldl (fun r k => redApply op t r (y k).1) run := by
  induction n generalizing run y with
  | zero => rfl
  | succ n ih =>
    rw [List.range_succ_eq_map, List.map_cons, List.map_map, scanRow, ih, List.map_cons, List.map_map]
    congr 1
    · cases hon : (y 0).2 <;> simp [hon]
    · refine List.map_congr_left fun c _ => ?_
      rw [Function.comp_apply, List.range_succ_eq_map (n := c + 1), List.filter_cons, List.filter_map]
      cases hon : (y 0).2 <;> simp [List.foldl_map, Function.comp_def]

theorem poisonActive_of_unpoisoned {b : Block} (h : ∀ v ∈ b.versions, v.poison = []) (f : Flight) (mask : List Bool)
    (out : Nat → Nat) : poisonActive b f mask out = none := by
  have hbad : ∀ o, badOf b f o = [] := fun o => badOf_of_unpoisoned (fun v hv => ?_) f
  · rw [poisonActive, hbad, hbad]
    rfl
  · cases o with
    | none => cases hv
    | some i => exact h v (findVersion_mem hv)

section Sources
variable {s : State} {f : Flight} {a d : Version} (hp : ∀ v ∈ s.me.versions, v.poison = []) (hta : getVersion s.me f.ta = some a)
  (hgd : getVersion s.me f.dst = some d) (hlen : a.elems.length = a.geom.count)
  (hmask : (maskOf s.me f.tc a.geom.count).length = a.geom.count) (hn : 1 ≤ a.geom.cols.toNat)
include hp hta hgd hlen hmask hn

theorem runScan_eq (op : RedOp) :
    let x := fun e => (widen a.geom.type d.geom.type (a.elems.getD e 0), (maskOf s.me f.tc a.geom.count).getD e false)
    runScan s f op = computeDone s f none ((List.range a.geom.count).map fun e =>
      ((List.range (e % a.geom.cols.toNat + 1)).filter fun k => (x (e / a.geom.cols.toNat * a.geom.cols.toNat + k)).2).foldl
        (fun r k => redApply op d.geom.type r (x (e / a.geom.cols.toNat * a.geom.cols.toNat + k)).1) (redIdentity op d.geom.type)) [] := by
  intro x
  simp only [runScan, hta, hgd, poisonActive_of_unpoisoned hp, zip_map_eq_map_range hlen hmask (widen a.geom.type d.geom.type) 0 false,
    rowsOf_map_range hn, List.flatMap_map, scanRow_map_range, flatMap_rows]
  rfl

theorem runReduce_eq (op : RedOp) :
    let x := fun e => (widen a.geom.type d.geom.type (a.elems.getD e 0), (maskOf s.me f.tc a.geom.count).getD e false)
    runReduce s f op a.geom.type a.elems = computeDone s f none
      (if d.geom.rows = 1 ∧ d.geom.cols = 1 then [reduceList op d.geom.type ((List.range a.geom.count).map x)]
       else (List.range a.geom.rows.toNat).map fun i => reduceList op d.geom.type
        ((List.range a.geom.cols.toNat).map fun c => x (i * a.geom.cols.toNat + c))) [] := by
  intro x
  simp only [runReduce, hta, hgd, poisonActive_of_unpoisoned hp, reduceTo,
    zip_map_eq_map_range hlen hmask (widen a.geom.type d.geom.type) 0 false, rowsOf_map_range hn, List.map_map]
  rfl

end Sources

/-! ## MAP: the start of the lane engine (R168, R169) -/

/-- The job of an instruction before its first strip. -/
def newJob (s : State) (f : Flight) (h : BitVec 32) (code : List (BitVec 32)) (e g : Nat) (ins : List Version) (mask : List Bool) :
    LaneJob :=
  { slot := s.me.slot, flight := f.id, header := h, code := code
    inputs := if 1 < g then (match ins with | v :: _ => (List.range g).map fun i => segOf (laneInput v (laneType h).type) g i e | [] => [])
      else ins.map fun v => laneInput v (laneType h).type
    active := mask
    bad := (List.range e).filter fun j => ins.any fun v => v.poison.any fun x => x / g == j && decide (x < g * e)
    consts := f.consts, todo := List.range e, out := [], strip := emptyStrip 0 (laneType h) code }

theorem startLane_fits {s : State} {h : BitVec 32} (hfit : laneFits s (slotCore s.me.slot) h = true) (f : Flight)
    (code : List (BitVec 32)) (e g : Nat) (ins : List Version) (mask : List Bool) :
    startLane s f h code e g ins mask =
      { bringLane (setFlight s { f with started := true }) (slotCore s.me.slot) with
        lane := some (nextStrip s (slotCore s.me.slot) (newJob s f h code e g ins mask)) } := by
  simp only [startLane, hfit, if_true]
  rfl

/-- A strip takes its elements from those that are still to come. -/
theorem mem_todo_nextStrip (s : State) (core : BitVec 8) (j : LaneJob) {e : Nat} (he : e ∈ j.todo) :
    e ∈ (nextStrip s core j).todo ↔ some e ∉ (nextStrip s core j).strip.elems := by
  simp [nextStrip, he, -List.map_take]

theorem runMap_eq {s : State} {f : Flight} {c : MapF} {d : Version} {h : BitVec 32} {code : List (BitVec 32)}
    (hgd : getVersion s.me f.dst = some d) (hp : ∀ v ∈ s.me.versions, v.poison = [])
    (hidle : laneOf s (slotCore s.me.slot) = none) (hpres : lanePresent s (slotCore s.me.slot) s.me.kernel c.imm.toNat = true)
    (hfn : (getKernel s s.me.kernel).bind (fun k => laneFn k c.imm.toNat) = some (h, code)) :
    runMap s f c = startLane s f h code d.geom.count (c.seg.toNat + 1)
      (([f.ta, f.tb, f.tc].take c.nin.toNat).filterMap (getVersion s.me))
      (if c.me then maskOf s.me f.tc d.geom.count else List.replicate d.geom.count true) := by
  have hbad : (if c.me then Machine.minOf (badOf s.me f f.tc) else none) = none := by
    rw [badOf_of_unpoisoned (fun v hv => ?_) f]
    · simp [Machine.minOf]
    · cases htc : f.tc with
      | none => rw [htc] at hv; cases hv
      | some i => rw [htc] at hv; exact hp v (findVersion_mem hv)
  simp only [runMap, hgd, hbad, runLane, hidle, Option.isSome_none, Bool.false_eq_true, if_false, hpres, Bool.not_true, hfn]

/-- With SEG = g, input i of output e is element g * e + i of the first source. -/
theorem newJob_segment (s : State) (f : Flight) (h : BitVec 32) (code : List (BitVec 32)) {n g i e : Nat} (hg : 1 < g) (hi : i < g)
    (he : e < n) (v : Version) (l : List Version) (mask : List Bool) :
    (((newJob s f h code n g (v :: l) mask).inputs).getD i []).getD e 0 = (laneInput v (laneType h).type).getD (g * e + i) 0 := by
  simp [newJob, hg, segOf, hi, he]

/-! ## MAP: the end of its last strip (R170, R190) -/

/-- A last strip without poison ends the job, and its flags join LSTAT. -/
theorem stripBoundary_last {s : State} {j : LaneJob} (hlane : s.lane = some j) (hslot : j.slot = s.me.slot)
    (hret : j.strip.ret.isSome = true) (htodo : j.todo = []) (hbad : j.bad = []) :
    stripBoundary s = endLane { s with me := { s.me with lstat := s.me.lstat ||| j.strip.flags } } j := by
  have hnone : j.strip.ret.isNone = false := by simpa using hret
  simp [stripBoundary, hlane, hnone, hslot, switchTo_me, htodo, hbad]

/-- The lane engine is left; VTYPE stems from the latest instruction (R191). -/
def leaveLane (s : State) (f : Flight) (vt : VType) : State :=
  { s with
    lane := none
    me := { s.me with
      vtype := if s.me.vtypeOf ≤ f.id then vt.code else s.me.vtype
      vtypeOf := if s.me.vtypeOf ≤ f.id then f.id else s.me.vtypeOf } }

/-- The elements that a MAP writes: what VRET delivered, else the old ones. -/
def mapElems (j : LaneJob) (old : List Half) : List Half :=
  (List.range j.active.length).map fun e => (lookupOut j.out e).getD (old.getD e 0)

theorem mapRest_eq (b : Block) (f : Flight) (e : Nat) : mapRest b f e = (addend b f).getD e 0 := by
  unfold mapRest addend
  cases getVersion b f.old <;> simp

theorem endLane_map {s : State} {j : LaneJob} {f : Flight} {c : MapF} (hf : findFlight s.me j.flight = some f) (hins : f.ins = .map c) :
    endLane s j = setVersion (computeDone (leaveLane s f j.strip.vt) f none (mapElems j (addend s.me f)) [])
      f.dst fun v => { v with poison := (poisonOf s.me f.old).filter fun e => (lookupOut j.out e).isNone } := by
  have hleave : (if s.me.vtypeOf ≤ f.id
      then { s with lane := none, me := { s.me with vtype := j.strip.vt.code, vtypeOf := f.id } }
      else { s with lane := none }) = leaveLane s f j.strip.vt := by
    unfold leaveLane
    split <;> rfl
  have helems : ((List.range j.active.length).map fun e => (lookupOut j.out e).getD (mapRest (leaveLane s f j.strip.vt).me f e)) =
      mapElems j (addend s.me f) := by
    simp only [mapElems, mapRest_eq]
    rfl
  simp only [endLane, hf, hins, hleave, helems]
  rfl

/-- The end of a MAP writes its version and nothing else of the block but VTYPE. -/
theorem endLane_map_performed {s : State} {j : LaneJob} {f : Flight} {c : MapF} {d : Version} (hid : f.id = j.flight)
    (hf : findFlight s.me f.id = some f) (hins : f.ins = .map c) (hdst : f.dst = some d.id) (hd : findVersion s.me d.id = some d)
    (hclean : poisonOf s.me f.old = []) :
    (∃ g, findFlight (endLane s j).me f.id = some g ∧ g.st = .performed) ∧ (endLane s j).lane = none ∧
      (endLane s j).me.lstat = s.me.lstat ∧
      findVersion (endLane s j).me d.id = some { d with scales := [], poison := [], elems := mapElems j (addend s.me f) } ∧
      (∀ i, i ≠ d.id → findVersion (endLane s j).me i = findVersion s.me i) ∧ (endLane s j).mem = s.mem ∧
      (endLane s j).me.sregs = s.me.sregs ∧ (endLane s j).me.names = s.me.names := by
  have haq : Instr.aqBit f.ins = false := by rw [hins]; rfl
  let u := computeDone (leaveLane s f j.strip.vt) f none (mapElems j (addend s.me f)) []
  have hrun : endLane s j = setVersion u (some d.id) fun v => { v with poison := [] } := by
    rw [endLane_map (hid ▸ hf) hins, hclean, hdst]
    rfl
  obtain ⟨hperf, hver, hother, hmem, _, hsregs, hnames, hlstat⟩ :=
    computeDone_performedWith (s := leaveLane s f j.strip.vt) haq hf hdst hd (mapElems j (addend s.me f)) []
  have hlane : u.lane = none := by
    have hdone : u = flightDone (setVersion (leaveLane s f j.strip.vt) f.dst (withContents (mapElems j (addend s.me f)) [])) f := rfl
    rw [hdone, flightDone_plain _ f haq, hdst]
    rfl
  rw [hrun]
  refine ⟨hperf, hlane, hlstat, ?_, fun i hi => ?_, hmem, hsregs, hnames⟩
  · exact findVersion_modVersion_same hver (g := fun v => { v with poison := [] }) fun _ => rfl
  · exact (findVersion_modVersion_other u.me hi (g := fun v => { v with poison := [] }) fun _ => rfl).trans (hother i hi)

/-! ## The statement -/

/-- Settles O35: TSCAN and REDUCE by the equations of their runs, MAP by the job it starts and by the end of its last strip. -/
theorem vectorInstructionsWrite : Obligations.VectorInstructionsWrite := by
  intro s f d _ _ _ hf hdst hd hp core
  have hgd : getVersion s.me f.dst = some d := by rw [hdst]; exact hd
  refine ⟨?whole, ?start, ?last⟩
  case whole =>
    intro a hta ha hlen mask n x hmask hn
    have hga : getVersion s.me f.ta = some a := by rw [hta]; exact ha
    refine ⟨fun c hins => ?scan, fun c hins hpf => ?reduce⟩
    case scan =>
      have hrun : performFlight s f = runScan s f c.op := by simp only [performFlight, hins]
      rw [hrun, runScan_eq hp hga hgd hlen hmask hn]
      exact computeDone_performedWith (by rw [hins]; rfl) hf hdst hd _ _
    case reduce =>
      have hrun : performFlight s f = runReduce s f c.op a.geom.type a.elems := by
        simp only [performFlight, hins, runRed, hga, hpf, Bool.false_eq_true, if_false]
      rw [hrun, runReduce_eq hp hga hgd hlen hmask hn]
      exact computeDone_performedWith (by rw [hins]; rfl) hf hdst hd _ _
  case start =>
    intro c h code hins hidle hpres hfn hfit t ins
    have hrun : t = { bringLane (setFlight s { f with started := true }) core with
        lane := some (nextStrip s core (newJob s f h code d.geom.count (c.seg.toNat + 1) ins
          (if c.me then maskOf s.me f.tc d.geom.count else List.replicate d.geom.count true))) } := by
      have hmap : t = runMap s f c := by simp only [t, performFlight, hins]
      rw [hmap, runMap_eq hgd hp hidle hpres hfn, startLane_fits hfit]
    rw [hrun]
    refine ⟨_, rfl, rfl, rfl, rfl, rfl, rfl, rfl, rfl, fun hseg => ?_, fun v l hseg hins' i hi e he => ?_,
      fun e he => mem_todo_nextStrip s core _ (List.mem_range.2 he), rfl, rfl, rfl, rfl⟩
    · simp [nextStrip, newJob, hseg]
    · have hpos : 1 < c.seg.toNat + 1 := by
        have : c.seg.toNat ≠ 0 := fun h0 => hseg (BitVec.eq_of_toNat_eq h0)
        omega
      rw [hins']
      exact newJob_segment s f h code hpos (by omega) he v l (if c.me then maskOf s.me f.tc d.geom.count else List.replicate d.geom.count true)
  case last =>
    intro c j hins hlane hslot hfl hret htodo hbad t old
    have hclean : poisonOf s.me f.old = [] := by
      unfold poisonOf
      split
      · next v hv =>
        obtain ⟨i, _, hi⟩ := Option.bind_eq_some_iff.1 hv
        exact hp v (findVersion_mem hi)
      · rfl
    have hrun : t = endLane { s with me := { s.me with lstat := s.me.lstat ||| j.strip.flags } } j :=
      stripBoundary_last hlane hslot hret htodo hbad
    rw [hrun]
    exact endLane_map_performed (s := { s with me := { s.me with lstat := s.me.lstat ||| j.strip.flags } }) hfl.symm hf hins hdst hd
      hclean

end Sys2Proof.Proofs

/-!
PROOFS. The matrix instructions (the statement MatrixInstructionsWrite): the output as a grid of elements, each by the loop of R52, for
dense operands (R157, R160), for a region in memory (R161) and for sparse structures (R221, R228).
-/
namespace Sys2Proof.Proofs

open Sys2Proof Sys2Proof.Machine Sys2Proof.Laws

/-! ## Lists by their elements -/

theorem eq_map_range {α : Type} {l : List α} {N : Nat} (h : l.length = N) (x : α) : l = (List.range N).map fun i => l.getD i x := by
  apply List.ext_getElem
  · simp [h]
  · intro i hi _
    simp [List.getElem?_eq_getElem hi]

theorem getD_map_range {α : Type} {N i : Nat} (h : i < N) (g : Nat → α) (x : α) : ((List.range N).map g).getD i x = g i := by
  simp [h]

theorem zip_map_range {α : Type} (N : Nat) (g : Nat → α) :
    List.zip ((List.range N).map g) (List.range ((List.range N).map g).length) = (List.range N).map fun i => (g i, i) := by
  rw [List.length_map, List.length_range]
  apply List.ext_getElem <;> simp

/-! ## The output of a matrix instruction -/

/-- The elements of an m × n tile in element order. -/
def grid (m n : Nat) (g : Nat → Nat → Half) : List Half := (List.range m).flatMap fun i => (List.range n).map (g i)

theorem grid_eq (m n : Nat) (g : Nat → Nat → Half) : grid m n g = (List.range (m * n)).map fun e => g (e / n) (e % n) :=
  flatMap_rows m g

@[simp] theorem length_grid (m n : Nat) (g : Nat → Nat → Half) : (grid m n g).length = m * n := by simp [grid_eq]

theorem getD_grid {m n i j : Nat} (hi : i < m) (hj : j < n) (g : Nat → Nat → Half) : (grid m n g).getD (i * n + j) 0 = g i j := by
  have hlt : i * n + j < m * n := by
    calc i * n + j < i * n + n := by omega
      _ = (i + 1) * n := (Nat.succ_mul i n).symm
      _ ≤ m * n := Nat.mul_le_mul_right n hi
  rw [grid_eq, getD_map_range hlt, Nat.mul_comm i n, Nat.mul_add_div (by omega), Nat.mul_add_mod, Nat.div_eq_of_lt hj,
    Nat.mod_eq_of_lt hj, Nat.add_zero]

/-- A performed instruction whose elements are a grid gives each of them. -/
theorem gives_of_grid {s t : State} {f : Flight} {d : Version} {m n : Nat} {g : Nat → Nat → Half}
    (h : performedWith s t f d (grid m n g) []) {val : Nat → Nat → Half} (hval : ∀ i < m, ∀ j < n, g i j = val i j) :
    ∃ e, performedWith s t f d e [] ∧ e.length = m * n ∧ ∀ i < m, ∀ j < n, e.getD (i * n + j) 0 = val i j :=
  ⟨grid m n g, h, length_grid m n g, fun i hi j hj => (getD_grid hi hj g).trans (hval i hi j hj)⟩

/-! ## The loop of R52 -/

/-- The k of a chunk are 16 consecutive ones. -/
theorem filter_chunk (k c : Nat) : (List.range k).filter (fun x => x / 16 == c) = ((List.range k).drop (16 * c)).take 16 := by
  have hsplit : List.range k = (List.range k).take (16 * c) ++
      (((List.range k).drop (16 * c)).take 16 ++ ((List.range k).drop (16 * c)).drop 16) := by
    rw [List.take_append_drop, List.take_append_drop]
  have hmem : ∀ a x, x ∈ (List.range k).drop a → a ≤ x := by
    intro a x hx
    obtain ⟨i, hi, rfl⟩ := List.getElem_of_mem hx
    simp
  have hbefore : ((List.range k).take (16 * c)).filter (fun x => x / 16 == c) = [] := by
    rw [List.filter_eq_nil_iff]
    intro x hx
    rw [List.take_range, List.mem_range] at hx
    simp only [beq_iff_eq]
    omega
  have hbehind : (((List.range k).drop (16 * c)).drop 16).filter (fun x => x / 16 == c) = [] := by
    rw [List.filter_eq_nil_iff, List.drop_drop]
    intro x hx
    have := hmem _ _ hx
    simp only [beq_iff_eq]
    omega
  have hin : (((List.range k).drop (16 * c)).take 16).filter (fun x => x / 16 == c) = ((List.range k).drop (16 * c)).take 16 := by
    rw [List.filter_eq_self]
    intro x hx
    obtain ⟨i, hi, rfl⟩ := List.getElem_of_mem hx
    have hi16 : i < 16 := by simp at hi; omega
    simp only [List.getElem_take, List.getElem_drop, List.getElem_range, beq_iff_eq]
    omega
  conv_lhs => rw [hsplit, List.filter_append, List.filter_append, hbefore, hbehind, hin]
  rw [List.nil_append, List.append_nil]

/-- Pieces of 16 from the c-th on. -/
theorem piecesOf_chunks {α : Type} (l : List α) (N c : Nat) {fuel : Nat} (hN : (l.length + 15) / 16 = c + N) (hf : N ≤ fuel) :
    piecesOf 16 (l.drop (16 * c)) fuel = (List.range' c N).map fun c => (l.drop (16 * c)).take 16 := by
  induction N generalizing c fuel with
  | zero =>
    have hnil : l.drop (16 * c) = [] := List.drop_eq_nil_of_le (by omega)
    cases fuel <;> simp [piecesOf, hnil]
  | succ N ih =>
    obtain ⟨fuel, rfl⟩ := Nat.exists_eq_add_of_le' (Nat.le_of_lt_succ (Nat.lt_succ_of_le hf) |>.trans' (Nat.succ_le_succ (Nat.zero_le N)))
    have hne : (l.drop (16 * c)).isEmpty = false := by
      rw [List.isEmpty_eq_false_iff, ne_eq, List.drop_eq_nil_iff]
      omega
    rw [piecesOf, hne, if_neg (by decide), List.drop_drop, List.range'_succ, List.map_cons, show 16 * c + 16 = 16 * (c + 1) by ring,
      ih (c + 1) (by omega) (by omega)]

/-- The chunks of a dense row of products are those of its k. -/
theorem chunkSum_map_range (k acc : Nat) (p : Nat → Fp) :
    chunkSum acc ((List.range k).map p) = chunkLoop k acc ((List.range k).map fun x => (x, p x)) := by
  have hpieces := piecesOf_chunks ((List.range k).map p) ((k + 15) / 16) 0 (fuel := k / 16 + 1) (by simp) (by omega)
  rw [Nat.mul_zero, List.drop_zero, ← List.range_eq_range'] at hpieces
  rw [chunkSum, chunkLoop, List.length_map, List.length_range, hpieces, List.foldl_map]
  refine List.foldl_ext _ _ _ fun a c hc => ?_
  have hlt : 16 * c < k := by have := List.mem_range.1 hc; omega
  have hchunk : ((List.range k).map fun x => (x, p x)).filter (fun q => q.1 / 16 == c) =
      (((List.range k).drop (16 * c)).take 16).map fun x => (x, p x) := by
    rw [List.filter_map, ← filter_chunk]
    rfl
  have hne : ((((List.range k).drop (16 * c)).take 16).map fun x => (x, p x)).isEmpty = false := by
    simp [List.isEmpty_eq_false_iff, hlt]
  rw [hchunk]
  simp only [hne, Bool.false_eq_true, if_false, List.map_map, ← List.map_drop, ← List.map_take]
  rfl

/-- The chunks of a sparse row leave the accumulator where they hold no term. -/
theorem sparseSum_chunksOf (k acc : Nat) (l : List (Nat × Fp × Fp)) :
    sparseSum acc (chunksOf k l) = chunkLoop k acc (l.map fun p => (p.1, (fpMulExact p.2.1 p.2.2).1)) := by
  simp only [sparseSum, chunksOf, chunkLoop, List.foldl_map, List.filter_map, List.isEmpty_map, List.map_map]
  rfl

/-! ## Dense operands (R157, R160, R163) -/

theorem products_map_range (k : Nat) (a b : Nat → Fp) :
    products ((List.range k).map a) ((List.range k).map b) = (List.range k).map fun x => (fpMulExact (a x) (b x)).1 := by
  simp [products, List.zipWith_map]

theorem matMul_map_range (m n k : Nat) (av wv : Nat → Nat → Fp) (old : List Half) :
    matMul ((List.range m).map fun i => (List.range k).map (av i)) ((List.range n).map fun j => (List.range k).map fun x => wv x j) old =
      grid m n fun i j => BitVec.ofNat 32 (chunkLoop k (old.getD (i * n + j) 0).toNat
        ((List.range k).map fun x => (x, (fpMulExact (av i x) (wv x j)).1))) := by
  have hcols : ((List.range n).map fun j => (List.range k).map fun x => wv x j).length = n := by simp
  have hzip := zip_map_range n fun j => (List.range k).map fun x => wv x j
  rw [hcols] at hzip
  simp only [matMul, hcols, zip_map_range, hzip, List.flatMap_map, List.map_map, Function.comp_def, products_map_range, chunkSum_map_range]
  rfl

/-- The value of an element of a version: an SP2 weight carries the scale of its column (R40). -/
def valueAt (v : Version) (e : Nat) : Fp :=
  if v.geom.type = 11 then sp2Weight ((v.elems.getD e 0).toNat % 256) (v.scales.getD (e % v.geom.cols.toNat) 0).toNat
  else fpOfTile v.geom.type (v.elems.getD e 0).toNat

theorem versionValues_eq {v : Version} (h : v.elems.length = v.geom.count) :
    versionValues v = (List.range v.geom.count).map (valueAt v) := by
  have helems := eq_map_range h (0 : Half)
  unfold versionValues valueAt
  split
  · have hzip := zip_map_range v.geom.count fun e => v.elems.getD e 0
    rw [← helems] at hzip
    rw [hzip, List.map_map]
    rfl
  · conv_lhs => rw [helems, List.map_map]
    rfl

theorem rowsOf_versionValues {v : Version} (h : v.elems.length = v.geom.count) (hn : 1 ≤ v.geom.cols.toNat) :
    rowsOf v.geom (versionValues v) = (List.range v.geom.rows.toNat).map fun i =>
      (List.range v.geom.cols.toNat).map fun c => valueAt v (i * v.geom.cols.toNat + c) := by
  rw [versionValues_eq h, rowsOf_map_range hn]

theorem columnsOf_map_range (n k : Nat) (g : Nat → Nat → Fp) :
    columnsOf n ((List.range k).map fun x => (List.range n).map (g x)) = (List.range n).map fun c => (List.range k).map fun x => g x c := by
  refine List.map_congr_left fun c hc => ?_
  rw [List.map_map]
  exact List.map_congr_left fun x _ => getD_map_range (List.mem_range.1 hc) _ _

/-- The weight at row x of column j, as the statement spells it. -/
theorem valueAt_column (w : Version) {n j : Nat} (hn : w.geom.cols.toNat = n) (hj : j < n) (x : Nat) :
    valueAt w (x * n + j) = if w.geom.type = 11 then sp2Weight ((w.elems.getD (x * n + j) 0).toNat % 256) (w.scales.getD j 0).toNat
      else fpOfTile w.geom.type (w.elems.getD (x * n + j) 0).toNat := by
  have hmod : (x * n + j) % n = j := by rw [Nat.mul_comm, Nat.mul_add_mod, Nat.mod_eq_of_lt hj]
  rw [valueAt, hn, hmod]

theorem ne_eleven {t : BitVec 5} (h : t.toNat ∈ [8, 9]) : t ≠ 11 := by
  rintro rfl
  simp at h

theorem valueAt_float {a : Version} (h : a.geom.type.toNat ∈ [8, 9]) (e : Nat) :
    valueAt a e = fpOfTile a.geom.type (a.elems.getD e 0).toNat := if_neg (ne_eleven h)

/-! ## Poison -/

theorem poisonOut_of_clean {b : Block} (h : ∀ v ∈ b.versions, v.poison = []) (f : Flight) (out : List (Option Nat × (Nat → Nat))) :
    poisonOut b f out = none := by
  refine poisonOut_of_unpoisoned (fun p _ v hv => ?_) f
  obtain ⟨i, _, hi⟩ := Option.bind_eq_some_iff.1 hv
  exact h v (findVersion_mem hi)

/-! ## MMA and MMV (R157, R160, R161) -/

section Dense
variable {s : State} {f : Flight} {a w : Version} (hp : ∀ v ∈ s.me.versions, v.poison = []) (hga : getVersion s.me f.ta = some a)
include hp hga

theorem runMatrix_eq (hgw : getVersion s.me f.tb = some w) (hla : a.elems.length = a.geom.count) (hlw : w.elems.length = w.geom.count)
    (hk : w.geom.rows = a.geom.cols) (hk1 : 1 ≤ a.geom.cols.toNat) (hn : 1 ≤ w.geom.cols.toNat) :
    runMatrix s f = computeDone s f none (grid a.geom.rows.toNat w.geom.cols.toNat fun i j =>
      BitVec.ofNat 32 (chunkLoop a.geom.cols.toNat ((addend s.me f).getD (i * w.geom.cols.toNat + j) 0).toNat
        ((List.range a.geom.cols.toNat).map fun x =>
          (x, (fpMulExact (valueAt a (i * a.geom.cols.toNat + x)) (valueAt w (x * w.geom.cols.toNat + j))).1)))) [] := by
  simp only [runMatrix, hga, hgw, poisonOut_of_clean hp, rowsOf_versionValues hla hk1, rowsOf_versionValues hlw hn, hk,
    columnsOf_map_range]
  rw [matMul_map_range]

/-- The weight at row x of column j of a region in memory (R161). -/
def regionWeight (s : State) (r : ShapeRec) (region scale : List Seg) (x j : Nat) : Fp :=
  if r.type = 11 then sp2Weight (homeVia s region (r.scale.toNat + j * r.mrow.toNat + x * weightBytes r) (weightBytes r))
      (homeVia s scale ((scaleVector r + 2 * j) % 2 ^ 64) 2)
  else fpOfTile r.type (homeVia s region (r.scale.toNat + j * r.mrow.toNat + x * weightBytes r) (weightBytes r))

omit hp hga in
theorem regionColumn_eq (s : State) (r : ShapeRec) (region scale : List Seg) (j : Nat) :
    regionColumn s r region scale j = (List.range r.rows.toNat).map fun x => regionWeight s r region scale x j := by
  unfold regionColumn regionWeight
  split <;> rfl

theorem runUnderstory_eq (hs : s.poison = []) {region scale : List Seg} (htype : a.geom.type ≠ 11)
    (hcheck : regionCheck s f.shape (some f) = (.ok region scale, s)) (hla : a.elems.length = f.shape.rows.toNat) {m : Nat} (hm : m = 1) :
    runUnderstory s f = computeDone s f none (grid m f.shape.cols.toNat fun i j =>
      BitVec.ofNat 32 (chunkLoop f.shape.rows.toNat ((addend s.me f).getD (i * f.shape.cols.toNat + j) 0).toNat
        ((List.range f.shape.rows.toNat).map fun x =>
          (x, (fpMulExact (fpOfTile a.geom.type (a.elems.getD x 0).toNat) (regionWeight s f.shape region scale x j)).1)))) [] := by
  have hcolumn : poisonedColumn s f f.shape region scale = none := by simp [poisonedColumn, hs]
  have hrow : [versionValues a] = (List.range 1).map fun _ => (List.range f.shape.rows.toNat).map fun x =>
      fpOfTile a.geom.type (a.elems.getD x 0).toNat := by
    rw [versionValues, if_neg htype]
    conv_lhs => rw [eq_map_range hla 0, List.map_map]
    rfl
  have hcols : ((List.range f.shape.cols.toNat).map fun j => regionColumn s f.shape region scale j) = (List.range f.shape.cols.toNat).map
      fun j => (List.range f.shape.rows.toNat).map fun x => regionWeight s f.shape region scale x j := by
    simp only [regionColumn_eq]
  subst hm
  simp only [runUnderstory, hcheck, hga, hcolumn, poisonOut_of_clean hp, hrow, hcols, matMul_map_range]
  rfl

end Dense

/-! ## Sparse operands (R221, R228) -/

/-- The terms of a row: the columns and values of its entries. -/
def rowTerms (r : SparseRead) (vals : List (Nat × Fp)) (i : Nat) : Terms :=
  ((List.zip r.entries vals).filter fun e => e.1.2.1 == i).map fun e => (e.1.2.2, e.2.2)

theorem termRows_eq (r : SparseRead) (vals : List (Nat × Fp)) : termRows r vals = (List.range r.rows).map (rowTerms r vals) := by
  have hzip : List.zip r.entries (vals.map Prod.snd) = (List.zip r.entries vals).map fun e => (e.1, e.2.2) := by
    rw [List.zip_map_right]
    rfl
  simp only [termRows, hzip, List.filter_map, List.map_map]
  rfl

theorem mem_rowTerms {r : SparseRead} {vals : List (Nat × Fp)} {i : Nat} {t : Nat × Fp} (h : t ∈ rowTerms r vals i) :
    ∃ e ∈ r.entries, e.2.2 = t.1 := by
  obtain ⟨e, he, rfl⟩ := List.mem_map.1 h
  exact ⟨e.1, (List.of_mem_zip (List.mem_filter.1 he).1).1, rfl⟩

/-- An MMAS multiplies the entries of a row with the rows of B that their columns name. -/
theorem sparseMul_eq {r : SparseRead} {vals : List (Nat × Fp)} {n : Nat} (g : Nat → Nat → Fp) (old : List Half)
    (hcols : ∀ e ∈ r.entries, e.2.2 < r.cols) :
    sparseMul r.cols n (termRows r vals) ((List.range r.cols).map fun x => (List.range n).map (g x)) old =
      grid r.rows n fun i j => if j < n then BitVec.ofNat 32 (chunkLoop r.cols (old.getD (i * n + j) 0).toNat
        ((rowTerms r vals i).map fun t => (t.1, (fpMulExact t.2 (g t.1 j)).1))) else 0 := by
  simp only [sparseMul, termRows_eq, zip_map_range, List.flatMap_map, grid]
  refine List.flatMap_congr fun i _ => List.map_congr_left fun j hj => ?_
  have hj' := List.mem_range.1 hj
  rw [if_pos hj', sparseSum_chunksOf, List.map_map]
  congr 2
  refine List.map_congr_left fun t ht => ?_
  obtain ⟨e, he, hcol⟩ := mem_rowTerms ht
  rw [Function.comp_apply, getD_map_range (hcol ▸ hcols e he), getD_map_range hj']

/-- The pairs of a row of A with a column of B, from the entries of both. -/
theorem pairTerms_eq {a b : SparseRead} {va vb : List (Nat × Fp)} (hcols : ∀ e ∈ a.entries, e.2.2 < b.rows) (i j : Nat) :
    (pairTerms (rowTerms a va i) (termRows b vb) j).map (fun p => (p.1, (fpMulExact p.2.1 p.2.2).1)) =
      ((List.zip a.entries va).filter fun p => p.1.2.1 == i).flatMap fun p =>
        ((List.zip b.entries vb).filter fun q => q.1.2.1 == p.1.2.2 && q.1.2.2 == j).map fun q =>
          (p.1.2.2, (fpMulExact p.2.2 q.2.2).1) := by
  rw [pairTerms, List.map_flatMap, rowTerms, List.flatMap_map]
  refine List.flatMap_congr fun p hp => ?_
  have hrow : p.1.2.2 < b.rows := hcols p.1 (List.of_mem_zip (List.mem_filter.1 hp).1).1
  rw [termRows_eq, getD_map_range hrow, rowTerms, List.filter_map, List.filter_filter, List.map_map, List.map_map]
  simp only [Function.comp_def, Bool.and_comm]

/-- The state in which the block has this one instruction in flight. -/
def alone (s : State) (f : Flight) : State := { s with me := { s.me with flights := [f] } }

theorem setFlight_alone {s : State} {f g : Flight} (h : s.me.flights = [g]) (hid : g.id = f.id) : setFlight s f = alone s f := by
  simp [setFlight, modFlight, h, hid, alone]

/-- An MMAS that has read its structure replays it, with or without a densified tile (R215). -/
theorem runMmas_own {s : State} {f : Flight} {r : SparseRead} (ta : BitVec 5) (hfl : s.me.flights = [f]) (htrail : f.trail = none)
    (hstr : f.structs = [r])
    (hdense : pathOf (alone s { f with dense := 0 }).me r.rows r.cols r.entries = .dense →
      denseFree (alone s { f with dense := 0 }).me r.rows r.cols = true) :
    ∃ z ∈ [0, denseSize r.rows r.cols], runMmas s f ta = replay (alone s { f with dense := z }) { f with dense := z } r := by
  have hown : runMmas s f ta = replayOwn s f r := by simp [runMmas, htrail, hstr]
  have hkeep : ∀ z, ({ f with dense := z, structs := [r] } : Flight) = { f with dense := z } := fun z => by rw [← hstr]
  have hset : setFlight s { f with dense := 0 } = alone s { f with dense := 0 } := setFlight_alone hfl rfl
  have hagain : ∀ z, setFlight (alone s { f with dense := 0 }) { f with dense := z } = alone s { f with dense := z } :=
    fun z => setFlight_alone rfl rfl
  rw [hown]
  simp only [replayOwn, hkeep, hset, hagain]
  split
  · next hpath =>
    rw [if_pos (hdense hpath)]
    exact ⟨_, by simp, rfl⟩
  · exact ⟨0, by simp, rfl⟩

theorem replay_eq {s : State} {f : Flight} {r : SparseRead} {vals : List (Nat × Fp)} {w d : Version}
    (hp : ∀ v ∈ s.me.versions, v.poison = []) (hread : readValues s f r.src r.count (r.entries.map Prod.fst) = (.ok vals, s))
    (hgw : getVersion s.me f.tb = some w) (hgd : getVersion s.me f.dst = some d) (hrows : r.cols = w.geom.rows.toNat)
    (hcols : w.geom.cols = d.geom.cols) (hlw : w.elems.length = w.geom.count) (hn : 1 ≤ d.geom.cols.toNat)
    (hent : ∀ e ∈ r.entries, e.2.2 < r.cols) :
    replay s f r = computeDone s f none (grid r.rows d.geom.cols.toNat fun i j =>
      if j < d.geom.cols.toNat then BitVec.ofNat 32 (chunkLoop r.cols ((addend s.me f).getD (i * d.geom.cols.toNat + j) 0).toNat
        ((rowTerms r vals i).map fun t => (t.1, (fpMulExact t.2 (valueAt w (t.1 * d.geom.cols.toNat + j))).1))) else 0) [] := by
  have hrowsOf := rowsOf_versionValues hlw (hcols ▸ hn)
  rw [← hrows, hcols] at hrowsOf
  simp only [replay, hread, hgw, hgd, poisonOut_of_clean hp, hrowsOf, sparseMul_eq _ _ hent]

theorem multiplyBoth_eq {s : State} {f : Flight} (g : ShapeRec) {a b : SparseRead} {va vb : List (Nat × Fp)}
    (hp : ∀ v ∈ s.me.versions, v.poison = []) (ha : readValues s f a.src a.count (a.entries.map Prod.fst) = (.ok va, s))
    (hb : readValues s f b.src b.count (b.entries.map Prod.fst) = (.ok vb, s)) (hcols : ∀ e ∈ a.entries, e.2.2 < b.rows) :
    multiplyBoth s f g a b = computeDone s f none (grid a.rows g.cols.toNat fun i j =>
      BitVec.ofNat 32 (chunkLoop a.cols ((addend s.me f).getD (i * g.cols.toNat + j) 0).toNat
        (((List.zip a.entries va).filter fun p => p.1.2.1 == i).flatMap fun p =>
          ((List.zip b.entries vb).filter fun q => q.1.2.1 == p.1.2.2 && q.1.2.2 == j).map fun q =>
            (p.1.2.2, (fpMulExact p.2.2 q.2.2).1)))) [] := by
  simp only [multiplyBoth, operandRows, ha, hb, andThen, poisonOut_of_clean hp, termRows_eq a va, zip_map_range, List.flatMap_map,
    sparseSum_chunksOf, pairTerms_eq hcols]
  rfl

/-! ## The statement -/

/-- Settles O34: each of the four writes the grid that its equation gives, and each element is the loop of R52 on its products. -/
theorem matrixInstructionsWrite : Obligations.MatrixInstructionsWrite := by
  intro s f d _ _ hpois hfl hdst hd hp m n old gives mul
  have hf : findFlight s.me f.id = some f := by simp [findFlight, hfl]
  have hgd : getVersion s.me f.dst = some d := by rw [hdst]; exact hd
  have haq : ∀ {i : Instr}, f.ins = i → Instr.aqBit i = false → Instr.aqBit f.ins = false := fun hi h => hi ▸ h
  refine ⟨?dense, ?region, ?mmas, ?mmss⟩
  case dense =>
    intro c a w hins hta ha htb hw htype hm hk hcols hla hlw _ hn k av wv hk1
    have hga : getVersion s.me f.ta = some a := by rw [hta]; exact ha
    have hgw : getVersion s.me f.tb = some w := by rw [htb]; exact hw
    have hrun : performFlight s f = runMatrix s f := by
      rcases hins with hins | hins
      · simp only [performFlight, hins]
      · simp only [performFlight, hins, htb, Option.isSome_some, if_true]
    have haq' : Instr.aqBit f.ins = false := by rcases hins with hins | hins <;> exact haq hins rfl
    have heq := runMatrix_eq hp hga hgw hla hlw hk hk1 (hcols ▸ hn)
    rw [hm, hcols] at heq
    rw [← hrun] at heq
    refine gives_of_grid (heq ▸ computeDone_performedWith haq' hf hdst hd _ _) fun i _ j hj => ?_
    simp only [valueAt_float htype, valueAt_column w (congrArg BitVec.toNat hcols) hj]
    rfl
  case region =>
    intro c a region scale hins htb hta ha htype r k sz hm hcols _ hk1 hla hcheck at_ wv
    have hga : getVersion s.me f.ta = some a := by rw [hta]; exact ha
    have heq := runUnderstory_eq hp hga hpois (ne_eleven htype) hcheck hla hm
    have hrun : performFlight s f = runUnderstory s f := by
      simp only [performFlight, hins, htb, Option.isSome_none, Bool.false_eq_true, if_false]
    rw [show f.shape.cols = d.geom.cols from hcols, ← hrun] at heq
    exact gives_of_grid (heq ▸ computeDone_performedWith (haq hins rfl) hf hdst hd _ _) fun _ _ _ _ => rfl
  case mmas =>
    intro c w r vals hins htb hw htrail hstr hm hrows hcols hlw hn hent _ hdense hread wv
    have hgw : getVersion s.me f.tb = some w := by rw [htb]; exact hw
    obtain ⟨z, hz, hrun⟩ := runMmas_own c.ta hfl htrail hstr hdense
    have heq := replay_eq (s := alone s { f with dense := z }) (f := { f with dense := z }) hp (hread z hz) hgw hgd hrows hcols hlw hn hent
    have hperf : performFlight s f = runMmas s f c.ta := by simp only [performFlight, hins]
    rw [hm, ← hrun, ← hperf] at heq
    have hdone := fun e => computeDone_performedWith (s := alone s { f with dense := z }) (f := { f with dense := z }) (haq hins rfl)
      (by simp [alone, findFlight]; rfl) hdst hd e []
    refine gives_of_grid (s := s) (t := performFlight s f) (by rw [heq]; exact hdone _) fun i _ j hj => ?_
    rw [if_pos hj]
    simp only [valueAt_column w (congrArg BitVec.toNat hcols) hj, rowTerms, List.map_map]
    rfl
  case mmss =>
    intro c a b va vb hins hstr hm hk _ hent _ _ ha hb
    have hrun : performFlight s f = multiplyBoth s f d.geom a b := by simp only [performFlight, hins, runMmss, hgd, hstr]
    have heq := multiplyBoth_eq d.geom hp ha hb (hk ▸ hent)
    rw [hm, ← hrun] at heq
    exact gives_of_grid (heq ▸ computeDone_performedWith (haq hins rfl) hf hdst hd _ _) fun _ _ _ _ => rfl

end Sys2Proof.Proofs

/-!
PROOFS. The accesses of tile memory instructions: bytes read and written through translated pieces (R48, R126, R135), accesses that
neither stop nor leave the package (R375, R399), and the end of an instruction that is alone in flight.
-/
namespace Sys2Proof.Proofs

open Sys2Proof Sys2Proof.Machine Sys2Proof.Laws

/-! ## Addresses -/

theorem wrap64_lt (x : Int) : wrap64 x < 2 ^ 64 := by
  have h1 := Int.emod_nonneg x (show ((2 ^ 64 : Nat) : Int) ≠ 0 by decide)
  have h2 := Int.emod_lt_of_pos x (show (0 : Int) < ((2 ^ 64 : Nat) : Int) by decide)
  rw [wrap64]
  omega

theorem addr_lt (l : Layout) (e : Nat) : l.addr e < 2 ^ 64 := by
  unfold Layout.addr
  split <;> exact wrap64_lt _

/-! ## Bytes of memory -/

theorem memBytes_eq_map (m : List Host.Cell) (a n : Nat) : memBytes m a n = (List.range n).map fun i => memRead m (a + i) := by
  induction n generalizing a with
  | zero => rfl
  | succ n ih =>
    rw [memBytes, ih, List.range_succ_eq_map, List.map_cons, List.map_map]
    exact congrArg _ (List.map_congr_left fun i _ => by rw [Function.comp_apply, Nat.succ_eq_add_one, Nat.add_assoc, Nat.add_comm 1])

theorem memBytes_congr {m m' : List Host.Cell} {a n : Nat} (h : ∀ i < n, memRead m' (a + i) = memRead m (a + i)) :
    memBytes m' a n = memBytes m a n := by
  rw [memBytes_eq_map, memBytes_eq_map]
  exact List.map_congr_left fun i hi => h i (List.mem_range.1 hi)

/-- A part of a string of bytes that was read. -/
theorem memBytes_part (m : List Host.Cell) (a : Nat) {n i k : Nat} (h : i + k ≤ n) :
    ((memBytes m a n).drop i).take k = memBytes m (a + i) k := by
  obtain ⟨r, rfl⟩ := Nat.exists_eq_add_of_le h
  rw [memBytes_append, memBytes_append, List.append_assoc, List.drop_left' (memBytes_length _ _ _),
    List.take_left' (memBytes_length _ _ _)]

/-! ## Reads through translated pieces -/

/-- Bytes that stand at `pa` in device memory without a copy on the die are read from there, and the read changes nothing. -/
theorem readVia_of_viaBytes {s : State} {l : List Seg} {va n pa : Nat} (h : viaBytes s l va n pa) (hva : va < 2 ^ 64) :
    readVia s (slotDie s.me.slot) l va n = (memBytes s.mem pa n, s) := by
  induction n generalizing va pa with
  | zero => rfl
  | succ n ih =>
    obtain ⟨cp, hseg, hguest⟩ := h 0 (Nat.succ_pos n)
    rw [Nat.add_zero, Nat.add_zero, Nat.mod_eq_of_lt hva] at hseg
    rw [Nat.add_zero] at hguest
    have hbyte : l2Byte s (slotDie s.me.slot) pa cp = memRead s.mem pa := by simp [l2Byte, hguest]
    have hfill : l2Fill s (slotDie s.me.slot) pa cp = s := by simp [l2Fill, hguest]
    have hrest : viaBytes s l ((va + 1) % 2 ^ 64) n (pa + 1) := by
      intro i hi
      obtain ⟨cp, hseg, hguest⟩ := h (i + 1) (Nat.succ_lt_succ hi)
      refine ⟨cp, ?_, ?_⟩
      · rw [Nat.mod_add_mod, show va + 1 + i = va + (i + 1) by ring, show pa + 1 + i = pa + (i + 1) by ring, hseg]
      · rw [show pa + 1 + i = pa + (i + 1) by ring, hguest]
    simp only [readVia, hseg, hbyte, hfill, ih hrest (Nat.mod_lt _ (by decide)), memBytes]

/-- A field of bytes that stand at `pa`. -/
theorem readField_of_viaBytes {s : State} {l : List Seg} {f : Machine.Field} {pa : Nat} (h : viaBytes s l f.va f.bytes pa)
    (hva : f.va < 2 ^ 64) :
    readField s (slotDie s.me.slot) l f = (bitsOf (memNat s.mem pa f.bytes) f.bit f.w, s) := by
  simp only [readField, readVia_of_viaBytes h hva, memNat]

/-! ## Writes through translated pieces -/

/-- Bytes are written where the pieces put them, and of the block nothing changes. -/
theorem writeVia_stores {s : State} (who : Agent) {l : List Seg} {va pa : Nat} (bs : List Byte) (hva : va < 2 ^ 64)
    (h : ∀ i < bs.length, (viaSegs l ((va + i) % 2 ^ 64)).map Prod.fst = some (pa + i)) :
    (writeVia s who l va bs fun _ => false).mem = memStore s.mem pa bs ∧ (writeVia s who l va bs fun _ => false).me = s.me := by
  induction bs generalizing s va pa with
  | nil => exact ⟨rfl, rfl⟩
  | cons b r ih =>
    have hseg := h 0 (Nat.succ_pos _)
    rw [Nat.add_zero, Nat.mod_eq_of_lt hva, Option.map_eq_some_iff] at hseg
    obtain ⟨⟨q, cp⟩, hseg, hq⟩ := hseg
    obtain rfl : pa = q := hq.symm
    obtain ⟨hmem, hme⟩ := ih (s := homeWrite s who pa [b]) (va := (va + 1) % 2 ^ 64) (pa := pa + 1) (Nat.mod_lt _ (by decide))
      fun i hi => by
        rw [Nat.mod_add_mod, show va + 1 + i = va + (i + 1) by ring, show pa + 1 + i = pa + (i + 1) by ring]
        exact h (i + 1) (Nat.succ_lt_succ hi)
    have hstep : (writeVia s who l va (b :: r) fun _ => false) =
        writeVia (homeWrite s who pa [b]) who l ((va + 1) % 2 ^ 64) r fun _ => false := by
      simp only [writeVia, hseg, Bool.false_eq_true, if_false]
    rw [hstep]
    exact ⟨hmem, hme.trans (homeWrite_me _ _ _ _)⟩

/-- A number with the `w` bits from `lo` on replaced. -/
def putBits (x lo w v : Nat) : Nat := x - bitsOf x lo w * 2 ^ lo + v % 2 ^ w * 2 ^ lo

theorem bits_split (x lo w : Nat) : x = x / 2 ^ (lo + w) * 2 ^ (lo + w) + bitsOf x lo w * 2 ^ lo + x % 2 ^ lo := by
  have h1 := Nat.div_add_mod x (2 ^ lo)
  have h2 := Nat.div_add_mod (x / 2 ^ lo) (2 ^ w)
  rw [Nat.div_div_eq_div_mul, ← Nat.pow_add] at h2
  calc x = 2 ^ lo * (2 ^ w * (x / 2 ^ (lo + w)) + x / 2 ^ lo % 2 ^ w) + x % 2 ^ lo := by rw [h2, h1]
    _ = _ := by rw [bitsOf, Nat.pow_add]; ring

theorem putBits_eq (x lo w v : Nat) : putBits x lo w v = (x / 2 ^ (lo + w) * 2 ^ w + v % 2 ^ w) * 2 ^ lo + x % 2 ^ lo := by
  have h := bits_split x lo w
  have hsub : x - bitsOf x lo w * 2 ^ lo = x / 2 ^ (lo + w) * 2 ^ (lo + w) + x % 2 ^ lo := by omega
  rw [putBits, hsub, Nat.pow_add]
  ring

theorem bitsOf_putBits (x lo w v : Nat) : bitsOf (putBits x lo w v) lo w = v % 2 ^ w := by
  have hlo := Nat.two_pow_pos lo
  rw [bitsOf, putBits_eq, Nat.mul_comm _ (2 ^ lo), Nat.mul_add_div hlo, Nat.div_eq_of_lt (Nat.mod_lt _ hlo), Nat.add_zero,
    Nat.mul_comm, Nat.mul_add_mod, Nat.mod_mod]

theorem putBits_lt {x lo w n : Nat} (h : lo + w ≤ n) (hx : x < 2 ^ n) (v : Nat) : putBits x lo w v < 2 ^ n := by
  obtain ⟨k, rfl⟩ := Nat.exists_eq_add_of_le h
  have hv : v % 2 ^ w < 2 ^ w := Nat.mod_lt _ (Nat.two_pow_pos w)
  have hr : x % 2 ^ lo < 2 ^ lo := Nat.mod_lt _ (Nat.two_pow_pos lo)
  have hq : x / 2 ^ (lo + w) < 2 ^ k := by
    rw [Nat.div_lt_iff_lt_mul (Nat.two_pow_pos _), Nat.mul_comm, ← Nat.pow_add]
    exact hx
  calc putBits x lo w v = (x / 2 ^ (lo + w) * 2 ^ w + v % 2 ^ w) * 2 ^ lo + x % 2 ^ lo := putBits_eq x lo w v
    _ < (x / 2 ^ (lo + w) * 2 ^ w + v % 2 ^ w) * 2 ^ lo + 2 ^ lo := by omega
    _ = (x / 2 ^ (lo + w) * 2 ^ w + (v % 2 ^ w + 1)) * 2 ^ lo := by ring
    _ ≤ (x / 2 ^ (lo + w) * 2 ^ w + 2 ^ w) * 2 ^ lo := Nat.mul_le_mul_right _ (by omega)
    _ = (x / 2 ^ (lo + w) + 1) * 2 ^ (lo + w) := by rw [Nat.pow_add]; ring
    _ ≤ 2 ^ k * 2 ^ (lo + w) := Nat.mul_le_mul_right _ hq
    _ = 2 ^ (lo + w + k) := by rw [← Nat.pow_add, Nat.add_comm]

/-- A write of a field stores its bytes with the field's bits replaced. -/
theorem writeField_stores {s : State} (who : Agent) {l : List Seg} {f : Machine.Field} {pa : Nat} (hva : f.va < 2 ^ 64)
    (h : ∀ i < f.bytes, (viaSegs l ((f.va + i) % 2 ^ 64)).map Prod.fst = some (pa + i)) (v : Nat) :
    (writeField s who l f v).mem = memStore s.mem pa (leBytes f.bytes (putBits (memNat s.mem pa f.bytes) f.bit f.w v)) ∧
      (writeField s who l f v).me = s.me := by
  have hold : leNat ((List.range f.bytes).map fun i =>
      match viaSegs l ((f.va + i) % 2 ^ 64) with | some (pa, _) => memRead s.mem pa | none => 0) = memNat s.mem pa f.bytes := by
    rw [memNat, memBytes_eq_map]
    refine congrArg leNat (List.map_congr_left fun i hi => ?_)
    obtain ⟨⟨_, cp⟩, hseg, rfl⟩ := Option.map_eq_some_iff.1 (h i (List.mem_range.1 hi))
    rw [hseg]
  have hrun : writeField s who l f v = writeVia s who l f.va (leBytes f.bytes (putBits (memNat s.mem pa f.bytes) f.bit f.w v))
      fun _ => false :=
    congrArg (fun old => writeVia s who l f.va (leBytes f.bytes (putBits old f.bit f.w v)) fun _ => false) hold
  rw [hrun]
  exact writeVia_stores who _ hva (by rw [leBytes_length]; exact h)

theorem memNat_lt (m : List Host.Cell) (a n : Nat) : memNat m a n < 2 ^ (8 * n) := by
  have h := leNat_lt (memBytes m a n)
  rwa [memBytes_length, show 256 = 2 ^ 8 from rfl, ← Nat.pow_mul] at h

/-- The field that was written is read back. -/
theorem bitsOf_stored {m : List Host.Cell} (h : memWf m = true) (pa : Nat) {f : Machine.Field} (hbits : f.bit + f.w ≤ 8 * f.bytes) (v : Nat) :
    bitsOf (memNat (memStore m pa (leBytes f.bytes (putBits (memNat m pa f.bytes) f.bit f.w v))) pa f.bytes) f.bit f.w = v % 2 ^ f.w := by
  have hb := memBytes_store_same h pa (leBytes f.bytes (putBits (memNat m pa f.bytes) f.bit f.w v))
  rw [leBytes_length] at hb
  have hlt : putBits (memNat m pa f.bytes) f.bit f.w v < 256 ^ f.bytes := by
    rw [show 256 = 2 ^ 8 from rfl, ← Nat.pow_mul]
    exact putBits_lt hbits (memNat_lt m pa f.bytes) v
  rw [memNat, hb, leNat_leBytes, Nat.mod_eq_of_lt hlt, bitsOf_putBits]

/-! ## Accesses that nothing stops -/

theorem farPieces_hbm {segs : List Seg} (h : ∀ g ∈ segs, regionOf g.pa = .hbm) : (segs.flatMap fun g => farPieces g.pa g.len) = [] := by
  rw [List.flatMap_eq_nil_iff]
  intro g hg
  rw [farPieces, h g hg]

/-- A read of device memory that nothing stops changes nothing. -/
theorem accessSegs_read {s : State} {segs : List Seg} {reads : Bool} {f : Option Flight} (hstop : segsStop s s.me segs reads f = none)
    (hhbm : ∀ g ∈ segs, regionOf g.pa = .hbm) : accessSegs s segs .read reads f = (.ok segs, s) := by
  simp only [accessSegs, hstop, farPieces_hbm hhbm]
  rfl

theorem accessSegs_write {s : State} {segs : List Seg} {reads : Bool} {f : Option Flight} (hstop : segsStop s s.me segs reads f = none) :
    accessSegs s segs .write reads f = (.ok segs, s) := by
  simp only [accessSegs, hstop]
  rfl

/-- What does not stop a read for its poison does not stop an access without one. -/
theorem segsStop_unread {s : State} {b : Block} {segs : List Seg} {f : Option Flight} (h : segsStop s b segs true f = none) :
    segsStop s b segs false f = none := by
  unfold segsStop at h ⊢
  split at h
  · cases h
  · next hheld =>
    rw [if_neg hheld]
    simp

/-! ## An instruction alone in flight -/

/-- The block's one instruction has performed. -/
theorem flightDone_alone {s : State} {f g : Flight} (haq : Instr.aqBit f.ins = false) (h : s.me.flights = [g]) (hid : g.id = f.id) :
    ∃ k, (flightDone s f).me.flights = [k] ∧ k.st = .performed := by
  refine ⟨{ f with st := .performed, started := true, pins := [], early := [] }, ?_, rfl⟩
  simp [flightDone_plain s f haq, cancelFaults, setFlight, dropAsks, modFlight, h, hid]

theorem flightDone_shapes {s : State} {f : Flight} (haq : Instr.aqBit f.ins = false) : (flightDone s f).me.shapes = s.me.shapes := by
  simp [flightDone_plain s f haq, cancelFaults, setFlight, dropAsks]

theorem sendSegs_me (s : State) (f : Flight) (segs : List Seg) : (sendSegs s f segs).me = s.me := by
  unfold sendSegs
  exact foldl_keeps (fun s => s.me) _ (fun s g => by simp [blockWrite]) segs s

end Sys2Proof.Proofs

/-!
PROOFS. TGTH, TCB and BCOPY as they perform (part of the statement TileMemoryMoves): the window of a gather and its end (R133), the
tables of the codebook ring (R140), and a copy of one unit (R147).
-/
namespace Sys2Proof.Proofs

open Sys2Proof Sys2Proof.Machine Sys2Proof.Laws

/-! ## The windowed gather (R133) -/

/-- The memory types whose elements are whole bytes of their own. -/
def plainType (t : BitVec 5) : Prop := t.toNat ∈ [1, 2, 3, 4, 5, 6, 8, 9, 10]

theorem plainType.unpacked {t : BitVec 5} (h : plainType t) : t ≠ 12 ∧ t ≠ 15 ∧ t ≠ 16 := by
  refine ⟨?_, ?_, ?_⟩ <;> rintro rfl <;> simp [plainType] at h

/-- An element of a plain operand is the conversion of its bytes. -/
theorem loadElem_plain {s : State} {l : Layout} {segs : List Seg} {e pa : Nat} (hmt : plainType l.mt)
    (h : viaBytes s segs (l.addr e) (typeBits l.mt / 8) pa) :
    loadElem s (slotDie s.me.slot) l segs e = (convPat l.mt l.g.type (memNat s.mem pa (typeBits l.mt / 8)), s) := by
  obtain ⟨hcb, hmask, hlp⟩ := hmt.unpacked
  simp only [loadElem, if_neg hcb, if_neg hmask, if_neg hlp, readVia_of_viaBytes h (addr_lt l e), memNat]

theorem readWindow_eq {s : State} {l : Layout} {segs : List Seg} {es : List Nat} {val : Nat → Nat}
    (h : ∀ e ∈ es, loadElem s (slotDie s.me.slot) l segs e = (val e, s)) :
    readWindow s l segs es = (es.map fun e => (e, val e), s) := by
  have hfold : ∀ acc : List (Nat × Nat), (es.foldl (fun p e =>
      let r := loadElem p.2 (slotDie s.me.slot) l segs e
      (p.1 ++ [(e, r.1)], r.2)) (acc, s)) = (acc ++ es.map fun e => (e, val e), s) := by
    induction es with
    | nil => simp
    | cons e r ih =>
      intro acc
      simp only [List.foldl_cons, h e List.mem_cons_self]
      rw [ih fun x hx => h x (List.mem_cons_of_mem _ hx)]
      simp
  exact hfold []

/-- The elements in the window of the first outstanding one. -/
def windowOf (l : Layout) (out : List Nat) : List Nat := out.filter fun e => decide (l.addr e / 1024 = l.addr (out.headD 0) / 1024)

/-- A gather whose window is read whole ends with the values of the window (R133). -/
theorem runWindow_eq {s : State} {f : Flight} {rd : List Seg} {val : Nat → Nat} (htype : f.shape.type ≠ 11)
    (hp : ∀ v ∈ s.me.versions, v.poison = []) (hin : ∀ e ∈ outstanding s f, (layoutOf s.me f []).outOfBounds e = false)
    (hne : outstanding s f ≠ [])
    (hacc : accessPages s s.me ((windowOf (layoutOf s.me f []) (outstanding s f)).map fun e =>
      ((layoutOf s.me f []).addr e, typeBits f.shape.memType / 8)) .read .tile (some f) = (.ok rd, s))
    (hstop : segsStop s s.me rd true (some f) = none) (hhbm : ∀ g ∈ rd, regionOf g.pa = .hbm)
    (hload : ∀ e ∈ windowOf (layoutOf s.me f []) (outstanding s f),
      loadElem s (slotDie s.me.slot) (layoutOf s.me f []) rd e = (val e, s)) :
    runWindow s f = endWindow s f ((windowOf (layoutOf s.me f []) (outstanding s f)).map fun e => (e, val e)) := by
  have hbad : ∀ o, badOf s.me f o = [] := by
    refine fun o => badOf_of_unpoisoned (fun v hv => ?_) f
    obtain ⟨i, _, hi⟩ := Option.bind_eq_some_iff.1 hv
    exact hp v (findVersion_mem hi)
  have hbound : (outstanding s f).find? (fun e => (boundOf (layoutOf s.me f []) e).isSome) = none := by
    rw [List.find?_eq_none]
    intro e he
    simp [boundOf, hin e he]
  cases hout : outstanding s f with
  | nil => exact absurd hout hne
  | cons e0 r =>
    have hwin : (e0 :: r).filter (fun e => (layoutOf s.me f []).addr e / 1024 == (layoutOf s.me f []).addr e0 / 1024) =
        windowOf (layoutOf s.me f []) (e0 :: r) := rfl
    rw [hout] at hbound hacc hload
    have hmt : (layoutOf s.me f []).mt = f.shape.memType := rfl
    simp only [runWindow, hout, hbound, loadScales, if_neg htype, hbad, List.filter_nil, List.append_nil, hwin, hmt, hacc,
      accessSegs_read hstop hhbm, readWindow_eq hload]
    rfl

theorem find?_map_pair (es : List Nat) (val : Nat → Nat) (e : Nat) :
    (es.map fun x => (x, val x)).find? (fun g => g.1 == e) = if e ∈ es then some (e, val e) else none := by
  induction es with
  | nil => rfl
  | cons x r ih =>
    rw [List.map_cons, List.find?_cons]
    by_cases hx : x = e
    · simp [hx]
    · have hbeq : (x == e) = false := by simpa using hx
      simp [hbeq, ih, Ne.symm hx]

theorem any_map_pair (es : List Nat) (val : Nat → Nat) (e : Nat) :
    ((es.map fun x => (x, val x)).any fun g => g.1 == e) = decide (e ∈ es) := by
  rw [Bool.eq_iff_iff]
  simp

/-! ### What the end of a gather leaves -/

theorem setFill_versions (s : State) (f : Flight) (n : Nat) : (setFill s f n).me.versions = s.me.versions := by
  unfold setFill
  dsimp only
  split <;> rfl

theorem setFill_flights (s : State) (f : Flight) (n : Nat) : (setFill s f n).me.flights = s.me.flights := by
  unfold setFill
  dsimp only
  split <;> rfl

theorem shapeOf_setShape_same (b : Block) (h : BitVec 4) (r : ShapeRec) : shapeOf (setShape b h r) h = r := by
  simp [shapeOf, setShape]

/-- FILL of the record that an instruction still has to set (R131). -/
theorem setFill_fill {s : State} {f : Flight} (h : (f.id, f.record.extractLsb' 0 4, true) ∈ s.me.fillWait) (n : Nat) :
    (shapeOf (setFill s f n).me (f.record.extractLsb' 0 4)).fill = BitVec.ofNat 32 n := by
  have hrec : (setFill s f n).me.shapes = (setShape s.me (f.record.extractLsb' 0 4)
      { shapeOf s.me (f.record.extractLsb' 0 4) with fill := BitVec.ofNat 32 n }).shapes := by
    simp [setFill, h]
  rw [shapeOf]
  simp only [hrec]
  exact congrArg ShapeRec.fill (shapeOf_setShape_same s.me _ _)

/-- A gather has ended with these elements and this companion, `n` elements being no more outstanding. -/
def windowEnded (s : State) (f : Flight) (elems mask : List Half) (poison : List Nat) (n : Nat) : State :=
  flightDone (setFill (setVersion (setVersion s f.dst fun v => { v with elems := elems, poison := poison })
    f.dst2 fun v => { v with elems := mask }) f n) f

/-- What an element of a gather's version holds, where `es` are the elements read. -/
def windowValue (s : State) (f : Flight) (es : List Nat) (val : Nat → Nat) (e : Nat) : Half :=
  if e ∈ es then BitVec.ofNat 32 (val e) else (addend s.me f).getD e 0

/-- What an element of its companion holds. -/
def windowMask (s : State) (f : Flight) (es : List Nat) (e : Nat) : Half := if e ∈ outstanding s f ∧ e ∉ es then 1 else 0

theorem endWindow_eq {s : State} {f : Flight} (hskips : f.skips = []) (hold : poisonOf s.me f.old = []) (es : List Nat) (val : Nat → Nat) :
    endWindow s f (es.map fun e => (e, val e)) = windowEnded s f ((List.range f.shape.count).map (windowValue s f es val))
      ((List.range f.shape.count).map (windowMask s f es)) []
      (f.shape.count - ((outstanding s f).filter fun e => decide (e ∉ es)).length) := by
  let got := es.map fun e => (e, val e)
  let left := (outstanding s f).filter fun e => !(got.any fun g => g.1 == e)
  have hleft : left = (outstanding s f).filter fun e => decide (e ∉ es) :=
    List.filter_congr fun e _ => by rw [any_map_pair, decide_not]
  have hvalue : ((List.range f.shape.count).map fun e =>
      match got.find? (fun g => g.1 == e) with
      | some g => BitVec.ofNat 32 g.2
      | none => if f.skips.contains e then (0 : Half) else (addend s.me f).getD e 0) =
      (List.range f.shape.count).map (windowValue s f es val) := by
    refine List.map_congr_left fun e _ => ?_
    rw [find?_map_pair, windowValue, hskips]
    by_cases he : e ∈ es
    · rw [if_pos he, if_pos he]
    · rw [if_neg he, if_neg he]
      rfl
  have hmask : ((List.range f.shape.count).map fun e => if left.contains e then (1 : Half) else 0) =
      (List.range f.shape.count).map (windowMask s f es) := by
    refine List.map_congr_left fun e _ => ?_
    simp [hleft, windowMask]
  calc endWindow s f got = windowEnded s f
        ((List.range f.shape.count).map fun e =>
          match got.find? (fun g => g.1 == e) with
          | some g => BitVec.ofNat 32 g.2
          | none => if f.skips.contains e then (0 : Half) else (addend s.me f).getD e 0)
        ((List.range f.shape.count).map fun e => if left.contains e then (1 : Half) else 0)
        ((poisonOf s.me f.old).filter fun e => !(got.any fun g => g.1 == e) && !f.skips.contains e) (f.shape.count - left.length) := rfl
    _ = _ := by rw [hvalue, hmask, hold, hleft, List.filter_nil]

section WindowEnded
variable {s : State} {f : Flight} {d d2 : Version} (haq : Instr.aqBit f.ins = false) (hdst : f.dst = some d.id)
  (hdst2 : f.dst2 = some d2.id) (elems mask : List Half) (n : Nat)
include haq hdst hdst2

theorem windowEnded_findVersion (i : Nat) : findVersion (windowEnded s f elems mask [] n).me i =
    findVersion (modVersion (modVersion s.me d.id fun v => { v with elems := elems, poison := [] }) d2.id
      fun v => { v with elems := mask }) i := by
  rw [windowEnded, flightDone_findVersion haq, findVersion, setFill_versions, hdst, hdst2]
  rfl

theorem windowEnded_dst (hne : d.id ≠ d2.id) (hd : findVersion s.me d.id = some d) :
    findVersion (windowEnded s f elems mask [] n).me d.id = some { d with elems := elems, poison := [] } := by
  rw [windowEnded_findVersion haq hdst hdst2, findVersion_modVersion_other _ hne (g := fun v => { v with elems := mask }) fun _ => rfl,
    findVersion_modVersion_same hd (g := fun v => { v with elems := elems, poison := [] }) fun _ => rfl]

theorem windowEnded_dst2 (hne : d.id ≠ d2.id) (hd : findVersion s.me d2.id = some d2) :
    findVersion (windowEnded s f elems mask [] n).me d2.id = some { d2 with elems := mask } := by
  have hd' : findVersion (modVersion s.me d.id fun v => { v with elems := elems, poison := [] }) d2.id = some d2 := by
    rw [findVersion_modVersion_other _ hne.symm (g := fun v => { v with elems := elems, poison := [] }) fun _ => rfl, hd]
  rw [windowEnded_findVersion haq hdst hdst2, findVersion_modVersion_same hd' (g := fun v => { v with elems := mask }) fun _ => rfl]

theorem windowEnded_alone (hfl : s.me.flights = [f]) : ∃ k, (windowEnded s f elems mask [] n).me.flights = [k] ∧ k.st = .performed := by
  refine flightDone_alone haq ?_ rfl
  rw [setFill_flights, hdst, hdst2]
  exact hfl

theorem windowEnded_fill (hw : (f.id, f.record.extractLsb' 0 4, true) ∈ s.me.fillWait) :
    (shapeOf (windowEnded s f elems mask [] n).me (f.record.extractLsb' 0 4)).fill = BitVec.ofNat 32 n := by
  let u := setVersion (setVersion s f.dst fun v => { v with elems := elems, poison := [] }) f.dst2 fun v => { v with elems := mask }
  have hu : (f.id, f.record.extractLsb' 0 4, true) ∈ u.me.fillWait := by
    simp only [u, hdst, hdst2]
    exact hw
  rw [← setFill_fill hu n, shapeOf, shapeOf]
  simp only [windowEnded, flightDone_shapes haq]
  rfl

end WindowEnded

theorem windowEnded_mem (s : State) (f : Flight) (elems mask : List Half) (poison : List Nat) (n : Nat) :
    (windowEnded s f elems mask poison n).mem = s.mem := by
  simp [windowEnded]

/-! ## TCB (R140) -/

/-- The tables of a list that are an instruction's, filled in order from the `i`-th on. -/
def fillTables (mine : CbTable → Bool) (table : Nat → Vector (BitVec 16) 8) (l : List CbTable) (i : Nat) : List CbTable :=
  match l with
  | [] => []
  | t :: r => if mine t then { t with data := some (table i) } :: fillTables mine table r (i + 1) else t :: fillTables mine table r i

section FillTables
variable {mine : CbTable → Bool} (table : Nat → Vector (BitVec 16) 8)

theorem fillTables_foldl (l : List CbTable) (i : Nat) (acc : List CbTable) :
    (l.foldl (fun (acc : Nat × List CbTable) t =>
      if mine t then (acc.1 + 1, acc.2 ++ [{ t with data := some (table acc.1) }]) else (acc.1, acc.2 ++ [t])) (i, acc)).2 =
      acc ++ fillTables mine table l i := by
  induction l generalizing i acc with
  | nil => simp [fillTables]
  | cons t r ih =>
    rw [List.foldl_cons, fillTables]
    by_cases ht : mine t = true
    · rw [if_pos ht, if_pos ht, ih, List.append_assoc]
      rfl
    · rw [if_neg ht, if_neg ht, ih, List.append_assoc]
      rfl

variable (hmine : ∀ t data, mine { t with data := data } = mine t)
include hmine

theorem filter_fillTables (l : List CbTable) (i : Nat) :
    (fillTables mine table l i).filter mine =
      (List.zip (List.range' i (l.filter mine).length) (l.filter mine)).map fun p => { p.2 with data := some (table p.1) } := by
  induction l generalizing i with
  | nil => rfl
  | cons t r ih =>
    by_cases ht : mine t = true
    · simp [fillTables, ht, hmine, ih, List.range'_succ]
    · simp [fillTables, ht, ih]

theorem filter_not_fillTables (l : List CbTable) (i : Nat) :
    (fillTables mine table l i).filter (fun t => !mine t) = l.filter fun t => !mine t := by
  induction l generalizing i with
  | nil => rfl
  | cons t r ih =>
    by_cases ht : mine t = true
    · simp [fillTables, ht, hmine, ih]
    · simp [fillTables, ht, ih]

end FillTables

/-- Whether a table is one that an instruction loads. -/
def ownTable (s : State) (f : Flight) (t : CbTable) : Bool := t.slot == s.me.slot && t.tcb == f.id

/-- The entries that stand at `pa` for table `i`. -/
def tableAt (m : List Host.Cell) (pa i : Nat) : Vector (BitVec 16) 8 :=
  Vector.ofFn fun (j : Fin 8) => BitVec.ofNat 16 (memNat m (pa + 16 * i + 2 * j.val) 2)

/-- The entries of table `i` among bytes that were read. -/
def tableIn (bs : List Byte) (i : Nat) : Vector (BitVec 16) 8 :=
  Vector.ofFn fun (j : Fin 8) => BitVec.ofNat 16 (leNat ((bs.drop (16 * i + 2 * j.val)).take 2))

theorem tableIn_memBytes (m : List Host.Cell) (pa : Nat) {n i : Nat} (hi : i < n) : tableIn (memBytes m pa (16 * n)) i = tableAt m pa i := by
  refine congrArg Vector.ofFn (funext fun j => ?_)
  have hj := j.isLt
  rw [memBytes_part m pa (by omega), ← Nat.add_assoc, memNat]

theorem claimRing_cbs (s : State) : (claimRing s).cbs = s.cbs := by unfold claimRing; split <;> rfl

theorem claimRing_flights (s : State) : (claimRing s).me.flights = s.me.flights := by unfold claimRing; split <;> rfl

theorem runTcb_eq {s : State} {f : Flight} {n pa : Nat} {rd : List Seg} (hring : ringTaken s = false)
    (hacc : accessRanges s [(f.addr.toNat, 16 * n)] .read .copy true (some f) = (.ok rd, s))
    (hvia : viaBytes s rd f.addr.toNat (16 * n) pa) :
    runTcb s f n = setFlight (claimRing { s with cbs := fillTables (ownTable s f) (tableIn (memBytes s.mem pa (16 * n))) s.cbs 0 })
      { f with st := .performed, started := true } := by
  have hput := fillTables_foldl (mine := ownTable s f) (tableIn (memBytes s.mem pa (16 * n))) s.cbs 0 []
  rw [List.nil_append] at hput
  rw [← hput]
  simp only [runTcb, hring, Bool.false_eq_true, if_false, hacc, readVia_of_viaBytes hvia f.addr.isLt]
  rfl

/-- A TCB alone in flight fills its own tables and leaves the others (R140). -/
theorem runTcb_fills {s : State} {f : Flight} {n pa : Nat} {rd : List Seg} (hfl : s.me.flights = [f]) (hring : ringTaken s = false)
    (hacc : accessRanges s [(f.addr.toNat, 16 * n)] .read .copy true (some f) = (.ok rd, s))
    (hvia : viaBytes s rd f.addr.toNat (16 * n) pa) (hown : (s.cbs.filter (ownTable s f)).length = n) :
    (∃ h, (runTcb s f n).me.flights = [h] ∧ h.st = .performed) ∧ (runTcb s f n).mem = s.mem ∧
      ((runTcb s f n).cbs.filter (ownTable s f)).map (fun x => (x.data, x.arrived)) =
        (List.zip (List.range n) (s.cbs.filter (ownTable s f))).map (fun p => (some (tableAt s.mem pa p.1), p.2.arrived)) ∧
      ((runTcb s f n).cbs.filter fun x => !ownTable s f x) = s.cbs.filter fun x => !ownTable s f x := by
  have hkeep : ∀ t data, ownTable s f { t with data := data } = ownTable s f t := fun _ _ => rfl
  have hcbs : (runTcb s f n).cbs = fillTables (ownTable s f) (tableIn (memBytes s.mem pa (16 * n))) s.cbs 0 := by
    rw [runTcb_eq hring hacc hvia]
    exact claimRing_cbs _
  refine ⟨⟨{ f with st := .performed, started := true }, ?_, rfl⟩, ?_, ?_, ?_⟩
  · rw [runTcb_eq hring hacc hvia]
    simp [setFlight, modFlight, claimRing_flights, hfl]
  · rw [runTcb_eq hring hacc hvia]
    exact claimRing_mem _
  · rw [hcbs, filter_fillTables _ hkeep, hown, ← List.range_eq_range', List.map_map]
    refine List.map_congr_left fun p hp => ?_
    have hlt := List.mem_range.1 (List.of_mem_zip hp).1
    rw [Function.comp_apply, tableIn_memBytes s.mem pa hlt]
  · rw [hcbs, filter_not_fillTables _ hkeep]

/-! ## BCOPY of one unit (R147) -/

section Copy
variable {s s1 : State} {f : Flight} {rd : List Seg} {w : Seg} {n pa : Nat} (hme : s1.me = s.me)
  (hread : accessRanges s [(f.addr2.toNat, n)] .read .copy false (some f) = (.ok rd, s))
  (hwrite : accessRanges s [(f.addr.toNat, n)] .write .copy false (some f) = (.ok [w], s1)) (hlen : w.len = n)
  (hvia : viaBytes s1 rd f.addr2.toNat n pa) (hclean : ∀ g ∈ rd, poisonedAt s1 g.pa g.len = false)
include hme hread hwrite hlen hvia hclean

/-- The bytes of a unit are read, then written. -/
theorem copyUnit_eq : copyUnit s f f.addr.toNat f.addr2.toNat n =
    (none, sendSegs (homeWrite s1 (.block s.me.slot) w.pa (memBytes s1.mem pa n)) f [w]) := by
  have hbytes := readVia_of_viaBytes hvia f.addr2.isLt
  rw [hme] at hbytes
  have hbad : (rd.any fun g => poisonedAt s1 g.pa g.len) = false := by
    rw [List.any_eq_false]
    exact fun g hg => by simp [hclean g hg]
  have htake : (memBytes s1.mem pa n).take n = memBytes s1.mem pa n := List.take_of_length_le (memBytes_length _ _ _).le
  simp only [copyUnit, Nat.mod_eq_of_lt f.addr2.isLt, Nat.mod_eq_of_lt f.addr.isLt, hread, hwrite, hbytes, hbad, List.foldl_cons,
    List.foldl_nil, hlen, htake, Bool.false_eq_true, if_false]

theorem runBcopy_eq (h0 : 0 < n) (h64 : n ≤ 64) (helg : f.elg = Vector.replicate 8 0) :
    runBcopy s f n = flightDone (refetch (sendSegs (homeWrite s1 (.block s.me.slot) w.pa (memBytes s1.mem pa n)) f [w])
      [(f.addr.toNat, n)]) { f with elg := elgSet f.elg 0 1 } := by
  have htotal : (n + 63) / 64 = 1 := by omega
  have hstart : f.elg[0] = 0 := by simp [helg]
  have hmin : min 64 n = n := by omega
  simp only [runBcopy, htotal, hstart, Nat.sub_zero, copyUnits, Nat.sub_self, ite_self, Nat.mul_zero, Nat.add_zero, hmin,
    copyUnit_eq hme hread hwrite hlen hvia hclean]

/-- A copy of at most 64 bytes leaves the source's bytes at the destination and no other byte changed. -/
theorem runBcopy_copies (hfl : s.me.flights = [f]) (haq : Instr.aqBit f.ins = false) (hwf : memWf s1.mem = true) (h0 : 0 < n)
    (h64 : n ≤ 64) (helg : f.elg = Vector.replicate 8 0) :
    (∃ h, (runBcopy s f n).me.flights = [h] ∧ h.st = .performed) ∧
      memBytes (runBcopy s f n).mem w.pa n = memBytes s1.mem pa n ∧
      ∀ a, (a < w.pa ∨ w.pa + n ≤ a) → memRead (runBcopy s f n).mem a = memRead s1.mem a := by
  have hmem : (runBcopy s f n).mem = memStore s1.mem w.pa (memBytes s1.mem pa n) := by
    rw [runBcopy_eq hme hread hwrite hlen hvia hclean h0 h64 helg, flightDone_mem, refetch_mem, sendSegs_mem]
    exact (homeWrite_frame _ _ _ _).1
  refine ⟨?_, ?_, fun a ha => ?_⟩
  · rw [runBcopy_eq hme hread hwrite hlen hvia hclean h0 h64 helg]
    refine flightDone_alone (g := f) haq ?_ rfl
    have hflights : ∀ (u : State) rs, (refetch u rs).me.flights = u.me.flights := fun _ _ => rfl
    rw [hflights, sendSegs_me, homeWrite_me, hme, hfl]
  · have hsame := memBytes_store_same hwf w.pa (memBytes s1.mem pa n)
    rw [memBytes_length] at hsame
    rw [hmem, hsame]
  · rw [hmem]
    exact memRead_store_other hwf _ _ _ (by rwa [memBytes_length])

end Copy

end Sys2Proof.Proofs

/-!
PROOFS. TOPT on one element (R142), and the statement TileMemoryMoves: a run over one element, the five planes of a pattern in memory
(R43, R116), and the planes that an update writes.
-/
namespace Sys2Proof.Proofs

open Sys2Proof Sys2Proof.Machine Sys2Proof.Laws

/-! ## Versions of a block -/

theorem poisonOf_unpoisoned {b : Block} (h : ∀ v ∈ b.versions, v.poison = []) (o : Option Nat) : poisonOf b o = [] := by
  unfold poisonOf
  split
  · next v hv =>
    obtain ⟨i, _, hi⟩ := Option.bind_eq_some_iff.1 hv
    exact h v (findVersion_mem hi)
  · rfl

theorem setVersion_flights (s : State) (o : Option Nat) (g : Version → Version) : (setVersion s o g).me.flights = s.me.flights := by
  cases o <;> rfl

/-! ## A run over one element -/

theorem performedAt_fresh (lgs : List Nat) (e : Nat) : performedAt lgs (Vector.replicate 8 0) e = false := by
  simp [performedAt]

/-- An element that nothing stops has the effect of its access. -/
theorem performElem_acts {o : ElemOps} {f : Flight} {p : Perf} {e : Nat} {u : State} {segs : List Seg} {v : Option Nat}
    (hgoing : p.stopped = []) (hfresh : performedAt f.lgs p.elg e = false) (hskips : f.skips.contains e = false) (hlate : o.late e = false)
    (hbound : o.bound e = none) (hunit : o.unit_ e = e) (hkind : o.kind = .read) (hbad : o.bad = [])
    (hpages : accessPages p.s p.s.me (o.ranges e) .read .tile (some { f with pins := p.pins }) = (.ok segs, p.s))
    (hsegs : accessSegs p.s segs .read o.reads (some f) = (.ok segs, p.s)) (hact : o.act p.s segs e = (.ok v, u)) :
    (performElem o f p e).s = u ∧ (performElem o f p e).stopped = [] ∧ (performElem o f p e).named = p.named := by
  have hrun : (p.stopped.contains (lgOf f.lgs e) || performedAt f.lgs p.elg e) = false := by simp [hgoing, hfresh]
  simp only [performElem, hrun, hskips, hlate, hbound, hunit, hkind, hpages, hbad, hsegs, hact, List.contains_nil, ne_eq,
    not_true_eq_false, decide_false, Bool.false_and, Bool.false_eq_true, if_false, if_true, true_and]
  exact ⟨hgoing, trivial⟩

/-- A run over one element. -/
theorem performElems_one (o : ElemOps) (f : Flight) (s : State) :
    performElems o f s (List.range 1) = performElem o f ⟨s, f.elg, [], none, [], f.pins⟩ 0 := rfl

/-- A run in which no lane group has stopped is done. -/
theorem endRun_done {p : Perf} (hstopped : p.stopped = []) (hnamed : p.named = none) (f : Flight) (done : State → Flight → State) :
    endRun p f done = flightDone (done (setVersion p.s f.dst fun v => { v with elems := mergeElems v.elems 0 p.data.reverse })
      { f with elg := p.elg, pins := p.pins }) { f with elg := p.elg, pins := p.pins } := by
  simp only [endRun, hstopped, hnamed, if_true]

/-! ## Planes in memory -/

theorem field_fits (f : Machine.Field) : f.bit + f.w ≤ 8 * f.bytes := by
  rw [Field.bytes]
  omega

theorem planeField_va_lt (l : Layout) (k : Nat) (p : Int) : (l.planeField k p).va < 2 ^ 64 := by
  unfold Layout.planeField
  split
  · exact Nat.mod_lt _ (by decide)
  · exact wrap64_lt _

theorem planeField_w (l : Layout) (k : Nat) (p : Int) : (l.planeField k p).w = planeBits k := by
  unfold Layout.planeField
  split <;> rfl

theorem elemOffset_zero (g : ShapeRec) : elemOffset g 0 = 0 := by
  simp [elemOffset, elemRow, elemCol]

theorem unitFirst_zero (l : Layout) : l.unitFirst 0 = 0 := by
  unfold Layout.unitFirst
  split
  · rfl
  · split <;> simp

/-- Plane k of a pattern of five planes. -/
def planeIn (x k : Nat) : Nat := bitsOf x (32 - planesWidth (k + 1)) (planeBits k)

/-- Plane k of a stream position as memory holds it, its bytes standing at `at_ k`. -/
def planeHeld (m : List Host.Cell) (l : Layout) (p : Int) (at_ : Nat → Nat) (k : Nat) : Nat :=
  bitsOf (memNat m (at_ k) (l.planeField k p).bytes) (l.planeField k p).bit (planeBits k)

/-- The pattern of five planes. -/
def joinPlanes (has : Nat → Nat) : Nat := (List.range 5).foldl (fun a k => a * 2 ^ planeBits k + has k) 0

theorem planeIn_joinPlanes {has : Nat → Nat} (h : ∀ k < 5, has k < 2 ^ planeBits k) {k : Nat} (hk : k < 5) :
    planeIn (joinPlanes has) k = has k := by
  have h0 := h 0 (by decide)
  have h1 := h 1 (by decide)
  have h2 := h 2 (by decide)
  have h3 := h 3 (by decide)
  have h4 := h 4 (by decide)
  simp only [planeBits] at h0 h1 h2 h3 h4
  have hjoin : joinPlanes has = ((((0 * 2 ^ 4 + has 0) * 2 ^ 2 + has 1) * 2 ^ 2 + has 2) * 2 ^ 8 + has 3) * 2 ^ 16 + has 4 := rfl
  rw [hjoin]
  interval_cases k <;> simp only [planeIn, bitsOf, planesWidth, planeBits] <;> simp at * <;> omega

theorem readPlanes_fields {s : State} {l : Layout} {segs : List Seg} {p : Int} (hearly : l.early = []) {has : Nat → Nat} (n k acc : Nat)
    (h : ∀ j, k ≤ j → j < k + n → readField s (slotDie s.me.slot) segs (l.planeField j p) = (has j, s)) :
    readPlanes s (slotDie s.me.slot) l segs p n k acc = ((List.range' k n).foldl (fun a k => a * 2 ^ planeBits k + has k) acc, s) := by
  induction n generalizing k acc with
  | zero => rfl
  | succ n ih =>
    have hk : readPlaneField s (slotDie s.me.slot) l segs p k = (has k, s) := by
      simp [readPlaneField, hearly, h k (Nat.le_refl k) (by omega)]
    simp only [readPlanes, hk, List.range'_succ, List.foldl_cons]
    exact ih (k + 1) _ fun j hj hjn => h j (by omega) (by omega)

/-! ## The planes that an update writes (R142) -/

/-- Plane k of an update: it is written where it changes. -/
def planeStep (who : Agent) (l : Layout) (segs : List Seg) (p : Int) (old new : Nat) (s : State) (k : Nat) : State :=
  if planeIn old k == planeIn new k then s else writeField s who segs (l.planeField k p) (planeIn new k)

theorem writePlanes_eq_foldl (s : State) (who : Agent) (l : Layout) (segs : List Seg) (p : Int) (old new : Nat) :
    writePlanes s who l segs p new (some old) 5 0 32 = (List.range 5).foldl (planeStep who l segs p old new) s := rfl

section Update
variable {l : Layout} {segs : List Seg} {p : Int} {at_ : Nat → Nat} {old new : Nat} (who : Agent)
  (hvia : ∀ k < 5, planeIn old k ≠ planeIn new k → ∀ i < (l.planeField k p).bytes,
    (viaSegs segs (((l.planeField k p).va + i) % 2 ^ 64)).map Prod.fst = some (at_ k + i))
include hvia

/-- One plane: of the block nothing changes, bytes elsewhere stay, and where the plane changes it is written. -/
theorem planeStep_spec {s : State} (hwf : memWf s.mem = true) {k : Nat} (hk : k < 5) :
    memWf (planeStep who l segs p old new s k).mem = true ∧ (planeStep who l segs p old new s k).me = s.me ∧
      (∀ a, (planeIn old k ≠ planeIn new k → a < at_ k ∨ at_ k + (l.planeField k p).bytes ≤ a) →
        memRead (planeStep who l segs p old new s k).mem a = memRead s.mem a) ∧
      (planeIn old k ≠ planeIn new k → planeHeld (planeStep who l segs p old new s k).mem l p at_ k = planeIn new k) := by
  by_cases hch : planeIn old k = planeIn new k
  · have hstep : planeStep who l segs p old new s k = s := by simp [planeStep, hch]
    rw [hstep]
    exact ⟨hwf, rfl, fun _ _ => rfl, fun h => absurd hch h⟩
  · have hstep : planeStep who l segs p old new s k = writeField s who segs (l.planeField k p) (planeIn new k) := by
      simp [planeStep, hch]
    obtain ⟨hmem, hme⟩ := writeField_stores (s := s) who (planeField_va_lt l k p) (hvia k hk hch) (planeIn new k)
    have hbits := bitsOf_stored hwf (at_ k) (field_fits (l.planeField k p)) (planeIn new k)
    have hfits : planeIn new k < 2 ^ planeBits k := Nat.mod_lt _ (Nat.two_pow_pos _)
    rw [hstep, hmem]
    refine ⟨memWf_store _ _ hwf, hme, fun a ha => ?_, fun _ => ?_⟩
    · exact memRead_store_other hwf _ _ _ (by rw [leBytes_length]; exact ha hch)
    · rw [planeHeld, ← planeField_w l k p, hbits, planeField_w, Nat.mod_eq_of_lt hfits]

/-- The planes of a list, one after the other, where they lie in bytes of their own. -/
theorem planeSteps_spec (hapart : ∀ j < 5, ∀ k < 5, j ≠ k →
      at_ j + (l.planeField j p).bytes ≤ at_ k ∨ at_ k + (l.planeField k p).bytes ≤ at_ j)
    (ks : List Nat) (hks : ∀ k ∈ ks, k < 5) (hnodup : ks.Nodup) {s : State} (hwf : memWf s.mem = true) :
    (ks.foldl (planeStep who l segs p old new) s).me = s.me ∧
      (∀ a, (∀ k ∈ ks, planeIn old k ≠ planeIn new k → a < at_ k ∨ at_ k + (l.planeField k p).bytes ≤ a) →
        memRead (ks.foldl (planeStep who l segs p old new) s).mem a = memRead s.mem a) ∧
      (∀ k ∈ ks, planeIn old k ≠ planeIn new k →
        planeHeld (ks.foldl (planeStep who l segs p old new) s).mem l p at_ k = planeIn new k) := by
  induction ks generalizing s with
  | nil => exact ⟨rfl, fun _ _ => rfl, fun _ h => absurd h List.not_mem_nil⟩
  | cons k r ih =>
    obtain ⟨hnot, hr⟩ := List.nodup_cons.1 hnodup
    have hk := hks k List.mem_cons_self
    obtain ⟨hwf1, hme1, hother1, hheld1⟩ := planeStep_spec who hvia hwf hk
    obtain ⟨hme, hother, hheld⟩ := ih (fun j hj => hks j (List.mem_cons_of_mem _ hj)) hr hwf1
    rw [List.foldl_cons]
    refine ⟨hme.trans hme1, fun a ha => ?_, fun j hj hch => ?_⟩
    · exact (hother a fun j hj => ha j (List.mem_cons_of_mem _ hj)).trans (hother1 a (ha k List.mem_cons_self))
    · rcases List.mem_cons.1 hj with rfl | hj
      · rw [← hheld1 hch, planeHeld, planeHeld, memNat, memNat, memBytes_congr]
        intro i hi
        refine hother _ fun q hq _ => ?_
        have hne : q ≠ j := fun e => hnot (e ▸ hq)
        have := hapart q (hks q (List.mem_cons_of_mem _ hq)) j hk hne
        omega
      · exact hheld j hj hch

end Update

/-! ## TOPT on one element -/

section Topt
variable {s s1 : State} {f : Flight} {l : Layout} {rd wr : List Seg} {at_ : Nat → Nat} {delta : Nat}

/-- The pattern of the element as memory holds it. -/
def oldPattern (s : State) (l : Layout) (at_ : Nat → Nat) : Nat := joinPlanes (planeHeld s.mem l 0 at_)

/-- The pattern that R142 computes. -/
def newPattern (s : State) (l : Layout) (at_ : Nat → Nat) (delta : Nat) : Nat := toptNew (oldPattern s l at_) delta (l.plane 0).scale

/-- The planes that change. -/
def changedPlanes (s : State) (l : Layout) (at_ : Nat → Nat) (delta : Nat) : List Nat :=
  (List.range 5).filter fun k => planeIn (oldPattern s l at_) k != planeIn (newPattern s l at_ delta) k

/-- The byte ranges of the planes that change. -/
def changedRanges (s : State) (l : Layout) (at_ : Nat → Nat) (delta : Nat) : List (Nat × Nat) :=
  (changedPlanes s l at_ delta).map fun k => ((l.planeField k 0).va, (l.planeField k 0).bytes)

/-- The state in which the planes that change are written. -/
def planesWritten (s s1 : State) (f : Flight) (l : Layout) (wr : List Seg) (at_ : Nat → Nat) (delta : Nat) : State :=
  refetch (sendSegs ((List.range 5).foldl
    (planeStep (.block s.me.slot) l wr 0 (oldPattern s l at_) (newPattern s l at_ delta)) s1) f wr) (changedRanges s l at_ delta)

variable (hpins : f.pins = []) (hearly : l.early = []) (hme : s1.me = s.me)
  (hvia : ∀ k < 5, viaBytes s rd (l.planeField k 0).va (l.planeField k 0).bytes (at_ k))
  (hpages : accessPages s s.me (changedRanges s l at_ delta) .write .tile (some { f with pins := addPins 0 [] rd }) = (.ok wr, s1))
  (hrd : segsStop s1 s1.me rd true (some f) = none) (hwr : segsStop s1 s1.me wr false (some f) = none)
include hpins hearly hvia hpages hrd hwr

theorem toptElem_eq : toptElem s f l rd 0 delta false = (.ok none, planesWritten s s1 f l wr at_ delta) := by
  have hread : readPlanes s (slotDie s.me.slot) l rd 0 5 0 0 = (oldPattern s l at_, s) := by
    rw [oldPattern, joinPlanes, List.range_eq_range']
    refine readPlanes_fields hearly 5 0 0 fun k _ hk => ?_
    rw [readField_of_viaBytes (hvia k (by omega)) (planeField_va_lt l k 0), planeField_w, planeHeld]
  have hranges : ((List.range 5).filter fun k =>
      bitsOf (oldPattern s l at_) (32 - planesWidth (k + 1)) (planeBits k) !=
        bitsOf (toptNew (oldPattern s l at_) delta (l.plane 0).scale) (32 - planesWidth (k + 1)) (planeBits k)).map
      (fun k => ((l.planeField k 0).va, (l.planeField k 0).bytes)) = changedRanges s l at_ delta := rfl
  simp only [toptElem, elemOffset_zero, hread, hranges, hpins, hpages, hrd, Bool.false_eq_true, if_false, accessSegs_write hwr,
    writePlanes_eq_foldl]
  rfl

end Topt

theorem mem_changedPlanes {s : State} {l : Layout} {at_ : Nat → Nat} {delta k : Nat} :
    k ∈ changedPlanes s l at_ delta ↔ k < 5 ∧ planeIn (oldPattern s l at_) k ≠ planeIn (newPattern s l at_ delta) k := by
  simp [changedPlanes]

/-- A plane of the old pattern is what memory holds of it. -/
theorem planeIn_oldPattern (s : State) (l : Layout) (at_ : Nat → Nat) {k : Nat} (hk : k < 5) :
    planeIn (oldPattern s l at_) k = planeHeld s.mem l 0 at_ k :=
  planeIn_joinPlanes (fun j _ => Nat.mod_lt _ (Nat.two_pow_pos (planeBits j))) hk

section PlanesWritten
variable {s s1 : State} {f : Flight} {l : Layout} {wr : List Seg} {at_ : Nat → Nat} {delta : Nat} (hwf : memWf s1.mem = true)
  (hmem : s1.mem = s.mem)
  (hwvia : ∀ k ∈ changedPlanes s l at_ delta, ∀ i < (l.planeField k 0).bytes,
    (viaSegs wr (((l.planeField k 0).va + i) % 2 ^ 64)).map Prod.fst = some (at_ k + i))
  (hapart : ∀ j < 5, ∀ k < 5, j ≠ k → at_ j + (l.planeField j 0).bytes ≤ at_ k ∨ at_ k + (l.planeField k 0).bytes ≤ at_ j)
include hwf hwvia hapart

theorem planesWritten_flights : (planesWritten s s1 f l wr at_ delta).me.flights = s1.me.flights := by
  obtain ⟨hme, -, -⟩ := planeSteps_spec (.block s.me.slot) (fun k hk hch => hwvia k (mem_changedPlanes.2 ⟨hk, hch⟩)) hapart
    (List.range 5) (fun k => List.mem_range.1) List.nodup_range hwf
  have hflights : ∀ (u : State) rs, (refetch u rs).me.flights = u.me.flights := fun _ _ => rfl
  rw [planesWritten, hflights, sendSegs_me, hme]

include hmem

/-- Memory outside the planes that change is as it was. -/
theorem planesWritten_other {a : Nat} (ha : ∀ k ∈ changedPlanes s l at_ delta, a < at_ k ∨ at_ k + (l.planeField k 0).bytes ≤ a) :
    memRead (planesWritten s s1 f l wr at_ delta).mem a = memRead s.mem a := by
  obtain ⟨-, hother, -⟩ := planeSteps_spec (.block s.me.slot) (fun k hk hch => hwvia k (mem_changedPlanes.2 ⟨hk, hch⟩)) hapart
    (List.range 5) (fun k => List.mem_range.1) List.nodup_range hwf
  rw [planesWritten, refetch_mem, sendSegs_mem, ← hmem]
  exact hother a fun k hk hch => ha k (mem_changedPlanes.2 ⟨List.mem_range.1 hk, hch⟩)

/-- Memory holds every plane of the new pattern: the planes that change are written, the others agree with it already. -/
theorem planesWritten_held {k : Nat} (hk : k < 5) :
    planeHeld (planesWritten s s1 f l wr at_ delta).mem l 0 at_ k = planeIn (newPattern s l at_ delta) k := by
  by_cases hch : planeIn (oldPattern s l at_) k = planeIn (newPattern s l at_ delta) k
  · have hkeep : memBytes (planesWritten s s1 f l wr at_ delta).mem (at_ k) (l.planeField k 0).bytes =
        memBytes s.mem (at_ k) (l.planeField k 0).bytes := by
      refine memBytes_congr fun i hi => planesWritten_other hwf hmem hwvia hapart fun j hj => ?_
      obtain ⟨hj5, hjch⟩ := mem_changedPlanes.1 hj
      have hne : j ≠ k := fun e => hjch (e ▸ hch)
      have := hapart j hj5 k hk hne
      omega
    rw [← hch, planeIn_oldPattern s l at_ hk, planeHeld, planeHeld, memNat, memNat, hkeep]
  · obtain ⟨-, -, hheld⟩ := planeSteps_spec (.block s.me.slot) (fun k hk hch => hwvia k (mem_changedPlanes.2 ⟨hk, hch⟩)) hapart
      (List.range 5) (fun k => List.mem_range.1) List.nodup_range hwf
    rw [planesWritten, refetch_mem, sendSegs_mem]
    exact hheld k (List.mem_range.2 hk) hch

end PlanesWritten

/-- What a TOPT does at its elements, `vals` being the deltas, none of them poisoned. -/
def toptOps (f : Flight) (l : Layout) (vals : List Half) : ElemOps :=
  { bound := fun _ => none, ranges := l.ranges 5, unit_ := l.unitFirst, kind := .read, reads := false,
    act := fun s segs e => toptElem s f l segs e (vals.getD e 0).toNat false }

/-- An LP operand whose plane table was read is laid out by it. -/
theorem withLayout_planes {s : State} {f : Flight} {pl : List Plane} (k : State → Flight → Layout → State)
    (hlp : f.shape.memType = 16) (hplanes : f.planes = some pl) :
    withLayout s f k = k s f (layoutOf s.me f pl) := by
  have hf : ({ f with planes := some pl } : Flight) = f := by rw [← hplanes]
  simp only [withLayout, fetchPlanes, hlp, if_true, hplanes, hf]

section RunTopt
variable {s s1 : State} {f : Flight} {pl : List Plane} {v : Version} {l : Layout} {delta : Nat} {rd wr : List Seg} {at_ : Nat → Nat}
  (hlp : f.shape.memType = 16) (hplanes : f.planes = some pl) (hcount : f.shape.count = 1)
  (hl : l = layoutOf s.me f pl) (hdelta : delta = (v.elems.getD 0 0).toNat)
  (hpins : f.pins = []) (hskips : f.skips = []) (hearly : f.early = []) (helg : f.elg = Vector.replicate 8 0)
  (hta : f.ta = some v.id) (hv : findVersion s.me v.id = some v) (hclean : v.poison = []) (hhbm : ∀ g ∈ rd, regionOf g.pa = .hbm)
  (hrd0 : segsStop s s.me rd true (some f) = none)
  (hrd : segsStop s1 s1.me rd true (some f) = none) (hwr : segsStop s1 s1.me wr false (some f) = none)
  (hread : accessPages s s.me (l.ranges 5 0) .read .tile (some f) = (.ok rd, s))
  (hwrite : accessPages s s.me (changedRanges s l at_ delta) .write .tile (some { f with pins := addPins 0 [] rd }) = (.ok wr, s1))
  (hvia : ∀ k < 5, viaBytes s rd (l.planeField k 0).va (l.planeField k 0).bytes (at_ k))
include hlp hplanes hcount hl hdelta hpins hskips hearly helg hta hv hclean hhbm hrd0 hrd hwr hread hwrite hvia

/-- A TOPT on one element performs with the planes that change written. -/
theorem runTopt_eq : ∃ g elg pins, runTopt s f =
    flightDone (setVersion (planesWritten s s1 f l wr at_ delta) f.dst g) { f with elg := elg, pins := pins } := by
  have hvals : sourceElems s.me f = v.elems := by simp [sourceElems, hta, hv]
  have hbad : badOf s.me f f.ta = [] := by
    refine badOf_of_unpoisoned (fun w hw => ?_) f
    rw [hta] at hw
    obtain rfl : v = w := Option.some.inj (hv.symm.trans hw)
    exact hclean
  have hact : (toptOps f l v.elems).act s rd 0 = (.ok none, planesWritten s s1 f l wr at_ delta) := by
    have htables : l.early = [] := by rw [hl]; exact hearly
    rw [← toptElem_eq hpins htables hvia hwrite hrd hwr, hdelta]
    rfl
  have hfresh : performedAt f.lgs f.elg 0 = false := by rw [helg]; exact performedAt_fresh _ _
  obtain ⟨hs, hstopped, hnamed⟩ := performElem_acts (o := toptOps f l v.elems) (f := f) (p := ⟨s, f.elg, [], none, [], f.pins⟩)
    rfl hfresh (by rw [hskips]; rfl) rfl rfl (unitFirst_zero _) rfl rfl hread (accessSegs_read (segsStop_unread hrd0) hhbm) hact
  have hrun : runTopt s f = endRun (performElem (toptOps f l v.elems) f ⟨s, f.elg, [], none, [], f.pins⟩ 0) f fun u _ => u := by
    have hone : l.g.count = 1 := by rw [hl]; exact hcount
    simp only [runTopt, withLayout_planes _ hlp hplanes, ← hl, hone, performElems_one, hvals, hbad, List.contains_nil]
    rfl
  rw [hrun, endRun_done hstopped hnamed, hs]
  exact ⟨_, _, _, rfl⟩

/-- A TOPT on one element writes the planes that change of the pattern that R142 computes, and no other byte. -/
theorem runTopt_updates (hfl : s.me.flights = [f]) (haq : Instr.aqBit f.ins = false) (hme : s1.me = s.me)
    (hwf : memWf s1.mem = true) (hmem : s1.mem = s.mem)
    (hwvia : ∀ k ∈ changedPlanes s l at_ delta, ∀ i < (l.planeField k 0).bytes,
      (viaSegs wr (((l.planeField k 0).va + i) % 2 ^ 64)).map Prod.fst = some (at_ k + i))
    (hapart : ∀ j < 5, ∀ k < 5, j ≠ k → at_ j + (l.planeField j 0).bytes ≤ at_ k ∨ at_ k + (l.planeField k 0).bytes ≤ at_ j) :
    (∃ h, (runTopt s f).me.flights = [h] ∧ h.st = .performed) ∧
      (∀ k < 5, planeHeld (runTopt s f).mem l 0 at_ k = planeIn (newPattern s l at_ delta) k) ∧
      ∀ a, (∀ k ∈ changedPlanes s l at_ delta, a < at_ k ∨ at_ k + (l.planeField k 0).bytes ≤ a) →
        memRead (runTopt s f).mem a = memRead s.mem a := by
  obtain ⟨g, elg, pins, hrun⟩ :=
    runTopt_eq hlp hplanes hcount hl hdelta hpins hskips hearly helg hta hv hclean hhbm hrd0 hrd hwr hread hwrite hvia
  have hmemrun : (runTopt s f).mem = (planesWritten s s1 f l wr at_ delta).mem := by
    rw [hrun, flightDone_mem, setVersion_mem]
  refine ⟨?_, fun k hk => ?_, fun a ha => ?_⟩
  · rw [hrun]
    refine flightDone_alone (g := f) haq ?_ rfl
    rw [setVersion_flights, planesWritten_flights hwf hwvia hapart, hme, hfl]
  · rw [hmemrun, planesWritten_held hwf hmem hwvia hapart hk]
  · rw [hmemrun, planesWritten_other hwf hmem hwvia hapart ha]

end RunTopt

/-! ## The statement -/

/-- Settles O30: a gather ends with the window of its lowest outstanding index (`runWindow_eq`, `endWindow_eq`), a TOPT on one element
writes the planes that change (`runTopt_updates`), a TCB fills its own tables (`runTcb_fills`), and a BCOPY of one unit copies it
(`runBcopy_copies`). -/
theorem tileMemoryMoves : Obligations.TileMemoryMoves := by
  unfold Obligations.TileMemoryMoves
  intro s s1 f rd wr at_ hfl _ _ hme _ _ hpins hskips haq hclean hhbm hrd0 hrd hwr
  refine ⟨?tgth, ?topt, ?tcb, ?bcopy⟩
  case tgth =>
    intro c g d d2 hins hg hdst hdst2 hne hd hd2 htype hmt hfill l n out win old val mask hin hout hacc hvia
    subst hg
    have hp : poisonOf s.me f.old = [] := poisonOf_unpoisoned hclean _
    have hrun : performFlight s f = windowEnded s f ((List.range f.shape.count).map val) ((List.range f.shape.count).map mask) []
        (f.shape.count - (out.filter fun e => decide (e ∉ win)).length) := by
      simp only [performFlight, hins]
      rw [runWindow_eq htype hclean hin hout hacc hrd0 hhbm fun e he => loadElem_plain hmt (hvia e he), endWindow_eq hskips hp]
      rfl
    simp only [hrun]
    exact ⟨windowEnded_alone haq hdst hdst2 _ _ _ hfl, windowEnded_mem _ _ _ _ _ _, windowEnded_dst haq hdst hdst2 _ _ _ hne hd,
      windowEnded_dst2 haq hdst hdst2 _ _ _ hne hd2, windowEnded_fill haq hdst hdst2 _ _ _ hfill⟩
  case topt =>
    intro c pl v hins hlp hplanes hearly hrows hcols _ helg hta hv _ hwf hmem l fld has old new plane changed hread hwrite hvia hwvia hapart
    have hcount : f.shape.count = 1 := by simp [ShapeRec.count, hrows, hcols]
    have hrun : performFlight s f = runTopt s f := by simp only [performFlight, hins]
    simp only [hrun]
    exact runTopt_updates hlp hplanes hcount rfl rfl hpins hskips hearly helg hta hv (hclean v (findVersion_mem hv)) hhbm hrd0 hrd hwr hread
      hwrite hvia hfl haq hme hwf hmem hwvia hapart
  case tcb =>
    intro c hins hring hacc hvia mine hown
    have hrun : performFlight s f = runTcb s f c.n.toNat := by simp only [performFlight, hins]
    simp only [hrun]
    exact runTcb_fills hfl hring hacc hvia hown
  case bcopy =>
    intro c w hins helg hw hwf n h0 h64 hlen hread hwrite hvia hpoison
    subst hw
    have hrun : performFlight s f = runBcopy s f c.len.toNat := by simp only [performFlight, hins]
    simp only [hrun]
    exact runBcopy_copies hme hread hwrite hlen hvia hpoison hfl haq hwf h0 h64 helg

end Sys2Proof.Proofs

/-!
PROOFS. The decoder accepts the words of well-formed instructions and no others (the statements DecodeOfEncode and
EncodeOfDecode, R56 to R77): what each reader accepts is the word that the encoder writes for the operands read.
-/
namespace Sys2Proof.Proofs

open Sys2Proof Sys2Proof.Laws

/-! ## A word is the sequence of its fields -/

/-- Two neighbouring fields make one. -/
theorem fld_append_fld (x : BitVec 64) {hi lo a b : Nat} (h : hi = lo + b) : fld x hi a ++ fld x lo b = fld x lo (a + b) :=
  BitVec.extractLsb'_append_extractLsb'_eq_extractLsb' h

theorem fld_all (x : BitVec 64) : fld x 0 64 = x := by simp [fld]

theorem b1_bitB (x : BitVec 64) (k : Nat) : b1 (bitB x k) = fld x k 1 := by
  rw [bitB_field, fld]
  generalize x.extractLsb' k 1 = y
  revert y
  decide

theorem bitB_eq_false_iff (x : BitVec 64) (k : Nat) : bitB x k = false ↔ fld x k 1 = 0#1 := by
  rw [← b1_bitB]
  cases bitB x k <;> decide

/-! ## Codes of operand kinds, read and written back -/

theorem widthCode_widthOf (c : BitVec 2) : widthCode (widthOf c) = c := by revert c; decide

theorem repSizeCode_repSizeOf (c : BitVec 2) : repSizeCode (repSizeOf c) = c := by revert c; decide

/-- A reader of codes whose every answer is written back as the code read. -/
theorem code_of_read {α : Type} {w : Nat} {read : BitVec w → Option α} {code : α → BitVec w}
    (hall : ∀ c, (read c).all (fun a => code a == c) = true) {c : BitVec w} {a : α} (h : read c = some a) : code a = c := by
  simpa [h] using hall c

theorem scopeCode_of_scopeOf {c : BitVec 3} {a : Scope} (h : scopeOf c = some a) : scopeCode a = c :=
  code_of_read (read := scopeOf) (by decide) h

theorem condCode_of_condOf {c : BitVec 4} {a : Cond} (h : condOf c = some a) : condCode a = c :=
  code_of_read (read := condOf) (by decide) h

theorem planeModeCode_of_planeModeOf {c : BitVec 2} {a : PlaneMode} (h : planeModeOf c = some a) : planeModeCode a = c :=
  code_of_read (read := planeModeOf) (by decide) h

theorem shapeFieldCode_of_shapeFieldOf {c : BitVec 4} {a : ShapeField} (h : shapeFieldOf c = some a) : shapeFieldCode a = c :=
  code_of_read (read := shapeFieldOf) (by decide) h

theorem querySelCode_of_querySelOf {c : BitVec 3} {a : QuerySel} (h : querySelOf c = some a) : querySelCode a = c :=
  code_of_read (read := querySelOf) (by decide) h

theorem redOpCode_of_redOpOf {c : BitVec 4} {a : RedOp} (h : redOpOf c = some a) : redOpCode a = c :=
  code_of_read (read := redOpOf) (by decide) h

theorem sysRegCode_of_sysRegOf {c : BitVec 12} {r : SysReg} (h : sysRegOf c = some r) : sysRegCode r = c := by
  unfold sysRegOf at h
  split at h <;> cases h <;> next hc => exact BitVec.eq_of_toNat_eq hc.symm

/-! ## What a check lets through -/

theorem needZero_ok {bad : Bool} {k : Decoded} {i : Instr} (h : needZero bad k = .ok i) : bad = false ∧ k = .ok i := by
  cases bad
  · exact ⟨rfl, h⟩
  · cases h

theorem needSome_ok {α : Type} {o : Option α} {k : α → Decoded} {i : Instr} (h : needSome o k = .ok i) :
    ∃ a, o = some a ∧ k a = .ok i := by
  cases o with
  | none => cases h
  | some a => exact ⟨a, rfl, h⟩

theorem needCode_ok {α : Type} {o : Option α} {k : α → Decoded} {i : Instr} (h : needCode o k = .ok i) :
    ∃ a, o = some a ∧ k a = .ok i := by
  cases o with
  | none => cases h
  | some a => exact ⟨a, rfl, h⟩

theorem unless_ok {p : Prop} [Decidable p] {e : DecodeTrap} {k : Decoded} {i : Instr} (h : (if p then .error e else k) = .ok i) :
    ¬p ∧ k = .ok i := by
  split at h
  · cases h
  · next hp => exact ⟨hp, h⟩

/-- The word `x` reads as the instruction `mk f` of operands that satisfy `P`, and is the word that `pack` writes for them. -/
def ReadsAs {F : Type} (x : BitVec 64) (i : Instr) (pack : BitVec 7 → BitVec 5 → F → BitVec 64) (mk : F → Instr) (P : F → Prop) : Prop :=
  ∃ f, P f ∧ i = mk f ∧ x = pack (fld x 57 7) (fld x 52 5) f

theorem ReadsAs.intro {F : Type} {x : BitVec 64} {i : Instr} {pack : BitVec 7 → BitVec 5 → F → BitVec 64} {mk : F → Instr} {P : F → Prop} (f : F)
    (hi : i = mk f) (hp : P f) (hx : pack (fld x 57 7) (fld x 52 5) f = fld x 0 64) : ReadsAs x i pack mk P :=
  ⟨f, hp, hi, by rw [hx, fld_all]⟩

/-! ## The readers of sequencer words, one for each set of fields of R71 -/

section
variable {x : BitVec 64} {i : Instr}

theorem readS3_ok {mk : S3 → Instr} (h : readS3 x mk = .ok i) : ReadsAs x i packS3 mk fun _ => True := by
  obtain ⟨hz, h⟩ := needZero_ok h
  cases h
  have hz : fld x 0 32 = 0#32 := by simpa using hz
  exact .intro _ rfl trivial (by simp only [packS3, widthCode_widthOf, ← hz, fld_append_fld])

theorem readSamo_ok {mk : SamoF → Instr} (h : readSamo x mk = .ok i) : ReadsAs x i packSamo mk fun f => f.wf = true := by
  obtain ⟨hz, h⟩ := needZero_ok h
  obtain ⟨a, ha, h⟩ := needCode_ok h
  cases h
  have ha := scopeCode_of_scopeOf ha
  have hz : fld x 1 28 = 0#28 ∧ (fld x 31 3 = 0#3 ∨ bitB x 30 = true ∨ bitB x 29 = true) := by
    simpa [or_iff_not_imp_left] using hz
  exact .intro _ rfl (by simpa [SamoF.wf, ← scopeCode_eq_zero, ha, or_assoc] using hz.2)
    (by simp only [packSamo, b1_bitB, ← hz.1, ha, fld_append_fld])

theorem readS2_ok {mk : S2 → Instr} (h : readS2 x mk = .ok i) : ReadsAs x i packS2 mk fun _ => True := by
  obtain ⟨hz, h⟩ := needZero_ok h
  cases h
  have ⟨hz1, hz2⟩ : fld x 0 32 = 0#32 ∧ fld x 34 6 = 0#6 := by simpa [and_assoc] using hz
  exact .intro _ rfl trivial (by simp only [packS2, widthCode_widthOf, ← hz1, ← hz2, fld_append_fld])

theorem readSI_ok {mk : SI → Instr} (h : readSI x mk = .ok i) : ReadsAs x i packSI mk fun _ => True := by
  obtain ⟨hz, h⟩ := needZero_ok h
  cases h
  have hz : fld x 34 6 = 0#6 := by simpa using hz
  exact .intro _ rfl trivial (by simp only [packSI, widthCode_widthOf, ← hz, fld_append_fld])

theorem readBr_ok {mk : BrF → Instr} (h : readBr x mk = .ok i) : ReadsAs x i packBr mk fun _ => True := by
  obtain ⟨hz, h⟩ := needZero_ok h
  obtain ⟨c, hcode, h⟩ := needSome_ok h
  cases h
  have hz : fld x 32 3 = 0#3 := by simpa using hz
  have hcode := condCode_of_condOf hcode
  exact .intro _ rfl trivial (by simp only [packBr, b1_bitB, hcode, ← hz, fld_append_fld])

theorem readOff_ok {mk : BitVec 32 → Instr} (h : readOff x mk = .ok i) : ReadsAs x i packOff mk fun _ => True := by
  obtain ⟨hz, h⟩ := needZero_ok h
  cases h
  have hz : fld x 32 20 = 0#20 := by simpa using hz
  exact .intro _ rfl trivial (by simp only [packOff, ← hz, fld_append_fld])

theorem readSaOff_ok {mk : SaOff → Instr} (h : readSaOff x mk = .ok i) : ReadsAs x i packSaOff mk fun _ => True := by
  obtain ⟨hz, h⟩ := needZero_ok h
  cases h
  have hz : fld x 32 14 = 0#14 := by simpa using hz
  exact .intro _ rfl trivial (by simp only [packSaOff, ← hz, fld_append_fld])

theorem readBrSa_ok {mk : BitVec 6 → Instr} (h : readBrSa x mk = .ok i) : ReadsAs x i packBrSa mk fun _ => True := by
  obtain ⟨hz, h⟩ := needZero_ok h
  cases h
  have hz : fld x 0 46 = 0#46 := by simpa using hz
  exact .intro _ rfl trivial (by simp only [packBrSa, ← hz, fld_append_fld])

theorem readLbrk_ok {mk : BitVec 3 → BitVec 32 → Instr} (h : readLbrk x mk = .ok i) :
    ReadsAs x i (fun M m => Function.uncurry (packLbrk M m)) (Function.uncurry mk) fun p => (p.1 != 0 && p.1 != 7) = true := by
  obtain ⟨hz, h⟩ := needZero_ok h
  obtain ⟨hlv, h⟩ := unless_ok h
  cases h
  have hz : fld x 35 17 = 0#17 := by simpa using hz
  exact .intro (fld x 32 3, fld x 0 32) rfl (by simpa using hlv) (by simp only [Function.uncurry_apply_pair, packLbrk, ← hz, fld_append_fld])

theorem readSdImm_ok {mk : SdImm → Instr} (h : readSdImm x mk = .ok i) : ReadsAs x i packSdImm mk fun _ => True := by
  obtain ⟨hz, h⟩ := needZero_ok h
  cases h
  have hz : fld x 32 14 = 0#14 := by simpa using hz
  exact .intro _ rfl trivial (by simp only [packSdImm, ← hz, fld_append_fld])

theorem readY0_ok {j : Instr} (h : readY0 x j = .ok i) : ReadsAs x i (fun M m (_ : Unit) => packY0 M m) (fun _ => j) fun _ => True := by
  obtain ⟨hz, h⟩ := needZero_ok h
  cases h
  have hz : fld x 0 52 = 0#52 := by simpa using hz
  exact .intro () rfl trivial (by simp only [packY0, ← hz, fld_append_fld])

theorem readSi0_ok {j : Instr} (h : readSi0 x j = .ok i) : ReadsAs x i (fun M m (_ : Unit) => packSi0 M m) (fun _ => j) fun _ => True := by
  obtain ⟨hz, h⟩ := needZero_ok h
  cases h
  have hz : fld x 0 52 = 0#52 := by simpa using hz
  exact .intro () rfl trivial (by simp only [packSi0, ← hz, fld_append_fld])

theorem readRegion_ok {mk : BitVec 32 → Instr} (h : readRegion x mk = .ok i) : ReadsAs x i packRegion mk fun _ => True := by
  obtain ⟨hz, h⟩ := needZero_ok h
  cases h
  have hz : fld x 32 20 = 0#20 := by simpa using hz
  exact .intro _ rfl trivial (by simp only [packRegion, ← hz, fld_append_fld])

theorem readTrap_ok {mk : BitVec 16 → Instr} (h : readTrap x mk = .ok i) : ReadsAs x i packTrap mk fun _ => True := by
  obtain ⟨hz, h⟩ := needZero_ok h
  cases h
  have hz : fld x 16 36 = 0#36 := by simpa using hz
  exact .intro _ rfl trivial (by simp only [packTrap, ← hz, fld_append_fld])

theorem readSysrd_ok {mk : BitVec 6 → SysReg → Instr} (h : readSysrd x mk = .ok i) :
    ReadsAs x i (fun M m => Function.uncurry (packSysrd M m)) (Function.uncurry mk) fun _ => True := by
  obtain ⟨hz, h⟩ := needZero_ok h
  obtain ⟨r, hcode, h⟩ := needSome_ok h
  cases h
  have hz : fld x 12 34 = 0#34 := by simpa using hz
  have hcode := sysRegCode_of_sysRegOf hcode
  exact .intro (fld x 46 6, r) rfl trivial (by simp only [Function.uncurry_apply_pair, packSysrd, hcode, ← hz, fld_append_fld])

theorem readSyswr_ok {mk : BitVec 6 → Instr} (h : readSyswr x mk = .ok i) : ReadsAs x i packSyswr mk fun _ => True := by
  obtain ⟨hz, h⟩ := needZero_ok h
  split at h
  · next hreg =>
    cases h
    have hreg : fld x 0 12 = 0x030#12 := hreg
    have ⟨hz1, hz2⟩ : fld x 12 28 = 0#28 ∧ fld x 46 6 = 0#6 := by simpa using hz
    exact .intro _ rfl trivial (by simp only [packSyswr, ← hreg, ← hz1, ← hz2, fld_append_fld])
  · cases h

theorem readHField_ok {mk : HField → Instr} (h : readHField x mk = .ok i) : ReadsAs x i packHField mk fun _ => True := by
  obtain ⟨hz, h⟩ := needZero_ok h
  obtain ⟨k, hcode, h⟩ := needSome_ok h
  cases h
  have ⟨hz1, hz2⟩ : fld x 4 33 = 0#33 ∧ fld x 47 5 = 0#5 := by simpa [and_assoc] using hz
  have hcode := shapeFieldCode_of_shapeFieldOf hcode
  exact .intro _ rfl trivial (by simp only [packHField, hcode, ← hz1, ← hz2, fld_append_fld])

theorem readTH_ok {mk : BitVec 5 → BitVec 4 → Instr} (h : readTH x mk = .ok i) :
    ReadsAs x i (fun M m => Function.uncurry (packTH M m)) (Function.uncurry mk) fun _ => True := by
  obtain ⟨hz, h⟩ := needZero_ok h
  cases h
  have hz : fld x 0 43 = 0#43 := by simpa using hz
  exact .intro (fld x 47 5, fld x 43 4) rfl trivial (by simp only [Function.uncurry_apply_pair, packTH, ← hz, fld_append_fld])

theorem readTxT_ok {mk : BitVec 5 → Instr} (h : readTxT x mk = .ok i) : ReadsAs x i packTxT mk fun _ => True := by
  obtain ⟨hz, h⟩ := needZero_ok h
  cases h
  have hz : fld x 0 47 = 0#47 := by simpa using hz
  exact .intro _ rfl trivial (by simp only [packTxT, ← hz, fld_append_fld])

theorem readTqry_ok {mk : BitVec 6 → QuerySel → Instr} (h : readTqry x mk = .ok i) :
    ReadsAs x i (fun M m => Function.uncurry (packTqry M m)) (Function.uncurry mk) fun _ => True := by
  obtain ⟨hz, h⟩ := needZero_ok h
  obtain ⟨k, hcode, h⟩ := needSome_ok h
  cases h
  have ⟨hz1, hz2⟩ : fld x 3 34 = 0#34 ∧ fld x 43 9 = 0#9 := by simpa [and_assoc] using hz
  have hcode := querySelCode_of_querySelOf hcode
  exact .intro (fld x 37 6, k) rfl trivial (by simp only [Function.uncurry_apply_pair, packTqry, hcode, ← hz1, ← hz2, fld_append_fld])

theorem readTldw_ok {mk : BitVec 5 → BitVec 3 → Instr} (h : readTldw x mk = .ok i) :
    ReadsAs x i (fun M m => Function.uncurry (packTldw M m)) (Function.uncurry mk) fun _ => True := by
  obtain ⟨hz, h⟩ := needZero_ok h
  cases h
  have hz : fld x 3 44 = 0#44 := by simpa using hz
  exact .intro (fld x 47 5, fld x 0 3) rfl trivial (by simp only [Function.uncurry_apply_pair, packTldw, ← hz, fld_append_fld])

theorem readWaitc_ok {mk : WaitcF → Instr} (h : readWaitc x mk = .ok i) : ReadsAs x i packWaitc mk fun _ => True := by
  obtain ⟨hz, h⟩ := needZero_ok h
  cases h
  have hz : fld x 24 28 = 0#28 := by simpa using hz
  exact .intro _ rfl trivial (by simp only [packWaitc, ← hz, fld_append_fld])

theorem readYSa_ok {mk : BitVec 6 → Instr} (h : readYSa x mk = .ok i) : ReadsAs x i packYSa mk fun _ => True := by
  obtain ⟨hz, h⟩ := needZero_ok h
  cases h
  have ⟨hz1, hz2⟩ : fld x 0 40 = 0#40 ∧ fld x 46 6 = 0#6 := by simpa [and_assoc] using hz
  exact .intro _ rfl trivial (by simp only [packYSa, ← hz1, ← hz2, fld_append_fld])

theorem readYSdSa_ok {mk : BitVec 6 → BitVec 6 → Instr} (h : readYSdSa x mk = .ok i) :
    ReadsAs x i (fun M m => Function.uncurry (packYSdSa M m)) (Function.uncurry mk) fun _ => True := by
  obtain ⟨hz, h⟩ := needZero_ok h
  cases h
  have hz : fld x 0 40 = 0#40 := by simpa using hz
  exact .intro (fld x 46 6, fld x 40 6) rfl trivial (by simp only [Function.uncurry_apply_pair, packYSdSa, ← hz, fld_append_fld])

theorem readMm_ok {mk : MmF → Instr} (h : readMm x mk = .ok i) : ReadsAs x i packMm mk fun _ => True := by
  obtain ⟨hz, h⟩ := needZero_ok h
  cases h
  have ⟨hz1, hz2⟩ : fld x 0 24 = 0#24 ∧ fld x 25 12 = 0#12 := by simpa [and_assoc] using hz
  exact .intro _ rfl trivial (by simp only [packMm, b1_bitB, ← hz1, ← hz2, fld_append_fld])

theorem readTdTa_ok {mk : BitVec 5 → BitVec 5 → Instr} (h : readTdTa x mk = .ok i) :
    ReadsAs x i (fun M m => Function.uncurry (packTdTa M m)) (Function.uncurry mk) fun _ => True := by
  obtain ⟨hz, h⟩ := needZero_ok h
  cases h
  have hz : fld x 0 42 = 0#42 := by simpa using hz
  exact .intro (fld x 47 5, fld x 42 5) rfl trivial (by simp only [Function.uncurry_apply_pair, packTdTa, ← hz, fld_append_fld])

theorem readTfill_ok {mk : BitVec 5 → BitVec 24 → Instr} (h : readTfill x mk = .ok i) :
    ReadsAs x i (fun M m => Function.uncurry (packTfill M m)) (Function.uncurry mk) fun _ => True := by
  obtain ⟨hz, h⟩ := needZero_ok h
  cases h
  have hz : fld x 24 23 = 0#23 := by simpa using hz
  exact .intro (fld x 47 5, fld x 0 24) rfl trivial (by simp only [Function.uncurry_apply_pair, packTfill, ← hz, fld_append_fld])

theorem readTxSa_ok {mk : BitVec 6 → Instr} (h : readTxSa x mk = .ok i) : ReadsAs x i packTxSa mk fun _ => True := by
  obtain ⟨hz, h⟩ := needZero_ok h
  cases h
  have ⟨hz1, hz2⟩ : fld x 0 37 = 0#37 ∧ fld x 43 9 = 0#9 := by simpa [and_assoc] using hz
  exact .intro _ rfl trivial (by simp only [packTxSa, ← hz1, ← hz2, fld_append_fld])

theorem readTxTSa_ok {mk : BitVec 5 → BitVec 6 → Instr} (h : readTxTSa x mk = .ok i) :
    ReadsAs x i (fun M m => Function.uncurry (packTxTSa M m)) (Function.uncurry mk) fun _ => True := by
  obtain ⟨hz, h⟩ := needZero_ok h
  cases h
  have ⟨hz1, hz2⟩ : fld x 0 37 = 0#37 ∧ fld x 43 4 = 0#4 := by simpa [and_assoc] using hz
  exact .intro (fld x 47 5, fld x 37 6) rfl trivial (by simp only [Function.uncurry_apply_pair, packTxTSa, ← hz1, ← hz2, fld_append_fld])

theorem readLaunch_ok {mk : BitVec 6 → BitVec 6 → BitVec 6 → Instr} (h : readLaunch x mk = .ok i) :
    ReadsAs x i (fun M m (p : BitVec 6 × BitVec 6 × BitVec 6) => packLaunch M m p.1 p.2.1 p.2.2)
      (fun p => mk p.1 p.2.1 p.2.2) fun _ => True := by
  obtain ⟨hz, h⟩ := needZero_ok h
  cases h
  have hz : fld x 0 34 = 0#34 := by simpa using hz
  exact .intro (fld x 46 6, fld x 40 6, fld x 34 6) rfl trivial (by simp only [packLaunch, ← hz, fld_append_fld])

theorem readFence_ok {mk : Scope → Instr} (h : readFence x mk = .ok i) : ReadsAs x i packFence mk fun _ => True := by
  obtain ⟨hz, h⟩ := needZero_ok h
  obtain ⟨c, hcode, h⟩ := needCode_ok h
  cases h
  have ⟨hz1, hz2⟩ : fld x 0 31 = 0#31 ∧ fld x 34 18 = 0#18 := by simpa using hz
  exact .intro _ rfl trivial (by simp only [packFence, scopeCode_of_scopeOf hcode, ← hz1, ← hz2, fld_append_fld])

theorem readWbind_ok {mk : WbindF → Instr} (h : readWbind x mk = .ok i) : ReadsAs x i packWbind mk fun _ => True := by
  obtain ⟨hz, h⟩ := unless_ok h
  cases h
  have hz : fld x 50 2 = 0#2 := by simpa using hz
  exact .intro _ rfl trivial (by simp only [packWbind, ← hz, fld_append_fld])

theorem readBind_ok {mk : BindF → Instr} (h : readBind x mk = .ok i) : ReadsAs x i packBind mk fun f => f.wf = true := by
  obtain ⟨hz, h⟩ := needZero_ok h
  obtain ⟨hlen, h⟩ := unless_ok h
  cases h
  have hz : fld x 29 5 = 0#5 := by simpa using hz
  exact .intro _ rfl (by simpa [BindF.wf] using hlen) (by simp only [packBind, ← hz, fld_append_fld])

theorem readBari_ok {mk : BitVec 5 → BitVec 6 → Instr} (h : readBari x mk = .ok i) :
    ReadsAs x i (fun M m => Function.uncurry (packBari M m)) (Function.uncurry mk) fun p => p.1.toNat ≤ 19 := by
  obtain ⟨hz, h⟩ := needZero_ok h
  obtain ⟨hb, h⟩ := unless_ok h
  cases h
  have ⟨hz1, hz2⟩ : fld x 5 35 = 0#35 ∧ fld x 46 6 = 0#6 := by simpa using hz
  exact .intro (fld x 0 5, fld x 40 6) rfl (Nat.not_lt.mp hb) (by simp only [Function.uncurry_apply_pair, packBari, ← hz1, ← hz2, fld_append_fld])

theorem readBar_ok {mk : BarF → Instr} (h : readBar x mk = .ok i) : ReadsAs x i packBar mk fun f => f.wf = true := by
  obtain ⟨hz, h⟩ := needZero_ok h
  obtain ⟨hb, h⟩ := unless_ok h
  cases h
  have hz : fld x 8 44 = 0#44 := by simpa using hz
  exact .intro _ rfl (by simpa [BarF.wf] using hb) (by simp only [packBar, ← hz, fld_append_fld])

theorem readQring_ok {mk : QringF → Instr} (h : readQring x mk = .ok i) : ReadsAs x i packQring mk fun f => f.wf = true := by
  obtain ⟨hz, h⟩ := needZero_ok h
  obtain ⟨hlim, h⟩ := unless_ok h
  cases h
  have hz : fld x 25 9 = 0#9 := by simpa using hz
  exact .intro _ rfl (by simpa [QringF.wf] using hlim) (by simp only [packQring, ← hz, fld_append_fld])

theorem readTcb_ok {mk : TcbF → Instr} (h : readTcb x mk = .ok i) : ReadsAs x i packTcb mk fun f => f.wf = true := by
  obtain ⟨hz, h⟩ := needZero_ok h
  obtain ⟨hn, h⟩ := unless_ok h
  cases h
  have ⟨hz1, hz2, htag⟩ : fld x 10 27 = 0#27 ∧ fld x 43 9 = 0#9 ∧ (fld x 4 6 = 0#6 ∨ bitB x 3 = true) := by
    simpa [or_iff_not_imp_left, and_assoc] using hz
  exact .intro _ rfl (by simpa [TcbF.wf, htag] using hn) (by simp only [packTcb, b1_bitB, ← hz1, ← hz2, fld_append_fld])

theorem readBcopy_ok {mk : BcopyF → Instr} (h : readBcopy x mk = .ok i) : ReadsAs x i packBcopy mk fun f => f.wf = true := by
  obtain ⟨hz, h⟩ := needZero_ok h
  cases h
  have ⟨hz, htag⟩ : fld x 43 9 = 0#9 ∧ (fld x 0 6 = 0#6 ∨ bitB x 6 = true) := by
    simpa [or_iff_not_imp_left] using hz
  exact .intro _ rfl (by simpa [BcopyF.wf] using htag) (by simp only [packBcopy, b1_bitB, ← hz, fld_append_fld])

theorem readRed_ok {mk : RedF → Instr} (h : readRed x mk = .ok i) : ReadsAs x i packRed mk fun f => f.wf = true := by
  obtain ⟨hz, h⟩ := needZero_ok h
  obtain ⟨op, hcode, h⟩ := needSome_ok h
  cases h
  have ⟨hz1, hz2, htc, himm⟩ : fld x 30 2 = 0#2 ∧ fld x 37 5 = 0#5 ∧ (bitB x 28 = true ∨ fld x 32 5 = 0#5) ∧
      (bitB x 29 = true ∨ fld x 0 24 = 0#24) := by
    simpa [or_iff_not_imp_left, and_assoc] using hz
  exact .intro _ rfl (by simp [RedF.wf, htc, himm])
    (by simp only [packRed, b1_bitB, redOpCode_of_redOpOf hcode, ← hz1, ← hz2, fld_append_fld])

theorem readScan_ok {mk : ScanF → Instr} (h : readScan x mk = .ok i) : ReadsAs x i packScan mk fun f => f.wf = true := by
  obtain ⟨hz, h⟩ := needZero_ok h
  obtain ⟨op, hcode, h⟩ := needSome_ok h
  cases h
  have ⟨hz1, hz2, htc, hz3⟩ : fld x 29 3 = 0#3 ∧ fld x 37 5 = 0#5 ∧ (bitB x 28 = true ∨ fld x 32 5 = 0#5) ∧ fld x 0 24 = 0#24 := by
    simpa [or_iff_not_imp_left, and_assoc] using hz
  exact .intro _ rfl (by simp [ScanF.wf, htc])
    (by simp only [packScan, b1_bitB, redOpCode_of_redOpOf hcode, ← hz1, ← hz2, ← hz3, fld_append_fld])

theorem readMap_ok {mk : MapF → Instr} (h : readMap x mk = .ok i) : ReadsAs x i packMap mk fun f => f.wf = true := by
  obtain ⟨hz, h⟩ := needZero_ok h
  obtain ⟨hin, h⟩ := unless_ok h
  cases h
  have ⟨hz, _, htb, htc⟩ : fld x 29 3 = 0#3 ∧ (fld x 24 2 = 0#2 → fld x 42 5 = 0#5) ∧
      (2 ≤ (fld x 24 2).toNat ∨ fld x 37 5 = 0#5) ∧ (fld x 24 2 = 3#2 ∨ bitB x 26 = true ∨ fld x 32 5 = 0#5) := by
    simpa [or_iff_not_imp_left, and_assoc] using hz
  exact .intro _ rfl (by simpa [MapF.wf, htb, htc, or_assoc] using hin) (by simp only [packMap, b1_bitB, ← hz, fld_append_fld])

/-- The checks that every TM word passes (R63). -/
theorem tmReserved_eq_false {x : BitVec 64} (h : tmReserved x = false) :
    (fld x 34 3).toNat ≤ 5 ∧ (fld x 27 3 = 0#3 ∨ bitB x 31 = true ∨ bitB x 30 = true) := by
  have h : (fld x 34 3 ≠ 6#3 ∧ fld x 34 3 ≠ 7#3) ∧ (fld x 27 3 = 0#3 ∨ bitB x 31 = true ∨ bitB x 30 = true) := by
    simpa [tmReserved, or_iff_not_imp_left] using h
  refine ⟨?_, h.2⟩
  have hpc := h.1
  generalize fld x 34 3 = c at hpc
  revert c
  decide

theorem readTm_ok {mk : TmF → Instr} (h : readTm x mk = .ok i) : ReadsAs x i packTm mk fun f => f.wf = true := by
  obtain ⟨hz, h⟩ := needZero_ok h
  obtain ⟨pm, hpm, h⟩ := needCode_ok h
  obtain ⟨sc, hsc, h⟩ := needCode_ok h
  cases h
  have hpm := planeModeCode_of_planeModeOf hpm
  have hsc := scopeCode_of_scopeOf hsc
  have ⟨hr, hplanes, htag, hz⟩ : tmReserved x = false ∧ (fld x 32 2 = 0#2 ∨ fld x 34 3 ≠ 0#3) ∧ (fld x 21 6 = 0#6 ∨ bitB x 20 = true) ∧
      fld x 15 5 = 0#5 := by
    simpa [or_iff_not_imp_left, and_assoc] using hz
  obtain ⟨hpc, hscope⟩ := tmReserved_eq_false hr
  exact .intro _ rfl (by simp [TmF.wf, ← scopeCode_eq_zero, ← planeModeCode_eq_zero, hpm, hsc, hpc, hplanes.symm, htag, or_assoc, hscope])
    (by simp only [packTm, b1_bitB, hpm, hsc, ← hz, fld_append_fld])

theorem readTmIdx_ok {mk : TmIdxF → Instr} (h : readTmIdx x mk = .ok i) : ReadsAs x i packTmIdx mk fun f => f.wf = true := by
  obtain ⟨hz, h⟩ := needZero_ok h
  obtain ⟨pm, hpm, h⟩ := needCode_ok h
  obtain ⟨sc, hsc, h⟩ := needCode_ok h
  cases h
  have hpm := planeModeCode_of_planeModeOf hpm
  have hsc := scopeCode_of_scopeOf hsc
  have ⟨hr, hplanes, htag⟩ : tmReserved x = false ∧ (fld x 32 2 = 0#2 ∨ fld x 34 3 ≠ 0#3) ∧ (fld x 21 6 = 0#6 ∨ bitB x 20 = true) := by
    simpa [or_iff_not_imp_left, and_assoc] using hz
  obtain ⟨hpc, hscope⟩ := tmReserved_eq_false hr
  exact .intro _ rfl (by simp [TmIdxF.wf, ← scopeCode_eq_zero, ← planeModeCode_eq_zero, hpm, hsc, hpc, hplanes.symm, htag, or_assoc, hscope])
    (by simp only [packTmIdx, b1_bitB, hpm, hsc, fld_append_fld])

theorem readTmAmo_ok {mk : TmAmoF → Instr} (h : readTmAmo x mk = .ok i) : ReadsAs x i packTmAmo mk fun f => f.wf = true := by
  obtain ⟨hz, h⟩ := needZero_ok h
  obtain ⟨sc, hsc, h⟩ := needCode_ok h
  cases h
  have hsc := scopeCode_of_scopeOf hsc
  have ⟨hr, hz1, hz2⟩ : tmReserved x = false ∧ fld x 32 2 = 0#2 ∧ fld x 20 7 = 0#7 := by simpa [and_assoc] using hz
  obtain ⟨hpc, hscope⟩ := tmReserved_eq_false hr
  exact .intro _ rfl (by simp [TmAmoF.wf, ← scopeCode_eq_zero, hsc, hpc, or_assoc, hscope])
    (by simp only [packTmAmo, b1_bitB, hsc, ← hz1, ← hz2, fld_append_fld])

theorem readTmWait_ok {mk : TmWaitF → Instr} (h : readTmWait x mk = .ok i) : ReadsAs x i packTmWait mk fun f => f.wf = true := by
  obtain ⟨hz, h⟩ := needZero_ok h
  obtain ⟨sc, hsc, h⟩ := needCode_ok h
  obtain ⟨hlim, h⟩ := unless_ok h
  cases h
  have hsc := scopeCode_of_scopeOf hsc
  have ⟨hr, hz1, hte, hrl⟩ : tmReserved x = false ∧ fld x 32 5 = 0#5 ∧ bitB x 20 = false ∧ bitB x 30 = false := by
    simpa [and_assoc] using hz
  obtain ⟨_, hscope⟩ := tmReserved_eq_false hr
  have hscope : fld x 27 3 = 0#3 ∨ bitB x 31 = true := by simpa [hrl] using hscope
  have hword : packTmWait (fld x 57 7) (fld x 52 5) ⟨fld x 47 5, fld x 43 4, fld x 37 6, bitB x 31, sc, fld x 21 6, fld x 15 5, fld x 0 15⟩ =
      fld x 57 7 ++ fld x 52 5 ++ fld x 47 5 ++ fld x 43 4 ++ fld x 37 6 ++ fld x 32 5 ++ fld x 31 1 ++ fld x 30 1 ++ fld x 27 3 ++ fld x 21 6 ++
        fld x 20 1 ++ fld x 15 5 ++ fld x 0 15 := by
    rw [(bitB_eq_false_iff x 20).mp hte, (bitB_eq_false_iff x 30).mp hrl, hz1, packTmWait, hsc, b1_bitB]
  exact .intro _ rfl (by simpa [TmWaitF.wf, ← scopeCode_eq_zero, hsc, hscope] using hlim) (by simp only [hword, fld_append_fld])

end
/-! ## The decoders, one for each major opcode (R68, R70) -/

/-- The word `x` is the word of the well-formed instruction `i`. -/
def WordOf (x : BitVec 64) (i : Instr) : Prop := encodeSeq i = some x ∧ i.wf = true

/-- A word that reads as `i` under its own MAJ and MIN is the word of `i` where the encoder gives `i` those. -/
theorem ReadsAs.wordOf {F : Type} {x : BitVec 64} {i : Instr} {pack : BitVec 7 → BitVec 5 → F → BitVec 64} {mk : F → Instr} {P : F → Prop}
    {M m : Nat} (h : ReadsAs x i pack mk P) (hM : (majOf x).toNat = M) (hm : (minOf x).toNat = m)
    (he : ∀ f, encodeSeq (mk f) = some (pack (BitVec.ofNat 7 M) (BitVec.ofNat 5 m) f)) (hw : ∀ f, P f → (mk f).wf = true) : WordOf x i := by
  obtain ⟨f, hf, rfl, hx⟩ := h
  have hM : fld x 57 7 = BitVec.ofNat 7 M := by rw [← hM, BitVec.ofNat_toNat, BitVec.setWidth_eq]; rfl
  have hm : fld x 52 5 = BitVec.ofNat 5 m := by rw [← hm, BitVec.ofNat_toNat, BitVec.setWidth_eq]; rfl
  refine ⟨?_, hw f hf⟩
  rw [he, ← hM, ← hm, ← hx]

section
variable {x : BitVec 64} {i : Instr}

theorem decodeAlu_wordOf (hM : (majOf x).toNat = 0x01) (h : decodeAlu x = .ok i) : WordOf x i := by
  unfold decodeAlu at h
  split at h
  iterate 23 next hm => exact (readS3_ok h).wordOf hM hm (fun _ => rfl) (fun _ _ => rfl)
  iterate 3 next hm => exact (readS2_ok h).wordOf hM hm (fun _ => rfl) (fun _ _ => rfl)
  cases h

theorem decodeAluImm_wordOf (hM : (majOf x).toNat = 0x02) (h : decodeAluImm x = .ok i) : WordOf x i := by
  unfold decodeAluImm at h
  split at h
  iterate 23 next hm => exact (readSI_ok h).wordOf hM hm (fun _ => rfl) (fun _ _ => rfl)
  cases h

theorem decodeFp_wordOf (hM : (majOf x).toNat = 0x03) (h : decodeFp x = .ok i) : WordOf x i := by
  unfold decodeFp at h
  split at h
  iterate 10 next hm => exact (readS3_ok h).wordOf hM hm (fun _ => rfl) (fun _ _ => rfl)
  iterate 4 next hm => exact (readS2_ok h).wordOf hM hm (fun _ => rfl) (fun _ _ => rfl)
  cases h

theorem decodeScalarMem_wordOf (hM : (majOf x).toNat = 0x04) (h : decodeScalarMem x = .ok i) : WordOf x i := by
  unfold decodeScalarMem at h
  split at h
  iterate 3 next hm => exact (readSI_ok h).wordOf hM hm (fun _ => rfl) (fun _ _ => rfl)
  cases h

theorem decodeSamo_wordOf (hM : (majOf x).toNat = 0x05) (h : decodeSamo x = .ok i) : WordOf x i := by
  unfold decodeSamo at h
  split at h
  iterate 10 next hm => exact (readSamo_ok h).wordOf hM hm (fun _ => rfl) (fun _ hf => hf)
  cases h

theorem decodeBranch_wordOf (hM : (majOf x).toNat = 0x06) (h : decodeBranch x = .ok i) : WordOf x i := by
  unfold decodeBranch at h
  split at h
  next hm => exact (readBr_ok h).wordOf hM hm (fun _ => rfl) (fun _ _ => rfl)
  cases h

theorem decodeJump_wordOf (hM : (majOf x).toNat = 0x07) (h : decodeJump x = .ok i) : WordOf x i := by
  unfold decodeJump at h
  split at h
  next hm => exact (readOff_ok h).wordOf hM hm (fun _ => rfl) (fun _ _ => rfl)
  next hm => exact (readSaOff_ok h).wordOf hM hm (fun _ => rfl) (fun _ _ => rfl)
  next hm => exact (readBrSa_ok h).wordOf hM hm (fun _ => rfl) (fun _ _ => rfl)
  cases h

theorem decodeLoop_wordOf (hM : (majOf x).toNat = 0x08) (h : decodeLoop x = .ok i) : WordOf x i := by
  unfold decodeLoop at h
  split at h
  next hm => exact (readSaOff_ok h).wordOf hM hm (fun _ => rfl) (fun _ _ => rfl)
  next hm => exact (readOff_ok h).wordOf hM hm (fun _ => rfl) (fun _ _ => rfl)
  next hm => exact (readLbrk_ok h).wordOf hM hm (fun _ => rfl) (fun _ hf => hf)
  cases h

theorem decodeMov_wordOf (hM : (majOf x).toNat = 0x09) (h : decodeMov x = .ok i) : WordOf x i := by
  unfold decodeMov at h
  split at h
  iterate 2 next hm => exact (readSdImm_ok h).wordOf hM hm (fun _ => rfl) (fun _ _ => rfl)
  cases h

theorem decodeSys_wordOf (hM : (majOf x).toNat = 0x0A) (h : decodeSys x = .ok i) : WordOf x i := by
  unfold decodeSys at h
  split at h
  next hm => exact (readY0_ok h).wordOf hM hm (fun _ => rfl) (fun _ _ => rfl)
  next hm => exact (readSysrd_ok h).wordOf hM hm (fun _ => rfl) (fun _ _ => rfl)
  next hm => exact (readSyswr_ok h).wordOf hM hm (fun _ => rfl) (fun _ _ => rfl)
  iterate 2 next hm => exact (readY0_ok h).wordOf hM hm (fun _ => rfl) (fun _ _ => rfl)
  cases h

theorem decodeRegion_wordOf (hM : (majOf x).toNat = 0x0B) (h : decodeRegion x = .ok i) : WordOf x i := by
  unfold decodeRegion at h
  split at h
  next hm => exact (readRegion_ok h).wordOf hM hm (fun _ => rfl) (fun _ _ => rfl)
  next hm => exact (readSi0_ok h).wordOf hM hm (fun _ => rfl) (fun _ _ => rfl)
  cases h

theorem decodeTrapOps_wordOf (hM : (majOf x).toNat = 0x0C) (h : decodeTrapOps x = .ok i) : WordOf x i := by
  unfold decodeTrapOps at h
  split at h
  next hm => exact (readTrap_ok h).wordOf hM hm (fun _ => rfl) (fun _ _ => rfl)
  iterate 3 next hm => exact (readY0_ok h).wordOf hM hm (fun _ => rfl) (fun _ _ => rfl)
  cases h

theorem decodeTileSetup_wordOf (hM : (majOf x).toNat = 0x10) (h : decodeTileSetup x = .ok i) : WordOf x i := by
  unfold decodeTileSetup at h
  split at h
  iterate 2 next hm => exact (readHField_ok h).wordOf hM hm (fun _ => rfl) (fun _ _ => rfl)
  next hm => exact (readTH_ok h).wordOf hM hm (fun _ => rfl) (fun _ _ => rfl)
  next hm => exact (readTxT_ok h).wordOf hM hm (fun _ => rfl) (fun _ _ => rfl)
  next hm => exact (readTqry_ok h).wordOf hM hm (fun _ => rfl) (fun _ _ => rfl)
  cases h

theorem decodeTld_wordOf (hM : (majOf x).toNat = 0x11) (h : decodeTld x = .ok i) : WordOf x i := by
  unfold decodeTld at h
  split at h
  next hm => exact (readTm_ok h).wordOf hM hm (fun _ => rfl) (fun _ hf => hf)
  cases h

theorem decodeTst_wordOf (hM : (majOf x).toNat = 0x12) (h : decodeTst x = .ok i) : WordOf x i := by
  unfold decodeTst at h
  split at h
  next hm => exact (readTm_ok h).wordOf hM hm (fun _ => rfl) (fun _ hf => hf)
  cases h

theorem decodeTldff_wordOf (hM : (majOf x).toNat = 0x13) (h : decodeTldff x = .ok i) : WordOf x i := by
  unfold decodeTldff at h
  split at h
  next hm => exact (readTm_ok h).wordOf hM hm (fun _ => rfl) (fun _ hf => hf)
  cases h

theorem decodeTgth_wordOf (hM : (majOf x).toNat = 0x14) (h : decodeTgth x = .ok i) : WordOf x i := by
  unfold decodeTgth at h
  split at h
  iterate 2 next hm => exact (readTmIdx_ok h).wordOf hM hm (fun _ => rfl) (fun _ hf => hf)
  cases h

theorem decodeTsct_wordOf (hM : (majOf x).toNat = 0x15) (h : decodeTsct x = .ok i) : WordOf x i := by
  unfold decodeTsct at h
  split at h
  next hm => exact (readTmIdx_ok h).wordOf hM hm (fun _ => rfl) (fun _ hf => hf)
  cases h

theorem decodeStream_wordOf (hM : (majOf x).toNat = 0x16) (h : decodeStream x = .ok i) : WordOf x i := by
  unfold decodeStream at h
  split at h
  next hm => exact (readWbind_ok h).wordOf hM hm (fun _ => rfl) (fun _ _ => rfl)
  next hm => exact (readTldw_ok h).wordOf hM hm (fun _ => rfl) (fun _ _ => rfl)
  cases h

theorem decodeTcb_wordOf (hM : (majOf x).toNat = 0x17) (h : decodeTcb x = .ok i) : WordOf x i := by
  unfold decodeTcb at h
  split at h
  next hm => exact (readTcb_ok h).wordOf hM hm (fun _ => rfl) (fun _ hf => hf)
  cases h

theorem decodeTopt_wordOf (hM : (majOf x).toNat = 0x18) (h : decodeTopt x = .ok i) : WordOf x i := by
  unfold decodeTopt at h
  split at h
  next hm => exact (readTm_ok h).wordOf hM hm (fun _ => rfl) (fun _ hf => hf)
  cases h

theorem decodeBcopy_wordOf (hM : (majOf x).toNat = 0x19) (h : decodeBcopy x = .ok i) : WordOf x i := by
  unfold decodeBcopy at h
  split at h
  next hm => exact (readBcopy_ok h).wordOf hM hm (fun _ => rfl) (fun _ hf => hf)
  cases h

theorem decodeWait_wordOf (hM : (majOf x).toNat = 0x1A) (h : decodeWait x = .ok i) : WordOf x i := by
  unfold decodeWait at h
  split at h
  next hm => exact (readWaitc_ok h).wordOf hM hm (fun _ => rfl) (fun _ _ => rfl)
  iterate 2 next hm => exact (readYSa_ok h).wordOf hM hm (fun _ => rfl) (fun _ _ => rfl)
  next hm => exact (readYSdSa_ok h).wordOf hM hm (fun _ => rfl) (fun _ _ => rfl)
  next hm => exact (readYSa_ok h).wordOf hM hm (fun _ => rfl) (fun _ _ => rfl)
  cases h

theorem decodeMma_wordOf (hM : (majOf x).toNat = 0x20) (h : decodeMma x = .ok i) : WordOf x i := by
  unfold decodeMma at h
  split at h
  next hm => exact (readMm_ok h).wordOf hM hm (fun _ => rfl) (fun _ _ => rfl)
  cases h

theorem decodeMmv_wordOf (hM : (majOf x).toNat = 0x21) (h : decodeMmv x = .ok i) : WordOf x i := by
  unfold decodeMmv at h
  split at h
  next hm => exact (readMm_ok h).wordOf hM hm (fun _ => rfl) (fun _ _ => rfl)
  cases h

theorem decodeMap_wordOf (hM : (majOf x).toNat = 0x22) (h : decodeMap x = .ok i) : WordOf x i := by
  unfold decodeMap at h
  split at h
  next hm => exact (readMap_ok h).wordOf hM hm (fun _ => rfl) (fun _ hf => hf)
  cases h

theorem decodeReduce_wordOf (hM : (majOf x).toNat = 0x23) (h : decodeReduce x = .ok i) : WordOf x i := by
  unfold decodeReduce at h
  split at h
  next hm => exact (readRed_ok h).wordOf hM hm (fun _ => rfl) (fun _ hf => hf)
  cases h

theorem decodeTileMisc_wordOf (hM : (majOf x).toNat = 0x24) (h : decodeTileMisc x = .ok i) : WordOf x i := by
  unfold decodeTileMisc at h
  split at h
  next hm => exact (readTdTa_ok h).wordOf hM hm (fun _ => rfl) (fun _ _ => rfl)
  next hm => exact (readTfill_ok h).wordOf hM hm (fun _ => rfl) (fun _ _ => rfl)
  next hm => exact (readTdTa_ok h).wordOf hM hm (fun _ => rfl) (fun _ _ => rfl)
  next hm => exact (readScan_ok h).wordOf hM hm (fun _ => rfl) (fun _ hf => hf)
  cases h

theorem decodeMmas_wordOf (hM : (majOf x).toNat = 0x28) (h : decodeMmas x = .ok i) : WordOf x i := by
  unfold decodeMmas at h
  split at h
  next hm => exact (readMm_ok h).wordOf hM hm (fun _ => rfl) (fun _ _ => rfl)
  cases h

theorem decodeMmss_wordOf (hM : (majOf x).toNat = 0x29) (h : decodeMmss x = .ok i) : WordOf x i := by
  unfold decodeMmss at h
  split at h
  next hm => exact (readMm_ok h).wordOf hM hm (fun _ => rfl) (fun _ _ => rfl)
  cases h

theorem decodeTrail_wordOf (hM : (majOf x).toNat = 0x2A) (h : decodeTrail x = .ok i) : WordOf x i := by
  unfold decodeTrail at h
  split at h
  iterate 2 next hm => exact (readTxSa_ok h).wordOf hM hm (fun _ => rfl) (fun _ _ => rfl)
  next hm => exact (readTxTSa_ok h).wordOf hM hm (fun _ => rfl) (fun _ _ => rfl)
  cases h

theorem decodeObject_wordOf (hM : (majOf x).toNat = 0x30) (h : decodeObject x = .ok i) : WordOf x i := by
  unfold decodeObject at h
  split at h
  iterate 3 next hm => exact (readYSa_ok h).wordOf hM hm (fun _ => rfl) (fun _ _ => rfl)
  cases h

theorem decodeBind_wordOf (hM : (majOf x).toNat = 0x31) (h : decodeBind x = .ok i) : WordOf x i := by
  unfold decodeBind at h
  split at h
  next hm => exact (readBind_ok h).wordOf hM hm (fun _ => rfl) (fun _ hf => hf)
  next hm => exact (readYSdSa_ok h).wordOf hM hm (fun _ => rfl) (fun _ _ => rfl)
  cases h

theorem decodeFence_wordOf (hM : (majOf x).toNat = 0x32) (h : decodeFence x = .ok i) : WordOf x i := by
  unfold decodeFence at h
  split at h
  next hm => exact (readFence_ok h).wordOf hM hm (fun _ => rfl) (fun _ _ => rfl)
  cases h

theorem decodeTamo_wordOf (hM : (majOf x).toNat = 0x33) (h : decodeTamo x = .ok i) : WordOf x i := by
  unfold decodeTamo at h
  split at h
  iterate 7 next hm => exact (readTmAmo_ok h).wordOf hM hm (fun _ => rfl) (fun _ hf => hf)
  cases h

theorem decodeLinked_wordOf (hM : (majOf x).toNat = 0x34) (h : decodeLinked x = .ok i) : WordOf x i := by
  unfold decodeLinked at h
  split at h
  iterate 2 next hm => exact (readTmAmo_ok h).wordOf hM hm (fun _ => rfl) (fun _ hf => hf)
  cases h

theorem decodeTwaitv_wordOf (hM : (majOf x).toNat = 0x35) (h : decodeTwaitv x = .ok i) : WordOf x i := by
  unfold decodeTwaitv at h
  split at h
  iterate 6 next hm => exact (readTmWait_ok h).wordOf hM hm (fun _ => rfl) (fun _ hf => hf)
  cases h

theorem decodeBarrier_wordOf (hM : (majOf x).toNat = 0x38) (h : decodeBarrier x = .ok i) : WordOf x i := by
  unfold decodeBarrier at h
  split at h
  next hm => exact (readBari_ok h).wordOf hM hm (fun _ => rfl) (fun _ hf => decide_eq_true hf)
  iterate 2 next hm => exact (readBar_ok h).wordOf hM hm (fun _ => rfl) (fun _ hf => hf)
  cases h

theorem decodeChannel_wordOf (hM : (majOf x).toNat = 0x39) (h : decodeChannel x = .ok i) : WordOf x i := by
  unfold decodeChannel at h
  split at h
  iterate 2 next hm => exact (readTxTSa_ok h).wordOf hM hm (fun _ => rfl) (fun _ _ => rfl)
  cases h

theorem decodeLaunch_wordOf (hM : (majOf x).toNat = 0x3C) (h : decodeLaunch x = .ok i) : WordOf x i := by
  unfold decodeLaunch at h
  split at h
  next hm => exact (readLaunch_ok h).wordOf hM hm (fun _ => rfl) (fun _ _ => rfl)
  cases h

theorem decodeRing_wordOf (hM : (majOf x).toNat = 0x3D) (h : decodeRing x = .ok i) : WordOf x i := by
  unfold decodeRing at h
  split at h
  iterate 2 next hm => exact (readQring_ok h).wordOf hM hm (fun _ => rfl) (fun _ hf => hf)
  cases h

theorem decodeSeq_wordOf (h : decodeSeq x = .ok i) : WordOf x i := by
  unfold decodeSeq at h
  split at h
  next hM => exact decodeAlu_wordOf hM h
  next hM => exact decodeAluImm_wordOf hM h
  next hM => exact decodeFp_wordOf hM h
  next hM => exact decodeScalarMem_wordOf hM h
  next hM => exact decodeSamo_wordOf hM h
  next hM => exact decodeBranch_wordOf hM h
  next hM => exact decodeJump_wordOf hM h
  next hM => exact decodeLoop_wordOf hM h
  next hM => exact decodeMov_wordOf hM h
  next hM => exact decodeSys_wordOf hM h
  next hM => exact decodeRegion_wordOf hM h
  next hM => exact decodeTrapOps_wordOf hM h
  next hM => exact decodeTileSetup_wordOf hM h
  next hM => exact decodeTld_wordOf hM h
  next hM => exact decodeTst_wordOf hM h
  next hM => exact decodeTldff_wordOf hM h
  next hM => exact decodeTgth_wordOf hM h
  next hM => exact decodeTsct_wordOf hM h
  next hM => exact decodeStream_wordOf hM h
  next hM => exact decodeTcb_wordOf hM h
  next hM => exact decodeTopt_wordOf hM h
  next hM => exact decodeBcopy_wordOf hM h
  next hM => exact decodeWait_wordOf hM h
  next hM => exact decodeMma_wordOf hM h
  next hM => exact decodeMmv_wordOf hM h
  next hM => exact decodeMap_wordOf hM h
  next hM => exact decodeReduce_wordOf hM h
  next hM => exact decodeTileMisc_wordOf hM h
  next hM => exact decodeMmas_wordOf hM h
  next hM => exact decodeMmss_wordOf hM h
  next hM => exact decodeTrail_wordOf hM h
  next hM => exact decodeObject_wordOf hM h
  next hM => exact decodeBind_wordOf hM h
  next hM => exact decodeFence_wordOf hM h
  next hM => exact decodeTamo_wordOf hM h
  next hM => exact decodeLinked_wordOf hM h
  next hM => exact decodeTwaitv_wordOf hM h
  next hM => exact decodeBarrier_wordOf hM h
  next hM => exact decodeChannel_wordOf hM h
  next hM => exact decodeLaunch_wordOf hM h
  next hM => exact decodeRing_wordOf hM h
  · cases h
  · cases h
  · split at h <;> cases h

end
/-! ## Lane words (R74, R75) -/

section
variable {x : BitVec 32} {i : Instr}

theorem laneWord_eq (x : BitVec 32) : laneOp x ++ laneForm x ++ laneVd x ++ laneVa x ++ laneVb x ++ lanePred x ++ b1 (laneRe x) ++ laneRsz x =
    x := by
  have hre : b1 (laneRe x) = x.extractLsb' 2 1 := by
    rw [laneRe_field]
    generalize x.extractLsb' 2 1 = y
    revert y
    decide
  rw [hre]
  simp only [laneOp, laneForm, laneVd, laneVa, laneVb, lanePred, laneRsz, BitVec.extractLsb'_append_extractLsb'_eq_extractLsb']
  exact BitVec.extractLsb'_eq_self

/-- A lane word of a given FORM whose last three bits are zero. -/
theorem laneWord_of_form {form : BitVec 2} (hform : laneForm x = form) (hre : laneRe x = false) (hrsz : laneRsz x = 0) :
    laneOp x ++ form ++ laneVd x ++ laneVa x ++ laneVb x ++ lanePred x ++ 0#3 = x := by
  have hx := laneWord_eq x
  rw [hform, hre, hrsz, BitVec.append_assoc] at hx
  exact hx

theorem laneNeed_ok {reason : Nat} {bad : Bool} {k : Except Nat Instr} (h : laneNeed reason bad k = .ok i) : bad = false ∧ k = .ok i := by
  cases bad
  · exact ⟨rfl, h⟩
  · cases h

theorem lanePredReq_ok {k : Fin 24 → Except Nat Instr} (h : lanePredReq x k = .ok i) : ∃ p, k p = .ok i ∧ predCode (some p) = lanePred x := by
  unfold lanePredReq at h
  split at h
  · exact ⟨_, h, by simp [predCode]⟩
  · cases h

theorem lanePredOf_ok {k : Guard → Except Nat Instr} (h : lanePredOf x k = .ok i) : ∃ g, k g = .ok i ∧ predCode g = lanePred x := by
  unfold lanePredOf at h
  split at h
  · next hp => exact ⟨none, h, hp.symm⟩
  · obtain ⟨p, hk, hp⟩ := lanePredReq_ok (k := fun p => k (some p)) h
    exact ⟨some p, hk, hp⟩

theorem laneForm0_ok {k : Except Nat Instr} (h : laneForm0 x k = .ok i) :
    k = .ok i ∧ packLane (laneOp x) (laneVd x) (laneVa x) (.vec (laneVb x)) (lanePred x) = x := by
  obtain ⟨hform, h⟩ := laneNeed_ok h
  obtain ⟨hz, h⟩ := laneNeed_ok h
  obtain ⟨hre, hrsz⟩ : laneRe x = false ∧ laneRsz x = 0 := by simpa using hz
  exact ⟨h, laneWord_of_form (by simpa using hform) hre hrsz⟩

theorem laneSrcOf_ok {k : LaneSrc → Except Nat Instr} (h : laneSrcOf x k = .ok i) :
    ∃ vb, k vb = .ok i ∧ packLane (laneOp x) (laneVd x) (laneVa x) vb (lanePred x) = x := by
  unfold laneSrcOf at h
  split at h
  · next hform =>
    split at h
    · next hre =>
      refine ⟨_, h, ?_⟩
      have hx := laneWord_eq x
      rw [hform, hre] at hx
      rw [packLane, repSizeCode_repSizeOf]
      exact hx
    · next hre =>
      obtain ⟨hrsz, h⟩ := laneNeed_ok h
      exact ⟨_, h, laneWord_of_form hform (by simpa using hre) (by simpa using hrsz)⟩
  · next hform0 =>
    split at h
    · cases h
    · next hform3 =>
      obtain ⟨hz, h⟩ := laneNeed_ok h
      obtain ⟨hre, hrsz⟩ : laneRe x = false ∧ laneRsz x = 0 := by simpa using hz
      split at h
      · next hform => exact ⟨_, h, laneWord_of_form hform hre hrsz⟩
      · next hform1 =>
        have hform : laneForm x = 2 := by
          generalize laneForm x = c at hform0 hform1 hform3
          revert c
          decide
        exact ⟨_, h, laneWord_of_form hform hre hrsz⟩

/-- The lane word `x` reads as the instruction `mk f`, and is the word that `pack` writes for its operands. -/
def LaneReadsAs {F : Type} (x : BitVec 32) (i : Instr) (pack : BitVec 7 → F → BitVec 32) (mk : F → Instr) : Prop :=
  ∃ f, i = mk f ∧ pack (laneOp x) f = x

theorem readL3_ok {mk : L3 → Instr} (h : readL3 x mk = .ok i) : LaneReadsAs x i packL3 mk := by
  obtain ⟨vb, h, hx⟩ := laneSrcOf_ok h
  obtain ⟨g, h, hg⟩ := lanePredOf_ok h
  cases h
  exact ⟨_, rfl, by rw [packL3, hg, hx]⟩

theorem readL2_ok {mk : L2 → Instr} (h : readL2 x mk = .ok i) : LaneReadsAs x i packL2 mk := by
  obtain ⟨h, hx⟩ := laneForm0_ok h
  obtain ⟨hvb, h⟩ := laneNeed_ok h
  obtain ⟨g, h, hg⟩ := lanePredOf_ok h
  cases h
  have hvb : laneVb x = 0 := by simpa using hvb
  exact ⟨_, rfl, by rw [packL2, hg, ← hvb, hx]⟩

theorem readLcvt_ok {mk : LcvtF → Instr} (h : readLcvt x mk = .ok i) : LaneReadsAs x i packLcvt mk := by
  obtain ⟨hform, h⟩ := laneNeed_ok h
  obtain ⟨hz, h⟩ := laneNeed_ok h
  obtain ⟨g, h, hg⟩ := lanePredOf_ok h
  cases h
  obtain ⟨hre, hrsz⟩ : laneRe x = false ∧ laneRsz x = 0 := by simpa using hz
  exact ⟨_, rfl, by rw [packLcvt, hg]; exact laneWord_of_form (by simpa using hform) hre hrsz⟩

theorem readLp3_ok {mk : Lp3 → Instr} (h : readLp3 x mk = .ok i) : LaneReadsAs x i packLp3 mk := by
  obtain ⟨h, hx⟩ := laneForm0_ok h
  obtain ⟨g, h, hg⟩ := lanePredOf_ok h
  cases h
  exact ⟨_, rfl, by rw [packLp3, hg, hx]⟩

theorem readLsel_ok {mk : LselF → Instr} (h : readLsel x mk = .ok i) : LaneReadsAs x i packLsel mk := by
  obtain ⟨vb, h, hx⟩ := laneSrcOf_ok h
  obtain ⟨p, h, hp⟩ := lanePredReq_ok h
  cases h
  exact ⟨_, rfl, by rw [packLsel, hp, hx]⟩

theorem readLmov_ok {mk : LmovF → Instr} (h : readLmov x mk = .ok i) : LaneReadsAs x i packLmov mk := by
  obtain ⟨hva, h⟩ := laneNeed_ok h
  obtain ⟨vb, h, hx⟩ := laneSrcOf_ok h
  obtain ⟨g, h, hg⟩ := lanePredOf_ok h
  cases h
  have hva : laneVa x = 0 := by simpa using hva
  exact ⟨_, rfl, by rw [packLmov, hg, ← hva, hx]⟩

theorem readLidx_ok {mk : BitVec 5 → Guard → Instr} (h : readLidx x mk = .ok i) :
    LaneReadsAs x i (fun op => Function.uncurry (packLidx op)) (Function.uncurry mk) := by
  obtain ⟨h, hx⟩ := laneForm0_ok h
  obtain ⟨hz, h⟩ := laneNeed_ok h
  obtain ⟨g, h, hg⟩ := lanePredOf_ok h
  cases h
  obtain ⟨hva, hvb⟩ : laneVa x = 0 ∧ laneVb x = 0 := by simpa using hz
  rw [hva, hvb, ← hg] at hx
  exact ⟨(laneVd x, g), rfl, hx⟩

theorem readLperm_ok {mk : LpermF → Instr} (h : readLperm x mk = .ok i) : LaneReadsAs x i packLperm mk := by
  obtain ⟨hform, h⟩ := laneNeed_ok h
  obtain ⟨hrsz, h⟩ := laneNeed_ok h
  obtain ⟨g, h, hg⟩ := lanePredOf_ok h
  cases h
  have hform : laneForm x = 0 := by simpa using hform
  have hx := laneWord_eq x
  refine ⟨_, rfl, ?_⟩
  cases hre : laneRe x with
  | true =>
    rw [hform, hre] at hx
    simp only [packLperm, hg, if_pos, packLane, repSizeCode_repSizeOf]
    exact hx
  | false =>
    simp only [packLperm, hg, Bool.false_eq_true, if_false]
    exact laneWord_of_form hform hre (by simpa [hre] using hrsz)

theorem readLcomp_ok {mk : LcompF → Instr} (h : readLcomp x mk = .ok i) : LaneReadsAs x i packLcomp mk := by
  obtain ⟨h, hx⟩ := laneForm0_ok h
  obtain ⟨hvb, h⟩ := laneNeed_ok h
  obtain ⟨p, h, hp⟩ := lanePredReq_ok h
  cases h
  have hvb : laneVb x = 0 := by simpa using hvb
  exact ⟨_, rfl, by rw [packLcomp, hp, ← hvb, hx]⟩

/-- The va field of VCFG holds FZI, FZO and XRM above a zero bit. -/
theorem cfgField_eq (c : BitVec 5) (h : c.getLsbD 0 = false) :
    b1 (c.getLsbD 4) ++ b1 (c.getLsbD 3) ++ c.extractLsb' 1 2 ++ 0#1 = c := by
  revert c
  decide

theorem readLcfg_ok {mk : LcfgF → Instr} (h : readLcfg x mk = .ok i) : LaneReadsAs x i packLcfg mk := by
  obtain ⟨h, hx⟩ := laneForm0_ok h
  obtain ⟨hpred, h⟩ := laneNeed_ok h
  obtain ⟨hz, h⟩ := laneNeed_ok h
  cases h
  have hpred : lanePred x = 31#5 := by simpa using hpred
  obtain ⟨hvb, hva⟩ : laneVb x = 0 ∧ (laneVa x).getLsbD 0 = false := by simpa using hz
  exact ⟨_, rfl, by rw [packLcfg, cfgField_eq _ hva, ← hpred, ← hvb, hx]⟩

theorem readLret_ok {mk : BitVec 5 → Instr} (h : readLret x mk = .ok i) : LaneReadsAs x i packLret mk := by
  obtain ⟨h, hx⟩ := laneForm0_ok h
  obtain ⟨hpred, h⟩ := laneNeed_ok h
  obtain ⟨hz, h⟩ := laneNeed_ok h
  cases h
  have hpred : lanePred x = 31#5 := by simpa using hpred
  obtain ⟨hvd, hvb⟩ : laneVd x = 0 ∧ laneVb x = 0 := by simpa using hz
  rw [hpred, hvd, hvb] at hx
  exact ⟨_, rfl, hx⟩

theorem readLnop_ok {j : Instr} (h : readLnop x j = .ok i) : LaneReadsAs x i (fun op (_ : Unit) => packLnop op) fun _ => j := by
  obtain ⟨h, hx⟩ := laneForm0_ok h
  obtain ⟨hpred, h⟩ := laneNeed_ok h
  obtain ⟨hz, h⟩ := laneNeed_ok h
  cases h
  have hpred : lanePred x = 31#5 := by simpa using hpred
  obtain ⟨hvd, hva, hvb⟩ : laneVd x = 0 ∧ laneVa x = 0 ∧ laneVb x = 0 := by simpa [and_assoc] using hz
  rw [hpred, hvd, hva, hvb] at hx
  exact ⟨(), rfl, hx⟩

/-- The word `x` is the lane word of the well-formed instruction `i`, which has no sequencer word. -/
def LaneWordOf (x : BitVec 32) (i : Instr) : Prop := encodeLane i = some x ∧ encodeSeq i = none ∧ i.wf = true

theorem LaneReadsAs.laneWordOf {F : Type} {pack : BitVec 7 → F → BitVec 32} {mk : F → Instr} {n : Nat} (h : LaneReadsAs x i pack mk)
    (hop : (laneOp x).toNat = n) (he : ∀ f, encodeLane (mk f) = some (pack (BitVec.ofNat 7 n) f))
    (hs : ∀ f, encodeSeq (mk f) = none ∧ (mk f).wf = true) : LaneWordOf x i := by
  obtain ⟨f, rfl, hx⟩ := h
  have hop : laneOp x = BitVec.ofNat 7 n := by rw [← hop, BitVec.ofNat_toNat, BitVec.setWidth_eq]
  exact ⟨by rw [he, ← hop, hx], hs f⟩

theorem decodeLane_laneWordOf (h : decodeLane x = .ok i) : LaneWordOf x i := by
  unfold decodeLane at h
  split at h
  iterate 14 next hop => exact (readL3_ok h).laneWordOf hop (fun _ => rfl) fun _ => ⟨rfl, rfl⟩
  next hop => exact (readL2_ok h).laneWordOf hop (fun _ => rfl) fun _ => ⟨rfl, rfl⟩
  iterate 6 next hop => exact (readL3_ok h).laneWordOf hop (fun _ => rfl) fun _ => ⟨rfl, rfl⟩
  iterate 5 next hop => exact (readL2_ok h).laneWordOf hop (fun _ => rfl) fun _ => ⟨rfl, rfl⟩
  next hop => exact (readLcvt_ok h).laneWordOf hop (fun _ => rfl) fun _ => ⟨rfl, rfl⟩
  iterate 6 next hop => exact (readL3_ok h).laneWordOf hop (fun _ => rfl) fun _ => ⟨rfl, rfl⟩
  iterate 3 next hop => exact (readLp3_ok h).laneWordOf hop (fun _ => rfl) fun _ => ⟨rfl, rfl⟩
  next hop => exact (readL2_ok h).laneWordOf hop (fun _ => rfl) fun _ => ⟨rfl, rfl⟩
  next hop => exact (readLsel_ok h).laneWordOf hop (fun _ => rfl) fun _ => ⟨rfl, rfl⟩
  next hop => exact (readLmov_ok h).laneWordOf hop (fun _ => rfl) fun _ => ⟨rfl, rfl⟩
  next hop => exact (readLidx_ok h).laneWordOf hop (fun _ => rfl) fun _ => ⟨rfl, rfl⟩
  next hop => exact (readLperm_ok h).laneWordOf hop (fun _ => rfl) fun _ => ⟨rfl, rfl⟩
  next hop => exact (readL2_ok h).laneWordOf hop (fun _ => rfl) fun _ => ⟨rfl, rfl⟩
  next hop => exact (readLcomp_ok h).laneWordOf hop (fun _ => rfl) fun _ => ⟨rfl, rfl⟩
  next hop => exact (readLcfg_ok h).laneWordOf hop (fun _ => rfl) fun _ => ⟨rfl, rfl⟩
  next hop => exact (readLret_ok h).laneWordOf hop (fun _ => rfl) fun _ => ⟨rfl, rfl⟩
  next hop => exact (readLnop_ok h).laneWordOf hop (fun _ => rfl) fun _ => ⟨rfl, rfl⟩
  cases h

end

/-! ## The two statements -/

/-- Every instruction survives the round trip: the lemma of its constructor; a system event has no word. -/
theorem roundTrip (i : Instr) : RoundTrip.Statement i := by
  cases i with
  | add f => exact RoundTrip.add f
  | sub f => exact RoundTrip.sub f
  | mul f => exact RoundTrip.mul f
  | mulhs f => exact RoundTrip.mulhs f
  | mulhu f => exact RoundTrip.mulhu f
  | divs f => exact RoundTrip.divs f
  | divu f => exact RoundTrip.divu f
  | rems f => exact RoundTrip.rems f
  | remu f => exact RoundTrip.remu f
  | and f => exact RoundTrip.and f
  | or f => exact RoundTrip.or f
  | xor f => exact RoundTrip.xor f
  | andn f => exact RoundTrip.andn f
  | shl f => exact RoundTrip.shl f
  | shrl f => exact RoundTrip.shrl f
  | shra f => exact RoundTrip.shra f
  | min f => exact RoundTrip.min f
  | max f => exact RoundTrip.max f
  | minu f => exact RoundTrip.minu f
  | maxu f => exact RoundTrip.maxu f
  | slt f => exact RoundTrip.slt f
  | sltu f => exact RoundTrip.sltu f
  | sel f => exact RoundTrip.sel f
  | clz f => exact RoundTrip.clz f
  | ctz f => exact RoundTrip.ctz f
  | popc f => exact RoundTrip.popc f
  | addImm f => exact RoundTrip.addImm f
  | subImm f => exact RoundTrip.subImm f
  | mulImm f => exact RoundTrip.mulImm f
  | mulhsImm f => exact RoundTrip.mulhsImm f
  | mulhuImm f => exact RoundTrip.mulhuImm f
  | divsImm f => exact RoundTrip.divsImm f
  | divuImm f => exact RoundTrip.divuImm f
  | remsImm f => exact RoundTrip.remsImm f
  | remuImm f => exact RoundTrip.remuImm f
  | andImm f => exact RoundTrip.andImm f
  | orImm f => exact RoundTrip.orImm f
  | xorImm f => exact RoundTrip.xorImm f
  | andnImm f => exact RoundTrip.andnImm f
  | shlImm f => exact RoundTrip.shlImm f
  | shrlImm f => exact RoundTrip.shrlImm f
  | shraImm f => exact RoundTrip.shraImm f
  | minImm f => exact RoundTrip.minImm f
  | maxImm f => exact RoundTrip.maxImm f
  | minuImm f => exact RoundTrip.minuImm f
  | maxuImm f => exact RoundTrip.maxuImm f
  | sltImm f => exact RoundTrip.sltImm f
  | sltuImm f => exact RoundTrip.sltuImm f
  | selImm f => exact RoundTrip.selImm f
  | fadd f => exact RoundTrip.fadd f
  | fsub f => exact RoundTrip.fsub f
  | fmul f => exact RoundTrip.fmul f
  | fma f => exact RoundTrip.fma f
  | fmin f => exact RoundTrip.fmin f
  | fmax f => exact RoundTrip.fmax f
  | fcmpEq f => exact RoundTrip.fcmpEq f
  | fcmpLt f => exact RoundTrip.fcmpLt f
  | fcmpLe f => exact RoundTrip.fcmpLe f
  | fcmpUn f => exact RoundTrip.fcmpUn f
  | fcvtFi f => exact RoundTrip.fcvtFi f
  | fcvtFn f => exact RoundTrip.fcvtFn f
  | fcvtIf f => exact RoundTrip.fcvtIf f
  | fcvtNf f => exact RoundTrip.fcvtNf f
  | sld f => exact RoundTrip.sld f
  | sldZ f => exact RoundTrip.sldZ f
  | sst f => exact RoundTrip.sst f
  | samoAdd f => exact RoundTrip.samoAdd f
  | samoSwap f => exact RoundTrip.samoSwap f
  | samoCas f => exact RoundTrip.samoCas f
  | samoMin f => exact RoundTrip.samoMin f
  | samoMax f => exact RoundTrip.samoMax f
  | samoAnd f => exact RoundTrip.samoAnd f
  | samoOr f => exact RoundTrip.samoOr f
  | samoXor f => exact RoundTrip.samoXor f
  | samoMinu f => exact RoundTrip.samoMinu f
  | samoMaxu f => exact RoundTrip.samoMaxu f
  | bCond f => exact RoundTrip.bCond f
  | j off => exact RoundTrip.j off
  | call f => exact RoundTrip.call f
  | ret sa => exact RoundTrip.ret sa
  | loop f => exact RoundTrip.loop f
  | endl off => exact RoundTrip.endl off
  | lbrk lv off => exact RoundTrip.lbrk lv off
  | movi f => exact RoundTrip.movi f
  | movhi f => exact RoundTrip.movhi f
  | nop => exact RoundTrip.nop
  | sysrd sd r => exact RoundTrip.sysrd sd r
  | syswr sa => exact RoundTrip.syswr sa
  | yield => exact RoundTrip.yield
  | exit => exact RoundTrip.exit
  | region mask => exact RoundTrip.region mask
  | regend => exact RoundTrip.regend
  | trap code => exact RoundTrip.trap code
  | eret => exact RoundTrip.eret
  | eretSkip => exact RoundTrip.eretSkip
  | eretElem => exact RoundTrip.eretElem
  | hset f => exact RoundTrip.hset f
  | hget f => exact RoundTrip.hget f
  | tbind t h => exact RoundTrip.tbind t h
  | tdrop t => exact RoundTrip.tdrop t
  | tqry sa sel => exact RoundTrip.tqry sa sel
  | tld f => exact RoundTrip.tld f
  | tst f => exact RoundTrip.tst f
  | tldff f => exact RoundTrip.tldff f
  | tgth f => exact RoundTrip.tgth f
  | tgthFull f => exact RoundTrip.tgthFull f
  | tsct f => exact RoundTrip.tsct f
  | wbind f => exact RoundTrip.wbind f
  | tldw t w => exact RoundTrip.tldw t w
  | tcb f => exact RoundTrip.tcb f
  | topt f => exact RoundTrip.topt f
  | bcopy f => exact RoundTrip.bcopy f
  | waitc f => exact RoundTrip.waitc f
  | waittAll sa => exact RoundTrip.waittAll sa
  | waittAny sa => exact RoundTrip.waittAny sa
  | tagff sd sa => exact RoundTrip.tagff sd sa
  | tagclr sa => exact RoundTrip.tagclr sa
  | mma f => exact RoundTrip.mma f
  | mmv f => exact RoundTrip.mmv f
  | map f => exact RoundTrip.map f
  | reduce f => exact RoundTrip.reduce f
  | tcvt td ta => exact RoundTrip.tcvt td ta
  | tfill td imm => exact RoundTrip.tfill td imm
  | tmov td ta => exact RoundTrip.tmov td ta
  | tscan f => exact RoundTrip.tscan f
  | mmas f => exact RoundTrip.mmas f
  | mmss f => exact RoundTrip.mmss f
  | tpat sa => exact RoundTrip.tpat sa
  | tinv sa => exact RoundTrip.tinv sa
  | tdens t sa => exact RoundTrip.tdens t sa
  | acqX sa => exact RoundTrip.acqX sa
  | acqS sa => exact RoundTrip.acqS sa
  | rel sa => exact RoundTrip.rel sa
  | bind f => exact RoundTrip.bind f
  | unbind sd sa => exact RoundTrip.unbind sd sa
  | fence scope => exact RoundTrip.fence scope
  | tamoAdd f => exact RoundTrip.tamoAdd f
  | tamoMin f => exact RoundTrip.tamoMin f
  | tamoMax f => exact RoundTrip.tamoMax f
  | tamoAnd f => exact RoundTrip.tamoAnd f
  | tamoOr f => exact RoundTrip.tamoOr f
  | tamoXor f => exact RoundTrip.tamoXor f
  | tamoSwap f => exact RoundTrip.tamoSwap f
  | tglk f => exact RoundTrip.tglk f
  | tscc f => exact RoundTrip.tscc f
  | twaitvEq f => exact RoundTrip.twaitvEq f
  | twaitvNe f => exact RoundTrip.twaitvNe f
  | twaitvLt f => exact RoundTrip.twaitvLt f
  | twaitvGe f => exact RoundTrip.twaitvGe f
  | twaitvLtu f => exact RoundTrip.twaitvLtu f
  | twaitvGeu f => exact RoundTrip.twaitvGeu f
  | bari b sa => exact RoundTrip.bari b sa
  | bara f => exact RoundTrip.bara f
  | barw f => exact RoundTrip.barw f
  | tsend t sa => exact RoundTrip.tsend t sa
  | trecv t sa => exact RoundTrip.trecv t sa
  | launch sd sa sb => exact RoundTrip.launch sd sa sb
  | qput f => exact RoundTrip.qput f
  | qget f => exact RoundTrip.qget f
  | vadd f => exact RoundTrip.vadd f
  | vsub f => exact RoundTrip.vsub f
  | vmul f => exact RoundTrip.vmul f
  | vmulh f => exact RoundTrip.vmulh f
  | vwmac f => exact RoundTrip.vwmac f
  | vmin f => exact RoundTrip.vmin f
  | vmax f => exact RoundTrip.vmax f
  | vand f => exact RoundTrip.vand f
  | vor f => exact RoundTrip.vor f
  | vxor f => exact RoundTrip.vxor f
  | vshl f => exact RoundTrip.vshl f
  | vshr f => exact RoundTrip.vshr f
  | vsra f => exact RoundTrip.vsra f
  | vnshr f => exact RoundTrip.vnshr f
  | vabs f => exact RoundTrip.vabs f
  | vfadd f => exact RoundTrip.vfadd f
  | vfsub f => exact RoundTrip.vfsub f
  | vfmul f => exact RoundTrip.vfmul f
  | vfma f => exact RoundTrip.vfma f
  | vfmin f => exact RoundTrip.vfmin f
  | vfmax f => exact RoundTrip.vfmax f
  | vrcp f => exact RoundTrip.vrcp f
  | vrsq f => exact RoundTrip.vrsq f
  | vexp2 f => exact RoundTrip.vexp2 f
  | vlog2 f => exact RoundTrip.vlog2 f
  | vfcls f => exact RoundTrip.vfcls f
  | vcvt f => exact RoundTrip.vcvt f
  | vcmpEq f => exact RoundTrip.vcmpEq f
  | vcmpNe f => exact RoundTrip.vcmpNe f
  | vcmpLt f => exact RoundTrip.vcmpLt f
  | vcmpGe f => exact RoundTrip.vcmpGe f
  | vcmpLe f => exact RoundTrip.vcmpLe f
  | vcmpGt f => exact RoundTrip.vcmpGt f
  | pand f => exact RoundTrip.pand f
  | por f => exact RoundTrip.por f
  | pxor f => exact RoundTrip.pxor f
  | pnot f => exact RoundTrip.pnot f
  | vsel f => exact RoundTrip.vsel f
  | vmov f => exact RoundTrip.vmov f
  | vidx vd guard => exact RoundTrip.vidx vd guard
  | vperm f => exact RoundTrip.vperm f
  | vconf f => exact RoundTrip.vconf f
  | vcomp f => exact RoundTrip.vcomp f
  | vcfg f => exact RoundTrip.vcfg f
  | vret va => exact RoundTrip.vret va
  | vnop => exact RoundTrip.vnop
  | _ => exact fun _ => .inl rfl

theorem decodeSeq_future (x : BitVec 64) (h : 0x60 ≤ (majOf x).toNat ∧ (majOf x).toNat ≤ 0x7E) : decodeSeq x = .error .undefFuture := by
  unfold decodeSeq
  split
  case h_44 => exact if_pos h.1
  all_goals omega

theorem decodeSeq_illegal (x : BitVec 64) (h : (majOf x).toNat ∈ [0x00, 0x0D, 0x0E, 0x0F, 0x1B, 0x1C, 0x1D, 0x1E, 0x1F, 0x25, 0x26, 0x27, 0x2B,
      0x2C, 0x2D, 0x2E, 0x2F, 0x36, 0x37, 0x3A, 0x3B, 0x7F] ∨ (0x3E ≤ (majOf x).toNat ∧ (majOf x).toNat ≤ 0x5F)) :
    decodeSeq x = .error .illegal := by
  unfold decodeSeq
  split
  case h_42 => rfl
  case h_43 => rfl
  case h_44 h7f =>
    refine if_neg ?_
    have h7f : (majOf x).toNat ≠ 0x7F := h7f
    clear * - h h7f
    simp only [List.mem_cons, List.not_mem_nil, or_false] at h
    omega
  all_goals next hM => exact absurd (hM ▸ h) (by decide)

/-- Settles O1: an instruction that has a word is the one its word decodes to (`roundTrip`). -/
theorem decodeOfEncode : Obligations.DecodeOfEncode := by
  unfold Obligations.DecodeOfEncode
  exact fun i hwf hword => (roundTrip i hwf).resolve_left hword

/-- Settles O2: what each reader accepts is the word packed from the fields it read (`decodeSeq_wordOf`, `decodeLane_laneWordOf`), and no
major opcode of the two lists has a decoder. -/
theorem encodeOfDecode : Obligations.EncodeOfDecode := by
  unfold Obligations.EncodeOfDecode
  exact ⟨fun _ _ => decodeSeq_wordOf, fun _ _ => decodeLane_laneWordOf, fun x => ⟨decodeSeq_future x, decodeSeq_illegal x⟩⟩

end Sys2Proof.Proofs

/-!
PROOFS. The register file (the statement RegisterFile, R73) and the turns of the schedule that do not run a decoded sequencer
instruction (the statement StepTakesOtherTurns, R57, R96, R169, R376, R388, R412).
-/
namespace Sys2Proof.Proofs

open Sys2Proof Sys2Proof.Machine Sys2Proof.Laws

/-! ## Register fields: which register a field names, in either mode (R73, R381) -/

theorem getS_zero (s : State) : getS s 0 = 0 := if_pos rfl

theorem setS_zero (s : State) (v : Word) : setS s 0 v = s := if_pos rfl

section
variable {s : State} {r q : BitVec 6}

/-- A field names a general register where it is below 48 or the block is outside handler mode. -/
def generalField (s : State) (r : BitVec 6) : Prop := s.me.inHandler = false ∨ r.toNat < 48

theorem field_general_or_handler (s : State) (r : BitVec 6) :
    generalField s r ∨ (s.me.inHandler = true ∧ ∃ k : Fin 16, r.toNat = 48 + k.val) := by
  by_cases h : generalField s r
  · exact .inl h
  · simp only [generalField, not_or, Bool.not_eq_false, not_lt] at h
    exact .inr ⟨h.1, ⟨r.toNat - 48, by omega⟩, by simp only; omega⟩

theorem getS_general (h0 : r ≠ 0) (h : generalField s r) : getS s r = s.me.sregs[r.toNat]'(r.isLt) := by
  rw [getS, if_neg h0, if_neg]
  rcases h with h | h
  · simp [h]
  · simp [Nat.not_le.mpr h]

theorem setS_general (h0 : r ≠ 0) (h : generalField s r) (v : Word) :
    setS s r v = { s with me := { s.me with sregs := s.me.sregs.set r.toNat v r.isLt } } := by
  rw [setS, if_neg h0, if_neg]
  rcases h with h | h
  · simp [h]
  · simp [Nat.not_le.mpr h]

theorem field_ne_zero {k : Fin 16} (h : r.toNat = 48 + k.val) : r ≠ 0 := by
  rintro rfl
  exact absurd h (by simp; omega)

theorem getS_handler (hh : s.me.inHandler = true) {k : Fin 16} (h : r.toNat = 48 + k.val) : getS s r = s.me.hregs[k.val]'k.isLt := by
  have hk : (48 + k.val - 48) % 16 = k.val := by omega
  rw [getS, if_neg (field_ne_zero h), if_pos (by simp [hh, h])]
  simp only [h, hk]

theorem setS_handler (hh : s.me.inHandler = true) {k : Fin 16} (h : r.toNat = 48 + k.val) (v : Word) :
    setS s r v = { s with me := { s.me with hregs := s.me.hregs.set k.val v k.isLt } } := by
  have hk : (48 + k.val - 48) % 16 = k.val := by omega
  rw [setS, if_neg (field_ne_zero h), if_pos (by simp [hh, h])]
  simp only [h, hk]

/-! ## A write to a field, read back -/

theorem getS_setS_same (h0 : r ≠ 0) (v : Word) : getS (setS s r v) r = v := by
  rcases field_general_or_handler s r with h | ⟨hh, k, hk⟩
  · rw [setS_general h0 h, getS_general h0 (by exact h)]
    exact Vector.getElem_set_self _
  · rw [setS_handler hh hk, getS_handler (by exact hh) hk]
    exact Vector.getElem_set_self _

theorem getS_setS_other (hq : q ≠ r) (v : Word) : getS (setS s r v) q = getS s q := by
  by_cases h0 : r = 0
  · rw [h0, setS_zero]
  by_cases hq0 : q = 0
  · rw [hq0, getS_zero, getS_zero]
  have hne : r.toNat ≠ q.toNat := fun h => hq (BitVec.eq_of_toNat_eq h.symm)
  rcases field_general_or_handler s r with h | ⟨hh, k, hk⟩
  · rw [setS_general h0 h]
    rcases field_general_or_handler s q with h' | ⟨hh', k', hk'⟩
    · rw [getS_general hq0 (by exact h'), getS_general hq0 h']
      exact Vector.getElem_set_ne r.isLt q.isLt hne
    · rw [getS_handler (by exact hh') hk', getS_handler hh' hk']
  · rw [setS_handler hh hk]
    rcases field_general_or_handler s q with h' | ⟨hh', k', hk'⟩
    · rw [getS_general hq0 (by exact h'), getS_general hq0 h']
    · rw [getS_handler (by exact hh') hk', getS_handler hh' hk']
      exact Vector.getElem_set_ne k.isLt k'.isLt (by omega)

theorem setS_frame (s : State) (r : BitVec 6) (v : Word) : ∃ g h, setS s r v = { s with me := { s.me with sregs := g, hregs := h } } := by
  by_cases h0 : r = 0
  · exact ⟨s.me.sregs, s.me.hregs, by rw [h0, setS_zero]⟩
  rcases field_general_or_handler s r with h | ⟨hh, k, hk⟩
  · exact ⟨_, s.me.hregs, setS_general h0 h v⟩
  · exact ⟨s.me.sregs, _, setS_handler hh hk v⟩

end

/-- SYSRD of a register that does not wait for lane work writes its value to sd (R100). -/
theorem exec_sysrd {s : State} {x : SysReg} (h : SysReg.waits x = false ∨ laneWork s.me = false) (sd : BitVec 6) :
    exec (.sysrd sd x) s = .next (advance (setS s sd (sysRead s x))) := by
  change execSysrd sd x s = _
  rw [execSysrd, if_neg (by rcases h with h | h <;> simp [h]), writeBack]

/-- Settles O6: by the register that the field names (`field_general_or_handler`). -/
theorem registerFile : Obligations.RegisterFile := by
  unfold Obligations.RegisterFile
  intro s r q v
  refine ⟨getS_zero s, setS_zero s v, fun h0 h => ⟨getS_general h0 h, ?_⟩, fun k hh hk => ⟨getS_handler hh hk, ?_⟩,
    fun h0 => getS_setS_same h0 v, fun hq => getS_setS_other hq v, setS_frame s r v, fun k => exec_sysrd (.inl rfl) r⟩
  · rw [setS_general h0 h]
  · rw [setS_handler hh hk]

/-! ## What is in flight does not depend on the schedule -/

section
variable (s : State) (rest : List Turn) (d : Bool)

theorem walkFrom_turn (va lvl a : Nat) : walkFrom { s with agenda := rest, defer := d } va lvl a = walkFrom s va lvl a := by
  induction lvl generalizing a with
  | zero => rfl
  | succ k ih =>
    simp only [walkFrom, ih]
    rfl

theorem walk_turn (ctx : BitVec 6) (va : Nat) : walk { s with agenda := rest, defer := d } ctx va = walk s ctx va := by
  simp only [walk, walkFrom_turn]
  rfl

theorem physOf_turn (ctx : BitVec 6) (va n k : Nat) : physOf { s with agenda := rest, defer := d } ctx va n k = physOf s ctx va n k := by
  induction k generalizing va n with
  | zero => rfl
  | succ k ih => simp only [physOf, walk_turn, ih]

theorem footsMeet_turn (ctx : BitVec 6) (a b : Foot) : footsMeet { s with agenda := rest, defer := d } ctx a b = footsMeet s ctx a b := by
  simp only [footsMeet, bytesMeet, physOf_turn]

theorem peek_turn (ctx : BitVec 6) (va n : Nat) : peek { s with agenda := rest, defer := d } ctx va n = peek s ctx va n := by
  simp only [peek, walk_turn]

theorem peekPlanes_turn (b : Block) (f : Flight) : peekPlanes { s with agenda := rest, defer := d } b f = peekPlanes s b f := by
  simp only [peekPlanes, peekTable, peek_turn]

theorem settled_turn (b : Block) (before : Footprints) (va n : Nat) :
    settled { s with agenda := rest, defer := d } b before va n = settled s b before va n := by
  simp only [settled, footsMeet_turn]

theorem valueFoot_turn (b : Block) (before : Footprints) (v : ValueSrc) (n : Nat) :
    valueFoot { s with agenda := rest, defer := d } b before v n = valueFoot s b before v n := by
  simp only [valueFoot, peekSettled, settled_turn, peek_turn]

theorem trailOf_turn (b : Block) (f : Flight) (x : Desc) : trailOf { s with agenda := rest, defer := d } b f x = trailOf s b f x := rfl

theorem peekSparse_turn (b : Block) (before : Footprints) (f : Flight) (a base : Nat) :
    peekSparse { s with agenda := rest, defer := d } b before f a base = peekSparse s b before f a base := by
  simp only [peekSparse, peekSettled, settled_turn, peek_turn, valueFoot_turn, trailOf_turn]

theorem sparseFoot_turn (b : Block) (before : Footprints) (f : Flight) (second : Bool) :
    sparseFoot { s with agenda := rest, defer := d } b before f second = sparseFoot s b before f second := by
  simp only [sparseFoot, valueFoot_turn, peekSparse_turn]

theorem elemFoot_turn (b : Block) (before : Footprints) (f : Flight) (write : Bool) :
    elemFoot { s with agenda := rest, defer := d } b before f write = elemFoot s b before f write := by
  simp only [elemFoot, settled_turn, peekPlanes_turn]

theorem footprintIn_turn (b : Block) (before : Footprints) (f : Flight) :
    footprintIn { s with agenda := rest, defer := d } b before f = footprintIn s b before f := by
  simp only [footprintIn, sparseFoot_turn, peekSparse_turn, elemFoot_turn]

theorem footprint_turn (b : Block) (f : Flight) : footprint { s with agenda := rest, defer := d } b f = footprint s b f := by
  simp only [footprint, footprintsTo, footprintIn_turn]

theorem behind_turn (b : Block) (g f : Flight) : behind { s with agenda := rest, defer := d } b g f = behind s b g f := by
  simp only [behind, ordered125, shareByte, footprint_turn, footsMeet_turn]

theorem stuckFrom_turn (b : Block) (l acc : List Flight) :
    stuckFrom { s with agenda := rest, defer := d } b l acc = stuckFrom s b l acc := by
  induction l generalizing acc with
  | nil => rfl
  | cons f r ih => simp only [stuckFrom, behind_turn, ih]

/-- The issue window does not depend on the schedule. -/
theorem windowFull_turn (b : Block) : windowFull { s with agenda := rest, defer := d } b = windowFull s b := by
  simp only [windowFull, stuckFlights, stuckFrom_turn]
  rfl

end

/-! ## The turns of the schedule -/

section
variable {s : State} {rest : List Turn}

/-- Outside FAILED a step performs the turn at the head of the schedule. -/
theorem step_of_turn {t : Turn} (ha : s.agenda = t :: rest) (hst : s.ctl.stage ≠ .failed) : step s = runTurn { s with agenda := rest } t := by
  simp only [step, machineStep, ha, takeTurn]
  exact if_neg (by simp [hst])

/-- In FAILED a turn that is not taken there changes nothing (R412). -/
theorem step_of_failed {t : Turn} (ha : s.agenda = t :: rest) (hst : s.ctl.stage = .failed) (ht : t.inFailed = false) :
    step s = .next { s with agenda := rest } := by
  simp only [step, machineStep, ha, takeTurn]
  exact if_pos (by simp [hst, ht])

/-- A block that can issue fetches the word at its program counter (R375, R376). -/
theorem step_of_issue {d : Bool} (ha : s.agenda = .issue s.me.slot d :: rest) (hs : canIssue s) :
    step s = fetchStep { s with agenda := rest, defer := d } := by
  obtain ⟨hdue, hwin, htrap, htry, -, -, hst, hring⟩ := hs
  rw [step_of_turn ha hst]
  have hself : switchTo { s with agenda := rest } s.me.slot = { s with agenda := rest } := switchTo_me { s with agenda := rest }
  simp only [runTurn, hself, issueTurn, hdue, htrap, htry, windowFull_turn, hwin, Bool.not_true, Bool.false_eq_true, if_false]

/-- What a refused word does (R57, R311, R376). -/
def refuseWord (s : State) (w : Word) : DecodeTrap → State
  | .illegal => seqTrap s w { cause := .illegal }
  | .reservedField => seqTrap s w { cause := .reservedField }
  | .undefFuture => offerEmulator s w

theorem noCodeError_of_canIssue (hs : canIssue s) (d : Bool) :
    ((fetchLine { s with agenda := rest, defer := d }).isSome || arenaBad { s with agenda := rest, defer := d }) = false := by
  obtain ⟨-, -, -, -, hline, harena, -, -⟩ := hs
  exact Bool.or_eq_false_iff.mpr ⟨congrArg Option.isSome hline, harena⟩

theorem wordAt_turn (s : State) (rest : List Turn) (d : Bool) (pc : Word) : wordAt { s with agenda := rest, defer := d } pc = wordAt s pc := rfl

theorem step_of_refused {d : Bool} {w : Word} {e : DecodeTrap} (ha : s.agenda = .issue s.me.slot d :: rest) (hs : canIssue s)
    (hw : wordAt s s.me.pc = some w) (hd : decodeSeq w = .error e) : step s = .next (refuseWord { s with agenda := rest, defer := d } w e) := by
  simp only [step_of_issue ha hs, fetchStep, noCodeError_of_canIssue hs, wordAt_turn, hw, hd]
  cases e <;> rfl

theorem step_outside_section {d : Bool} (ha : s.agenda = .issue s.me.slot d :: rest) (hs : canIssue s) (hw : wordAt s s.me.pc = none) :
    step s = .next (seqTrap { s with agenda := rest, defer := d } 0 { cause := .illegal, tval := s.me.pc }) := by
  simp only [step_of_issue ha hs, fetchStep, noCodeError_of_canIssue hs, wordAt_turn, hw]
  rfl

/-- A lane turn runs the next word of the core's strip. -/
theorem laneTurn_of_word {j : LaneJob} {w : BitVec 32} {code : List (BitVec 32)} {i : Instr} (hj : s.lane = some j)
    (hret : j.strip.ret = none) (hcode : j.strip.code = w :: code) (hw : decodeLane w = .ok i) :
    laneTurn s = match exec i { s with lane := some (laneHurt j i) } with
      | .next t => .next { t with lane := t.lane.map (laneHeal (executed j.strip (laneGuard i)) i) }
      | o => o := by
  simp only [laneTurn, hj, hret, hcode, hw]
  rfl

theorem laneTurn_of_returned {j : LaneJob} (hj : s.lane = some j) (hret : j.strip.ret.isSome = true) : laneTurn s = exec .stripBoundary s := by
  simp only [laneTurn, hj, hret, if_true]

theorem isEvent_of_encode {i : Instr} (h : encode i = .event) : isEvent i = true := by
  rw [isEvent, h]

end

/-- Settles O5: each kind of turn by its own equation. -/
theorem stepTakesOtherTurns : Obligations.StepTakesOtherTurns := by
  unfold Obligations.StepTakesOtherTurns
  refine ⟨?issue, ?lane, ?event, ?failed⟩
  case issue =>
    intro s d rest ha hs
    exact ⟨fun w => step_of_refused ha hs, fun w => step_of_refused ha hs, fun w => step_of_refused ha hs, step_outside_section ha hs⟩
  case lane =>
    intro s core rest j ha hj hst
    simp only
    have hlane : (bringLane { s with agenda := rest, defer := false } core).lane = some j := hj
    rw [step_of_turn ha hst]
    exact ⟨fun w code i hret hcode hw => laneTurn_of_word hlane hret hcode hw, fun i hbad => if_pos hbad,
      fun hret => laneTurn_of_returned hlane hret, hlane, rfl⟩
  case event =>
    intro s rest i ha hi hst
    rw [step_of_turn ha hst]
    exact if_pos (isEvent_of_encode hi)
  case failed => exact fun s rest t ha hst ht => step_of_failed ha hst ht

end Sys2Proof.Proofs

/-!
PROOFS. The system instructions (the statement SystemRegisters, R99, R102): a state in which its clause on YIELD fails.
-/
namespace Sys2Proof.Proofs
open Sys2Proof Sys2Proof.Machine Sys2Proof.Laws

/-! ## A stop that takes the block of another group along -/

/-- A group of one block in band 0 of launch 0. -/
def bandGroup (grp : BitVec 32) (st : GroupSt) : Group :=
  { id := ⟨0, 0, 0, grp⟩, st := st, gsize := 0, bpos := 0, bsize := 1, band := 0, kernel := 0, tier := 0, heldTier := 0,
    barriers := Vector.replicate 16 {}, started := true, startOrder := 0, finished := [], overcap := false, byHost := false, image := 0 }

/-- A stopped block at 0x100 of group 2 in slot 0. -/
def earlier : Block := { Block.empty 0 with st := .stopped, gid := ⟨0, 0, 0, 2⟩, pc := 0x100 }

/-- A block of group 1 that is STOPPING in slot 0 too, where the other group of its band stops as soon as it has stopped. -/
def slotTwice : State :=
  { State.reset with
    me := { Block.empty 0 with st := .stopping, gid := ⟨0, 0, 0, 1⟩ }, others := [earlier]
    groups := [bandGroup 2 .stopping, bandGroup 1 .placing] }

/-- The homeWrite of a stop record leaves the blocks and the other stop records as they are. -/
theorem homeWrite_stopRecords (s : State) (a : Agent) (pa : Nat) (bs : List Byte) : (homeWrite s a pa bs).stopRecords = s.stopRecords := by
  simp only [homeWrite]
  split <;> rfl

theorem putBlock_me_same {s : State} {b : Block} (h : s.me.slot = b.slot) : (putBlock s b).me = b := by
  rw [putBlock, if_pos h]

theorem putBlock_stopRecords (s : State) (b : Block) : (putBlock s b).stopRecords = s.stopRecords := by
  unfold putBlock
  split
  · rfl
  · split <;> rfl

theorem groupBlocks_homeWrite (s : State) (a : Agent) (pa : Nat) (bs : List Byte) (g : GroupId) :
    groupBlocks (homeWrite s a pa bs) g = groupBlocks s g := by
  simp [groupBlocks, allBlocks]

/-- Stopping a group of one block records that block and empties its slot, whichever block the slot number names (R271). -/
theorem stopGroup_one {s : State} {g : Group} {b : Block} (hb : groupBlocks s g.id = [b]) (hst : b.st = .stopped)
    (hslot : s.me.slot = b.slot) :
    (stopGroup s g).me = Block.empty b.slot ∧ (stopGroup s g).stopRecords.map StopRecord.blocks = [b] :: s.stopRecords.map StopRecord.blocks := by
  simp only [stopGroup, groupBlocks_homeWrite, hb, List.foldl_cons, List.foldl_nil, modGroup, clearRecord, setRecord]
  constructor
  · rw [putBlock_me_same (by rw [homeWrite_me, hslot]; rfl)]
  · rw [putBlock_stopRecords, homeWrite_stopRecords]
    simp [hst]

theorem yield_slotTwice : ∃ t, exec .yield slotTwice = .next (stopGroup t (bandGroup 2 .stopping)) ∧ t.me.slot = 0 ∧
    groupBlocks t (bandGroup 2 .stopping).id = [earlier] ∧ t.stopRecords = [] := by
  refine ⟨_, rfl, ?_, ?_, ?_⟩
  · rfl
  · rfl
  · rfl

/-- Refutes O19 in its clause on YIELD in a STOPPING block: nothing in it keeps two blocks out of one slot. In `slotTwice` the YIELD of the
block of group 1 stops it, and with it the other group of its band; that group's stop record takes the other block, and its slot, which is the
first block's too, is emptied. The block that yielded then stands nowhere. -/
theorem not_systemRegisters : ¬ Obligations.SystemRegisters := by
  unfold Obligations.SystemRegisters
  intro h
  obtain ⟨-, -, hstop, -⟩ := h slotTwice
  obtain ⟨u, hu, b, -, hst, hpc, -, hb⟩ := hstop rfl rfl
  obtain ⟨t, ht, hslot, hblocks, hrecords⟩ := yield_slotTwice
  obtain ⟨hme, hrec⟩ := stopGroup_one hblocks rfl hslot
  obtain rfl : stopGroup t (bandGroup 2 .stopping) = u := by simpa [ht] using hu
  rcases hb with hb | ⟨r, hr, hb⟩
  · have hself : slotTwice.me.slot = (stopGroup t (bandGroup 2 .stopping)).me.slot := by rw [hme]; rfl
    rw [hself, getBlock_me, hme] at hb
    cases hb
    exact absurd hst (by decide)
  · have hearlier : b = earlier := by
      have hr : r.blocks ∈ (stopGroup t (bandGroup 2 .stopping)).stopRecords.map StopRecord.blocks := List.mem_map_of_mem hr
      rw [hrec, hrecords, List.map_nil, List.mem_singleton] at hr
      rwa [hr, List.mem_singleton] at hb
    exact absurd (hearlier ▸ hpc) (by decide)

end Sys2Proof.Proofs

/-!
PROOFS. Shape records, tile names, streams, counters and tags (the statements RecordsNamesStreams and CountersAndTags, R111 to R151).
-/
namespace Sys2Proof.Proofs

open Sys2Proof Sys2Proof.Machine Sys2Proof.Laws
open Host (Outcome)

/-! ## Entries of a block's tables after a write -/

theorem shapeOf_setShape_other (b : Block) {h k : BitVec 4} (hk : k ≠ h) (r : ShapeRec) : shapeOf (setShape b h r) k = shapeOf b k := by
  have hne : h.toNat ≠ k.toNat := fun e => hk (BitVec.eq_of_toNat_eq e.symm)
  simp [shapeOf, setShape, hne]

theorem nameOf_setName_same (b : Block) (t : BitVec 5) (n : Option TileName) : nameOf (setName b t n) t = n := by
  simp [nameOf, setName]

theorem nameOf_setName_other (b : Block) {t k : BitVec 5} (hk : k ≠ t) (n : Option TileName) : nameOf (setName b t n) k = nameOf b k := by
  have hne : t.toNat ≠ k.toNat := fun e => hk (BitVec.eq_of_toNat_eq e.symm)
  simp [nameOf, setName, hne]

theorem streamOf_setStream_same (b : Block) (w : BitVec 3) (x : Stream) : streamOf (setStream b w x) w = x := by
  simp [streamOf, setStream]

theorem streamOf_setStream_other (b : Block) {w k : BitVec 3} (hk : k ≠ w) (x : Stream) : streamOf (setStream b w x) k = streamOf b k := by
  have hne : w.toNat ≠ k.toNat := fun e => hk (BitVec.eq_of_toNat_eq e.symm)
  simp [streamOf, setStream, hne]

/-! ## Fields of a record (R111, R112) -/

/-- A word as a field holds it and HGET reads it: cut to the width of the field, MROW and MCOL sign-extended. -/
def fieldValue (x : ShapeField) (v : Word) : Word :=
  match x with
  | .rows => (v.setWidth 13).setWidth 64 | .cols => (v.setWidth 13).setWidth 64 | .type => (v.setWidth 5).setWidth 64
  | .store => (v.setWidth 2).setWidth 64 | .pitch => (v.setWidth 17).setWidth 64
  | .mrow => (v.setWidth 40).signExtend 64 | .mcol => (v.setWidth 40).signExtend 64
  | .fmt => (v.setWidth 9).setWidth 64 | .limit => (v.setWidth 32).setWidth 64 | .scale => v
  | .fill => (v.setWidth 32).setWidth 64

theorem getField_putField_same (r : ShapeRec) (x : ShapeField) (v : Word) : getField (putField r x v) x = fieldValue x v := by
  cases x <;> rfl

theorem getField_putField_other (r : ShapeRec) {x y : ShapeField} (h : y ≠ x) (v : Word) : getField (putField r x v) y = getField r y := by
  cases x <;> cases y <;> simp [getField, putField] at h ⊢

/-- HSET writes the record, and for FILL the list of gathers that have still to set it. -/
theorem setField_shapes (b : Block) (h : BitVec 4) (x : ShapeField) (v : Word) :
    (setField b h x v).shapes = (setShape b h (putField (shapeOf b h) x v)).shapes := by
  unfold setField
  dsimp only
  split <;> rfl

theorem setField_eq (b : Block) (h : BitVec 4) (x : ShapeField) (v : Word) :
    setField b h x v = { b with shapes := (setField b h x v).shapes, fillWait := (setField b h x v).fillWait } := by
  unfold setField
  dsimp only
  split <;> rfl

theorem setField_fillWait (b : Block) (h : BitVec 4) {x : ShapeField} (hx : x ≠ .fill) (v : Word) :
    (setField b h x v).fillWait = b.fillWait := by
  simp [setField, hx, setShape]

theorem shapeOf_setField (b : Block) (h k : BitVec 4) (x : ShapeField) (v : Word) :
    shapeOf (setField b h x v) k = shapeOf (setShape b h (putField (shapeOf b h) x v)) k := by
  simp only [shapeOf, setField_shapes]

/-- HGET writes the field, but for a FILL that a gather has still to set (R131). -/
theorem execHget_reads {s : State} {f : HField} (h : f.field ≠ .fill ∨ fillPending s.me f.h = false) :
    execHget f s = .next (advance (setS s f.sa (getField (shapeOf s.me f.h) f.field))) := by
  have hnot : ¬(f.field = .fill ∧ fillPending s.me f.h = true) := by
    rintro ⟨h1, h2⟩
    rcases h with h | h
    · exact h h1
    · rw [h] at h2; cases h2
  rw [execHget, if_neg hnot]
  rfl

theorem execHget_waits {s : State} {f : HField} (hf : f.field = .fill) (hp : fillPending s.me f.h = true) (hh : s.me.inHandler = false) :
    execHget f s = .next s := by
  simp [execHget, hf, hp, hh]

/-! ## Names (R119, R120) -/

theorem mem_of_mem_reap {s : State} {b : Block} {v : Version} (h : v ∈ (reap s b).versions) : v ∈ b.versions :=
  (List.mem_filter.1 h).1

/-- The current version of a name is not freed. -/
theorem mem_reap_of_current {s : State} {b : Block} {v : Version} (h : v ∈ b.versions) (hc : isCurrent b v = true) :
    v ∈ (reap s b).versions :=
  List.mem_filter.2 ⟨h, by simp [hc]⟩

theorem isCurrent_setName {b : Block} {t : BitVec 5} {v : Version} (h : v.name ≠ t) (n : Option TileName) :
    isCurrent (setName b t n) v = isCurrent b v := by
  simp only [isCurrent, curId, nameOf_setName_other b h]

/-- TBIND and TDROP: the name stands for what they give it, and versions that nothing needs are freed. -/
theorem rebind_frame (s : State) (t : BitVec 5) (n : Option TileName) : ∃ u : State,
    Outcome.next (advance { s with me := reap s (setName s.me t n) }) = (Outcome.next u : Outcome State Fault Refusal) ∧
      nameOf u.me t = n ∧ (∀ k, k ≠ t → nameOf u.me k = nameOf s.me k) ∧ (∀ v ∈ u.me.versions, v ∈ s.me.versions) ∧
      (∀ v ∈ s.me.versions, isCurrent s.me v = true → v.name ≠ t → v ∈ u.me.versions) ∧
      u = advance { s with me := { s.me with names := u.me.names, versions := u.me.versions } } := by
  exact ⟨_, rfl, nameOf_setName_same s.me t n, fun k hk => nameOf_setName_other s.me hk n,
    fun v hv => mem_of_mem_reap (s := s) (b := setName s.me t n) hv,
    fun v hv hc ht => mem_reap_of_current (b := setName s.me t n) hv ((isCurrent_setName ht n).trans hc), rfl⟩

/-- Settles O23: each instruction by what it writes of the block, `setField`, `rebind_frame` and `setStream`. -/
theorem recordsNamesStreams : Obligations.RecordsNamesStreams := by
  unfold Obligations.RecordsNamesStreams
  refine ⟨fun s => ⟨fun f => ?hset, fun f h => execHget_reads h, fun f hf hp hh => execHget_waits hf hp hh, fun _ _ => rfl, rfl⟩,
    fun s => ⟨fun t h => ?names, fun f => ?wbind⟩⟩
  case hset =>
    let b := setField s.me f.h f.field (getS s f.sa)
    have hshape : ∀ k, shapeOf (advance { s with me := b }).me k =
        shapeOf (setShape s.me f.h (putField (shapeOf s.me f.h) f.field (getS s f.sa))) k :=
      fun k => shapeOf_setField s.me f.h k f.field (getS s f.sa)
    refine ⟨advance { s with me := b }, rfl, ?_, fun x hx => ?_, fun k hk => ?_, ?_, fun hx => setField_fillWait s.me f.h hx _⟩
    · rw [hshape, shapeOf_setShape_same, getField_putField_same]
      rfl
    · rw [hshape, shapeOf_setShape_same, getField_putField_other _ hx]
    · rw [hshape, shapeOf_setShape_other _ hk]
    · exact congrArg (fun c => advance { s with me := c }) (setField_eq s.me f.h f.field (getS s f.sa))
  case names =>
    simp only [List.forall_mem_cons, List.not_mem_nil, false_imp_iff, implies_true, and_true]
    exact ⟨rebind_frame s t (some ⟨h, none⟩), rebind_frame s t none⟩
  case wbind =>
    exact ⟨_, rfl, streamOf_setStream_same s.me f.w _, fun k hk => streamOf_setStream_other s.me hk _, rfl⟩

/-! ## Counters (R148, R150) -/

theorem parkUnless_of (s : State) {c : Bool} (h : c = true) : parkUnless s c = advance s := by simp [parkUnless, h]

/-- A running block parks where its counters or tags do not let it go on. -/
theorem parkUnless_of_not {s : State} {c : Bool} (h : c = false) (hst : s.me.st = .running) :
    parkUnless s c = { s with me := { s.me with wait := .counters, st := .parked } } := by
  simp [parkUnless, h, parkOn_running s .counters hst]

theorem withinLimit_iff (b : Block) (k : CounterKind) (l : BitVec 6) :
    withinLimit b k l = true ↔ l = 63 ∨ (b.flights.filter fun f => f.kind == k).length ≤ l.toNat := by
  rw [withinLimit, Bool.or_eq_true, beq_iff_eq, decide_eq_true_iff]
  rfl

theorem waitcHolds_iff (b : Block) (f : WaitcF) : waitcHolds b f = true ↔
    withinLimit b .ldq f.ld = true ∧ withinLimit b .stq f.st = true ∧ withinLimit b .cpq f.cp = true ∧ withinLimit b .opq f.op = true := by
  simp [waitcHolds, and_assoc]

/-! ## Tags (R149, R151) -/

theorem mem_tagsOfMask {m : Word} {g : Nat} : g ∈ tagsOfMask m ↔ g < 64 ∧ m.getLsbD g = true := by
  simp [tagsOfMask]

theorem tagCount_eq_zero_iff (b : Block) (g : BitVec 6) : tagCount b g = 0 ↔ (b.flights.any fun f => f.tag == some g) = false := by
  simp [tagCount]

/-- No instruction in flight carries a tag of the mask. -/
theorem allIdle_iff (b : Block) (m : Word) : allIdle b m = true ↔
    ∀ g : BitVec 6, m.getLsbD g.toNat = true → (b.flights.any fun f => f.tag == some g) = false := by
  simp only [allIdle, List.all_eq_true, beq_iff_eq, mem_tagsOfMask, tagCount_eq_zero_iff]
  constructor
  · intro h g hg
    simpa using h g.toNat ⟨g.isLt, hg⟩
  · rintro h g ⟨hlt, hg⟩
    refine h (BitVec.ofNat 6 g) ?_
    rwa [BitVec.toNat_ofNat, Nat.mod_eq_of_lt hlt]

theorem tagsOfMask_zero : tagsOfMask 0 = [] := by
  simp [tagsOfMask]

/-- The lowest bit of a mask is the first of its tags. -/
theorem tagsOfMask_head {m : Word} {g : Nat} (hg : g < 64) (hset : m.getLsbD g = true) (hlow : ∀ k, k < g → m.getLsbD k = false) :
    (tagsOfMask m).head? = some g := by
  rw [tagsOfMask, List.head?_filter, List.find?_range_eq_some]
  exact ⟨hset, List.mem_range.2 hg, fun k hk => by simp [hlow k hk]⟩

/-- TAGFF writes the first tag of the mask, or −1. -/
theorem execTagff_eq (sd sa : BitVec 6) (s : State) : execTagff sd sa s =
    .next (advance (setS s sd (((tagsOfMask (getS s sa &&& s.me.tags)).head?.map (BitVec.ofNat 64)).getD (-1)))) := by
  unfold execTagff writeBack
  cases tagsOfMask (getS s sa &&& s.me.tags) <;> rfl

/-- Settles O24: WAITC by `waitcHolds_iff`, the waits on tags by `allIdle_iff`, TAGFF by the head of `tagsOfMask`. -/
theorem countersAndTags : Obligations.CountersAndTags := by
  unfold Obligations.CountersAndTags
  intro s n busy parked
  refine ⟨?waitc, ?tags⟩
  case waitc =>
    intro f ok
    have hok : waitcHolds s.me f = true ↔ ok .ldq f.ld ∧ ok .stq f.st ∧ ok .cpq f.cp ∧ ok .opq f.op := by
      simp only [waitcHolds_iff, withinLimit_iff]
      rfl
    refine ⟨fun h => congrArg _ (parkUnless_of s (hok.2 h)), fun h hst => congrArg _ (parkUnless_of_not ?_ hst)⟩
    rw [← Bool.not_eq_true, hok]
    exact h
  case tags =>
    intro sa m idle
    have hidle : allIdle s.me m = true ↔ idle := allIdle_iff s.me m
    refine ⟨fun h => ⟨?_, ?_⟩, fun h => ?_, fun h hst => ⟨?_, fun h0 => ?_⟩, rfl, fun sd => ⟨fun h0 => ?_, fun g hg hset hlow => ?_⟩⟩
    · exact congrArg _ (parkUnless_of s (hidle.2 h))
    · exact congrArg _ (parkUnless_of s (Bool.or_eq_true_iff.2 (.inr (hidle.2 h))))
    · exact congrArg _ (parkUnless_of s (Bool.or_eq_true_iff.2 (.inl (bne_iff_ne.2 h))))
    · exact congrArg _ (parkUnless_of_not (by rwa [← Bool.not_eq_true, hidle]) hst)
    · have hbusy : allIdle s.me m = false := by rwa [← Bool.not_eq_true, hidle]
      exact congrArg _ (parkUnless_of_not (Bool.or_eq_false_iff.2 ⟨bne_eq_false_iff_eq.2 h0, hbusy⟩) hst)
    · refine (execTagff_eq sd sa s).trans ?_
      rw [show getS s sa &&& s.me.tags = 0 from h0, tagsOfMask_zero]
      rfl
    · refine (execTagff_eq sd sa s).trans ?_
      rw [tagsOfMask_head hg hset hlow]
      rfl

end Sys2Proof.Proofs

/-!
PROOFS. Rename and the issue checks of a plain operand (the statement RenameGivesAPendingVersion, R113, R121, R127).
-/
namespace Sys2Proof.Proofs

open Sys2Proof Sys2Proof.Machine Sys2Proof.Laws

/-! ## Rename (R121) -/

/-- A version as Rename leaves it: not DONE, of the geometry asked for, all its bits zero. -/
def pendingVersion (v : Version) (g : ShapeRec) : Version :=
  { v with geom := g, elems := List.replicate g.count 0, scales := [], poison := [], done := false }

/-- A version that Rename makes. -/
def newVersion (s : State) (b : Block) (t : BitVec 5) (g : ShapeRec) : Version :=
  { id := b.nextId, name := t, geom := g, elems := List.replicate g.count 0, notIn := closedBanks s (slotCore b.slot) g.store }

/-- The record of a name, 0 where it has none. -/
def recordOf (b : Block) (t : BitVec 5) : BitVec 4 := match nameOf b t with | some n => n.record | none => 0

/-- The block with a new version of a name. -/
def withNewVersion (s : State) (b : Block) (t : BitVec 5) (g : ShapeRec) : Block :=
  setName { b with versions := newVersion s b t g :: b.versions, nextId := b.nextId + 1 } t (some ⟨recordOf b t, some b.nextId⟩)

/-- Where Rename succeeds, it overwrites the current version or makes a new one. -/
theorem rename_cases {s : State} {b c : Block} {t : BitVec 5} {g : ShapeRec} {rd : List Nat} {id : Nat} (h : rename s b t g rd = .ok id c) :
    (∃ v, current b t = some v ∧ id = v.id ∧ c = modVersion b v.id fun v => pendingVersion v g) ∨
      (id = b.nextId ∧ c = reapBut s (withNewVersion s b t g) rd) := by
  unfold rename at h
  dsimp only at h
  split at h
  · next v hv =>
    obtain ⟨rfl, rfl⟩ := RenameRes.ok.inj h
    exact .inl ⟨v, (Option.filter_eq_some_iff.1 hv).1, rfl, rfl⟩
  · split at h
    · cases h
    · split at h
      · cases h
      · obtain ⟨rfl, rfl⟩ := RenameRes.ok.inj h
        exact .inr ⟨rfl, rfl⟩

theorem sameControl_modVersion (b : Block) (id : Nat) (m : Version → Version) : sameControl (modVersion b id m) b := by
  simp [sameControl]

theorem sameControl_reapBut (s : State) (b : Block) (t : BitVec 5) (g : ShapeRec) (rd : List Nat) :
    sameControl (reapBut s (withNewVersion s b t g) rd) b := by
  simp [sameControl, reapBut, withNewVersion, setName]

theorem curId_modVersion (b : Block) (id : Nat) (m : Version → Version) (t : BitVec 5) : curId (modVersion b id m) t = curId b t := rfl

/-- The current version of the name is the one that Rename overwrote. -/
theorem current_modVersion_same {b : Block} {t : BitVec 5} {v : Version} (h : current b t = some v) (g : ShapeRec) :
    current (modVersion b v.id fun v => pendingVersion v g) t = some (pendingVersion v g) := by
  obtain ⟨i, hi, hv⟩ := Option.bind_eq_some_iff.1 h
  obtain rfl := findVersion_id hv
  rw [current, curId_modVersion, hi, Option.bind_some]
  exact findVersion_modVersion_same hv fun _ => rfl

/-- The current version of the name is the one that Rename made: nothing frees it. -/
theorem current_withNewVersion (s : State) (b : Block) (t : BitVec 5) (g : ShapeRec) (rd : List Nat) :
    current (reapBut s (withNewVersion s b t g) rd) t = some (newVersion s b t g) := by
  have hname : nameOf (withNewVersion s b t g) t = some ⟨recordOf b t, some b.nextId⟩ := nameOf_setName_same _ t _
  have hcur : isCurrent (withNewVersion s b t g) (newVersion s b t g) = true := by
    rw [isCurrent, curId, show (newVersion s b t g).name = t from rfl, hname]
    exact beq_self_eq_true _
  have hid : curId (reapBut s (withNewVersion s b t g) rd) t = some b.nextId := by
    rw [curId, show nameOf (reapBut s (withNewVersion s b t g) rd) t = _ from hname]
  rw [current, hid, Option.bind_some, findVersion, reapBut]
  dsimp only
  rw [show (withNewVersion s b t g).versions = newVersion s b t g :: b.versions from rfl, List.filter_cons_of_pos (by simp [hcur])]
  exact List.find?_cons_of_pos (beq_self_eq_true b.nextId)

/-! ## The checks on a plain operand (R113, R114, R127) -/

theorem plainType.numOf {t : BitVec 5} (h : plainType t) : (numOf t).isSome = true := by
  simp only [plainType, List.mem_cons, List.not_mem_nil, or_false] at h
  unfold Machine.numOf
  rcases h with h | h | h | h | h | h | h | h | h <;> simp [h]

theorem memType_of_fmt_zero {g : ShapeRec} (h : g.fmt = 0) : g.memType = g.type := by
  simp [ShapeRec.memType, h]

/-- A stride counts only where there is more than one row or column (R114). -/
def strideInForce (n : Nat) (m : Int) : Int := if 1 < n then m else 0

theorem strideInForce_emod_eq_zero (n : Nat) (m es : Int) : strideInForce n m % es = 0 ↔ (1 < n → m % es = 0) := by
  unfold strideInForce
  split <;> simp [*]

/-- Of an operand whose memory format is its own plain type only the alignment of its address and its strides is in question. -/
theorem checkOperands_plain {g : ShapeRec} (hok : g.ok = true) (hfmt : g.fmt = 0) (hplain : plainType g.type) (h a : Nat) (store : Bool) :
    checkOperands g h a 0 false store g.type true =
      if a % (typeBits g.type / 8) = 0 ∧ strideInForce g.rows.toNat g.mrow.toInt % ((typeBits g.type / 8 : Nat) : Int) = 0 ∧
        strideInForce g.cols.toNat g.mcol.toInt % ((typeBits g.type / 8 : Nat) : Int) = 0
      then none else some { cause := .strideAlign, tval := BitVec.ofNat 64 a } := by
  obtain ⟨hcb, hmask, hlp⟩ := hplain.unpacked
  have hsp : g.type ≠ 11 := by rintro e; rw [e] at hplain; simp [plainType] at hplain
  have hpair : pairOk g.type g.type store = true := by simp [pairOk, hplain.numOf]
  have hpacked : isPacked g.type = false := by
    rw [isPacked, beq_eq_false_iff_ne.2 hcb, beq_eq_false_iff_ne.2 hmask, beq_eq_false_iff_ne.2 hlp]
    rfl
  rw [checkOperands, ← strideInForce, ← strideInForce, memType_of_fmt_zero hfmt, hok, hpair, hpacked]
  simp only [hcb, hlp, hmask, hsp, decide_false, bne_self_eq_false, Bool.or_self, Bool.not_true, Bool.not_false, Bool.and_false,
    Bool.false_and, Bool.true_and, Bool.false_eq_true, if_false, Bool.or_eq_true, bne_iff_ne]
  by_cases hal : a % (typeBits g.type / 8) = 0 ∧ strideInForce g.rows.toNat g.mrow.toInt % ((typeBits g.type / 8 : Nat) : Int) = 0 ∧
      strideInForce g.cols.toNat g.mcol.toInt % ((typeBits g.type / 8 : Nat) : Int) = 0
  · rw [if_pos hal, if_neg]
    tauto
  · rw [if_neg hal, if_pos]
    tauto

/-- Settles O25: Rename by its two ways to succeed (`rename_cases`), the checks by `checkOperands_plain`. -/
theorem renameGivesAPendingVersion : Obligations.RenameGivesAPendingVersion := by
  unfold Obligations.RenameGivesAPendingVersion
  constructor
  · intro s b c t g rd id h
    rcases rename_cases h with ⟨v, hv, rfl, rfl⟩ | ⟨rfl, rfl⟩
    · exact ⟨⟨pendingVersion v g, current_modVersion_same hv g, rfl, rfl, rfl, rfl, rfl, rfl⟩, fun k _ => rfl, fun n hn => ⟨n, hn, rfl⟩,
        sameControl_modVersion b v.id _⟩
    · refine ⟨⟨newVersion s b t g, current_withNewVersion s b t g rd, rfl, rfl, rfl, rfl, rfl, rfl⟩,
        fun k hk => nameOf_setName_other _ hk _, fun n hn => ⟨_, nameOf_setName_same _ t _, ?_⟩, sameControl_reapBut s b t g rd⟩
      simp [recordOf, hn]
  · intro g h a store hok hfmt hplain es aligned
    have hal : aligned ↔ a.toNat % es = 0 ∧ strideInForce g.rows.toNat g.mrow.toInt % (es : Int) = 0 ∧
        strideInForce g.cols.toNat g.mcol.toInt % (es : Int) = 0 := by
      rw [strideInForce_emod_eq_zero, strideInForce_emod_eq_zero]
    rw [checkOperands_plain hok hfmt hplain]
    refine ⟨fun h => if_pos (hal.1 h), fun h => ?_⟩
    rw [if_neg fun h' => h (hal.2 h'), BitVec.ofNat_toNat, BitVec.setWidth_eq]

end Sys2Proof.Proofs

/-!
PROOFS. Issuing tile memory instructions (the statements TileLoadsIssue and TileStoresIssue, R127 to R149): what an issue that passes its
checks leaves, and the trap of one that fails them.
-/
namespace Sys2Proof.Proofs

open Sys2Proof Sys2Proof.Machine Sys2Proof.Laws
open Host (Outcome)

/-! ## Checks (R375) -/

@[simp] theorem firstOf_nil : firstOf [] = none := rfl

@[simp] theorem firstOf_none_cons (l : List (Option TrapInfo)) : firstOf (none :: l) = firstOf l := rfl

@[simp] theorem firstOf_some_cons (t : TrapInfo) (l : List (Option TrapInfo)) : firstOf (some t :: l) = some t := rfl

theorem firstOf_pass {a b : Option TrapInfo} (ha : a = none) (hb : b = none) : firstOf [a, b] = none := by rw [ha, hb]; rfl

/-- The first of two checks that fails. -/
theorem firstOf_two {a b : Option TrapInfo} {t : TrapInfo} (h : a = some t ∨ (a = none ∧ b = some t)) : firstOf [a, b] = some t := by
  rcases h with rfl | ⟨rfl, rfl⟩ <;> rfl

@[simp] theorem checked_none (s : State) (insn : Word) (k : State → State) : checked s insn none k = k s := rfl

@[simp] theorem checked_some (s : State) (insn : Word) (t : TrapInfo) (k : State → State) : checked s insn (some t) k = seqTrap s insn t := rfl

/-! ## The issue of a tile memory instruction (R85, R121, R122) -/

/-- A block that issues has room in its window and its counters. -/
theorem enterWindow_issues {s : State} (h : issuesTile s) (kind : CounterKind) (k : State → State) :
    enterWindow s kind k = .next (k s) := by
  obtain ⟨hwindow, hcounters, -, -⟩ := h
  simp [enterWindow, hwindow, hcounters]

/-- Outside handler mode no trapped instruction stands in the way of an issue: the instruction goes into the tile dependency table. -/
theorem launchFlight_inFlight {s : State} (hd : s.defer = true) {b : Block} (hb : b.inHandler = false) (f : Flight) :
    launchFlight { s with me := b } f = inFlight s b f := by
  have hfree : handlerStuck { s with me := b } (issued { s with me := b } f) = false := by simp [handlerStuck, hb]
  rw [launchFlight_defer { s with me := b } f hd hfree, inFlight, issued]
  simp only [hb]
  rfl

/-- A block whose registers and control a Rename has left as they were. -/
theorem rename_sameControl {s : State} {b c : Block} {t : BitVec 5} {g : ShapeRec} {rd : List Nat} {id : Nat}
    (h : rename s b t g rd = .ok id c) : sameControl c b := by
  rcases rename_cases h with ⟨v, -, -, rfl⟩ | ⟨-, rfl⟩
  · exact sameControl_modVersion b v.id _
  · exact sameControl_reapBut s b t g rd

theorem rename_inHandler {s : State} {b c : Block} {t : BitVec 5} {g : ShapeRec} {rd : List Nat} {id : Nat}
    (h : rename s b t g rd = .ok id c) : c.inHandler = b.inHandler := by
  obtain ⟨_, _, _, _, _, _, _, _, _, _, _, _, _, _, _, _, _, hin, _⟩ := rename_sameControl h
  exact hin

theorem bindIfUnbound_inHandler (b : Block) (t : BitVec 5) (h : BitVec 4) : (bindIfUnbound b t h).inHandler = b.inHandler := by
  unfold bindIfUnbound
  split <;> rfl

theorem renameFor_inHandler {s : State} {t : BitVec 5} {h : BitVec 4} {g : ShapeRec} {rd : List Nat} {id : Nat} {b : Block}
    (hr : renameFor s t h g rd = .ok id b) : b.inHandler = s.me.inHandler :=
  (rename_inHandler hr).trans (bindIfUnbound_inHandler s.me t h)

/-- Where Rename finds room, the issue goes on with the version it gave. -/
theorem renamedBind_ok {s : State} {t : BitVec 5} {h : BitVec 4} {g : ShapeRec} {rd : List Nat} {id : Nat} {b : Block}
    (hr : renameFor s t h g rd = .ok id b) (s0 : State) (insn : Word) (k : Nat → State → State) :
    renamedBind s0 s insn t h g rd k = k id { s with me := b } := by
  have hr' : rename { s with me := bindIfUnbound s.me t h } (bindIfUnbound s.me t h) t g rd = .ok id b := hr
  simp only [renamedBind, renamed, hr']

/-! ## Plain loads (R127, R131) -/

section LoadTile
variable {s : State} {f : TmF} {i : Instr} (extra : State → State)

theorem loadTile_traps {t : TrapInfo}
    (h : checkOperands (shapeOf s.me f.h) f.h.toNat (tmAddr s f.s f.off).toNat f.pc.toNat (f.pm == .guarded) false (shapeOf s.me f.h).type
        true = some t ∨
      (checkOperands (shapeOf s.me f.h) f.h.toNat (tmAddr s f.s f.off).toNat f.pc.toNat (f.pm == .guarded) false (shapeOf s.me f.h).type
        true = none ∧ checkTables s (shapeOf s.me f.h) f.h.toNat = some t)) :
    loadTile s i f extra = seqTrap s (wordOf i) t := by
  simp only [loadTile, firstOf_two h, checked_some]

theorem loadTile_passes
    (hops : checkOperands (shapeOf s.me f.h) f.h.toNat (tmAddr s f.s f.off).toNat f.pc.toNat (f.pm == .guarded) false
      (shapeOf s.me f.h).type true = none)
    (htables : checkTables s (shapeOf s.me f.h) f.h.toNat = none) {id : Nat} {b : Block}
    (hr : renameFor s f.t f.h (shapeOf s.me f.h) [] = .ok id b) :
    loadTile s i f extra = issueLoad (extra { s with me := b })
      { flight i (tmAddr s f.s f.off) (shapeOf s.me f.h) f.h .ldq with dst := some id, tag := tagOf f.te f.tag } := by
  simp only [loadTile, hops, htables, firstOf_none_cons, firstOf_nil, checked_none, renamedBind_ok hr]

end LoadTile

/-- A load that issues takes its codebook tables and is in flight. -/
theorem issueLoad_inFlight {s : State} (hd : s.defer = true) {b : Block} (hb : b.inHandler = false) (f : Flight) :
    issueLoad { s with me := b } f = inFlight { s with cbs := reserveTables s.cbs b.slot (tablesNeeded f.shape) b.nextId } b f :=
  launchFlight_inFlight (s := { s with cbs := reserveTables s.cbs b.slot (tablesNeeded f.shape) b.nextId }) hd hb f

/-! ## Gathers (R132 to R134) -/

/-- The old version of a windowed gather: the current one, where it has the record's geometry (R133). -/
def oldVersion (o : Option Version) (g : ShapeRec) : Option Nat :=
  match o with | some v => if sameTile v.geom g then some v.id else none | none => none

theorem oldVersion_eq (o : Option Version) (g : ShapeRec) : oldVersion o g = (o.filter fun v => sameTile v.geom g).map Version.id := by
  cases o with
  | none => rfl
  | some v => by_cases h : sameTile v.geom g = true <;> simp [oldVersion, Option.filter, h]

/-- A TGTH.FULL as it issues, but for its version (R134). -/
def fullGather (s : State) (f : TmIdxF) : Flight :=
  { flight (.tgthFull f) (tmAddr s f.s f.off) (shapeOf s.me f.h) f.h .ldq with tb := curId s.me f.t2, tag := tagOf f.te f.tag }

/-- The companion mask that a TGTH reads (R133). -/
def usableMask (s : State) (f : TmIdxF) : Option Version :=
  (current s.me (f.t2 + 1)).filter fun v => v.geom.type == 15 && v.geom.count == (shapeOf s.me f.h).count

/-- A TGTH as it issues, but for its versions (R133). -/
def windowGather (s : State) (f : TmIdxF) : Flight :=
  { flight (.tgth f) (tmAddr s f.s f.off) (shapeOf s.me f.h) f.h .ldq with
    tb := curId s.me f.t2, tag := tagOf f.te f.tag
    old := oldVersion (current s.me f.t) (shapeOf s.me f.h)
    tc := (usableMask s f).map Version.id
    ta := if (usableMask s f).isNone then (current s.me (f.t2 + 1)).map Version.id else none }

section Gather
variable {s : State} {f : TmIdxF} (h : issuesTile s)
include h

theorem execTgthFull_traps {t : TrapInfo} (hc : checkIndexed s.me f (shapeOf s.me f.h) (tmAddr s f.s f.off) = some t) :
    execTgthFull f s = .next (seqTrap s (wordOf (.tgthFull f)) t) := by
  rw [execTgthFull, enterWindow_issues h]
  dsimp only
  rw [hc, checked_some]

theorem execTgthFull_passes (hc : checkIndexed s.me f (shapeOf s.me f.h) (tmAddr s f.s f.off) = none) :
    execTgthFull f s = .next (renamedBind s s (wordOf (.tgthFull f)) f.t f.h (shapeOf s.me f.h) (fullGather s f).reads fun id s1 =>
      launchFlight (addFillWait f.h s1) { fullGather s f with dst := some id }) := by
  rw [execTgthFull, enterWindow_issues h]
  dsimp only
  rw [hc]
  rfl

theorem execTgth_traps {t : TrapInfo} (hc : checkIndexed s.me f (shapeOf s.me f.h) (tmAddr s f.s f.off) = some t) :
    execTgth f s = .next (seqTrap s (wordOf (.tgth f)) t) := by
  rw [execTgth, enterWindow_issues h]
  dsimp only
  rw [hc, firstOf_some_cons, checked_some]

variable (hc : checkIndexed s.me f (shapeOf s.me f.h) (tmAddr s f.s f.off) = none)
include hc

theorem execTgth_stride (hm : (shapeOf s.me f.h).mcol.toInt ≠ (typeBits (shapeOf s.me f.h).memType / 8 : Nat)) :
    execTgth f s = .next (seqTrap s (wordOf (.tgth f)) { cause := .type, tval := BitVec.ofNat 64 (0x100 + f.h.toNat) }) := by
  rw [execTgth, enterWindow_issues h]
  dsimp only
  rw [hc, if_neg hm]
  rfl

theorem execTgth_passes (hm : (shapeOf s.me f.h).mcol.toInt = (typeBits (shapeOf s.me f.h).memType / 8 : Nat)) :
    execTgth f s = .next (renamedBind s s (wordOf (.tgth f)) f.t f.h (shapeOf s.me f.h) (windowGather s f).reads fun id s1 =>
      renamedBind (if id = s.me.nextId then awaitRename s f.t else s) s1 (wordOf (.tgth f)) (f.t2 + 1) f.h (maskGeom (shapeOf s.me f.h))
        (windowGather s f).reads fun id2 s2 =>
          launchFlight (addFillWait f.h s2) { windowGather s f with dst := some id, dst2 := some id2 }) := by
  rw [execTgth, enterWindow_issues h]
  dsimp only
  rw [hc, if_pos hm, firstOf_none_cons, firstOf_none_cons, firstOf_nil, checked_none]
  rfl

end Gather

/-! ## Loads of a stream (R145) -/

/-- The tile of a stream that a TLDW consumes next lies here. -/
def streamAddr (x : Stream) : Word := BitVec.ofNat 64 (wrap64 (x.base.toNat + x.consumed * x.stride.toInt))

/-- The checks of a TLDW. -/
def checkStream (s : State) (x : Stream) : Option TrapInfo :=
  firstOf [if x.consumed = x.count.toNat then some { cause := .bound, tval := x.count.setWidth 64 } else none,
    checkOperands x.copy x.source.toNat (streamAddr x).toNat 0 false false x.copy.type true, checkTables s x.copy x.source.toNat]

theorem execTldw_eq {s : State} (h : issuesTile s) (t : BitVec 5) (w : BitVec 3) :
    execTldw t w s = .next (checked s (wordOf (.tldw t w)) (checkStream s (streamOf s.me w)) fun s1 =>
      renamedBind s1 s1 (wordOf (.tldw t w)) t (streamOf s.me w).source (streamOf s.me w).copy [] fun id s1 =>
        issueLoad { s1 with me := setStream s1.me w { streamOf s.me w with consumed := (streamOf s.me w).consumed + 1 } }
          { flight (.tldw t w) (streamAddr (streamOf s.me w)) (streamOf s.me w).copy (streamOf s.me w).source .ldq with
            dst := some id, addr2 := BitVec.ofNat 64 (streamOf s.me w).consumed }) := by
  rw [execTldw, enterWindow_issues h]
  rfl

/-- Settles O26: each of the five enters the window (`enterWindow_issues`), passes or fails its checks, and where Rename finds room
(`renamedBind_ok`) is in flight (`launchFlight_inFlight`, `issueLoad_inFlight`). -/
theorem tileLoadsIssue : Obligations.TileLoadsIssue := by
  unfold Obligations.TileLoadsIssue
  intro s hs
  obtain ⟨-, -, hmode, hdefer⟩ := id hs
  refine ⟨?plain, ?gathers, ?stream⟩
  case plain =>
    intro f g a ops tables fl taken
    have hld : exec (.tld f) s = .next (loadTile s (.tld f) f fun s => s) := enterWindow_issues hs .ldq fun s => loadTile s (.tld f) f fun s => s
    have hldff : exec (.tldff f) s = .next (loadTile s (.tldff f) f (addFillWait f.h)) :=
      enterWindow_issues hs .ldq fun s => loadTile s (.tldff f) f (addFillWait f.h)
    rw [hld, hldff]
    refine ⟨fun hops htables id b hr => ?_, fun t ht => ⟨by rw [loadTile_traps _ ht], by rw [loadTile_traps _ ht]⟩⟩
    have hb : b.inHandler = false := (renameFor_inHandler hr).trans hmode
    rw [loadTile_passes _ hops htables hr, loadTile_passes _ hops htables hr]
    exact ⟨congrArg _ (issueLoad_inFlight hdefer hb _),
      congrArg _ (issueLoad_inFlight (b := { b with fillWait := b.fillWait ++ [(b.nextId, f.h, true)] }) hdefer hb _)⟩
  case gathers =>
    intro f g a c tb tag
    refine ⟨fun hc id b hr => ?full, fun t ht => ⟨execTgthFull_traps hs ht, execTgth_traps hs ht⟩, fun hc hm => execTgth_stride hs hc hm,
      ?window⟩
    case full =>
      have hb : b.inHandler = false := (renameFor_inHandler hr).trans hmode
      refine (execTgthFull_passes hs hc).trans (congrArg _ ?_)
      refine (renamedBind_ok hr s _ _).trans ?_
      exact launchFlight_inFlight (b := { b with fillWait := b.fillWait ++ [(b.nextId, f.h, true)] }) hdefer hb _
    case window =>
      intro comp usable fl hc hm id b id2 b2 hr hr2
      have hb : b2.inHandler = false := (renameFor_inHandler hr2).trans ((renameFor_inHandler hr).trans hmode)
      have hfl : windowGather s f = fl := by
        rw [windowGather, oldVersion_eq]
        rfl
      refine (execTgth_passes hs hc hm).trans (congrArg _ ?_)
      rw [hfl]
      refine (renamedBind_ok hr s _ _).trans ?_
      refine (renamedBind_ok hr2 _ _ _).trans ?_
      exact launchFlight_inFlight (b := { b2 with fillWait := b2.fillWait ++ [(b2.nextId, f.h, true)] }) hdefer hb _
  case stream =>
    intro t w x a ops tables
    rw [show exec (.tldw t w) s = _ from execTldw_eq hs t w]
    have hcheck : checkStream s x = firstOf [if x.consumed = x.count.toNat then some { cause := .bound, tval := x.count.setWidth 64 } else none,
      ops, tables] := rfl
    refine ⟨fun hend => ?_, fun c hne hc => ?_, fun hne hops htables id b hr => ?_⟩
    · rw [hcheck, if_pos hend, firstOf_some_cons, checked_some]
    · rw [hcheck, if_neg hne, firstOf_none_cons, firstOf_two hc, checked_some]
    · have hb : b.inHandler = false := (renameFor_inHandler hr).trans hmode
      rw [hcheck, if_neg hne, hops, htables, firstOf_none_cons, firstOf_none_cons, firstOf_none_cons, firstOf_nil, checked_none,
        renamedBind_ok hr]
      exact congrArg _ (issueLoad_inFlight (b := setStream b w { x with consumed := x.consumed + 1 }) hdefer hb _)

end Sys2Proof.Proofs

/-!
PROOFS. Stores, codebook tables and copies issue (the statement TileStoresIssue, R127, R134, R140 to R147).
-/
namespace Sys2Proof.Proofs

open Sys2Proof Sys2Proof.Machine Sys2Proof.Laws
open Host (Outcome)

/-! ## An issue that writes no tile -/

/-- An instruction that allocates no version is in flight where its checks pass, and else takes its trap. -/
theorem checkedLaunch_issues {s : State} (h : issuesTile s) (insn : Word) (fl : State → Flight) :
    checked s insn none (fun u => launchFlight u (fl u)) = inFlight s s.me (fl s) := by
  obtain ⟨-, -, hmode, hdefer⟩ := h
  exact launchFlight_inFlight hdefer hmode (fl s)

section Stores
variable {s : State} (h : issuesTile s)
include h

theorem execTst_eq (f : TmF) : execTst f s = .next (checked s (wordOf (.tst f))
    (firstOf [checkOperands (shapeOf s.me f.h) f.h.toNat (tmAddr s f.s f.off).toNat f.pc.toNat (f.pm == .guarded) true
      (shapeOf s.me f.h).type true, tileMatches s.me f.t (shapeOf s.me f.h) f.h])
    fun u => launchFlight u { flight (.tst f) (tmAddr s f.s f.off) (shapeOf s.me f.h) f.h .stq with
      ta := curId u.me f.t, tag := tagOf f.te f.tag }) := by
  rw [execTst, enterWindow_issues h]

theorem execTopt_eq (f : TmF) : execTopt f s = .next (checked s (wordOf (.topt f))
    (checkTopt s.me f (shapeOf s.me f.h) (tmAddr s f.s f.off))
    fun u => launchFlight u { flight (.topt f) (tmAddr s f.s f.off) (shapeOf s.me f.h) f.h .stq with
      ta := curId u.me f.t, tag := tagOf f.te f.tag }) := by
  rw [execTopt, enterWindow_issues h]

theorem execTsct_eq (f : TmIdxF) : execTsct f s = .next (checked s (wordOf (.tsct f))
    (firstOf [checkIndexed s.me f (shapeOf s.me f.h) (tmAddr s f.s f.off) true, tileMatches s.me f.t (shapeOf s.me f.h) f.h])
    fun u => launchFlight u { flight (.tsct f) (tmAddr s f.s f.off) (shapeOf s.me f.h) f.h .stq with
      ta := curId u.me f.t, tb := curId u.me f.t2, tag := tagOf f.te f.tag }) := by
  rw [execTsct, enterWindow_issues h]

end Stores

/-! ## TCB (R140, R141) -/

/-- The ring is claimed for the oldest TCB whose tables are in it. -/
theorem claimRing_eq (s : State) :
    claimRing s = { s with me := { s.me with cbClaim := s.me.cbClaim.or ((ringTables s).head?.map CbTable.tcb) } } := by
  unfold claimRing
  split
  · next h => rw [h, Option.some_or, ← h]
  · next h => rw [h, Option.none_or, ringTables, List.head?_filter]

/-- The tables of a TCB that issues. -/
def newTables (s : State) (n : Nat) : List CbTable := List.replicate n ⟨s.me.slot, s.me.nextId, none, false, none⟩

/-- The block of a TCB that issues: the ring is claimed unless the other block of the core holds it (R141). -/
def claiming (s : State) (n : Nat) : Block :=
  { s.me with cbClaim :=
      if ringTaken s then s.me.cbClaim else s.me.cbClaim.or (((ringTables s ++ newTables s n).head?).map CbTable.tcb) }

theorem ringTables_append_new (s : State) (n : Nat) :
    ringTables { s with cbs := s.cbs ++ newTables s n } = ringTables s ++ newTables s n := by
  have hnew : (newTables s n).filter (fun t => t.slot == s.me.slot) = newTables s n := by
    rw [List.filter_eq_self]
    intro t ht
    rw [(List.mem_replicate.1 ht).2]
    exact beq_self_eq_true _
  rw [ringTables, List.filter_append, hnew, ringTables]

theorem claimed_eq (s : State) (n : Nat) :
    (if ringTaken s then { s with cbs := s.cbs ++ newTables s n } else claimRing { s with cbs := s.cbs ++ newTables s n }) =
      { s with cbs := s.cbs ++ newTables s n, me := claiming s n } := by
  rw [claiming]
  split
  · rfl
  · rw [claimRing_eq, ringTables_append_new]

/-- A TCB that issues, but for its claim. -/
def tableFlight (s : State) (f : TcbF) : Flight := { flight (.tcb f) (getS s f.sa) {} 0 .cpq with tag := tagOf f.te f.tag }

/-- The slots of the ring that are free, and those that loads already issued will free. -/
def ringRoom (s : State) : Nat := 4 - (ringTables s).length + ((ringTables s).filter fun t => t.by_.isSome).length

section Tcb
variable {s : State} {f : TcbF} (h : issuesTile s)
include h

theorem execTcb_misaligned (ha : (getS s f.sa).toNat % 16 ≠ 0) :
    execTcb f s = .next (seqTrap s (wordOf (.tcb f)) { cause := .strideAlign, tval := getS s f.sa }) := by
  rw [execTcb, enterWindow_issues h]
  dsimp only
  rw [if_pos ha]
  rfl

variable (ha : (getS s f.sa).toNat % 16 = 0)
include ha

theorem execTcb_tooMany (hn : ringRoom s < f.n.toNat) :
    execTcb f s = .next (seqTrap s (wordOf (.tcb f)) { cause := .type, tval := BitVec.ofNat 64 f.n.toNat }) := by
  rw [ringRoom] at hn
  rw [execTcb, enterWindow_issues h]
  dsimp only
  rw [if_neg (not_not_intro ha), if_pos hn]
  rfl

theorem execTcb_waits (hn : f.n.toNat ≤ ringRoom s) (hfull : 4 - (ringTables s).length < f.n.toNat) : execTcb f s = .next s := by
  rw [ringRoom] at hn
  rw [execTcb, enterWindow_issues h]
  dsimp only
  rw [if_neg (not_not_intro ha), if_neg (Nat.not_lt.2 hn), firstOf_none_cons, firstOf_none_cons, firstOf_nil, checked_none, if_pos hfull]

theorem execTcb_issues (hn : f.n.toNat + (ringTables s).length ≤ 4) :
    execTcb f s = .next (inFlight { s with cbs := s.cbs ++ newTables s f.n.toNat } (claiming s f.n.toNat) (tableFlight s f)) := by
  have hroom : ¬4 - (ringTables s).length + ((ringTables s).filter fun t => t.by_.isSome).length < f.n.toNat := by omega
  have hfree : ¬4 - (ringTables s).length < f.n.toNat := by omega
  obtain ⟨-, -, hmode, hdefer⟩ := id h
  rw [execTcb, enterWindow_issues h]
  dsimp only
  rw [if_neg (not_not_intro ha), if_neg hroom, firstOf_none_cons, firstOf_none_cons, firstOf_nil, checked_none, if_neg hfree]
  refine (congrArg (fun u => Outcome.next (launchFlight u (tableFlight s f))) (claimed_eq s f.n.toNat)).trans (congrArg _ ?_)
  exact launchFlight_inFlight (s := { s with cbs := s.cbs ++ newTables s f.n.toNat }) (b := claiming s f.n.toNat) hdefer hmode _

end Tcb

/-! ## BCOPY (R147) -/

section Bcopy
variable {s : State} {f : BcopyF} (h : issuesTile s)
include h

theorem execBcopy_issues (hc : copiesInFlight s < 256) (hlen : f.len ≠ 0) :
    execBcopy f s = .next (inFlight s s.me { flight (.bcopy f) (getS s f.sa) {} 0 .cpq with addr2 := getS s f.sb, tag := tagOf f.te f.tag }) := by
  obtain ⟨-, -, hmode, hdefer⟩ := id h
  rw [execBcopy, enterWindow_issues h]
  dsimp only
  rw [if_neg hlen, if_neg (Nat.not_le.2 hc)]
  exact congrArg _ (launchFlight_inFlight hdefer hmode _)

/-- A copy of no bytes completes as it issues. -/
theorem execBcopy_empty (hlen : f.len = 0) :
    execBcopy f s = .next (advance { s with me := if f.te then tagAtOnce s.me f.tag else s.me }) := by
  rw [execBcopy, enterWindow_issues h, if_pos hlen]

end Bcopy

/-- Settles O27: TST, TSCT and TOPT by the equation of each, TCB by the room in the ring, BCOPY by its length. -/
theorem tileStoresIssue : Obligations.TileStoresIssue := by
  unfold Obligations.TileStoresIssue
  intro s hs
  refine ⟨?stores, ?scatter, ?tables, ?copy⟩
  case stores =>
    intro f g a tag ops
    rw [show exec (.tst f) s = _ from execTst_eq hs f, show exec (.topt f) s = _ from execTopt_eq hs f]
    refine ⟨fun hops htile => ?_, fun t hops => ?_, fun t hops htile => ?_, fun hc => ?_, fun t hc => ?_⟩
    · rw [firstOf_pass hops htile]
      exact congrArg _ (checkedLaunch_issues hs _ _)
    · rw [firstOf_two (.inl hops), checked_some]
    · rw [firstOf_two (.inr ⟨hops, htile⟩), checked_some]
    · rw [hc]
      exact congrArg _ (checkedLaunch_issues hs _ _)
    · rw [hc, checked_some]
  case scatter =>
    intro f g a
    rw [show exec (.tsct f) s = _ from execTsct_eq hs f]
    refine ⟨fun hops htile => ?_, fun t hops => ?_, fun t hops htile => ?_⟩
    · rw [firstOf_pass hops htile]
      exact congrArg _ (checkedLaunch_issues hs _ _)
    · rw [firstOf_two (.inl hops), checked_some]
    · rw [firstOf_two (.inr ⟨hops, htile⟩), checked_some]
  case tables =>
    intro f a l new all
    refine ⟨fun ha hn => execTcb_issues hs ha hn, fun ha => execTcb_misaligned hs ha, ?_⟩
    intro room ha
    refine ⟨fun hn => execTcb_tooMany hs ha hn, fun hn hfull hl => execTcb_waits hs ha hn ?_⟩
    have hfull' : 4 < f.n.toNat + (ringTables s).length := hfull
    omega
  case copy =>
    intro f hc
    refine ⟨fun hlen => execBcopy_issues hs hc hlen, fun hlen hte => ?_, fun hlen hte htag => ?_⟩
    · refine (execBcopy_empty hs hlen).trans ?_
      rw [hte]
      rfl
    · refine (execBcopy_empty hs hlen).trans ?_
      rw [hte, if_pos rfl, tagAtOnce]
      dsimp only
      rw [if_pos htag]

end Sys2Proof.Proofs

/-!
PROOFS. Bindings and fences (the statement BindUnbindFence, R245, R246): the status of a BIND, the word that an UNBIND reads at its home
slice, and what an acquire point leaves of the copies.
-/
namespace Sys2Proof.Proofs

open Sys2Proof Sys2Proof.Machine Sys2Proof.Laws
open Host (Outcome)

/-! ## Registers and contexts -/

/-- What a register write leaves of a block depends on that block alone. -/
theorem setS_me_congr {s t : State} (h : t.me = s.me) (r : BitVec 6) (v : Word) : (setS t r v).me = (setS s r v).me := by
  simp only [setS, h]
  split
  · exact h
  · split <;> rfl

theorem getCtx_writeBack (s : State) (r : BitVec 6) (v : Word) (c : BitVec 6) : getCtx (writeBack s r v) c = getCtx s c :=
  getCtx_of_contexts (setS_contexts s r v) c

/-- A register write after a change of one context's bindings. -/
theorem writeBack_modCtx {s u : State} {c : BitVec 6} {m : Context → Context} (hme : u.me = s.me) (hctx : u.contexts = (modCtx s c m).contexts)
    (hmem : u.mem = s.mem) (hothers : u.others = s.others) (r : BitVec 6) (v : Word) :
    (writeBack u r v).me = (advance (setS s r v)).me ∧ getCtx (writeBack u r v) c = m (getCtx s c) ∧
      (∀ d, d ≠ c → getCtx (writeBack u r v) d = getCtx s d) ∧ (writeBack u r v).mem = s.mem ∧ (writeBack u r v).others = s.others := by
  refine ⟨congrArg Block.advance (setS_me_congr hme r v), ?_, fun d hd => ?_, ?_, ?_⟩
  · rw [getCtx_writeBack, getCtx_of_contexts hctx, modCtx, getCtx_setCtx_same]
  · rw [getCtx_writeBack, getCtx_of_contexts hctx, modCtx, getCtx_setCtx_other _ _ _ _ hd]
  · rw [writeBack, advance_mem, setS_mem, hmem]
  · rw [writeBack, advance_others, setS_others, hothers]

/-! ## BIND (R245) -/

/-- An object or a region that is misaligned or goes beyond 2^48. -/
def Misplaced (x : Binding) : Prop := x.object.toNat % 16 ≠ 0 ∨ x.base.toNat % 64 ≠ 0 ∨ 2 ^ 48 < x.base.toNat + 64 * x.length

theorem meets_iff (x y : Binding) : x.meets y = true ↔
    x.base.toNat < y.base.toNat + 64 * y.length ∧ y.base.toNat < x.base.toNat + 64 * x.length := by
  simp [Binding.meets]

section Status
variable {l : List Binding} {x : Binding}

theorem bindStatus_misplaced (h : Misplaced x) : bindStatus l x = 3 := if_pos h

variable (h : ¬Misplaced x)
include h

theorem bindStatus_placed : bindStatus l x =
    if l.contains x then 0 else if l.any fun y => x.meets y then 1 else if 256 ≤ l.length then 2 else 0 := if_neg h

theorem bindStatus_exists (hx : x ∈ l) : bindStatus l x = 0 := by
  rw [bindStatus_placed h, if_pos (List.contains_iff_mem.2 hx)]

theorem bindStatus_meets (hx : x ∉ l) (hm : ∃ y ∈ l, x.meets y = true) : bindStatus l x = 1 := by
  rw [bindStatus_placed h, if_neg (fun e => hx (List.contains_iff_mem.1 e)), if_pos (List.any_eq_true.2 hm)]

theorem bindStatus_apart (hx : x ∉ l) (hm : ∀ y ∈ l, x.meets y ≠ true) : bindStatus l x = if 256 ≤ l.length then 2 else 0 := by
  have hany : ¬(l.any fun y => x.meets y) = true := fun e => by
    obtain ⟨y, hy, hxy⟩ := List.any_eq_true.1 e
    exact hm y hy hxy
  rw [bindStatus_placed h, if_neg (fun e => hx (List.contains_iff_mem.1 e)), if_neg hany]

end Status

/-- The binding that a BIND asks for. -/
def bindingOf (s : State) (f : BindF) : Binding := ⟨getS s f.sa, getS s f.sb, f.len.toNat⟩

/-- A context with one more binding. -/
def addBinding (x : Binding) (c : Context) : Context := { c with bindings := c.bindings ++ [x] }

/-- A context without the bindings of an object. -/
def dropBindings (va : Word) (c : Context) : Context := { c with bindings := c.bindings.filter fun r => r.object != va }

/-- A BIND that adds nothing writes its status. -/
theorem execBind_status {s : State} {f : BindF} {n : Nat} (h : bindStatus (getCtx s s.me.ctx).bindings (bindingOf s f) = n)
    (hn : n ≠ 0 ∨ bindingOf s f ∈ (getCtx s s.me.ctx).bindings) : execBind f s = .next (advance (setS s f.sd (BitVec.ofNat 64 n))) := by
  have hnot : ¬(n = 0 ∧ (!(getCtx s s.me.ctx).bindings.contains (bindingOf s f)) = true) := by
    rcases hn with hn | hn
    · exact fun e => hn e.1
    · exact fun e => by simp [hn] at e
  rw [← h] at hnot ⊢
  exact congrArg (fun u => Outcome.next (writeBack u f.sd _)) (if_neg hnot)

/-- A BIND that succeeds adds its binding and writes 0. -/
theorem execBind_adds {s : State} {f : BindF} (h : bindStatus (getCtx s s.me.ctx).bindings (bindingOf s f) = 0)
    (hn : bindingOf s f ∉ (getCtx s s.me.ctx).bindings) :
    execBind f s = .next (writeBack (bindLines (modCtx s s.me.ctx (addBinding (bindingOf s f))) s.me.ctx (bindingOf s f)) f.sd 0) := by
  have hcond : bindStatus (getCtx s s.me.ctx).bindings (bindingOf s f) = 0 ∧
      (!(getCtx s s.me.ctx).bindings.contains (bindingOf s f)) = true := ⟨h, by simp [hn]⟩
  refine (congrArg (fun u => Outcome.next (writeBack u f.sd _)) (if_pos hcond)).trans ?_
  rw [show bindStatus (getCtx s s.me.ctx).bindings (⟨getS s f.sa, getS s f.sb, f.len.toNat⟩ : Binding) = 0 from h]
  rfl

/-! ## UNBIND (R245) -/

theorem execUnbind_misaligned {s : State} {sd sa : BitVec 6} (h : (getS s sa).toNat % 16 ≠ 0) :
    execUnbind sd sa s = .next (writeBack s sd 3) := if_pos h

theorem any_object_iff (l : List Binding) (va : Word) : (l.any fun r => r.object == va) = true ↔ ∃ r ∈ l, r.object = va := by
  simp

theorem execUnbind_none {s : State} {sd sa : BitVec 6} (ha : (getS s sa).toNat % 16 = 0)
    (h : ∀ r ∈ (getCtx s s.me.ctx).bindings, r.object ≠ getS s sa) : execUnbind sd sa s = .next (writeBack s sd 5) := by
  have hany : ((getCtx s s.me.ctx).bindings.any fun r => r.object == getS s sa) = false := by
    rw [← Bool.not_eq_true, any_object_iff]
    exact fun ⟨r, hr, e⟩ => h r hr e
  rw [execUnbind]
  rw [if_neg (not_not_intro ha), hany]
  rfl

/-- A word in device memory that nothing holds back is read at its home slice: the copies of its line go. -/
theorem wordAccess_reads {s s1 : State} {va : Word} {t : TlbEntry} (hquiet : acquirePending s.me = false)
    (hfound : translate s (some (slotCore s.me.slot)) s.me.ctx va.toNat .read .scalar = (.ok t, s1))
    (hheld : lineHeld s1 (some s1.me.slot) (t.pa va.toNat) 16 = false) (hmet : postedMeets s1.me (t.pa va.toNat) 16 = false)
    (hsound : poisonedAt s1 (t.pa va.toNat) 16 = false) (hnear : regionOf (t.pa va.toNat) = .hbm) (insn : Word)
    (k : Nat → State → State) :
    wordAccess s insn va 16 .read true id k = k (t.pa va.toNat) (dropLineCopies s1 (t.pa va.toNat)) := by
  simp [wordAccess, seqAddr, hquiet, hfound, hheld, hmet, hsound, hnear, readFar, farPieces, dropLineCopies, dropCache]

/-- What an UNBIND does with its object's word. -/
def unbound (sd : BitVec 6) (va : Word) (pa : Nat) (s : State) : State :=
  if (objRead s pa).mode ≠ 0 then writeBack s sd 4
  else writeBack (modCtx s s.me.ctx (dropBindings va)) sd 0

theorem execUnbind_reads {s : State} {sd sa : BitVec 6} (ha : (getS s sa).toNat % 16 = 0)
    (h : ∃ r ∈ (getCtx s s.me.ctx).bindings, r.object = getS s sa) :
    execUnbind sd sa s = .next (wordAccess s (wordOf (.unbind sd sa)) (getS s sa) 16 .read true id (unbound sd (getS s sa))) := by
  rw [execUnbind]
  rw [if_neg (not_not_intro ha), (any_object_iff _ _).2 h]
  rfl

/-! ## FENCE (R246) -/

theorem keptCopy_me (s : State) (line : Nat) (unbound : Bool) :
    keptCopy s s.me.slot line unbound = (!unbound && boundLine s s.me.ctx line) := by
  rw [keptCopy, getBlock_me, Option.any_some]

/-- An acquire point changes its block's prefetched tiles and the copies that its scope names. -/
theorem acquireAt_eq (s : State) (sc : Scope) :
    acquireAt s s.me.slot sc = { s with
      me := dropPrefetch s.me
      cache := if sc = .block then s.cache else
        s.cache.filter fun c => !(c.core == slotCore s.me.slot) || (!c.unbound && boundLine s s.me.ctx c.line)
      guests := if sc = .device ∨ sc = .system then
        s.guests.filter fun g => !(g.die == slotDie s.me.slot) || (!g.unbound && boundLine s s.me.ctx g.line) else s.guests } := by
  simp only [acquireAt, modBlock_me, keptCopy_me]
  cases sc <;> rfl

theorem acquireAt_block_copies (s : State) :
    (acquireAt s s.me.slot .block).cache = s.cache ∧ (acquireAt s s.me.slot .block).guests = s.guests := by
  rw [acquireAt_eq]
  exact ⟨rfl, rfl⟩

theorem mem_acquireAt_cache {s : State} {sc : Scope} (h : sc ≠ .block) (c : CacheLine) : c ∈ (acquireAt s s.me.slot sc).cache ↔
    c ∈ s.cache ∧ (c.core ≠ slotCore s.me.slot ∨ (boundLine s s.me.ctx c.line = true ∧ c.unbound = false)) := by
  rw [acquireAt_eq]
  dsimp only
  rw [if_neg h, List.mem_filter]
  simp [and_comm]

theorem mem_acquireAt_guests {s : State} {sc : Scope} (h : sc = .device ∨ sc = .system) (g : GuestCopy) :
    g ∈ (acquireAt s s.me.slot sc).guests ↔
      g ∈ s.guests ∧ (g.die ≠ slotDie s.me.slot ∨ (boundLine s s.me.ctx g.line = true ∧ g.unbound = false)) := by
  rw [acquireAt_eq]
  dsimp only
  rw [if_pos h, List.mem_filter]
  simp [and_comm]

theorem acquireAt_me (s : State) (sc : Scope) : (acquireAt s s.me.slot sc).me = dropPrefetch s.me := by rw [acquireAt_eq]

theorem acquireAt_others (s : State) (sc : Scope) : (acquireAt s s.me.slot sc).others = s.others := by rw [acquireAt_eq]

theorem dropPrefetch_none (b : Block) : ∀ w ∈ (dropPrefetch b).streams.toList, w.prefetched = [] := by
  intro w hw
  simp only [dropPrefetch, Vector.toList_map, List.mem_map] at hw
  obtain ⟨x, -, rfl⟩ := hw
  rfl

theorem execFence_eq (s : State) (sc : Scope) :
    execFence sc s = if releaseDone s s.me sc then .next (advance (acquireAt s s.me.slot sc)) else .next s := by
  unfold execFence
  cases releaseDone s s.me sc <;> rfl

/-- Settles O40: BIND by its status, UNBIND by the word that it reads (`wordAccess_reads`), FENCE by `acquireAt_eq`. -/
theorem bindUnbindFence : Obligations.BindUnbindFence := by
  unfold Obligations.BindUnbindFence
  intro s
  refine ⟨?bind, ?unbind, ?fence⟩
  case bind =>
    intro f x l meets bad gives
    have hmeets : ∀ y, x.meets y = true ↔ meets y := fun y => meets_iff x y
    refine ⟨fun h => ?_, fun h hx => ?_, fun h hx hm => ?_, fun h hx hm hlen => ?_, fun h hx hm hlen => ?_⟩
    · exact execBind_status (bindStatus_misplaced h) (.inl (by decide))
    · exact execBind_status (bindStatus_exists h hx) (.inr hx)
    · refine execBind_status (bindStatus_meets h hx ?_) (.inl (by decide))
      obtain ⟨y, hy, hxy⟩ := hm
      exact ⟨y, hy, (hmeets y).2 hxy⟩
    · refine execBind_status ((bindStatus_apart h hx fun y hy => ?_).trans (if_pos hlen)) (.inl (by decide))
      exact fun e => hm y hy ((hmeets y).1 e)
    · have hst := (bindStatus_apart h hx fun y hy e => hm y hy ((hmeets y).1 e)).trans (if_neg (Nat.not_le.2 hlen))
      obtain ⟨hme, hctx, hother, hmem, hothers⟩ := writeBack_modCtx (s := s) (m := addBinding x) (c := s.me.ctx)
        (u := bindLines (modCtx s s.me.ctx (addBinding x)) s.me.ctx x) rfl rfl rfl rfl f.sd 0
      exact ⟨_, execBind_adds hst hx, hme, congrArg Context.bindings hctx, hother, hmem, hothers⟩
  case unbind =>
    intro sd sa va l
    refine ⟨fun ha => execUnbind_misaligned ha, fun ha hl => execUnbind_none ha hl, ?_⟩
    intro t s1 ha hl hquiet hfound hme hheld hmet hsound hnear line
    have hrun : exec (.unbind sd sa) s = .next (unbound sd va (t.pa va.toNat) (dropLineCopies s1 (t.pa va.toNat))) := by
      refine (execUnbind_reads ha hl).trans (congrArg _ ?_)
      exact wordAccess_reads hquiet hfound hheld (by rw [hme]; exact hmet) hsound hnear _ _
    have hword : objRead (dropLineCopies s1 (t.pa va.toNat)) (t.pa va.toNat) = objRead s1 (t.pa va.toNat) := objRead_of_mem rfl _
    rw [hrun, unbound, hword]
    refine ⟨fun hmode => ?_, fun hmode => ?_⟩
    · rw [if_pos hmode, dropLineCopies, hme]
      rfl
    · rw [if_neg (not_not_intro hmode), dropLineCopies_me, hme]
      obtain ⟨hme2, hctx, hother, hmem, hothers⟩ := writeBack_modCtx (s := s1) (m := dropBindings va) (c := s.me.ctx)
        (u := modCtx (dropLineCopies s1 (t.pa va.toNat)) s.me.ctx (dropBindings va)) rfl rfl rfl rfl sd 0
      exact ⟨_, rfl, hme2, congrArg Context.bindings hctx, hother, hmem, hothers⟩
  case fence =>
    intro sc
    rw [show exec (.fence sc) s = _ from execFence_eq s sc]
    refine ⟨fun h => by rw [h]; rfl, fun h => ?_⟩
    rw [if_pos h]
    refine ⟨_, rfl, ?_⟩
    simp only [advance_me, advance_mem, advance_others, advance_cache, advance_guests, advanceBlock_pc, advanceBlock_sregs,
      advanceBlock_streams, acquireAt_me, acquireAt_mem, acquireAt_others]
    refine ⟨rfl, rfl, trivial, trivial, dropPrefetch_none s.me, fun hsc => ?_, fun hsc => mem_acquireAt_cache hsc,
      fun hsc => mem_acquireAt_guests hsc⟩
    rw [hsc]
    exact acquireAt_block_copies s

end Sys2Proof.Proofs

/-!
PROOFS. Loads and stores of plain operands as they perform (the statements StoreWritesItsBytes and LoadFillsElements, R114, R127, R135):
the bytes of an element that lie in one piece, a store of one element, and a run over all elements of a load.
-/
namespace Sys2Proof.Proofs

open Sys2Proof Sys2Proof.Machine Sys2Proof.Laws

/-! ## Accesses of plain elements -/

/-- Of the instruction that translates only the translations that it holds count. -/
theorem accessPages_pins {f g : Flight} (h : f.pins = g.pins) (s : State) (b : Block) (rs : List (Nat × Nat)) (kind : AccKind) (eng : Eng) :
    accessPages s b rs kind eng (some f) = accessPages s b rs kind eng (some g) := by
  induction rs generalizing s with
  | nil => rfl
  | cons r rest ih => simp only [accessPages, h, ih]

/-- The one range of an element of a plain operand. -/
theorem ranges_plain {l : Layout} (h : plainType l.mt) (n e : Nat) : l.ranges n e = [(l.addr e, typeBits l.mt / 8)] := by
  obtain ⟨hcb, hmask, hlp⟩ := h.unpacked
  rw [Layout.ranges, if_neg hcb, if_neg hmask, if_neg hlp]

theorem unitFirst_plain {l : Layout} (h : plainType l.mt) (e : Nat) : l.unitFirst e = e := by
  obtain ⟨hcb, -, hlp⟩ := h.unpacked
  rw [Layout.unitFirst, if_neg hcb, decide_eq_false hlp, Bool.false_and]
  rfl

/-- A plain memory type packs no two elements into a byte or a table. -/
theorem isPacked_plain {t : BitVec 5} (h : plainType t) : isPacked t = false := by
  obtain ⟨hcb, hmask, hlp⟩ := h.unpacked
  rw [isPacked, beq_eq_false_iff_ne.2 hcb, beq_eq_false_iff_ne.2 hmask, beq_eq_false_iff_ne.2 hlp]
  rfl

theorem late_plain {l : Layout} (h : plainType l.mt) (e : Nat) : l.late e = false := by
  obtain ⟨hcb, -, -⟩ := h.unpacked
  rw [Layout.late, beq_eq_false_iff_ne.2 hcb, Bool.false_and]

theorem boundOf_within {l : Layout} {e : Nat} (h : l.outOfBounds e = false) : boundOf l e = none := by
  rw [boundOf, if_neg (by rw [h]; decide)]

/-- The elements of a plain type are whole bytes. -/
theorem plainType.typeBits_eq {t : BitVec 5} (h : plainType t) : typeBits t = 8 * (typeBits t / 8) ∧ 0 < typeBits t / 8 ∧ typeBits t ≤ 32 := by
  simp only [plainType, List.mem_cons, List.not_mem_nil, or_false] at h
  rcases h with h | h | h | h | h | h | h | h | h <;> simp [typeBits, h]

/-- A byte of a piece that covers the range. -/
theorem viaSegs_piece {g : Seg} {va n i : Nat} (hva : g.va = va) (hlen : g.len = n) (hi : i < n) (hfit : va + n ≤ 2 ^ 64) :
    viaSegs [g] ((va + i) % 2 ^ 64) = some (g.pa + i, g.cp) := by
  rw [Nat.mod_eq_of_lt (by omega), viaSegs, if_pos (by omega)]
  congr 2
  omega

/-- An operand that is not layered has no plane table. -/
theorem withLayout_plain {s : State} {f : Flight} (h : plainType f.shape.memType) (k : State → Flight → Layout → State) :
    withLayout s f k = k s { f with planes := some [] } (layoutOf s.me f []) := by
  rw [withLayout, fetchPlanes, if_neg h.unpacked.2.2]

theorem badElems_unpoisoned {b : Block} (h : ∀ v ∈ b.versions, v.poison = []) (f : Flight) : badElems b f = [] := by
  simp [badElems, badOf, poisonOf_unpoisoned h]

/-- A conversion of a type to itself is the pattern, as far as its bytes hold it. -/
theorem convPat_same {t : BitVec 5} (h : plainType t) (x : Nat) : convPat t t x % 2 ^ (8 * (typeBits t / 8)) = x % 2 ^ (8 * (typeBits t / 8)) := by
  rw [convPat, if_pos rfl, ← h.typeBits_eq.1, Nat.mod_mod]

/-! ## A store of one element (R127, R134) -/

/-- An element of a store that nothing stops has the effect of its access, which goes out. -/
theorem performElem_writes {o : ElemOps} {f : Flight} {p : Perf} {e : Nat} {t u : State} {segs : List Seg} {v : Option Nat}
    (hgoing : p.stopped = []) (hfresh : performedAt f.lgs p.elg e = false) (hskips : f.skips.contains e = false) (hlate : o.late e = false)
    (hbound : o.bound e = none) (hunit : o.unit_ e = e) (hkind : o.kind = .write) (hbad : o.bad = [])
    (hpages : accessPages p.s p.s.me (o.ranges e) .write .tile (some { f with pins := p.pins }) = (.ok segs, t))
    (hsegs : accessSegs t segs .write o.reads (some f) = (.ok segs, t)) (hact : o.act t segs e = (.ok v, u)) :
    (performElem o f p e).s = sendSegs u f segs ∧ (performElem o f p e).stopped = [] ∧ (performElem o f p e).named = p.named := by
  have hrun : (p.stopped.contains (lgOf f.lgs e) || performedAt f.lgs p.elg e) = false := by simp [hgoing, hfresh]
  simp only [performElem, hrun, hskips, hlate, hbound, hunit, hkind, hpages, hbad, hsegs, hact, List.contains_nil, ne_eq,
    not_true_eq_false, decide_false, Bool.false_and, Bool.false_eq_true, if_false]
  exact ⟨rfl, hgoing, trivial⟩

/-- The pattern of an element of a plain operand goes to its bytes. -/
theorem storeElem_plain {s : State} (who : Agent) {l : Layout} {segs : List Seg} {e pa : Nat} (hmt : plainType l.mt) (x : Nat)
    (h : ∀ i < typeBits l.mt / 8, (viaSegs segs ((l.addr e + i) % 2 ^ 64)).map Prod.fst = some (pa + i)) :
    (storeElem s who l segs e x fun _ => false).mem = memStore s.mem pa (leBytes (typeBits l.mt / 8) (convPat l.g.type l.mt x)) ∧
      (storeElem s who l segs e x fun _ => false).me = s.me := by
  obtain ⟨-, hmask, hlp⟩ := hmt.unpacked
  rw [storeElem, if_neg hmask, if_neg hlp]
  exact writeVia_stores who _ (addr_lt l e) (by rwa [leBytes_length])

section Store
variable {s s1 : State} {f : Flight} {v : Version} {sg : Seg} (hmt : plainType f.shape.memType)
  (hrows : f.shape.rows = 1) (hcols : f.shape.cols = 1) (hta : f.ta = some v.id) (hv : findVersion s.me v.id = some v)
  (hclean : ∀ x ∈ s.me.versions, x.poison = []) (hin : (layoutOf s.me f []).outOfBounds 0 = false)
  (helg : f.elg = Vector.replicate 8 0) (hskips : f.skips = []) (hstarted : f.started = false)
  (hslot : s.me.slot = s1.me.slot) (hfit : (layoutOf s.me f []).addr 0 + typeBits f.shape.memType / 8 ≤ 2 ^ 64)
  (hva : sg.va = (layoutOf s.me f []).addr 0) (hlen : sg.len = typeBits f.shape.memType / 8)
  (hheld : lineHeld s1 (some s.me.slot) sg.pa (typeBits f.shape.memType / 8) = false)
  (hpages : accessPages s s.me [((layoutOf s.me f []).addr 0, typeBits f.shape.memType / 8)] .write .tile (some f) = (.ok [sg], s1))
include hmt hrows hcols hta hv hclean hin helg hskips hstarted hslot hfit hva hlen hheld hpages

/-- A store of one element performs with its bytes written. -/
theorem runStore_one : ∃ (u : State) (g : Version → Version) (elg : Vector Nat 8) (pins : List (Nat × TlbEntry)),
    runStore s f = flightDone (setVersion u f.dst g) { f with planes := some [], elg := elg, pins := pins } ∧
      u.me.flights = s1.me.flights ∧ u.mem = memStore s1.mem sg.pa
        (leBytes (typeBits f.shape.memType / 8) (convPat f.shape.type f.shape.memType (v.elems.getD 0 0).toNat)) := by
  let l := layoutOf s.me f []
  let f1 : Flight := { f with planes := some [] }
  let o := storeOps (.block s.me.slot) l f1 (sourceElems s.me f1) (badElems s.me f1)
  have hvals : sourceElems s.me f1 = v.elems := by simp [sourceElems, f1, hta, hv]
  have hkept : keptByte l f1 0 = fun _ => false := by
    funext a
    simp [keptByte, f1, hstarted]
  obtain ⟨hmem, hme⟩ := storeElem_plain (s := s1) (.block s.me.slot) (l := l) (segs := [sg]) (e := 0) (pa := sg.pa) hmt (v.elems.getD 0 0).toNat
    fun i hi => by rw [viaSegs_piece hva hlen hi hfit]; rfl
  have hact : o.act s1 [sg] 0 = (.ok none, storeElem s1 (.block s.me.slot) l [sg] 0 (v.elems.getD 0 0).toNat fun _ => false) := by
    have hpacked : isPacked l.mt = false := isPacked_plain hmt
    simp only [o, storeOps, hpacked, Bool.false_and, Bool.false_eq_true, if_false, hvals, hkept]
  have hstop : segsStop s1 s1.me [sg] false (some f1) = none := by
    have hany : ([sg].any fun g => lineHeld s1 (some s1.me.slot) g.pa g.len) = false := by
      rw [List.any_cons, List.any_nil, Bool.or_false, ← hslot, hlen, hheld]
    simp [segsStop, hany]
  have hrange : accessPages s s.me (o.ranges 0) .write .tile (some { f1 with pins := f1.pins }) = (.ok [sg], s1) := by
    rw [show o.ranges 0 = l.ranges l.g.pcb 0 from rfl, ranges_plain hmt]
    exact (accessPages_pins (g := f) rfl s s.me _ .write .tile).trans hpages
  obtain ⟨hs, hstopped, hnamed⟩ := performElem_writes (o := o) (f := f1) (p := ⟨s, f1.elg, [], none, [], f1.pins⟩) rfl
    (by rw [show f1.elg = _ from helg]; exact performedAt_fresh _ _) (by rw [show f1.skips = [] from hskips]; rfl) rfl
    (boundOf_within hin) (unitFirst_plain hmt 0) rfl (badElems_unpoisoned hclean f1) hrange (accessSegs_write hstop) hact
  have hone : l.g.count = 1 := by
    rw [show l.g.count = f.shape.count from rfl]
    simp [ShapeRec.count, hrows, hcols]
  let p := performElem o f1 ⟨s, f1.elg, [], none, [], f1.pins⟩ 0
  refine ⟨refetch p.s ((List.range 1).flatMap fun e => l.ranges l.g.pcb e),
    fun v => { v with elems := mergeElems v.elems 0 p.data.reverse }, p.elg, p.pins, ?_, ?_, ?_⟩
  · rw [runStore, withLayout_plain hmt]
    dsimp only
    rw [show (layoutOf s.me f []).g.count = 1 from hone, performElems_one]
    exact endRun_done (p := { p with s := refetch p.s ((List.range 1).flatMap fun e => l.ranges l.g.pcb e) }) hstopped hnamed _ _
  · rw [show ∀ (u : State) rs, (refetch u rs).me.flights = u.me.flights from fun _ _ => rfl, hs, sendSegs_me, hme]
  · rw [refetch_mem, hs, sendSegs_mem, hmem]
    rfl

/-- A store of one element changes exactly its bytes. -/
theorem runStore_writes (haq : Instr.aqBit f.ins = false) (hfl : s1.me.flights = [f]) (hwf : memWf s1.mem = true) :
    (∃ h, (runStore s f).me.flights = [h] ∧ h.st = .performed) ∧
      memNat (runStore s f).mem sg.pa (typeBits f.shape.memType / 8) =
        convPat f.shape.type f.shape.memType (v.elems.getD 0 0).toNat % 2 ^ (8 * (typeBits f.shape.memType / 8)) ∧
      ∀ a, (a < sg.pa ∨ sg.pa + typeBits f.shape.memType / 8 ≤ a) → memRead (runStore s f).mem a = memRead s1.mem a := by
  obtain ⟨u, g, elg, pins, hrun, hflights, hmem⟩ := runStore_one hmt hrows hcols hta hv hclean hin helg hskips hstarted hslot hfit hva
    hlen hheld hpages
  have hmemrun : (runStore s f).mem = u.mem := by rw [hrun, flightDone_mem, setVersion_mem]
  refine ⟨?_, ?_, fun a ha => ?_⟩
  · rw [hrun]
    refine flightDone_alone (g := f) haq ?_ rfl
    rw [setVersion_flights, hflights, hfl]
  · have hsame := memBytes_store_same hwf sg.pa
      (leBytes (typeBits f.shape.memType / 8) (convPat f.shape.type f.shape.memType (v.elems.getD 0 0).toNat))
    rw [leBytes_length] at hsame
    rw [hmemrun, hmem, memNat, hsame, leNat_leBytes, Nat.pow_mul]
  · rw [hmemrun, hmem]
    exact memRead_store_other hwf _ _ _ (by rwa [leBytes_length])

end Store

/-- Settles O29: the store of one element by `runStore_writes`. -/
theorem storeWritesItsBytes : Obligations.StoreWritesItsBytes := by
  unfold Obligations.StoreWritesItsBytes
  intro s s1 f v sg l mt n pa x hins haq _ hta hv hclean hrows hcols hmt hin helg hskips hstarted _ _ hslot hfit hwf hfl _ _ hva hlen hheld
    hpages
  have hrun : performFlight s f = runStore s f := by
    rcases hins with ⟨g, hg⟩ | ⟨g, hg⟩ <;> simp only [performFlight, hg]
  obtain ⟨hdone, hbytes, hother⟩ := runStore_writes hmt hrows hcols hta hv hclean hin helg hskips hstarted hslot hfit hva hlen hheld hpages
    haq hfl hwf
  rw [hrun]
  refine ⟨hdone, ?_, hother⟩
  rw [hbytes]
  split
  · next hfmt =>
    have htype : f.shape.type = f.shape.memType := (memType_of_fmt_zero hfmt).symm
    rw [htype]
    exact convPat_same hmt x
  · rfl

end Sys2Proof.Proofs

/-!
PROOFS. The refutation of TamoOneElement: its hypotheses leave the poison of the index tile open, and an index with poison stops the element
before its access (R375), so that the instruction does not perform.
-/
namespace Sys2Proof.Proofs

open Sys2Proof Sys2Proof.Machine

/-! ## An atomic with a poisoned index (R375) -/

def amoShape : ShapeRec := { rows := 1, cols := 1, type := 5, store := 2, limit := 64 }

/-- A translation of the page at 0x4000 to itself, accessed and dirty. -/
def amoPage : TlbEntry :=
  { home := .core 0, ctx := 0, size := 0, vpage := 4, frame := 4, w := true, ns := false, ul := false, cp := 1, x := false, a := true,
    d := true, stride := false, entry := 0 }

def amoPiece : Seg := ⟨0x4000, 0x4000, 4, 1, false, false, false, amoPage⟩

def amoFields : TmAmoF := ⟨1, 1, 4, 0, false, false, .block, 5, 0⟩

def amoVersion (id : Nat) : Version := { id := id, name := BitVec.ofNat 5 id, geom := amoShape, elems := [0], done := true }

/-- The index tile: one zero index, poisoned. -/
def poisonedIndex : Version := { amoVersion 2 with poison := [0] }

def amoFlight : Flight :=
  { flight (.tamoAdd amoFields) 0x4000 amoShape 1 .opq with ta := some 1, tb := some 2, dst := some 3, lgs := [0] }

/-- A running block with that one instruction in flight, its page held, in an active context. -/
def poisonedAmo : State :=
  { State.reset with
    me := { Block.empty 0 with
      st := .running, region := .exposed, flights := [amoFlight], versions := [amoVersion 1, poisonedIndex, amoVersion 3] }
    tlb := [amoPage], contexts := [(0, { st := .active })] }

/-- The poison stops the one lane group: the instruction still waits after its turn. -/
theorem performFlight_poisonedAmo : (performFlight poisonedAmo amoFlight).me.flights.map Flight.st = [.waiting] := by decide

/-- The access itself translates to one piece of device memory. -/
theorem accessPages_poisonedAmo :
    accessPages poisonedAmo poisonedAmo.me [(0x4000, 4)] .atomic .tile (some amoFlight) = (.ok [amoPiece], poisonedAmo) := rfl

/-- Refutes O38: with element 0 of the index tile poisoned, every hypothesis holds, and the TAMO is still waiting after its turn. -/
theorem not_tamoOneElement : ¬ Obligations.TamoOneElement := by
  unfold Obligations.TamoOneElement
  intro h
  obtain ⟨⟨g, hflights, hst⟩, -⟩ := h poisonedAmo poisonedAmo amoFlight amoFields (amoVersion 1) (amoVersion 3) poisonedIndex amoPiece
    rfl rfl rfl rfl rfl rfl (by decide) (by decide) (by decide) rfl rfl rfl rfl rfl (by decide) rfl rfl rfl rfl rfl (by decide) rfl rfl rfl
    rfl rfl rfl (by decide) accessPages_poisonedAmo (fun _ => rfl) (by decide) (.tamoAdd amoFields, 0) (List.mem_cons_self ..) rfl
  have hwaits := performFlight_poisonedAmo
  rw [hflights, List.map_cons, hst] at hwaits
  cases hwaits

end Sys2Proof.Proofs

/-!
PROOFS. A load of a plain operand that nothing stops (the statement LoadFillsElements, R127, R134 to R136): the order of the lane groups'
elements, one element, the run over all of them, and what the end of the load leaves.
-/
namespace Sys2Proof.Proofs

open Sys2Proof Sys2Proof.Machine Sys2Proof.Laws

/-! ## Lane groups (R136) -/

section LaneGroups
variable {lgs : List Nat} (hne : lgs ≠ [])
include hne

theorem lgOf_lt (hlt : ∀ x ∈ lgs, x < 8) (e : Nat) : lgOf lgs e < 8 := by
  have hi : e / 32 % max 1 lgs.length < lgs.length := by
    have := List.length_pos_iff.2 hne
    rw [Nat.max_eq_right this]
    exact Nat.mod_lt _ this
  rw [lgOf, List.getD_eq_getElem _ _ hi]
  exact hlt _ (List.getElem_mem hi)

/-- A lane group comes to its elements in rising order. -/
theorem posOf_lt_posOf (hnodup : lgs.Nodup) {d e : Nat} (hde : d < e) (hsame : lgOf lgs d = lgOf lgs e) : posOf lgs d < posOf lgs e := by
  have hpos := List.length_pos_iff.2 hne
  have hmax : max 1 lgs.length = lgs.length := Nat.max_eq_right hpos
  have hi : ∀ x, x / 32 % lgs.length < lgs.length := fun x => Nat.mod_lt _ hpos
  have hmod : d / 32 % lgs.length = e / 32 % lgs.length := by
    rw [lgOf, lgOf, hmax, List.getD_eq_getElem _ _ (hi d), List.getD_eq_getElem _ _ (hi e)] at hsame
    exact hnodup.getElem_inj_iff.1 hsame
  rw [posOf, posOf, hmax]
  have hd := Nat.div_add_mod (d / 32) lgs.length
  have he := Nat.div_add_mod (e / 32) lgs.length
  rw [hmod] at hd
  by_cases hq : d / 32 / lgs.length = e / 32 / lgs.length
  · rw [hq] at hd ⊢
    omega
  · have hle : d / 32 / lgs.length ≤ e / 32 / lgs.length := Nat.div_le_div_right (Nat.div_le_div_right hde.le)
    omega

/-- Having come to an element, its lane group has not come to a later one that it had not come to before. -/
theorem performedAt_elgSet (hlt : ∀ x ∈ lgs, x < 8) (hnodup : lgs.Nodup) {elg : Vector Nat 8} {d e : Nat} (hde : d < e)
    (h : performedAt lgs elg e = false) :
    performedAt lgs (elgSet elg (lgOf lgs d) (posOf lgs d + 1)) e = false := by
  have hd := lgOf_lt hne hlt d
  have he := lgOf_lt hne hlt e
  rw [performedAt, decide_eq_false_iff_not] at h ⊢
  simp only [elgSet, Vector.getElem_set]
  split
  · next hsame =>
    have := posOf_lt_posOf hne hnodup hde (by rwa [Nat.mod_eq_of_lt hd, Nat.mod_eq_of_lt he] at hsame)
    omega
  · exact h

end LaneGroups

/-! ## Pinned translations (R340) -/

theorem mem_leavePages {ctx : BitVec 6} {lg : Nat} {rs : List (Nat × Nat)} {l : List (Nat × TlbEntry)} {p : Nat × TlbEntry}
    (h : p ∈ leavePages ctx lg rs l) : p ∈ l := by
  induction l with
  | nil => exact h
  | cons q r ih =>
    rw [leavePages] at h
    split at h
    · split at h
      · exact h
      · exact List.mem_cons_of_mem _ (ih h)
    · rcases List.mem_cons.1 h with rfl | h
      · exact List.mem_cons_self
      · exact List.mem_cons_of_mem _ (ih h)

theorem mem_addPins_one {lg : Nat} {l : List (Nat × TlbEntry)} {g : Seg} {p : Nat × TlbEntry} (h : p ∈ addPins lg l [g]) :
    p ∈ l ∨ p = (lg, g.t) := by
  simp only [addPins, List.foldl_cons, List.foldl_nil] at h
  split at h
  · exact .inl h
  · simpa using h

/-! ## The run over the elements of a load -/

/-- An element of a read that nothing stops: its value is added, and its lane group holds its page. -/
theorem performElem_reads {o : ElemOps} {f : Flight} {p : Perf} {e x : Nat} {segs : List Seg}
    (hgoing : p.stopped = []) (hfresh : performedAt f.lgs p.elg e = false) (hskips : f.skips.contains e = false) (hlate : o.late e = false)
    (hbound : o.bound e = none) (hunit : o.unit_ e = e) (hkind : o.kind = .read) (hbad : o.bad = [])
    (hpages : accessPages p.s p.s.me (o.ranges e) .read .tile (some { f with pins := p.pins }) = (.ok segs, p.s))
    (hsegs : accessSegs p.s segs .read o.reads (some f) = (.ok segs, p.s)) (hact : o.act p.s segs e = (.ok (some x), p.s)) :
    performElem o f p e = { p with
      elg := elgSet p.elg (lgOf f.lgs e) (posOf f.lgs e + 1)
      pins := addPins (lgOf f.lgs e) (leavePages p.s.me.ctx (lgOf f.lgs e) (o.ranges e) p.pins) segs
      data := (e, x) :: p.data } := by
  have hrun : (p.stopped.contains (lgOf f.lgs e) || performedAt f.lgs p.elg e) = false := by simp [hgoing, hfresh]
  simp only [performElem, hrun, hskips, hlate, hbound, hunit, hkind, hpages, hbad, hsegs, hact, List.contains_nil, ne_eq,
    not_true_eq_false, decide_false, Bool.false_and, Bool.false_eq_true, if_false, if_true]

/-- The elements below `k` have been read, in order and without a stop; the pinned translations are those of elements below `n`. -/
structure ElemsRead (s : State) (lgs : List Nat) (val : Nat → Nat) (sg : Nat → Seg) (n k : Nat) (p : Perf) : Prop where
  state : p.s = s
  stopped : p.stopped = []
  named : p.named = none
  data : p.data.reverse = (List.range k).map fun e => (e, val e)
  pins : ∀ q ∈ p.pins, ∃ x ∈ List.range n, q.2 = (sg x).t
  left : ∀ e, k ≤ e → performedAt lgs p.elg e = false

section ReadRun
variable {s : State} {o : ElemOps} {f : Flight} {val : Nat → Nat} {sg : Nat → Seg} {n : Nat}
  (hlt : ∀ x ∈ f.lgs, x < 8) (hnodup : f.lgs.Nodup) (hne : f.lgs ≠ []) (hskips : f.skips = [])
  (hkind : o.kind = .read) (hbad : o.bad = []) (hlate : ∀ e, o.late e = false) (hunit : ∀ e, o.unit_ e = e)
  (hbound : ∀ e ∈ List.range n, o.bound e = none)
  (hpages : ∀ e ∈ List.range n, ∀ ps : List (Nat × TlbEntry), (∀ q ∈ ps, ∃ x ∈ List.range n, q.2 = (sg x).t) →
    accessPages s s.me (o.ranges e) .read .tile (some { f with pins := ps }) = (.ok [sg e], s))
  (hsegs : ∀ e ∈ List.range n, accessSegs s [sg e] .read o.reads (some f) = (.ok [sg e], s))
  (hact : ∀ e ∈ List.range n, o.act s [sg e] e = (.ok (some (val e)), s))
include hlt hnodup hne hskips hkind hbad hlate hunit hbound hpages hsegs hact

theorem elemsRead_step {p : Perf} {k : Nat} (hk : k < n) (h : ElemsRead s f.lgs val sg n k p) :
    ElemsRead s f.lgs val sg n (k + 1) (performElem o f p k) := by
  have hmem := List.mem_range.2 hk
  obtain ⟨hstate, hstopped, hnamed, hdata, hpins, hleft⟩ := h
  subst hstate
  rw [performElem_reads hstopped (hleft k (Nat.le_refl k)) (by rw [hskips]; rfl) (hlate k) (hbound k hmem) (hunit k) hkind hbad
    (hpages k hmem _ hpins) (hsegs k hmem) (hact k hmem)]
  refine ⟨rfl, hstopped, hnamed, ?_, fun q hq => ?_, fun e he => ?_⟩
  · rw [List.reverse_cons, hdata, List.range_succ, List.map_append]
    rfl
  · rcases mem_addPins_one hq with hq | rfl
    · exact hpins q (mem_leavePages hq)
    · exact ⟨k, hmem, rfl⟩
  · exact performedAt_elgSet hne hlt hnodup (by omega) (hleft e (by omega))

/-- A run over all elements that nothing stops reads them all. -/
theorem elemsRead_all (helg : f.elg = Vector.replicate 8 0) (hpins0 : f.pins = []) (k : Nat) (hk : k ≤ n) :
    ElemsRead s f.lgs val sg n k (performElems o f s (List.range k)) := by
  induction k with
  | zero =>
    refine ⟨rfl, rfl, rfl, rfl, fun q hq => ?_, fun e _ => ?_⟩
    · rw [show (performElems o f s (List.range 0)).pins = f.pins from rfl, hpins0] at hq
      cases hq
    · rw [show (performElems o f s (List.range 0)).elg = f.elg from rfl, helg]
      exact performedAt_fresh f.lgs e
  | succ k ih =>
    rw [performElems, List.range_succ, List.foldl_append]
    exact elemsRead_step hlt hnodup hne hskips hkind hbad hlate hunit hbound hpages hsegs hact (by omega) (ih (by omega))

end ReadRun

/-- The values of all elements replace the contents. -/
theorem mergeElems_all (val : Nat → Nat) (l : List Half) (k : Nat) :
    mergeElems l k ((List.range' k l.length).map fun e => (e, val e)) = (List.range' k l.length).map fun e => BitVec.ofNat 32 (val e) := by
  induction l generalizing k with
  | nil => rfl
  | cons x r ih => simp only [List.length_cons, List.range'_succ, List.map_cons, mergeElems, if_true, ih]

/-! ## The load -/

/-- Without prefetched tiles nothing is fetched again. -/
theorem refetch_none {s : State} (h : ∀ w ∈ s.me.streams.toList, w.prefetched = []) (rs : List (Nat × Nat)) : refetch s rs = s := by
  have hmap : (s.me.streams.map fun w => { w with prefetched := w.prefetched.filter fun p =>
      let l : Layout := { g := w.copy, a := wrap64 (w.base.toNat + p.index * w.stride.toInt), mt := w.copy.memType }
      let scales := if w.copy.type = 11 then [(w.copy.scale.toNat, 2 * w.copy.cols.toNat)] else []
      !(((List.range w.copy.count).flatMap (l.ranges 0) ++ scales).any fun r => rs.any fun x => bytesMeet s s.me.ctx r x) }) =
      s.me.streams := by
    refine Vector.ext fun i hi => ?_
    have hw := h s.me.streams[i] (by simp)
    rw [Vector.getElem_map, hw, List.filter_nil, ← hw]
  rw [refetch, hmap]

theorem consumeTables_none {s : State} (h : s.cbs = []) (f : Flight) : consumeTables s f = s := by
  rw [consumeTables, h, List.filter_nil, ← h]

/-- The value of an element of a plain operand. -/
def plainValue (s : State) (f : Flight) (sg : Nat → Seg) (e : Nat) : Nat :=
  convPat f.shape.memType f.shape.type (memNat s.mem (sg e).pa (typeBits f.shape.memType / 8))

/-- A version with the values of some elements put in. -/
def mergedWith (vals : List (Nat × Nat)) (v : Version) : Version := { v with elems := mergeElems v.elems 0 vals }

/-- A load has ended with these values. -/
def loadEnded (s : State) (f : Flight) (vals : List (Nat × Nat)) (done : State → Flight → State) : State :=
  flightDone (done (setVersion s f.dst (mergedWith vals)) f) f

section Load
variable {s : State} {f : Flight} {sg : Nat → Seg} (hmt : plainType f.shape.memType)
  (hclean : ∀ x ∈ s.me.versions, x.poison = []) (htype : f.shape.type ≠ 11)
  (hin : ∀ e ∈ List.range f.shape.count, (layoutOf s.me f []).outOfBounds e = false)
  (helg : f.elg = Vector.replicate 8 0) (hskips : f.skips = []) (hfirst : f.first = none) (hpins : f.pins = [])
  (hstreams : ∀ w ∈ s.me.streams.toList, w.prefetched = []) (hcbs : s.cbs = [])
  (hlt : ∀ x ∈ f.lgs, x < 8) (hnodup : f.lgs.Nodup) (hne : f.lgs ≠ [])
  (hreads : plainReads s f (typeBits f.shape.memType / 8) (List.range f.shape.count) (layoutOf s.me f []).addr sg)
include hmt hclean htype hin helg hskips hfirst hpins hstreams hcbs hlt hnodup hne hreads

/-- A load that nothing stops ends with the values of its elements. -/
theorem runLoad_ends (done : State → Flight → State) : ∃ (elg : Vector Nat 8) (pins : List (Nat × TlbEntry)),
    runLoad s f allElems done = loadEnded s
      { f with planes := some [], first := some f.shape.count, elg := elg, pins := pins }
      ((List.range f.shape.count).map fun e => (e, plainValue s f sg e)) done := by
  let l := layoutOf s.me f []
  let f1 : Flight := { f with planes := some [], first := some f.shape.count }
  let o := loadOps (slotDie s.me.slot) l (badElems s.me { f with planes := some [] })
  let p := performElems o f1 s (List.range f.shape.count)
  have hrun : ElemsRead s f1.lgs (plainValue s f sg) sg f.shape.count f.shape.count p := by
    refine elemsRead_all (f := f1) (o := o) hlt hnodup hne hskips rfl (badElems_unpoisoned hclean _) (late_plain hmt) (unitFirst_plain hmt)
      (fun e he => boundOf_within (hin e he)) (fun e he ps hps => ?_) (fun e he => ?_) (fun e he => ?_) helg hpins _ (Nat.le_refl _)
    · obtain ⟨-, -, -, -, -, -, -, hacc⟩ := hreads e he
      rw [show o.ranges e = l.ranges l.readPlanes e from rfl, ranges_plain hmt]
      exact (accessPages_pins (g := { f with pins := ps }) rfl s s.me _ .read .tile).trans (hacc ps hps)
    · obtain ⟨-, -, hsl, hhbm, -, hheld, hpoison, -⟩ := hreads e he
      refine accessSegs_read ?_ fun g hg => by rwa [List.mem_singleton.1 hg]
      simp [segsStop, hsl, hheld, hpoison]
    · obtain ⟨hfit, hva, hsl, -, hguest, -, -, -⟩ := hreads e he
      have hload : loadElem s (slotDie s.me.slot) l [sg e] e = (plainValue s f sg e, s) :=
        loadElem_plain (l := l) hmt fun i hi => ⟨(sg e).cp, viaSegs_piece hva hsl hi hfit, hguest i hi⟩
      rw [show o.act s [sg e] e = loadAct (slotDie s.me.slot) l s [sg e] e from rfl, loadAct, hload]
  refine ⟨p.elg, p.pins, ?_⟩
  rw [runLoad, withLayout_plain hmt]
  dsimp only
  rw [loadScales, if_neg htype, hfirst, refetch_none hstreams]
  refine (endRun_done (p := p) hrun.stopped hrun.named f1 _).trans ?_
  have hring : ∀ m, (setVersion s f1.dst m).cbs = [] := fun m => by cases f1.dst <;> exact hcbs
  rw [hrun.state, hrun.data, consumeTables_none (hring _)]
  rfl

end Load

/-- What the step after the last element leaves of the block, memory and the other blocks. -/
structure KeepsResults (t u : State) : Prop where
  versions : t.me.versions = u.me.versions
  flights : t.me.flights = u.me.flights
  mem : t.mem = u.mem
  others : t.others = u.others
  sregs : t.me.sregs = u.me.sregs
  names : t.me.names = u.me.names
  lstat : t.me.lstat = u.me.lstat

theorem setFill_keepsResults (s : State) (f : Flight) (n : Nat) : KeepsResults (setFill s f n) s := by
  unfold setFill
  dsimp only
  split <;> exact ⟨rfl, rfl, rfl, rfl, rfl, rfl, rfl⟩

theorem loadEnded_performedWith {s : State} {f g h : Flight} {v : Version} (haq : Instr.aqBit g.ins = false) (hid : g.id = f.id)
    (hdst : g.dst = some v.id) (hv : findVersion s.me v.id = some v) (hf : findFlight s.me f.id = some h) (val : Nat → Nat)
    {done : State → Flight → State} (hdone : ∀ u, KeepsResults (done u g) u) {n : Nat} (hlen : v.elems.length = n) :
    performedWith s (loadEnded s g ((List.range n).map fun e => (e, val e)) done) f v
      ((List.range n).map fun e => BitVec.ofNat 32 (val e)) v.scales := by
  obtain rfl := hlen
  let vals := (List.range v.elems.length).map fun e => (e, val e)
  let u := setVersion s g.dst (mergedWith vals)
  have hu : u = { s with me := modVersion s.me v.id (mergedWith vals) } := by
    simp only [u, hdst]
    rfl
  obtain ⟨hvers, hflights, hmem, hothers, hsregs, hnames, hlstat⟩ := hdone u
  have hmerged : mergedWith vals v = { v with elems := (List.range v.elems.length).map fun e => BitVec.ofNat 32 (val e) } := by
    have hmerge := mergeElems_all val v.elems 0
    rw [← List.range_eq_range'] at hmerge
    rw [mergedWith, hmerge]
  have hfind : ∀ i, findVersion (loadEnded s g vals done).me i = findVersion (modVersion s.me v.id (mergedWith vals)) i := fun i => by
    rw [loadEnded, flightDone_findVersion haq, findVersion, hvers, hu]
    rfl
  refine ⟨?_, ?_, fun i hi => ?_, ?_, ?_, ?_, ?_, ?_⟩
  · rw [← hid]
    refine flightDone_performed haq (g := h) ?_
    rw [findFlight, hflights, hu, hid]
    exact hf
  · rw [hfind, findVersion_modVersion_same hv (g := mergedWith vals) fun _ => rfl, hmerged]
  · rw [hfind, findVersion_modVersion_other s.me hi (g := mergedWith vals) fun _ => rfl]
  · rw [loadEnded, flightDone_mem, hmem, hu]
  · rw [loadEnded, flightDone_others haq, hothers, hu]
  · rw [loadEnded, flightDone_sregs haq, hsregs, hu]
    rfl
  · rw [loadEnded, flightDone_names haq, hnames, hu]
    rfl
  · rw [loadEnded, flightDone_lstat haq, hlstat, hu]
    rfl

/-- FILL of the record of a load that sets it (R131). -/
theorem loadEnded_fill {s : State} {f : Flight} (haq : Instr.aqBit f.ins = false)
    (hw : (f.id, f.record.extractLsb' 0 4, true) ∈ s.me.fillWait) (vals : List (Nat × Nat)) :
    (shapeOf (loadEnded s f vals fun u g => setFill u g g.shape.count).me (f.record.extractLsb' 0 4)).fill =
      BitVec.ofNat 32 f.shape.count := by
  have hwait : (f.id, f.record.extractLsb' 0 4, true) ∈ (setVersion s f.dst (mergedWith vals)).me.fillWait := by
    cases f.dst <;> exact hw
  rw [← setFill_fill hwait f.shape.count, shapeOf, shapeOf]
  simp only [loadEnded, flightDone_shapes haq]

/-- The bits of an element's memory are its pattern where no conversion is made. -/
theorem plainValue_unconverted {s : State} {f : Flight} {sg : Nat → Seg} (hmt : plainType f.shape.memType) (hfmt : f.shape.fmt = 0) (e : Nat) :
    plainValue s f sg e = memNat s.mem (sg e).pa (typeBits f.shape.memType / 8) := by
  have hlt := memNat_lt s.mem (sg e).pa (typeBits f.shape.memType / 8)
  rw [plainValue, ← memType_of_fmt_zero hfmt, convPat, if_pos rfl, hmt.typeBits_eq.1, Nat.mul_div_cancel_left _ (by decide),
    Nat.mod_eq_of_lt hlt]

/-- The value that an element has to hold. -/
theorem plainValue_eq {s : State} {f : Flight} {sg : Nat → Seg} (hmt : plainType f.shape.memType) (e : Nat) :
    plainValue s f sg e = if f.shape.fmt = 0 then memNat s.mem (sg e).pa (typeBits f.shape.memType / 8)
      else convPat f.shape.memType f.shape.type (memNat s.mem (sg e).pa (typeBits f.shape.memType / 8)) := by
  split
  · next hfmt => exact plainValue_unconverted hmt hfmt e
  · rfl

/-- Settles O28: the load by `runLoad_ends`, what it leaves by `loadEnded_performedWith` and `loadEnded_fill`. -/
theorem loadFillsElements : Obligations.LoadFillsElements := by
  unfold Obligations.LoadFillsElements
  intro s f v sg l mt n es hins haq hf hdst hv hclean hmt htype hin helg hskips hfirst hpins hstreams hlen hcbs _ _ hlt hnodup hne hreads
  have hvals : es.map (fun e => BitVec.ofNat 32 (if f.shape.fmt = 0 then memNat s.mem (sg e).pa n
      else convPat mt f.shape.type (memNat s.mem (sg e).pa n))) = es.map fun e => BitVec.ofNat 32 (plainValue s f sg e) :=
    List.map_congr_left fun e _ => by rw [plainValue_eq hmt e]
  rw [hvals]
  rcases hins with ⟨m, hm⟩ | ⟨m, hm⟩
  · obtain ⟨elg, pins, hrun⟩ := runLoad_ends (f := { f with tables := tablesOf s f }) hmt hclean htype hin helg hskips hfirst hpins
      hstreams hcbs hlt hnodup hne hreads fun u _ => u
    have hperf : performFlight s f = runLoad s { f with tables := tablesOf s f } allElems fun u _ => u := by
      simp only [performFlight, hm, runTld]
    rw [hperf, hrun, show plainValue s { f with tables := tablesOf s f } sg = plainValue s f sg from rfl]
    refine ⟨?_, fun k hk => by rw [hm] at hk; cases hk⟩
    exact loadEnded_performedWith (g := { f with
        tables := tablesOf s f, planes := some [], first := some f.shape.count, elg := elg, pins := pins })
      haq rfl hdst hv hf (plainValue s f sg) (fun _ => ⟨rfl, rfl, rfl, rfl, rfl, rfl, rfl⟩) hlen
  · obtain ⟨elg, pins, hrun⟩ := runLoad_ends hmt hclean htype hin helg hskips hfirst hpins hstreams hcbs hlt hnodup hne hreads
      fun u g => setFill u g g.shape.count
    have hperf : performFlight s f = runLoad s f allElems fun u g => setFill u g g.shape.count := by simp only [performFlight, hm]
    rw [hperf, hrun]
    refine ⟨?_, fun _ _ hw => ?_⟩
    · exact loadEnded_performedWith (g := { f with planes := some [], first := some f.shape.count, elg := elg, pins := pins })
        haq rfl hdst hv hf (plainValue s f sg) (fun u => setFill_keepsResults u _ _) hlen
    · exact loadEnded_fill (f := { f with planes := some [], first := some f.shape.count, elg := elg, pins := pins }) haq hw _

end Sys2Proof.Proofs

/-!
PROOFS. The refutation of EngineEvents: an element of a MAP that no strip delivers keeps the old version's value with the poison of it
(R170, R388), so that at the end of the MAP the version's poison is not what it was.
-/
namespace Sys2Proof.Proofs

open Sys2Proof Sys2Proof.Machine

/-! ## A MAP that carries poison over (R170, R388) -/

def carryShape : ShapeRec := { rows := 1, cols := 1, type := 5, store := 2, limit := 64 }

/-- The version that the MAP writes, without poison. -/
def carryDst : Version := { id := 1, name := 1, geom := carryShape, elems := [0], done := false }

/-- The name's version before, its one element poisoned. -/
def carryOld : Version := { id := 2, name := 1, geom := carryShape, elems := [7], poison := [0], done := true }

def carryFields : MapF := ⟨1, 2, 0, 0, 1, false, 0, 0⟩

def carryFlight : Flight := { id := 9, insn := 0, ins := .map carryFields, dst := some 1, old := some 2, started := true }

/-- The lane engine at the end of the one strip, whose only element the mask leaves out. -/
def carryJob : LaneJob :=
  { slot := 0, flight := 9, header := 0x0288E002, code := [0xA40000F8], inputs := [[1]], active := [false], bad := []
    consts := Vector.replicate 16 0, todo := [], out := []
    strip := { emptyStrip 1 { type := 5, fzi := false, fzo := false, xrm := 0 } [] with elems := [some 0], ret := some 1 } }

def carryBlock : Block :=
  { Block.empty 0 with st := .running, region := .exposed, flights := [carryFlight], versions := [carryDst, carryOld] }

def carrying : State := { State.reset with me := carryBlock, lane := some carryJob }

/-- What the end of the strip leaves. -/
def carried : State := settleBanks (stripBoundary (settleBanks carrying))

/-- The version has taken the old value and its poison. -/
theorem findVersion_carried : findVersion carried.me 1 = some { carryDst with elems := [7], poison := [0] } := by decide

/-- Refutes O50: at the end of this MAP the element that no strip delivered holds its old value with the poison that it had, while the
statement leaves the version's poison as it was before, empty. -/
theorem not_engineEvents : ¬ Obligations.EngineEvents := by
  unfold Obligations.EngineEvents
  intro h
  obtain ⟨-, hstrip, -⟩ := h carrying 0 (by decide)
  obtain ⟨-, hlast⟩ := hstrip carryJob carryBlock rfl rfl rfl (by decide)
  obtain ⟨u, g, hexec, -, -, -, -, -, -, hversion⟩ := hlast carryFlight carryFields 1 carryDst rfl rfl rfl rfl rfl
  have hu : carried = u := by
    injection hexec
  rw [← hu, findVersion_carried] at hversion
  have hpoison := congrArg (Option.map Version.poison) hversion
  exact absurd hpoison (by decide)

end Sys2Proof.Proofs

/-!
PROOFS. Tile compute instructions issue (the statement VectorInstructionsIssue, R153, R154, R158, R166 to R180): the
checks that pass, the issue with a new version or onto the old one, and what each instruction asks of its operands.
-/
namespace Sys2Proof.Proofs

open Sys2Proof Sys2Proof.Machine Sys2Proof.Laws
open Host (Outcome)

/-! ## Operands of a compute instruction (R119, R153) -/

section Operands
variable {b : Block} {t : BitVec 5} {v : Version}

theorem curId_of_current (h : current b t = some v) : curId b t = some v.id := by
  obtain ⟨i, hi, hv⟩ := Option.bind_eq_some_iff.1 h
  rw [hi, findVersion_id hv]

theorem geomOf_of_current (h : current b t = some v) : geomOf b t = v.geom := by rw [geomOf, h]

theorem needVersion_of_current (h : current b t = some v) (base : Nat) : needVersion b t base = none := by
  rw [needVersion, h]
  rfl

/-- The trap of a source without a version names the source. -/
theorem needVersion_of_none (h : current b t = none) :
    needVersion b t 0 = some { cause := .type, tval := t.setWidth 64 } := by
  rw [needVersion, h, Nat.zero_add, typeTrap, BitVec.ofNat_toNat]
  rfl

/-- An instruction whose first source has no version takes that trap, whatever else it would check. -/
theorem checked_noSource {s : State} (h : current s.me t = none) (insn : Word) (l : List (Option TrapInfo)) (k : State → State) :
    checked s insn (firstOf (needVersion s.me t 0 :: l)) k = seqTrap s insn { cause := .type, tval := t.setWidth 64 } := by
  rw [needVersion_of_none h, firstOf_some_cons, checked_some]

theorem checkDest_of_bound (hn : (nameOf b t).isSome = true) (hok : (destGeom b t).ok = true) : checkDest b t = none := by
  obtain ⟨n, hn⟩ := Option.isSome_iff_exists.1 hn
  rw [destGeom, hn] at hok
  rw [checkDest, hn]
  exact if_pos hok

@[simp] theorem typeUnless_true (t : BitVec 5) : typeUnless true t = none := rfl

@[simp] theorem checkMask_off (b : Block) (t : BitVec 5) (n : Nat) : checkMask b false t n = none := rfl

theorem checkMask_of_current (h : current b t = some v) (htype : v.geom.type = 15) (me : Bool) :
    checkMask b me t v.geom.count = none := by
  simp [checkMask, geomOf_of_current h, htype]

theorem isUnderstory_of_current (h : current b t = some v) : isUnderstory b t = false := by
  have hcur := curId_of_current h
  rw [curId] at hcur
  unfold isUnderstory
  split
  · next n hn =>
    rw [hn] at hcur
    simp [show n.cur = some v.id from hcur]
  · rfl

end Operands

/-! ## The issue of a compute instruction (R154, R158) -/

section Issue
variable {s : State} (hd : s.defer = true) (hmode : s.me.inHandler = false)
include hd hmode

/-- Where Rename finds room the instruction is in flight with its new version, whatever state a trap or a stall would leave. -/
theorem computeIssued_of_issueCompute {s0 : State} {td : BitVec 5} {f : Flight} {o : Outcome State Fault Refusal}
    (ho : o = .next (issueCompute s0 s td f)) : computeIssued s td f o := by
  intro id b hr
  rw [ho, issueCompute, renamed, hr]
  exact congrArg _ (launchFlight_inFlight hd ((rename_inHandler hr).trans hmode) _)

theorem matrixIssued_of_issueMatrix {td : BitVec 5} {acc : Bool} {f : Flight} {o : Outcome State Fault Refusal}
    (ho : o = .next (issueMatrix s td acc f)) : matrixIssued s td acc f o := by
  refine ⟨fun hacc => ?fresh, fun hacc v hv => ⟨fun hin hrd => ?inPlace, fun hout => ?renamed⟩⟩
  case fresh =>
    subst hacc
    exact computeIssued_of_issueCompute hd hmode ho
  case inPlace =>
    rw [ho, issueMatrix, if_pos hacc, hv]
    dsimp only
    rw [if_pos (by simp [hin, hrd])]
    exact congrArg _ (launchFlight_inFlight (b := modVersion s.me v.id fun x => { x with done := false }) hd hmode _)
  case renamed =>
    refine computeIssued_of_issueCompute hd hmode (s0 := s) ?_
    rw [ho, issueMatrix, if_pos hacc, hv]
    dsimp only
    rw [if_neg (by rcases hout with h | h <;> simp [h])]

end Issue

/-! ## The store of lane functions (R182) -/

/-- Making room for a lane function changes nothing but the store. -/
theorem laneEvict_frame {s t : State} {core : BitVec 8} {need fuel : Nat} (h : laneEvict s core need fuel = some t) :
    ∃ l, t = { s with laneFns := l } := by
  induction fuel generalizing s with
  | zero =>
    simp only [laneEvict, Option.ite_none_right_eq_some, Option.some.injEq] at h
    exact ⟨s.laneFns, h.2.symm⟩
  | succ k ih =>
    simp only [laneEvict] at h
    split at h
    · exact ⟨s.laneFns, (Option.some.inj h).symm⟩
    · split at h
      · cases h
      · obtain ⟨l, rfl⟩ := ih h
        exact ⟨l, rfl⟩

/-- Naming a lane function changes nothing but the store. -/
theorem laneName_frame (s : State) (core : BitVec 8) (k : BitVec 32) (off : Nat) :
    ∃ l, laneName s core k off = { s with laneFns := l } := by
  unfold laneName
  split
  · exact ⟨_, rfl⟩
  · dsimp only
    split
    · next h =>
      obtain ⟨l, rfl⟩ := laneEvict_frame h
      exact ⟨_, rfl⟩
    · exact ⟨s.laneFns, rfl⟩

@[simp] theorem laneName_me (s : State) (core : BitVec 8) (k : BitVec 32) (off : Nat) : (laneName s core k off).me = s.me := by
  obtain ⟨l, h⟩ := laneName_frame s core k off
  rw [h]

@[simp] theorem laneName_defer (s : State) (core : BitVec 8) (k : BitVec 32) (off : Nat) : (laneName s core k off).defer = s.defer := by
  obtain ⟨l, h⟩ := laneName_frame s core k off
  rw [h]

/-! ## TFILL, TMOV, TCVT and TSCAN (R177 to R180) -/

section Whole
variable {s : State} (h : issuesTile s) {td : BitVec 5} (hdest : checkDest s.me td = none)
include h hdest

theorem execTfill_passes {imm : BitVec 24} (himm : (destGeom s.me td).type ≠ 11 ∨ imm.toNat < 256) :
    execTfill td imm s = .next (issueCompute s s td (cflight (.tfill td imm))) := by
  have hval : ((destGeom s.me td).type != 11 || decide (imm.toNat < 256)) = true := by simpa using himm
  rw [execTfill, enterWindow_issues h]
  dsimp only
  rw [hdest, hval, typeUnless_true, firstOf_pass rfl rfl, checked_none]

theorem execTmov_passes {ta : BitVec 5} {a : Version} (ha : current s.me ta = some a) (htype : a.geom.type = (destGeom s.me td).type)
    (hcount : a.geom.count = (destGeom s.me td).count) :
    execTmov td ta s = .next (issueCompute s s td { cflight (.tmov td ta) with ta := some a.id }) := by
  rw [execTmov, enterWindow_issues h]
  simp [hdest, needVersion_of_current ha, geomOf_of_current ha, curId_of_current ha, htype, hcount]

theorem execTcvt_passes {ta : BitVec 5} {a : Version} (ha : current s.me ta = some a) (hg : inAC (destGeom s.me td) = true)
    (hag : inAC a.geom = true) (hnum : (numOf (destGeom s.me td).type).isSome = true) (hanum : (numOf a.geom.type).isSome = true)
    (hcount : a.geom.count = (destGeom s.me td).count) :
    execTcvt td ta s = .next (issueCompute s s td { cflight (.tcvt td ta) with ta := some a.id }) := by
  rw [execTcvt, enterWindow_issues h]
  simp [hdest, needVersion_of_current ha, geomOf_of_current ha, curId_of_current ha, hg, hag, hnum, hanum, hcount]

end Whole

/-- A TSCAN whose source and destination agree is down to its mask. -/
theorem execTscan_passes {s : State} (h : issuesTile s) {f : ScanF} (hdest : checkDest s.me f.td = none) {a : Version}
    (ha : current s.me f.ta = some a) (hg : inAC (destGeom s.me f.td) = true) (hag : inAC a.geom = true)
    (hop : opAllowed a.geom.type f.op = true) (hacc : accType a.geom.type = some (destGeom s.me f.td).type)
    (hrows : a.geom.rows = (destGeom s.me f.td).rows) (hcols : a.geom.cols = (destGeom s.me f.td).cols)
    (hneed : (if f.me then needVersion s.me f.tc 0 else none) = none) (hmask : checkMask s.me f.me f.tc a.geom.count = none) :
    execTscan f s = .next (issueCompute s s f.td
      { cflight (.tscan f) with ta := some a.id, tc := if f.me then curId s.me f.tc else none }) := by
  rw [execTscan, enterWindow_issues h]
  simp [hdest, needVersion_of_current ha, geomOf_of_current ha, curId_of_current ha, hg, hag, hop, hacc, hrows, hcols, hneed, hmask]

section NoSource
variable {s : State} (h : issuesTile s)
include h

theorem execTmov_noSource {ta : BitVec 5} (td : BitVec 5) (ha : current s.me ta = none) :
    execTmov td ta s = .next (seqTrap s (wordOf (.tmov td ta)) { cause := .type, tval := ta.setWidth 64 }) := by
  rw [execTmov, enterWindow_issues h]
  exact congrArg _ (checked_noSource ha ..)

theorem execTcvt_noSource {ta : BitVec 5} (td : BitVec 5) (ha : current s.me ta = none) :
    execTcvt td ta s = .next (seqTrap s (wordOf (.tcvt td ta)) { cause := .type, tval := ta.setWidth 64 }) := by
  rw [execTcvt, enterWindow_issues h]
  exact congrArg _ (checked_noSource ha ..)

theorem execTscan_noSource {f : ScanF} (ha : current s.me f.ta = none) :
    execTscan f s = .next (seqTrap s (wordOf (.tscan f)) { cause := .type, tval := f.ta.setWidth 64 }) := by
  rw [execTscan, enterWindow_issues h]
  exact congrArg _ (checked_noSource ha ..)

end NoSource

/-! ## REDUCE and MAP (R166 to R171, R175, R176) -/

section LaneFunctions
variable {s : State} (h : issuesTile s)
include h

theorem execReduce_passes {f : RedF} (hpf : f.pf = false) (hc : checkReduce s.me f (geomOf s.me f.ta).type = none) :
    execReduce f s = .next (issueCompute s s f.td (redFlight s f)) := by
  rw [execReduce, enterWindow_issues h]
  simp [hpf, hc]

theorem execMap_noFunction {f : MapF} (hfn : fnAt s f.imm = none) :
    execMap f s = .next (seqTrap s (wordOf (.map f)) { cause := .illegal, tval := f.imm.setWidth 64 }) := by
  rw [execMap, enterWindow_issues h]
  simp [hfn]

variable {header : BitVec 32} {code : List (BitVec 32)}

theorem execReduce_function {f : RedF} (hpf : f.pf = true) (hfn : fnAt s f.imm = some (header, code))
    (hc : checkReduce s.me f (typeAfter (laneType header).type code) = none) (hfit : laneFits s (slotCore s.me.slot) header = true) :
    execReduce f s = .next (issueCompute s (laneName s (slotCore s.me.slot) s.me.kernel f.imm.toNat) f.td (redFlight s f)) := by
  rw [execReduce, enterWindow_issues h]
  simp [hpf, hfn, hc, hfit]

variable {f : MapF} (hfn : fnAt s f.imm = some (header, code)) (hc : checkMap s.me f header code = none)
include hfn hc

theorem execMap_fits (hfit : laneFits s (slotCore s.me.slot) header = true) :
    execMap f s = .next (issueCompute s (laneName s (slotCore s.me.slot) s.me.kernel f.imm.toNat) f.td (mapFlight s f)) := by
  rw [execMap, enterWindow_issues h]
  simp [hfn, hc, hfit]

theorem execMap_overcap (hfit : laneFits s (slotCore s.me.slot) header = false) :
    execMap f s = .next (overcapSelf s s.me.slot) := by
  rw [execMap, enterWindow_issues h]
  simp [hfn, hc, hfit]

end LaneFunctions

/-- Settles O32: each instruction whose checks pass is an issue of a compute instruction (`computeIssued_of_issueCompute`), where it uses a
lane function in the state that names it (`laneName_frame`). -/
theorem vectorInstructionsIssue : Obligations.VectorInstructionsIssue := by
  unfold Obligations.VectorInstructionsIssue
  intro s hs
  obtain ⟨-, -, hmode, hdefer⟩ := id hs
  have issues {td f o} (ho : o = .next (issueCompute s s td f)) : computeIssued s td f o :=
    computeIssued_of_issueCompute hdefer hmode ho
  have issuesNamed {core k off td f o} (ho : o = .next (issueCompute s (laneName s core k off) td f)) :
      computeIssued (laneName s core k off) td f o :=
    computeIssued_of_issueCompute ((laneName_defer ..).trans hdefer) ((congrArg _ (laneName_me ..)).trans hmode) ho
  refine ⟨fun td hname hok => ?passes, fun f hfn => execMap_noFunction hs hfn, fun td ta ha i hi => ?noSource,
    fun f ha => execTscan_noSource hs ha⟩
  case noSource =>
    simp only [List.mem_cons, List.not_mem_nil, or_false] at hi
    rcases hi with rfl | rfl
    · exact execTmov_noSource hs td ha
    · exact execTcvt_noSource hs td ha
  case passes =>
    have hdest := checkDest_of_bound hname hok
    refine ⟨fun imm himm => issues (execTfill_passes hs hdest himm),
      fun ta a ha htype hcount => issues (execTmov_passes hs hdest ha htype hcount),
      fun ta a ha hg hag hnum hanum hcount => issues (execTcvt_passes hs hdest ha hg hag hnum hanum hcount),
      ?scan, ?reduce, ?reduceFunction, ?map⟩
    case scan =>
      rintro f a rfl ha hg hag hop hacc hrows hcols
      refine ⟨fun hme => ?_, fun m hme hm htype hcount => ?_⟩
      · have hscan := execTscan_passes hs hdest ha hg hag hop hacc hrows hcols (by rw [hme]; rfl) (by rw [hme]; rfl)
        rw [hme] at hscan
        exact issues hscan
      · have hscan := execTscan_passes hs hdest ha hg hag hop hacc hrows hcols (by rw [if_pos hme, needVersion_of_current hm])
          (hcount ▸ checkMask_of_current hm htype f.me)
        rw [if_pos hme, curId_of_current hm] at hscan
        exact issues hscan
    case reduce =>
      rintro f rfl hpf hc
      exact issues (execReduce_passes hs hpf hc)
    case reduceFunction =>
      rintro f header code rfl hpf hfn hc hfit
      exact issuesNamed (execReduce_function hs hpf hfn hc hfit)
    case map =>
      rintro f header code rfl hfn hc
      exact ⟨fun hfit => issuesNamed (execMap_fits hs hfn hc hfit), fun hfit => execMap_overcap hs hfn hc hfit⟩

end Sys2Proof.Proofs

/-!
PROOFS. Matrix instructions issue (the statement MatrixInstructionsIssue, R154 to R162, R220, R228): what each asks of its operands, and the
understory form of MMV, which translates its region as it issues.
-/
namespace Sys2Proof.Proofs

open Sys2Proof Sys2Proof.Machine Sys2Proof.Laws
open Host (Outcome)

/-! ## Operands of a matrix instruction (R156, R160) -/

/-- The name of a destination is bound to a well-formed FP32 record in the C-store, of one row where it is to be a vector, and an
accumulation finds a version of that geometry. -/
def accumulator (b : Block) (f : MmF) (vec : Bool) : Prop :=
  (nameOf b f.td).isSome = true ∧ (destGeom b f.td).ok = true ∧ (destGeom b f.td).store = 3 ∧ (destGeom b f.td).type = 10 ∧
    (vec = true → (destGeom b f.td).rows = 1) ∧
    (f.acc = true → ∃ v, current b f.td = some v ∧ sameTile v.geom (destGeom b f.td) = true)

section Accumulator
variable {b : Block} {f : MmF} {vec : Bool} (h : accumulator b f vec)
include h

theorem checkDest_of_accumulator : checkDest b f.td = none := by
  obtain ⟨hname, hok, -⟩ := h
  exact checkDest_of_bound hname hok

theorem needVersion_of_accumulator : (if f.acc then needVersion b f.td 0 else none) = none := by
  obtain ⟨-, -, -, -, -, hacc⟩ := h
  cases hf : f.acc with
  | false => rfl
  | true =>
    obtain ⟨v, hv, -⟩ := hacc hf
    exact needVersion_of_current hv 0

theorem checkAcc_of_accumulator : checkAcc b f.td f.acc vec = none := by
  obtain ⟨-, -, hstore, htype, hvec, hacc⟩ := h
  have hrows : (!vec || (destGeom b f.td).rows == 1) = true := by
    cases vec with
    | false => rfl
    | true => simp [hvec rfl]
  have hold : (!f.acc || sameTile (geomOf b f.td) (destGeom b f.td)) = true := by
    cases hf : f.acc with
    | false => rfl
    | true =>
      obtain ⟨v, hv, hsame⟩ := hacc hf
      simp [geomOf_of_current hv, hsame]
  rw [checkAcc, hstore, htype, hrows, hold]
  rfl

/-- Where the destination and the sources suit, what is left to check is the kinds of the sources. -/
theorem firstOf_accumulator {a : Version} (ha : current b f.ta = some a) {c : Option TrapInfo} (hc : c = none)
    (l : List (Option TrapInfo)) :
    firstOf ((if f.acc then needVersion b f.td 0 else none) :: needVersion b f.ta 0 :: c :: checkDest b f.td ::
      checkAcc b f.td f.acc vec :: l) = firstOf l := by
  rw [needVersion_of_accumulator h, needVersion_of_current ha, hc, checkDest_of_accumulator h, checkAcc_of_accumulator h]
  rfl

end Accumulator

theorem checkA_of_current {b : Block} {ta : BitVec 5} {a : Version} {g : ShapeRec} (h : current b ta = some a) (hstore : a.geom.store = 2)
    (htype : a.geom.type.toNat ∈ [8, 9]) (hrows : a.geom.rows = g.rows) : checkA b ta g = none := by
  have htype' : (a.geom.type == 8 || a.geom.type == 9) = true := by
    simpa [← BitVec.toNat_inj] using htype
  rw [checkA, geomOf_of_current h, hstore, htype', beq_iff_eq.2 hrows]
  rfl

theorem isWeights_of_type {x : ShapeRec} (hstore : x.store = 1) (htype : x.type.toNat ∈ [8, 9, 11]) : isWeights x = true := by
  have htype' : (x.type == 8 || x.type == 9 || x.type == 11) = true := by
    simpa [← BitVec.toNat_inj, or_assoc] using htype
  rw [isWeights, hstore, htype']
  rfl

/-! ## MMA, MMAS, MMSS and the engine form of MMV (R156, R160, R220, R228) -/

section Engine
variable {s : State} (h : issuesTile s) {f : MmF} {a w : Version} (ha : current s.me f.ta = some a)
include h ha

section Weights
variable (hw : current s.me f.tb = some w) (hweights : isWeights w.geom = true) (hcols : w.geom.cols = (destGeom s.me f.td).cols)
include hw hweights hcols

theorem execMma_passes (hf : accumulator s.me f false) (hA : checkA s.me f.ta (destGeom s.me f.td) = none)
    (hrows : w.geom.rows = a.geom.cols) :
    execMma f s = .next (issueMatrix s f.td f.acc { cflight (.mma f) with ta := some a.id, tb := some w.id }) := by
  rw [execMma, enterWindow_issues h]
  simp [firstOf_accumulator hf ha (needVersion_of_current hw 0), hA, geomOf_of_current ha, geomOf_of_current hw, curId_of_current ha,
    curId_of_current hw, hweights, hrows, hcols]

theorem execMmv_passes (hf : accumulator s.me f true) (hA : checkA s.me f.ta (destGeom s.me f.td) = none)
    (hrows : w.geom.rows = a.geom.cols) :
    execMmv f s = .next (issueMatrix s f.td f.acc { cflight (.mmv f) with ta := some a.id, tb := some w.id }) := by
  rw [execMmv, enterWindow_issues h]
  simp [firstOf_accumulator hf ha (needVersion_of_current hw 0), hA, isUnderstory_of_current hw, geomOf_of_current ha,
    geomOf_of_current hw, curId_of_current ha, curId_of_current hw, hweights, hrows, hcols]

theorem execMmas_passes (hf : accumulator s.me f false) (hhandle : isHandle a.geom = true) :
    execMmas f s = .next (issueMatrix s f.td f.acc { cflight (.mmas f) with ta := some a.id, tb := some w.id }) := by
  rw [execMmas, enterWindow_issues h]
  simp [firstOf_accumulator hf ha (needVersion_of_current hw 0), geomOf_of_current ha, geomOf_of_current hw, curId_of_current ha,
    curId_of_current hw, hhandle, hweights, hcols]

end Weights

theorem execMmss_passes (hw : current s.me f.tb = some w) (hf : accumulator s.me f false) (hhandle : isHandle a.geom = true)
    (hhandle' : isHandle w.geom = true) :
    execMmss f s = .next (issueMatrix s f.td f.acc { cflight (.mmss f) with ta := some a.id, tb := some w.id }) := by
  rw [execMmss, enterWindow_issues h]
  simp [firstOf_accumulator hf ha (needVersion_of_current hw 0), geomOf_of_current ha, geomOf_of_current hw, curId_of_current ha,
    curId_of_current hw, hhandle, hhandle']

/-- The understory form goes on with the translation of its region. -/
theorem execMmv_understory (hunder : isUnderstory s.me f.tb = true) (hf : accumulator s.me f true)
    (hA : checkA s.me f.ta (destGeom s.me f.td) = none)
    (hregion : checkRegionRec (shapeOf s.me (Machine.recordOf s.me f.tb)) (Machine.recordOf s.me f.tb) a.geom.cols.toNat
      (destGeom s.me f.td).cols.toNat = none) :
    execMmv f s = .next (issueUnderstory s f) := by
  rw [execMmv, enterWindow_issues h]
  simp [firstOf_accumulator hf ha rfl, hA, hunder, geomOf_of_current ha, hregion]

end Engine

theorem execMma_noSource {s : State} (h : issuesTile s) {f : MmF} (hacc : f.acc = false) (ha : current s.me f.ta = none) :
    execMma f s = .next (seqTrap s (wordOf (.mma f)) { cause := .type, tval := f.ta.setWidth 64 }) := by
  rw [execMma, enterWindow_issues h]
  dsimp only
  rw [if_neg (by simp [hacc]), firstOf_none_cons]
  exact congrArg _ (checked_noSource ha ..)

/-! ## The understory form (R161, R162, R340) -/

/-- An MMV of the understory form as it issues, but for the translations that it holds. -/
def understoryFlight (b : Block) (f : MmF) (a : Version) : Flight :=
  { cflight (.mmv f) with
    ta := some a.id, shape := shapeOf b (Machine.recordOf b f.tb), record := (Machine.recordOf b f.tb).setWidth 5 }

section Understory
variable {s s1 : State} {f : MmF} {a : Version} (ha : current s.me f.ta = some a)

theorem issueUnderstory_traps {t : Nat} (hregion : regionCheck s (shapeOf s.me (Machine.recordOf s.me f.tb)) = (.trap t, s1)) :
    issueUnderstory s f = trapType s1 (wordOf (.mmv f)) t := by
  rw [issueUnderstory]
  dsimp only
  rw [hregion]

include ha

theorem issueUnderstory_translated {l k : List Seg}
    (hregion : regionCheck s (shapeOf s.me (Machine.recordOf s.me f.tb)) = (.ok l k, s1)) :
    issueUnderstory s f = issueMatrix s1 f.td f.acc { understoryFlight s.me f a with pins := pinsOf (l ++ k) } := by
  rw [issueUnderstory]
  dsimp only
  rw [hregion, curId_of_current ha]
  rfl

theorem issueUnderstory_stops {w : StopWhy}
    (hregion : regionCheck s (shapeOf s.me (Machine.recordOf s.me f.tb)) = (.stop w, s1)) :
    issueUnderstory s f = stopIssued s1 (issueMatrix s1 f.td f.acc (understoryFlight s.me f a)) w := by
  rw [issueUnderstory]
  dsimp only
  rw [hregion, curId_of_current ha]
  rfl

end Understory

/-- Rename gives no number back. -/
theorem rename_nextId_le {s : State} {b c : Block} {t : BitVec 5} {g : ShapeRec} {rd : List Nat} {id : Nat}
    (h : rename s b t g rd = .ok id c) : b.nextId ≤ c.nextId := by
  rcases rename_cases h with ⟨v, -, -, rfl⟩ | ⟨-, rfl⟩
  · exact le_rfl
  · exact Nat.le_succ b.nextId

/-- The instruction that has just issued is the last in flight. -/
theorem inFlight_getLast? (s : State) (b : Block) (f : Flight) : (inFlight s b f).me.flights.getLast? =
    some { f with id := b.nextId, lgs := liveLgs s (slotCore b.slot), inHandler := false } :=
  List.getLast?_concat

/-- An instruction that has issued and waits, in a state that holds nothing, stops on its pages. -/
theorem stopIssued_inFlight {s : State} {b : Block} {f x : Flight} (hheld : s.held = []) (hid : s.me.nextId ≤ b.nextId)
    (hwaits : f.st = .waiting) (hlast : (inFlight s b f).me.flights.getLast? = some x) (w : StopWhy) :
    stopIssued s (inFlight s b f) w = stopFlight (inFlight s b f) x 0 w := by
  have hx := (inFlight_getLast? s b f).symm.trans hlast
  obtain rfl := Option.some.inj hx
  rw [stopIssued, hlast]
  exact if_pos ⟨hid, rfl, hwaits, by simp [inFlight, hheld]⟩

/-- Settles O31: each instruction whose checks pass is an issue of a matrix instruction (`matrixIssued_of_issueMatrix`); the understory form
goes by what the translation of its region gives. -/
theorem matrixInstructionsIssue : Obligations.MatrixInstructionsIssue := by
  unfold Obligations.MatrixInstructionsIssue
  intro s f hs g dst weights
  obtain ⟨-, -, hmode, hdefer⟩ := id hs
  have issues {fl o} (ho : o = .next (issueMatrix s f.td f.acc fl)) : matrixIssued s f.td f.acc fl o :=
    matrixIssued_of_issueMatrix hdefer hmode ho
  have isWeights_of {x : ShapeRec} (hx : weights x) : isWeights x = true := isWeights_of_type hx.1 hx.2
  refine ⟨fun a w ha hw => ?engine, fun a ha hunder hf hstore htype hrow => ?understory, fun hacc ha => execMma_noSource hs hacc ha⟩
  case engine =>
    refine ⟨?mma, ?mmv, fun hf hhandle hweights hcols => issues (execMmas_passes hs ha hw (isWeights_of hweights) hcols hf hhandle),
      fun hf hhandle hhandle' => issues (execMmss_passes hs ha hw hf hhandle hhandle')⟩
    case mma =>
      rintro hf ⟨hstore, htype, hrowsA, hweights, hrows, hcols⟩
      exact issues (execMma_passes hs ha hw (isWeights_of hweights) hcols hf (checkA_of_current ha hstore htype hrowsA) hrows)
    case mmv =>
      rintro hf ⟨hstore, htype, hrowsA, hweights, hrows, hcols⟩
      exact issues (execMmv_passes hs ha hw (isWeights_of hweights) hcols hf (checkA_of_current ha hstore htype hrowsA) hrows)
  case understory =>
    intro h r hrec
    obtain ⟨-, -, -, -, hvec, -⟩ := id hf
    have hexec : exec (.mmv f) s = .next (issueUnderstory s f) :=
      execMmv_understory hs ha hunder hf (checkA_of_current ha hstore htype (hrow.trans (hvec rfl).symm)) hrec
    rw [hexec]
    refine ⟨fun l k s1 hregion hs1 _ => ?translated, ?stops, fun t s1 hregion => congrArg _ (issueUnderstory_traps hregion)⟩
    case translated =>
      obtain ⟨-, -, hmode1, hdefer1⟩ := hs1
      exact matrixIssued_of_issueMatrix hdefer1 hmode1 (congrArg _ (issueUnderstory_translated ha hregion))
    case stops =>
      intro w s1 id b hregion hs1 hme hheld hacc fl hr u x hlast
      obtain ⟨-, -, hmode1, hdefer1⟩ := hs1
      have hr' : rename s1 s1.me f.td (destGeom s1.me f.td) fl.reads = .ok id b := by rw [hme] at hr ⊢; exact hr
      have hissued : issueMatrix s1 f.td f.acc fl = u :=
        Outcome.next.inj ((matrixIssued_of_issueMatrix hdefer1 hmode1 rfl).1 hacc id b hr')
      rw [issueUnderstory_stops ha hregion]
      refine congrArg _ ((congrArg (stopIssued s1 · w) hissued).trans ?_)
      exact stopIssued_inFlight hheld (rename_nextId_le hr) rfl hlast w

end Sys2Proof.Proofs

/-!
PROOFS. The integer lane instructions (the statement LaneIntegers, R192 to R194): the canonical container of a result modulo 2^n, what
the shared integer, shift and bitwise operations give, and the instructions that clamp.
-/
namespace Sys2Proof.Proofs

open Sys2Proof Sys2Proof.Machine Sys2Proof.Laws
open Host (Outcome)

/-! ## Containers of a type (R185, R192) -/

/-- A container holds the value modulo 2^n. -/
theorem laneInteger_wrapInt (sg : Bool) (n : Nat) (v : Int) : laneInteger sg n (wrapInt n v) = laneInteger sg n v := by
  rw [laneInteger, BitVec.ofInt_natCast, ofNat_wrapInt, laneInteger]

theorem canonical_mod (sg : Bool) (n x : Nat) : canonical (.int sg n) (x % 2 ^ n) = canonical (.int sg n) x := by
  simp only [canonical, readInt_mod]

/-- A pattern is written as the value that it has as a number, modulo 2^n. -/
theorem canonical_eq_laneInteger {n : Nat} (hn : 1 ≤ n) (sg : Bool) (x : Nat) : canonical (.int sg n) x = laneInteger sg n x := by
  rw [← canonical_mod, canonical_int hn, laneInteger, ofInt_readInt hn, laneInteger, BitVec.ofInt_natCast]

theorem canonical_wrapInt {n : Nat} (hn : 1 ≤ n) (sg : Bool) (v : Int) : canonical (.int sg n) (wrapInt n v) = laneInteger sg n v :=
  (canonical_eq_laneInteger hn sg _).trans (laneInteger_wrapInt sg n v)

/-- A clamp leaves exactly the values of its range (R29). -/
theorem clampInt_eq_self_iff (sg : Bool) (n : Nat) (v : Int) :
    clampInt (intMin sg n) (intMax sg n) v = v ↔ intMin sg n ≤ v ∧ v ≤ intMax sg n := by
  have h := intMin_le_intMax sg n
  rw [clampInt_eq h]
  omega

theorem intMin_nonpos (sg : Bool) (n : Nat) : intMin sg n ≤ 0 := by
  cases sg
  · exact le_rfl
  · exact Int.neg_nonpos_of_nonneg (by positivity)

/-! ## What a lane instruction gives -/

/-- The same values and flags, said in another way. -/
theorem laneGives_congr {s : State} {j : LaneJob} {vd : BitVec 5} {g : Guard} {val val' : Nat → Half} {fl fl' : Nat → Flags}
    {o : Outcome State Fault Refusal} (h : laneGives s j vd g val fl o) (hval : ∀ p, val p = val' p) (hfl : ∀ p, fl p = fl' p) :
    laneGives s j vd g val' fl' o := by
  rwa [← funext hval, ← funext hfl]

/-- An instruction that writes a register under a type that it admits. -/
theorem laneTyped_gives {s : State} {j : LaneJob} (hlane : s.lane = some j) (hwf : stripWf j.strip) {t : Machine.Num}
    (ht : numOf j.strip.vt.type = some t) {k : LaneJob → Machine.Num → Option Strip} {vd : BitVec 5} {g : Guard} {val : Nat → Half}
    {fl : Nat → Flags} (hk : k j t = some (laneSet j.strip vd g val fl)) : laneGives s j vd g val fl (laneTyped s k) := by
  rw [laneTyped_some hlane ht hk]
  exact laneGives_laneSet hwf s vd g val fl _

section OneStrip
variable {s : State} {j : LaneJob} (hlane : s.lane = some j) (hwf : stripWf j.strip)
include hlane hwf

/-- A bitwise operation on the patterns of any lane type. -/
theorem laneBits_gives {t : Machine.Num} (ht : numOf j.strip.vt.type = some t) (f : L3) (op : Nat → Nat → Nat) :
    laneGives s j f.vd f.guard (fun p => canonical t (op (at_ j.strip f.va p) (srcAt j t f.vb p) % 2 ^ t.bits)) (fun _ => 0)
      (laneBits s f op) :=
  laneTyped_gives hlane hwf ht rfl

section Integer
variable {sg : Bool} {n : Nat} (ht : numOf j.strip.vt.type = some (.int sg n))
include ht

theorem laneInt_gives (f : L3) (op : Bool → Nat → Int → Int → Int) :
    laneGives s j f.vd f.guard
      (fun p => laneInteger sg n (op sg n (readInt sg n (at_ j.strip f.va p)) (readInt sg n (srcAt j (.int sg n) f.vb p))))
      (fun _ => 0) (laneInt s f op) :=
  laneGives_congr (laneTyped_gives hlane hwf ht rfl) (fun _ => canonical_wrapInt (numOf_bits_pos ht) sg _) fun _ => rfl

theorem laneShift_gives (f : L3) (op : Nat → Nat → Nat → Nat) :
    laneGives s j f.vd f.guard
      (fun p => laneInteger sg n (op n (at_ j.strip f.va p % 2 ^ n) (srcAt j (.int sg n) f.vb p % 2 ^ n % n) : Nat))
      (fun _ => 0) (laneShift s f op) :=
  laneGives_congr (laneTyped_gives hlane hwf ht rfl) (fun _ => canonical_eq_laneInteger (numOf_bits_pos ht) sg _) fun _ => rfl

/-- A bitwise operation that works on each bit by itself needs only the low n bits of its operands. -/
theorem laneBits_gives_integer (f : L3) {op : Nat → Nat → Nat} (hop : ∀ a b, op a b % 2 ^ n = op (a % 2 ^ n) (b % 2 ^ n)) :
    laneGives s j f.vd f.guard
      (fun p => laneInteger sg n (op (at_ j.strip f.va p % 2 ^ n) (srcAt j (.int sg n) f.vb p % 2 ^ n) : Nat))
      (fun _ => 0) (laneBits s f op) :=
  laneGives_congr (laneBits_gives hlane hwf ht f op)
    (fun _ => (congrArg _ (hop _ _)).trans (canonical_eq_laneInteger (numOf_bits_pos ht) sg _)) fun _ => rfl

/-! ## The instructions that clamp (R192 to R194) -/

/-- An instruction that clamps an exact value to a type of `m` bits: it sets SAT exactly where the clamp changes the value. -/
theorem laneClamp_gives {k : LaneJob → Machine.Num → Option Strip} {vd : BitVec 5} {g : Guard} {m : Nat} (hm : 1 ≤ m)
    (v : Nat → Int)
    (hk : k j (.int sg n) = some (laneSet j.strip vd g
      (fun p => canonical (.int sg m) (wrapInt m (clampInt (intMin sg m) (intMax sg m) (v p))))
      fun p => if clampInt (intMin sg m) (intMax sg m) (v p) = v p then 0 else flagSAT)) :
    laneGives s j vd g (fun p => laneInteger sg m (max (intMin sg m) (min (intMax sg m) (v p))))
      (fun p => if intMin sg m ≤ v p ∧ v p ≤ intMax sg m then 0 else flagSAT) (laneTyped s k) :=
  laneGives_congr (laneTyped_gives hlane hwf ht hk)
    (fun p => by rw [canonical_wrapInt hm, clampInt_eq (intMin_le_intMax sg m)])
    fun p => by simp only [clampInt_eq_self_iff]

theorem execVwmac_gives (f : L3) (hn : n ≤ 16) :
    let sum := fun p => readInt sg (2 * n) (at_ j.strip f.vd p) +
      readInt sg n (at_ j.strip f.va p) * readInt sg n (srcAt j (.int sg n) f.vb p)
    laneGives s j f.vd f.guard (fun p => laneInteger sg (2 * n) (max (intMin sg (2 * n)) (min (intMax sg (2 * n)) (sum p))))
      (fun p => if intMin sg (2 * n) ≤ sum p ∧ sum p ≤ intMax sg (2 * n) then 0 else flagSAT) (execVwmac f s) :=
  laneClamp_gives hlane hwf ht (by have := numOf_bits_pos ht; omega) _ (if_neg (by omega))

theorem execVnshr_gives (f : L3) (hn : n ≤ 16) :
    let shr := fun p => shiftRound (readInt sg (2 * n) (at_ j.strip f.va p)) (srcAt j (.int sg n) f.vb p % 2 ^ n % (2 * n))
      (roundModeOf j.strip.vt.xrm)
    laneGives s j f.vd f.guard (fun p => laneInteger sg n (max (intMin sg n) (min (intMax sg n) (shr p))))
      (fun p => if intMin sg n ≤ shr p ∧ shr p ≤ intMax sg n then 0 else flagSAT) (execVnshr f s) :=
  laneClamp_gives hlane hwf ht (numOf_bits_pos ht) _ (if_neg (by omega))

/-- A magnitude is never below the range, so the clamp is from above. -/
theorem execVabs_gives (f : L2) :
    let x := fun p => readInt sg n (at_ j.strip f.va p)
    laneGives s j f.vd f.guard (fun p => laneInteger sg n (min (intMax sg n) (x p).natAbs))
      (fun p => if ((x p).natAbs : Int) ≤ intMax sg n then 0 else flagSAT) (execVabs f s) := by
  intro x
  have hlow := intMin_nonpos sg n
  have hrange := intMin_le_intMax sg n
  refine laneGives_congr (laneClamp_gives hlane hwf ht (numOf_bits_pos ht) (fun p => ((x p).natAbs : Int)) rfl) (fun p => ?_) fun p => ?_
  · rw [max_eq_right (by omega)]
  · simp only [show intMin sg n ≤ ((x p).natAbs : Int) by omega, true_and]

end Integer

end OneStrip

/-! ## Under an FP type -/

section Refused
variable {s : State} {j : LaneJob} (hlane : s.lane = some j) {m : FpFmt} (ht : numOf j.strip.vt.type = some (.fp m))
include hlane ht

theorem laneInt_fp (f : L3) (op : Bool → Nat → Int → Int → Int) : laneInt s f op = .refused .laneType := laneTyped_none hlane ht rfl

theorem laneShift_fp (f : L3) (op : Nat → Nat → Nat → Nat) : laneShift s f op = .refused .laneType := laneTyped_none hlane ht rfl

theorem execVwmac_fp (f : L3) : execVwmac f s = .refused .laneType := laneTyped_none hlane ht rfl

theorem execVnshr_fp (f : L3) : execVnshr f s = .refused .laneType := laneTyped_none hlane ht rfl

theorem execVabs_fp (f : L2) : execVabs f s = .refused .laneType := laneTyped_none hlane ht rfl

end Refused

/-- The pattern that a bitwise instruction writes under an FP type. -/
theorem canonical_fp_mod (m : FpFmt) (x : Nat) : canonical (.fp m) (x % 2 ^ m.width) = BitVec.ofNat 32 (x % 2 ^ m.width) := by
  rw [canonical, Nat.mod_mod]

/-! ## The statement -/

/-- Settles O45: each instruction is one of the shared operations of its kind, on the values or the patterns of its operands. -/
theorem laneIntegers : Obligations.LaneIntegers := by
  intro s j hlane hwf
  refine ⟨fun sg n ht => ⟨fun f => ⟨?three, fun hn => ⟨execVwmac_gives hlane hwf ht f hn, execVnshr_gives hlane hwf ht f hn⟩⟩,
    execVabs_gives hlane hwf ht⟩, fun m ht f h => ⟨?patterns, ?refused⟩⟩
  case three =>
    simp only [List.forall_mem_cons, List.not_mem_nil, false_imp_iff, implies_true, and_true]
    have hint := laneInt_gives hlane hwf ht f
    have hbits := fun {op} => laneBits_gives_integer hlane hwf ht f (op := op)
    have hshift := laneShift_gives hlane hwf ht f
    have hmin : ∀ a b : Int, (if b < a then b else a) = min a b := fun a b => by split <;> omega
    have hmax : ∀ a b : Int, (if a < b then b else a) = max a b := fun a b => by split <;> omega
    refine ⟨hint fun _ _ a b => a + b, hint fun _ _ a b => a - b, hint fun _ _ a b => a * b, ?vmulh,
      laneGives_congr (hint fun _ _ a b => if b < a then b else a) (fun _ => congrArg _ (hmin _ _)) fun _ => rfl,
      laneGives_congr (hint fun _ _ a b => if a < b then b else a) (fun _ => congrArg _ (hmax _ _)) fun _ => rfl,
      hbits fun a b => Nat.and_mod_two_pow, hbits fun a b => Nat.or_mod_two_pow, hbits fun a b => Nat.xor_mod_two_pow,
      ?vshl, ?vshr, ?vsra⟩
    case vmulh => exact laneGives_congr (hint fun _ n a b => a * b / (2 ^ n : Nat)) (fun _ => by push_cast; rfl) fun _ => rfl
    case vshl => exact laneGives_congr (hshift fun _ a c => a * 2 ^ c) (fun _ => by push_cast; rfl) fun _ => rfl
    case vshr => exact laneGives_congr (hshift fun _ a c => a / 2 ^ c) (fun _ => by push_cast; rfl) fun _ => rfl
    case vsra =>
      refine laneGives_congr (hshift fun n a c => wrapInt n (readInt true n a / (2 ^ c : Nat))) (fun _ => ?_) fun _ => rfl
      rw [laneInteger_wrapInt]
      push_cast
      rfl
  case patterns =>
    simp only [List.forall_mem_cons, List.not_mem_nil, false_imp_iff, implies_true, and_true]
    have hbits := fun op => laneGives_congr (laneBits_gives hlane hwf ht f op) (fun _ => canonical_fp_mod m _) fun _ => rfl
    exact ⟨hbits fun a b => a &&& b, hbits fun a b => a ||| b, hbits fun a b => a ^^^ b⟩
  case refused =>
    simp only [List.forall_mem_cons, List.not_mem_nil, false_imp_iff, implies_true, and_true]
    have hint := fun op => laneInt_fp hlane ht f op
    have hshift := fun op => laneShift_fp hlane ht f op
    exact ⟨(hint _ : execVadd f s = _), (hint _ : execVsub f s = _), (hint _ : execVmul f s = _), (hint _ : execVmulh f s = _),
      (hint _ : execVmin f s = _), (hint _ : execVmax f s = _), (hshift _ : execVshl f s = _), (hshift _ : execVshr f s = _),
      (hshift _ : execVsra f s = _), execVwmac_fp hlane ht f, execVnshr_fp hlane ht f, execVabs_fp hlane ht h⟩

end Sys2Proof.Proofs

/-!
PROOFS. Comparisons, predicate operations and moves of the lanes (the statement LanePredicatesAndMoves, R200 to R203): what a write of a
predicate at the executed positions leaves, the flag of a comparison with a NaN, and the index of an element.
-/
namespace Sys2Proof.Proofs

open Sys2Proof Sys2Proof.Machine Sys2Proof.Laws

/-! ## Predicates of a strip -/

theorem preg_setPreg_same (st : Strip) (r : BitVec 5) (l : List Bool) : preg (setPreg st r l) r = l := by
  simp [preg, setPreg]

theorem getElem_setPreg_other (st : Strip) {i : Fin 24} {r : BitVec 5} (h : i.val ≠ r.toNat % 24) (l : List Bool) :
    (setPreg st r l).p[i.val]'(i.isLt) = st.p[i.val]'(i.isLt) :=
  Vector.getElem_set_ne (Nat.mod_lt _ (by decide)) _ h.symm

theorem length_preg {st : Strip} (h : stripWf st) (r : BitVec 5) : (preg st r).length = st.active.length :=
  h.2 ⟨r.toNat % 24, Nat.mod_lt _ (by decide)⟩

/-- Flags joined with those of the executed positions (R187). -/
theorem getLsbD_or_flagsOf {st : Strip} (hwf : stripWf st) (g : Guard) (fl : Nat → Flags) (b : Nat) :
    (st.flags ||| flagsOf (executed st g) fl).getLsbD b = true ↔
      st.flags.getLsbD b = true ∨ ∃ p < st.active.length, executesAt st g p ∧ (fl p).getLsbD b = true := by
  rw [BitVec.getLsbD_or, Bool.or_eq_true, getLsbD_flagsOf, length_executed hwf]
  rfl

theorem flagsOf_zero (ex : List Bool) : flagsOf ex (fun _ => 0) = 0 := by
  apply BitVec.eq_of_getLsbD_eq
  intro b _
  rw [Bool.eq_iff_iff, getLsbD_flagsOf]
  simp

/-! ## What an instruction that writes a predicate gives -/

/-- The strip in which predicate vd holds `val` at the executed positions, with the flags of those positions. -/
def laneSetPred (st : Strip) (vd : BitVec 5) (g : Guard) (val : Nat → Bool) (fl : Nat → Flags) : Strip :=
  { setPreg st vd (blend (executed st g) val (preg st vd)) with flags := st.flags ||| flagsOf (executed st g) fl }

theorem setPreg_eq_laneSetPred (st : Strip) (vd : BitVec 5) (g : Guard) (val : Nat → Bool) :
    setPreg st vd (blend (executed st g) val (preg st vd)) = laneSetPred st vd g val fun _ => 0 := by
  rw [laneSetPred, flagsOf_zero]
  exact (congrArg (fun fl => { setPreg st vd (blend (executed st g) val (preg st vd)) with flags := fl }) (BitVec.or_zero ..)).symm

theorem laneDecides_laneSetPred {j : LaneJob} (hwf : stripWf j.strip) (s : State) (vd : BitVec 5) (g : Guard) (val : Nat → Bool)
    (fl : Nat → Flags) :
    laneDecides s j vd g val fl (.next { s with lane := some (j.next (laneSetPred j.strip vd g val fl)) }) := by
  have hlen : (executed j.strip g).length = (preg j.strip vd).length := by rw [length_executed hwf, length_preg hwf]
  have hvd : preg (laneSetPred j.strip vd g val fl) vd = blend (executed j.strip g) val (preg j.strip vd) := preg_setPreg_same _ _ _
  refine ⟨_, rfl, rfl, fun i hi => getElem_setPreg_other _ hi _, fun p hp => ?_, getLsbD_or_flagsOf hwf g fl⟩
  have hget : (preg (laneSetPred j.strip vd g val fl) vd)[p]? =
      if (executed j.strip g).getD p false then some (val p) else (preg j.strip vd)[p]? := by
    rw [hvd, getElem?_blend hlen (by rw [length_preg hwf]; exact hp)]
  exact ⟨fun hex => hget.trans (if_pos hex), fun hex => hget.trans (if_neg hex)⟩

/-! ## NaNs in a comparison (R200) -/

theorem nv_eq (v : Fp) : v.nv = if v = .nan true then flagNV else 0 := by
  cases v with
  | nan signalling => cases signalling <;> rfl
  | inf neg => rfl
  | zero neg => rfl
  | fin neg sig e => rfl

/-- A comparison sets NV with a signalling NaN, and with any NaN where it is not quiet. -/
theorem compareFlags_eq (x y : Fp) (quiet : Bool) :
    (if x.isNaN || y.isNaN then (if quiet then x.nv ||| y.nv else flagNV) else 0) =
      if (x.isNaN || y.isNaN) && (!quiet || decide (x = .nan true ∨ y = .nan true)) then flagNV else 0 := by
  cases hnan : x.isNaN || y.isNaN with
  | false => rfl
  | true =>
    cases quiet with
    | false => rfl
    | true =>
      rw [nv_eq, nv_eq]
      by_cases hx : x = .nan true <;> by_cases hy : y = .nan true <;> simp [hx, hy]

section OneStrip
variable {s : State} {j : LaneJob} (hlane : s.lane = some j) (hwf : stripWf j.strip)
include hlane hwf

/-! ## VCMP (R200) -/

theorem laneCmp_integer {sg : Bool} {n : Nat} (ht : numOf j.strip.vt.type = some (.int sg n)) (f : L3) (c : CmpOp) :
    laneDecides s j f.vd f.guard
      (fun p => c.int (readInt sg n (at_ j.strip f.va p)) (readInt sg n (srcAt j (.int sg n) f.vb p))) (fun _ => 0)
      (laneCmp s f c) := by
  rw [laneCmp, laneTyped_some hlane ht (congrArg some (setPreg_eq_laneSetPred ..))]
  exact laneDecides_laneSetPred hwf s f.vd f.guard _ _

/-- Under an FP type; `quiet` says whether a quiet NaN sets no flag. -/
theorem laneCmp_fp {m : FpFmt} (ht : numOf j.strip.vt.type = some (.fp m)) (f : L3) (c : CmpOp) {quiet : Bool} (hquiet : quiet = c.quiet) :
    let x := fun p => fpRead m j.strip.vt.fzi (at_ j.strip f.va p)
    let y := fun p => fpRead m j.strip.vt.fzi (srcAt j (.fp m) f.vb p)
    laneDecides s j f.vd f.guard (fun p => if (x p).isNaN || (y p).isNaN then c.nan else c.fp (x p) (y p))
      (fun p => if ((x p).isNaN || (y p).isNaN) && (!quiet || decide (x p = .nan true ∨ y p = .nan true)) then flagNV else 0)
      (laneCmp s f c) := by
  intro x y
  subst hquiet
  rw [← funext fun p => compareFlags_eq (x p) (y p) c.quiet, laneCmp, laneTyped_some hlane ht rfl]
  exact laneDecides_laneSetPred hwf s f.vd f.guard _ _

/-! ## Predicate operations (R201) -/

theorem lanePred_decides (vd va vb : BitVec 5) (g : Guard) (op : Bool → Bool → Bool) :
    laneDecides s j vd g (fun p => op ((preg j.strip va).getD p false) ((preg j.strip vb).getD p false)) (fun _ => 0)
      (Machine.lanePred s vd va vb g op) := by
  have hrun : Machine.lanePred s vd va vb g op = .next { s with lane := some (j.next (laneSetPred j.strip vd g
      (fun p => op ((preg j.strip va).getD p false) ((preg j.strip vb).getD p false)) fun _ => 0)) } := by
    simp only [Machine.lanePred, laneAny, hlane, setPreg_eq_laneSetPred]
  rw [hrun]
  exact laneDecides_laneSetPred hwf s vd g _ _

/-! ## Moves and indices (R202, R203) -/

theorem laneMove_gives {t : Machine.Num} (ht : numOf j.strip.vt.type = some t) (vd : BitVec 5) (g : Guard)
    (x : LaneJob → Machine.Num → Nat → Nat) :
    laneGives s j vd g (fun p => canonical t (x j t p % 2 ^ t.bits)) (fun _ => 0) (laneMove s vd g x) :=
  laneTyped_gives hlane hwf ht rfl

/-- The index of the element at a position, 0 beyond the tile. -/
def elemIndex (st : Strip) (p : Nat) : Nat := match st.elems.getD p none with | some e => e | none => 0

theorem execVidx_integer {sg : Bool} {n : Nat} (ht : numOf j.strip.vt.type = some (.int sg n)) {i : Nat → Int}
    (hi : ∀ p, (elemIndex j.strip p : Int) = i p) (vd : BitVec 5) (g : Guard) :
    laneGives s j vd g (fun p => laneInteger sg n (i p)) (fun _ => 0) (execVidx vd g s) := by
  simp only [← hi]
  exact laneGives_congr (laneTyped_gives hlane hwf ht rfl)
    (fun _ => (canonical_mod sg n _).trans (canonical_eq_laneInteger (numOf_bits_pos ht) sg _)) fun _ => rfl

theorem execVidx_fp {m : FpFmt} (ht : numOf j.strip.vt.type = some (.fp m)) {i : Nat → Int}
    (hi : ∀ p, (elemIndex j.strip p : Int) = i p) (vd : BitVec 5) (g : Guard) :
    let r := fun p => fpOfInt m j.strip.vt.fzo (i p)
    laneGives s j vd g (fun p => BitVec.ofNat 32 ((r p).bits % 2 ^ m.width)) (fun p => (r p).flags) (execVidx vd g s) := by
  simp only [← hi]
  rw [execVidx, laneTyped_some hlane ht rfl]
  exact laneGives_laneSet hwf s vd g _ _ _

end OneStrip

/-! ## The statement -/

/-- Settles O47: the comparisons, the predicate operations and the moves are each one shared operation; only EQ and NE are quiet. -/
theorem lanePredicatesAndMoves : Obligations.LanePredicatesAndMoves := by
  intro s j hlane hwf st
  refine ⟨fun f sg n ht => ?integers, fun f m ht => ?floats, fun f h => ?logic,
    fun t ht => ⟨fun f => ?select, fun f => ?move, ?index, ?indexFp⟩⟩
  case integers =>
    simp only [List.forall_mem_cons, List.not_mem_nil, false_imp_iff, implies_true, and_true]
    have hcmp := laneCmp_integer hlane hwf ht f
    exact ⟨hcmp ⟨fun a b => decide (a = b), fpEq, false, true⟩,
      hcmp ⟨fun a b => decide (a ≠ b), fun a b => !fpEq a b, true, true⟩,
      hcmp ⟨fun a b => decide (a < b), fpLt, false, false⟩,
      hcmp ⟨fun a b => decide (b ≤ a), fun a b => !fpLt a b, false, false⟩,
      hcmp ⟨fun a b => decide (a ≤ b), fun a b => !fpLt b a, false, false⟩,
      hcmp ⟨fun a b => decide (b < a), fun a b => fpLt b a, false, false⟩⟩
  case floats =>
    simp only [List.forall_mem_cons, List.not_mem_nil, false_imp_iff, implies_true, and_true]
    have hcmp := laneCmp_fp hlane hwf ht f
    exact ⟨hcmp ⟨fun a b => decide (a = b), fpEq, false, true⟩ (by simp),
      hcmp ⟨fun a b => decide (a ≠ b), fun a b => !fpEq a b, true, true⟩ (by simp),
      hcmp ⟨fun a b => decide (a < b), fpLt, false, false⟩ (by simp),
      hcmp ⟨fun a b => decide (b ≤ a), fun a b => !fpLt a b, false, false⟩ (by simp),
      hcmp ⟨fun a b => decide (a ≤ b), fun a b => !fpLt b a, false, false⟩ (by simp),
      hcmp ⟨fun a b => decide (b < a), fun a b => fpLt b a, false, false⟩ (by simp)⟩
  case logic =>
    have hpred := fun vd va vb g op => lanePred_decides hlane hwf vd va vb g op
    exact ⟨hpred _ _ _ _ fun a b => a && b, hpred _ _ _ _ fun a b => a || b, hpred _ _ _ _ fun a b => a ^^ b,
      hpred _ _ h.va _ fun a _ => !a⟩
  case select =>
    exact laneMove_gives hlane hwf ht f.vd none fun j t p =>
      if (j.strip.p[f.p.val]'(f.p.isLt)).getD p false then at_ j.strip f.va p else srcAt j t f.vb p
  case move => exact laneMove_gives hlane hwf ht f.vd f.guard fun j t p => srcAt j t f.vb p
  case index =>
    rintro vd g sg n rfl
    exact execVidx_integer hlane hwf ht (fun p => by unfold elemIndex; cases j.strip.elems.getD p none <;> rfl) vd g
  case indexFp =>
    rintro vd g m rfl
    exact execVidx_fp hlane hwf ht (fun p => by unfold elemIndex; cases j.strip.elems.getD p none <;> rfl) vd g

end Sys2Proof.Proofs

/-!
PROOFS. Permutes, conflicts, compaction and the end of a strip (the statement LanePermuteAndReturn, R204 to R208): the mask that VCONF
builds, the packed list of VCOMP and the results that VRET delivers.
-/
namespace Sys2Proof.Proofs

open Sys2Proof Sys2Proof.Machine Sys2Proof.Laws
open Host (Outcome)

/-! ## A mask from the numbers of its bits (R205) -/

/-- The sum of 2^i over the numbers below n that `hit` holds of. -/
def maskBelow (hit : Nat → Bool) (n : Nat) : Nat := ((List.range n).filter hit).foldl (fun a i => a + 2 ^ i) 0

theorem maskBelow_succ (hit : Nat → Bool) (n : Nat) : maskBelow hit (n + 1) =
    if hit n then 2 ^ n + maskBelow hit n else maskBelow hit n := by
  unfold maskBelow
  cases h : hit n <;> simp [List.range_succ, h, Nat.add_comm]

theorem maskBelow_lt (hit : Nat → Bool) (n : Nat) : maskBelow hit n < 2 ^ n := by
  induction n with
  | zero => exact Nat.one_pos
  | succ n ih =>
    rw [maskBelow_succ]
    split <;> omega

theorem testBit_maskBelow (hit : Nat → Bool) {n i : Nat} (hi : i < n) : (maskBelow hit n).testBit i = hit i := by
  induction n with
  | zero => omega
  | succ n ih =>
    rw [maskBelow_succ]
    rcases Nat.lt_succ_iff_lt_or_eq.1 hi with hlt | rfl
    · cases hit n with
      | false => exact ih hlt
      | true => exact (Nat.testBit_two_pow_add_gt hlt _).trans (ih hlt)
    · have htop := Nat.testBit_lt_two_pow (maskBelow_lt hit i)
      cases h : hit i with
      | false => exact htop
      | true => exact (Nat.testBit_two_pow_add_eq _ _).trans (by rw [htop]; rfl)

/-! ## Lists -/

/-- The images of a list's entries, then those of the places past its end, up to n places. -/
theorem map_range_getElem? {α β : Type} {l : List α} {n : Nat} (hl : l.length ≤ n) (w : Option α → β) :
    ((List.range n).map fun i => w l[i]?) = (l.map fun x => w (some x)) ++ List.replicate (n - l.length) (w none) := by
  apply List.ext_getElem
  · simp only [List.length_map, List.length_range, List.length_append, List.length_replicate]
    omega
  · intro i _ _
    by_cases hi : i < l.length
    · simp [hi]
    · rw [List.getElem_append_right (by rw [List.length_map]; omega)]
      simp [List.getElem?_eq_none (Nat.not_lt.1 hi)]

/-! ## VCONF (R205) -/

/-- An earlier active position of the chunk of 32 of position p, the i-th of the chunk, that holds the same pattern. -/
def conflicts (st : Strip) (va : BitVec 5) (p i : Nat) : Bool :=
  decide (p / 32 * 32 + i < p) && st.active.getD (p / 32 * 32 + i) false && at_ st va (p / 32 * 32 + i) == at_ st va p

theorem execVconf_gives {s : State} {j : LaneJob} (hlane : s.lane = some j) (hwf : stripWf j.strip) {sg : Bool}
    (ht : numOf j.strip.vt.type = some (.int sg 32)) (f : L2) :
    laneGives s j f.vd f.guard (fun p => BitVec.ofNat 32 (maskBelow (conflicts j.strip f.va p) 32)) (fun _ => 0) (execVconf f s) :=
  laneTyped_gives hlane hwf ht rfl

/-! ## VCOMP (R206) -/

/-- The active positions where pK is set. -/
def keptPositions (st : Strip) (k : Fin 24) : List Nat :=
  (List.range st.active.length).filter fun p => st.active.getD p false && (st.p[k.val]'(k.isLt)).getD p false

theorem length_keptPositions (st : Strip) (k : Fin 24) : (keptPositions st k).length ≤ st.active.length :=
  (List.length_filter_le _ _).trans List.length_range.le

theorem execVcomp_next {s : State} {j : LaneJob} (hlane : s.lane = some j) {t : Machine.Num}
    (ht : numOf j.strip.vt.type = some t) (f : LcompF) :
    execVcomp f s = .next { s with lane := some (j.next (setVreg j.strip f.vd
      ((keptPositions j.strip f.p).map (fun p => canonical t (at_ j.strip f.va p % 2 ^ t.bits)) ++
        List.replicate (j.strip.active.length - (keptPositions j.strip f.p).length) 0))) } := by
  have hpacked := map_range_getElem? (length_keptPositions j.strip f.p) fun o =>
    match o with | some p => canonical t (at_ j.strip f.va p % 2 ^ t.bits) | none => 0
  exact (laneTyped_some hlane ht rfl).trans
    (congrArg (fun l => Outcome.next { s with lane := some (j.next (setVreg j.strip f.vd l)) }) hpacked)

/-! ## VRET (R170, R208) -/

/-- The width of the results that VRET delivers under the current type. -/
def deliveredWidth (st : Strip) : Nat := match numOf st.vt.type with | some t => t.bits | none => 32

theorem deliveredWidth_eq {st : Strip} {t : Machine.Num} (ht : numOf st.vt.type = some t) : deliveredWidth st = t.bits := by
  rw [deliveredWidth, ht]

/-- What VRET delivers: the low w bits of each active element's container. -/
def delivered (st : Strip) (va : BitVec 5) (w : Nat) : List (Nat × Half) :=
  (List.zip (List.zip st.elems st.active) (vreg st va)).filterMap fun x =>
    match x.1.1 with
    | some e => if x.1.2 then some (e, BitVec.ofNat 32 (x.2.toNat % 2 ^ w)) else none
    | none => none

theorem mem_delivered {st : Strip} (hwf : stripWf st) (hlen : st.elems.length = st.active.length) (va : BitVec 5) (w e : Nat) (x : Half) :
    (e, x) ∈ delivered st va w ↔ ∃ p < st.active.length, st.elems.getD p none = some e ∧ st.active.getD p false = true ∧
      x = BitVec.ofNat 32 (at_ st va p % 2 ^ w) := by
  have hreg := hwf.1 va
  have hzip : List.zip (List.zip st.elems st.active) (vreg st va) =
      (List.range st.active.length).map fun p => ((st.elems.getD p none, st.active.getD p false), (vreg st va).getD p 0) := by
    apply List.ext_getElem
    · simp [hlen, hreg]
    · intro p hp _
      simp at hp
      simp [hp]
  simp only [delivered, hzip, List.filterMap_map, List.mem_filterMap, List.mem_range, Function.comp_apply]
  refine exists_congr fun p => and_congr_right fun hp => ?_
  cases st.elems.getD p none with
  | none => simp
  | some d => cases st.active.getD p false <;> simp [at_, eq_comm]

theorem execVret_next {s : State} {j : LaneJob} (hlane : s.lane = some j) (va : BitVec 5) :
    execVret va s = .next { s with lane := some { j with
      out := delivered j.strip va (deliveredWidth j.strip) ++ j.out
      strip := { j.strip with code := [], ret := some va } } } := by
  rw [execVret, hlane]
  rfl

/-! ## The statement -/

/-- Settles O48: each instruction's strip is the one that its rule names; the lists of VCONF, VCOMP and VRET are read by their entries. -/
theorem lanePermuteAndReturn : Obligations.LanePermuteAndReturn := by
  intro s j hlane hwf st
  have hany : ∀ k, laneAny s k = .next { s with lane := some (j.next (k j)) } := fun k => by rw [laneAny, hlane]
  refine ⟨fun t ht => ⟨fun f => ?permute, fun f sg htn => ?conflict, fun f => ?compact⟩, fun f => hany _, hany _, fun va => ?ret⟩
  case permute =>
    exact laneMove_gives hlane hwf ht f.vd f.guard fun j t p =>
      let i := srcAt j t (match f.rep with | none => LaneSrc.vec f.vb | some z => LaneSrc.rep f.vb z) p % 2 ^ t.bits
      if i < j.strip.active.length then at_ j.strip f.va i else 0
  case conflict =>
    subst htn
    refine ⟨_, execVconf_gives hlane hwf ht f, fun p i hi => ?_⟩
    rw [BitVec.getLsbD_ofNat, decide_eq_true hi, Bool.true_and, testBit_maskBelow _ hi]
    simp [conflicts, st, and_assoc]
  case compact =>
    exact ⟨_, execVcomp_next hlane ht f, rfl, fun r hr => vreg_setVreg_other _ hr _, vreg_setVreg_same _ _ _⟩
  case ret =>
    refine ⟨_, execVret_next hlane va, rfl, fun t ht hlen => ⟨_, rfl, fun e x => ?_⟩⟩
    rw [deliveredWidth_eq ht]
    exact mem_delivered hwf hlen va t.bits e x

end Sys2Proof.Proofs

/-!
PROOFS. Sparse tiles (the statement TrailInstructions, R211 to R227): the entries of a structure, the trails that an invalidation and an
eviction leave, how TPAT, TINV and TDENS issue, and how a TPAT performs.
-/
namespace Sys2Proof.Proofs

open Sys2Proof Sys2Proof.Machine Sys2Proof.Laws
open Host (Outcome)

/-! ## Pointers and entries of a structure (R212, R222) -/

section Rows
variable {o : Operand} (hskips : o.skips = [])
include hskips

theorem rowOut_of_skips (m : Nat) : o.rowOut m = false := by rw [Operand.rowOut, hskips]; rfl

theorem entryOut_of_skips (q : Nat) : o.entryOut q = false := by rw [Operand.entryOut, hskips]; rfl

/-- No row is bad where no pointer falls. -/
theorem badRow_eq_none_iff (m : Nat) (ptr : List Int) :
    badRow o m ptr = none ↔ ∀ i, i + 1 < ptr.length → ptr.getD i 0 ≤ ptr.getD (i + 1) 0 := by
  induction ptr generalizing m with
  | nil => simp [badRow]
  | cons a l ih =>
    cases l with
    | nil => simp [badRow]
    | cons b r =>
      have hstep : badRow o m (a :: b :: r) = none ↔ a ≤ b ∧ badRow o (m + 1) (b :: r) = none := by
        by_cases hab : b < a
        · simp [badRow, rowOut_of_skips hskips, hab]
        · simp [badRow, hab, not_lt.1 hab]
      rw [hstep, ih]
      constructor
      · rintro ⟨hab, hr⟩ (_ | i) hi
        · exact hab
        · exact hr i (Nat.lt_of_succ_lt_succ hi)
      · exact fun h => ⟨h 0 (by simp), fun i hi => h (i + 1) (Nat.succ_lt_succ hi)⟩

/-- The entries of the rows from `m` on: entry q belongs to the row whose pointers enclose it. -/
theorem mem_rowEntries_from (m : Nat) (ptr : List Int) (e : Nat × Nat) :
    e ∈ rowEntries o m ptr ↔
      ∃ i, e.2 = m + i ∧ i + 1 < ptr.length ∧ ptr.getD i 0 ≤ e.1 ∧ (e.1 : Int) < ptr.getD (i + 1) 0 := by
  induction ptr generalizing m with
  | nil => simp [rowEntries]
  | cons a l ih =>
    cases l with
    | nil => simp [rowEntries]
    | cons b r =>
      have hrow : e ∈ (List.range (b.toNat - a.toNat)).map (fun i => (a.toNat + i, m)) ↔ e.2 = m ∧ a ≤ e.1 ∧ (e.1 : Int) < b := by
        obtain ⟨q, k⟩ := e
        simp only [List.mem_map, List.mem_range, Prod.mk.injEq]
        constructor
        · rintro ⟨i, hi, rfl, rfl⟩
          omega
        · rintro ⟨rfl, ha, hb⟩
          exact ⟨q - a.toNat, by omega, by omega, rfl⟩
      rw [rowEntries, rowOut_of_skips hskips, if_neg Bool.false_ne_true, List.mem_append, hrow, ih]
      constructor
      · rintro (⟨rfl, h⟩ | ⟨i, hi, hlen, h⟩)
        · exact ⟨0, rfl, by simp, h⟩
        · exact ⟨i + 1, by omega, Nat.succ_lt_succ hlen, h⟩
      · rintro ⟨_ | i, hi, hlen, h⟩
        · exact .inl ⟨hi, h⟩
        · exact .inr ⟨i, by omega, Nat.lt_of_succ_lt_succ hlen, h⟩

theorem mem_rowEntries (ptr : List Int) (q m : Nat) :
    (q, m) ∈ rowEntries o 0 ptr ↔ m + 1 < ptr.length ∧ ptr.getD m 0 ≤ q ∧ (q : Int) < ptr.getD (m + 1) 0 := by
  simp [mem_rowEntries_from hskips]

/-- Where no pointer falls, the rows' entries follow on each other from the first pointer to the last. -/
theorem rowEntries_map_fst (m n : Nat) (ptr : List Int) (hlen : ptr.length = n + 1)
    (hmono : ∀ i < n, ptr.getD i 0 ≤ ptr.getD (i + 1) 0) :
    (ptr.getD 0 0).toNat ≤ (ptr.getD n 0).toNat ∧ (rowEntries o m ptr).map Prod.fst =
      List.range' (ptr.getD 0 0).toNat ((ptr.getD n 0).toNat - (ptr.getD 0 0).toNat) := by
  induction n generalizing m ptr with
  | zero =>
    obtain ⟨a, rfl⟩ := List.length_eq_one_iff.1 hlen
    simp [rowEntries]
  | succ n ih =>
    obtain _ | ⟨a, _ | ⟨b, r⟩⟩ := ptr
    · simp at hlen
    · simp at hlen
    · obtain ⟨hlast, hrest⟩ := ih (m + 1) (b :: r) (Nat.succ.inj hlen) fun i hi => hmono (i + 1) (Nat.succ_lt_succ hi)
      have hab : a.toNat ≤ b.toNat := Int.toNat_le_toNat (hmono 0 (Nat.succ_pos n))
      simp only [List.getD_cons_zero, List.getD_cons_succ] at hlast hrest ⊢
      refine ⟨hab.trans hlast, ?_⟩
      have hrow : ((List.range (b.toNat - a.toNat)).map fun i => (a.toNat + i, m)).map Prod.fst =
          List.range' a.toNat (b.toNat - a.toNat) := by
        rw [List.map_map, List.range'_eq_map_range]
        rfl
      rw [rowEntries, rowOut_of_skips hskips, if_neg Bool.false_ne_true, List.map_append, hrow, hrest]
      calc List.range' a.toNat (b.toNat - a.toNat) ++ List.range' b.toNat (((b :: r).getD n 0).toNat - b.toNat)
          = List.range' a.toNat (b.toNat - a.toNat + (((b :: r).getD n 0).toNat - b.toNat)) := by
            rw [← List.range'_append_1, Nat.add_sub_cancel' hab]
        _ = List.range' a.toNat (((b :: r).getD n 0).toNat - a.toNat) := by congr 1; omega

/-- Where moreover the first pointer is 0, they are all entries below the last one. -/
theorem rowEntries_range {n : Nat} {ptr : List Int} (hlen : ptr.length = n + 1) (hzero : ptr.getD 0 0 = 0)
    (hmono : ∀ i < n, ptr.getD i 0 ≤ ptr.getD (i + 1) 0) :
    (rowEntries o 0 ptr).map Prod.fst = List.range (ptr.getD n 0).toNat := by
  rw [(rowEntries_map_fst hskips 0 n ptr hlen hmono).2, hzero, Int.toNat_zero, Nat.sub_zero, ← List.range_eq_range']

end Rows

/-! ## A structure that is well formed, and one that is not (R222) -/

/-- The pointers start at 0 and never fall, and the columns lie below COLS. -/
def structureWf (d : Desc) (r : RawStructure) : Prop :=
  r.ptr.getD 0 0 = 0 ∧ (∀ m < d.rows, r.ptr.getD m 0 ≤ r.ptr.getD (m + 1) 0) ∧
    ∀ q < (r.ptr.getD d.rows 0).toNat, 0 ≤ r.idx.getD q 0 ∧ r.idx.getD q 0 < d.cols

/-- Whether a column lies outside the structure. -/
def columnOut (d : Desc) (r : RawStructure) (q : Nat) : Prop := r.idx.getD q 0 < 0 ∨ (d.cols : Int) ≤ r.idx.getD q 0

theorem not_columnOut {d : Desc} {r : RawStructure} {q : Nat} :
    ¬columnOut d r q ↔ 0 ≤ r.idx.getD q 0 ∧ r.idx.getD q 0 < d.cols := by
  simp only [columnOut, not_or, not_lt, not_le]

/-- An entry as an instruction uses it, with its row and its column. -/
def entryAt (r : RawStructure) (e : Nat × Nat) : Nat × Nat × Nat := (e.1, e.2, (r.idx.getD e.1 0).toNat)

section Entries
variable {o : Operand} (hskips : o.skips = []) (s : State) (d : Desc) {r : RawStructure}
include hskips

/-- The three checks of R222 in their order: the first pointer, the rows, the columns. -/
theorem entriesOf_passes (hzero : r.ptr.getD 0 0 = 0) (hrow : badRow o 0 r.ptr = none)
    (hcol : ∀ e ∈ rowEntries o 0 r.ptr, ¬columnOut d r e.1) :
    entriesOf s d o r = (.ok ((rowEntries o 0 r.ptr).map (entryAt r)), s) := by
  have hfind : (rowEntries o 0 r.ptr).find?
      (fun e => r.idx.getD e.1 0 < 0 || decide ((d.cols : Int) ≤ r.idx.getD e.1 0)) = none := by
    rw [List.find?_eq_none]
    intro e he
    simpa [columnOut] using hcol e he
  have hhead : r.ptr.headD 0 = 0 := by rw [← hzero]; cases r.ptr <;> rfl
  simp only [entriesOf, hhead, hrow, entryOut_of_skips hskips, Bool.not_false, List.filter_true, hfind]
  rfl

/-- Whichever check fails, the trap is BOUND. -/
theorem entriesOf_bound (h : ¬(r.ptr.getD 0 0 = 0 ∧ badRow o 0 r.ptr = none ∧ ∀ e ∈ rowEntries o 0 r.ptr, ¬columnOut d r e.1)) :
    ∃ t u, entriesOf s d o r = (.error (.trap t), u) ∧ t.cause = .bound := by
  have hhead : r.ptr.headD 0 = r.ptr.getD 0 0 := by cases r.ptr <;> rfl
  rw [entriesOf, hhead]
  by_cases hzero : r.ptr.getD 0 0 = 0
  · rw [hzero, if_neg (by simp)]
    cases hrow : badRow o 0 r.ptr with
    | some x => exact ⟨_, _, rfl, rfl⟩
    | none =>
      obtain ⟨e, hfind⟩ : ∃ e, (rowEntries o 0 r.ptr).find?
          (fun e => r.idx.getD e.1 0 < 0 || decide ((d.cols : Int) ≤ r.idx.getD e.1 0)) = some e := by
        rw [← Option.isSome_iff_exists, List.find?_isSome]
        by_contra hnone
        exact h ⟨hzero, hrow, fun e he hout => hnone ⟨e, he, by simpa [columnOut] using hout⟩⟩
      simp only [entryOut_of_skips hskips, Bool.not_false, List.filter_true, hfind]
      exact ⟨_, _, rfl, rfl⟩
  · rw [rowOut_of_skips hskips, if_pos (by rw [decide_eq_true hzero]; rfl)]
    exact ⟨_, _, rfl, rfl⟩

end Entries

theorem structureWf_iff {o : Operand} (hskips : o.skips = []) {d : Desc} {r : RawStructure} (hlen : r.ptr.length = d.rows + 1) :
    structureWf d r ↔ r.ptr.getD 0 0 = 0 ∧ badRow o 0 r.ptr = none ∧ ∀ e ∈ rowEntries o 0 r.ptr, ¬columnOut d r e.1 := by
  rw [structureWf, badRow_eq_none_iff hskips, hlen]
  simp only [Nat.add_lt_add_iff_right]
  refine and_congr_right fun hzero => and_congr_right fun hmono => ?_
  simp only [not_columnOut, ← List.mem_range, ← rowEntries_range hskips hlen hzero hmono, List.forall_mem_map]

/-- The entries of a well-formed structure (R212). -/
theorem entriesOf_wf {o : Operand} (hskips : o.skips = []) (s : State) {d : Desc} {r : RawStructure} (hlen : r.ptr.length = d.rows + 1)
    (h : structureWf d r) :
    ∃ es, entriesOf s d o r = (.ok es, s) ∧ es.map Prod.fst = List.range (r.ptr.getD d.rows 0).toNat ∧
      ∀ q m c, (q, m, c) ∈ es ↔ m < d.rows ∧ r.ptr.getD m 0 ≤ q ∧ (q : Int) < r.ptr.getD (m + 1) 0 ∧ (c : Int) = r.idx.getD q 0 := by
  obtain ⟨hzero, hrow, hcol⟩ := (structureWf_iff hskips hlen).1 h
  obtain ⟨-, hmono, -⟩ := h
  refine ⟨_, entriesOf_passes hskips s d hzero hrow hcol, ?entries, fun q m c => ?member⟩
  case entries =>
    rw [List.map_map]
    exact rowEntries_range hskips hlen hzero hmono
  case member =>
    have hentry : (q, m, c) ∈ (rowEntries o 0 r.ptr).map (entryAt r) ↔
        (q, m) ∈ rowEntries o 0 r.ptr ∧ (r.idx.getD q 0).toNat = c := by
      simp [entryAt]
    have hc : (q, m) ∈ rowEntries o 0 r.ptr → ((r.idx.getD q 0).toNat = c ↔ (c : Int) = r.idx.getD q 0) := fun hq => by
      have hcolumn : 0 ≤ r.idx.getD q 0 := (not_columnOut.1 (hcol _ hq)).1
      omega
    rw [hentry, and_congr_right hc, mem_rowEntries hskips, hlen, Nat.add_lt_add_iff_right, and_assoc, and_assoc]

/-! ## Trails that an invalidation and an eviction leave (R216, R225) -/

/-- An invalidation leaves what it does not hit and what is doomed, and dooms what compiles. -/
theorem mem_breakTrails {ts : List Trail} {hit : Trail → Bool} {t : Trail} :
    t ∈ breakTrails ts hit ↔ (t ∈ ts ∧ (hit t = true → t.st = .doomed)) ∨
      ∃ u ∈ ts, hit u = true ∧ u.st = .compiling ∧ t = { u with st := .doomed } := by
  simp only [breakTrails, List.mem_map, List.mem_filter]
  constructor
  · rintro ⟨u, ⟨hu, hkept⟩, rfl⟩
    by_cases hdoom : (hit u && u.st == .compiling) = true
    · rw [if_pos hdoom]
      obtain ⟨hhit, hst⟩ := Bool.and_eq_true_iff.1 hdoom
      exact .inr ⟨u, hu, hhit, beq_iff_eq.1 hst, rfl⟩
    · rw [if_neg hdoom]
      refine .inl ⟨hu, fun hhit => ?_⟩
      cases hst : u.st with
      | doomed => rfl
      | compiling => simp [hhit, hst] at hdoom
      | resident => simp [hhit, hst] at hkept
  · rintro (⟨ht, hdoomed⟩ | ⟨u, hu, hhit, hst, rfl⟩)
    · refine ⟨t, ?_⟩
      cases hhit : hit t with
      | false => simp [ht]
      | true => simp [ht, hdoomed hhit]
    · exact ⟨u, by simp [hu, hhit, hst]⟩

/-- Eviction only takes trails away. -/
theorem trailEvict_subset (ts : List Trail) (cluster : BitVec 5) (need fuel : Nat) : trailEvict ts cluster need fuel ⊆ ts := by
  induction fuel generalizing ts with
  | zero => exact List.Subset.refl ts
  | succ k ih =>
    unfold trailEvict
    split
    · exact List.Subset.refl ts
    · split
      · exact List.Subset.refl ts
      · exact List.Subset.trans (ih _) (List.filter_subset_self _)

/-! ## TPAT, TINV and TDENS issue (R224, R225, R227) -/

section Issue
variable {s : State} (h : issuesTile s)
include h

theorem execTpat_aligned {sa : BitVec 6} (ha : (getS s sa).toNat % 64 = 0) :
    execTpat sa s = .next (inFlight s s.me { cflight (.tpat sa) with addr := getS s sa }) := by
  rw [execTpat, enterWindow_issues h]
  dsimp only
  rw [if_pos ha]
  exact congrArg _ (checkedLaunch_issues h _ fun _ => { cflight (.tpat sa) with addr := getS s sa })

theorem execTpat_unaligned {sa : BitVec 6} (ha : (getS s sa).toNat % 64 ≠ 0) :
    execTpat sa s = .next (seqTrap s (wordOf (.tpat sa)) { cause := .strideAlign, tval := getS s sa }) := by
  rw [execTpat, enterWindow_issues h]
  dsimp only
  rw [if_neg ha, alignTrap, checked_some]

/-- TDENS of a tile that has a version: a handle, then the address. -/
theorem execTdens_eq {t : BitVec 5} {sa : BitVec 6} {v : Version} (hv : current s.me t = some v) :
    execTdens t sa s = .next (checked s (wordOf (.tdens t sa))
      (firstOf [typeUnless (isHandle v.geom) t, if (getS s sa).toNat % 16 = 0 then none else alignTrap (getS s sa)])
      fun u => launchFlight u { cflight (.tdens t sa) with addr := getS s sa, ta := curId u.me t, kind := .stq }) := by
  rw [execTdens, enterWindow_issues h]
  dsimp only
  rw [needVersion_of_current hv, geomOf_of_current hv, firstOf_none_cons]

theorem execTdens_issues {t : BitVec 5} {sa : BitVec 6} {v : Version} (hv : current s.me t = some v) (hhandle : isHandle v.geom = true)
    (ha : (getS s sa).toNat % 16 = 0) :
    execTdens t sa s = .next (inFlight s s.me { cflight (.tdens t sa) with addr := getS s sa, ta := some v.id, kind := .stq }) := by
  rw [execTdens_eq h hv, hhandle, if_pos ha, typeUnless_true, firstOf_pass rfl rfl, ← curId_of_current hv]
  exact congrArg _ (checkedLaunch_issues h _ _)

theorem execTdens_unaligned {t : BitVec 5} {sa : BitVec 6} {v : Version} (hv : current s.me t = some v)
    (hhandle : isHandle v.geom = true) (ha : (getS s sa).toNat % 16 ≠ 0) :
    execTdens t sa s = .next (seqTrap s (wordOf (.tdens t sa)) { cause := .strideAlign, tval := getS s sa }) := by
  rw [execTdens_eq h hv, hhandle, if_neg ha, typeUnless_true, firstOf_none_cons, alignTrap, firstOf_some_cons, checked_some]

theorem execTdens_noHandle {t : BitVec 5} {sa : BitVec 6} {v : Version} (hv : current s.me t = some v)
    (hhandle : isHandle v.geom = false) :
    execTdens t sa s = .next (seqTrap s (wordOf (.tdens t sa)) { cause := .type, tval := t.setWidth 64 }) := by
  have htype : typeUnless false t = some { cause := .type, tval := t.setWidth 64 } := by
    rw [typeUnless, if_neg Bool.false_ne_true, typeTrap, BitVec.ofNat_toNat]
  rw [execTdens_eq h hv, hhandle, htype, firstOf_some_cons, checked_some]

end Issue

/-- TINV at a multiple of 64 changes the trails alone (R225). -/
theorem execTinv_aligned {s : State} {sa : BitVec 6} (ha : (getS s sa).toNat % 64 = 0) :
    ∃ l, execTinv sa s = .next (advance { s with trails := l }) ∧
      ∀ t, t ∈ l ↔ (t ∈ s.trails ∧ (t.ctx = s.me.ctx ∧ t.desc = getS s sa → t.st = .doomed)) ∨
        ∃ u ∈ s.trails, (u.ctx = s.me.ctx ∧ u.desc = getS s sa) ∧ u.st = .compiling ∧ t = { u with st := .doomed } := by
  refine ⟨_, if_pos ha, fun t => ?_⟩
  simp only [mem_breakTrails, Bool.and_eq_true, beq_iff_eq]

theorem execTinv_unaligned {s : State} {sa : BitVec 6} (ha : (getS s sa).toNat % 64 ≠ 0) :
    execTinv sa s = .next (seqTrap s (wordOf (.tinv sa)) { cause := .strideAlign, tval := getS s sa }) := if_neg ha

/-! ## Performing a TPAT (R224) -/

theorem patMeets_clear {s s0 : State} {f : Flight} {va n : Nat} {segs : List Seg}
    (h : accessRanges s [(va, n)] .read .tile true (some f) = (.ok segs, s0)) (hns : segs.any Seg.ns = false) :
    patMeets s f va n = .clear := by
  rw [patMeets, h]
  dsimp only
  rw [hns, if_neg Bool.false_ne_true]

/-- Nothing is in the way of no bytes. -/
theorem patMeets_empty (s : State) (f : Flight) (va : Nat) : patMeets s f va 0 = .clear := by
  have hacc : accessRanges s [(va, 0)] .read .tile true (some f) = (.ok [], s) :=
    accessSegs_read (segs := []) (reads := true) rfl (by simp)
  exact patMeets_clear hacc rfl

theorem patAfter_ends {s0 s k : State} {f : Flight} {va n : Nat} (h : patMeets s f va n = .ends) :
    patAfter s0 s f va n k = flightDone s0 f := by rw [patAfter, h]

theorem patAfter_clear {s0 s k : State} {f : Flight} {va n : Nat} (h : patMeets s f va n = .clear) : patAfter s0 s f va n k = k := by
  rw [patAfter, h]

section Descriptor
variable {s s0 : State} {f : Flight} {g : Seg} {l : List Seg}
  (hacc : accessRanges s [(f.addr.toNat, 64)] .read .tile true (some f) = (.ok (g :: l), s0)) (hns : (g :: l).any Seg.ns = false)
  (hplain : (descOf f.addr.toNat (homeNat s0 g.pa 64)).valt ≠ 16)
include hacc hns hplain

/-- A descriptor whose page is not in the way and that names no plane table is read. -/
theorem runTpat_error {h : Halt} {s1 : State} (hread : readDesc s f.addr.toNat f = (.error h, s1)) : runTpat s f = flightDone s f := by
  simp only [runTpat, patAfter_clear (patMeets_clear hacc hns), hacc, if_neg hplain, patAfter_clear (patMeets_empty ..), hread]

theorem runTpat_desc {d : Desc} {s1 : State} (hread : readDesc s f.addr.toNat f = (.ok d, s1)) :
    runTpat s f = runTpatDesc s s1 f d := by
  simp only [runTpat, patAfter_clear (patMeets_clear hacc hns), hacc, if_neg hplain, patAfter_clear (patMeets_empty ..), hread]

end Descriptor

section Structure
variable {s0 s : State} {f : Flight} {d : Desc}

theorem runTpatDesc_found (h : (lookupTrail s (slotCluster s.me.slot) s.me.ctx d).isSome = true) :
    runTpatDesc s0 s f d = flightDone s f := by rw [runTpatDesc, if_pos h]

theorem runTpatDesc_missing (hmiss : (lookupTrail s (slotCluster s.me.slot) s.me.ctx d).isSome = false)
    (hptr : patMeets s f d.ptr (4 * (d.rows + 1)) = .ends) : runTpatDesc s0 s f d = flightDone s0 f := by
  simp only [runTpatDesc, hmiss, Bool.false_eq_true, if_false, patAfter_ends hptr]

/-- Where nothing is in the way of the pointers and the columns, the structure is read and the path of R215 taken. -/
theorem runTpatDesc_reads (hmiss : (lookupTrail s (slotCluster s.me.slot) s.me.ctx d).isSome = false)
    (hptr : patMeets s f d.ptr (4 * (d.rows + 1)) = .clear) {pb : List Byte} {s2 : State}
    (hpb : readX false s f d.ptr (4 * (d.rows + 1)) = (.ok pb, s2))
    (hidx : patMeets s f d.idx (2 * entryCount ⟨0, 0, []⟩ (intsOf 4 (d.rows + 1) pb)) = .clear) {raw : RawStructure} {s3 : State}
    (hraw : readRaw true s f d ⟨0, 0, []⟩ = (.ok raw, s3)) {es : List (Nat × Nat × Nat)} {s4 : State}
    (hes : entriesOf s3 d ⟨0, 0, []⟩ raw = (.ok es, s4)) :
    runTpatDesc s0 s f d = flightDone (if pathOf s4.me d.rows d.cols es = .trail then (startCompile s4 d es).2 else s4) f := by
  simp only [runTpatDesc, hmiss, Bool.false_eq_true, if_false, patAfter_clear hptr, hpb, patAfter_clear hidx, hraw, andThen, hes]

end Structure

/-! ## The statement -/

/-- Settles O36: the issues, the trails that TINV leaves (`mem_breakTrails`), the run of a TPAT one range after the other, and the entries of
a structure by its three checks (`structureWf_iff`). -/
theorem trailInstructions : Obligations.TrailInstructions := by
  unfold Obligations.TrailInstructions
  refine ⟨fun s h => ⟨fun sa => ⟨fun ha => ⟨execTpat_aligned h ha, ?invalidates⟩, fun ha i hi => ?unaligned⟩, fun t sa v hv =>
      ⟨execTdens_issues h hv, execTdens_unaligned h hv, execTdens_noHandle h hv⟩⟩,
    fun s f c hins => ?performs,
    fun s d o r hskips hlen => ⟨entriesOf_wf hskips s hlen, fun hbad =>
      entriesOf_bound hskips s d fun hchecks => hbad ((structureWf_iff hskips hlen).2 hchecks)⟩⟩
  case invalidates =>
    obtain ⟨l, hexec, hmem⟩ := execTinv_aligned ha
    refine ⟨l, hexec, fun t ht hat => (hmem t).2 (.inl ⟨ht, fun h => absurd h hat⟩),
      fun t ht hat hst => (hmem _).2 (.inr ⟨t, ht, hat, hst, rfl⟩), fun t ht hat => ?_, fun t ht => ((hmem t).1 ht).imp_left And.left⟩
    rcases (hmem t).1 ht with ⟨-, hdoomed⟩ | ⟨u, -, -, -, rfl⟩
    · exact hdoomed hat
    · rfl
  case unaligned =>
    simp only [List.mem_cons, List.not_mem_nil, or_false] at hi
    rcases hi with rfl | rfl
    · exact execTpat_unaligned h ha
    · exact execTinv_unaligned ha
  case performs =>
    have hrun : performFlight s f = runTpat s f := by rw [performFlight, hins]
    rw [hrun]
    refine ⟨patAfter_ends, fun g l s0 hacc hns hplain => ⟨fun h s1 => runTpat_error hacc hns hplain, fun d s1 hread => ?_⟩⟩
    rw [runTpat_desc hacc hns hplain hread]
    refine ⟨runTpatDesc_found, fun hmiss => ⟨runTpatDesc_missing hmiss,
      fun pb s2 raw s3 es s4 hptr hpb hidx hraw hes => ?_⟩⟩
    rw [runTpatDesc_reads hmiss hptr hpb hidx hraw hes]
    refine ⟨fun hpath => by rw [if_neg hpath], fun hpath => ?_⟩
    rw [if_pos hpath]
    exact ⟨(startCompile s4 d es).1, _, rfl, rfl, rfl, rfl, rfl, rfl, rfl, rfl, fun _ hx => trailEvict_subset _ _ _ _ hx, rfl⟩

end Sys2Proof.Proofs

/-!
PROOFS. SAMO (the statement SamoCompletes, R235, R247, R399): what it does at the home slice, what it leaves of the copies, and what it
asks for beyond the package.
-/
namespace Sys2Proof.Proofs

open Sys2Proof Sys2Proof.Machine Sys2Proof.Laws
open Host (Outcome)

/-! ## The ten operations (R68, R247) -/

/-- The SAMO with an operation. -/
def samoInstr (op : AmoOp) (f : SamoF) : Instr :=
  match op with
  | .add => .samoAdd f | .swap => .samoSwap f | .cas => .samoCas f | .min => .samoMin f | .max => .samoMax f
  | .and => .samoAnd f | .or => .samoOr f | .xor => .samoXor f | .minu => .samoMinu f | .maxu => .samoMaxu f

/-- The operations in the order of their codes. -/
def amoOps : List AmoOp := [.add, .swap, .cas, .min, .max, .and, .or, .xor, .minu, .maxu]

theorem forall_amoOps {α : Type} {P : α → Prop} (g : AmoOp → α) (h : ∀ op, P (g op)) : ∀ x ∈ amoOps.map g, P x :=
  List.forall_mem_map.2 fun op _ => h op

/-- The bytes that a SAMO is about. -/
def samoBytes (f : SamoF) : Nat := if f.w32 then 4 else 8

theorem exec_samoInstr (op : AmoOp) (f : SamoF) (s : State) : exec (samoInstr op f) s = runSamo op (samoInstr op f) f s := by
  cases op <;> rfl

@[simp] theorem samo_samoInstr (op : AmoOp) (f : SamoF) : Instr.samo (samoInstr op f) = some (op, f) := by cases op <;> rfl

theorem samoBits_eq (f : SamoF) : samoBits f = 8 * samoBytes f := by
  unfold samoBits samoBytes
  split <;> rfl

theorem samoBytes_eq_four (f : SamoF) : (samoBytes f == 4) = f.w32 := by
  unfold samoBytes
  cases f.w32 <;> rfl

theorem onHost_iff (op : AmoOp) : op.onHost = true ↔ op.code < 3 := by cases op <;> decide

theorem code_eq_two (op : AmoOp) : op.code = 2 ↔ op = .cas := by cases op <;> decide

/-- An operation's new value fits where its operands do. -/
theorem amoNew_lt (op : AmoOp) {n old b : Nat} (d : Nat) (hold : old < 2 ^ n) (hb : b < 2 ^ n) : amoNew op n old b d < 2 ^ n := by
  have hchoice : ∀ (c : Prop) [Decidable c], (if c then b else old) < 2 ^ n := fun c _ => by split <;> assumption
  cases op with
  | add => exact Nat.mod_lt _ (Nat.two_pow_pos n)
  | swap => exact hb
  | and => exact Nat.and_lt_two_pow old hb
  | or => exact Nat.or_lt_two_pow hold hb
  | xor => exact Nat.xor_lt_two_pow hold hb
  | cas | min | max | minu | maxu => exact hchoice _

/-! ## What decides about a copy and a write (R106, R237) -/

theorem expose_frame (s : State) : expose s = { s with me := (expose s).me } := by
  unfold expose
  split <;> rfl

theorem walkFrom_of_mem {s u : State} (h : u.mem = s.mem) (va level a : Nat) : walkFrom u va level a = walkFrom s va level a := by
  have hword : homeNat u = homeNat s := by
    funext pa n
    rw [homeNat, homeRead, h]
    rfl
  induction level generalizing a with
  | zero =>
    have hentry : leafEntry u = leafEntry s := by
      funext line i
      rw [leafEntry, hword]
      rfl
    simp only [walkFrom]
    rw [hentry]
  | succ k ih =>
    simp only [walkFrom, ih]
    rw [hword]

/-- Whether a line is bound rests on the page tables and the contexts. -/
theorem boundLine_congr {s u : State} (hmem : u.mem = s.mem) (hctx : u.contexts = s.contexts) (ctx : BitVec 6) (line : Nat) :
    boundLine u ctx line = boundLine s ctx line := by
  have hwalk : ∀ va, walk u ctx va = walk s ctx va := fun va => by simp only [walk, walkFrom_of_mem hmem, getCtx_of_contexts hctx]
  have hmapped : ∀ va n, lineMapped u ctx va n line = lineMapped s ctx va n line := fun va n => by
    induction n generalizing va with
    | zero => rfl
    | succ k ih => simp only [lineMapped, hwalk, ih]
  simp only [boundLine, getCtx_of_contexts hctx, hmapped]

/-! ## The read-modify-write at the home slice (R232, R247) -/

theorem withMode_same {s : State} {m : Bool} (h : m = s.me.inHandler) : { s with me := { s.me with inHandler := m } } = s := by
  rw [h]

/-- A write in the block's own mode. -/
theorem setIn_same (s : State) (r : BitVec 6) (v : Word) : setIn s s.me.inHandler r v = setS s r v := by
  rw [setIn, withMode_same rfl]
  exact withMode_same (setS_me_inHandler s r v).symm

section HomeSlice
variable (s : State) (pa : Nat) (op : AmoOp) (f : SamoF) (b d : Nat)

/-- The value that the home slice holds. -/
def amoOld : Nat := memNat s.mem pa (samoBytes f)

/-- The state after the operation has been performed on the bytes at `pa` and the core's line there has gone. -/
def amoWritten : State :=
  dropCache (homeWrite s (.sync s.me.slot) pa (leBytes (samoBytes f) (amoNew op (8 * samoBytes f) (amoOld s pa f) b d)))
    (slotCore s.me.slot) fun l => l == lineOf pa

/-- The acquire point of a SAMO with AQ (R235). -/
def samoAcquired : State := if f.aq then acquireAt s s.me.slot f.scope else s

variable {s pa op f b d}

@[simp] theorem amoWritten_me : (amoWritten s pa op f b d).me = s.me := homeWrite_me _ _ _ _

@[simp] theorem amoWritten_others : (amoWritten s pa op f b d).others = s.others := homeWrite_others _ _ _ _

theorem amoWritten_mem : (amoWritten s pa op f b d).mem =
    memStore s.mem pa (leBytes (samoBytes f) (amoNew op (8 * samoBytes f) (amoOld s pa f) b d)) := by
  rw [amoWritten, dropCache_mem, (homeWrite_frame _ _ _ _).1]

theorem amoWritten_dropped {c : CacheLine} (hc : c ∈ (amoWritten s pa op f b d).cache) (hcore : c.core = slotCore s.me.slot) :
    c.line ≠ lineOf pa := by
  simp only [amoWritten, dropCache, List.mem_filter] at hc
  simpa [hcore] using hc.2

@[simp] theorem samoAcquired_me : (samoAcquired s f).me = if f.aq then dropPrefetch s.me else s.me := by
  unfold samoAcquired
  split
  · exact acquireAt_me s f.scope
  · rfl

@[simp] theorem samoAcquired_mem : (samoAcquired s f).mem = s.mem := by
  unfold samoAcquired
  split
  · exact acquireAt_mem s _ f.scope
  · rfl

@[simp] theorem samoAcquired_others : (samoAcquired s f).others = s.others := by
  unfold samoAcquired
  split
  · exact acquireAt_others s f.scope
  · rfl

theorem samoAcquired_contexts : (samoAcquired s f).contexts = s.contexts := by
  unfold samoAcquired
  split
  · rw [acquireAt_eq]
  · rfl

theorem samoAcquired_cache {c : CacheLine} (hc : c ∈ (samoAcquired s f).cache) : c ∈ s.cache ∧
    (c.core = slotCore s.me.slot → f.aq = true → f.scope ≠ .block → boundLine s s.me.ctx c.line = true ∧ c.unbound = false) := by
  unfold samoAcquired at hc
  split at hc
  next haq =>
    by_cases hsc : f.scope = .block
    · rw [hsc, (acquireAt_block_copies s).1] at hc
      exact ⟨hc, fun _ _ h => absurd hsc h⟩
    · obtain ⟨hin, hkept⟩ := (mem_acquireAt_cache hsc c).1 hc
      exact ⟨hin, fun hcore _ _ => hkept.resolve_left (not_not_intro hcore)⟩
  next haq => exact ⟨hc, fun _ h => absurd h haq⟩

theorem performAmo_eq {p : Posted} (hpa : p.pa = pa) (hmode : p.handler = s.me.inHandler) : performAmo s p op f b d =
    setS (samoAcquired (amoWritten s pa op f b d) f) f.sd (BitVec.ofInt 64 (readInt true (8 * samoBytes f) (amoOld s pa f))) := by
  have hbytes : 8 * samoBytes f / 8 = samoBytes f := Nat.mul_div_cancel_left _ (by decide)
  have hin : s.me.inHandler = (samoAcquired (amoWritten s pa op f b d) f).me.inHandler := by
    rw [samoAcquired_me, amoWritten_me]
    split <;> rfl
  rw [← setIn_same, ← hin, ← hmode, samoAcquired, amoWritten_me]
  simp only [performAmo, samoBits_eq, hbytes, hpa]
  rfl

/-- The home slice holds the new value. -/
theorem amoWritten_value (hwf : memWf s.mem = true) (hb : b < 2 ^ (8 * samoBytes f)) :
    memNat (amoWritten s pa op f b d).mem pa (samoBytes f) = amoNew op (8 * samoBytes f) (amoOld s pa f) b d := by
  have hbytes := memBytes_store_same hwf pa (leBytes (samoBytes f) (amoNew op (8 * samoBytes f) (amoOld s pa f) b d))
  rw [leBytes_length] at hbytes
  rw [memNat, amoWritten_mem, hbytes, leNat_leBytes, show 256 = 2 ^ 8 from rfl, ← Nat.pow_mul]
  exact Nat.mod_eq_of_lt (amoNew_lt op d (memNat_lt _ _ _) hb)

theorem amoWritten_outside (hwf : memWf s.mem = true) {a : Nat} (ha : a < pa ∨ pa + samoBytes f ≤ a) :
    memRead (amoWritten s pa op f b d).mem a = memRead s.mem a := by
  rw [amoWritten_mem]
  exact memRead_store_other hwf _ _ _ (by rwa [leBytes_length])

end HomeSlice

/-- An access of a SAMO whose bytes are sound performs its operation on what a peer has answered. -/
theorem takeScalar_samo {s : State} {p : Posted} {op : AmoOp} {f : SamoF} {b d : Nat} (hop : p.op = .amo (samoInstr op f) b d)
    (hsound : poisonedAt s p.pa p.n = false) :
    takeScalar s p = performAmo { s with mem := memStore s.mem p.pa p.answer } p op f b d := by
  simp [takeScalar, performScalar, hsound, hop]

/-! ## How a SAMO leaves the sequencer (R94, R235, R238, R399) -/

section Leaving
variable {s s1 : State} {f : SamoF} {t : TlbEntry}

/-- An operand of a SAMO, cut to its width. -/
def samoOperand (s : State) (f : SamoF) (r : BitVec 6) : Nat := (getS s r).toNat % 2 ^ (8 * samoBytes f)

/-- The physical address of a SAMO. -/
def samoPa (s : State) (f : SamoF) (t : TlbEntry) : Nat := t.pa (getS s f.sa).toNat

/-- The access that a SAMO makes. -/
def samoAccess (s : State) (f : SamoF) (t : TlbEntry) (op : AmoOp) : Posted :=
  { va := (getS s f.sa).toNat, pa := samoPa s f t, n := samoBytes f, cp := t.cp,
    op := .amo (samoInstr op f) (samoOperand s f f.sb) (samoOperand s f f.sd), handler := s.me.inHandler, mark := s.me.nextId }

/-- A SAMO in `s` reaches its bytes with nothing in its way; `s1` is the state after the translation. -/
structure SamoReaches (s s1 : State) (f : SamoF) (t : TlbEntry) : Prop where
  aligned : (getS s f.sa).toNat % samoBytes f = 0
  quiet : acquirePending s.me = false
  released : f.rl = true → releaseDone s s.me f.scope = true
  found : translate s (some (slotCore s.me.slot)) s.me.ctx (getS s f.sa).toNat .atomic .scalar = (.ok t, s1)
  unheld : lineHeld s1 (some s1.me.slot) (samoPa s f t) (samoBytes f) = false

theorem samoAccess_asks (op : AmoOp) :
    (samoAccess s f t op).asks = (regionOf (samoPa s f t) == .host || regionOf (samoPa s f t) == .peer) := rfl

theorem samoAccess_asks_far (op : AmoOp) (hfar : regionOf (samoPa s f t) = .host ∨ regionOf (samoPa s f t) = .peer) :
    (samoAccess s f t op).asks = true := by
  rw [samoAccess_asks]
  rcases hfar with h | h <;> rw [h] <;> rfl

theorem samoAccess_asks_near (op : AmoOp) (hnear : regionOf (samoPa s f t) = .hbm) : (samoAccess s f t op).asks = false := by
  rw [samoAccess_asks, hnear]
  rfl

theorem samoAccess_acquires (op : AmoOp) : (samoAccess s f t op).acquires = f.aq := by
  simp only [Posted.acquires, samoAccess, samo_samoInstr]

/-- The atomic request that a SAMO makes beyond the package; CAS's comparand comes first (log entry 20). -/
def samoRequest (s : State) (f : SamoF) (op : AmoOp) : ExtOp :=
  .atomic op.code f.w32
    (if op.code = 2 then leBytes (samoBytes f) (samoOperand s f f.sd) ++ leBytes (samoBytes f) (samoOperand s f f.sb)
      else leBytes (samoBytes f) (samoOperand s f f.sb))

theorem samoAccess_asking (op : AmoOp) : (samoAccess s f t op).asking = samoRequest s f op := by
  simp only [Posted.asking, samoAccess, samo_samoInstr, samoBytes_eq_four, samoRequest, code_eq_two]

theorem mustWait_of_empty {s : State} (h : s.me.posted = []) (p : Posted) : mustWait s p = false := by simp [mustWait, h]

theorem mustWait_of_deferred {s : State} {p : Posted} (hdefer : s.defer = true) (hasks : p.asks = false)
    (hacq : p.acquires = false) : mustWait s p = false := by simp [mustWait, hdefer, hasks, hacq]

/-- A SAMO that waits for no access of its stream leaves the sequencer, or traps where host memory does not admit it. -/
theorem SamoReaches.exec_eq (h : SamoReaches s s1 f t) (op : AmoOp) (hgo : mustWait s1 (samoAccess s f t op) = false) :
    exec (samoInstr op f) s =
      if regionOf (samoPa s f t) = .host ∧ !op.onHost then
        .next (seqTrap s1 (wordOf (samoInstr op f)) { cause := .type, tval := getS s f.sa })
      else .next (leaveScalar (expose s1) (samoAccess s f t op)) := by
  have hbytes : 8 * samoBytes f / 8 = samoBytes f := Nat.mul_div_cancel_left _ (by decide)
  have hrl : (f.rl && !releaseDone s s.me f.scope) = false := by
    cases hf : f.rl with
    | false => rfl
    | true => rw [h.released hf]; rfl
  have haddr : seqAddr s (getS s f.sa) .atomic = .ok (samoPa s f t) t.cp s1 := by rw [seqAddr, h.found]; rfl
  have hstay : (mustWait s1 (samoAccess s f t op) || lineHeld s1 (some s1.me.slot) (samoPa s f t) (samoBytes f)) = false := by
    rw [hgo, h.unheld]; rfl
  rw [exec_samoInstr]
  simp only [runSamo, samoBits_eq, hbytes, h.aligned, hrl, scalarAccess, h.quiet, haddr]
  exact if_neg (ne_true_of_eq_false hstay)

/-- Device memory admits every operation. -/
theorem SamoReaches.exec_near (h : SamoReaches s s1 f t) (op : AmoOp) (hgo : mustWait s1 (samoAccess s f t op) = false)
    (hnear : regionOf (samoPa s f t) = .hbm) :
    exec (samoInstr op f) s = .next (leaveScalar (expose s1) (samoAccess s f t op)) := by
  rw [h.exec_eq op hgo, if_neg (by simp [hnear])]

theorem leaveScalar_asks (s : State) {p : Posted} (h : p.asks = true) : leaveScalar s p =
    advance { (askScalar s p).2 with me := { (askScalar s p).2.me with posted := (askScalar s p).2.me.posted ++ [(askScalar s p).1] } } :=
  if_pos h

theorem leaveScalar_defers {s : State} {p : Posted} (hasks : p.asks = false) (hdefer : s.defer = true) (hacq : p.acquires = false) :
    leaveScalar s p = advance { s with me := { s.me with posted := s.me.posted ++ [p] } } := by
  simp [leaveScalar, hasks, hdefer, hacq]

theorem leaveScalar_performs {s : State} {p : Posted} (hasks : p.asks = false) (hnow : s.defer = false ∨ p.acquires = true) :
    leaveScalar s p = advance (takeScalar s p) := by
  rcases hnow with h | h <;> simp [leaveScalar, hasks, h]

end Leaving

/-! ## What a SAMO completes (R232, R235, R247) -/

section Completing
variable {s s1 : State} {f : SamoF} {t : TlbEntry}

/-- The state in which a SAMO has been performed at its home slice, before the register write. -/
def samoPerformed (s s1 : State) (f : SamoF) (t : TlbEntry) (op : AmoOp) : State :=
  samoAcquired (amoWritten (expose s1) (samoPa s f t) op f (samoOperand s f f.sb) (samoOperand s f f.sd)) f

/-- The value that sd receives. -/
def samoResult (s s1 : State) (f : SamoF) (t : TlbEntry) : Word :=
  BitVec.ofInt 64 (readInt true (8 * samoBytes f) (memNat s1.mem (samoPa s f t) (samoBytes f)))

/-- The state in which a SAMO has completed. -/
def samoDone (s s1 : State) (f : SamoF) (t : TlbEntry) (op : AmoOp) : State :=
  advance (setS (samoPerformed s s1 f t op) f.sd (samoResult s s1 f t))

theorem SamoReaches.inHandler_eq (h : SamoReaches s s1 f t) : s.me.inHandler = (expose s1).me.inHandler := by
  have hme := translate_me s (some (slotCore s.me.slot)) s.me.ctx (getS s f.sa).toNat .atomic .scalar
  rw [h.found] at hme
  rw [expose_me, ← hme]

theorem SamoReaches.exec_performs (h : SamoReaches s s1 f t) (op : AmoOp) (hempty : s1.me.posted = [])
    (hnow : s1.defer = false ∨ f.aq = true) (hsound : poisonedAt s1 (samoPa s f t) (samoBytes f) = false)
    (hnear : regionOf (samoPa s f t) = .hbm) : exec (samoInstr op f) s = .next (samoDone s s1 f t op) := by
  have hpoison : poisonedAt (expose s1) (samoAccess s f t op).pa (samoAccess s f t op).n = false := by
    rw [expose_frame]
    exact hsound
  have hleave : (expose s1).defer = false ∨ (samoAccess s f t op).acquires = true := by
    rw [samoAccess_acquires, expose_frame]
    exact hnow
  rw [h.exec_near op (mustWait_of_empty hempty _) hnear, leaveScalar_performs (samoAccess_asks_near op hnear) hleave,
    takeScalar_samo rfl hpoison]
  refine congrArg (fun u => Outcome.next (advance u)) ((performAmo_eq rfl h.inHandler_eq).trans ?_)
  rw [samoResult, amoOld, ← expose_mem s1]
  rfl

theorem samoDone_mem (op : AmoOp) : (samoDone s s1 f t op).mem =
    (amoWritten (expose s1) (samoPa s f t) op f (samoOperand s f f.sb) (samoOperand s f f.sd)).mem := by
  rw [samoDone, advance_mem, setS_mem, samoPerformed, samoAcquired_mem]

theorem samoDone_value (op : AmoOp) (hwf : memWf s1.mem = true) : memNat (samoDone s s1 f t op).mem (samoPa s f t) (samoBytes f) =
    amoNew op (8 * samoBytes f) (memNat s1.mem (samoPa s f t) (samoBytes f)) (samoOperand s f f.sb) (samoOperand s f f.sd) := by
  rw [← expose_mem s1] at hwf ⊢
  rw [samoDone_mem]
  exact amoWritten_value hwf (Nat.mod_lt _ (Nat.two_pow_pos _))

theorem samoDone_outside (op : AmoOp) (hwf : memWf s1.mem = true) {a : Nat}
    (ha : a < samoPa s f t ∨ samoPa s f t + samoBytes f ≤ a) : memRead (samoDone s s1 f t op).mem a = memRead s1.mem a := by
  rw [← expose_mem s1] at hwf ⊢
  rw [samoDone_mem]
  exact amoWritten_outside hwf ha

theorem samoDone_others (op : AmoOp) : (samoDone s s1 f t op).others = s1.others := by
  rw [samoDone, advance_others, setS_others, samoPerformed, samoAcquired_others, amoWritten_others, expose_frame]

theorem samoDone_me (op : AmoOp) :
    (samoDone s s1 f t op).me = (advance (setS (samoAcquired (expose s1) f) f.sd (samoResult s s1 f t))).me := by
  have hme : (samoPerformed s s1 f t op).me = (samoAcquired (expose s1) f).me := by
    rw [samoPerformed, samoAcquired_me, amoWritten_me, samoAcquired_me]
  exact congrArg Block.advance (setS_me_congr hme f.sd _)

theorem samoDone_position (op : AmoOp) :
    (samoDone s s1 f t op).me.slot = s1.me.slot ∧ (samoDone s s1 f t op).me.ctx = s1.me.ctx := by
  simp only [samoDone_me, advance, Block.advance, setS_me_slot, setS_me_ctx, samoAcquired_me, expose_me]
  split <;> exact ⟨rfl, rfl⟩

/-- The core's copy of the line has gone. -/
theorem samoDone_dropped (op : AmoOp) {c : CacheLine} (hc : c ∈ (samoDone s s1 f t op).cache)
    (hcore : c.core = slotCore s1.me.slot) : c.line ≠ lineOf (samoPa s f t) := by
  rw [samoDone, advance_cache, setS_cache] at hc
  exact amoWritten_dropped (samoAcquired_cache hc).1 (by rw [hcore, expose_me])

/-- Every copy that is left behind an acquire point is one that it may leave. -/
theorem samoDone_kept (op : AmoOp) {c : CacheLine} (hc : c ∈ (samoDone s s1 f t op).cache) (hcore : c.core = slotCore s1.me.slot)
    (haq : f.aq = true) (hscope : f.scope ≠ .block) :
    keptCopy (samoDone s s1 f t op) s1.me.slot c.line c.unbound = true := by
  obtain ⟨hslot, hctx⟩ := samoDone_position (s := s) (s1 := s1) (f := f) (t := t) op
  have hcontexts : (samoDone s s1 f t op).contexts =
      (amoWritten (expose s1) (samoPa s f t) op f (samoOperand s f f.sb) (samoOperand s f f.sd)).contexts := by
    rw [samoDone, advance_contexts, setS_contexts, samoPerformed, samoAcquired_contexts]
  rw [← hslot, keptCopy_me, hctx, boundLine_congr (samoDone_mem op) hcontexts]
  rw [samoDone, advance_cache, setS_cache] at hc
  obtain ⟨hbound, hun⟩ := (samoAcquired_cache hc).2 (by rw [amoWritten_me, hcore, expose_me]) haq hscope
  rw [amoWritten_me, expose_me] at hbound
  rw [hbound, hun]
  rfl

/-! ## What a SAMO leaves on its way (R94, R399, R406) -/

theorem SamoReaches.exec_defers (h : SamoReaches s s1 f t) (op : AmoOp) (haq : f.aq = false) (hdefer : s1.defer = true)
    (hnear : regionOf (samoPa s f t) = .hbm) : exec (samoInstr op f) s = .next (advance { expose s1 with
      me := { (expose s1).me with posted := (expose s1).me.posted ++ [samoAccess s f t op] } }) := by
  have hasks := samoAccess_asks_near (s := s) (f := f) op hnear
  have hacq : (samoAccess s f t op).acquires = false := (samoAccess_acquires op).trans haq
  have hd : (expose s1).defer = true := by rw [expose_frame]; exact hdefer
  rw [h.exec_near op (mustWait_of_deferred hdefer hasks hacq) hnear, leaveScalar_defers hasks hd hacq]

theorem extRequest_asks (s : State) (agent : ExtAgent) {pa : Nat} (op : ExtOp) (hfar : regionOf pa = .host ∨ regionOf pa = .peer) :
    ∃ r : ExtRequest, (extRequest s agent pa op).requests = s.requests ++ [r] ∧ r.tag = s.nextReq ∧ r.pa = pa ∧ r.op = op := by
  rcases hfar with h | h <;> simp only [extRequest, h] <;> exact ⟨_, rfl, rfl, rfl, rfl⟩

theorem SamoReaches.exec_requests (h : SamoReaches s s1 f t) (op : AmoOp) (hempty : s1.me.posted = [])
    (hfar : regionOf (samoPa s f t) = .host ∨ regionOf (samoPa s f t) = .peer)
    (hadmits : regionOf (samoPa s f t) = .peer ∨ op.onHost = true) :
    ∃ (u : State) (r : ExtRequest), exec (samoInstr op f) s = .next u ∧ u.requests = s1.requests ++ [r] ∧ r.tag = s1.nextReq ∧
      r.pa = samoPa s f t ∧ u.mem = s1.mem ∧ r.op = samoRequest s f op ∧
      u.me = { (expose s1).me.advance with posted := [{ samoAccess s f t op with req := some s1.nextReq }] } := by
  have hlocal : ¬(regionOf (samoPa s f t) = .host ∧ (!op.onHost) = true) := by
    rintro ⟨hhost, hop⟩
    rcases hadmits with hpeer | hon
    · exact absurd (hhost.symm.trans hpeer) (by decide)
    · simp [hon] at hop
  have hnone : (expose s1).me.posted = [] := by rw [expose_me]; exact hempty
  have hreqs : (expose s1).requests = s1.requests ∧ (expose s1).nextReq = s1.nextReq := by rw [expose_frame]; exact ⟨rfl, rfl⟩
  rw [h.exec_eq op (mustWait_of_empty hempty _), if_neg hlocal, leaveScalar_asks _ (samoAccess_asks_far op hfar)]
  obtain ⟨r, hr, htag, hpa, hop⟩ := extRequest_asks (expose s1) (.group (expose s1).me.gid (expose s1).me.slot none)
    (samoAccess s f t op).asking hfar
  rw [hreqs.1] at hr
  rw [hreqs.2] at htag
  refine ⟨_, r, rfl, hr, htag, hpa, ?_, hop.trans (samoAccess_asking op), ?_⟩
  · rw [advance_mem, askScalar_mem, expose_mem]
  · simp only [advance, askScalar, extRequest_me, hnone, hreqs.2]
    rfl

theorem SamoReaches.exec_refused (h : SamoReaches s s1 f t) (op : AmoOp) (hempty : s1.me.posted = [])
    (hhost : regionOf (samoPa s f t) = .host) (hop : op.onHost = false) : exec (samoInstr op f) s =
      .next (seqTrap s1 (wordOf (samoInstr op f)) { cause := .type, tval := getS s f.sa }) := by
  rw [h.exec_eq op (mustWait_of_empty hempty _), if_pos ⟨hhost, by rw [hop]; rfl⟩]

end Completing

/-! ## The answer to a SAMO (R404, R406) -/

/-- The access whose answer has come is the next to be performed. -/
theorem performPosted_answered {s : State} {p : Posted} {r : List Posted} (hposted : s.me.posted = p :: r)
    (hfree : postedFree s s.me.slot p = true) (hreq : p.req.isSome = true) :
    performPosted s = takeScalar { s with me := { s.me with posted := r } } p := by
  have hnone : p.req.isNone = false := by rw [Option.isNone_eq_false_iff]; exact hreq
  simp [performPosted, hposted, hfree, hnone]

/-- A SAMO gives its block the value that a peer has answered. -/
theorem takeScalar_answered_me {s : State} {p : Posted} {op : AmoOp} {f : SamoF} {b d : Nat} (hn : p.n = samoBytes f)
    (hlen : p.answer.length = p.n) (hmode : p.handler = s.me.inHandler) (hsound : poisonedAt s p.pa p.n = false)
    (hwf : memWf s.mem = true) (haq : f.aq = false) (hop : p.op = .amo (samoInstr op f) b d) :
    (takeScalar s p).me = (setS s f.sd (BitVec.ofInt 64 (readInt true (8 * p.n) (leNat p.answer)))).me := by
  have hold : memNat (memStore s.mem p.pa p.answer) p.pa (samoBytes f) = leNat p.answer := by
    rw [memNat, ← hn, ← hlen, memBytes_store_same hwf]
  have hperf := performAmo_eq (s := { s with mem := memStore s.mem p.pa p.answer }) (op := op) (f := f) (b := b) (d := d) rfl hmode
  rw [takeScalar_samo hop hsound, hperf, amoOld, hold, hn]
  refine setS_me_congr ?_ f.sd _
  rw [samoAcquired_me, amoWritten_me, haq]
  rfl

/-! ## The statement -/

/-- Settles O16: performed at the home slice (`SamoReaches.exec_performs`), on its way (`SamoReaches.exec_defers`), asked for beyond the
package (`SamoReaches.exec_requests`) or refused there (`SamoReaches.exec_refused`), and answered (`takeScalar_answered_me`). -/
theorem samoCompletes : Obligations.SamoCompletes := by
  unfold Obligations.SamoCompletes
  refine ⟨fun s s1 f t => ?issued, fun s f p r b d hposted hfree hreq hn hlen hmode hsound hwf haq => ?answered⟩
  case issued =>
    intro n va pa old b d x y e at_ haligned hquiet hreleased hfound hunheld hwf
    have h : SamoReaches s s1 f t := ⟨haligned, hquiet, hreleased, hfound, hunheld⟩
    refine ⟨fun hempty hnow hsound hnear => ?performed, fun haq hdefer hnear => ?deferred, fun hfar hempty => ?beyond⟩
    case performed =>
      refine forall_amoOps (g := fun op => (samoInstr op f, amoNew op (8 * n) old b d)) fun op => ?_
      exact ⟨_, h.exec_performs op hempty hnow hsound hnear, samoDone_value op hwf, fun a => samoDone_outside op hwf,
        samoDone_others op, samoDone_me op, fun c hc hcore => ⟨samoDone_dropped op hc hcore, samoDone_kept op hc hcore⟩⟩
    case deferred =>
      exact forall_amoOps (g := fun op => samoInstr op f) fun op => h.exec_defers op haq hdefer hnear
    case beyond =>
      refine forall_amoOps (g := fun op => (samoInstr op f, op.code)) fun op => ⟨fun hadmits => ?_, fun hhost hop => ?_⟩
      · exact h.exec_requests op hempty hfar (hadmits.imp_right (onHost_iff op).2)
      · exact h.exec_refused op hempty hhost (Bool.eq_false_iff.2 fun hon => absurd ((onHost_iff op).1 hon) (by omega))
  case answered =>
    refine forall_amoOps (g := fun op => samoInstr op f) fun op hop => ?_
    rw [performPosted_answered hposted hfree hreq]
    exact takeScalar_answered_me hn hlen hmode hsound hwf haq hop

end Sys2Proof.Proofs
